-- ==== Sys2Proof/Word.lean ====
section
/-! DEFINITION. The word types of the PX1 block: the widths that the manual's registers, flits and lines have (R14, R20). -/

namespace Sys2Proof

/-- One byte. -/
abbrev Byte := BitVec 8
/-- A 16-bit lane, entry-table entry or BF16/FP16 encoding. -/
abbrev W16 := BitVec 16
/-- A 32-bit lane, accumulator entry or counter. -/
abbrev W32 := BitVec 32
/-- A 64-bit register, flag, global address (R20) or FP64 encoding. -/
abbrev W64 := BitVec 64
/-- A 128-bit mesh flit, local-store access or generator descriptor. -/
abbrev Flit := BitVec 128
/-- A 256-bit control word (R77), vector register (R40) or SM3 digest. -/
abbrev W256 := BitVec 256
/-- A 64-byte stack line (R296) or host command (R456), byte 0 in bits [7:0]. -/
abbrev Line := BitVec 512

end Sys2Proof
end

