-- ==== Sys2Proof/Syntax.lean ====
section
/-! DEFINITION. The commands of the block: one constructor of Instr for each row of spec/opcode_table.json, with the operands
that the environment supplies to that step (an address, a packet, a sample, an answer), and the data types of those operands. -/

namespace Sys2Proof

/-- What the check bits of a word that is read now show beside the marks the state already holds (R46, R309, R468): the upset
that the environment supplies. Bit positions count from bit 0 of the word or line. -/
inductive Ecc where
  | ok
  | single (bit : Nat)
  | double (bit1 bit2 : Nat)
  deriving DecidableEq, Repr

/-- The single faults that a tile can meet in one tile cycle and that only the environment causes (R476). -/
structure Upset where
  csFlip    : Option Nat := none   -- upset of bit n of the control word in the store; 256 to 259 its parity bits, R48
  regParity : Bool := false   -- parity error of an accumulator or vector register read, R476
  residue   : Bool := false   -- modulo-3 residue mismatch of the word's MAC result, R49
  residue64 : Bool := false   -- the same of its FP64 result
  lsWord    : Option (Nat × Ecc) := none   -- upset of a local-store word by its index, R46
  deriving DecidableEq, Repr

/-- Causes of a dropped request, R349. -/
inductive DropCause where
  | noRoute | outOfSlice | hopLimit | space | range | badHeader | linkDown | timeout | memUncorrectable
  deriving DecidableEq, Repr

/-- The operations of a fabric packet, R341. -/
inductive FabOp where
  | read | write | atomic | reduceAdd | circuitData | drainMarker | haltMarker | readReply | ack | errorReply | control
  | reserved (code : Nat)
  deriving DecidableEq, Repr

/-- The word an access or a request belongs to (R199): its number among the tile's acting words, its address and bank, the beat in
which it acted and the operation tag bound to its NP.CSET. -/
structure WordId where
  serial : Nat := 0
  cw : Nat := 0
  bank : Nat := 0
  beat : W64 := 0
  tag : Nat := 0
  deriving DecidableEq, Repr

/-- A fabric packet: the header of R340 and its payload in 16-byte units. -/
structure FabPkt where
  op        : FabOp
  cls       : Nat
  cmark     : Bool
  echo      : Bool
  dest      : Nat          -- DEST_MODULE
  src       : Nat          -- SRC_MODULE
  srcTile   : Nat          -- TILE_ID, or engine number
  srcEngine : Bool
  tag       : Nat
  trigger   : Nat
  aop       : Nat          -- atomic kind; CONTROL subtype; cause in ERROR_REPLY
  aw        : Nat
  rfmt      : Nat
  hops      : Nat
  circuit   : Nat
  cirPort   : Nat := 63    -- no part of the header: the port whose circuit entry a COPY names (R457), 63 elsewhere
  inPort    : Nat := 63    -- no part of the header: the port on which it came to this module, 63 for this module's own (R367)
  beat      : Nat          -- bits [23:0] of the beat at injection
  addr      : W64
  stepLo    : W32
  epoch     : W16
  slice     : W16
  payload   : List Flit
  deriving DecidableEq, Repr

/-- A link that a packet has still to cross, from one router (or port) to the next: the flits that have crossed it, and the mesh cycles that
the packet has waited before it (R51, R52). -/
structure Hop where
  link   : Nat × Nat
  moved  : Nat := 0
  waited : Nat := 0
  deriving DecidableEq, Repr

/-- A mesh packet: the header of R55 with its second flit where the packet has one. Payload flits are in order. The fields from `edge` on
are no part of the packet. -/
structure MeshPkt where
  kind    : Nat            -- 0 tile, 1 memory edge, 2 fabric edge, 3 count sum
  dest    : Nat            -- TILE_ID, KIND 0 and 3
  src     : Nat            -- TILE_ID
  trigger : Nat
  lsAddr  : Nat            -- local-store offset in 16-byte units
  cls     : Nat            -- 0 urgent, 1 normal, 2 background, 3 circuit
  op      : Nat            -- 0 write, 1 read, 2 read reply, 3 atomic, 4 reduce-add, 5 count sum, 6 load
  beatLo  : Nat            -- bits [11:0] of the beat at injection
  addr    : W64            -- second flit: global address
  tag     : Nat            -- second flit: transaction tag; for KIND 3 the operation tag of the set
  payload : List Flit
  edge    : Option FabPkt := none   -- the request from the fabric for which the edge injected the packet (R51)
  word    : Option WordId := none   -- the word of a packet of a tile that is not counted (R199)
  err     : Option DropCause := none   -- an answer that brings an error (R349)
  lost    : List Nat := []          -- 64-bit words of the answer's line that had a double-bit error (R46, R197)
  way     : List Hop := []          -- the links still to cross; none once the packet has arrived
  deriving DecidableEq, Repr

/-- Who issued a line request or a transaction, and so where its answer goes. -/
inductive ReqSrc where
  | tile (t tag : Nat)              -- counted request of a tile
  | tilePosted (t : Nat) (w : WordId)   -- packet write, atomic or reduce-add of a tile, not counted (R82), of the word (R199)
  | txn (tag t : Nat)               -- a memory transaction of tile t under its tag (R348)
  | fabric (p : FabPkt)             -- a request that arrived from the fabric
  | engine (e : Nat)                -- an engine of this module
  | edge                            -- eviction, ECC write-back, window or loader
  deriving DecidableEq, Repr

/-- What a line request does (R298): a read, a write of masked bytes, an atomic, or a reduce-add on one line. The channel itself
queues the eviction of a buffer entry (R306) and the write-back of a corrected line (R309). -/
inductive LineOp where
  | read
  | write (mask : W64) (data : Line)
  | atomic (aop aw off : Nat) (operand compare : W64)
  | reduce (rfmt off : Nat) (elems : List Byte)
  | evict
  | writeBack
  deriving DecidableEq, Repr

/-- A line request to the channel of its line (R298, R299). `addr` is the 64-byte-aligned space-0 offset. -/
structure LineReq where
  src  : ReqSrc
  addr : Nat
  op   : LineOp
  cls  : Nat               -- packet class
  deriving DecidableEq, Repr

/-- An operation on a flag (R469). `flag` is the flag number n of space-2 offset 8n. -/
inductive FlagAct where
  | read
  | write (v : W64)
  | atomic (aop : Nat) (operand compare : W64)
  | reduceAdd (v : W64)
  deriving DecidableEq, Repr

/-- A cell of a fabric link (R325). -/
structure Cell where
  type    : Nat            -- 0 IDLE, 1 PACKET, 2 CIRCUIT, 3 HALT
  vc      : Nat
  seq     : Nat
  circuit : Nat
  body    : Line
  ack     : Nat
  nak     : Bool
  credits : List Nat       -- byte v: cells of VC v freed
  deriving DecidableEq, Repr

/-- A point of a beat: reference cycles and sixteenths of one after its start (R272). -/
structure RcAt where
  rc   : Nat
  frac : Nat
  deriving DecidableEq, Repr

/-- What a slew message says of its agent: ESC_HS_STATUS.STATE and SLEW_SUM (R274, R275). -/
structure SlewReport where
  state : Nat
  sum   : Int
  deriving DecidableEq, Repr

/-- A control block of a codeword period (R327). -/
inductive CtlBlock where
  | hairspring (frame : List W64)     -- the words of a Hairspring frame (R272, R274)
  | hsRoot (root : Bool)              -- whether the sender's Hairspring role is ROOT (R275)
  | ident (module port rack slot : Nat)
  | identOk
  | training
  | circuitCredit (circuit cells : Nat)
  deriving DecidableEq, Repr

/-- An access to BAR0, to the window or by the sideband. -/
inductive Path where
  | bar0 | window | smbus | ring
  deriving DecidableEq, Repr

/-- The payload of JOIN_REPORT and COMMIT_REPORT (R373). -/
structure Report where
  image     : W256
  features  : W256
  mapDigest : W256
  firmware  : W64
  beat      : W64
  beatRc    : Nat
  epoch     : Nat
  tableCrc  : W32
  step      : W64
  hsState   : Nat
  apply     : Nat
  anchor    : W64
  deriving DecidableEq, Repr

/-- A context entry of VERDICT_UP (R396). -/
structure VerdictCtx where
  context  : Nat
  crc      : W32
  partials : List W64      -- three FP64 partial sums of losses
  deriving DecidableEq, Repr

/-- VERDICT_UP of one member (R396), all its packets taken together. -/
structure VerdictUp where
  step      : W64
  nonFinite : Bool
  crcAll    : W32
  contexts  : List VerdictCtx
  deriving DecidableEq, Repr

/-- VERDICT_DOWN (R396). -/
structure VerdictDown where
  step      : W64
  verdict   : W64
  nonFinite : Bool
  losses    : List (Nat × W32)
  deriving DecidableEq, Repr

/-- A notice to the NaN watch (R146). -/
structure NanNotice where
  beat : W64
  tile : Nat
  cw   : Nat
  bank : Nat
  tag  : Nat
  deriving DecidableEq, Repr

/-- The units of a fault, R501 (RAS_FAULT0.UNIT). -/
inductive FaultUnit where
  | tile | channel | port | escapement | region | rail | sensor | engine | host | numeric | collective
  deriving DecidableEq, Repr

/-- The causes of R482. -/
inductive Cause where
  | none | cwIllegal | triggerInvalid | blockOpen | csParity | residue | regParity | lsUncorrectable | laneFault | meshCrc
  | deltaIndex | deltaStep | nanTrap | deadLayer | memUncorrectable | stackOvertemp | linkDown | fabricTimeout | shardVersion
  | stepMismatch | epochMismatch | verdictLate | commitSplit | scaleTable | periodAnnounce | syncSlip | beatSlip | hairspring
  | refLoss | pllUnlock | powerRail | dieOvertemp | coolant | hostHalt | engineHang
  deriving DecidableEq, Repr

/-- A fault on its way to the RAS block (R478), with the details of R501 and the lane-fault record of R199. -/
structure FaultRec where
  cause      : Cause
  unit       : FaultUnit
  index      : Nat
  cwAddr     : Nat := 0
  bank       : Nat := 0
  tag        : Nat := 0
  laneMask   : W32 := 0
  laterWords : Nat := 0
  laneCauses : Nat := 0
  detail     : W64 := 0
  deriving DecidableEq, Repr

/-- Engine numbers of R502, as reset targets and watched units. -/
abbrev EngineNo := Nat

/-- The commands: one constructor per row of spec/opcode_table.json, in the table's order. -/
inductive Instr where
  -- the tile (chapters 02 to 06)
  | controlWord (tile : Nat) (u : Upset)
  | waitBeatEnd (tile : Nat)
  | waitTriggerTaken (tile : Nat)
  | waitCounterEnd (tile : Nat)
  | halt (tile : Nat)
  | countSumPacket (p : MeshPkt)
  | drainComplete (tile : Nat)
  | answerLanding (a : MeshPkt)
  | packetDeposit (p : MeshPkt) (crcBad : Bool)
  | triggerHeaderAccept (tile : Nat)
  | lsEccWriteback (tile word : Nat)
  | lsScrubRead (tile : Nat) (e : Ecc)
  | lsScrubForcedCycle (tile : Nat) (e : Ecc) (waited : Nat)
  | tileStart (tile slot : Nat)
  | counterSetBind (tile set tag : Nat)
  | regionWakeComplete (region : Nat)
  | tileCtrlHalt (tile : Nat)
  | clrStall (tile : Nat)
  | cwLdWrite
  | cwLdForcedWrite
  | cwLdRead
  | nanNotice (n : NanNotice)
  | nanWatchRecord
  | rearm
  -- the solver (chapter 07) and training (chapter 08)
  | deltaPacketIngest (tile slot : Nat) (payload : List Flit)
  | factorisationStart (slot group : Nat)
  | iterationBoundary (slot group : Nat)
  | solverIntegration (slot group : Nat)
  | adjoint (slot world : Nat) (qbar vbar : List W64) (iters : Nat)
  | verdictBeat
  | stepRecordWrite (context : Nat)
  -- the Escapement (chapter 09) and registers (chapter 17)
  | beatBoundary
  | syncCheckPulse (rc : Nat)
  | syncLoadPulse (rc : Nat)
  | arm
  | disarm
  | escBeatChangeWrite (v : W64)
  | hsExchangeRequest (t1 : RcAt)
  | hsRootReply (port : Nat) (t2 : Nat × RcAt) (t3 : RcAt)
  | hsExchangeReply (t2 t3 : W64) (t4 : RcAt)
  | hsIntervalNoReply
  | hsHoldoverTimeout
  | slewMessage (port : Nat) (target : W64) (d : Int) (agent : SlewReport)
  | slewMessageMissing
  | escHsCfgWrite (v : W64)
  | periodDoneSend
  | periodDone (src : Nat) (k : W64)
  | periodAnnounce (k1 e : W64) (lambda late : Nat)
  | refQualify
  | refLoss
  | refHoldoverEnd
  | registerWrite (path : Path) (offset : Nat) (v : W64)
  | rcFieldRead (path : Path) (offset : Nat)
  -- the stacks (chapter 10) and flags (chapter 14)
  | memLineRequest (r : LineReq)
  | wcbWriteWaitEnd (ch : Nat)
  | channelLineSlot (ch : Nat) (e : Ecc)
  | wcbIdleEvict (ch line : Nat)
  | stackScrubSlot (ch : Nat) (e : Ecc)
  | stackThermalSample (stack temp : Nat)
  | thermDeferExpire (stack : Nat)
  | thermDeferEnd
  | testEnterChannel (ch : Nat)
  | testExitChannel (ch : Nat)
  | tgGo (ch : Nat)
  | tgStop (ch : Nat)
  | tgDone (ch : Nat)
  | flagOperation (src : ReqSrc) (flag : Nat) (act : FlagAct)
  | flagScrub (e : Ecc)
  -- the fabric (chapter 11)
  | linkCellReceive (port : Nat) (bytes : List Byte) (symErrs : List Nat)
  | nak (port seq : Nat)
  | noSignal (port : Nat)
  | controlBlockReceive (port : Nat) (b : CtlBlock) (crcOk : Bool)
  | portCellTime (port : Nat)
  | portTrainingEnd (port : Nat) (ok : Bool)
  | ident (port module peerPort rack slot : Nat)
  | identOk (port : Nat)
  | linkDown (port : Nat)
  | enable (port : Nat)
  | retrain (port : Nat)
  | testEnterPort (port : Nat)
  | testExitPort (port : Nat)
  | fabPPeerWrite (port : Nat) (v : W64)
  | fabricPacketRoute (port : Nat) (p : FabPkt)
  | edgeTagGrant
  | read (p : FabPkt)
  | write (p : FabPkt)
  | atomic (p : FabPkt)
  | reduceAdd (p : FabPkt)
  | circuitData (p : FabPkt)
  | drainMarker (port vc : Nat)
  | haltMarker (src : Nat) (cause : Nat) (haltBeat : W64)
  | readReply (p : FabPkt)
  | ack (p : FabPkt)
  | errorReply (p : FabPkt)
  | txnTimeout (tag : Nat)
  | drainFabric
  | drainMarkersSend
  | drained
  | drainTimeout
  | rtApply
  | resume
  | dropRearm
  -- slices and collectives (chapter 12)
  | join
  | leave
  | joinReportSend
  | joinReport (src : Nat) (r : Report)
  | joinGo (j step : W64)
  | joinMismatch (rank item count bitmap : Nat)
  | commitReport (src : Nat) (r : Report)
  | commitDecisionDeadline
  | commitGo (b : W64)
  | commitStop (outcome rank item : Nat)
  | shardGather (channel : Nat)
  | reduceScatter (channel : Nat)
  | reduceScatterGroupStage (context layer : Nat)
  | reduceScatterConvert (context layer : Nat)
  | skimMax (channel : Nat)
  | countSum (channel : Nat)
  | seqExchange (channel : Nat)
  | countUp (src : Nat) (step : W64) (context : Nat) (count : W64)
  | countDown (step : W64) (context : Nat) (count : W64)
  | verdictUpSend
  | verdictUp (src : Nat) (v : VerdictUp)
  | verdictDown (v : VerdictDown)
  -- images (chapter 13)
  | go
  | discard
  | loadFetchDone (ok : Bool)
  | loadVerifyDone
  | loadValidateDone
  | loadDistributeDone
  | loadPacket (p : MeshPkt)
  | stackRetimingEnd
  | policy
  -- host (chapter 14)
  | perst
  | dmaHoldChange (busMaster d0 : Bool)
  | bar0BadAccess
  | barReadTimeout
  | windowAccess (write : Bool) (offset : Nat) (len : Nat) (data : List Byte)
  | qDoorbell (q : Nat) (tail : W32)
  | commandFetch (q : Nat) (cmd : Line)
  | fetchError (q : Nat)
  | enableQueue (q : Nat) (v : W64)
  | unblock (q : Nat)
  | commandDispatch (q : Nat) (tag : Nat)
  | launch (q : Nat) (index : Nat)
  | launchComplete (slot : Nat)
  | waitFlag (q : Nat) (index : Nat)
  | waitFlagTimeout (q : Nat) (index : Nat)
  | setFlag (q : Nat) (index : Nat)
  | copy (engine : Nat)
  | checkpointSave
  | checkpointRestore
  | commit (q : Nat) (index : Nat)
  | abort (q : Nat) (index : Nat)
  | fence (q : Nat) (index : Nat)
  | status (q : Nat) (index : Nat)
  | statusMirrorWrite
  -- faults, hangs and resets (chapters 15 and 16)
  | faultArrival (f : FaultRec)
  | haltRas
  | rearmRas
  | hangDeclared (engine : EngineNo)
  | dumpEntryRead (ok : Bool)
  | dumpEnd
  | replayStart
  | replayWdExpiry
  | replayEnd
  | hangVerdicts
  | engine (index : Nat)
  | tileArray
  | port (index : Nat)
  | channel (index : Nat)
  | warm
  | cold
  | resetComplete
  | admitModule
  | dumpDataRead
  -- power and start-up (chapter 18)
  | powerSample (watts : Nat) (nowUs : Nat)
  | dieTempSample (temp : Nat)
  | inputUndervoltage (mv : Nat)
  | inputOvervoltage (mv : Nat)
  | inputWarn (mv : Nat)
  | pwrEn (high : Bool)
  | powerRail (rail mv : Nat)
  | coolant (inlet flow : Nat)
  | coolantWarn (inlet : Nat)
  | pllUnlock (region : Nat)
  | bootStageComplete (ok : Bool) (failCode : Nat)
  | smbusBlockWrite (bytes : List Byte)
  | smbusBlockRead (bytes : List Byte)
  | install
  | remove
  | keyOperationDone
  | attestationGo
  | attestationReportDone
  | certificateGo
  | flashCopyGo
  | flashCopyDone
  | signalPresent (port : Nat)
  | slewAcknowledgement (slot : Nat) (busy : Bool)
  | prbsPatternReceive (port lane : Nat) (bits : List Bool)
  | checkpointFlashTransferDone (ok : Bool)
  | coldStart
  deriving DecidableEq, Repr

end Sys2Proof
end

