-- ==== Sys2Proof/Machine/Bits.lean ====
section
/-! DEFINITION. Fields of packed registers, little-endian bytes, two's complement and saturating counts (R14, R18, R20). -/

namespace Sys2Proof.Machine

/-- The field of `len` bits of register `w` whose lowest bit is `lo` (R14). -/
def fld (w : W64) (lo len : Nat) : Nat := (w.toNat >>> lo) % 2 ^ len

/-- Register `w` with the field of `len` bits at `lo` replaced by `v`, cut to the field's width. -/
def setFld (w : W64) (lo len v : Nat) : W64 :=
  BitVec.ofNat 64 (w.toNat % 2 ^ lo + (v % 2 ^ len) * 2 ^ lo + (w.toNat >>> (lo + len)) * 2 ^ (lo + len))

/-- Bit `i` of register `w`. -/
def bitOf (w : W64) (i : Nat) : Bool := fld w i 1 == 1

/-- Register `w` with bit `i` set to `b`. -/
def setBit (w : W64) (i : Nat) (b : Bool) : W64 := setFld w i 1 (if b then 1 else 0)

/-- Addition that stops at `top`. -/
def satTo (top a b : Nat) : Nat := if a + b > top then top else a + b

/-- Register `w` with the counting field at `lo` raised by `k`; a count stops at all ones. -/
def addFld (w : W64) (lo len k : Nat) : W64 := setFld w lo len (satTo (2 ^ len - 1) (fld w lo len) k)

/-- Register `w` with the wrapping counting field at `lo` raised by `k`. -/
def wrapFld (w : W64) (lo len k : Nat) : W64 := setFld w lo len (fld w lo len + k)

/-- W1C: the bits of `mask` that `v` has as 1 are cleared in `w` (R18). -/
def w1c (w : W64) (mask : W64) (v : W64) : W64 := w &&& ~~~(mask &&& v)

/-- RW: the bits of `mask` take the value of `v`; the others keep that of `w` (R18, R19). -/
def rw (w : W64) (mask : W64) (v : W64) : W64 := (w &&& ~~~mask) ||| (v &&& mask)

/-- The mask of a field of `len` bits at `lo`. -/
def maskOf (lo len : Nat) : W64 := BitVec.ofNat 64 ((2 ^ len - 1) * 2 ^ lo)

/-- The value of a `bits`-bit two's complement number. -/
def sext (bits v : Nat) : Int :=
  let u := v % 2 ^ bits
  if u < 2 ^ (bits - 1) then (u : Int) else (u : Int) - ((2 ^ bits : Nat) : Int)

/-- The `bits`-bit two's complement encoding of `x` modulo 2^bits. -/
def twos (bits : Nat) (x : Int) : Nat := (x % ((2 ^ bits : Nat) : Int)).toNat

/-- `x` held between `lo` and `hi`. -/
def clampInt (lo hi x : Int) : Int := if x < lo then lo else if x > hi then hi else x

/-- The `n` bytes of `v`, least significant first (R14). -/
def leBytes : Nat → Nat → List Byte
  | 0, _ => []
  | n + 1, v => BitVec.ofNat 8 v :: leBytes n (v >>> 8)

/-- The value of bytes that stand least significant first (R14). -/
def ofLe : List Byte → Nat
  | [] => 0
  | b :: r => b.toNat + 256 * ofLe r

/-- The `n` elements of `f` from index 0. -/
def tab {α : Type} (n : Nat) (f : Nat → α) : List α := (List.range n).map f

/-- The bits of a natural number as a field: `len` bits from `lo`. -/
def nfld (v lo len : Nat) : Nat := (v >>> lo) % 2 ^ len

/-- The list cut into pieces of `n` elements, at most `k` of them; the last may be shorter. -/
def chunks {α : Type} (n : Nat) : Nat → List α → List (List α)
  | 0, _ => []
  | _ + 1, [] => []
  | k + 1, l => l.take n :: chunks n k (l.drop n)

/-- Element `i` of a list, or `d` beyond its end. -/
def nth {α : Type} (d : α) (l : List α) (i : Nat) : α := (l[i]?).getD d

/-- The list with element `i` replaced; a list too short is lengthened with `d`. -/
def setNth {α : Type} (d : α) : List α → Nat → α → List α
  | [], 0, v => [v]
  | [], i + 1, v => d :: setNth d [] i v
  | _ :: r, 0, v => v :: r
  | x :: r, i + 1, v => x :: setNth d r i v

/-- The list without the first element that satisfies `p`. -/
def eraseFirst {α : Type} (p : α → Bool) : List α → List α
  | [] => []
  | x :: r => if p x then r else x :: eraseFirst p r

/-- Whether the two lists share an element. -/
def meet (a b : List Nat) : Bool := a.any (fun x => b.contains x)

end Sys2Proof.Machine
end

