-- ==== Sys2Proof/Machine/Number.lean ====
section
/-! DEFINITION. Number formats, rounding, conversion and the exact arithmetic of chapters 04 to 06 (R118 to R145, R157, R173,
R245). A floating-point value is read exactly, computed exactly and rounded once. -/

namespace Sys2Proof.Machine

/-- A floating-point value: NaN, an infinity, or (−1)^neg × m × 2^e. -/
inductive FVal where
  | nan
  | inf (neg : Bool)
  | fin (neg : Bool) (m : Nat) (e : Int)
  deriving DecidableEq, Repr

/-- The floating-point formats of R118. -/
inductive FpFmt where
  | fp64 | fp32 | bf16 | fp16 | e4m3 | e5m2
  deriving DecidableEq, Repr

/-- What an operation adds to a counter set (R57). -/
structure Cnt where
  sat : Nat := 0
  flush : Nat := 0
  nan : Nat := 0
  deriving DecidableEq, Repr

/-- The sum of two counts. -/
def cntAdd (a b : Cnt) : Cnt := ⟨a.sat + b.sat, a.flush + b.flush, a.nan + b.nan⟩

/-- An encoding with what its production adds to the counters. -/
structure Num where
  v : Nat
  c : Cnt := {}
  deriving DecidableEq, Repr

/-- How a value is rounded: to nearest even (R132), stochastically with draw r (R133), or away from zero (R143). -/
inductive RMode where
  | rne
  | sr (r : Nat)
  | away
  deriving DecidableEq, Repr

/-- Exponent bits, R118. -/
def fpEBits : FpFmt → Nat
  | .fp64 => 11 | .fp32 => 8 | .bf16 => 8 | .fp16 => 5 | .e4m3 => 4 | .e5m2 => 5
/-- Fraction bits, R118. -/
def fpFBits : FpFmt → Nat
  | .fp64 => 52 | .fp32 => 23 | .bf16 => 7 | .fp16 => 10 | .e4m3 => 3 | .e5m2 => 2
/-- Bias, R118. -/
def fpBias : FpFmt → Nat
  | .fp64 => 1023 | .fp32 => 127 | .bf16 => 127 | .fp16 => 15 | .e4m3 => 7 | .e5m2 => 15
/-- Width in bits. -/
def fpWidth (f : FpFmt) : Nat := 1 + fpEBits f + fpFBits f
/-- Precision: fraction bits with the leading one. -/
def fpPrec (f : FpFmt) : Nat := fpFBits f + 1
/-- Largest finite significand of the top binade, as an integer of `fpPrec` bits (R118). -/
def fpTopSig (f : FpFmt) : Nat := if f = .e4m3 then 14 else 2 ^ fpPrec f - 1
/-- Exponent of the top binade. -/
def fpTopExp (f : FpFmt) : Int := if f = .e4m3 then 8 else (fpBias f : Int)
/-- Exponent of the smallest normal. -/
def fpMinExp (f : FpFmt) : Int := 1 - (fpBias f : Int)

/-- The canonical NaN of a format (R119). -/
def fpNan (f : FpFmt) : Nat :=
  match f with
  | .fp64 => 0x7FF8000000000000 | .fp32 => 0x7FC00000 | .bf16 => 0x7FC0 | .fp16 => 0x7E00 | .e4m3 => 0x7F | .e5m2 => 0x7E

/-- The sign bit of a format, set or clear. -/
def fpSign (f : FpFmt) (neg : Bool) : Nat := if neg then 2 ^ (fpWidth f - 1) else 0

/-- The infinity of a format with one. -/
def fpInf (f : FpFmt) (neg : Bool) : Nat := fpSign f neg + (2 ^ fpEBits f - 1) * 2 ^ fpFBits f

/-- The largest finite encoding (R118). -/
def fpMax (f : FpFmt) (neg : Bool) : Nat :=
  if f = .e4m3 then fpSign f neg + 0x7E else fpInf f neg - 1

/-- An input read under R118 and R121: its value, and 1 when a subnormal was flushed. -/
def fpRead (f : FpFmt) (x : Nat) : FVal × Nat :=
  let fb := fpFBits f
  let eb := fpEBits f
  let fr := x % 2 ^ fb
  let ex := (x >>> fb) % 2 ^ eb
  let neg := (x >>> (fb + eb)) % 2 == 1
  if ex = 0 then (.fin neg 0 0, if fr = 0 then 0 else 1)
  else if f = .e4m3 then
    if ex = 15 ∧ fr = 7 then (.nan, 0) else (.fin neg (2 ^ fb + fr) ((ex : Int) - 7 - fb), 0)
  else if ex = 2 ^ eb - 1 then (if fr = 0 then .inf neg else .nan, 0)
  else (.fin neg (2 ^ fb + fr) ((ex : Int) - fpBias f - fb), 0)

/-- The value of an input. -/
def fpVal (f : FpFmt) (x : Nat) : FVal := (fpRead f x).1

/-- Whether a magnitude with quotient `q`, remainder `r` below 2^sh and a sticky bit rounds up (R132, R133, R143, R157). -/
def roundsUp (md : RMode) (q r sh : Nat) (sticky : Bool) : Bool :=
  match md with
  | .rne => let half := 2 ^ (sh - 1)
            decide (r > half) || (r == half && (sticky || q % 2 == 1))
  | .sr d => let f := if sh ≥ 16 then r >>> (sh - 16) else r <<< (16 - sh)
             decide (f + d ≥ 65536)
  | .away => r != 0 || sticky

/-- The magnitude m × 2^e (with lost bits below it told by `sticky`) rounded to a multiple of 2^u: the multiple. -/
def roundAt (md : RMode) (m : Nat) (e u : Int) (sticky : Bool) : Nat :=
  if u ≤ e then
    let q := m <<< (e - u).toNat
    if md = .away ∧ sticky then q + 1 else q
  else
    let sh := (u - e).toNat
    let q := m >>> sh
    let r := m % 2 ^ sh
    if roundsUp md q r sh sticky then q + 1 else q

/-- A non-zero magnitude rounded to precision p with an unbounded exponent: significand and exponent of its unit. -/
def roundPrec (md : RMode) (p m : Nat) (e : Int) (sticky : Bool) : Nat × Int :=
  let u := (Nat.log2 m : Int) + e - p + 1
  (roundAt md m e u sticky, u)

/-- floor(log2) of the magnitude m × 2^e, m not 0. -/
def flog2 (m : Nat) (e : Int) : Int := (Nat.log2 m : Int) + e

/-- A finite value rounded once into a format, with the flush of R122 and the overflow of R134. -/
def fpRound (f : FpFmt) (md : RMode) (neg : Bool) (m : Nat) (e : Int) (sticky : Bool) : Num :=
  if m = 0 then ⟨fpSign f neg, {}⟩
  else
    let p := fpPrec f
    let (q, u) := roundPrec md p m e sticky
    if q = 0 then ⟨fpSign f neg, { flush := 1 }⟩
    else
      let ex := flog2 q u
      -- the significand as p bits: a carry into 2^p is 2^(p-1) of the next binade
      let sig := if q ≥ 2 ^ p then q / 2 else q
      if ex < fpMinExp f then ⟨fpSign f neg, { flush := 1 }⟩
      else if ex > fpTopExp f ∨ (ex = fpTopExp f ∧ sig > fpTopSig f) then
        ⟨if f = .e4m3 then fpMax f neg else fpInf f neg, { sat := 1 }⟩
      else ⟨fpSign f neg + (ex + fpBias f).toNat * 2 ^ fpFBits f + sig % 2 ^ fpFBits f, {}⟩

/-- A value written into a format (R119, R122, R134, R141): a NaN counts in NAN, an infinity becomes NaN in E4M3. -/
def fpPack (f : FpFmt) (md : RMode) (v : FVal) : Num :=
  match v with
  | .nan => ⟨fpNan f, { nan := 1 }⟩
  | .inf neg => if f = .e4m3 then ⟨fpNan f, { nan := 1 }⟩ else ⟨fpInf f neg, {}⟩
  | .fin neg m e => fpRound f md neg m e false

/-- The signed integer of a finite value in units of 2^u, for u at most e. -/
def unitsOf (neg : Bool) (m : Nat) (e u : Int) : Int :=
  let k : Int := ((m <<< (e - u).toNat : Nat) : Int)
  if neg then -k else k

/-- A value from a signed integer count of 2^u; `negZero` is the sign of an exact zero. -/
def ofUnits (negZero : Bool) (k u : Int) : FVal :=
  if k = 0 then .fin negZero 0 0 else .fin (decide (k < 0)) k.natAbs u

/-- The value with its sign reversed. -/
def fneg : FVal → FVal
  | .nan => .nan | .inf n => .inf (!n) | .fin n m e => .fin (!n) m e

/-- The magnitude. -/
def fabs : FVal → FVal
  | .nan => .nan | .inf _ => .inf false | .fin _ m e => .fin false m e

/-- The exact sum (R124, R173). A zero sum of opposite signs is +0. -/
def fadd : FVal → FVal → FVal
  | .nan, _ => .nan
  | _, .nan => .nan
  | .inf a, .inf b => if a = b then .inf a else .nan
  | .inf a, .fin _ _ _ => .inf a
  | .fin _ _ _, .inf b => .inf b
  | .fin na ma ea, .fin nb mb eb =>
    if ma = 0 ∧ mb = 0 then .fin (na && nb) 0 0
    else if ma = 0 then .fin nb mb eb
    else if mb = 0 then .fin na ma ea
    else
      let u := if ea ≤ eb then ea else eb
      ofUnits false (unitsOf na ma ea u + unitsOf nb mb eb u) u

/-- The exact product (R124, R157). -/
def fmul : FVal → FVal → FVal
  | .nan, _ => .nan
  | _, .nan => .nan
  | .inf a, .inf b => .inf (a != b)
  | .inf a, .fin nb mb _ => if mb = 0 then .nan else .inf (a != nb)
  | .fin na ma _, .inf b => if ma = 0 then .nan else .inf (na != b)
  | .fin na ma ea, .fin nb mb eb => .fin (na != nb) (ma * mb) (ea + eb)

/-- The quotient of magnitudes to `p + 3` bits and a sticky bit. -/
def divMag (p ma mb : Nat) : Nat × Nat × Bool :=
  let k := p + 3 + Nat.log2 mb - (Nat.log2 ma)
  let q := (ma <<< k) / mb
  (q, k, (ma <<< k) % mb != 0)

/-- The quotient a / b rounded once into a format (R124, R134). -/
def fdivR (f : FpFmt) (a b : FVal) : Num :=
  match a, b with
  | .nan, _ => fpPack f .rne .nan
  | _, .nan => fpPack f .rne .nan
  | .inf _, .inf _ => fpPack f .rne .nan
  | .inf x, .fin nb _ _ => fpPack f .rne (.inf (x != nb))
  | .fin na _ _, .inf y => fpPack f .rne (.fin (na != y) 0 0)
  | .fin na ma ea, .fin nb mb eb =>
    if mb = 0 then (if ma = 0 then fpPack f .rne .nan else fpPack f .rne (.inf (na != nb)))
    else if ma = 0 then fpPack f .rne (.fin (na != nb) 0 0)
    else
      let (q, k, st) := divMag (fpPrec f) ma mb
      fpRound f .rne (na != nb) q (ea - eb - k) st

/-- The integer square root by bits: `n` steps from the highest bit down. -/
def isqrtBits : Nat → Nat → Nat → Nat
  | 0, _, r => r
  | n + 1, x, r => let t := r + 2 ^ n
                   isqrtBits n x (if t * t ≤ x then t else r)

/-- The integer square root. -/
def isqrt (x : Nat) : Nat := isqrtBits (Nat.log2 x / 2 + 1) x 0

/-- The square root rounded once into a format (R124). -/
def fsqrtR (f : FpFmt) (a : FVal) : Num :=
  match a with
  | .nan => fpPack f .rne .nan
  | .inf n => if n then fpPack f .rne .nan else fpPack f .rne (.inf false)
  | .fin n m e =>
    if m = 0 then fpPack f .rne (.fin n 0 0)
    else if n then fpPack f .rne .nan
    else
      let k0 := 2 * (fpPrec f + 3) - (Nat.log2 m)
      let k := if (e - k0) % 2 = 0 then k0 else k0 + 1
      let x := m <<< k
      let r := isqrt x
      fpRound f .rne false r ((e - k) / 2) (r * r != x)

/-- a < b of two values that are not NaN, with −0 equal to +0. -/
def flt : FVal → FVal → Bool
  | .nan, _ => false
  | _, .nan => false
  | .inf a, .inf b => a && !b
  | .inf a, .fin _ _ _ => a
  | .fin _ _ _, .inf b => !b
  | .fin na ma ea, .fin nb mb eb =>
    let u := if ea ≤ eb then ea else eb
    decide (unitsOf na ma ea u < unitsOf nb mb eb u)

/-- Whether the value is a NaN. -/
def isNan (v : FVal) : Bool := v == .nan
/-- Whether the value is an infinity. -/
def isInf : FVal → Bool
  | .inf _ => true | _ => false
/-- Whether the value is a zero. -/
def isZero : FVal → Bool
  | .fin _ m _ => m == 0 | _ => false
/-- a = b of two values that are not NaN. -/
def feq (a b : FVal) : Bool := !isNan a && !isNan b && !flt a b && !flt b a
/-- The sign. -/
def signOf : FVal → Bool
  | .nan => false | .inf n => n | .fin n _ _ => n

/-- The sum of magnitudes truncated to the window of R157: signed count of units, and the sticky bit. -/
def windowSum (u : Int) : List FVal → Int × Bool
  | [] => (0, false)
  | .fin n m e :: r =>
    let (s, st) := windowSum u r
    if u ≤ e then (s + unitsOf n m e u, st)
    else
      let sh := (u - e).toNat
      let q : Int := ((m >>> sh : Nat) : Int)
      (s + (if n then -q else q), st || m % 2 ^ sh != 0)
  | _ :: r => windowSum u r

/-- The group sum of R157 with its rounding (R158) into an accumulator format; `fbits` is F of R151. -/
def groupSum (terms : List FVal) (fbits : Nat) (f : FpFmt) : Num :=
  if terms.any isNan then fpPack f .rne .nan
  else
    let infs := terms.filter isInf
    if infs.any signOf && infs.any (fun t => !signOf t) then fpPack f .rne .nan
    else match infs with
      | t :: _ => fpPack f .rne t
      | [] =>
        let nz := terms.filter (fun t => !isZero t)
        match nz.filterMap (fun t => match t with | .fin _ m e => some (flog2 m e) | _ => none) with
        | [] => ⟨fpSign f (terms.all signOf && !terms.isEmpty), {}⟩
        | e0 :: es =>
          let e := es.foldl (fun a b => if a ≤ b then b else a) e0
          let u := e - fbits
          let (s, st) := windowSum u nz
          fpRound f .rne (decide (s < 0)) s.natAbs u st

/-- add_once of R173. -/
def addOnce (f : FpFmt) (a b : Nat) : Num := fpPack f .rne (fadd (fpVal f a) (fpVal f b))

/-- The FP64 sum of two encodings, counts dropped. -/
def add64 (a b : W64) : W64 := BitVec.ofNat 64 (addOnce .fp64 a.toNat b.toNat).v

/-! ## Integer and fixed-point values -/

/-- The range of a two's complement container (R127). -/
def intMin (bits : Nat) : Int := -((2 ^ (bits - 1) : Nat) : Int)
/-- The largest value of a two's complement container. -/
def intMax (bits : Nat) : Int := ((2 ^ (bits - 1) : Nat) : Int) - 1

/-- An integer written into a container: beyond the range, the nearer end and SAT 1 (R134). -/
def satInt (bits : Nat) (x : Int) : Num :=
  if x < intMin bits then ⟨twos bits (intMin bits), { sat := 1 }⟩
  else if x > intMax bits then ⟨twos bits (intMax bits), { sat := 1 }⟩
  else ⟨twos bits x, {}⟩

/-- A value rounded to a multiple of 2^−n as a signed integer. -/
def roundQ (md : RMode) (n : Nat) (neg : Bool) (m : Nat) (e : Int) : Int :=
  let q : Int := ((roundAt md m e (-(n : Int)) false : Nat) : Int)
  if neg then -q else q

/-- A value written into a container with n fraction bits (R134, R141; log 20). -/
def toFix (md : RMode) (bits n : Nat) (v : FVal) : Num :=
  match v with
  | .nan => ⟨0, { nan := 1 }⟩
  | .inf neg => ⟨twos bits (if neg then intMin bits else intMax bits), { sat := 1 }⟩
  | .fin neg m e => satInt bits (roundQ md n neg m e)

/-- The value of a container with n fraction bits (R127). -/
def ofFix (bits n : Nat) (x : Nat) : FVal :=
  let i := sext bits x
  if i = 0 then .fin false 0 0 else .fin (decide (i < 0)) i.natAbs (-(n : Int))

/-- ⟨x / 2^p⟩: nearest integer, ties to even (R166). -/
def rneShift (x : Int) (p : Nat) : Int :=
  let q : Int := ((roundAt .rne x.natAbs 0 p false : Nat) : Int)
  if x < 0 then -q else q

/-! ## CVT (R135 to R141) -/

/-- The format that a CVT code names (R135): a floating-point format, or a container with whether it is a Q format. -/
inductive CvtFmt where
  | fp (f : FpFmt)
  | fix (bits : Nat) (q : Bool)
  deriving DecidableEq, Repr

/-- The codes of R135; 0 and 12 to 15 are reserved. -/
def cvtFmt : Nat → Option CvtFmt
  | 1 => some (.fp .e4m3) | 2 => some (.fp .e5m2) | 3 => some (.fix 8 false) | 4 => some (.fp .bf16)
  | 5 => some (.fp .fp16) | 6 => some (.fp .fp32) | 7 => some (.fp .fp64) | 8 => some (.fix 16 false)
  | 9 => some (.fix 32 false) | 10 => some (.fix 16 true) | 11 => some (.fix 32 true) | _ => none

/-- Width in bits of a CVT format. -/
def cvtWidth : CvtFmt → Nat
  | .fp f => fpWidth f
  | .fix b _ => b

/-- Fraction bits of a side under R139: `other` is the other side. -/
def cvtFrac (side other : CvtFmt) (shift : Nat) : Nat :=
  match side, other with
  | .fix 32 true, .fix 16 true => shift + 16
  | .fix _ true, _ => shift
  | _, _ => 0

/-- One element converted (R140, R141). The counts include the flush of the input (R121). -/
def cvtElem (src dst : CvtFmt) (shift : Nat) (md : RMode) (x : Nat) : Num :=
  let (v, fl) := match src with
    | .fp f => fpRead f x
    | .fix b _ => (ofFix b (cvtFrac src dst shift) x, 0)
  let r := match dst with
    | .fp f => fpPack f md v
    | .fix b _ => toFix md b (cvtFrac dst src shift) v
  ⟨r.v, { r.c with flush := r.c.flush + fl }⟩

/-! ## The Trowel (R143 to R145) -/

/-- The element formats of a block-scaled block (R129). -/
inductive BlkElem where
  | e4m3 | e5m2 | int8
  deriving DecidableEq, Repr

/-- emax of R143. -/
def blkEmax : BlkElem → Int
  | .e4m3 => 8 | .e5m2 => 15 | .int8 => 0

/-- Whether m × 2^e, rounded to the element's precision, exceeds maxval of R143. -/
def blkOver (el : BlkElem) (md : RMode) (m : Nat) (e : Int) : Bool :=
  match el with
  | .e4m3 => let (q, u) := roundPrec md 4 m e false
             decide (unitsOf false q u (if u ≤ 0 then u else 0) > unitsOf false 448 0 (if u ≤ 0 then u else 0))
  | .e5m2 => let (q, u) := roundPrec md 3 m e false
             decide (unitsOf false q u (if u ≤ 0 then u else 0) > unitsOf false 57344 0 (if u ≤ 0 then u else 0))
  | .int8 => decide (roundAt md m e (-6) false > 127)

/-- The largest magnitude of a list of finite values. -/
def maxMag (vals : List FVal) : FVal :=
  vals.foldl (fun a v => if flt a (fabs v) then fabs v else a) (.fin false 0 0)

/-- trowel_scale of R143. -/
def trowelScale (vals : List FVal) (el : BlkElem) (sr : Bool) : Nat :=
  if vals.any (fun v => isNan v || isInf v) then 0xFF
  else match maxMag vals with
    | .fin _ m e =>
      if m = 0 then 0x7F
      else
        let x := flog2 m e - blkEmax el
        let x := if blkOver el (if sr then .away else .rne) m (e - x) then x + 1 else x
        (clampInt (-127) 127 x + 127).toNat
    | _ => 0xFF

/-- One element of a block written at scale s (R144). -/
def trowelElem (el : BlkElem) (s : Nat) (md : RMode) (v : FVal) : Num :=
  match v with
  | .fin neg m e =>
    let e' := e - ((s : Int) - 127)
    match el with
    | .e4m3 => fpRound .e4m3 md neg m e' false
    | .e5m2 => fpRound .e5m2 md neg m e' false
    | .int8 =>
      let k := roundQ md 6 neg m e'
      if k > 127 then ⟨127, { sat := 1 }⟩ else if k < -127 then ⟨129, { sat := 1 }⟩ else ⟨twos 8 k, {}⟩
  | _ => ⟨0, {}⟩

/-- A block: its elements with their counts, scale and FLAGS (R131, R144, R145). `mds` gives each element's rounding. -/
def trowelBlock (el : BlkElem) (sr : Bool) (vals : List FVal) (mds : List RMode) : List Num × Nat × Nat :=
  let s := trowelScale vals el sr
  if s = 0xFF then (vals.map (fun _ => ⟨0, { nan := 1 }⟩), 0xFF, 1)
  else ((vals.zip mds).map (fun p => trowelElem el s p.2 p.1), s, 0)

/-- The value that element byte x of a block with scale s denotes (R129, R130), and its input flush (R121). -/
def blkRead (el : BlkElem) (s x : Nat) : FVal × Nat :=
  let (v, fl) := match el with
    | .e4m3 => fpRead .e4m3 x
    | .e5m2 => fpRead .e5m2 x
    | .int8 => (ofFix 8 6 x, 0)
  if s = 0xFF then (.nan, fl)
  else match v with
    | .fin n m e => (.fin n m (e + ((s : Int) - 127)), fl)
    | w => (w, fl)

/-! ## Stochastic rounding draws (R245) -/

/-- fold of R245. -/
def srFold (z0 : W64) : W64 :=
  let z := z0 ^^^ (z0 >>> 31)
  let z := z * 0x9F4B2C17D3E58A61#64
  let z := z ^^^ (z >>> 29)
  let z := z * 0xB5E13A974C2DF069#64
  z ^^^ (z >>> 32)

/-- sr_draw of R245. -/
def srDraw (seed step : W64) (tensor purpose : Nat) (elem : W32) : Nat :=
  let ctr : W64 := BitVec.ofNat 64 (tensor * 2 ^ 48 + purpose * 2 ^ 44 + elem.toNat)
  let k := srFold (seed ^^^ srFold step)
  let z := srFold (ctr + k)
  let z := srFold (z + k + 1)
  let z := srFold (z + k + 2)
  let z := srFold (z + k + 3)
  z.toNat % 65536

end Sys2Proof.Machine
end

