-- ==== Sys2Proof/Config.lean ====
section
/-! DEFINITION. What the part fixes (the FEAT_ values of R534 and the organisation of R1, R31, R296) and what the manual leaves
open: the free values, opaque constants that no proof can evaluate. -/

namespace Sys2Proof.Config

/-- 32-bit lanes of a vector register (R8, R40, R534). -/
def vlen : Nat := 8
/-- Tile columns and rows (R31). -/
def cols : Nat := 1024
/-- Tiles of the array (R31). -/
def tiles : Nat := 1048576
/-- Clock regions (R61). -/
def regions : Nat := 256
/-- Bytes of one local store: offsets from 0xC000 upward do not exist (R43). -/
def lsBytes : Nat := 0xC000
/-- Bytes between the local stores of consecutive tiles in space 1 (R67). -/
def lsStride : Nat := 0x10000
/-- Bytes of stack memory: space-0 offsets at or above it do not exist (R297). -/
def stackBytes : Nat := 0xD800000000
/-- Memory channels (R296). -/
def channels : Nat := 1536
/-- Lines of one channel (R296). -/
def linesPerChannel : Nat := 9437184
/-- Bytes of the flag area (R342, R468). -/
def flagBytes : Nat := 0x800000
/-- Hardware queues (R446). -/
def queues : Nat := 8192
/-- Episode slots (R1). -/
def slots : Nat := 96
/-- Fabric ports (R324). -/
def ports : Nat := 39
/-- Module identifiers of a routing table (R350). -/
def moduleIds : Nat := 16384
/-- Bytes of BAR0, the registers and doorbells (R440). -/
def bar0Bytes : Nat := 0x10000000
/-- Bytes of BAR2, the module window (R440). -/
def bar2Bytes : Nat := 0x100000000

/-- A capability that a PCI Express function can present (R440). -/
inductive PcieCap where
  | powerManagement (d0 d3hot pme : Bool)
  | endpoint (maxPayload maxReadRequest : Nat)
  | aer | deviceSerialNumber | dataLinkFeature | physicalLayer16 | physicalLayer32 | physicalLayer64 | flitLogging
  | msi | msiX | srIov | ats | pasid | resizableBar | flr
  deriving DecidableEq, Repr

/-- A PCI Express function's configuration. -/
structure PcieFn where
  vendor : W16
  device : W16
  subVendor : W16
  subsystem : W16
  classCode : BitVec 24
  headerType : Nat
  bars : List (Nat × Nat × Bool)    -- each 64-bit memory BAR: its number, its bytes, whether it is prefetchable
  rom : W32                     -- what the expansion ROM base reads
  intPin : Nat
  intLine : Nat
  caps : List PcieCap           -- any capability not listed is absent
  deriving DecidableEq, Repr

/-- The one function of the host port (R12, R440); its Device Serial Number is `serial` (R557). -/
def pcie : PcieFn :=
  { vendor := 0xCE0A, device := 0x0501, subVendor := 0xCE0A, subsystem := 0x0001, classCode := 0x120000, headerType := 0
    bars := [(0, bar0Bytes, false), (2, bar2Bytes, true)], rom := 0, intPin := 0, intLine := 0
    caps := [.powerManagement true true false, .endpoint 512 4096, .aer, .deviceSerialNumber, .dataLinkFeature, .physicalLayer16,
             .physicalLayer32, .physicalLayer64, .flitLogging] }

/-- Bytes of BAR n, the two halves of a 64-bit one together; 0 is one that is not implemented and reads 0 (R440). -/
def PcieFn.barBytes (f : PcieFn) (n : Nat) : Nat :=
  match f.bars.find? (fun b => b.1 == n) with | some b => b.2.1 | none => 0

/-- Operation tags (R455, R474). -/
def opTags : Nat := 65536
/-- Transaction tags of the edge (R348). -/
def txnTags : Nat := 131072
/-- Highest tile clock in MHz (R534). -/
def tileMhz : Nat := 1400
/-- Part capabilities (R436, R534). -/
def caps : W64 := 0x1FF#64

/-- FREE VALUE (log 5): what a place holds that the manual calls undefined (R424, R460, R497); the argument is the counter
State.freeCtr, which each use advances. -/
opaque freeValue : Nat → W64

/-- FREE VALUE (log 6): the serial number of the module (R557, R564, "Per module"). -/
opaque serial : W64

/-- FREE VALUE (log 6): the SM2 signature (r, s) that the identity key of R557 gives over a message of bytes; the private key
never appears on any bus or register. -/
opaque identitySign : List Byte → W256 × W256

/-- FREE VALUE (log 6): certificate 0 (module), 1 (intermediate) or 2 (root) of R557 in DER. -/
opaque certificate : Nat → List Byte

/-- FREE VALUE (log 6): the calibration records of R556 in flash order. -/
opaque calibration : List Byte

/-- FREE VALUE (log 6): whether the bytes of a firmware slot carry a signature and a certificate that verify (R555). -/
opaque firmwareSigned : List Byte → Bool
/-- FREE VALUE (log 6): the version that a firmware slot's bytes carry (R555). -/
opaque firmwareVersion : List Byte → W64

/-- FREE VALUE (log 6): the SM3 digest of firmware slot 0 (A) or 1 (B), FW_DIGEST of R559. -/
opaque firmwareDigest : Nat → W256

/-! ## What an image names in sections whose byte layout the manual does not give (log 40)

R413 lists the sections; the manual lays out TILE_PROGRAMS, TILE_MAP, SLOTS, CONTEXTS, REGION_WINDOWS and the lath header. For the
others the decoding from bytes is a FREE VALUE: an opaque function of the section's bytes. -/

/-- What the mapping section names for one shard of a layer (R381, R389 to R393, R399, R400, R403): space-0 offsets, flag numbers,
the table entries and sizes of the shard's blocks in stream order, the tiles of the optimiser (tile, local-store address, entry
point), the gather's circuit, destination address and trigger. -/
structure ShardMap where
  stream : Nat                       -- the module's own contribution to the shard (R390)
  blocks : List (Nat × Nat)
  dom : Nat
  total : Nat
  maxBuf : Nat
  domFlag : Nat
  totFlag : Nat
  grad : Nat
  slot0 : Nat
  slot1 : Nat
  slotBytes : Nat
  maxima : Nat                       -- the module's own block maxima, FP32 (R400)
  seeded : Nat                       -- where the owner's t bytes arrive (R400)
  summary : Nat
  summaryBytes : Nat
  optimiser : List (Nat × Nat × Nat)
  circuit : Nat
  header : Nat                       -- the header area of each member (R403)
  dest : W64
  trigger : Nat
  deriving DecidableEq, Repr

/-- What the mapping section names for a layer of a context. -/
structure LayerMap where
  context : Nat
  layer : Nat
  sumFlag : Nat
  shards : List ShardMap
  deriving DecidableEq, Repr

/-- What the mapping section names for a context: the domains of its model group (R381), where its worlds' FP32 losses and the
non-finite word of its programs stand (R243, R250), where the module puts the worlds' loss seeds for the backward pass (R243), the rollout formats (set, DRAIN_FMT code, VALUES; R262), and its sequence
exchange by round: source, bytes, destination offset and flag (R408). -/
structure CtxMap where
  context : Nat
  domains : List Nat
  losses : Nat
  seeds : Nat
  nonFinite : Nat
  rollout : List (Nat × Nat × W64)
  seqQ : Nat
  rounds : List (Nat × Nat × Nat × Nat)
  deriving DecidableEq, Repr

/-- An operation that an image can mark as period-bound (R283): the LAUNCHes of a slot with an ENTRY, a collective by its KIND, context
and layer, the record write of a context. -/
inductive PeriodOp where
  | launch (slot entry : Nat)
  | collective (kind context layer : Nat)
  | record (context : Nat)
  deriving DecidableEq, Repr

/-- A shard summary (R399). -/
structure Summary where
  gPart : W64
  uPart : W64
  wPart : W64
  nonzero : Bool
  sat : List Bool
  high : List Bool
  deriving DecidableEq, Repr

/-- MAPPING: its contexts. -/
opaque mapCtxs : List Byte → List CtxMap
/-- MAPPING: its layers. -/
opaque mapLayers : List Byte → List LayerMap
/-- MAPPING: the operations that it marks as period-bound (R283). -/
opaque periodOps : List Byte → List PeriodOp
/-- MAPPING: the tiles that a LAUNCH of a slot with an ENTRY starts (R100, R457). -/
opaque slotTiles : List Byte → Nat → Nat → List Nat
/-- MAPPING: the counter sets that it assigns to the operation of a slot with an ENTRY (R58). -/
opaque opSets : List Byte → Nat → Nat → List Nat
/-- The shard summary that bytes of a summary area hold; none where they hold none. -/
opaque summaryOf : List Byte → Option Summary
/-- A circuit of the mesh (R53, R358): the tile that sends on it, the router at which its path ends (that of the destination tile, or of the
edge at which it leaves the array), the slots of the frame that it owns on every link of its path, and the fabric circuit on which the
edge carries its packets on. -/
structure MeshCircuit where
  tile : Nat
  exit : Nat
  slots : BitVec 16
  circuit : Nat
  deriving DecidableEq, Repr

/-- MESH_CIRCUITS: its circuits. -/
opaque meshCircuits : List Byte → List MeshCircuit
/-- COUNT_TREES: the tree of each operation, named by its slot and ENTRY, as child and parent tiles (R59). -/
opaque countTrees : List Byte → List (Nat × Nat × List (Nat × Nat))
/-- FAB_ROUTING: index and value of FAB_RTS_n. -/
opaque fabRouting : List Byte → List (Nat × W64)
/-- FAB_CIRCUITS: shadow word (port × 1024 + entry × 4 + word) and value. -/
opaque fabCircuits : List Byte → List (Nat × W64)
/-- STACK_DATA: space-0 offset and bytes of each run. -/
opaque stackData : List Byte → List (Nat × List Byte)
/-- The 4 KiB state block of a snapshot that holds these values (R485). -/
opaque stateBlock : List W64 → List Byte
/-- The values that a state block holds. -/
opaque stateBlockOf : List Byte → List W64
/-- A slot header as a group peer's engine reads it (R490, R496): its step, whether the slot is complete, the image identity and
MAP_DIGEST. -/
opaque slotHeaderOf : List Byte → W64 × Bool × W256 × W256
/-- The header of a checkpoint slot as the engine lays it out: its step, whether the slot is complete, the image identity and MAP_DIGEST
(R490). -/
opaque slotHeader : W64 → Bool → W256 → W256 → List Byte
/-- The place of slot 0 (A) or 1 (B) of tier 1 or 2 in space 0, in lines (R487, R496). -/
opaque slotPlace : Nat → Nat → Nat
/-- The place of a checkpoint object in the store gateway's space 0, in lines, by its object number (R492, R498). -/
opaque objectPlace : Nat → Nat
/-- MAPPING: the circuit on which this module's checkpoint engine sends to a rank (R489, R499). -/
opaque ckCircuit : List Byte → Nat → Nat
/-- AREAS: start offset, length and kind of each range: 0 not CKPT, 1 STEADY, 2 PAIRED, 3 SLOTTED (R486). -/
opaque areas : List Byte → List (Nat × Nat × Nat)
/-- REG_WRITES: offset, mask and value. -/
opaque regWrites : List Byte → List (Nat × W64 × W64)
/-- LATHS: each lath's 128-byte header and its tables. -/
opaque lathParts : List Byte → List (List Byte × List Byte)
/-- The lengths of the rows of a Jacobian pattern, given its DOF numbers and how many rows it has. -/
opaque jacLengths : List Nat → Nat → List Nat
/-- The rows of a Delassus pattern, given their number and the pattern's bytes. -/
opaque delassus : Nat → List Byte → List (List Nat)
/-- A lath's initial entries (R211). -/
opaque lathInit : List Byte → List (Nat × W64)
/-- A lath's initial coordinates (R214). -/
opaque lathCoords : List Byte → List W64

end Sys2Proof.Config
end

