-- ==== Sys2Proof/Machine/State.lean ====
section
/-! DEFINITION. The state of the PX1 block as plain data: every register, store, queue, counter and pin that the manual names, the
reasons a step can stop, and the state after reset (the Reset columns of the register tables; R79, R92, R163, R361, R528). A
register that the manual numbers is one 64-bit word; sets indexed by a tile, channel, queue, port or address are lists of
(index, value) pairs in canonical form: indices rising, no entry equal to the value of an unlisted index. -/

namespace Sys2Proof.Machine

/-- A sparse map from Nat: rising keys, no entry equal to the default of its use. -/
abbrev Assoc (α : Type) := List (Nat × α)

/-- Why a step stops with a fault. No command of this block stops: every row of the table has an effect. -/
inductive Fault where
  /-- Raised by no command. Safe: it only names the outcome type's case. -/
  | stopped
  deriving DecidableEq, Repr

/-- Why a step refuses a command. -/
inductive Refusal where
  /-- Raised by exec's arm of a command that has no meaning in this model yet. Safe: the model stops where the block goes on. -/
  | notModelled (mnemonic : String)
  deriving DecidableEq, Repr

/-- An error that a stored word, line or flag holds (R46, R47, R309, R312, R468). -/
inductive Mark where
  | good
  | single (bit : Nat)
  | double (bit1 bit2 : Nat)
  | poison
  deriving DecidableEq, Repr

/-! ## The tile -/

/-- TILE_STATUS.STATE, R69. -/
inductive TileSt where
  | halted | run | waitBeat | waitTrigger | stall | fault | waitEither | waitCounter
  deriving DecidableEq, Repr

/-- An SR context of a control-store bank, R246. -/
structure SRCtx where
  tensor : Nat := 0
  purpose : Nat := 0
  elemBase : W32 := 0
  deriving DecidableEq, Repr

/-- A control-store bank with its entry table and SR context (R48, R99, R246). -/
structure CsBank where
  words : Assoc W256 := []
  parity : Assoc Nat := []           -- by word: the stored parity bit of its 64-bit part n as bit n (R48, R117)
  entries : Assoc W16 := []
  sr : SRCtx := {}
  deriving DecidableEq, Repr

/-- An accumulator entry: its bits, pre-shift, the exact running sum while its overflow bit is set, whether it holds a saturated
value for the pass (R166, R167), and whether an INT8 group wrote it last (log 21). -/
structure AccE where
  bits : W32 := 0
  pre : Nat := 0
  ovf : Option Int := none
  held : Bool := false
  int : Bool := false
  deriving DecidableEq, Repr

/-- A packet that a generator holds open (R89, R90). -/
structure OpenPkt where
  addr : W64                 -- global address of the header
  cls : Nat
  op : Nat                   -- PKT_OP
  flits : List Flit          -- payload so far
  ctrl : Option Flit         -- the control flit of an atomic or reduce-add (R345)
  deriving DecidableEq, Repr

/-- An address generator (R79, R80) with its FP64 operand buffer (R88) and its open packet (R89). -/
structure Gen where
  desc : Flit := 0
  base : W64 := 0
  i0 : Nat := 0
  i1 : Nat := 0
  ready : Nat := 0           -- tile cycle from which it is usable (R95)
  owned : Bool := false      -- it belongs to a running drain (R86)
  f64 : List (W64 × Nat) := []
  pkt : Option OpenPkt := none
  deriving DecidableEq, Repr

/-- An operand queue X or Y: entries with the cycle their data is present, and the bits of the head already taken (R84, R85). -/
structure OpQueue where
  ents : List (Flit × Nat) := []
  used : Nat := 0
  deriving DecidableEq, Repr

/-- A comparator's configuration (R92). -/
structure Cmp where
  a : Nat := 0
  rel : Nat := 0
  b : Nat := 0
  const : W32 := 0
  deriving DecidableEq, Repr

/-- An open 16-bit group (R153). -/
structure Group16 where
  fmt : Nat
  entry : Nat
  clr : Bool
  prods : List (Nat × Nat)
  dots : Nat
  cset : Nat                         -- NP.CSET of its last DOT
  bad : Option (Nat × Nat) := none   -- word (address, bank) whose residue check will fail when the group is written (R49)
  deriving DecidableEq, Repr

/-- A group of an open block, waiting for the block's scales (R164). -/
structure BlkGroup where
  fmtX : Nat
  fmtY : Nat
  entry : Nat
  clr : Bool
  prods : List (Nat × Nat)
  bad : Option (Nat × Nat) := none
  cset : Nat := 0                    -- NP.CSET of the DOT that formed it (R152, R158)
  deriving DecidableEq, Repr

/-- An open FP64 group (R39, R155); `ready` is the cycle in which its last product has been delivered. -/
structure Group64 where
  pair : Nat
  clr : Bool
  prods : List (W64 × W64)
  cset : Nat
  ready : Nat
  bad : Option (Nat × Nat) := none
  deriving DecidableEq, Repr

/-- The state that K_BEGIN latched (R108). -/
structure KLoop where
  addr : Nat
  gens : Assoc Gen
  cnts : Assoc W32
  cmps : Assoc Cmp
  ep : Nat
  deriving DecidableEq, Repr

/-- One 128-bit write of a drain (R37): the tc that it takes after the write before it, its value, and the counts of the conversions that
it completes, with whether one of their results is a NaN (R57, R75). -/
structure DrainWr where
  gap : Nat
  flit : Flit
  cnt : Cnt := {}
  nan : Bool := false
  deriving DecidableEq, Repr

/-- A drain in progress (R86, R37): its generator, the lane count that scales its strides, and the 128-bit writes still to be made. -/
structure Drain where
  gen : Nat
  lanes : Nat
  out : List DrainWr
  close : Option Nat := none         -- the trigger with which its packet closes after the last write
  next : Nat := 0                    -- tc of its next write, where no conflict delays it
  word : WordId := {}                -- the word that started it (R199)
  cset : Nat := 0                    -- and its NP.CSET
  deriving DecidableEq, Repr

/-- A CVT whose source is the wider side (R137): its word, that word's active lanes and identity, the rounding of its active elements in
turn, the tc in which it acted, and its source registers: register VA + j is read in the j-th tc after it. -/
structure CvtRun where
  w : W256
  lim : Option Nat
  word : WordId
  mds : List RMode
  start : Nat
  got : List W256
  deriving DecidableEq, Repr

/-- What the answer to a counted request does when it lands (R82, R193, R195). -/
inductive ReqKind where
  | deposit (addr : Nat)
  | gather (vd width : Nat) (elems : List (Nat × Nat))     -- (element, byte offset in the line)
  | scatter (elem : Nat)
  deriving DecidableEq, Repr

/-- An outstanding counted request (R82). -/
structure OutReq where
  tag : Nat
  ag : Nat
  kind : ReqKind
  word : WordId
  ga : W64 := 0                      -- its address and its class, which the answer's way and class follow (R51)
  cls : Nat := 1
  deriving DecidableEq, Repr

/-- A counted request that has still to leave the tile (R82, R193, R195): for a scatter, `store` is (AW, operand). -/
structure PendReq where
  ag : Nat
  kind : ReqKind
  ga : W64
  cls : Nat
  store : Option (Nat × W64)
  word : WordId
  deriving DecidableEq, Repr

/-- A local read access still to be made by generator `gen`, in tile cycle `at_`, into vector register `vd` (R81, R192): each part
is the byte offset in the 16-byte word, the byte offset in the register and the number of bytes, which are one element of `width`
bytes. `all` marks a non-indexed access, in which a bad word faults every lane (R198). -/
structure PRead where
  gen : Nat
  at_ : Nat
  addr : Nat
  vd : Nat
  width : Nat
  parts : List (Nat × Nat × Nat)
  word : WordId
  all : Bool := false
  deriving DecidableEq, Repr

/-- A local write access still to be made by generator `gen` in tile cycle `at_`, to the 16-byte word at `addr` (R81, R194); the
bytes land in the cycle after (R95). -/
structure PWrite where
  gen : Nat
  at_ : Nat
  addr : Nat
  bytes : List (Nat × Byte)
  deriving DecidableEq, Repr

/-- A word of which some generators have made their accesses while others wait for a bank pair (R44): those that wait, those that have
acted, and the generators as they stood before the word. -/
structure Part where
  left : List Nat
  made : List Nat
  gens : Assoc Gen
  deriving DecidableEq, Repr

/-- A K_END whose word has acted and that itself waits for the last DOT's entry (R108): the tc, the next address and NP.CSET; with
`replay`, the tc in which the replay restores the latched state (R109). -/
structure KEnd where
  at_ : Nat
  next : Nat
  cset : Nat
  replay : Bool := false
  deriving DecidableEq, Repr

/-- The lane-fault capture of a tile (R199). -/
structure LaneCap where
  word : Option WordId := none
  mask : W32 := 0
  causes : Nat := 0
  later : Nat := 0
  words : List Nat := []     -- serials already counted as later faulting words
  deriving DecidableEq, Repr

/-- A numeric counter set (R57) with the operation tag bound to it (R58). -/
structure CSet where
  sat : Nat := 0
  flush : Nat := 0
  replay : Nat := 0
  nan : Nat := 0
  tag : Nat := 0
  bound : Bool := false
  deriving DecidableEq, Repr

/-- One tile (chapters 02, 03). -/
structure Tile where
  st : TileSt := .halted
  bank : Nat := 0
  cw : Nat := 0
  held : Option W256 := none         -- the word fetched, while it waits or stalls (R48, R94)
  fill : Nat := 0
  tc : Nat := 0                      -- the tile's own cycle count, for R95 and R96
  serial : Nat := 0                  -- words acted
  cs0 : CsBank := {}
  cs1 : CsBank := {}
  accA : Assoc AccE := []
  accB : Assoc AccE := []
  accReady : Assoc Nat := []         -- by pair of the fill bank: the cycle in which an FP64 result under way is written
  macAt : Assoc Nat := []            -- by entry of the fill bank: the cycle in which a DOT's result under way is written (R95)
  vregs : Assoc W256 := []
  vready : Assoc Nat := []
  gens : Assoc Gen := []
  cnts : Assoc W32 := []
  replyOf : Assoc Nat := []          -- counter n follows the replies of AG (COUNT_REPLY)
  cmps : Assoc Cmp := []
  qx : OpQueue := {}
  qy : OpQueue := {}
  blkX : Nat := 0                    -- block position of queue X (R163)
  blkY : Nat := 0
  blkSize : Nat := 0                 -- NP.BLK of the open block
  blkGroups : List BlkGroup := []
  g16 : Option Group16 := none
  g64 : Option Group64 := none
  ep : Nat := 0
  macReady : Nat := 0                -- cycle in which the last DOT's entry is written
  kloop : Option KLoop := none
  fwd : W64 := 0
  fwdReady : Nat := 0
  f64Free : Nat := 0
  res : List (W64 × Nat) := []       -- FP64 result buffer (R567)
  pend64 : List (Nat × Nat × W64) := []   -- FP64 results for pairs: cycle written, pair, value
  vecFree : Nat := 0
  cvt : Option CvtRun := none        -- a CVT that still reads its source registers (R137)
  drain : Option Drain := none
  reads : List PRead := []
  writes : List PWrite := []         -- write accesses under way
  zeros : List (Nat × Nat × List (Nat × Nat × Nat)) := []   -- faulting elements to be zeroed: tc, register, parts (R198)
  part : Option Part := none
  lost : Bool := false               -- an access under way has lost its bank pair: the next tc is its stall (R44)
  port : List Nat := []              -- bank pairs that flits delivered by the local port take, one a tc (R44)
  scrubPair : Option Nat := none     -- bank pair of a forced scrub cycle in the present tc (R47)
  inject : Nat := 0                  -- flits in the local port's buffer towards the mesh (R52, R96)
  kend : Option KEnd := none
  took : Option (Nat × Nat) := none  -- trigger index taken in the tc before, and its place in the queue (R102, R105)
  resDue : List (Nat × Nat × Nat) := []    -- failing results under way: tc written, word address, bank (R49)
  lsPend : List (Nat × Nat × Byte) := []   -- local writes under way: cycle written, offset, byte
  sendQ : List PendReq := []
  gatherLeft : Assoc Nat := []       -- by vector register: replies of a global gather still to land
  trig : List Nat := []              -- pending-trigger queue (R104)
  hdrs : Nat := 0                    -- trigger headers accepted, last flit not yet written
  launchBeat : W64 := 0
  lastArmed : Option W64 := none
  armed : Option W64 := none         -- the armed beat of the wait in progress
  waitEnd : Option Nat := none       -- a wait has ended with this next address; the word's fields still act
  haltPend : Bool := false           -- a swap's new bank has no VALID entry 0: it halts as at a HALT word (R114)
  slot : Option Nat := none          -- slot of the launch that started the tile
  reqs : List OutReq := []
  sets : Assoc CSet := []
  bindDue : List (Nat × Nat) := []   -- set and tag of bindings that wait for a sum to be sent (R58)
  startDue : Option Nat := none      -- slot of the launch whose entry waits for them, or for the tile to halt (R58, R100)
  eccCorr : Nat := 0
  eccUnc : Bool := false
  eccPar : Bool := false
  eccRes : Bool := false
  eccWord : Nat := 0
  bankStalls : Nat := 0
  unitStalls : Nat := 0
  nanValid : Bool := false
  nanCw : Nat := 0
  nanBank : Nat := 0
  nanBeat : W32 := 0
  cap : LaneCap := {}
  srCtr : W32 := 0
  scrub : Nat := 0                   -- next word of the scrubber (R47)
  startPend : Bool := false          -- started while its region is not in RUN (R63)
  deriving DecidableEq, Repr

/-- A clock region (R61, R76). STATE 0 RUN, 1 GATED, 2 PLL_OFF, 3 WAKING. -/
structure Region where
  st : Nat := 2
  lock : Bool := false
  wakes : Nat := 0
  fromOff : Bool := true             -- WAKING began in PLL_OFF
  deriving DecidableEq, Repr

/-- The CW_LD registers (R116). -/
structure CwLd where
  target : W64 := 0
  data0 : W64 := 0
  data1 : W64 := 0
  data2 : W64 := 0
  data3 : W64 := 0
  status : W64 := 0
  deriving DecidableEq, Repr

/-- The NaN watch (R147, R150). `collect` holds the notices of a collection and the beat it began. -/
structure NanWatch where
  ctrl : W64 := 0
  rec0 : W64 := 0
  rec1 : W64 := 0
  beat : W64 := 0
  step : W64 := 0
  later : W64 := 0
  collect : Option (W64 × List NanNotice) := none
  trapDue : Bool := false
  deriving DecidableEq, Repr

/-! ## The solver -/

/-- A lath: header (R203) and tables (R204), decoded. -/
structure Lath where
  id : Nat := 0
  fp64 : Bool := false
  cg : Bool := false
  iterCap : Nat := 32
  abandon : Bool := false
  nworld : Nat := 1
  warm : Bool := false
  hasAdj : Bool := false
  ndof : Nat := 1
  deadlineOfs : Nat := 0
  adjDeadlineOfs : Nat := 0
  pivotMin : W64 := 256
  tol : W64 := 0
  adjTol : W64 := 0
  h : W64 := 0
  bp : List Nat := []
  outBase : W64 := 0
  tables : W64 := 0
  parent : List Nat := []
  joints : List (Nat × Nat) := []
  rows : List (Nat × Nat) := []
  jac : List (List Nat) := []
  del : List (List Nat) := []
  rsCol : List Nat := []
  rsRow : List Nat := []
  init : Assoc W64 := []             -- the image's initial entries (R211)
  initQ : List W64 := []
  deriving DecidableEq, Repr

/-- The phases of a world's step (R214). -/
inductive Phase where
  | ingest | iterating | iterated | done
  deriving DecidableEq, Repr

/-- World status, R230, R232. -/
inductive WStat where
  | converged | notConverged | abandoned | diverged | frozen
  deriving DecidableEq, Repr

/-- A world's adjoint in progress (R238, R239): its boundary number, active rows, right side, iterate, v̄ and q̄, whether it has failed (R240),
and its conjugate-gradient values. -/
structure AdjRun where
  it : Nat := 0
  rows : List Nat := []
  lbar : List W64 := []
  mu : List W64 := []
  vbar : List W64 := []
  qbar : List W64 := []
  bad : Bool := false
  res : List W64 := []
  dir : List W64 := []
  rs : W64 := 0
  deriving DecidableEq, Repr

/-- One world's solver data: entries and state kept between steps (R211, R237) and the values of its step. Elements are Q31
integers in bits [31:0] or FP64 encodings, by the lath. -/
structure World where
  entries : Assoc W64 := []
  q : List W64 := []
  v : List W64 := []
  lam : List W64 := []
  frozen : Bool := false
  fresh : Bool := true               -- no step since load or RESET (R223)
  ended : Bool := false              -- END received in this step (R213)
  phase : Phase := .ingest
  status : WStat := .notConverged
  fixed : Bool := false              -- the status of the step is decided
  iters : Nat := 0
  deadline : Bool := false
  regularised : Nat := 0
  pivotDof : Nat := 0xFFFF
  qsat : Nat := 0
  sat : Nat := 0
  residual : W64 := 0                -- ρ at the world's last boundary
  recRes : Nat := 0                  -- and in FP32, as its record holds it (R232)
  adjStatus : Nat := 3
  adjIters : Nat := 0
  a : Assoc W64 := []                -- factor by pattern position (R215)
  dinv : List W64 := []
  vfree : List W64 := []
  e : List W64 := []
  delA : Assoc W64 := []             -- A[r][s] at key r * 4096 + s
  ainv : List W64 := []
  inactive : List Bool := []
  res : List W64 := []               -- CG residual
  dir : List W64 := []               -- CG direction
  rs : W64 := 0                      -- CG: dot product of the residual with itself
  adjRan : Bool := false
  adjRun : Option AdjRun := none     -- its adjoint, while it iterates
  adjQ : List W64 := []              -- the world's state-adjoint area, position and velocity part (R240)
  adjV : List W64 := []
  nonFinite : Bool := false
  deriving DecidableEq, Repr

/-- A LAUNCH that has started on a slot (R100, R282, R60). -/
structure Launch where
  q : Nat
  index : Nat
  entry : Nat
  step : W64
  armBeat : W64
  tag : Nat
  tiles : List Nat                   -- mapped tiles
  left : List Nat                    -- mapped tiles not yet HALTED
  sat : Nat := 0
  flush : Nat := 0
  replay : Nat := 0
  nan : Nat := 0
  setSums : Assoc (Nat × Nat) := []  -- by counter set: its SAT and FLUSH (R262)
  doneBeat : Option W64 := none
  status : Nat := 0                  -- STATUS its record will carry
  progress : W64 := 0
  deriving DecidableEq, Repr

/-- An episode slot: its binding (R432), its worlds, its launch, and the SOLV_SUM registers (R241). -/
structure Slot where
  context : Nat := 0
  lath : Option Nat := none
  worldBase : W64 := 0
  ctxLsOfs : Nat := 0
  step : W64 := 0
  worlds : Assoc World := []
  groupIters : Assoc Nat := []       -- iterations run by a lane group (R225)
  launch : Option Launch := none
  sum0 : W64 := 0
  sum1 : W64 := 0
  sumDue : Bool := false
  deriving DecidableEq, Repr

/-! ## Training -/

/-- An entry of the agreed gradient scale table (R251). -/
structure TEntry where
  t : Int := 0
  run : Nat := 0
  deriving DecidableEq, Repr

/-- The training state of one layer: zero-run counter (R258), dead-layer state (R259), and the norms of the last verdict (R260). -/
structure Layer where
  zeroRun : Nat := 0
  dead : Bool := false
  frozen : Bool := false
  zero : Bool := false               -- the layer's NONZERO OR of the step was clear
  wNorm : Option W32 := none
  gNorm : W32 := 0
  uNorm : W32 := 0
  deriving DecidableEq, Repr

/-- What the owner of a layer's shard takes from the sums of its reduce-scatter (R256, R393): the NONZERO bit, and the SAT and HIGH ORs of
its blocks in stream order. -/
structure Owned where
  nonzero : Bool
  sat : List Bool
  high : List Bool
  deriving DecidableEq, Repr

/-- A resident model context: its record (R431) and its training state (R249 to R259, R401). -/
structure Ctx where
  nlayer : Nat := 0
  weightBase : W64 := 0
  optBase : W64 := 0
  scaleBase : W64 := 0
  stageBase : W64 := 0
  recordBase : W64 := 0
  user : W64 := 0
  table : List TEntry := []
  usedCrc : W32 := 0                 -- TABLE_CRC of the step's table
  exp : Option Nat := none           -- E, once the context has run; before, INIT_EXP
  clean : Nat := 0                   -- N
  usedExp : Nat := 0                 -- E used in the step
  skimDone : Bool := false
  skimRan : Bool := false            -- the Skim pass ran in the current step
  curVersion : W64 := 0
  cur : Nat := 0                     -- which of a shard's two slots is current (R402)
  layers : List Layer := []
  satBlocks : Nat := 0
  shrunk : Nat := 0
  recFlags : Nat := 0                -- FLAGS of the step record (R263)
  loss : W32 := 0
  validWorlds : Nat := 0
  ran : Bool := false                -- the step ran this context
  trains : Bool := false             -- and issued a SKIM_MAX or REDUCE_SCATTER of it: a training step, which a verdict ends (R22, R262)
  step : W64 := 0                    -- the step's number, of its LAUNCHes (R457)
  seed : Option W32 := none          -- the step's loss seed 2^E / count, once the count is known (R243)
  oldTable : Option (List TEntry) := none   -- the table before the step's Skim pass (R257)
  owned : Assoc Owned := []          -- by layer, what the step's sums of the module's own shard gave (R256)
  rollSums : List (Nat × Nat × Nat) := []   -- counter set, its SAT and FLUSH sums of the step (R262)
  deriving DecidableEq, Repr

/-- Training registers (R264) and the step's module-wide verdict data. -/
structure Train where
  ratchetCtrl : W64 := 0x7D018000F
  ratchetStatus : W64 := 0           -- SKIPS and FLOOR_HITS; EXP and CLEAN are the current context's
  scaleCtrl : W64 := 0x64_8800_C8EC
  scaleStatus : W64 := 0             -- SAT_BLOCKS and SHRUNK_BLOCKS; TABLE_CRC is the current table's
  seed : W64 := 0
  deadCtrl : W64 := 0x3E8
  stepBase : W64 := 0
  stepRing : W64 := 0x40             -- REC_BYTES is the current context's
  verdict : Option VerdictDown := none
  applied : Bool := false            -- the verdict has acted (R257)
  curCtx : Nat := 0                  -- the context that a step ran last
  sat : Nat := 0                     -- sums over the step's completion records (R263)
  flush : Nat := 0
  replay : Nat := 0
  nan : Nat := 0
  newest : Option (W64 × List Byte) := none   -- the newest step record
  deriving DecidableEq, Repr

/-! ## The Escapement -/

/-- An announced period (R284). -/
structure Announce where
  k1 : W64
  e : W64
  lambda : Nat
  late : Nat
  deriving DecidableEq, Repr

/-- The ESC_ registers (R295) and the internal state of the divider, the Hairspring and the reference monitor. -/
structure Esc where
  beat : W64 := 0
  rcCount : W64 := 0                 -- at the last boundary or load
  beatCfg : W64 := 0x2000200
  beatChange : W64 := 0
  syncLoad : W64 := 0
  status : W64 := 0
  periodCfg : W64 := 0x200101900000000
  anchor : W64 := 0
  first : W64 := 0
  now : W64 := 0
  start : W64 := 0
  next : W64 := 0
  lateness : W64 := 0
  lateStats : W64 := 0
  hsCfg : W64 := 0x1401000001000
  hsStatus : W64 := 0
  hsSlew : W64 := 0
  wakeCfg : W64 := 0x80020608
  freq : Int := 0
  owe : Int := 0
  lastSlew : W64 := 0
  t1 : Option W64 := none
  inTol : Nat := 0
  noReply : Nat := 0
  prevState : Nat := 0
  stepped : Bool := false            -- a step was sent since ACQUIRE began
  acquireStep : Option Int := none   -- a step deferred while the rack is busy (R276)
  slews : List (W64 × Int) := []     -- beats whose length a slew or step changes
  slewHeard : Bool := false
  missed : Nat := 0
  busy : Assoc Bool := []            -- acknowledgements: slot reports a slice outside JOINING
  markers : List Nat := []           -- ranks whose PERIOD_DONE of the current period the master holds
  doneSent : Bool := false           -- PERIOD_DONE of the current period has been sent
  bound : List (Nat × Nat) := []     -- period-bound operations that acted in the period and are not complete: queue and index (R283)
  announced : Option Announce := none
  started : Bool := false            -- periods have started
  starts : List (Nat × W64) := []    -- starts of the periods for which a PERIOD arm may still name a beat to come (R278)
  refWindows : Nat := 0
  holdover : Nat := 0
  unsyncDue : Bool := false          -- SYNCED clears at the next boundary (R266)
  deriving DecidableEq, Repr

/-! ## The stacks -/

/-- A write-combining entry (R305). -/
structure WcbE where
  addr : Nat
  mask : W64
  data : Line
  touched : Nat                      -- line slot of its last write
  deriving DecidableEq, Repr

/-- A queued request with the line slot in which it arrived (R300). -/
structure QReq where
  req : LineReq
  at_ : Nat
  seq : Nat := 0                     -- its place in the channel's order of arrival (R302)
  placed : Bool := false             -- an eviction has been queued for the buffer entry that it needs (R305)
  deriving DecidableEq, Repr

/-- A memory channel (R298 to R321, R323). STATE 0 OFF, 1 TRAINING, 2 READY, 3 TEST, 4 CLOSED, 5 FAULT. -/
structure Chan where
  st : Nat := 0
  urgent : List QReq := []
  normal : List QReq := []
  writes : List QReq := []
  wcb : List WcbE := []              -- oldest first
  waiting : List QReq := []          -- writes that wait for a free entry
  seq : Nat := 0                     -- requests that have arrived
  pressure : Bool := false
  slot : Nat := 0                    -- line slots since reset
  scrub : Nat := 0
  ecc : W64 := 0
  stats : W64 := 0
  tgCtrl : W64 := 0x10100
  tgRange : W64 := 0
  tgUser : Assoc W64 := []
  tgStatus : W64 := 0
  tgFirst : W64 := 0
  tgPos : Nat := 0                   -- lines done of the generator's current pass
  tgGen : Nat := 0                   -- the generator's shift register
  deriving DecidableEq, Repr

/-- A stack's thermal state (R313 to R317). -/
structure Stack where
  therm : W64 := 0
  stats : W64 := 0
  counting : Bool := false           -- its sample count runs: every channel has reached READY (R313)
  sampled : Bool := false
  pend : Option Nat := none          -- level that applies at the next boundary
  deferLevel : Option Nat := none
  protect : Bool := false
  deriving DecidableEq, Repr

/-- The stacks and their module-wide registers. -/
structure Mem where
  cfg : W64 := 0x0100_0190
  thermCfg : W64 := 0xC07D0
  status : W64 := 0
  stks : Assoc Stack := []
  chans : Assoc Chan := []
  bytes : List Host.Cell := []       -- stack contents by space-0 offset
  marks : Assoc Mark := []           -- by 64-bit word (offset / 8)
  inbox : List LineReq := []         -- line requests on their way to their channels
  deriving DecidableEq, Repr

/-! ## The fabric -/

/-- A packet queued for a port (R330, R331). -/
structure PortItem where
  pkt : FabPkt
  vc : Nat
  age : Nat                          -- cell times waited
  deriving DecidableEq, Repr

/-- A lane's PRBS checker (R335): the newest received bits and how many agreed in a row. -/
structure Checker where
  hist : List Bool := []
  agree : Nat := 0
  deriving DecidableEq, Repr

/-- A numbered cell of the sender: the packet that it carries a part of, and whether it ends it (R326, R328). -/
structure Tx where
  cell : Cell
  pkt  : FabPkt
  last : Bool
  deriving DecidableEq, Repr

/-- A fabric port (R324 to R335, R368). STATE 0 DOWN, 1 TRAINING, 2 IDENT, 3 UP, 4 DISABLED, 5 TEST. -/
structure Port where
  st : Nat := 0
  reason : Nat := 0
  enable : Bool := true
  signal : Bool := false
  peer : W64 := 0
  ident : W64 := 0
  matched : Bool := false            -- the IDENT values matched, IDENT_OK sent
  okGot : Bool := false
  fec : W64 := 0
  link : W64 := 0
  prbs : W64 := 0x07F8
  prbsErr : Assoc W64 := []
  checkers : Assoc Checker := []
  gens : Assoc Nat := []             -- shift register of each lane's pattern generator in TEST (R335)
  genOut : Assoc Nat := []           -- the 85 bits of each lane in the newest cell time of TEST, the first in bit 0
  txSeq : Nat := 0
  rxSeq : Nat := 0
  retry : List Tx := []              -- sent, not acknowledged, in the order of their numbers
  resend : List Tx := []             -- to be sent again after a NAK
  nakSent : Option Nat := none
  nakSeq : Nat := 0
  nakRun : Nat := 0
  sendNak : Bool := false
  credits : Assoc Nat := []          -- used credits of each VC (256 held at reset)
  cirUsed : Assoc Nat := []          -- used credits of each circuit (64 held at reset)
  freed : Assoc Nat := []
  queue : List PortItem := []
  cirQueue : List FabPkt := []
  halts : List FabPkt := []
  flight : List Tx := []             -- cells of the packet in flight that are still to be sent
  cirFlight : Assoc (List Tx) := []
  rx : Assoc (List Line) := []       -- bodies of a packet being received, by VC (6 + c: of circuit c)
  cellTime : Nat := 0
  sent : List Cell := []             -- cells sent, newest last
  ctl : List CtlBlock := []          -- messages given to the control blocks, newest last
  markersOut : List Nat := []        -- VCs whose drain marker has not returned
  deriving DecidableEq, Repr

/-- An outstanding transaction of the edge (R348). -/
structure Txn where
  tag : Nat
  pkt : FabPkt
  src : ReqSrc
  beat : W64
  held : Bool := false               -- timed out: the tag is held until its late answer
  left : Nat := 0                    -- line and flag operations of a memory transaction that are not performed; 0 for one of the fabric
  err : Option DropCause := none     -- the first error of a memory transaction's operations
  deriving DecidableEq, Repr

/-- A transaction that waits at the edge, and whether TAG_STALLS has counted its wait (R348). -/
structure EdgeReq where
  pkt : FabPkt
  src : ReqSrc
  stalled : Bool := false
  deriving DecidableEq, Repr

/-- The fabric. -/
structure Fab where
  id : W64 := 0x3FFF
  status : W64 := 0
  ccCfg : W64 := 0x1020080021040
  txnCfg : W64 := 0x4080040
  drop0 : W64 := 0
  drop1 : W64 := 0
  drop2 : W64 := 0
  stats0 : W64 := 0
  stats1 : W64 := 0
  ports : Assoc Port := []
  rt : Assoc W64 := []
  rts : Assoc W64 := []
  rate : Assoc Nat := []             -- 4,096 minus the rate, so an unlisted module is at line rate
  lastCut : Assoc Nat := []
  spent : Assoc Nat := []            -- cells sent toward a module beyond its share so far, in 1/4,096 cell (R360)
  cir : Assoc W64 := []              -- port * 1024 + entry * 4 + word
  cirs : Assoc W64 := []
  switchQ : List (Nat × FabPkt) := []   -- packets at the switch: arriving port (63 own) and packet
  delivered : List FabPkt := []      -- packets routed to this module, not yet acted on
  waiting : List EdgeReq := []       -- transactions that wait at the edge
  awaited : List FabPkt := []        -- packets that were in the module's queues when its last drain marker returned (R353)
  txns : List Txn := []
  nextTag : Nat := 0
  drainBeat : Option W64 := none
  markersSent : Bool := false
  inReqs : List (FabPkt × Nat × Option DropCause) := []   -- requests being performed here: line or flag operations left, first error
  deriving DecidableEq, Repr

/-! ## Slices and collectives -/

/-- A collective in progress on a channel (R386 to R388). -/
structure CollRun where
  q : Nat
  index : Nat
  kind : Nat
  context : Nat
  layer : Nat
  critical : Bool
  final : Bool
  step : W64
  tag : Nat
  sent : Bool := false
  left : Nat := 0                    -- requests not yet answered
  arrived : List Nat := []           -- SHARD_GATHER: positions in the domain whose shards have arrived whole (R403)
  phase : Nat := 0
  ending : Option Nat := none        -- STATUS with which it ends once its requests are answered (R282, R480)
  progress : W64 := 0
  deriving DecidableEq, Repr

/-- Slice registers (R410) and the exchanges of the member and the master. -/
structure Slice where
  cfg : W64 := 0x3FFF04001
  tableBase : W64 := 0
  status : W64 := 0x3FFF0000
  mismatch : W64 := 0
  step : W64 := 0
  epoch : W64 := 0
  collCfg : W64 := 0x1000
  collFault : W64 := 0
  chans : Assoc W64 := []
  table : List (Nat × Nat × Nat) := []      -- MODULE_ID, RACK, SLOT of each rank
  joinBeat : W64 := 0
  lastReport : Option W64 := none
  joinAt : Option W64 := none
  joinGo : Bool := false                    -- the master has sent JOIN_GO for the join in progress (R375)
  rejoin : Option W64 := none               -- beat from which a MISMATCH puts the slice into JOINING (R378)
  reports : List (Nat × Report × Bool × W64) := []   -- rank, report, agrees, beat of receipt
  commitReports : List (Nat × Report × W64) := []
  lateCommits : List W64 := []              -- beats of commits that the master has decided LATE and that are still to come (R378)
  counts : List (W64 × Nat × Nat × W64) := []   -- COUNT_UP held: step, context, rank, count
  verdicts : List (Nat × VerdictUp) := []   -- VERDICT_UP held by the master
  verdictSent : Bool := false
  finalDone : Bool := false                 -- the step's REDUCE_SCATTER marked FINAL has completed (R396)
  finalWait : List (Nat × Nat) := []        -- collectives issued before it: queue and index of those not completed
  running : Assoc CollRun := []             -- by channel, the oldest
  queued : List (Nat × CollRun) := []       -- issued behind it
  early : List (Nat × FabPkt) := []         -- packets of a SHARD_GATHER that this member has still to begin: channel, packet (R403)
  deriving DecidableEq, Repr

/-! ## Images -/

/-- A TILE_MAP pattern (R415). -/
structure Pattern where
  x0 : Nat
  x1 : Nat
  y0 : Nat
  y1 : Nat
  xs : Nat
  ys : Nat
  prog : Nat
  deriving DecidableEq, Repr

/-- A program record (R414). -/
structure Program where
  num : Nat
  entries : List W16
  sr : SRCtx
  words : List W256
  deriving DecidableEq, Repr

/-- The items of an image (R413) that are held outside the tiles: what is staged, or what is active. -/
structure Items where
  programs : List Program := []
  patterns : List Pattern := []
  meshCircuits : List Config.MeshCircuit := []   -- the slot tables of the routers (R53), and the tiles that send CLASS 3 (R91)
  countTrees : List (Nat × Nat × Assoc Nat) := []   -- by slot and ENTRY: child tile to parent tile + 1 (R59)
  stackTiming : List Byte := []
  queueBind : Assoc Nat := []        -- queue to slot + 1
  slots : List (Nat × Nat × Nat × W64 × Nat) := []     -- SLOT, CONTEXT, LATH_ID, WORLD_BASE, CTX_LS_OFS
  contexts : List (Nat × Nat × List W64) := []          -- CONTEXT, NLAYER, six base words
  laths : List Lath := []
  stackData : List (Nat × List Byte) := []
  areas : List (Nat × Nat × Nat) := []                  -- start, length, kind
  mapping : List Byte := []
  mapCtxs : List Config.CtxMap := []
  mapLayers : List Config.LayerMap := []
  periodOps : List Config.PeriodOp := []   -- the operations marked period-bound (R283)
  regWrites : List (Nat × W64 × W64) := []
  windows : List (Nat × List (Nat × Nat)) := []
  routing : List (Nat × W64) := []
  circuits : List (Nat × W64) := []
  types : List Nat := []             -- section types present
  deriving DecidableEq, Repr

/-- The staging of the loader (R420 to R424). -/
structure Staged where
  digest : W256
  identity : W256
  patch : Bool
  signed : Bool
  epoch : Nat
  seed : W64
  items : Items
  targets : List Nat                 -- targeted tiles that some pattern covers
  valid : Bool := true
  deriving DecidableEq, Repr

/-- A COMMIT that is armed for a beat (R427, R428). -/
structure Armed where
  q : Nat
  index : Nat
  beat : W64
  reported : Bool := false
  goAhead : Bool := false
  stop : Option Nat := none          -- status that COMMIT_STOP names
  faulted : Nat := 0                 -- targeted tiles in FAULT at its evaluation
  noSwap : Nat := 0                  -- targeted tiles that did not swap (R430)
  deriving DecidableEq, Repr

/-- The CFG_ image registers (R439), the loader, and the active image's items. -/
structure Cfg where
  loadSrc : W64 := 0
  loadAddr : W64 := 0
  loadStatus : W64 := 0
  secure : W64 := 0
  activeInfo : W64 := 0
  activeDigest : W256 := 0
  stagedDigest : W256 := 0
  verifyDigest : W256 := 0           -- digest taken in VERIFY
  verifySig : Option Bool := none    -- what VERIFY found of the signature; none: unsigned (R420)
  staging : Option Staged := none
  undefined : Bool × List Nat := (false, [])   -- tiles whose shadow bank is undefined (R424): all but those listed, or those listed
  active : Items := {}
  hasActive : Bool := false
  armed : List Armed := []           -- COMMITs that are armed and not yet evaluated
  commit : Option Armed := none      -- the COMMIT that its evaluation has let apply, until it does (R428)
  retiming : Bool := false
  lathBusy : List Nat := []
  deriving DecidableEq, Repr

/-! ## The host -/

/-- The state of a fetched command (R452). -/
inductive CmdSt where
  | fetched | dispatched | acting | done
  deriving DecidableEq, Repr

/-- A fetched command (R448, R452). -/
structure Cmd where
  index : Nat
  raw : Line
  st : CmdSt := .fetched
  arm : Option W64 := none           -- the beat at whose boundary it acts, once known
  tag : Option Nat := none
  firstEval : Option W64 := none     -- WAIT_FLAG: the beat of its first evaluation
  value : W64 := 0                   -- WAIT_FLAG, SET_FLAG: value for the record
  sent : Bool := false               -- SET_FLAG to another module: the atomic has been issued
  waits : List (Nat × Nat) := []     -- FENCE: commands it waits for
  lines : List (Nat × Nat) := []     -- FENCE: channel and line of each entry it waits for
  lastEval : Option W64 := none      -- WAIT_FLAG: the beat of its last evaluation
  late : Bool := false
  progress : W64 := 0                -- the beat in which it was dispatched
  replay : Bool := false             -- run by a replay (R517)
  deriving DecidableEq, Repr

/-- A queue (R446 to R451). STATE 0 DISABLED, 1 ENABLED, 2 BLOCKED, 3 FETCH_ERROR. -/
structure Queue where
  sq : W64 := 0
  cq : W64 := 0
  cfg : W64 := 8
  st : Nat := 0
  overrun : Bool := false
  busy : Bool := false
  tail : W32 := 0
  oldest : Nat := 0
  fetched : Nat := 0                 -- index of the next command to fetch
  cmds : List Cmd := []              -- fetched, no record yet
  recorded : List Nat := []          -- indices above OLDEST whose record has been written
  doomed : List Nat := []            -- submitted commands that an ABORT has aborted before they were fetched
  deriving DecidableEq, Repr

/-- A completion record's fields (R463, R467). -/
structure Record where
  q : Nat
  index : Nat
  opcode : Nat
  status : Nat
  user : Nat
  notConv : Nat
  abandoned : Nat
  diverged : Nat
  beat : W64
  body : Flit
  tag : Option Nat := none           -- its operation tag, free once the record is written (R455)
  deriving DecidableEq, Repr

/-- A posted write of the module to host memory (R465, R472). -/
structure HostWr where
  addr : W64
  bytes : List Byte
  deriving DecidableEq, Repr

/-- A line of a COPY that is outstanding (R460): its read waits for its answer, its data wait for the writes of the lines below, or its
write waits for its answer. -/
inductive CopySt where
  | reading
  | held (v : Line)
  | writing
  deriving DecidableEq, Repr

/-- A COPY in flight on an engine (R460). -/
structure CopyRun where
  q : Nat
  index : Nat
  src : W64
  dst : W64
  bytes : Nat
  cls : Nat
  off : Nat := 0                     -- offset of the first line not begun
  lines : List (Nat × CopySt) := []  -- lines outstanding by offset, lowest first
  err : Option (Nat × DropCause) := none   -- the lowest failing line, and its cause
  ending : Option Nat := none        -- STATUS with which it ends once its requests are answered
  progress : W64 := 0
  deriving DecidableEq, Repr

/-- A register write that has landed and acts at the next boundary (R280). -/
structure Landed where
  path : Path
  offset : Nat
  value : W64
  target : W64 := 0                  -- CW_LD: TARGET and DATA latched as GO is written (R117)
  data : List W64 := []
  deriving DecidableEq, Repr

/-- A read of a register or window that has returned, with its value or as Unsupported Request (R442). -/
structure ReadOut where
  path : Path
  offset : Nat
  value : W64
  unsupported : Bool := false
  deriving DecidableEq, Repr

/-- The link of the host port (R12, R553): in Detect.Quiet, or trained in L0, or in L1 by PCI power management. -/
inductive HostLink where
  | detectQuiet | l0 | l1
  deriving DecidableEq, Repr

/-- The host link, queues and flags. -/
structure HostIf where
  winCfg : W64 := 0
  mirrorAddr : W64 := 0
  mirrorCfg : W64 := 0x100
  status : W64 := 0x20_0001          -- DMA_HELD and TAGS_FREE; the error bits are set here
  link : HostLink := .detectQuiet    -- until start-up has ended stage 8 (R553)
  busMaster : Bool := false
  d0 : Bool := true
  queues : Assoc Queue := []
  tags : Assoc (Nat × Nat × Nat × W64) := []   -- operation tag to queue, CMD_INDEX, ENTRY, step
  held : List Record := []
  dmaDue : Bool := false             -- DMA is allowed again; the boundary that writes the held records is still to come (R441)
  mirrorSeq : W64 := 0
  out : List HostWr := []            -- posted writes, oldest first
  reads : List ReadOut := []
  fetches : List W64 := []           -- host addresses of the submission slots that have been read, oldest first (R447, R449)
  landed : List Landed := []
  winLanded : List (Nat × W64) := [] -- window writes to flags that act at the next boundary
  flagIn : List (ReqSrc × Nat × FlagAct) := []   -- flag operations on their way to the flag area
  flags : Assoc W64 := []
  flagMarks : Assoc Mark := []
  flagScrub : Nat := 0
  copies : Assoc CopyRun := []
  deriving DecidableEq, Repr

/-! ## Faults and checkpoints -/

/-- A halt that acts at a boundary (R478, R362). -/
structure HaltDue where
  beat : W64
  cause : Nat
  src : Nat
  own : Bool
  deriving DecidableEq, Repr

/-- A checkpoint slot (R487, R490): its header, with the completion that it records, the ranges of the own snapshot in AREAS order with
their addresses, the values of the state block, and the parity block. -/
structure CkSlot where
  step : W64 := 0
  complete : Bool := false           -- the SAVE that wrote it has completed OK
  parity : Bool := false             -- and it has a parity block
  image : W256 := 0
  mapDigest : W256 := 0
  snap : List (Nat × List Byte) := []
  state : List W64 := []
  block : List Byte := []
  deriving DecidableEq, Repr

/-- A segment that is arriving from a member of the parity group (R489): its index in the group, STEP_LO of its first packet, and its bytes
so far. -/
structure CkPiece where
  index : Nat
  stepLo : W32
  bytes : List Byte
  deriving DecidableEq, Repr

/-- A CHECKPOINT in progress. `out` numbers the requests not yet answered; `got` holds what has arrived for a RESTORE: kind (0 slot
header, 1 rebuild data, 2 data from the gateway), number or offset, bytes. -/
structure CkRun where
  q : Nat
  index : Nat
  op : Nat
  tier : Nat
  slot : Nat
  step : W64
  target : W64
  moved : Nat := 0                   -- bytes moved
  rebuilt : Bool := false
  stage : Nat := 0
  out : List (Nat × Nat) := []       -- requests not answered: number, bytes that the request moves
  got : List (Nat × Nat × List Byte) := []
  top : Nat := 0                     -- TIER of a RESTORE
  ending : Option Nat := none
  progress : W64 := 0
  deriving DecidableEq, Repr

/-- The RAS block (R501) and the checkpoint engine. -/
structure Ras where
  status : W64 := 0
  fault0 : W64 := 0
  fault1 : W64 := 0
  fault2 : W64 := 0
  fault3 : W64 := 0
  halt : W64 := 0
  ckptCfg : W64 := 8
  ckptNew : Assoc W64 := []
  ckptPrev : Assoc W64 := []
  tree : List FaultRec := []         -- faults on the fault tree, not yet arrived
  halts : List HaltDue := []
  tier1 : Assoc CkSlot := []
  tier2 : Assoc CkSlot := []
  run : Option CkRun := none
  pieces : List CkPiece := []        -- incoming segments, of the SAVE in progress or of the next one, in the order of arrival
  notices : List NanNotice := []     -- NaN notices on the debug ring
  haltEnded : List (Nat × Nat) := []    -- commands that the halt at the present boundary ended (R282)
  deriving DecidableEq, Repr

/-! ## Hangs and resets -/

/-- A suspect of a hang (R505, R521). -/
structure Suspect where
  q : Nat
  first : Nat
  endIdx : Nat := 0
  verdict : Nat := 3
  cause : Nat := 0
  partner : Nat := 0xFFFF
  flag : W64 := 0
  endBeat : W64 := 0
  cmds : List Cmd := []              -- its commands in flight at the declaration
  replayed : Bool := false
  waitFlag : Option Nat := none
  resume : List Cmd := []            -- commands without a record that the replay has taken over: the queue goes on with them (R519)
  deriving DecidableEq, Repr

/-- What a location of the dump holds (R509). -/
inductive DumpSrc where
  | reg (offset : Nat)               -- a register by its BAR0 offset
  | tileReg (offset : Nat)           -- TILE_STATUS by its space-3 offset
  | unit (engine : Nat)              -- a unit's status word (R510)
  | word (v : W64)                   -- a word of a fetched command, from the dispatcher's copy
  | flag (n : Nat)
  deriving DecidableEq, Repr

/-- A location of the dump with its section code (R509). -/
structure DumpLoc where
  section_ : Nat
  src : DumpSrc
  deriving DecidableEq, Repr

/-- Hang handling, resets and CROWN_ registers (R525). -/
structure Hang where
  wdCfg : W64 := 0x4000000C350
  status : W64 := 0
  info : W64 := 0
  beat : W64 := 0
  resetStatus : W64 := 0
  escCfg : W64 := 0x25803
  dumpAddr : W64 := 0
  buffer : List Host.Cell := []      -- the 272 KiB dump buffer
  dumping : Bool := false            -- the dump is being taken
  todo : List DumpLoc := []          -- locations still to read
  entries : Nat := 0
  resetDue : Bool := false           -- the dump has ended; the hung unit's reset acts at the next boundary (R506)
  oosDue : Bool := false             -- OUT_OF_SERVICE from the next boundary (R522)
  suspects : List Suspect := []
  replaying : Option Nat := none
  replayBeat : W64 := 0
  frozen : Option Nat := none        -- the hung unit, frozen
  endedAt : Option W64 := none       -- the beat in which the last handling ended (R504)
  last : Assoc W64 := []             -- the progress beat of each unit when it was last busy (R502, R510)
  resetTimes : List W64 := []        -- CROWN_UPTIME of each counted reset
  coldSince : Bool := false          -- a COLD reset since OUT_OF_SERVICE was entered (R523)
  dumpSlot : Nat := 0
  deriving DecidableEq, Repr

/-! ## Power, start-up, identity -/

/-- The module flash (R555 to R561, R487, R523). -/
structure Flash where
  images : Assoc (List Byte) := []
  firmware : Assoc (List Byte) := []
  fwVersion : Assoc W64 := []
  fwValid : List Nat := [0]
  keys : Assoc (List Byte) := []     -- 64 bytes of each installed key
  dumps : Assoc (List Host.Cell) := []
  outOfService : Bool := false
  policyRecord : Bool := false       -- the calibration record's start-up value of POLICY
  deriving DecidableEq, Repr

/-- CROWN_ power, environment, start-up and identity registers (R564), the governor (R549) and the pins. -/
structure Power where
  pwrCfg : W64 := 0x5780A641D4C
  pwrStatus : W64 := 0x0578_0000
  env : W64 := 0
  boot : W64 := 0
  keyCtrl : W64 := 0
  keyAddr : W64 := 0
  attCtrl : W64 := 0
  attAddr : W64 := 0
  nonce0 : W64 := 0
  nonce1 : W64 := 0
  nonce2 : W64 := 0
  nonce3 : W64 := 0
  certCtrl : W64 := 0
  flashSrc : W64 := 0
  flashCtrl : W64 := 0
  flashRun : Option (Nat × W64) := none      -- flash copy under way: its slot and its source, taken at GO (R561)
  flashAfter : Option (Nat × Nat) := none        -- the tier-2 CHECKPOINT that the flash copy waits for (R561)
  uptime : W64 := 0
  scratch : Assoc W64 := []
  samples : List Nat := []           -- newest 100 power samples, newest first
  delta : List (Nat × Int) := []     -- delta[f] by f; unlisted is undefined
  pendDelta : Option (Nat × Nat × Nat) := none   -- a step to f at time t from average A
  lastChange : Nat := 0
  nowUs : Nat := 0
  attReport : Option (List Byte) := none
  keyRun : Option (Nat × List Byte) := none   -- key operation in progress: slot, and the key or nothing
  pwrEnPin : Bool := false
  powerGood : Bool := false
  mainOn : Bool := false
  stopAtBoundary : Bool := false
  relocked : Bool := false
  deriving DecidableEq, Repr

/-- The state of the block. `pending` is the queue of commands that wait, first in, first out. -/
structure State where
  pending : List Instr
  tiles : Assoc Tile
  tileDef : Tile                     -- the state of every tile that is not listed (a FULL image's COMMIT swaps them all)
  regions : Assoc Region
  ls : List Host.Cell                -- local stores by space-1 offset (R67)
  lsMarks : Assoc Mark               -- by tile * 8192 + word
  lsLog : List Host.Cell             -- local-store writes of the command in progress, newest first
  memLog : List Host.Cell            -- stack writes of the command in progress, newest first
  lsWipe : Bool                      -- the command in progress has cleared every local store
  memWipe : Bool                     -- the command in progress has cleared the stacks
  mesh : List MeshPkt                -- the mesh's request traffic, in the order sent, each packet with its place (R50 to R56)
  meshTc : Nat                       -- mesh cycles so far: modulo 16 the slot of the frame (R53)
  answers : List MeshPkt             -- the mesh's reply traffic: answers on their way to tiles (R52)
  cwld : CwLd
  nan : NanWatch
  solvCtrl : W64
  laths : Assoc Lath
  slots : Assoc Slot
  ctxs : Assoc Ctx
  train : Train
  esc : Esc
  mem : Mem
  fab : Fab
  slice : Slice
  cfg : Cfg
  host : HostIf
  ras : Ras
  hang : Hang
  power : Power
  flash : Flash
  freeCtr : Nat                      -- the model's own: uses of Config.freeValue so far (log 5)
  deriving DecidableEq, Repr

/-- The block right after a COLD reset, before its start-up stages have run: every register at its Reset column, every memory at
the contents that an unlisted address reads as (log 2, log 3). -/
def State.reset : State where
  pending := []
  tiles := []
  tileDef := {}
  regions := []
  ls := []
  lsMarks := []
  lsLog := []
  memLog := []
  lsWipe := false
  memWipe := false
  mesh := []
  meshTc := 0
  answers := []
  cwld := {}
  nan := {}
  solvCtrl := 0
  laths := []
  slots := []
  ctxs := []
  train := {}
  esc := {}
  mem := {}
  fab := {}
  slice := {}
  cfg := {}
  host := {}
  ras := {}
  hang := {}
  power := {}
  flash := {}
  freeCtr := 0

end Sys2Proof.Machine
end

