-- ==== Sys2Proof/Machine/Operands.lean ====
section
/-! DEFINITION. The fields of a control word (R77 to R93), its legality, the lane layout of its operands (R87, R106) and the
addresses of its generators (R79, R80). A word is held as a natural number, bit i of the word being bit i. -/

namespace Sys2Proof.Machine

/-! ## Fields (R77) -/

/-- SEQ_OP. -/
def wSeqOp (w : Nat) : Nat := nfld w 0 3
/-- SEQ_SEL. -/
def wSeqSel (w : Nat) : Nat := nfld w 3 2
/-- SEQ_TARGET. -/
def wTarget (w : Nat) : Nat := nfld w 5 8
/-- WAIT_KIND. -/
def wWaitKind (w : Nat) : Nat := nfld w 13 2
/-- OP of generator n. -/
def wAgOp (w n : Nat) : Nat := nfld w (16 + 16 * n) 3
/-- STEP of generator n. -/
def wAgStep (w n : Nat) : Bool := nfld w (19 + 16 * n) 1 == 1
/-- ARG of generator n. -/
def wAgArg (w n : Nat) : Nat := nfld w (20 + 16 * n) 12
/-- PORT of generator n. -/
def wAgPort (w n : Nat) : Nat := nfld w (20 + 16 * n) 3
/-- VREG of generator n. -/
def wAgVreg (w n : Nat) : Nat := nfld w (23 + 16 * n) 4
/-- FMT_X. -/
def wFmtX (w : Nat) : Nat := nfld w 80 4
/-- FMT_Y. -/
def wFmtY (w : Nat) : Nat := nfld w 84 4
/-- ACC_ENTRY. -/
def wAcc (w : Nat) : Nat := nfld w 88 8
/-- ACC_CLR. -/
def wAccClr (w : Nat) : Bool := nfld w 96 1 == 1
/-- ENTRY_IDX. -/
def wEntryIdx (w : Nat) : Nat := nfld w 97 2
/-- BANK_OP. -/
def wBankOp (w : Nat) : Nat := nfld w 99 3
/-- VOP. -/
def wVop (w : Nat) : Nat := nfld w 104 6
/-- VD. -/
def wVd (w : Nat) : Nat := nfld w 110 4
/-- VA. -/
def wVa (w : Nat) : Nat := nfld w 114 4
/-- VB. -/
def wVb (w : Nat) : Nat := nfld w 118 4
/-- LW. -/
def wLw (w : Nat) : Nat := nfld w 122 2
/-- VSUB. -/
def wVsub (w : Nat) : Nat := nfld w 124 4
/-- SHIFT. -/
def wShift (w : Nat) : Nat := nfld w 128 5
/-- TAILC. -/
def wTailc (w : Nat) : Nat := nfld w 133 2
/-- F64_OP. -/
def wF64Op (w : Nat) : Nat := nfld w 136 4
/-- SRC_A, SRC_B, SRC_C for k = 0, 1, 2. -/
def wSrc (w k : Nat) : Nat := nfld w (140 + 3 * k) 3
/-- DST. -/
def wDst (w : Nat) : Nat := nfld w 149 2
/-- PKT_OPEN. -/
def wPktOpen (w : Nat) : Bool := nfld w 152 1 == 1
/-- PKT_CLOSE. -/
def wPktClose (w : Nat) : Bool := nfld w 153 1 == 1
/-- PKT_AG. -/
def wPktAg (w : Nat) : Nat := nfld w 154 2
/-- PKT_TRIGGER. -/
def wPktTrig (w : Nat) : Nat := nfld w 156 4
/-- PKT_CLASS. -/
def wPktClass (w : Nat) : Nat := nfld w 160 2
/-- PKT_OP. -/
def wPktOp (w : Nat) : Nat := nfld w 162 3
/-- CNT_SEL. -/
def wCntSel (w : Nat) : Nat := nfld w 168 2
/-- CNT_OP. -/
def wCntOp (w : Nat) : Nat := nfld w 170 3
/-- CNT_SRC. -/
def wCntSrc (w : Nat) : Nat := nfld w 173 2
/-- CNT_CONST. -/
def wCntConst (w : Nat) : Nat := nfld w 175 16
/-- K_SEL. -/
def wKSel (w : Nat) : Nat := nfld w 192 2
/-- K_SET. -/
def wKSet (w : Nat) : Bool := nfld w 194 1 == 1
/-- K_A. -/
def wKA (w : Nat) : Nat := nfld w 195 3
/-- K_REL. -/
def wKRel (w : Nat) : Nat := nfld w 198 2
/-- K_B. -/
def wKB (w : Nat) : Nat := nfld w 200 3
/-- ARM_MODE. -/
def wArmMode (w : Nat) : Nat := nfld w 204 2
/-- ARM_OFS. -/
def wArmOfs (w : Nat) : Nat := nfld w 206 16
/-- TRIG_MASK. -/
def wTrigMask (w : Nat) : Nat := nfld w 222 15
/-- NP.CSET. -/
def wCset (w : Nat) : Nat := nfld w 238 2
/-- NP.DRAIN_FMT. -/
def wDrainFmt (w : Nat) : Nat := nfld w 240 4
/-- NP.BLK. -/
def wBlk (w : Nat) : Nat := nfld w 244 2
/-- NP.SR. -/
def wSr (w : Nat) : Bool := nfld w 246 1 == 1
/-- NP.URGENT. -/
def wUrgent (w : Nat) : Bool := nfld w 247 1 == 1

/-- Lane count of LW (R106). -/
def laneCount (lw : Nat) : Nat := Config.vlen * 2 ^ (lw % 3)
/-- Lane width in bytes. -/
def laneBytes (lw : Nat) : Nat := 4 / 2 ^ (lw % 3)

/-! ## MAC families (R84, R151) -/

/-- The families of R151 that a DOT can name. -/
inductive Fam where
  | fp8 | bsFp8 | bsInt8 | bf16 | fp16 | fp32 | int8
  deriving DecidableEq, Repr

/-- The family of a legal operand pair (R84). -/
def famOf (x y : Nat) : Option Fam :=
  if (x = 1 ∨ x = 2) ∧ (y = 1 ∨ y = 2) then some .fp8
  else if x = 3 ∧ y = 3 then some .int8
  else if (x = 7 ∨ x = 8) ∧ (y = 7 ∨ y = 8) then some .bsFp8
  else if x = 9 ∧ y = 9 then some .bsInt8
  else if x = 4 ∧ y = 4 then some .bf16
  else if x = 5 ∧ y = 5 then some .fp16
  else if x = 6 ∧ y = 6 then some .fp32
  else none

/-- Bits of each queue that one DOT consumes (R84). -/
def famBits : Fam → Nat
  | .bf16 => 64 | .fp16 => 64 | .fp32 => 32 | _ => 128

/-- Whether the family is block-scaled. -/
def famBlk : Fam → Bool
  | .bsFp8 => true | .bsInt8 => true | _ => false

/-- Element entries of a block: B / 16 for the encoding of NP.BLK (R162). -/
def blkEntries (blk : Nat) : Nat := 2 ^ blk

/-! ## Legality (R93) -/

/-- The sources that an F64 operation uses (R565). -/
def f64Uses (op : Nat) : List Nat :=
  match op with
  | 1 => [0, 1, 2] | 6 => [0] | 0 => [] | _ => [0, 1]

/-- Whether the word's F64 operation names an accumulator pair (R93, R565). -/
def namesPair (w : Nat) : Bool :=
  let op := wF64Op w
  op != 0 && (op == 10 || wDst w == 2 || (f64Uses op).any (fun k => wSrc w k == 5))

/-- Ratio r of a CVT (R136). -/
def cvtRatio (a b : Nat) : Nat := if a ≥ b then a / b else b / a

/-- A CVT word illegal under R138. -/
def cvtIllegal (w : Nat) : Bool :=
  match cvtFmt (wVsub w), cvtFmt (wVb w) with
  | some a, some b =>
    let wa := cvtWidth a
    let wb := cvtWidth b
    let r := cvtRatio wa wb
    let isQ := fun f => match f with | CvtFmt.fix _ true => true | _ => false
    let q15 := a == .fix 16 true || b == .fix 16 true
    wVsub w == wVb w
      || 32 / 2 ^ (wLw w) != (if wa ≤ wb then wa else wb)
      || (if wa ≥ wb then wVa w else wVd w) % r != 0
      || (q15 && decide (wShift w > 15))
      || (wShift w != 0 && !(isQ a || isQ b))
  | _, _ => true

/-- A VEC group illegal under R176, R180, R188 or R190. -/
def vecIllegal (w : Nat) : Bool :=
  let v := wVop w
  let lw := wLw w
  let sh := wShift w
  let sub := wVsub w
  let noVb := [1, 2, 8, 9, 15, 16, 17, 18, 21, 25, 38, 39, 42, 43, 45].contains v
  let e := laneCount lw / (if sub = 1 ∧ lw = 0 then 2 else 1)
  let nidx := (e + Config.vlen - 1) / Config.vlen
  if v = 3 then cvtIllegal w
  else if (28 ≤ v ∧ v ≤ 31) ∨ v ≥ 46 then true
  else
    (noVb && wVb w != 0)
    || (if v = 26 ∨ v = 27 then
          decide (sh > 12) || decide (sub > 1) || wVa w % nidx != 0 || (v == 27 && wVd w != 0)
        else if v = 44 then decide (sub > 1) || sh != 0 || lw != 0
        else sub != 0
          || (if v = 2 then decide (sh ≥ laneCount lw)
              else if 15 ≤ v ∧ v ≤ 18 then decide (sh ≥ 8 * laneBytes lw)
              else if v = 19 ∨ v = 20 then decide (lw > 1) || (lw == 1 && decide (sh > 15))
              else sh != 0)
          || ((v = 21 ∨ v ≥ 32) && lw != 0))

/-- A generator field that holds a reserved encoding (R93). -/
def agIllegal (w n : Nat) : Bool :=
  let op := wAgOp w n
  let port := wAgPort w n
  if op = 7 then true
  else if op = 1 ∨ op = 2 then
    nfld w (27 + 16 * n) 5 != 0 || decide (port ≥ 6) || (op == 1 && port == 4)
      || (op == 2 && (port == 0 || port == 1 || port == 5))
  else op != 3 && wAgArg w n != 0

/-- A word that holds a reserved encoding or a non-zero reserved bit (R93). -/
def reservedIllegal (w : Nat) : Bool :=
  nfld w 15 1 != 0 || nfld w 102 2 != 0 || nfld w 135 1 != 0 || nfld w 151 1 != 0 || nfld w 165 3 != 0
  || nfld w 191 1 != 0 || nfld w 203 1 != 0 || nfld w 237 1 != 0 || nfld w 248 8 != 0
  || (List.range 4).any (agIllegal w)
  || decide (wFmtX w ≥ 10) || decide (wFmtY w ≥ 10) || decide (wBankOp w ≥ 6) || wLw w == 3
  || decide (wF64Op w ≥ 11) || (List.range 3).any (fun k => wSrc w k == 7) || wDst w == 3
  || decide (wPktOp w ≥ 3) || wCntOp w == 7 || decide (wKB w ≥ 5) || decide (wDrainFmt w ≥ 12)

/-- The number of generators of the word that satisfy `p`. -/
def agCount (p : Nat → Bool) : Nat := ((List.range 4).filter p).length

/-- A word that breaks the k-loop restrictions of R110; the DST of a NOP or a GRP names nothing (R565). A scatter, OP WRITE_IDX, is not taken
as one of the WRITEs that R110 forbids (DESIGN CHOICE, log 116). -/
def loopIllegal (w : Nat) : Bool :=
  (List.range 4).any (fun n => (wAgOp w n == 2 && !(wAgPort w n == 4 && wBankOp w == 2)) || wAgOp w n == 3)
  || wPktOpen w || (wF64Op w != 0 && wF64Op w != 10 && wDst w == 1) || wBankOp w == 1 || wBankOp w == 3
  || wSeqOp w == 6 || wSeqOp w == 7 || wCntOp w == 6

/-- Whether a word is illegal under R93; `inLoop` says whether the tile is in a k-loop. DESIGN CHOICE (log 110, R86): a WRITE on port
DRAIN in a word without DRAIN or SWAP_DRAIN is legal and only steps, and beside a drain's field a second one makes the word illegal. -/
def cwIllegal (inLoop : Bool) (w : Nat) : Bool :=
  let drains := agCount (fun n => wAgOp w n == 2 && wAgPort w n == 4)
  let drainOk := agCount (fun n => wAgOp w n == 2 && wAgPort w n == 4 && wAgStep w n)
  let isDrain := wBankOp w == 2 || wBankOp w == 3
  reservedIllegal w
  || (if wFmtX w = 0 ∧ wFmtY w = 0 then false else (famOf (wFmtX w) (wFmtY w)).isNone)
  || (isDrain && (drains != 1 || drainOk != 1))
  || decide (agCount (fun n => wAgOp w n == 1 && wAgPort w n == 0) > 1)
  || decide (agCount (fun n => wAgOp w n == 1 && wAgPort w n == 1) > 1)
  || ((wPktOpen w || wPktClose w) && wAgOp w (wPktAg w) != 2)
  || (namesPair w && decide (wAcc w ≥ 128))
  || (wSeqOp w == 6 && (wWaitKind w == 1 || wWaitKind w == 2) && wTrigMask w == 0)
  || vecIllegal w
  || (agCount (fun n => wAgOp w n == 5) != (if wVop w = 26 then 1 else 0))
  || (agCount (fun n => wAgOp w n == 6) != (if wVop w = 27 then 1 else 0))
  || (inLoop && loopIllegal w)

/-! ## Address generators (R79, R80) -/

/-- BASE of a descriptor. -/
def dBase (d : Flit) : W64 := BitVec.ofNat 64 d.toNat
/-- A signed stride of a descriptor: 0 STRIDE0, 1 STRIDE1. -/
def dStride (d : Flit) (k : Nat) : Int := sext 16 (nfld d.toNat (if k = 0 then 64 else 92) 16)
/-- COUNT0 with 0 read as 4,096. -/
def dCount0 (d : Flit) : Nat := let c := nfld d.toNat 80 12; if c = 0 then 4096 else c
/-- COUNT1 with 0 read as 2,048. -/
def dCount1 (d : Flit) : Nat := let c := nfld d.toNat 108 11; if c = 0 then 2048 else c
/-- WRAP in bytes. -/
def dWrap (d : Flit) : Int := 16 * sext 7 (nfld d.toNat 119 7)
/-- VS. -/
def dVs (d : Flit) : Bool := nfld d.toNat 126 1 == 1
/-- GL. -/
def dGl (d : Flit) : Bool := nfld d.toNat 127 1 == 1

/-- The current address of a generator (R80); `lanes` is the VS factor. -/
def agAddr (g : Gen) (lanes : Nat) : W64 :=
  let f : Int := if dVs g.desc then (lanes : Int) else 1
  BitVec.ofInt 64 ((g.base.toNat : Int) + f * ((g.i0 : Int) * dStride g.desc 0 + (g.i1 : Int) * dStride g.desc 1))

/-- One step of a generator (R80). -/
def agStep (g : Gen) : Gen :=
  if g.i0 + 1 < dCount0 g.desc then { g with i0 := g.i0 + 1 }
  else if g.i1 + 1 < dCount1 g.desc then { g with i0 := 0, i1 := g.i1 + 1 }
  else { g with i0 := 0, i1 := 0, base := BitVec.ofInt 64 ((g.base.toNat : Int) + dWrap g.desc) }

/-- A generator that has loaded descriptor `d` (R79). -/
def agLoad (g : Gen) (d : Flit) (ready : Nat) : Gen := { g with desc := d, base := dBase d, i0 := 0, i1 := 0, ready := ready }

/-! ## Lanes -/

/-- Element i of a 256-bit register read at `n` bytes per element (R120). -/
def regElem (v : W256) (n i : Nat) : Nat := nfld v.toNat (8 * n * i) (8 * n)

/-- A register with the bytes of element i (of n bytes) replaced. -/
def setElem (v : W256) (n i x : Nat) : W256 :=
  let lo := 8 * n * i
  BitVec.ofNat 256 (v.toNat % 2 ^ lo + (x % 2 ^ (8 * n)) * 2 ^ lo + (v.toNat >>> (lo + 8 * n)) * 2 ^ (lo + 8 * n))

/-- Whether lane i is active: `lim` is the counter that TAILC names, none when all lanes are (R87). -/
def laneOn (lim : Option Nat) (i : Nat) : Bool :=
  match lim with
  | none => true
  | some n => decide (i < n)

end Sys2Proof.Machine
end

