-- ==== Sys2Proof/Machine/Store.lean ====
section
/-! DEFINITION. Sparse maps and byte memories in canonical form: keys strictly rising, no entry equal to what an unlisted key
reads as. -/

namespace Sys2Proof.Machine

/-- The value at key `k`; an unlisted key holds `d`. -/
def aget {α : Type} (d : α) : Assoc α → Nat → α
  | [], _ => d
  | (k', v) :: r, k => if k' = k then v else aget d r k

/-- The entry at key `k`, if one is listed. -/
def afind {α : Type} : Assoc α → Nat → Option α
  | [], _ => none
  | (k', v) :: r, k => if k' = k then some v else afind r k

/-- The map without key `k`. -/
def adel {α : Type} (m : Assoc α) (k : Nat) : Assoc α := m.filter (fun p => p.1 != k)

/-- The map with (k, v) put before the first higher key; `k` is not listed in it. -/
def ains {α : Type} : Assoc α → Nat → α → Assoc α
  | [], k, v => [(k, v)]
  | (k', v') :: r, k, v => if k < k' then (k, v) :: (k', v') :: r else (k', v') :: ains r k v

/-- The map with an entry listed at key `k`, whatever its value. -/
def aput {α : Type} (m : Assoc α) (k : Nat) (v : α) : Assoc α := ains (adel m k) k v

/-- The map with key `k` holding `v`; the value `d` is not listed. -/
def aset {α : Type} [DecidableEq α] (d : α) (m : Assoc α) (k : Nat) (v : α) : Assoc α :=
  if v = d then adel m k else aput m k v

/-- Every listed value changed by `f`, of which `d` is the value of an unlisted key. -/
def amap {α : Type} [DecidableEq α] (d : α) (f : α → α) (m : Assoc α) : Assoc α :=
  m.foldr (fun p acc => aset d acc p.1 (f p.2)) []

/-- A byte memory: an unlisted address reads as 0 (log 2). -/
abbrev Memory := List Host.Cell

/-- The byte at address `a`. -/
def Memory.get : Memory → Nat → Byte := aget 0#8

/-- The memory with byte `b` at address `a`. -/
def Memory.put (m : Memory) (a : Nat) (b : Byte) : Memory := aset 0#8 m a b

/-- Whether the keys of the list rise strictly from `lo` and no value is 0. -/
def Memory.wfFrom : Nat → Memory → Bool
  | _, [] => true
  | lo, (a, b) :: r => decide (lo ≤ a) && b != 0#8 && Memory.wfFrom (a + 1) r

/-- The canonical form of a memory: addresses strictly rising, no entry equal to an unlisted byte. -/
def Memory.wf (m : Memory) : Bool := Memory.wfFrom 0 m

/-- The writes `w`, the newest first, applied to memory `m`. -/
def Memory.apply (m : Memory) (w : List Host.Cell) : Memory := w.foldr (fun c acc => Memory.put acc c.1 c.2) m

end Sys2Proof.Machine
end

