-- ==== Sys2Proof/Machine/Ops.lean ====
section
/-! DEFINITION. The named operations over the state: parts by index, local stores and stack bytes, faults on their way to the RAS
block, free values, and the end of a command. -/

namespace Sys2Proof.Machine

/-! ## Parts by index -/

/-- Tile `t` (R31). -/
def State.tile (s : State) (t : Nat) : Tile := aget s.tileDef s.tiles t
/-- The state with tile `t` replaced. -/
def State.setTile (s : State) (t : Nat) (x : Tile) : State := { s with tiles := aset s.tileDef s.tiles t x }
/-- The state with tile `t` changed by `f`. -/
def State.updTile (s : State) (t : Nat) (f : Tile → Tile) : State := s.setTile t (f (s.tile t))
/-- Every tile changed by `f`, the unlisted ones through the state that they share. -/
def State.mapTiles (s : State) (f : Tile → Tile) : State :=
  let d := f s.tileDef
  { s with tileDef := d, tiles := amap d f s.tiles }
/-- The clock region of a tile (R31). -/
def regionOf (t : Nat) : Nat := (t / 1024 / 64) * 16 + (t % 1024) / 64

/-! ## The mesh's links and the order of packets (R51 to R53, R331) -/

/-- The whole numbers from `a` towards `b`, `b` included and `a` not. -/
def towards (a b : Nat) : List Nat := if a ≤ b then tab (b - a) (fun i => a + i + 1) else tab (a - b) (fun i => a - i - 1)

/-- The routers that a packet passes from tile a to tile b, along x and then along y (R51), each by the TILE_ID of its tile. -/
def meshPath (a b : Nat) : List Nat :=
  a :: ((towards (a % 1024) (b % 1024)).map (fun x => a / 1024 * 1024 + x)
    ++ (towards (a / 1024) (b / 1024)).map (fun y => y * 1024 + b % 1024))

/-- The node of a router's local port. -/
def localNode (t : Nat) : Nat := 2 ^ 20 + t
/-- The node beyond a router at an edge of the array: the memory edge of its column or the fabric edge of its row. -/
def edgeNode (t : Nat) : Nat := 2 ^ 21 + t

/-- Whether a hop between two routers crosses a die seam (R31). -/
def seamHop (a b : Nat) : Bool := a % 1024 / 256 != b % 1024 / 256 || a / 1024 / 512 != b / 1024 / 512

/-- The links of a way along nodes: one for each cycle that a flit takes from a node to the next. A hop across a seam takes two, and so do the
way from a local port into the mesh and the way out of it (R54), and an edge's (log 117). -/
def linksOf (p : List Nat) : List (Nat × Nat) :=
  (p.zip (p.drop 1)).flatMap (fun h =>
    if 2 ^ 20 ≤ h.1 ∨ 2 ^ 20 ≤ h.2 ∨ seamHop h.1 h.2 then
      let mid := 2 ^ 22 + h.1 * 2 ^ 22 + h.2
      [(h.1, mid), (mid, h.2)]
    else [h])

/-- The column or row edge at which a packet to an address of its class leaves: memory to the north or south edge by its stack, all else to the
west or east edge by its column (R51). -/
def edgeRouter (t space off : Nat) (own : Bool) : Nat :=
  if own ∧ space = 0 then (if off / 256 % 12 < 6 then t % 1024 else 1023 * 1024 + t % 1024)
  else t / 1024 * 1024 + (if t % 1024 < 512 then 0 else 1023)

/-- The nodes of a packet's way from tile a to tile b. -/
def wayTile (a b : Nat) : List Nat := localNode a :: meshPath a b ++ [localNode b]
/-- The nodes of a packet's way from tile t to the router e at an edge. -/
def wayEdge (t e : Nat) : List Nat := localNode t :: meshPath t e ++ [edgeNode e]
/-- The nodes of the way of a packet that the fabric edge injects for tile t: from the edge of its row on t's side, along x (R51). -/
def wayIn (t : Nat) : List Nat := (wayEdge t (edgeRouter t 1 0 false)).reverse

/-- The links of a way, none crossed. -/
def hopsOf (p : List Nat) : List Hop := (linksOf p).map (fun l => { link := l })

/-- The links of a circuit's path, and those by which it leaves its last router (R53). -/
def circuitLinks (c : Config.MeshCircuit) : List (Nat × Nat) :=
  linksOf (wayTile c.tile c.exit) ++ linksOf [c.exit, edgeNode c.exit]

/-- Whether two circuits own one slot of one link (R53). -/
def meshConflict (cs : List Config.MeshCircuit) : Bool :=
  cs.zipIdx.any (fun a => cs.zipIdx.any (fun b => decide (a.2 < b.2) && a.1.slots &&& b.1.slots != 0#16
    && (circuitLinks a.1).any (fun l => (circuitLinks b.1).contains l)))

/-- The first of a class among those that wait, with those that `first` names before the others. -/
def headOf {α : Type} (cls : α → Nat) (first : α → Bool) (l : List α) (c : Nat) : Option α :=
  match l.find? (fun i => cls i == c && first i) with
  | some i => some i
  | none => l.find? (fun i => cls i == c)

/-- The one of those that wait that goes next: in class order, but one that has waited long goes before every one of a higher class (R52,
R331). Of several such the lowest class goes first (DESIGN CHOICE, log 112). -/
def nextByClass {α : Type} (cls : α → Nat) (first aged : α → Bool) (l : List α) : Option α :=
  match ((List.range 4).filterMap (headOf cls first l)).head? with
  | none => none
  | some h =>
    match (([3, 2, 1].filter (fun c => decide (cls h < c))).filterMap (headOf cls first (l.filter aged))).head? with
    | some i => some i
    | none => some h

/-! ## Errors of a stored word -/

/-- The error of a 64-bit word after an upset: two wrong bits cannot be corrected (R46, R309, R468). -/
def Mark.upset (m : Mark) : Ecc → Mark
  | .ok => m
  | .single b => (match m with
    | .good => .single b
    | .single c => if b = c then .single b else .double c b
    | m => m)
  | .double b c => (match m with
    | .poison => .poison
    | _ => .double b c)

/-- Clock region `r`. -/
def State.region (s : State) (r : Nat) : Region := aget {} s.regions r
/-- The state with clock region `r` changed by `f`. -/
def State.updRegion (s : State) (r : Nat) (f : Region → Region) : State :=
  { s with regions := aset {} s.regions r (f (s.region r)) }
/-- Memory channel `c` (R296). -/
def State.chan (s : State) (c : Nat) : Chan := aget {} s.mem.chans c
/-- The state with channel `c` changed by `f`. -/
def State.updChan (s : State) (c : Nat) (f : Chan → Chan) : State :=
  { s with mem := { s.mem with chans := aset {} s.mem.chans c (f (s.chan c)) } }
/-- Stack `k`. -/
def State.stack (s : State) (k : Nat) : Stack := aget {} s.mem.stks k
/-- The state with stack `k` changed by `f`. -/
def State.updStack (s : State) (k : Nat) (f : Stack → Stack) : State :=
  { s with mem := { s.mem with stks := aset {} s.mem.stks k (f (s.stack k)) } }
/-- Fabric port `p` (R324). -/
def State.port (s : State) (p : Nat) : Port := aget {} s.fab.ports p
/-- The state with port `p` changed by `f`. -/
def State.updPort (s : State) (p : Nat) (f : Port → Port) : State :=
  { s with fab := { s.fab with ports := aset {} s.fab.ports p (f (s.port p)) } }
/-- Queue `q` (R446). -/
def State.queue (s : State) (q : Nat) : Queue := aget {} s.host.queues q
/-- The state with queue `q` changed by `f`. -/
def State.updQueue (s : State) (q : Nat) (f : Queue → Queue) : State :=
  { s with host := { s.host with queues := aset {} s.host.queues q (f (s.queue q)) } }
/-- Episode slot `k`. -/
def State.slot (s : State) (k : Nat) : Slot := aget {} s.slots k
/-- The state with slot `k` changed by `f`. -/
def State.updSlot (s : State) (k : Nat) (f : Slot → Slot) : State :=
  { s with slots := aset {} s.slots k (f (s.slot k)) }
/-- Model context `c`. -/
def State.ctx (s : State) (c : Nat) : Ctx := aget {} s.ctxs c
/-- The state with context `c` changed by `f`. -/
def State.updCtx (s : State) (c : Nat) (f : Ctx → Ctx) : State :=
  { s with ctxs := aset {} s.ctxs c (f (s.ctx c)) }

/-- The state with its command queue `d` entry changed (R448): command `i` of queue `q`. -/
def State.cmd (s : State) (q i : Nat) : Option Cmd := (s.queue q).cmds.find? (fun c => c.index == i)
/-- The state with command `i` of queue `q` changed by `f`. -/
def State.updCmd (s : State) (q i : Nat) (f : Cmd → Cmd) : State :=
  s.updQueue q (fun x => { x with cmds := x.cmds.map (fun c => if c.index = i then f c else c) })

/-! ## Global addresses (R20) -/

/-- Space of a global address. -/
def gaSpace (a : W64) : Nat := fld a 58 6
/-- Module of a global address. -/
def gaModule (a : W64) : Nat := fld a 44 14
/-- Offset of a global address. -/
def gaOff (a : W64) : Nat := fld a 0 44
/-- A global address from its parts. -/
def mkGa (space module off : Nat) : W64 :=
  BitVec.ofNat 64 ((space % 64) * 2 ^ 58 + (module % 16384) * 2 ^ 44 + off % 2 ^ 44)
/-- The module's own identifier (FAB_ID.MODULE_ID, R366). -/
def State.moduleId (s : State) : Nat := fld s.fab.id 0 14

/-! ## Local stores and stack bytes -/

/-- Byte `o` of tile `t`'s local store (R67), the writes of the command in progress included. -/
def State.lsByte (s : State) (t o : Nat) : Byte :=
  let a := t * Config.lsStride + o
  (afind s.lsLog a).getD (if s.lsWipe then 0 else Memory.get s.ls a)
/-- The state with byte `o` of tile `t`'s local store written. -/
def State.putLs (s : State) (t o : Nat) (b : Byte) : State :=
  { s with lsLog := (t * Config.lsStride + o, b) :: s.lsLog }
/-- `n` bytes of a local store from offset `o`. -/
def State.lsBytes (s : State) (t o n : Nat) : List Byte := tab n (fun i => s.lsByte t (o + i))
/-- The mark of word `w` of tile `t`'s local store. -/
def State.lsMark (s : State) (t w : Nat) : Mark := aget .good s.lsMarks (t * 8192 + w)
/-- The state with that mark set. -/
def State.setLsMark (s : State) (t w : Nat) (m : Mark) : State :=
  { s with lsMarks := aset .good s.lsMarks (t * 8192 + w) m }

/-- Stored byte `a` of the stacks (R297), the writes of the command in progress included. -/
def State.memByte (s : State) (a : Nat) : Byte :=
  (afind s.memLog a).getD (if s.memWipe then 0 else Memory.get s.mem.bytes a)
/-- The state with stored byte `a` written. -/
def State.putMem (s : State) (a : Nat) (b : Byte) : State := { s with memLog := (a, b) :: s.memLog }
/-- The state with stored bytes written from address `a` up. -/
def State.putMemBytes (s : State) (a : Nat) : List Byte → State
  | [] => s
  | b :: r => State.putMemBytes (s.putMem a b) (a + 1) r

/-- A write of bytes with their offsets to tile `t`'s local store: a word all of whose 64 bits are written loses its mark (R47). -/
def State.writeLs (s : State) (t : Nat) (bs : List (Nat × Byte)) : State :=
  let s1 := bs.foldl (fun s p => s.putLs t p.1 p.2) s
  let words := (bs.map (fun p => p.1 / 8)).eraseDups
  words.foldl (fun s w =>
    if (List.range 8).all (fun i => bs.any (fun p => p.1 == w * 8 + i)) then s.setLsMark t w .good else s) s1

/-! ## Faults and free values -/

/-- A fault sent over the fault tree to the RAS block (R478). -/
def State.raise (s : State) (f : FaultRec) : State := { s with ras := { s.ras with tree := s.ras.tree ++ [f] } }

/-- The next free value (log 5), and the state that has used it. -/
def State.free (s : State) : W64 × State := (Config.freeValue s.freeCtr, { s with freeCtr := s.freeCtr + 1 })

/-- `n` bytes that the manual calls undefined. -/
def State.freeBytes : Nat → State → List Byte × State
  | 0, s => ([], s)
  | n + 1, s => let (v, s) := s.free
                let (r, s) := State.freeBytes n s
                (BitVec.ofNat 8 v.toNat :: r, s)

/-- The current beat (R265). -/
def State.beat (s : State) : W64 := s.esc.beat

/-! ## The end of a command -/

/-- The state after a command that took `s` to `t`: its writes have entered the memories, and the queue is what it was. Memories
change nowhere else. -/
def endOf (s t : State) : State :=
  { t with
    pending := s.pending
    ls := Memory.apply (if t.lsWipe then [] else s.ls) t.lsLog
    mem := { t.mem with bytes := Memory.apply (if t.memWipe then [] else s.mem.bytes) t.memLog }
    lsLog := []
    memLog := []
    lsWipe := false
    memWipe := false }

/-- The outcome of a command that took `s` to `t`. -/
def done (s t : State) : Host.Outcome State Fault Refusal := .next (endOf s t)

/-- An element put before the first element of a list with a larger key. -/
def insertKey {α : Type} (key : α → Nat) (a : α) : List α → List α
  | [] => [a]
  | b :: r => if key a ≤ key b then a :: b :: r else b :: insertKey key a r
/-- A list in the order of its keys. -/
def sortKey {α : Type} (key : α → Nat) (l : List α) : List α := l.foldr (insertKey key) []

end Sys2Proof.Machine
end

