-- ==== Sys2Proof/Machine/Flags.lean ====
section
/-! DEFINITION. The counts and records that operations leave beside their results: numeric counter sets (R57), the NaN latch (R75,
R146), lane faults (R199, R200) and tile faults (R566), the local store's error records (R46) and the comparators (R92). -/

namespace Sys2Proof.Machine

/-- A 32-bit count raised by k; it stops at 0xFFFF_FFFF (R57). -/
def cap32 (a k : Nat) : Nat := satTo 0xFFFFFFFF a k

/-- A counter set with an operation's counts added (R57). -/
def csetAdd (c : CSet) (k : Cnt) (replay : Nat) : CSet :=
  { c with sat := cap32 c.sat k.sat, flush := cap32 c.flush k.flush, replay := cap32 c.replay replay, nan := cap32 c.nan k.nan }

/-- Counter set n of a tile. -/
def Tile.cset (x : Tile) (n : Nat) : CSet := aget {} x.sets n

/-- The state after tile t has counted into set n (R57). -/
def State.count (s : State) (t n : Nat) (k : Cnt) (replay : Nat := 0) : State :=
  s.updTile t (fun x => { x with sets := aset {} x.sets n (csetAdd (x.cset n) k replay) })

/-- The identity of the word at address cw of tile t that acts now with counter set n (R199). -/
def State.wordId (s : State) (t n : Nat) : WordId :=
  let x := s.tile t
  { serial := x.serial, cw := x.cw, bank := x.bank, beat := s.beat, tag := (x.cset n).tag }

/-- A tile latches its first NaN of a launch and sends a notice (R75, R146). -/
def State.nanAt (s : State) (t cw bank tag : Nat) : State :=
  if (s.tile t).nanValid then s
  else
    let s := s.updTile t (fun x => { x with nanValid := true, nanCw := cw, nanBank := bank, nanBeat := BitVec.ofNat 32 s.beat.toNat })
    { s with ras := { s.ras with notices := s.ras.notices ++ [⟨s.beat, t, cw, bank, tag⟩] } }

/-- The latch for the word that tile t is at, with the tag of the counter set n. -/
def State.nanLatch (s : State) (t n : Nat) : State := s.nanAt t (s.tile t).cw (s.tile t).bank ((s.tile t).cset n).tag

/-- The counts of an operation of tile t, with the NaN latch when one of its results is a NaN (R57, R146). -/
def State.tally (s : State) (t n : Nat) (k : Cnt) (produced : Bool) : State :=
  let s := s.count t n k
  if produced && k.nan != 0 then s.nanLatch t n else s

/-- The lane causes of R191 and R197 as bits of RAS_FAULT3.LANE_CAUSES: SPACE, RANGE, ALIGN, LS_UNCORRECTABLE, MEM_UNCORRECTABLE,
OUT_OF_SLICE. -/
abbrev LaneCauses := Nat
/-- SPACE. -/
def lcSpace : LaneCauses := 1
/-- RANGE. -/
def lcRange : LaneCauses := 2
/-- ALIGN. -/
def lcAlign : LaneCauses := 4
/-- LS_UNCORRECTABLE. -/
def lcLs : LaneCauses := 8
/-- MEM_UNCORRECTABLE. -/
def lcMem : LaneCauses := 16
/-- OUT_OF_SLICE. -/
def lcSlice : LaneCauses := 32

/-- The control word at address a of bank b (R77). -/
def Tile.word (x : Tile) (b a : Nat) : Nat := (aget 0 (if b = 0 then x.cs0.words else x.cs1.words) a).toNat
/-- The operation tag of a fault that a word of a tile meets: that of the set that the word's NP.CSET names (R58, R501). -/
def Tile.tagAt (x : Tile) (b a : Nat) : Nat := (x.cset (wCset (x.word b a))).tag

/-- RAS_FAULT2 of a recorded LANE_FAULT of tile t follows what the tile captures of that word until its next launch clears the capture
(R199, R501). -/
def State.latchLanes (s : State) (t : Nat) : State :=
  let f := s.ras.fault0
  let x := (s.tile t).cap
  match x.word with
  | some w =>
    if bitOf f 0 ∧ fld f 1 8 = 8 ∧ fld f 9 4 = 0 ∧ fld f 13 20 = t ∧ fld f 33 8 = w.cw ∧ fld f 41 1 = w.bank % 2 ∧ fld s.ras.fault2 0 16 = w.tag then
      { s with ras := { s.ras with
          fault2 := BitVec.ofNat 64 (fld s.ras.fault2 0 16 + x.mask.toNat * 2 ^ 16 + x.later * 2 ^ 48 + x.causes % 64 * 2 ^ 56) } }
    else s
  | none => s

/-- A faulting word (R199): the first since launch is captured and raised (R200), a fault of the captured word adds to it, another
word counts once. -/
def State.laneFault (s : State) (t : Nat) (w : WordId) (mask causes : Nat) : State :=
  let x := s.tile t
  match x.cap.word with
  | none =>
    let s := s.setTile t { x with cap := { word := some w, mask := BitVec.ofNat 32 mask, causes := causes, later := 0, words := [] } }
    s.raise { cause := .laneFault, unit := .tile, index := t, cwAddr := w.cw, bank := w.bank, tag := w.tag,
              laneMask := BitVec.ofNat 32 mask, laneCauses := causes }
  | some w0 =>
    if w0.serial = w.serial then
      (s.setTile t { x with cap := { x.cap with mask := x.cap.mask ||| BitVec.ofNat 32 mask, causes := x.cap.causes ||| causes } }).latchLanes t
    else if x.cap.words.contains w.serial then s
    else (s.setTile t { x with cap := { x.cap with later := satTo 255 x.cap.later 1, words := w.serial :: x.cap.words } }).latchLanes t

/-- A detected fault of a tile that leaves it executing (R566); its tag is that of the tile's present word. -/
def State.tileNote (s : State) (t : Nat) (c : Cause) (detail : Nat := 0) : State :=
  let x := s.tile t
  s.raise { cause := c, unit := .tile, index := t, cwAddr := x.cw, bank := x.bank, tag := x.tagAt x.bank x.cw
            detail := BitVec.ofNat 64 detail }

/-- A detected fault that puts the tile in FAULT without acting on its word (R566); what earlier words have under way goes on. -/
def State.tileFault (s : State) (t : Nat) (c : Cause) (tag : Nat := 0) : State :=
  let x := s.tile t
  (s.setTile t { x with st := .fault, held := none, armed := none, waitEnd := none, took := none, part := none, kend := none }).raise
    { cause := c, unit := .tile, index := t, cwAddr := x.cw, bank := x.bank, tag := tag }

/-- Counts of a word of tile t that has acted before, with the NaN latch when one of its results is a NaN (R57, R146). -/
def State.tallyAt (s : State) (t n : Nat) (w : WordId) (k : Cnt) (produced : Bool) : State :=
  let s := s.count t n k
  if produced && k.nan != 0 then s.nanAt t w.cw w.bank w.tag else s

/-- A read of local-store word w by a requester (R46): the word, whether it has a double-bit error (it is then zero), and the error
records. The error is LS_UNCORRECTABLE, except for a vector element, which faults by LANE_FAULT alone (R476, R482). -/
def State.lsReadWord (s : State) (t w : Nat) (element : Bool := false) : Nat × Bool × State :=
  let v := ofLe (s.lsBytes t (8 * w) 8)
  match s.lsMark t w with
  | .good => (v, false, s)
  | .single _ => (v, false, s.updTile t (fun x => { x with eccCorr := satTo 0xFFFF x.eccCorr 1, eccWord := w }))
  | _ =>
    let s := s.updTile t (fun x => { x with eccUnc := true, eccWord := w })
    (0, true, if element then s else s.tileNote t .lsUncorrectable w)

/-- Residue failures of tile t due in cycle k: RESIDUE is raised in the tc in which the result is written (R49). -/
def State.residues (s : State) (t k : Nat) : State :=
  let due := (s.tile t).resDue.filter (fun p => decide (p.1 ≤ k))
  if due.isEmpty then s
  else
    let s := s.updTile t (fun x => { x with resDue := x.resDue.filter (fun p => !decide (p.1 ≤ k)), eccRes := true })
    due.foldl (fun s p => s.raise { cause := .residue, unit := .tile, index := t, cwAddr := p.2.1, bank := p.2.2, tag := (s.tile t).tagAt p.2.2 p.2.1 }) s

/-- A 128-bit local read (R43, R46): its value and whether its low and high word were lost. -/
def State.lsRead128 (s : State) (t a : Nat) (element : Bool := false) : Nat × Bool × Bool × State :=
  let (lo, e0, s) := s.lsReadWord t (a / 8) element
  let (hi, e1, s) := s.lsReadWord t (a / 8 + 1) element
  (lo + hi * 2 ^ 64, e0, e1, s)

/-- The operand that K_A or K_B selects. -/
def cmpOperand (x : Tile) (k : Nat) (const : W32) : W32 :=
  if k < 4 then aget 0 x.cnts k else const

/-- The lane count that scales generator n's strides: the drain's when a drain owns it (R86). -/
def Tile.genLanes (x : Tile) (n lanes : Nat) : Nat :=
  match x.drain with
  | some d => if d.gen = n then d.lanes else lanes
  | none => lanes

/-- Whether comparator n is true now (R92); a generator's address is formed with the lane count that scales its strides (R86), else
with that of the word that tests it. -/
def Tile.cmpTrue (x : Tile) (n lanes : Nat) : Bool :=
  let c := aget ({} : Cmp) x.cmps n
  let a : W32 := if c.a < 4 then aget 0 x.cnts c.a
    else BitVec.ofNat 32 (agAddr (aget {} x.gens (c.a - 4)) (x.genLanes (c.a - 4) lanes)).toNat
  let b := cmpOperand x c.b c.const
  match c.rel with
  | 0 => a == b
  | 1 => a != b
  | 2 => decide (a.toNat < b.toNat)
  | _ => decide (a.toNat ≥ b.toNat)

end Sys2Proof.Machine
end

