-- ==== Sys2Proof/Machine/Lines.lean ====
section
/-! DEFINITION. Requests to memory, flags and other modules as the edges form them: the acceptance test of R342, line requests
(R298, R344), flag operations (R469) and fabric headers (R340). -/

namespace Sys2Proof.Machine

/-- The bytes of a flit. -/
def flitBytes (f : Flit) : List Byte := leBytes 16 f.toNat
/-- The flit of up to 16 bytes. -/
def bytesFlit (bs : List Byte) : Flit := BitVec.ofNat 128 (ofLe bs)
/-- The bytes of a payload. -/
def payloadBytes (fl : List Flit) : List Byte := fl.flatMap flitBytes
/-- The flits of bytes, zero-filled at the end. -/
def toFlits (bs : List Byte) : List Flit := (chunks 16 (bs.length / 16 + 1) bs).map bytesFlit
/-- The bytes of a line. -/
def lineBytes (l : Line) : List Byte := leBytes 64 l.toNat
/-- The line of up to 64 bytes. -/
def bytesLine (bs : List Byte) : Line := BitVec.ofNat 512 (ofLe bs)

/-- Bytes of a payload element and of its destination element (R344). -/
def rfmtSizes (rfmt : Nat) : Nat × Nat :=
  match rfmt with
  | 0 => (4, 4) | 1 => (8, 8) | 2 => (1, 4) | _ => (2, 2)

/-- Whether an OP is one of READ, WRITE, ATOMIC, REDUCE_ADD and CIRCUIT_DATA, which are answered (R341). -/
def isRequest : FabOp → Bool
  | .read => true | .write => true | .atomic => true | .reduceAdd => true | .circuitData => true | _ => false

/-- The cause for which a request is not accepted at its destination, if any (R342, R343): `len` is the payload in 16-byte units. -/
def reqCause (op : FabOp) (space off len aw rfmt aop : Nat) : Option DropCause :=
  let spaceOk := match space, op with
    | 0, _ => true
    | 1, .read => true
    | 1, .write => true
    | 1, .circuitData => true
    | 2, .read => true
    | 2, .write => true
    | 2, .atomic => aw == 3
    | 2, .reduceAdd => rfmt == 1
    | _, _ => false
  let size := match op with
    | .read => 64
    | .atomic => 2 ^ aw
    | .reduceAdd => 16 * len / (rfmtSizes rfmt).1 * (rfmtSizes rfmt).2
    | _ => 16 * len
  let rangeOk := match space with
    | 0 => decide (off + size ≤ Config.stackBytes)
    | 1 => decide (off / Config.lsStride < Config.tiles) && decide (off % Config.lsStride + size ≤ Config.lsBytes)
    | _ => decide (off + size ≤ Config.flagBytes)
  let headOk := match op with
    | .read => off % 64 == 0 && len == 0
    | .atomic => off % 2 ^ aw == 0 && len == 1 && decide (aop ≤ 10)
    | .reduceAdd => off % (rfmtSizes rfmt).2 == 0 && decide (1 ≤ len) && decide (len ≤ 16)
    | _ => off % 16 == 0 && decide (1 ≤ len) && decide (len ≤ 16)
  if !spaceOk then some .space else if !rangeOk then some .range else if !headOk then some .badHeader else none

/-- The bit of TILE's lane causes that a drop cause maps to (R349). -/
def dropLane : DropCause → Nat
  | .space => 1 | .range => 2 | .outOfSlice => 32 | _ => 16

/-- A masked write of bytes inside one line. -/
def lineWrite (src : ReqSrc) (cls addr : Nat) (bs : List Byte) : LineReq :=
  let o := addr % 64
  { src := src, addr := addr - o, cls := cls,
    op := .write (BitVec.ofNat 64 ((2 ^ bs.length - 1) * 2 ^ o)) (BitVec.ofNat 512 (ofLe bs * 2 ^ (8 * o))) }

/-- The line writes of bytes from a space-0 offset, in address order (R298). -/
def writeLines (src : ReqSrc) (cls : Nat) : Nat → Nat → List Byte → List LineReq
  | 0, _, _ => []
  | _ + 1, _, [] => []
  | k + 1, addr, bs =>
    let n := 64 - addr % 64
    lineWrite src cls addr (bs.take n) :: writeLines src cls k (addr + n) (bs.drop n)

/-- The reduce-add line requests of payload bytes from a space-0 offset (R344). -/
def reduceLines (src : ReqSrc) (cls rfmt : Nat) : Nat → Nat → List Byte → List LineReq
  | 0, _, _ => []
  | _ + 1, _, [] => []
  | k + 1, addr, bs =>
    let (ps, ds) := rfmtSizes rfmt
    let o := addr % 64
    let n := (64 - o) / ds
    { src := src, addr := addr - o, cls := cls, op := .reduce rfmt o (bs.take (n * ps)) }
      :: reduceLines src cls rfmt k (addr + n * ds) (bs.drop (n * ps))

/-- Flag operations of a list of 64-bit values from flag n on. -/
def flagOps (src : ReqSrc) (f : W64 → FlagAct) (n : Nat) (bs : List Byte) : List (ReqSrc × Nat × FlagAct) :=
  ((chunks 8 (bs.length / 8) bs).zipIdx).map (fun p => (src, n + p.2, f (BitVec.ofNat 64 (ofLe p.1))))

/-- Line requests on their way to their channels. -/
def State.toChannels (s : State) (rs : List LineReq) : State := { s with mem := { s.mem with inbox := s.mem.inbox ++ rs } }
/-- Flag operations on their way to the flag area. -/
def State.toFlags (s : State) (fs : List (ReqSrc × Nat × FlagAct)) : State :=
  { s with host := { s.host with flagIn := s.host.flagIn ++ fs } }

/-- An accepted request on space 0 or 2 of this module, handed to the channels or the flag area (R342 to R345). A write and a
reduce-add of several lines or flags are the single requests of each, in address order. -/
def State.edgeRequest (s : State) (src : ReqSrc) (op : FabOp) (cls space off aw rfmt aop : Nat) (payload : List Byte) : State :=
  let operand := BitVec.ofNat 64 (ofLe (payload.take 8) % 2 ^ (8 * 2 ^ aw))
  let compare := BitVec.ofNat 64 (ofLe ((payload.drop 8).take 8) % 2 ^ (8 * 2 ^ aw))
  if space = 0 then
    match op with
    | .read => s.toChannels [{ src := src, addr := off, op := .read, cls := cls }]
    | .atomic => s.toChannels [{ src := src, addr := off / 64 * 64, op := .atomic aop aw (off % 64) operand compare, cls := cls }]
    | .reduceAdd => s.toChannels (reduceLines src cls rfmt (payload.length + 1) off payload)
    | _ => s.toChannels (writeLines src cls (payload.length + 1) off payload)
  else
    match op with
    | .read => s.toFlags [(src, off / 8, .read)]
    | .atomic => s.toFlags [(src, off / 8, .atomic aop operand compare)]
    | .reduceAdd => s.toFlags (flagOps src .reduceAdd (off / 8) payload)
    | _ => s.toFlags (flagOps src .write (off / 8) payload)

/-- A fabric packet of this module (R340): the edge fills the source, beat, step, epoch and slice. -/
def State.mkFab (s : State) (op : FabOp) (cls : Nat) (addr : W64) (payload : List Flit) : FabPkt :=
  { op := op, cls := cls, cmark := false, echo := false, dest := gaModule addr, src := s.moduleId, srcTile := 0, srcEngine := false,
    tag := 0, trigger := 0, aop := 0, aw := 0, rfmt := 0, hops := 0, circuit := 0, beat := s.beat.toNat % 2 ^ 24,
    addr := addr, stepLo := BitVec.ofNat 32 s.slice.step.toNat, epoch := BitVec.ofNat 16 s.slice.epoch.toNat,
    slice := BitVec.ofNat 16 (fld s.fab.id 28 16), payload := payload }

/-- Whether a tag of the edge's pool is free (R348). -/
def State.tagFree (s : State) : Bool := decide (s.fab.txns.length < Config.txnTags)

/-- The next free tag from `n` on. -/
def freeTagFrom (ts : List Txn) : Nat → Nat → Option Nat
  | 0, _ => none
  | k + 1, n => if ts.any (fun t => t.tag == n) then freeTagFrom ts k ((n + 1) % Config.txnTags) else some n
/-- The tag that the next transaction takes. -/
def State.nextFree (s : State) : Nat := (freeTagFrom s.fab.txns (s.fab.txns.length + 1) s.fab.nextTag).getD s.fab.nextTag

/-- A transaction that comes to the edge; one that finds no tag free waits for one, and TAG_STALLS counts it (R348). -/
def State.toEdge (s : State) (p : FabPkt) (src : ReqSrc) : State :=
  { s with fab := { s.fab with
      waiting := s.fab.waiting ++ [{ pkt := p, src := src, stalled := !s.tagFree }]
      stats0 := if s.tagFree then s.fab.stats0 else addFld s.fab.stats0 0 16 1 } }

/-- Whether a waiting transaction is a tile's with this module's own memory or flags, which uses no fabric. -/
def State.memReq (s : State) (w : EdgeReq) : Bool :=
  w.pkt.dest == s.moduleId && (match w.src with | .tile _ _ => true | .tilePosted _ _ => true | _ => false)

/-- A memory transaction of a tile takes a tag, and its line or flag operations go to memory (R348). -/
def State.startMem (s : State) (w : EdgeReq) : State :=
  let tag := s.nextFree
  let p := { w.pkt with tag := tag }
  let n0 := s.mem.inbox.length + s.host.flagIn.length
  let s := s.edgeRequest (.txn tag p.srcTile) p.op p.cls (gaSpace p.addr) (gaOff p.addr) p.aw p.rfmt p.aop (payloadBytes p.payload)
  let n := s.mem.inbox.length + s.host.flagIn.length - n0
  { s with fab := { s.fab with
      txns := s.fab.txns ++ [({ tag := tag, pkt := p, src := w.src, beat := s.beat, left := n } : Txn)]
      nextTag := (tag + 1) % Config.txnTags } }

/-- A tile's request of this module's own memory or flags comes to the edge: it goes on at once where a tag is free and no earlier one of the
tile waits (R347, R348). -/
def State.memEdge (s : State) (p : FabPkt) (src : ReqSrc) : State :=
  if s.tagFree ∧ !s.fab.waiting.any (fun w => s.memReq w && w.pkt.srcTile == p.srcTile) then s.startMem { pkt := p, src := src }
  else s.toEdge p src

/-- The nodes of the way of an answer to tile t: that of its request, reversed (R51). -/
def State.wayBack (s : State) (t : Nat) (ga : W64) : List Nat :=
  let own := decide (gaModule ga = s.moduleId)
  if own ∧ gaSpace ga = 1 then (wayTile t (gaOff ga / Config.lsStride)).reverse
  else (wayEdge t (edgeRouter t (gaSpace ga) (gaOff ga) own)).reverse

/-- The answer to the counted request `tag` of tile t, as it enters the mesh (R55, R82): OP 2 with the request's class, its data where it is a
read. A tile's local store answers as that tile, an edge as tile t (DESIGN CHOICE, log 117). -/
def State.answerPkt (s : State) (t tag : Nat) (data : List Flit) (err : Option DropCause) (lost : List Nat := []) : MeshPkt :=
  let r := (s.tile t).reqs.find? (fun r => r.tag == tag)
  let ga := (r.map (·.ga)).getD 0
  let data := match r.map (·.kind) with | some (.scatter _) => [] | _ => data
  { kind := 0, dest := t, src := if gaModule ga = s.moduleId ∧ gaSpace ga = 1 then gaOff ga / Config.lsStride else t, trigger := 0, lsAddr := 0
    cls := (r.map (·.cls)).getD 1, op := 2, beatLo := s.beat.toNat % 4096, addr := 0, tag := tag, payload := data, err := err, lost := lost
    way := hopsOf (s.wayBack t ga) }

/-- That answer enters the mesh on its way to its tile. -/
def State.answer (s : State) (t tag : Nat) (data : List Flit) (err : Option DropCause) (lost : List Nat := []) : State :=
  { s with answers := s.answers ++ [s.answerPkt t tag data err lost] }

end Sys2Proof.Machine
end

