-- ==== Sys2Proof/Machine/Records.lean ====
section
/-! DEFINITION. What every family shares on the module's side: the slice state (R372), faults of units other than tiles (R478),
packets to members (R394, R569), commands and their completion records (R456, R463 to R467), the status mirror (R470 to R472)
and the registers whose value other state gives. -/

namespace Sys2Proof.Machine

/-! ## Slice state -/

/-- CFG_SLICE_STATUS.STATE: 0 NONE, 1 JOINING, 2 RUNNING, 3 HALTED (R410). -/
def State.sliceSt (s : State) : Nat := fld s.slice.status 0 2
/-- The state with CFG_SLICE_STATUS.STATE set. -/
def State.setSliceSt (s : State) (v : Nat) : State := { s with slice := { s.slice with status := setFld s.slice.status 0 2 v } }
/-- "Outside JOINING" means RUNNING or HALTED (R372). -/
def State.outside (s : State) : Bool := decide (2 ≤ s.sliceSt)
/-- Whether beats are counted (ESC_STATUS.SYNCED). -/
def State.synced (s : State) : Bool := bitOf s.esc.status 1
/-- Members of the slice (CFG_SLICE_CFG.MEMBERS). -/
def State.nMembers (s : State) : Nat := fld s.slice.cfg 0 14
/-- Domain size D (CFG_SLICE_CFG.DOMAIN_SIZE). -/
def State.domSize (s : State) : Nat := fld s.slice.cfg 14 6
/-- Own rank (CFG_SLICE_STATUS.RANK). -/
def State.rank (s : State) : Nat := fld s.slice.status 2 14
/-- Effective master (CFG_SLICE_STATUS.MASTER_ID). -/
def State.masterId (s : State) : Nat := fld s.slice.status 16 14
/-- Whether this module is the master. -/
def State.isMaster (s : State) : Bool := bitOf s.slice.status 30
/-- MODULE_ID of a rank. -/
def State.moduleOf (s : State) (r : Nat) : Nat := (nth (0x3FFF, 0, 0) s.slice.table r).1
/-- Rank of a MODULE_ID, if it stands in the table. -/
def State.rankOf (s : State) (m : Nat) : Option Nat := (s.slice.table.map (·.1)).idxOf? m
/-- PERIOD_LEAD; values below 2 act as 2 (R295). -/
def State.periodLead (s : State) : Nat := if fld s.esc.periodCfg 56 8 < 2 then 2 else fld s.esc.periodCfg 56 8

/-- The unit with an engine number is frozen as hung: it issues nothing and accepts nothing (R506). -/
def State.frozenAs (s : State) (engine : Nat) : Bool := s.hang.frozen == some engine

/-- CROWN_HANG_STATUS.OUT_OF_SERVICE (R523). -/
def State.outOfService (s : State) : Bool := bitOf s.hang.status 3

/-! ## Faults -/

/-- A detected fault of a unit other than a tile (R476, R478). -/
def State.fault (s : State) (c : Cause) (u : FaultUnit) (index : Nat) (detail : W64 := 0) : State :=
  s.raise { cause := c, unit := u, index := index, detail := detail }

/-- CFG_COLL_FAULT takes the first collective fault (R410). -/
def State.collFault (s : State) (code channel src layer : Nat) (context : Option Nat) : State :=
  if bitOf s.slice.collFault 0 then s
  else
    let v := 1 + code * 2 + channel * 2 ^ 5 + src * 2 ^ 11 + layer * 2 ^ 25
      + (match context with | some c => c * 2 ^ 41 + 2 ^ 49 | none => 0)
    { s with slice := { s.slice with collFault := BitVec.ofNat 64 v } }

/-! ## Packets of the module's own engines -/

/-- A packet that needs no tag comes to the module's own switch (R569); port 63 marks own traffic. -/
def State.toSwitch (s : State) (p : FabPkt) : State := { s with fab := { s.fab with switchQ := s.fab.switchQ ++ [(63, p)] } }

/-- A CONTROL packet of a subtype to a module (R394). -/
def State.sendControl (s : State) (dest subtype : Nat) (bytes : List Byte) : State :=
  s.toSwitch { s.mkFab .control 0 (mkGa 0 dest 0) (toFlits bytes) with aop := subtype, srcEngine := true, srcTile := 0x1000 }

/-- A CONTROL packet to every member, this module included. -/
def State.controlAll (s : State) (subtype : Nat) (bytes : List Byte) : State :=
  s.slice.table.foldl (fun s m => s.sendControl m.1 subtype bytes) s

/-- The packet is no longer on its way to this module's units. -/
def State.consume (s : State) (p : FabPkt) : State := { s with fab := { s.fab with delivered := s.fab.delivered.erase p } }

/-- The first delivered CONTROL packet of a subtype from a module is consumed. -/
def State.consumeControl (s : State) (src subtype : Nat) : State :=
  { s with fab := { s.fab with
      delivered := eraseFirst (fun p => p.op == .control && p.aop == subtype && p.src == src) s.fab.delivered } }

/-! ## Commands of the queues -/

/-- A field of a command by its bytes (R456, R457). -/
def cmdFld (c : Line) (byte len : Nat) : Nat := nfld c.toNat (8 * byte) (8 * len)
/-- OPCODE. -/
def cmdOp (c : Line) : Nat := cmdFld c 0 1

/-- SIZE of a queue's rings (R446, R474). -/
def Queue.size (x : Queue) : Nat :=
  let l := fld x.cfg 1 5
  2 ^ (if l < 4 then 4 else if l > 16 then 16 else l)

/-- The 32 bytes of a completion record (R463, R464, R467). -/
def recordBytes (r : Record) (size : Nat) : List Byte :=
  leBytes 4 r.index ++ leBytes 2 (r.q % 8192 + (1 - r.index / size % 2) * 2 ^ 15) ++ leBytes 1 r.opcode ++ leBytes 1 r.status
    ++ leBytes 2 r.user ++ leBytes 1 r.notConv ++ leBytes 1 r.abandoned ++ leBytes 1 r.diverged ++ leBytes 3 r.beat.toNat
    ++ flitBytes r.body

/-- A posted write to host memory. -/
def State.hostWrite (s : State) (addr : W64) (bs : List Byte) : State :=
  { s with host := { s.host with out := s.host.out ++ [{ addr := addr, bytes := bs }] } }

/-- The two posted writes of a record: bytes 8 to 31, then bytes 0 to 7 (R465). -/
def State.writeRecord (s : State) (r : Record) : State :=
  let x := s.queue r.q
  let bs := recordBytes r x.size
  let a := x.cq + BitVec.ofNat 64 (32 * (r.index % x.size))
  (s.hostWrite (a + 8) (bs.drop 8)).hostWrite a (bs.take 8)

/-- Whether the module may issue DMA now (R441). -/
def State.dmaOk (s : State) : Bool := s.host.busMaster && s.host.d0
/-- Whether a record is written as its command completes: DMA is allowed, and no held record is still to come before it (R441). -/
def State.recordNow (s : State) : Bool := s.dmaOk && !s.host.dmaDue
/-- Whether a mirror is written now: a replay writes none (R441, R518). -/
def State.mirrorNow (s : State) : Bool := s.recordNow && s.hang.replaying.isNone

/-- OLDEST moves over every index whose record has been written (R448). -/
def advanceOldest : Nat → Nat → List Nat → Nat × List Nat
  | 0, o, l => (o, l)
  | k + 1, o, l => if l.contains o then advanceOldest k ((o + 1) % 2 ^ 32) (l.erase o) else (o, l)

/-- A record is written: its tag is free and OLDEST moves (R448, R455, R465). -/
def State.record (s : State) (r : Record) : State :=
  let s := s.writeRecord r
  let s := { s with host := { s.host with tags := match r.tag with | some t => adel s.host.tags t | none => s.host.tags } }
  s.updQueue r.q (fun x =>
    let (o, l) := advanceOldest (x.recorded.length + 1) x.oldest (r.index :: x.recorded)
    { x with oldest := o, recorded := l })

/-- Bytes 16 to 31 of the record of a command that never acted: STEP of a CHECKPOINT, with the tier of a SAVE (R498; DESIGN CHOICE, log 118);
0 for the others (R467). -/
def idleBody (c : Line) : Flit :=
  if cmdOp c = 6 then BitVec.ofNat 128 (cmdFld c 24 8 + (if cmdFld c 17 1 = 0 then cmdFld c 16 1 else 0) * 2 ^ 64) else 0

/-- The later of two beats. -/
def laterBeat (a b : W64) : W64 := if a.toNat < b.toNat then b else a

/-- WD_BEATS; values below 64 act as 64 (R525). -/
def State.wdBeats (s : State) : Nat := max 64 (fld s.hang.wdCfg 0 32)
/-- Whether the dispatcher is watched for a WAIT_FLAG: TIMEOUT 0 or above WD_BEATS (R502). -/
def State.watches (s : State) (c : Line) : Bool :=
  cmdOp c == 2 && (cmdFld c 48 8 == 0 || decide (s.wdBeats < cmdFld c 48 8))

/-- The unit on which a command is that has come to its arm beat, and that unit's progress beat should the command complete now (R502, R503). -/
def State.unitOf (s : State) (q : Nat) (c : Cmd) : Option (Nat × W64) :=
  let here := match c.arm with | some b => decide (b.toNat ≤ s.beat.toNat) | none => false
  let on := fun (e : Nat) (p : W64) => (e, laterBeat p (c.arm.getD 0))
  if !here then none
  else match cmdOp c.raw with
    | 1 => s.slots.findSome? (fun p => match p.2.launch with
      | some l => if l.q = q ∧ l.index = c.index then some (on p.1 l.progress) else none
      | none => none)
    | 2 => if s.watches c.raw then some (0x1C00, s.beat) else none
    | 4 => (s.host.copies.find? (fun p => p.2.q == q && p.2.index == c.index)).map (fun p => on (0x800 + p.1) p.2.progress)
    | 5 => (s.slice.running.find? (fun p => p.2.q == q && p.2.index == c.index)).map (fun p => on (0x1000 + p.1) p.2.progress)
    | 6 => s.ras.run.bind (fun r => if r.q = q ∧ r.index = c.index then some (on 0x1800 r.progress) else none)
    | _ => none

/-- A command leaves its unit, which keeps its progress beat (R502, R510). -/
def State.leaveUnit (s : State) (q : Nat) (c : Cmd) : State :=
  match s.unitOf q c with
  | some (e, p) => { s with hang := { s.hang with last := aput s.hang.last e (laterBeat (aget 0 s.hang.last e) p) } }
  | none => s

/-- Command i of queue q completes: its record is written or held (R441, R465). In a replay no record is written, and the completion is
progress (R517, R518); a suspect's command that completes by itself is not replayed. The record's beat is the present one unless another
is given (R463). -/
def State.complete (s : State) (q i status : Nat) (body : Flit := 0) (nc : Nat := 0) (ab : Nat := 0) (dv : Nat := 0)
    (beat : W64 := s.beat) : State :=
  match s.cmd q i with
  | none => s
  | some c =>
    let s := s.leaveUnit q c
    let s := ({ s with esc := { s.esc with bound := s.esc.bound.erase (q, i) } }).updQueue q
      (fun x => { x with cmds := x.cmds.filter (fun d => d.index != i) })
    if c.replay then
      { s with
        hang := { s.hang with replayBeat := s.beat }
        host := { s.host with tags := match c.tag with | some t => adel s.host.tags t | none => s.host.tags } }
    else
      let r : Record := { q := q, index := i, opcode := cmdOp c.raw, status := status, user := cmdFld c.raw 4 2, notConv := nc,
                          abandoned := ab, diverged := dv, beat := beat, body := if body = 0 then idleBody c.raw else body, tag := c.tag }
      let s := if status = 4 ∨ status = 5 ∨ status = 12 then s
        else { s with hang := { s.hang with suspects := s.hang.suspects.map (fun x =>
          if x.q = q then { x with cmds := x.cmds.filter (fun d => d.index != i) } else x) } }
      if s.recordNow then s.record r else { s with host := { s.host with held := s.host.held ++ [r] } }

/-- The halt status of a cause: NAN_TRAPPED for NAN_TRAP, else HALTED (R480). -/
def haltStatus (cause : Nat) : Nat := if cause = 16 then 5 else 4

/-! ## Registers given by other state -/

/-- INIT_EXP, MIN_EXP, MAX_EXP and GROW_INTERVAL of NUM_RATCHET_CTRL (R264). -/
def ratchetCfg (w : W64) : Nat × Nat × Nat × Nat :=
  (fld w 0 8, fld w 8 8, min 126 (fld w 16 8), max 1 (fld w 24 16))

/-- E of a context: INIT_EXP until its first verdict (R249). -/
def State.ratchetExp (s : State) (c : Nat) : Nat := (s.ctx c).exp.getD (ratchetCfg s.train.ratchetCtrl).1

/-- NUM_RATCHET_STATUS: EXP and CLEAN of the current context (R264). -/
def State.ratchetReg (s : State) : W64 :=
  setFld (setFld s.train.ratchetStatus 0 8 (s.ratchetExp s.train.curCtx)) 8 16 (s.ctx s.train.curCtx).clean

/-- MEM_STATUS (R323). -/
def State.memStatus (s : State) : W64 :=
  let rd := (List.range 12).foldl (fun m k =>
    if (List.range 128).all (fun c => (s.chan (k * 128 + c)).st == 2) then m + 2 ^ k else m) 0
  let th := (List.range 12).foldl (fun m k => if fld (s.stack k).therm 24 3 = 0 then m else m + 2 ^ (12 + k)) 0
  let cr := if s.slice.running.any (fun p => p.2.critical) then 2 ^ 24 else 0
  BitVec.ofNat 64 (rd + th + cr + (if bitOf s.mem.status 25 then 2 ^ 25 else 0))

/-- FAB_PORTS_UP (R366). -/
def State.portsUp (s : State) : W64 :=
  BitVec.ofNat 64 ((List.range Config.ports).foldl (fun m p => if (s.port p).st = 3 then m + 2 ^ p else m) 0)

/-- HOST_STATUS: DMA_HELD and TAGS_FREE beside the error bits (R441, R455, R474). -/
def State.hostStatus (s : State) : W64 :=
  let v := setFld s.host.status 5 17 (Config.opTags - s.host.tags.length)
  setBit v 0 (!(s.host.busMaster && s.host.d0))

/-- RAS_STATUS: HALTED and CKPT_ACTIVE beside the fields it holds (R501). -/
def State.rasStatus (s : State) : W64 := setBit (setBit s.ras.status 1 (s.sliceSt == 3)) 27 s.ras.run.isSome

/-! ## The status mirror (R470 to R472) -/

/-- The 8 KiB of the status mirror with sequence number SEQ, taken now (R471). -/
def State.mirrorBytes (s : State) (seq : W64) : List Byte :=
  let (step, rec) : W64 × List Byte := match s.train.newest with | some (n, bs) => (n, bs) | none => (BitVec.ofNat 64 (2 ^ 64 - 1), [])
  let w := fun (v : W64) => leBytes 8 v.toNat
  w seq ++ w s.esc.beat ++ w s.slice.step ++ w s.esc.now ++ w s.esc.status ++ w s.esc.lateness ++ w s.slice.status
    ++ w s.cfg.loadStatus ++ w s.ratchetReg ++ w s.nan.rec0 ++ w s.memStatus ++ w s.fab.status ++ w s.portsUp
    ++ w s.hostStatus ++ w s.rasStatus ++ w step ++ leBytes 4 rec.length ++ List.replicate 124 0#8
    ++ (rec ++ List.replicate (4096 - rec.length) 0#8) ++ List.replicate 0xEF8 0#8 ++ w seq

/-- One mirror is written: SEQ_BEGIN first, the body, SEQ_END last (R470, R472). -/
def State.writeMirror (s : State) : State :=
  let seq := s.host.mirrorSeq + 1
  let bs := s.mirrorBytes seq
  let a := s.host.mirrorAddr
  let s := { s with host := { s.host with mirrorSeq := seq } }
  ((s.hostWrite a (bs.take 8)).hostWrite (a + 8) ((bs.drop 8).take 0x1FF0)).hostWrite (a + 0x1FF8) (bs.drop 0x1FF8)

end Sys2Proof.Machine
end

