-- ==== Sys2Proof/Machine/Memory.lean ====
section
/-! DEFINITION. The stacks (chapter 10): line requests (R297 to R302), the write-combining buffer (R303 to R308), ECC, scrub and
poison (R309 to R312), throttling (R313 to R317), test (R318 to R321); the flag area (R468, R469); and the answers of both to
tiles and to the fabric (R341, R349). A command whose premise does not hold changes nothing (log 7). -/

namespace Sys2Proof.Machine

/-! ## Answers -/

/-- Code of a drop cause (R349). -/
def dropCode : DropCause → Nat
  | .noRoute => 0 | .outOfSlice => 1 | .hopLimit => 2 | .space => 3 | .range => 4 | .badHeader => 5 | .linkDown => 6 | .timeout => 7
  | .memUncorrectable => 8

/-- The answer to a fabric request: READ_REPLY, ACK or ERROR_REPLY, with ECHO where the request arrived with CMARK (R341, R359). -/
def State.replyFab (s : State) (p : FabPkt) (data : List Flit) (err : Option DropCause) : State :=
  let op : FabOp := match err, p.op with
    | some _, _ => .errorReply
    | none, .read => .readReply
    | none, .atomic => if p.srcEngine then .readReply else .ack
    | none, _ => .ack
  let pay := if op == .readReply then data else []
  let echo := match op with | .errorReply => false | _ => p.cmark && p.op != .circuitData
  s.toSwitch { s.mkFab op p.cls (mkGa 0 p.src 0) pay with
    echo := echo, tag := p.tag, srcTile := p.srcTile, srcEngine := p.srcEngine, addr := p.addr,
    aop := match err with | some c => dropCode c | none => 0 }

/-- One of the line or flag operations of a fabric request has been performed; the last of them answers the request. -/
def State.partDone (s : State) (p : FabPkt) (data : List Flit) (err : Option DropCause) : State :=
  match s.fab.inReqs.find? (fun r => r.1 == p) with
  | none => s.replyFab p data err
  | some (_, n, e) =>
    let e := match e with | some c => some c | none => err
    let rest := eraseFirst (fun r => r.1 == p) s.fab.inReqs
    if n ≤ 1 then ({ s with fab := { s.fab with inReqs := rest } }).replyFab p data e
    else { s with fab := { s.fab with inReqs := rest ++ [(p, n - 1, e)] } }

/-- One of the operations of the memory transaction with a tag has been performed; the last of them retires it, and the late answer of one that
has timed out is discarded (R348). -/
def State.txnPart (s : State) (tag : Nat) (data : Line) (err : Option DropCause) : State :=
  match s.fab.txns.find? (fun t => t.tag == tag) with
  | none => s
  | some t =>
    let e := match t.err with | some c => some c | none => err
    if 2 ≤ t.left then
      { s with fab := { s.fab with txns := s.fab.txns.map (fun x => if x.tag = tag then { x with left := x.left - 1, err := e } else x) } }
    else
      let s := { s with fab := { s.fab with txns := s.fab.txns.filter (fun x => x.tag != tag) } }
      if t.held then s
      else match t.src with
        | .tile k n => s.answer k n (if e.isSome then [] else toFlits (lineBytes data)) e
        | .tilePosted k w => (match e with | some c => s.laneFault k w 0 (dropLane c) | none => s)
        | _ => s

/-- The outcome of a line or flag operation goes to its requester (R82, R197, R341). -/
def State.reply (s : State) (src : ReqSrc) (data : Line) (old : W64) (err : Option DropCause) : State :=
  match src with
  | .tile t tag => s.answer t tag (if err.isSome then [] else toFlits (lineBytes data)) err
  | .tilePosted t w => match err with | some c => s.laneFault t w 0 (dropLane c) | none => s
  | .txn tag _ => s.txnPart tag data err
  | .fabric p => s.partDone p (if p.op == .atomic then [BitVec.ofNat 128 old.toNat] else toFlits (lineBytes data)) err
  | _ => s

/-! ## Lines -/

/-- Channel and line of a space-0 offset (R297). -/
def stackMap (o : Nat) : Nat × Nat :=
  let u := o / 256
  let c := u % 1536
  (c % 12 * 128 + c / 12, (u / 1536 * 256 + o % 256) / 64)

/-- The space-0 offset of a line of a channel: the inverse of stackMap. -/
def lineAddr (ch line : Nat) : Nat :=
  let c := ch % 128 * 12 + ch / 128
  (line / 4 * 1536 + c) * 256 + line % 4 * 64

/-- The 64 stored bytes of a line, as one value. -/
def State.storedLine (s : State) (a : Nat) : Line := bytesLine (tab 64 (fun i => s.memByte (a + i)))
/-- The state with a line's stored bytes replaced. -/
def State.putLine (s : State) (a : Nat) (v : Line) : State := s.putMemBytes a (lineBytes v)
/-- The errors of a stored line's eight words (R309). -/
def State.marks (s : State) (a : Nat) : List Mark := tab 8 (fun j => aget .good s.mem.marks (a / 8 + j))
/-- The state with the error of each word of a line changed. -/
def State.mapMarks (s : State) (a : Nat) (f : Nat → Mark → Mark) : State :=
  (List.range 8).foldl (fun s j =>
    { s with mem := { s.mem with marks := aset .good s.mem.marks (a / 8 + j) (f j (aget .good s.mem.marks (a / 8 + j))) } }) s
/-- The state with one error for every word of a line: a whole line is written, or poisoned (R310, R312). -/
def State.setMark (s : State) (a : Nat) (m : Mark) : State := s.mapMarks a (fun _ _ => m)
/-- The state in which the single-bit errors of a line are corrected. -/
def State.cureLine (s : State) (a : Nat) : State :=
  s.mapMarks a (fun _ m => match m with | .single _ => .good | m => m)

/-- What a line is: poisoned, uncorrectable, correctable or good, by the worst of its words (R309, R310, R312). -/
def State.mark (s : State) (a : Nat) : Mark :=
  let worse := fun (x y : Mark) => match x, y with
    | .poison, _ => Mark.poison
    | _, .poison => .poison
    | .double b c, _ => .double b c
    | _, .double b c => .double b c
    | .single b, _ => .single b
    | _, y => y
  (s.marks a).foldl worse .good
/-- Words of a line with a single-bit error: each is a correction (R309). -/
def State.singles (s : State) (a : Nat) : Nat :=
  ((s.marks a).filter (fun m => match m with | .single _ => true | _ => false)).length

/-- The word of a line and the bit of that word that a bit of the stored line is: bits from 512 on are check bits, eight to a word. -/
def lineBit (b : Nat) : Nat × Nat := if b < 512 then (b / 64, b % 64) else ((b - 512) / 8 % 8, 64 + (b - 512) % 8)

/-- An upset of a line: each bit goes to its word (R309). -/
def State.upsetLine (s : State) (a : Nat) (e : Ecc) : State :=
  let one := fun (s : State) (b : Nat) => s.mapMarks a (fun j m => if j = (lineBit b).1 then m.upset (.single (lineBit b).2) else m)
  match e with
  | .ok => s
  | .single b => one s b
  | .double b c => one (one s b) c

/-- The bit mask of a byte mask. -/
def byteMask (m : W64) : Line := bytesLine (tab 64 (fun i => if bitOf m i then 0xFF#8 else 0#8))
/-- A value with masked bytes of another laid over it. -/
def mergeLine (base upper : Line) (m : W64) : Line := (base &&& ~~~(byteMask m)) ||| (upper &&& byteMask m)
/-- The byte mask of a whole line. -/
def fullMask : W64 := BitVec.ofNat 64 (2 ^ 64 - 1)

/-- The buffer entry of a line. -/
def Chan.entry (x : Chan) (a : Nat) : Option WcbE := x.wcb.find? (fun e => e.addr == a)

/-- The line is uncorrectable (R310): its records, and the fault. -/
def State.memBad (s : State) (ch a : Nat) : State :=
  let line := (stackMap a).2
  (s.updChan ch (fun x => { x with ecc := setFld (setBit x.ecc 16 true) 32 24 line })).fault .memUncorrectable .channel ch
    (BitVec.ofNat 64 line)

/-- A request joins its class queue of the channel (R299). `k` is 0 urgent, 1 normal, 2 writes and background. -/
def Chan.enqueue (x : Chan) (k : Nat) (r : LineReq) : Chan :=
  let q : QReq := { req := r, at_ := x.slot, seq := x.seq }
  let x := { x with seq := x.seq + 1 }
  match k with
  | 0 => { x with urgent := x.urgent ++ [q] }
  | 1 => { x with normal := x.normal ++ [q] }
  | _ => { x with writes := x.writes ++ [q] }

/-- An eviction of a line is queued, once (R306). -/
def Chan.queueEvict (x : Chan) (a : Nat) : Chan :=
  if x.writes.any (fun q => q.req.op == .evict && q.req.addr == a) then x
  else x.enqueue 2 { src := .edge, addr := a, op := .evict, cls := 2 }

/-- A corrected line is to be written back (R309). -/
def State.corrected (s : State) (ch a : Nat) : State :=
  let n := s.singles a
  s.updChan ch (fun (x : Chan) =>
    Chan.enqueue { x with ecc := addFld x.ecc 0 16 n } 2 { src := .edge, addr := a, op := .writeBack, cls := 2 })

/-- The value of a line of channel ch with its buffer entry laid over it, and whether it is uncorrectable. Where the entry holds every byte
of `need` the stack is not accessed (R307, R309, R310). -/
def State.readLine (s : State) (ch a : Nat) (need : W64 := fullMask) : Line × Bool × State :=
  let (d, m) : Line × W64 := match (s.chan ch).entry a with
    | some w => (w.data, w.mask)
    | none => (0, 0)
  let v := mergeLine (s.storedLine a) d m
  if need &&& ~~~m = 0 then (v, false, s)
  else match s.mark a with
    | .good => (v, false, s)
    | .single _ => (v, false, s.corrected ch a)
    | _ => (0, true, s.memBad ch a)

/-- Pressure of the buffer: on at 28 entries, off at 20 (R303). -/
def Chan.pressed (x : Chan) : Chan :=
  { x with pressure := if x.wcb.length ≥ 28 then true else if x.wcb.length ≤ 20 then false else x.pressure }

/-- A write of masked bytes enters the line's entry, or a new one (R305). -/
def Chan.enter (x : Chan) (a : Nat) (m : W64) (d : Line) : Chan :=
  match x.entry a with
  | some _ => { x with wcb := x.wcb.map (fun w =>
      if w.addr = a then { w with mask := w.mask ||| m, data := mergeLine w.data d m, touched := x.slot } else w) }
  | none => Chan.pressed { x with wcb := x.wcb ++ [{ addr := a, mask := m, data := d &&& byteMask m, touched := x.slot }] }

/-- A line's entry has left its channel's buffer: a FENCE waits for it no longer (R461). -/
def State.unfence (s : State) (ch a : Nat) : State :=
  { s with host := { s.host with queues := s.host.queues.map (fun p =>
      (p.1, { p.2 with cmds := p.2.cmds.map (fun c => { c with lines := c.lines.filter (fun l => l != (ch, a)) }) })) } }

/-- An entry is evicted (R306, R310): whole, or by read-modify-write. -/
def State.evictLine (s : State) (ch a : Nat) : State :=
  match (s.chan ch).entry a with
  | none => s
  | some w =>
    let s := (s.updChan ch (fun (x : Chan) => Chan.pressed { x with wcb := x.wcb.filter (fun e => e.addr != a) })).unfence ch a
    if w.mask = fullMask then (s.putLine a w.data).setMark a .good
    else
      let s := s.updChan ch (fun x => { x with stats := addFld x.stats 16 16 1 })
      match s.mark a with
      | .good => s.putLine a (mergeLine (s.storedLine a) w.data w.mask)
      | .single _ =>
        let n := s.singles a
        ((s.updChan ch (fun x => { x with ecc := addFld x.ecc 0 16 n })).putLine a
          (mergeLine (s.storedLine a) w.data w.mask)).cureLine a
      | _ => s.memBad ch a

/-- Every entry of a channel is evicted, oldest first. -/
def State.evictAll (s : State) (ch : Nat) : State := (s.chan ch).wcb.foldl (fun s w => s.evictLine ch w.addr) s

/-! ## Atomics and reduce-adds -/

/-- The new element of an atomic (R343) of w bits. -/
def atomicNew (aop bits old operand compare : Nat) : Nat :=
  let so := sext bits old
  let sp := sext bits operand
  match aop with
  | 0 | 1 => operand
  | 2 => if old = compare then operand else old
  | 3 => (old + operand) % 2 ^ bits
  | 4 => (BitVec.ofNat 64 old &&& BitVec.ofNat 64 operand).toNat
  | 5 => (BitVec.ofNat 64 old ||| BitVec.ofNat 64 operand).toNat
  | 6 => (BitVec.ofNat 64 old ^^^ BitVec.ofNat 64 operand).toNat
  | 7 => if sp < so then operand else old
  | 8 => if so < sp then operand else old
  | 9 => if operand < old then operand else old
  | 10 => if old < operand then operand else old
  | _ => old

/-- A field of `n` bytes of a line at byte `o`, replaced. -/
def putBytes (l : Line) (o n v : Nat) : Line :=
  let lo := l.toNat % 2 ^ (8 * o)
  let hi := l.toNat >>> (8 * (o + n))
  BitVec.ofNat 512 (lo + v % 2 ^ (8 * n) * 2 ^ (8 * o) + hi * 2 ^ (8 * (o + n)))

/-- A reduce-add of payload bytes onto a line from byte `o`: the new line and the saturations (R344). -/
def reduceOn (rfmt : Nat) : Nat → Line → Nat → List Byte → Line × Nat
  | 0, l, _, _ => (l, 0)
  | k + 1, l, o, bs =>
    let (ps, ds) := rfmtSizes rfmt
    if bs.length < ps then (l, 0)
    else
      let x := sext (8 * ps) (ofLe (bs.take ps)) + sext (8 * ds) (nfld l.toNat (8 * o) (8 * ds))
      let y := clampInt (intMin (8 * ds)) (intMax (8 * ds)) x
      let (l2, n) := reduceOn rfmt k (putBytes l o ds (twos (8 * ds) y)) (o + ds) (bs.drop ps)
      (l2, n + (if x = y then 0 else 1))

/-- Saturated sums count in RED_SAT (R344, R367). -/
def State.redSat (s : State) (n : Nat) : State := { s with fab := { s.fab with stats0 := addFld s.fab.stats0 32 16 n } }

/-- One request of channel ch is performed (R302, R307 to R310). -/
def State.perform (s : State) (ch : Nat) (r : LineReq) : State :=
  match r.op with
  | .evict => s.evictLine ch r.addr
  | .writeBack => match s.mark r.addr with | .single _ => s.cureLine r.addr | _ => s
  | .write m d => (s.updChan ch (fun x => x.enter r.addr m d)).reply r.src 0 0 none
  | .read =>
    let (v, bad, s) := s.readLine ch r.addr
    s.reply r.src v 0 (if bad then some .memUncorrectable else none)
  | .atomic aop aw off operand compare =>
    let (v, bad, s) := s.readLine ch r.addr
    if bad then s.reply r.src 0 0 (some .memUncorrectable)
    else
      let n := 2 ^ aw
      let old := nfld v.toNat (8 * off) (8 * n)
      let new := atomicNew aop (8 * n) old operand.toNat compare.toNat
      (s.updChan ch (fun x => x.enter r.addr fullMask (putBytes v off n new))).reply r.src 0 (BitVec.ofNat 64 old) none
  | .reduce rfmt off elems =>
    let (v, bad, s) := s.readLine ch r.addr
    if bad then s.reply r.src 0 0 (some .memUncorrectable)
    else
      let (v2, n) := reduceOn rfmt 64 v off elems
      ((s.updChan ch (fun x => x.enter r.addr fullMask v2)).redSat n).reply r.src 0 0 none

/-! ## The channel's queues -/

/-- Requests of a channel that some requester waits for, in no order. -/
def Chan.all (x : Chan) : List QReq := x.urgent ++ x.normal ++ x.writes ++ x.waiting
/-- Whether a request is the channel's own (an eviction or a write-back). -/
def ownOp : LineOp → Bool
  | .evict => true | .writeBack => true | _ => false
/-- Whether an older request for the line waits (R302). -/
def Chan.older (x : Chan) (a seq : Nat) : Bool :=
  x.all.any (fun q => q.req.addr == a && decide (q.seq < seq) && !ownOp q.req.op)
/-- Buffer entries that requests before number n wait for. -/
def Chan.owed (x : Chan) (n : Nat) : Nat := (x.all.filter (fun q => q.placed && decide (q.seq < n))).length
/-- Whether a request needs a buffer entry that it cannot have now: none is free but those that earlier requests wait for (R305). -/
def Chan.lacks (x : Chan) (q : QReq) : Bool :=
  match q.req.op with
  | .read => false | .evict => false | .writeBack => false
  | _ => (x.entry q.req.addr).isNone && decide (32 ≤ x.wcb.length + x.owed q.seq)
/-- Whether a queued request can be served. -/
def Chan.ready (x : Chan) (q : QReq) : Bool := ownOp q.req.op || (!x.older q.req.addr q.seq && !x.lacks q)

/-- The oldest entry of which no eviction is queued is to be evicted, for a request that has waited since slot `since`: the eviction has
waited as long, so that the request waits for no second STARVE_RC (R301). -/
def Chan.evictOldest (x : Chan) (since : Nat) : Chan :=
  match x.wcb.find? (fun w => !x.writes.any (fun q => q.req.op == .evict && q.req.addr == w.addr)) with
  | some w =>
    { x with
      writes := x.writes ++ [{ req := { src := .edge, addr := w.addr, op := .evict, cls := 2 }, at_ := since, seq := x.seq }]
      seq := x.seq + 1 }
  | none => x

/-- A request that has come to its turn and finds no entry: an eviction is queued for it, and a write's wait counts in WCB_STALLS (R305). -/
def Chan.place (x : Chan) (q : QReq) : Chan :=
  if q.placed || ownOp q.req.op || x.older q.req.addr q.seq || !x.lacks q then x
  else
    let f := fun (l : List QReq) => l.map (fun p => if p.seq = q.seq then { p with placed := true } else p)
    let stall := match q.req.op with | .write _ _ => 1 | _ => 0
    Chan.evictOldest { x with
      urgent := f x.urgent, normal := f x.normal, writes := f x.writes, waiting := f x.waiting
      stats := addFld x.stats 32 16 stall } q.at_

/-- Every request that waits for an entry has an eviction of its own queued (R301, R305). -/
def Chan.room (x : Chan) : Chan := x.all.foldl Chan.place x

/-- The channel without a queued request. -/
def Chan.drop (x : Chan) (q : QReq) : Chan :=
  { x with urgent := x.urgent.erase q, normal := x.normal.erase q, writes := x.writes.erase q, waiting := x.waiting.erase q }

/-- The oldest of the requests that satisfy p. -/
def oldestReq (l : List QReq) : Option QReq :=
  l.foldl (fun m q => match m with | none => some q | some b => if q.seq < b.seq then some q else some b) none

/-- Line slots of STARVE_RC (R323: values below 50 act as 50; a slot is half an rc). -/
def State.starveSlots (s : State) : Nat := 2 * (max 50 (fld s.mem.cfg 0 16))

/-- The request that a slot serves (R300); the flag says that it starved. -/
def State.pick (s : State) (ch : Nat) : Option (QReq × Bool) :=
  let x := s.chan ch
  let ok := fun (l : List QReq) => oldestReq (l.filter x.ready)
  let starved := ok ((x.urgent ++ x.normal ++ x.writes).filter (fun q => decide (q.at_ + s.starveSlots ≤ x.slot)))
  match starved with
  | some q => some (q, true)
  | none =>
    let first := match (if x.pressure then ok x.writes else none) with | some q => some q | none => ok x.urgent
    let second := match first with | some q => some q | none => ok x.normal
    (match second with | some q => some q | none => ok x.writes).map (fun q => (q, false))

/-- A request of channel ch is served; a grant for starvation counts in STARVE_GRANTS (R301). -/
def State.serve (s : State) (ch : Nat) (q : QReq) (starved : Bool) : State :=
  ((s.updChan ch (fun x => { x.drop q with stats := if starved then addFld x.stats 0 16 1 else x.stats })).perform ch q.req).updChan ch
    Chan.room

/-- An arriving request is placed (R299, R302, R305). -/
def State.arrive (s : State) (r : LineReq) : State :=
  let ch := (stackMap r.addr).1
  let x := s.chan ch
  let q : QReq := { req := r, at_ := x.slot, seq := x.seq }
  if r.addr ≥ Config.stackBytes then s.reply r.src 0 0 (some .range)
  else if x.st ≠ 2 then s.reply r.src 0 0 (some .memUncorrectable)
  else match r.op with
  | .evict => s
  | .writeBack => s
  | .read => s.updChan ch (fun x => x.enqueue (if r.cls = 0 then 0 else if r.cls = 2 then 2 else 1) r)
  | .write _ _ =>
    if x.older r.addr x.seq then s.updChan ch (fun x => x.enqueue 2 r)
    else if x.lacks q then s.updChan ch (fun x => Chan.room { x with waiting := x.waiting ++ [q], seq := x.seq + 1 })
    else (s.perform ch r).updChan ch Chan.room
  | _ => s.updChan ch (fun x => (x.enqueue 1 r).room)

/-- The unit that a requester belongs to: a tile, the source of a fabric packet, or an engine. -/
def requester : ReqSrc → Nat × Nat
  | .tile t _ => (0, t)
  | .tilePosted t _ => (0, t)
  | .txn _ t => (0, t)
  | .fabric p => ((if p.srcEngine then 2 else 1), p.src * 2 ^ 16 + p.srcTile)
  | .engine e => (3, e % 2 ^ 16)
  | .edge => (4, 0)

/-- What stands before the first x of a list. -/
def before {α : Type} [DecidableEq α] (x : α) (l : List α) : List α := l.takeWhile (fun y => decide (y ≠ x))

/-- Whether a line request on its way may arrive: it is under way, and no earlier one of its requester is for the same line or of the same
packet: the edge sends a packet's requests in increasing address order, and one tile's requests to an address keep their order (R196,
R298). -/
def State.mayArrive (s : State) (r : LineReq) : Bool :=
  s.mem.inbox.contains r
    && !(before r s.mem.inbox).any (fun q => q.src == r.src || (requester q.src == requester r.src && q.addr / 64 == r.addr / 64))

/-- MEM_LINE_REQUEST: the request, on its way to its channel, arrives there in its requester's order (R297 to R299, R305, R318). -/
def execMemLineRequest (r : LineReq) (s : State) : Host.Outcome State Fault Refusal :=
  if s.mayArrive r then
    done s (({ s with mem := { s.mem with inbox := s.mem.inbox.erase r } }).arrive { r with addr := r.addr / 64 * 64 })
  else done s s

/-- WCB_WRITE_WAIT_END: the oldest waiting write takes the entry that an eviction freed (R305). -/
def execWcbWriteWaitEnd (ch : Nat) (s : State) : Host.Outcome State Fault Refusal :=
  match (s.chan ch).waiting with
  | [] => done s s
  | q :: _ => if (s.chan ch).lacks q ∨ (s.chan ch).older q.req.addr q.seq then done s s else done s (s.serve ch q false)

/-! ## Requests of the module's engines -/

/-- What a channel does next: a waiting write that has an entry enters the buffer, or a slot's request is served. -/
def State.nextReq (s : State) (ch : Nat) : Option (QReq × Bool) :=
  match (s.chan ch).waiting.find? (s.chan ch).ready with
  | some q => some (q, false)
  | none => s.pick ch

/-- A channel serves its requests in the order of R300 until request n is the next. -/
def State.turns : Nat → State → Nat → Nat → State
  | 0, s, _, _ => s
  | k + 1, s, ch, n =>
    match s.nextReq ch with
    | none => s
    | some (q, starved) => if q.seq = n then s else State.turns k (s.serve ch q starved) ch n

/-- The state in which request n of a channel is the next that it serves (log 34). -/
def State.turnOf (s : State) (ch n : Nat) : State := State.turns (4 * (s.chan ch).all.length + 8) s ch n
/-- Request n of a channel, while it waits there. -/
def Chan.numbered (x : Chan) (n : Nat) : Option QReq := x.all.find? (fun q => q.seq == n)
/-- Request n of a channel is served in its turn. -/
def State.serveTurn (s : State) (ch n : Nat) : State :=
  if ((s.chan ch).numbered n).isNone then s
  else
    let s := s.turnOf ch n
    match (s.chan ch).numbered n with
    | some q => s.serve ch q (match s.nextReq ch with | some (p, starved) => starved && p.seq == n | none => false)
    | none => s

/-- A write, atomic or reduce-add of an engine of the module, in its class and turn (R299, R302, R305). -/
def State.engineDo (s : State) (r : LineReq) : State :=
  let ch := (stackMap r.addr).1
  (s.arrive r).serveTurn ch (s.chan ch).seq

/-- A read of bytes of a line by an engine of the module, in its class and turn (R299, R302, R307, R310, R317). -/
def State.engineRead (s : State) (a cls : Nat) (need : W64) : Line × Option DropCause × State :=
  let ch := (stackMap a).1
  let n := (s.chan ch).seq
  if a ≥ Config.stackBytes then (0, some .range, s)
  else if (s.chan ch).st ≠ 2 then (0, some .memUncorrectable, s)
  else
    let s := (s.arrive { src := .edge, addr := a, op := .read, cls := cls }).turnOf ch n
    let starved := match s.nextReq ch with | some (p, w) => w && p.seq == n | none => false
    let s := s.updChan ch (fun x =>
      let x : Chan := { x with stats := if starved then addFld x.stats 0 16 1 else x.stats }
      match x.numbered n with | some q => x.drop q | none => x)
    let (v, bad, s) := s.readLine ch a need
    (v, if bad then some .memUncorrectable else none, s)

/-- A write of masked bytes of a line by an engine of the module; its answer comes when the bytes enter the buffer (R302, R305). -/
def State.engineWrite (s : State) (a : Nat) (m : W64) (d : Line) (cls : Nat) : Option DropCause × State :=
  if a ≥ Config.stackBytes then (some .range, s)
  else if (s.chan (stackMap a).1).st ≠ 2 then (some .memUncorrectable, s)
  else (none, s.engineDo { src := .edge, addr := a, op := .write m d, cls := cls })

/-- The entry of a line that a FENCE or a checkpoint read needs is evicted in its turn (R306). -/
def State.evictNow (s : State) (ch a : Nat) : State :=
  let s := s.updChan ch (fun x => x.queueEvict a)
  match (s.chan ch).writes.find? (fun q => q.req.op == .evict && q.req.addr == a) with
  | some q => s.serveTurn ch q.seq
  | none => s

/-- The mask of n bytes of a line from byte o. -/
def maskBytes (o n : Nat) : W64 := BitVec.ofNat 64 ((2 ^ n - 1) * 2 ^ o)

/-- Bytes read by an engine from a space-0 offset, line by line; an unreadable line reads as zeros and names its cause. -/
def State.engineBytes : Nat → State → Nat → Nat → Nat → List Byte × Option DropCause × State
  | 0, s, _, _, _ => ([], none, s)
  | k + 1, s, a, n, cls =>
    if n = 0 then ([], none, s)
    else
      let o := a % 64
      let m := min n (64 - o)
      let (v, e, s) := s.engineRead (a - o) cls (maskBytes o m)
      let (r, e2, s) := State.engineBytes k s (a + m) (n - m) cls
      (((lineBytes v).drop o).take m ++ r, (match e with | some c => some c | none => e2), s)

/-- Bytes written by an engine from a space-0 offset up, line by line; the answer names the first error. -/
def State.engineStore : Nat → State → Nat → List Byte → Nat → Option DropCause × State
  | 0, s, _, _, _ => (none, s)
  | _ + 1, s, _, [], _ => (none, s)
  | k + 1, s, a, bs, cls =>
    let o := a % 64
    let n := 64 - o
    let here := bs.take n
    let (e, s) := s.engineWrite (a - o) (maskBytes o here.length) (BitVec.ofNat 512 (ofLe here * 2 ^ (8 * o))) cls
    let (e2, s) := State.engineStore k s (a + n) (bs.drop n) cls
    ((match e with | some c => some c | none => e2), s)

/-- Bytes at a space-0 global address, read by an engine in a packet class (R299). -/
def State.rdMem (s : State) (a n : Nat) (cls : Nat := 1) : List Byte × Option DropCause × State := State.engineBytes (n + 1) s a n cls
/-- Bytes at a space-0 global address, written by an engine. -/
def State.wrMem (s : State) (a : Nat) (bs : List Byte) (cls : Nat := 1) : Option DropCause × State :=
  State.engineStore (bs.length + 1) s a bs cls

/-- Bytes that the checkpoint engine reads: the entries that hold some of them are evicted first (R306). -/
def State.rdCkpt (s : State) (a n : Nat) : List Byte × Option DropCause × State :=
  let s := s.mem.chans.foldl (fun s c =>
    (c.2.wcb.filter (fun w => decide (w.addr < a + n) && decide (a < w.addr + 64))).foldl (fun s w => s.evictNow c.1 w.addr) s) s
  s.rdMem a n 2

/-! ## The traffic generator (R320, R321) -/

/-- Width and second tap of a PRBS polynomial (R12). -/
def prbsTaps : Nat → Nat × Nat
  | 0 => (7, 6) | 1 => (9, 5) | 2 => (15, 14) | 3 => (23, 18) | _ => (31, 28)

/-- n further bits of a shift register of `w` bits with taps w and t: the bits, first in bit 0, and the register (log 30). -/
def prbsBits (w t : Nat) : Nat → Nat → Nat × Nat
  | 0, r => (0, r)
  | k + 1, r =>
    let b := (r >>> (w - 1) + r >>> (t - 1)) % 2
    let (v, r') := prbsBits w t k ((r * 2 + b) % 2 ^ w)
    (b + 2 * v, r')

/-- The pattern of line n in MODE, and the shift register after it (R320). -/
def tgPattern (x : Chan) (mode n : Nat) : Line × Nat :=
  match mode with
  | 3 => (BitVec.ofNat 512 ((List.range 32).foldl (fun m k => m + 2 ^ (16 * k + (n + k) % 16)) 0), x.tgGen)
  | 4 => (BitVec.ofNat 512 ((List.range 8).foldl (fun m j => m + (8 * n + j) * 2 ^ (64 * j)) 0), x.tgGen)
  | 5 => (BitVec.ofNat 512 ((List.range 8).foldl (fun m j => m + (aget (0 : W64) x.tgUser j).toNat * 2 ^ (64 * j)) 0), x.tgGen)
  | _ =>
    let (w, t) := prbsTaps (mode + 2)
    let (v, r) := prbsBits w t 512 x.tgGen
    (BitVec.ofNat 512 v, r)

/-- First line, line count and OP of the generator. -/
def Chan.tgRangeOf (x : Chan) : Nat × Nat := (fld x.tgRange 0 24, min Config.linesPerChannel (fld x.tgRange 32 24) - fld x.tgRange 0 24)
/-- The shift register at line START: SEED, 0 acting as 1 (R320). -/
def Chan.tgSeed (x : Chan) : Nat :=
  let (w, _) := prbsTaps (fld x.tgCtrl 1 3 + 2)
  let v := fld x.tgCtrl 16 31 % 2 ^ w
  if v = 0 then 1 else v
/-- Lines of one pass: WRITE_THEN_CHECK goes over the range twice. -/
def Chan.tgPassLines (x : Chan) : Nat := if fld x.tgCtrl 4 2 = 2 then 2 * x.tgRangeOf.2 else x.tgRangeOf.2
/-- Whether the generator has run its passes (R321). -/
def Chan.tgFinished (x : Chan) : Bool :=
  decide (x.tgPassLines = 0) || (decide (fld x.tgCtrl 8 8 ≠ 0) && decide (fld x.tgCtrl 8 8 ≤ fld x.tgStatus 16 16))

/-- The pins whose bits differ (bit i is on pin i mod 16). -/
def diffPins (d : Line) : Nat := (chunks 2 32 (lineBytes d)).foldl (fun m c => (BitVec.ofNat 64 m ||| BitVec.ofNat 64 (ofLe c)).toNat) 0

/-- The stored data of a line before correction: the wrong data bits of each word are inverted (R321, RAW 1). -/
def rawLine (v : Line) (ms : List Mark) : Line :=
  let bit := fun (j b : Nat) => if b < 64 then 2 ^ (64 * j + b) else 0
  ms.zipIdx.foldl (fun v p => match p.1 with
    | .single b => v ^^^ BitVec.ofNat 512 (bit p.2 b)
    | .double b c => v ^^^ BitVec.ofNat 512 (bit p.2 b) ^^^ BitVec.ofNat 512 (bit p.2 c)
    | _ => v) v

/-- One line of the generator's work on channel ch (R321). -/
def State.tgLine (s : State) (ch : Nat) : State :=
  let x := s.chan ch
  if fld x.tgStatus 0 2 ≠ 1 ∨ x.tgFinished then s
  else
    let (start, len) := x.tgRangeOf
    let op := fld x.tgCtrl 4 2
    let k := x.tgPos
    let n := start + k % len
    let x0 := if k % len = 0 then { x with tgGen := x.tgSeed } else x
    let (v, r) := tgPattern x0 (fld x.tgCtrl 1 3) n
    let a := lineAddr ch n
    let last := k + 1 ≥ x.tgPassLines
    let step := fun (y : Chan) =>
      { y with tgGen := r, tgPos := if last then 0 else k + 1,
               tgStatus := if last then addFld y.tgStatus 16 16 1 else y.tgStatus }
    if op = 0 ∨ (op = 2 ∧ k < len) then ((s.putLine a v).setMark a .good).updChan ch step
    else
      let m := s.mark a
      let c := s.singles a
      let raw := bitOf x.tgCtrl 6
      let d := rawLine (s.storedLine a) (if raw then s.marks a else (s.cureLine a).marks a) ^^^ v
      let ecc := fun (y : Chan) =>
        if raw then y
        else match m with
          | .good => y
          | .single _ => Chan.enqueue { y with ecc := addFld y.ecc 0 16 c } 2 { src := .edge, addr := a, op := .writeBack, cls := 2 }
          | _ => { y with ecc := setFld (setBit y.ecc 16 true) 32 24 n }
      let rec_ := fun (y : Chan) =>
        if d = 0 then y
        else
          let pins := diffPins d
          let f := if fld y.tgStatus 32 32 = 0 then setFld (setFld y.tgFirst 0 24 n) 32 16 pins else y.tgFirst
          { y with tgStatus := addFld y.tgStatus 32 32 1,
                   tgFirst := setFld f 48 16 ((BitVec.ofNat 64 (fld y.tgFirst 48 16) ||| BitVec.ofNat 64 pins).toNat) }
      s.updChan ch (fun y => step (rec_ (ecc y)))

/-- Traffic slots N of a throttle level (R314). -/
def levelSlots : Nat → Nat
  | 0 => 96 | 1 => 72 | 2 => 48 | 3 => 24 | _ => 0

/-- Whether slot i of a frame may carry traffic at cap N (R300). -/
def slotCarries (i n : Nat) : Bool :=
  if i = 0 ∨ i = 33 ∨ i = 66 ∨ i = 99 then false
  else
    let j := i - 1 - (if i > 33 then 1 else 0) - (if i > 66 then 1 else 0)
    decide ((j + 1) * n / 96 > j * n / 96)

/-- CHANNEL_LINE_SLOT: a refresh slot, an idle slot, or a served request (R300, R301); in TEST the generator's line (R319). The scrub
slot is STACK_SCRUB_SLOT's. `e` is an upset of the line that the slot accesses. -/
def execChannelLineSlot (ch : Nat) (e : Ecc) (s : State) : Host.Outcome State Fault Refusal :=
  let x := s.chan ch
  let i := x.slot % 100
  if i = 99 then done s s
  else
    let tick := fun (s : State) => s.updChan ch (fun x => { x with slot := x.slot + 1 })
    if x.st = 3 then
      if slotCarries i 96 then
        let a := lineAddr ch (x.tgRangeOf.1 + x.tgPos % (max 1 x.tgRangeOf.2))
        done s (tick ((s.upsetLine a e).tgLine ch))
      else done s (tick s)
    else if x.st = 2 ∧ slotCarries i (levelSlots (fld (s.stack (ch / 128)).therm 24 3)) then
      match s.pick ch with
      | none => done s (tick s)
      | some (q, starved) =>
        done s (tick ((s.upsetLine q.req.addr e).serve ch q starved))
    else done s (tick s)

/-- WCB_IDLE_EVICT: an entry that no write has touched for WCB_IDLE_RC is queued for eviction (R306, R323). -/
def execWcbIdleEvict (ch line : Nat) (s : State) : Host.Outcome State Fault Refusal :=
  let a := lineAddr ch line
  let idle := fld s.mem.cfg 16 16
  match (s.chan ch).entry a with
  | none => done s s
  | some w =>
    if idle ≠ 0 ∧ w.touched + 2 * idle ≤ (s.chan ch).slot then done s (s.updChan ch (fun x => x.queueEvict a)) else done s s

/-- STACK_SCRUB_SLOT: the scrubber reads its next line, corrects it or poisons it (R311, R312). -/
def execStackScrubSlot (ch : Nat) (e : Ecc) (s : State) : Host.Outcome State Fault Refusal :=
  let x := s.chan ch
  if x.slot % 100 ≠ 99 then done s s
  else
    let tick := fun (s : State) => s.updChan ch (fun x => { x with slot := x.slot + 1 })
    if x.st ≠ 2 ∧ x.st ≠ 3 then done s (tick s)
    else
      let a := lineAddr ch x.scrub
      let s1 := s.upsetLine a e
      let next := (x.scrub + 1) % Config.linesPerChannel
      let s2 := s1.updChan ch (fun x =>
        { x with scrub := next, stats := if next = 0 then addFld x.stats 48 16 1 else x.stats })
      match s1.mark a with
      | .single _ => done s (tick (s2.corrected ch a))
      | .good => done s (tick s2)
      | _ => done s (tick ((s2.setMark a .poison).updChan ch (fun y => { y with ecc := setFld (setBit y.ecc 17 true) 32 24 x.scrub })))

/-! ## Thermal throttling -/

/-- Entry temperature of a level in 0.25 degrees (R314). -/
def levelTemp : Nat → Nat
  | 1 => 380 | 2 => 392 | 3 => 408 | 4 => 420 | _ => 0

/-- The highest level whose entry temperature a sample has reached. -/
def tempLevel (t : Nat) : Nat := if t ≥ 420 then 4 else if t ≥ 408 then 3 else if t ≥ 392 then 2 else if t ≥ 380 then 1 else 0

/-- A stack's channels evict, close and enter self-refresh (R317). -/
def State.closeStack (s : State) (k : Nat) : State :=
  (List.range 128).foldl (fun s c =>
    let ch := k * 128 + c
    if (s.chan ch).st = 2 then
      let s := s.evictAll ch
      let qs := (s.chan ch).all.filter (fun q => !ownOp q.req.op)
      let s := s.updChan ch (fun x => { x with st := 4, urgent := [], normal := [], writes := [], waiting := [], pressure := false })
      qs.foldl (fun s q => s.reply q.req.src 0 0 (some .memUncorrectable)) s
    else s.updChan ch (fun x => if x.st = 3 then { x with st := 4 } else x)) s

/-- A pending level of stack k takes effect (R315, R317). -/
def State.applyLevel (s : State) (k : Nat) : State :=
  match (s.stack k).pend with
  | none => s
  | some l =>
    let s := s.updStack k (fun x =>
      { x with pend := none, therm := setFld x.therm 24 3 l,
               stats := if fld x.therm 24 3 = l then x.stats else addFld x.stats 0 16 1 })
    if l = 4 then s.closeStack k else s

/-- The pending levels of every stack take effect: at a boundary, or once beats are no longer counted (R315). -/
def State.levelsApply (s : State) : State := s.mem.stks.foldl (fun s p => s.applyLevel p.1) s

/-- A level that is due: at the next boundary, or at once while unsynced (R315). -/
def State.dueLevel (s : State) (k l : Nat) : State :=
  let s := s.updStack k (fun x => { x with pend := some l })
  if s.synced then s else s.applyLevel k

/-- Whether a collective marked CRITICAL is in flight (R316, R388). -/
def State.critical (s : State) : Bool := s.slice.running.any (fun p => p.2.critical)

/-- HYST in 0.25 degrees; 0 acts as 1. -/
def State.hyst (s : State) : Nat := if fld s.mem.thermCfg 16 8 = 0 then 1 else fld s.mem.thermCfg 16 8

/-- STACK_THERMAL_SAMPLE: TEMP and PRED, and the move, deferral or protection that they call for (R313 to R317). -/
def execStackThermalSample (stack temp : Nat) (s : State) : Host.Outcome State Fault Refusal :=
  if 12 ≤ stack ∨ !(s.stack stack).counting then done s s
  else
    let x := s.stack stack
    let t := temp % 4096
    let prev : Int := fld x.therm 0 12
    let pred := if x.sampled then (clampInt 0 0xFFF ((t : Int) + 4 * ((t : Int) - prev))).toNat else t
    let cur := x.pend.getD (fld x.therm 24 3)
    let s1 := s.updStack stack (fun x =>
      { x with sampled := true,
               therm := setFld (setFld (setFld x.therm 0 12 t) 12 12 pred) 32 12 (max t (fld x.therm 32 12)) })
    let undefer := fun (s : State) (f : Stack → Stack) =>
      s.updStack stack (fun x => f { x with deferLevel := none, therm := setBit x.therm 27 false })
    let down := decide (0 < cur) && decide (t + s.hyst < levelTemp cur) && decide (pred + s.hyst < levelTemp cur)
    let l := tempLevel t
    if cur = 4 then done s s1
    else if l = 4 then
      let s2 := if x.deferLevel.isSome then undefer s1 (fun x => { x with stats := addFld x.stats 32 16 1 }) else s1
      done s (((s2.updStack stack (fun x => { x with protect := true })).dueLevel stack 4).fault .stackOvertemp .channel (stack * 128))
    else match x.deferLevel with
    | some d =>
      if d < l then done s ((undefer s1 (fun x => { x with stats := addFld x.stats 32 16 1 })).dueLevel stack l)
      else if down then done s (s1.dueLevel stack (cur - 1))
      else done s s1
    | none =>
      if cur < l then
        if s.critical ∧ fld s.mem.thermCfg 0 16 ≠ 0 then
          done s (s1.updStack stack (fun x =>
            { x with deferLevel := some l, therm := setBit x.therm 27 true, stats := addFld x.stats 16 16 1 }))
        else done s (s1.dueLevel stack l)
      else if down then done s (s1.dueLevel stack (cur - 1))
      else done s s1

/-- The deferred level of stack k becomes due (R316). -/
def State.endDefer (s : State) (k : Nat) : State :=
  match (s.stack k).deferLevel with
  | none => s
  | some d => (s.updStack k (fun x => { x with deferLevel := none, therm := setBit x.therm 27 false })).dueLevel k d

/-- THERM_DEFER_EXPIRE: DEFER_US has passed (R316). -/
def execThermDeferExpire (stack : Nat) (s : State) : Host.Outcome State Fault Refusal :=
  if (s.stack stack).deferLevel.isSome then
    done s ((s.updStack stack (fun x => { x with stats := addFld x.stats 48 16 1 })).endDefer stack)
  else done s s

/-- THERM_DEFER_END: the last CRITICAL collective in flight has ended (R316). -/
def execThermDeferEnd (s : State) : Host.Outcome State Fault Refusal :=
  if s.critical then done s s else done s ((List.range 12).foldl State.endDefer s)

/-! ## Test -/

/-- MEM_STATUS.CFG_LOCKED sets. -/
def State.memLocked (s : State) : State := { s with mem := { s.mem with status := setBit s.mem.status 25 true } }

/-- A TEST_ENTER write of a channel acts (R319). -/
def State.testEnterCh (s : State) (ch : Nat) : State :=
  if s.outside then s.memLocked
  else if (s.chan ch).st = 2 then
    let s := s.evictAll ch
    let qs := (s.chan ch).all.filter (fun q => !ownOp q.req.op)
    let s := s.updChan ch (fun x => { x with st := 3, urgent := [], normal := [], writes := [], waiting := [] })
    qs.foldl (fun s q => s.reply q.req.src 0 0 (some .memUncorrectable)) s
  else s
/-- A TEST_EXIT write of a channel acts (R319). -/
def State.testExitCh (s : State) (ch : Nat) : State := if (s.chan ch).st = 3 then s.updChan ch (fun x => { x with st := 2 }) else s

/-- TEST_ENTER_CHANNEL (R319). -/
def execTestEnterChannel (ch : Nat) (s : State) : Host.Outcome State Fault Refusal := done s (s.testEnterCh ch)
/-- TEST_EXIT_CHANNEL (R319). -/
def execTestExitChannel (ch : Nat) (s : State) : Host.Outcome State Fault Refusal := done s (s.testExitCh ch)

/-- A GO write of the generator acts; it is ignored outside TEST, and with a reserved MODE or OP it starts nothing (R320, R323). -/
def State.tgStart (s : State) (ch : Nat) : State :=
  let x := s.chan ch
  if x.st ≠ 3 ∨ 6 ≤ fld x.tgCtrl 1 3 ∨ fld x.tgCtrl 4 2 = 3 then s
  else s.updChan ch (fun x => { x with tgStatus := 1, tgFirst := 0, tgPos := 0, tgGen := x.tgSeed })
/-- A STOP write of the generator acts (R321). -/
def State.tgHalt (s : State) (ch : Nat) : State :=
  s.updChan ch (fun x => if fld x.tgStatus 0 2 = 1 then { x with tgStatus := setFld x.tgStatus 0 2 3 } else x)

/-- TG_GO (R321). -/
def execTgGo (ch : Nat) (s : State) : Host.Outcome State Fault Refusal := done s (s.tgStart ch)
/-- TG_STOP (R321). -/
def execTgStop (ch : Nat) (s : State) : Host.Outcome State Fault Refusal := done s (s.tgHalt ch)
/-- TG_DONE: the passes are complete (R321). -/
def execTgDone (ch : Nat) (s : State) : Host.Outcome State Fault Refusal :=
  if fld (s.chan ch).tgStatus 0 2 = 1 ∧ (s.chan ch).tgFinished then
    done s (s.updChan ch (fun x => { x with tgStatus := setFld x.tgStatus 0 2 2 }))
  else done s s

/-! ## Flags -/

/-- Flags of the flag area. -/
def flagCount : Nat := 1048576
/-- The value of flag n. -/
def State.flag (s : State) (n : Nat) : W64 := aget 0 s.host.flags n
/-- The error that flag n holds. -/
def State.flagMark (s : State) (n : Nat) : Mark := aget .good s.host.flagMarks n
/-- The state with flag n's error set. -/
def State.setFlagMark (s : State) (n : Nat) (m : Mark) : State :=
  { s with host := { s.host with flagMarks := aset .good s.host.flagMarks n m } }
/-- A full write of flag n, which clears a poison (R468). -/
def State.putFlag (s : State) (n : Nat) (v : W64) : State :=
  ({ s with host := { s.host with flags := aset 0 s.host.flags n v } }).setFlagMark n .good

/-- A read of flag n (R468): its value, or none when it is uncorrectable; then its fault is raised. -/
def State.readFlag (s : State) (n : Nat) : Option W64 × State :=
  match s.flagMark n with
  | .good => (some (s.flag n), s)
  | .single _ => (some (s.flag n), s.setFlagMark n .good)
  | _ => (none, s.fault .memUncorrectable .channel 2047 (mkGa 2 s.moduleId (8 * n)))

/-- The 64 bytes of the eight flags from flag n. -/
def State.readFlags : Nat → State → Nat → Nat × Bool × State
  | 0, s, _ => (0, false, s)
  | k + 1, s, n =>
    let (v, s) := s.readFlag n
    let (r, bad, s) := State.readFlags k s (n + 1)
    match v with
    | some x => (x.toNat + r * 2 ^ 64, bad, s)
    | none => (r * 2 ^ 64, true, s)

/-- A collective that counts on flag n makes progress (R502): the mapping names the flag for its context and layer. -/
def State.flagProgress (s : State) (n : Nat) : State :=
  let counts := fun (r : CollRun) =>
    s.cfg.active.mapLayers.any (fun m => m.context == r.context && m.layer == r.layer
      && (m.sumFlag == n || m.shards.any (fun k => k.domFlag == n || k.totFlag == n)))
    || (r.kind == 4 && s.cfg.active.mapCtxs.any (fun m => m.context == r.context && m.rounds.any (fun p => p.2.2.2 == n)))
  { s with slice := { s.slice with running := s.slice.running.map (fun p => if counts p.2 then (p.1, { p.2 with progress := s.beat }) else p) } }

/-- An atomic on flag n (R343, R469): the old value, or none when the flag is uncorrectable. -/
def State.atomicFlag (s : State) (n aop : Nat) (operand compare : W64) : Option W64 × State :=
  let (v, s) := s.readFlag n
  match v with
  | none => (none, s)
  | some old => (some old, (s.putFlag n (BitVec.ofNat 64 (atomicNew aop 64 old.toNat operand.toNat compare.toNat))).flagProgress n)

/-- One operation on flag n takes effect (R469). -/
def State.flagOp (s : State) (src : ReqSrc) (n : Nat) (act : FlagAct) : State :=
  match act with
  | .read =>
    let (v, bad, s) := State.readFlags 8 s (n / 8 * 8)
    s.reply src (BitVec.ofNat 512 v) 0 (if bad then some .memUncorrectable else none)
  | .write v => (s.putFlag n v).reply src 0 0 none
  | .atomic aop operand compare =>
    match s.atomicFlag n aop operand compare with
    | (some old, s) => s.reply src 0 old none
    | (none, s) => s.reply src 0 0 (some .memUncorrectable)
  | .reduceAdd v =>
    match s.readFlag n with
    | (none, s) => s.reply src 0 0 (some .memUncorrectable)
    | (some old, s) =>
      let x := sext 64 old.toNat + sext 64 v.toNat
      let y := clampInt (intMin 64) (intMax 64) x
      (((s.putFlag n (BitVec.ofNat 64 (twos 64 y))).redSat (if x = y then 0 else 1))).reply src 0 0 none

/-- Whether a flag operation on its way may take effect: no earlier one of its requester is for the same flag or of the same packet (R195,
R469). -/
def State.mayFlag (s : State) (f : ReqSrc × Nat × FlagAct) : Bool :=
  s.host.flagIn.contains f
    && !(before f s.host.flagIn).any (fun q => q.1 == f.1 || (requester q.1 == requester f.1 && q.2.1 / 8 == f.2.1 / 8))

/-- FLAG_OPERATION: an operation, on its way to the flag area, takes effect there in its requester's order (R469). -/
def execFlagOperation (src : ReqSrc) (flag : Nat) (act : FlagAct) (s : State) : Host.Outcome State Fault Refusal :=
  if !s.mayFlag (src, flag, act) then done s s
  else
    let s1 := { s with host := { s.host with flagIn := s.host.flagIn.erase (src, flag, act) } }
    if flag < flagCount then done s (s1.flagOp src flag act) else done s (s1.reply src 0 0 (some .range))

/-- FLAG_SCRUB: the scrubber reads its next flag, corrects it, or poisons it (R468). -/
def execFlagScrub (e : Ecc) (s : State) : Host.Outcome State Fault Refusal :=
  let n := s.host.flagScrub
  let m := (s.flagMark n).upset e
  let m' := match m with | .single _ => Mark.good | .double _ _ => .poison | m => m
  done s ({ s.setFlagMark n m' with host := { (s.setFlagMark n m').host with flagScrub := (n + 1) % flagCount } })

end Sys2Proof.Machine
end

