-- ==== Sys2Proof/Machine/Escapement.lean ====
section
/-! DEFINITION. The Escapement (chapter 09): SYNC pulses and beat loads (R265 to R269), the Hairspring (R271 to R277), periods and
lateness (R283 to R288) and the reference (R289, R290). What acts at a boundary stands in Boundary.lean. A command whose premise
does not hold changes nothing (log 7). -/

namespace Sys2Proof.Machine

/-- The state with the Escapement changed. -/
def State.updEsc (s : State) (f : Esc → Esc) : State := { s with esc := f s.esc }
/-- Bit i of ESC_STATUS set to b. -/
def State.escBit (s : State) (i : Nat) (b : Bool) : State := s.updEsc (fun e => { e with status := setBit e.status i b })
/-- ESC_STATUS.CFG_LOCKED sets (R294). -/
def State.escLocked (s : State) : State := s.escBit 7 true

/-! ## SYNC pulses -/

/-- A check pulse, `rc` reference cycles after the count's last boundary, load or pulse (R266): while SYNCED, an ESC_RC_COUNT that is no
multiple of 2^24 is a slip; while beats are not counted, the count goes on (log 94). -/
def State.syncCheck (s : State) (rc : Nat) : State :=
  let n := s.esc.rcCount + BitVec.ofNat 64 rc
  if !s.synced then s.updEsc (fun e => { e with rcCount := n })
  else if fld n 0 24 ≠ 0 then
    ((s.escBit 5 true).updEsc (fun e => { e with unsyncDue := true })).fault .syncSlip .escapement 0
  else s

/-- SYNC_CHECK_PULSE (R266). -/
def execSyncCheckPulse (rc : Nat) (s : State) : Host.Outcome State Fault Refusal := done s (s.syncCheck rc)

/-- A load acts (R267, R295: ESC_NEXT_START is 0 until the first announcement after a load). -/
def State.syncLoad (s : State) : State :=
  let t := s.updEsc (fun e => { e with rcCount := 0, beat := e.syncLoad, hsSlew := setFld e.hsSlew 0 32 0, next := 0,
                                       announced := none, unsyncDue := false, slews := [] })
  ((t.escBit 2 false).escBit 1 true).escBit 4 false

/-- SYNC_LOAD_PULSE: an armed load acts while REF_OK is 1; otherwise the pulse is a check pulse (R267, R289). -/
def execSyncLoadPulse (rc : Nat) (s : State) : Host.Outcome State Fault Refusal :=
  if bitOf s.esc.status 2 ∧ bitOf s.esc.status 0 then done s s.syncLoad else done s (s.syncCheck rc)

/-- A write of ARM acts (R267, R294). -/
def State.escArm (s : State) : State := if s.outside then s.escLocked else s.escBit 2 true
/-- A write of DISARM acts (R295, R294). -/
def State.escDisarm (s : State) : State := if s.outside then s.escLocked else s.escBit 2 false
/-- ARM (R267). -/
def execArm (s : State) : Host.Outcome State Fault Refusal := done s s.escArm
/-- DISARM (R295). -/
def execDisarm (s : State) : Host.Outcome State Fault Refusal := done s s.escDisarm

/-- A write of ESC_BEAT_CHANGE acts (R269, R294): 0 disarms; a beat that is not after the current one is refused. -/
def State.escBeatChange (s : State) (v : W64) : State :=
  if s.outside then s.escLocked
  else if v = 0 ∨ s.beat.toNat < v.toNat then s.updEsc (fun e => { e with beatChange := v })
  else (s.escBit 6 true).updEsc (fun e => { e with beatChange := 0 })

/-- ESC_BEAT_CHANGE_WRITE (R269). -/
def execEscBeatChangeWrite (v : W64) (s : State) : Host.Outcome State Fault Refusal := done s (s.escBeatChange v)

/-! ## The Hairspring -/

/-- ESC_HS_CFG.ROLE: 0 NONE, 1 ROOT, 2 AGENT, 3 FOLLOWER. -/
def State.hsRole (s : State) : Nat := fld s.esc.hsCfg 0 2
/-- ESC_HS_CFG.PORT. -/
def State.hsPort (s : State) : Nat := fld s.esc.hsCfg 2 6
/-- ESC_HS_STATUS.STATE: 0 OFF, 1 ACQUIRE, 2 LOCKED, 3 OUT_OF_TOL, 4 HOLDOVER, 5 NO_ROOT, 6 UNREACHED. -/
def State.hsState (s : State) : Nat := fld s.esc.hsStatus 32 3
/-- The state with ESC_HS_STATUS.STATE set. -/
def State.setHs (s : State) (v : Nat) : State := s.updEsc (fun e => { e with hsStatus := setFld e.hsStatus 32 3 v })
/-- SLEW_GAP; 0 acts as 1. -/
def State.slewGap (s : State) : Nat := if fld s.esc.hsCfg 32 8 = 0 then 1 else fld s.esc.hsCfg 32 8
/-- FAULT_NS; values below 41 act as 41. -/
def State.faultNs (s : State) : Nat := if fld s.esc.hsCfg 40 16 < 41 then 41 else fld s.esc.hsCfg 40 16
/-- ASYM, signed. -/
def State.hsAsym (s : State) : Int := sext 16 (fld s.esc.hsCfg 16 16)
/-- SLEW_SUM, signed. -/
def State.slewSum (s : State) : Int := sext 32 (fld s.esc.hsSlew 0 32)

/-- A Hairspring frame goes out in the control blocks of a port (R272, R327). -/
def State.hsFrame (s : State) (port : Nat) (frame : List W64) : State :=
  s.updPort port (fun p => { p with ctl := p.ctl ++ [.hairspring frame] })

/-- A slew or step of d rc for a beat enters the module's own beat lengths and sums (R274, R295). -/
def State.applySlew (s : State) (target : W64) (d : Int) : State :=
  let sum := s.slewSum + d
  s.updEsc (fun e =>
    { e with
      hsSlew := if d = 0 then e.hsSlew else addFld (setFld e.hsSlew 0 32 (twos 32 sum)) 32 32 1
      slews := if d = 0 then e.slews else e.slews ++ [(target, d)] })

/-- The agent sends a slew, a step or an empty message to every module of its rack, itself included (R271, R274). -/
def State.sendSlew (s : State) (target : W64) (d : Int) : State :=
  let s := s.applySlew target d
  let frame := [target, BitVec.ofInt 64 d, BitVec.ofNat 64 s.hsState, BitVec.ofInt 64 s.slewSum]
  (List.range 31).foldl (fun s p => if (s.port p).st = 3 then s.hsFrame p frame else s) s

/-- Length of beat b in reference cycles: BEAT_RC and the slews and steps that name it (R268, R274). -/
def State.beatLength (s : State) (b : W64) : Nat :=
  (((fld s.esc.beatCfg 0 16 : Nat) : Int) + (s.esc.slews.filter (fun p => p.1 == b)).foldl (fun n p => n + p.2) 0).toNat

/-- The timestamp of a frame that crosses at point c of beat b (R272). -/
def State.hallTime (s : State) (b : W64) (c : RcAt) : W64 :=
  BitVec.ofNat 64 (16 * (fld s.esc.beatCfg 0 16 * b.toNat + c.rc) + c.frac % 16)

/-- HS_EXCHANGE_REQUEST: the agent sends a request to its root neighbour at point t1 of the beat (R272). -/
def execHsExchangeRequest (t1 : RcAt) (s : State) : Host.Outcome State Fault Refusal :=
  if s.hsRole = 2 ∧ s.hsState ≠ 5 ∧ t1.rc < s.beatLength s.beat then
    done s ((s.updEsc (fun e => { e with t1 := some (s.hallTime s.beat t1) })).hsFrame s.hsPort [])
  else done s s

/-- HS_ROOT_REPLY: a ROOT module answers a request on a global port with t2, a number of beats before the present one and the point of that
beat at which the request arrived, and t3, the point of the present beat (R271, R272). -/
def execHsRootReply (port : Nat) (t2 : Nat × RcAt) (t3 : RcAt) (s : State) : Host.Outcome State Fault Refusal :=
  if s.hsRole = 1 ∧ 31 ≤ port ∧ port < Config.ports ∧ t2.1 ≤ s.beat.toNat ∧ t3.rc < s.beatLength s.beat then
    done s (s.hsFrame port [s.hallTime (s.beat - BitVec.ofNat 64 t2.1) t2.2, s.hallTime s.beat t3])
  else done s s

/-- x / 16 rounded to nearest, ties away from zero (R275). -/
def roundAway16 (x : Int) : Int := if x < 0 then -((x.natAbs + 8) / 16 : Nat) else ((x.natAbs + 8) / 16 : Nat)

/-- Whether some module of the rack belongs to a slice outside JOINING, as far as the agent knows (R276). -/
def State.rackBusy (s : State) : Bool := s.outside || s.esc.busy.any (fun p => p.2)

/-- A step of d rc is sent for beat b + 4 (R275). freq, owe and last_slew start at 0 after it (R273). -/
def State.sendStep (s : State) (d : Int) : State :=
  let s := s.sendSlew (s.beat + 4) d
  s.updEsc (fun e => { e with hsStatus := setBit e.hsStatus 35 true, stepped := true, acquireStep := none, freq := 0, owe := 0, lastSlew := 0 })

/-- The agent's step of θ (R275), deferred while the rack is busy (R276). A positive θ shortens the beat, as for a slew. -/
def State.hsStep (s : State) (th : Int) : State :=
  let d := -(roundAway16 th)
  let s := s.updEsc (fun e => { e with inTol := 0 })
  if s.rackBusy then s.updEsc (fun e => { e with acquireStep := some d }) else s.sendStep d

/-- At the beat that a step names the module drops it where a module of the rack is known to belong to a slice outside JOINING: its own, and on
the agent those that have reported it (R276). The agent defers it anew. A slew of one rc stays. -/
def State.dropSteps (s : State) : State :=
  if !(if s.hsRole = 2 then s.rackBusy else s.outside) then s
  else
    let here := fun (p : W64 × Int) => p.1 == s.beat && decide (2 ≤ p.2.natAbs)
    let gone := s.esc.slews.filter here
    let sum := gone.foldl (fun (n : Int) p => n + p.2) 0
    match gone with
    | [] => s
    | p :: _ => s.updEsc (fun e => { e with
        slews := e.slews.filter (fun q => !here q)
        hsSlew := setFld (setFld e.hsSlew 0 32 (twos 32 (s.slewSum - sum))) 32 32 (fld e.hsSlew 32 32 - gone.length)
        acquireStep := if s.hsRole = 2 then some p.2 else e.acquireStep })

/-- θ of an exchange (R272). -/
def hsTheta (t1 t2 t3 t4 : W64) (asym : Int) : Int :=
  (((t2.toNat : Int) - t1.toNat) + ((t3.toNat : Int) - t4.toNat)) / 2 + asym

/-- The state moves of R275 on an exchange with offset θ. -/
def State.hsMove (s : State) (th : Int) : State :=
  let near := decide (th.natAbs ≤ 128)
  match s.hsState with
  | 1 =>
    if th.natAbs ≥ 256 then s.hsStep th
    else
      let n := if near then s.esc.inTol + 1 else 0
      let s := s.updEsc (fun e => { e with inTol := n, acquireStep := none })
      if n ≥ 4 then s.setHs 2 else s
  | 2 => if near then s else (s.setHs 3).updEsc (fun e => { e with inTol := 0 })
  | 3 =>
    let n := if near then s.esc.inTol + 1 else 0
    let s := s.updEsc (fun e => { e with inTol := n })
    if n ≥ 4 then s.setHs 2 else s
  | _ => s

/-- HS_EXCHANGE_REPLY (R272, R273, R275): θ enters freq and owe, the state moves, and a large θ outside ACQUIRE is a fault. The reply
carries t2 and t3 and arrives at point t4 of the beat. -/
def execHsExchangeReply (t2 t3 : W64) (t4 : RcAt) (s : State) : Host.Outcome State Fault Refusal :=
  match s.esc.t1 with
  | none => done s s
  | some t1 =>
    if s.hsRole ≠ 2 ∨ s.beatLength s.beat ≤ t4.rc then done s s
    else
      let th := hsTheta t1 t2 t3 (s.hallTime s.beat t4) s.hsAsym
      let s1 := s.updEsc (fun e =>
        let freq := e.freq + th / 8
        { e with freq := freq, owe := e.owe + (th / 2 + freq), t1 := none, noReply := 0,
                 hsStatus := setFld e.hsStatus 0 32 (twos 32 th) })
      let s2 := if s1.hsState = 4 then
          (s1.setHs (if s1.esc.stepped then 1 else s1.esc.prevState)).updEsc (fun e => { e with inTol := 0 })
        else s1
      let was := s2.hsState
      let s3 := s2.hsMove th
      let s4 := if was ≠ 1 ∧ th.natAbs * 5 > s.faultNs * 16 then s3.fault .hairspring .escapement 0 else s3
      done s (s4.sendSlew (s.beat + 4) 0)

/-- The port of an agent is disabled, or its neighbour is not ROOT: NO_ROOT (R275). -/
def State.noRoot (s : State) : State := if s.hsRole = 2 then (s.setHs 5).updEsc (fun e => { e with t1 := none }) else s

/-- HS_INTERVAL_NO_REPLY: holdover's correction; two intervals without a reply enter HOLDOVER (R273, R275). Every interval, one in NO_ROOT
too, has its message to the rack, with d = 0 (R274). -/
def execHsIntervalNoReply (s : State) : Host.Outcome State Fault Refusal :=
  if s.hsRole ≠ 2 then done s s
  else if s.hsState = 5 then done s (s.sendSlew (s.beat + 4) 0)
  else
    let s1 := s.updEsc (fun e => { e with owe := e.owe + e.freq, t1 := none, noReply := e.noReply + 1 })
    let s2 := if s1.esc.noReply ≥ 2 ∧ s1.hsState ≠ 4 then
        (s1.updEsc (fun e => { e with prevState := s1.hsState })).setHs 4
      else s1
    done s (s2.sendSlew (s.beat + 4) 0)

/-- HS_HOLDOVER_TIMEOUT: one second in HOLDOVER without a reply (R275). -/
def execHsHoldoverTimeout (s : State) : Host.Outcome State Fault Refusal :=
  if s.hsRole = 2 ∧ s.hsState = 4 then done s (s.fault .hairspring .escapement 0) else done s s

/-- The module loses its agent's messages or sums: UNREACHED, and a BEAT_SLIP fault outside JOINING (R274). -/
def State.beatSlip (s : State) : State :=
  let s := s.setHs 6
  if s.outside then s.fault .beatSlip .escapement 0 else s

/-- SLEW_MESSAGE: a follower applies the change to the target beat and checks the sum (R274, R275); its acknowledgement reports whether it
belongs to a slice outside JOINING (R276). -/
def execSlewMessage (port : Nat) (target : W64) (d : Int) (agent : SlewReport) (s : State) : Host.Outcome State Fault Refusal :=
  if s.hsRole ≠ 3 then done s s
  else
    let s0 := (s.applySlew target d).hsFrame port [BitVec.ofNat 64 (if s.outside then 1 else 0)]
    let s1 := (s0.setHs (agent.state % 8)).updEsc (fun e => { e with slewHeard := true, missed := 0 })
    done s (if s1.slewSum = agent.sum then s1 else s1.beatSlip)

/-- SLEW_MESSAGE_MISSING: two exchange intervals have passed without a message (R274). -/
def execSlewMessageMissing (s : State) : Host.Outcome State Fault Refusal :=
  if s.hsRole = 3 then done s ((s.updEsc (fun e => { e with slewHeard := false, missed := 2 })).beatSlip) else done s s

/-- SLEW_ACKNOWLEDGEMENT: slot reports whether it belongs to a slice outside JOINING; a deferred step goes once none does (R276). -/
def execSlewAcknowledgement (slot : Nat) (busy : Bool) (s : State) : Host.Outcome State Fault Refusal :=
  if s.hsRole ≠ 2 then done s s
  else
    let s1 := s.updEsc (fun e => { e with busy := aset false e.busy slot busy })
    match s1.esc.acquireStep with
    | none => done s s1
    | some d =>
      if s1.rackBusy ∨ s1.hsState ≠ 1 then done s s1 else done s (s1.sendStep d)

/-- The writable fields of ESC_HS_CFG. -/
def hsCfgMask : W64 := maskOf 0 13 ||| maskOf 16 40

/-- A write of ESC_HS_CFG acts (R273, R275, R294): the role's state begins anew. -/
def State.escHsCfg (s : State) (v : W64) : State :=
  let new := rw s.esc.hsCfg hsCfgMask v
  let role := fld new 0 2
  let port := fld new 2 6
  let changes := (role ≠ s.hsRole ∧ role ≠ 0) ∨ port ≠ s.hsPort
  let excepted := changes ∧ (s.hsState = 4 ∨ s.hsState = 5 ∨ s.hsState = 6)
  if s.outside ∧ ¬ excepted then s.escLocked
  else
    let noRoot := port < 31 ∨ port > 38 ∨ (s.port port).st = 4 ∨ ¬ (s.port port).enable
    let st := match role with | 0 => 0 | 1 => 2 | 2 => if noRoot then 5 else 1 | _ => 6
    (s.updEsc (fun e => { e with hsCfg := new, freq := 0, owe := 0, lastSlew := 0, t1 := none, inTol := 0, noReply := 0,
                                 prevState := st, stepped := false, acquireStep := none, busy := [] })).setHs st

/-- ESC_HS_CFG_WRITE (R294). -/
def execEscHsCfgWrite (v : W64) (s : State) : Host.Outcome State Fault Refusal := done s (s.escHsCfg v)

/-! ## Periods -/

/-- P, PERIOD_MIN, SHRINK_PCT and LATE_LIMIT as they act (R295). -/
def State.periodP (s : State) : Nat := fld s.esc.periodCfg 0 16
/-- PERIOD_MIN; 0 or values above P act as P. -/
def State.periodMin (s : State) : Nat :=
  let m := fld s.esc.periodCfg 16 16
  if m = 0 ∨ m > s.periodP then s.periodP else m
/-- SHRINK_PCT; values above 100 act as 100. -/
def State.shrinkPct (s : State) : Nat := min 100 (fld s.esc.periodCfg 32 7)
/-- LATE_LIMIT; 0 acts as 1. -/
def State.lateLimit (s : State) : Nat := if fld s.esc.periodCfg 40 16 = 0 then 1 else fld s.esc.periodCfg 40 16

/-- LATE is set while LATE_RUN is at least LATE_LIMIT (R287). -/
def State.lateNow (s : State) : State := s.escBit 3 (decide (s.lateLimit ≤ fld s.esc.lateness 32 16))

/-- Length and lateness of period k that starts at `start` (R286). -/
def State.periodLength (s : State) (k start : Nat) : Nat × Nat :=
  let late := start - (s.esc.anchor.toNat + (k - s.esc.first.toNat) * s.periodP)
  let sh := s.periodP * s.shrinkPct / 100
  (s.periodP - min late (min sh (s.periodP - s.periodMin)), late)

/-- Λ of the current period. -/
def State.lambda (s : State) : Nat := fld s.esc.lateness 48 16

/-- Whether a marked record write of the step is still to come (R283). -/
def State.recordOwed (s : State) : Bool := s.ctxs.any (fun p => p.2.ran && s.cfg.active.periodOps.contains (.record p.1))

/-- PERIOD_DONE_SEND: every period-bound operation of the period that acted has completed, the record writes among them, so its
marker goes to the master (R283, R288). -/
def execPeriodDoneSend (s : State) : Host.Outcome State Fault Refusal :=
  if s.periodP ≠ 0 ∧ s.esc.started ∧ s.sliceSt = 2 ∧ !s.esc.doneSent ∧ s.esc.bound.isEmpty ∧ !s.recordOwed then
    done s ((s.updEsc (fun e => { e with doneSent := true })).sendControl s.masterId 10 (leBytes 8 s.esc.now.toNat))
  else done s s

/-- PERIOD_DONE: the master holds the marker of a member; with the last of them it announces the end of the period (R284, R286). -/
def execPeriodDone (src : Nat) (k : W64) (s : State) : Host.Outcome State Fault Refusal :=
  let s1 := s.consumeControl src 10
  match s.rankOf src with
  | none => done s s1
  | some r =>
    if s.isMaster ∧ s.periodP ≠ 0 ∧ s.esc.started ∧ k = s.esc.now ∧ ¬ s.esc.markers.contains r then
      let marks := r :: s.esc.markers
      if marks.length < s.nMembers then done s (s1.updEsc (fun e => { e with markers := marks }))
      else
        let e := max (s.esc.start.toNat + s.lambda) (s.beat.toNat + s.periodLead)
        let (l, late) := s.periodLength (k.toNat + 1) e
        let bytes := leBytes 8 (k.toNat + 1) ++ leBytes 8 e ++ leBytes 2 l ++ leBytes 4 late
        done s ((s1.updEsc (fun x => { x with markers := marks })).controlAll 11 bytes)
    else done s s1

/-- PERIOD_ANNOUNCE: the member takes E_k, or faults when it arrives after beat E_k - 1 (R284, R285). -/
def execPeriodAnnounce (k1 e : W64) (lambda late : Nat) (s : State) : Host.Outcome State Fault Refusal :=
  let s1 := s.consumeControl s.masterId 11
  if e.toNat ≤ s.beat.toNat then done s (s1.fault .periodAnnounce .escapement 0)
  else done s (s1.updEsc (fun x => { x with announced := some ⟨k1, e, lambda, late⟩, next := e }))

/-! ## The reference -/

/-- REF_QUALIFY: REF_OK sets, and the region PLLs relock to the reference (R289, R554). -/
def execRefQualify (s : State) : Host.Outcome State Fault Refusal :=
  if bitOf s.esc.status 0 then done s s
  else done s { (s.escBit 0 true).updEsc (fun e => { e with refWindows := 4 }) with power := { s.power with relocked := true } }

/-- REF_LOSS: REF_OK clears; a module that counts beats counts them from the oscillator (R290). -/
def execRefLoss (s : State) : Host.Outcome State Fault Refusal :=
  if bitOf s.esc.status 0 then
    let s1 := (s.escBit 0 false).updEsc (fun e => { e with refWindows := 0, holdover := 0 })
    let s2 := if s.synced then s1.escBit 4 true else s1
    done s { s2.fault .refLoss .escapement 0 with power := { s.power with relocked := false } }
  else done s s

/-- Beats are counted no longer: SYNCED clears, and throttle levels that were due at a boundary take effect (R290, R315). -/
def State.stopBeats (s : State) : State := ((s.escBit 1 false).escBit 4 false).levelsApply

/-- REF_HOLDOVER_END: after 64 holdover beats, or once the halt has completed, beats stop and SYNCED clears (R290). -/
def execRefHoldoverEnd (s : State) : Host.Outcome State Fault Refusal :=
  if bitOf s.esc.status 4 ∧ (64 ≤ s.esc.holdover ∨ s.sliceSt = 3) then done s s.stopBeats else done s s

end Sys2Proof.Machine
end

