-- ==== Sys2Proof/Machine/Crypto.lean ====
section
/-! DEFINITION. CRC-32 with the IEEE 802.3 polynomial (R253), the lanes' RS(544,514) code and the SM3 digest and SM2 signature verification
that R12 names. The manual names these standards and does not restate them (log 33). -/

namespace Sys2Proof.Machine

/-! ## CRC-32 -/

/-- k shifts of the reflected CRC register. -/
def crcShift : Nat → Nat → Nat
  | 0, c => c
  | k + 1, c => crcShift k (if c % 2 = 1 then (c / 2) ^^^ 0xEDB88320 else c / 2)

/-- CRC-32 of the IEEE 802.3 polynomial. -/
def crc32 (bs : List Byte) : W32 :=
  BitVec.ofNat 32 ((bs.foldl (fun c b => crcShift 8 (c ^^^ b.toNat)) 0xFFFFFFFF) ^^^ 0xFFFFFFFF)

/-! ## RS(544,514) of IEEE 802.3 (R12, R324) -/

/-- k steps of a product in the field of 1,024 elements, whose polynomial is x^10 + x^3 + 1. -/
def gfMulStep : Nat → Nat → Nat → Nat
  | 0, _, _ => 0
  | k + 1, a, b => (if b % 2 = 1 then a else 0) ^^^ gfMulStep k (if 512 ≤ a then a * 2 ^^^ 0x409 else a * 2) (b / 2)
/-- The product of two 10-bit symbols. -/
def gfMul (a b : Nat) : Nat := gfMulStep 10 a b
/-- Powers of the generator 2 of the field. -/
def gfPow : Nat → Nat
  | 0 => 1
  | k + 1 => gfMul 2 (gfPow k)

/-- The generator polynomial without its leading 1, highest power first: its roots are the powers 0 to 29. -/
def rsPoly : List Nat :=
  (List.range 30).foldl (fun g i =>
    let r := gfPow i
    ((g ++ [0]).zip (1 :: g)).map (fun (p : Nat × Nat) => p.1 ^^^ gfMul r p.2)) []

/-- One symbol enters the division by the generator polynomial. -/
def rsStep (r : List Nat) (d : Nat) : List Nat :=
  let f := d ^^^ r.headD 0
  ((r.drop 1 ++ [0]).zip rsPoly).map (fun (p : Nat × Nat) => p.1 ^^^ gfMul f p.2)

/-- The codeword that a lane sends for 514 symbols: the symbols, and 30 parity symbols. -/
def rsWord (data : List Nat) : List Nat := data ++ data.foldl rsStep (List.replicate 30 0)

/-- Whether 544 symbols are a codeword: every syndrome is 0. -/
def rsValid (w : List Nat) : Bool :=
  (List.range 30).all (fun i => w.foldl (fun v c => gfMul v (gfPow i) ^^^ c) 0 == 0)

/-! ## SM3 (GB/T 32905) -/

/-- A 32-bit word rotated left. -/
def rol (x : W32) (k : Nat) : W32 := x.rotateLeft (k % 32)
/-- P0. -/
def smP0 (x : W32) : W32 := x ^^^ rol x 9 ^^^ rol x 17
/-- P1. -/
def smP1 (x : W32) : W32 := x ^^^ rol x 15 ^^^ rol x 23

/-- The value of bytes that stand most significant first. -/
def ofBe (bs : List Byte) : Nat := bs.foldl (fun n b => n * 256 + b.toNat) 0
/-- The `n` bytes of a value, most significant first. -/
def beBytes (n v : Nat) : List Byte := (leBytes n v).reverse

/-- The message expansion: `k` further words on the words so far, newest first. -/
def smExpand : Nat → List W32 → List W32
  | 0, w => w
  | k + 1, w =>
    let g := fun i => nth 0 w i
    smExpand k ((smP1 (g 15 ^^^ g 8 ^^^ rol (g 2) 15) ^^^ rol (g 12) 7 ^^^ g 5) :: w)

/-- The eight words of the chaining value. -/
structure SmV where
  a : W32
  b : W32
  c : W32
  d : W32
  e : W32
  f : W32
  g : W32
  h : W32
  deriving DecidableEq, Repr

/-- Round j with words w and w'. -/
def smRound (v : SmV) (j : Nat) (w w' : W32) : SmV :=
  let t : W32 := if j < 16 then 0x79CC4519#32 else 0x7A879D8A#32
  let ss1 := rol (rol v.a 12 + v.e + rol t j) 7
  let ss2 := ss1 ^^^ rol v.a 12
  let ff := if j < 16 then v.a ^^^ v.b ^^^ v.c else (v.a &&& v.b) ||| (v.a &&& v.c) ||| (v.b &&& v.c)
  let gg := if j < 16 then v.e ^^^ v.f ^^^ v.g else (v.e &&& v.f) ||| (~~~v.e &&& v.g)
  let t1 := ff + v.d + ss2 + w'
  let t2 := gg + v.h + ss1 + w
  ⟨t1, v.a, rol v.b 9, v.c, smP0 t2, v.e, rol v.f 19, v.g⟩

/-- The compression of one 64-byte block. -/
def smBlock (v : SmV) (blk : List Byte) : SmV :=
  let w0 := (chunks 4 16 blk).map (fun b => BitVec.ofNat 32 (ofBe b))
  let w := (smExpand 52 w0.reverse).reverse
  let r := (List.range 64).foldl (fun v j => smRound v j (nth 0 w j) (nth 0 w j ^^^ nth 0 w (j + 4))) v
  ⟨r.a ^^^ v.a, r.b ^^^ v.b, r.c ^^^ v.c, r.d ^^^ v.d, r.e ^^^ v.e, r.f ^^^ v.f, r.g ^^^ v.g, r.h ^^^ v.h⟩

/-- The digest's 32 bytes. -/
def sm3 (bs : List Byte) : List Byte :=
  let pad := (119 - bs.length % 64) % 64
  let m := bs ++ 0x80#8 :: List.replicate pad 0#8 ++ beBytes 8 (8 * bs.length)
  let v := (chunks 64 (m.length / 64 + 1) m).foldl smBlock
    ⟨0x7380166F#32, 0x4914B2B9#32, 0x172442D7#32, 0xDA8A0600#32, 0xA96F30BC#32, 0x163138AA#32, 0xE38DEE4D#32, 0xB0FB0E4E#32⟩
  [v.a, v.b, v.c, v.d, v.e, v.f, v.g, v.h].flatMap (fun x => beBytes 4 x.toNat)

/-- The digest as the registers hold it: byte 0 in bits [7:0] (R439). -/
def sm3Word (bs : List Byte) : W256 := BitVec.ofNat 256 (ofLe (sm3 bs))

/-! ## SM2 (GB/T 32918) -/

/-- The field's prime. -/
def smP : Nat := 0xFFFFFFFEFFFFFFFFFFFFFFFFFFFFFFFFFFFFFFFF00000000FFFFFFFFFFFFFFFF
/-- The curve's b; a is p − 3. -/
def smB : Nat := 0x28E9FA9E9D9F5E344D5A9E4BCF6509A7F39789F515AB8F92DDBCBD414D940E93
/-- The order of the base point. -/
def smN : Nat := 0xFFFFFFFEFFFFFFFFFFFFFFFFFFFFFFFF7203DF6B21C6052B53BBF40939D54123
/-- The base point. -/
def smG : Nat × Nat :=
  (0x32C4AE2C1F1981195F9904466A39C9948FE30BBFF2660BE1715A4589334C74C7,
   0xBC3736A2F4F6779C59BDCEE36B692153D0A9877CC62A474002DF32E52139F0A0)

/-- b to the power e modulo m, over at most `k` bits of e. -/
def powMod (m : Nat) : Nat → Nat → Nat → Nat
  | 0, _, _ => 1 % m
  | k + 1, b, e =>
    let h := powMod m k (b * b % m) (e / 2)
    if e % 2 = 1 then b * h % m else h

/-- A difference modulo p. -/
def subP (a b : Nat) : Nat := (a + smP - b % smP) % smP

/-- The sum of two points; none is the point at infinity. -/
def smAdd (p q : Option (Nat × Nat)) : Option (Nat × Nat) :=
  match p, q with
  | none, q => q
  | p, none => p
  | some (x1, y1), some (x2, y2) =>
    if x1 = x2 ∧ (y1 + y2) % smP = 0 then none
    else
      let (n, d) := if x1 = x2 then (subP (3 * x1 * x1) 3, 2 * y1 % smP) else (subP y2 y1, subP x2 x1)
      let l := n * powMod smP 256 d (smP - 2) % smP
      let x := subP (l * l) (x1 + x2)
      some (x, subP (l * subP x1 x) y1)

/-- k times a point, over at most `n` bits of k. -/
def smMul : Nat → Nat → Option (Nat × Nat) → Option (Nat × Nat)
  | 0, _, _ => none
  | n + 1, k, p =>
    let h := smMul n (k / 2) (smAdd p p)
    if k % 2 = 1 then smAdd p h else h

/-- Whether a point lies on the curve (R558). -/
def smOnCurve (x y : Nat) : Bool :=
  decide (x < smP) && decide (y < smP) && y * y % smP == (x * x * x + (smP - 3) * x + smB) % smP

/-- The default signer ID of R12. -/
def smId : List Byte := [0x31, 0x32, 0x33, 0x34, 0x35, 0x36, 0x37, 0x38, 0x31, 0x32, 0x33, 0x34, 0x35, 0x36, 0x37, 0x38]

/-- Whether (r, s) is a valid signature of a message under a public key of 64 bytes, X then Y in the SM2 octet encoding (R558). -/
def sm2Verify (key : List Byte) (msg : List Byte) (r s : Nat) : Bool :=
  let px := ofBe (key.take 32)
  let py := ofBe ((key.drop 32).take 32)
  let za := sm3 ([0x00#8, 0x80#8] ++ smId ++ beBytes 32 (smP - 3) ++ beBytes 32 smB ++ beBytes 32 smG.1 ++ beBytes 32 smG.2
    ++ beBytes 32 px ++ beBytes 32 py)
  let e := ofBe (sm3 (za ++ msg))
  let t := (r + s) % smN
  if r = 0 ∨ s = 0 ∨ smN ≤ r ∨ smN ≤ s ∨ t = 0 then false
  else match smAdd (smMul 256 s (some smG)) (smMul 256 t (some (px, py))) with
    | none => false
    | some (x, _) => (e + x) % smN == r

end Sys2Proof.Machine
end

