-- ==== Sys2Proof/Machine/Vec.lean ====
section
/-! DEFINITION. The vector unit's lane operations (R176 to R187) and CVT over registers (R135 to R139), as functions of register
values, and the FP64 unit's operations (R565). -/

namespace Sys2Proof.Machine

/-- num / den rounded to nearest even, den positive. -/
def rneDiv (num den : Int) : Int :=
  let n := num.natAbs
  let d := den.natAbs
  let q := n / d
  let r := n % d
  let m : Int := ((if 2 * r > d ∨ (2 * r = d ∧ q % 2 = 1) then q + 1 else q : Nat) : Int)
  if decide (num < 0) != decide (den < 0) then -m else m

/-- The larger or smaller of two values under R184 and R565: NaN with a NaN, −0 below +0. -/
def fminmax (mx : Bool) (a b : FVal) : FVal :=
  if isNan a || isNan b then .nan
  else
    let aLow := flt a b || (!flt b a && signOf a)
    if aLow != mx then a else b

/-- 1 / √x rounded once (R185). -/
def frsqrtR (f : FpFmt) (v : FVal) : Num :=
  match v with
  | .nan => fpPack f .rne .nan
  | .inf n => if n then fpPack f .rne .nan else fpPack f .rne (.fin false 0 0)
  | .fin n m e =>
    if m = 0 then fpPack f .rne (.inf n)
    else if n then fpPack f .rne .nan
    else
      let m' := if e % 2 = 0 then m else 2 * m
      let e' := if e % 2 = 0 then e else e - 1
      let k := fpPrec f + 3 + Nat.log2 m'
      let r := isqrt (2 ^ (2 * k) / m')
      fpRound f .rne false r (-(e' / 2) - k) (r * r * m' != 2 ^ (2 * k))

/-- All ones of a lane when b holds. -/
def lanesOnes (bits : Nat) (b : Bool) : Num := ⟨if b then 2 ^ bits - 1 else 0, {}⟩

/-- Lane i of an integer or fixed-point operation (R177 to R183): a is VA_i, b is VB_i, d is VD_i. -/
def intLane (op bits sh a b d : Nat) : Num :=
  let x := sext bits a
  let y := sext bits b
  let z := sext bits d
  match op with
  | 1 => ⟨a, {}⟩
  | 4 => ⟨(a + b) % 2 ^ bits, {}⟩
  | 5 => satInt bits (x + y)
  | 6 => ⟨twos bits (x - y), {}⟩
  | 7 => satInt bits (x - y)
  | 8 => satInt bits (-x)
  | 9 => satInt bits (x.natAbs : Int)
  | 10 => ⟨if x ≤ y then a else b, {}⟩
  | 11 => ⟨if x ≤ y then b else a, {}⟩
  | 12 => ⟨a &&& b, {}⟩
  | 13 => ⟨a ||| b, {}⟩
  | 14 => ⟨a ^^^ b, {}⟩
  | 15 => ⟨(a <<< sh) % 2 ^ bits, {}⟩
  | 16 => satInt bits (x * ((2 ^ sh : Nat) : Int))
  | 17 => ⟨twos bits (x / ((2 ^ sh : Nat) : Int)), {}⟩
  | 18 => satInt bits (rneShift x sh)
  | 19 => satInt bits (rneShift (x * y) sh)
  | 20 => satInt bits (rneShift (z * ((2 ^ sh : Nat) : Int) + x * y) sh)
  | 21 => if x = 0 then ⟨0x7FFFFFFF, { sat := 1 }⟩ else satInt bits (rneDiv 2147483648 x)
  | 22 => lanesOnes bits (a == b)
  | 23 => lanesOnes bits (decide (x < y))
  | 24 => ⟨if d != 0 then a else b, {}⟩
  | _ => ⟨d, {}⟩

/-- The counts of k input flushes (R121). -/
def flushes (k : Nat) : Cnt := { flush := k }

/-- Lane i of an FP32 operation (R184 to R186). -/
def fpLane (op sub a b d : Nat) : Num :=
  let (va, fa) := fpRead .fp32 a
  let (vb, fb) := fpRead .fp32 b
  let (vd, fd) := fpRead .fp32 d
  let pk := fun v => fpPack .fp32 .rne v
  let plus := fun (r : Num) k => Num.mk r.v (cntAdd r.c (flushes k))
  match op with
  | 32 => plus (pk (fadd va vb)) (fa + fb)
  | 33 => plus (pk (fadd va (fneg vb))) (fa + fb)
  | 34 => plus (pk (fmul va vb)) (fa + fb)
  | 35 => plus (pk (fadd (fmul va vb) vd)) (fa + fb + fd)
  | 36 => plus (pk (fminmax false va vb)) (fa + fb)
  | 37 => plus (pk (fminmax true va vb)) (fa + fb)
  | 38 => plus (pk (fabs va)) fa
  | 39 => plus (pk (fneg va)) fa
  | 40 => ⟨if feq va vb then 0xFFFFFFFF else 0, flushes (fa + fb)⟩
  | 41 => ⟨if flt va vb then 0xFFFFFFFF else 0, flushes (fa + fb)⟩
  | 42 => plus (fdivR .fp32 (.fin false 1 0) va) fa
  | 43 => plus (frsqrtR .fp32 va) fa
  | 44 =>
    if sub = 1 ∧ b % 256 = 255 then plus (pk .nan) fa
    else
      let k : Int := if sub = 0 then sext 32 b else ((b % 256 : Nat) : Int) - 127
      let v := match va with
        | .fin n m e => FVal.fin n m (e + k)
        | v => v
      plus (pk v) fa
  | _ => ⟨d, {}⟩

/-- What the vector unit writes: registers with their new values, the counts, and whether a result is a NaN. -/
structure VecOut where
  regs : List (Nat × W256)
  cnt : Cnt := {}
  produced : Bool := false
  deriving DecidableEq, Repr

/-- The reduction of VOP 25 or 45 over the active lanes of VA (R183). -/
def vecMaxR (fp : Bool) (bits n : Nat) (va : W256) (act : List Nat) : Option Num :=
  match act with
  | [] => none
  | i0 :: is =>
    if fp then
      let rd := fun i => fpRead .fp32 (regElem va n i)
      let fl := ((i0 :: is).map (fun i => (rd i).2)).foldl (· + ·) 0
      let v := is.foldl (fun m i => fminmax true m (rd i).1) (rd i0).1
      let r := fpPack .fp32 .rne v
      some ⟨r.v, cntAdd r.c (flushes fl)⟩
    else
      let m := is.foldl (fun m i => let x := sext bits (regElem va n i); if m < x then x else m) (sext bits (regElem va n i0))
      some ⟨twos bits m, {}⟩

/-- A lane-wise operation on a word's registers (R176): every VOP but NOP, CVT, GATHER and SCATTER. `mode` is unused by these. -/
def vecLanes (w : Nat) (rg : Nat → W256) (lim : Option Nat) : VecOut :=
  let op := wVop w
  let lw := wLw w
  let n := laneBytes lw
  let bits := 8 * n
  let a := rg (wVa w)
  let b := rg (wVb w)
  let d := rg (wVd w)
  let act := (List.range (laneCount lw)).filter (laneOn lim)
  let write := fun (f : Nat → Num) =>
    act.foldl (fun (o : W256 × Cnt) i => let r := f i; (setElem o.1 n i r.v, cntAdd o.2 r.c)) (d, ({} : Cnt))
  let out := if op = 2 then write (fun _ => ⟨regElem a n (wShift w), {}⟩)
    else if op = 25 ∨ op = 45 then
      match vecMaxR (op == 45) bits n a act with
      | none => (d, {})
      | some r => let o := write (fun _ => ⟨r.v, {}⟩)
                  -- one result element per active lane
                  (o.1, { r.c with nan := r.c.nan * act.length })
    else if op ≥ 32 then write (fun i => fpLane op (wVsub w) (regElem a n i) (regElem b n i) (regElem d n i))
    else write (fun i => intLane op bits (wShift w) (regElem a n i) (regElem b n i) (regElem d n i))
  { regs := [(wVd w, out.1)], cnt := out.2, produced := op ≥ 32 && out.2.nan != 0 }

/-- A CVT over registers (R135, R136, R139): `mode i` is the rounding of element i. -/
def vecCvt (w : Nat) (rg : Nat → W256) (lim : Option Nat) (mode : Nat → RMode) : VecOut :=
  match cvtFmt (wVsub w), cvtFmt (wVb w) with
  | some src, some dst =>
    let nb := 4 / 2 ^ (wLw w)
    let e := 32 / nb
    let sb := cvtWidth src / 8
    let db := cvtWidth dst / 8
    let act := (List.range e).filter (laneOn lim)
    let nd := if db > nb then db / nb else 1
    let start := (List.range nd).map (fun j => (wVd w + j, rg (wVd w + j)))
    let o := act.foldl (fun (o : List (Nat × W256) × Cnt) i =>
      let x := regElem (rg (wVa w + i / (32 / sb))) sb (i % (32 / sb))
      let r := cvtElem src dst (wShift w) (mode i) x
      let reg := wVd w + i / (32 / db)
      (o.1.map (fun p => if p.1 = reg then (p.1, setElem p.2 db (i % (32 / db)) r.v) else p), cntAdd o.2 r.c)) (start, {})
    { regs := o.1, cnt := o.2, produced := (match dst with | .fp _ => o.2.nan != 0 | _ => false) }
  | _, _ => { regs := [] }

/-- The active elements that a CVT converts (R246). -/
def cvtElems (w : Nat) (lim : Option Nat) : List Nat := (List.range (32 / (4 / 2 ^ (wLw w)))).filter (laneOn lim)

/-- (busy, latency) of a VEC operation in tile cycles: the unit is busy from I to I + busy − 1 and VD is written at I + latency
(R137, R187). -/
def vecTime (w : Nat) : Nat × Nat :=
  let op := wVop w
  let l := laneCount (wLw w)
  if op = 3 then
    match cvtFmt (wVsub w), cvtFmt (wVb w) with
    | some a, some b => let r := cvtRatio (cvtWidth a) (cvtWidth b)
                        (r, r + 1)
    | _, _ => (1, 2)
  else if (op = 19 ∨ op = 20) ∧ wLw w = 0 ∨ op = 42 ∨ op = 43 then ((l + 1) / 2, (l + 1) / 2 + 2)
  else if op = 21 then (l, l + 2)
  else (1, 2)

/-- The vector registers that a VEC operation reads (R96). -/
def vecReads (w : Nat) : List Nat :=
  let op := wVop w
  let seq := fun b n => (List.range n).map (fun j => b + j)
  if op = 0 then []
  else if op = 3 then
    match cvtFmt (wVsub w), cvtFmt (wVb w) with
    | some a, some b => seq (wVa w) (if cvtWidth a > cvtWidth b then cvtRatio (cvtWidth a) (cvtWidth b) else 1)
    | _, _ => []
  else if op = 26 ∨ op = 27 then
    let e := laneCount (wLw w) / (if wVsub w = 1 ∧ wLw w = 0 then 2 else 1)
    seq (wVa w) ((e + Config.vlen - 1) / Config.vlen) ++ (if op = 27 then [wVb w] else [])
  else
    let one := [1, 2, 8, 9, 15, 16, 17, 18, 21, 25, 38, 39, 42, 43, 45].contains op
    [wVa w] ++ (if one then [] else [wVb w]) ++ (if op = 20 ∨ op = 24 ∨ op = 35 then [wVd w] else [])

/-- The vector registers that a VEC operation writes. -/
def vecWrites (w : Nat) : List Nat :=
  let op := wVop w
  if op = 0 ∨ op = 27 then []
  else if op = 3 then
    match cvtFmt (wVsub w), cvtFmt (wVb w) with
    | some a, some b =>
      (List.range (if cvtWidth b > cvtWidth a then cvtRatio (cvtWidth a) (cvtWidth b) else 1)).map (fun j => wVd w + j)
    | _, _ => []
  else [wVd w]

/-! ## FP64 operations (R565) -/

/-- The result of an F64 operation other than NOP and GRP on operand encodings a, b, c. -/
def f64Result (op : Nat) (a b c : W64) : Num :=
  let (va, fa) := fpRead .fp64 a.toNat
  let (vb, fb) := fpRead .fp64 b.toNat
  let (vc, fc) := fpRead .fp64 c.toNat
  let plus := fun (r : Num) k => Num.mk r.v (cntAdd r.c (flushes k))
  let pk := fun v => fpPack .fp64 .rne v
  match op with
  | 1 => plus (pk (fadd (fmul va vb) vc)) (fa + fb + fc)
  | 2 => plus (pk (fadd va vb)) (fa + fb)
  | 3 => plus (pk (fadd va (fneg vb))) (fa + fb)
  | 4 => plus (pk (fmul va vb)) (fa + fb)
  | 5 => plus (fdivR .fp64 va vb) (fa + fb)
  | 6 => plus (fsqrtR .fp64 va) fa
  | 7 => plus (pk (fminmax false va vb)) (fa + fb)
  | 8 => plus (pk (fminmax true va vb)) (fa + fb)
  | 9 => ⟨if flt va vb then 0xFFFFFFFFFFFFFFFF else 0, flushes (fa + fb)⟩
  | _ => ⟨0, {}⟩

/-- (busy, latency) of an F64 operation (R32, R95). -/
def f64Time (op : Nat) : Nat × Nat :=
  match op with
  | 5 => (48, 48) | 6 => (56, 56) | _ => (4, 12)

end Sys2Proof.Machine
end

