-- ==== Sys2Proof/Machine/TileMem.lean ====
section
/-! DEFINITION. The tile's memory side: local reads and writes (R43 to R47, R81, R192, R194), packets (R89 to R91), counted
requests (R82, R193, R195) and their answers. -/

namespace Sys2Proof.Machine

/-- Vector register n. -/
def Tile.vreg (x : Tile) (n : Nat) : W256 := aget 0 x.vregs n
/-- The tile with vector register n written. -/
def Tile.setVreg (x : Tile) (n : Nat) (v : W256) : Tile := { x with vregs := aset 0 x.vregs n v }
/-- The tile with vector register n usable from cycle k (R95, R96). -/
def Tile.vregAt (x : Tile) (n k : Nat) : Tile := { x with vready := aset 0 x.vready n k }
/-- Generator n. -/
def Tile.gen (x : Tile) (n : Nat) : Gen := aget {} x.gens n
/-- The tile with generator n replaced. -/
def Tile.setGen (x : Tile) (n : Nat) (g : Gen) : Tile := { x with gens := aset {} x.gens n g }
/-- Counter n. -/
def Tile.counter (x : Tile) (n : Nat) : W32 := aget 0 x.cnts n
/-- The tile with counter n written. -/
def Tile.setCounter (x : Tile) (n : Nat) (v : W32) : Tile := { x with cnts := aset 0 x.cnts n v }

/-- Why a 16-byte local access is an address fault: the lane cause (R66, R83). -/
def localCause (a : W64) : Option Nat :=
  if a.toNat ≥ Config.lsBytes then some lcRange else if a.toNat % 16 ≠ 0 then some lcAlign else none

/-! ## Local writes (R45, R95) -/

/-- Local bytes to be written in cycle `k`. -/
def Tile.writeAt (x : Tile) (k : Nat) (bs : List (Nat × Byte)) : Tile :=
  { x with lsPend := x.lsPend ++ bs.map (fun p => (k, p.1, p.2)) }

/-- The writes of tile t due up to cycle k enter its local store. -/
def State.landWrites (s : State) (t k : Nat) : State :=
  let x := s.tile t
  let due := x.lsPend.filter (fun p => decide (p.1 ≤ k))
  if due.isEmpty then s
  else (s.setTile t { x with lsPend := x.lsPend.filter (fun p => !decide (p.1 ≤ k)) }).writeLs t (due.map (·.2))

/-! ## Local reads into vector registers (R81, R192, R198) -/

/-- A register with elements of `n` bytes set to zero: those that the parts name (R198). -/
def zeroParts (reg : W256) (ps : List (Nat × Nat × Nat)) : W256 := ps.foldl (fun r p => setElem r p.2.2 (p.2.1 / p.2.2) 0) reg

/-- The element mask of parts of width n. -/
def partMask (ps : List (Nat × Nat × Nat)) : Nat := ps.foldl (fun m p => m ||| 2 ^ (p.2.1 / p.2.2)) 0

/-- One pending read access of tile t: its parts enter the register. Elements whose word has a double-bit error are zero and fault, in a
non-indexed access all of them (R197, R198). -/
def State.makeRead (s : State) (t : Nat) (r : PRead) : State :=
  let (v, e0, e1, s) := s.lsRead128 t r.addr true
  let put := fun (reg : W256) (p : Nat × Nat × Nat) => setElem reg p.2.2 (p.2.1 / p.2.2) (nfld v (8 * p.1) (8 * p.2.2))
  let bad := if !e0 && !e1 then [] else if r.all then r.parts
    else r.parts.filter (fun p => (e0 && decide (p.1 < 8)) || (e1 && decide (p.1 + p.2.2 > 8)))
  let s := s.updTile t (fun x => x.setVreg r.vd (zeroParts (r.parts.foldl put (x.vreg r.vd)) bad))
  if bad.isEmpty then s else s.laneFault t r.word (partMask bad) lcLs

/-- Faulting elements become zero with the word's other results, not before (R95, R198). -/
def State.makeZero (s : State) (t : Nat) (z : Nat × Nat × List (Nat × Nat × Nat)) : State :=
  s.updTile t (fun x => x.setVreg z.2.1 (zeroParts (x.vreg z.2.1) z.2.2))

/-- The reads of tile t that are due in cycle k and granted are made, before the writes that land in the same cycle (R45). -/
def State.makeReads (s : State) (t k : Nat) : State :=
  let x := s.tile t
  let due := x.reads.filter (fun r => decide (r.at_ ≤ k))
  let zs := x.zeros.filter (fun z => decide (z.1 ≤ k))
  let s := s.setTile t { x with reads := x.reads.filter (fun r => !decide (r.at_ ≤ k)), zeros := x.zeros.filter (fun z => !decide (z.1 ≤ k)) }
  zs.foldl (fun s z => s.makeZero t z) (due.foldl (fun s r => s.makeRead t r) s)

/-- The write accesses of tile t due in cycle k are made: their bytes land in the cycle after (R95). -/
def State.makeWrites (s : State) (t k : Nat) : State :=
  let x := s.tile t
  let due := x.writes.filter (fun r => decide (r.at_ ≤ k))
  if due.isEmpty then s
  else s.setTile t (due.foldl (fun x r => x.writeAt (k + 1) r.bytes) { x with writes := x.writes.filter (fun r => !decide (r.at_ ≤ k)) })

/-! ## Packets (R89 to R91, R55) -/

/-- The circuit that the image assigns to tile t, if any (R53, R358). -/
def State.circuitOf (s : State) (t : Nat) : Option Config.MeshCircuit := s.cfg.active.meshCircuits.find? (fun c => c.tile == t)

/-- The access rule of R65, R66 and R297 for a write, atomic or reduce-add of a tile at a global address: the lane cause, if any. -/
def State.sendCause (s : State) (ga : W64) (op trigger cls : Nat) (t : Nat) : Option Nat :=
  let sp := gaSpace ga
  let off := gaOff ga
  if sp > 2 then some lcSpace
  else if sp = 1 ∧ op ≠ 0 then some lcSpace
  else if trigger ≠ 0 ∧ sp ≠ 1 then some lcSpace
  else if cls = 3 ∧ (s.circuitOf t).isNone then some lcSpace
  else if sp = 1 ∧ (off % Config.lsStride ≥ Config.lsBytes ∨ off / Config.lsStride ≥ Config.tiles) then some lcRange
  else if sp = 0 ∧ Config.stackBytes ≤ off then some lcRange
  else none

/-- Bytes that follow the control flit of an atomic or reduce-add packet, and its AOP, AW and RFMT (R345). -/
def pktParts (op : Nat) (flits : List Flit) : Nat × Nat × Nat × List Flit :=
  if op = 0 then (0, 0, 0, flits)
  else match flits with
    | c :: r => (nfld c.toNat 0 4, nfld c.toNat 4 2, nfld c.toNat 6 2, r)
    | [] => (0, 0, 0, [])

/-- The fabric packets of a mesh packet, at most 256 bytes each, in address order; only the last carries the trigger (R346). -/
def fabSplit (base : FabPkt) (ds ps trigger : Nat) : Nat → Nat → List Flit → List FabPkt
  | 0, _, _ => []
  | k + 1, off, fl =>
    let here := fl.take 16
    let rest := fl.drop 16
    let p := { base with addr := mkGa (gaSpace base.addr) (gaModule base.addr) off, payload := here,
                         trigger := if rest.isEmpty then trigger else 0 }
    if rest.isEmpty then [p] else p :: fabSplit base ds ps trigger k (off + 16 * here.length / ps * ds) rest

/-- The fabric operation of a tile's packet at an edge: of R55's OP, and of CLASS 3 for a write toward another module (R341, R355). -/
def edgeOp (op cls : Nat) (own : Bool) : FabOp :=
  if op = 1 then .read else if op = 3 then .atomic else if op = 4 then .reduceAdd else if cls = 3 ∧ !own then .circuitData else .write

/-- A tile's packet of KIND 1 or 2 has come to its edge (R51, R55): the memory and flag edges perform it, the fabric edge sends it on; a
request that the edge does not accept is answered with its cause (R342). `posted` is the requester of a packet that is not counted. -/
def State.atEdge (s : State) (p : MeshPkt) (posted : ReqSrc) (trigger : Nat) : State :=
  let (aop, aw, rfmt, data) := if p.op = 3 ∨ p.op = 4 then pktParts 1 p.payload else (0, 0, 0, p.payload)
  let own := decide (gaModule p.addr = s.moduleId)
  let fop := edgeOp p.op p.cls own
  if own then
    let sp := gaSpace p.addr
    let off := gaOff p.addr
    let len := match fop with | .read => 0 | .atomic => data.length | _ => 1
    let (ps, ds) := if p.op = 4 then rfmtSizes rfmt else (1, 1)
    let last := if fop = .write ∨ fop = .reduceAdd then off + 16 * (data.length - 1) / ps * ds else off
    let cause := match reqCause fop sp off len aw rfmt aop with | some c => some c | none => reqCause fop sp last len aw rfmt aop
    match cause, posted with
    | some c, .tile t tag => s.answer t tag [] (some c)
    | some c, .tilePosted t w => s.laneFault t w 0 (dropLane c)
    | some _, _ => s
    | none, src => s.memEdge { s.mkFab fop p.cls p.addr data with srcTile := p.src, aop := aop, aw := aw, rfmt := rfmt } src
  else
    let circuit := match s.circuitOf p.src with | some c => c.circuit | none => 0
    let base := { s.mkFab fop p.cls p.addr [] with circuit := if fop = .circuitData then circuit else 0, srcTile := p.src, aop := aop, aw := aw, rfmt := rfmt, tag := p.tag }
    let (ps, ds) := if p.op = 4 then rfmtSizes rfmt else (1, 1)
    (fabSplit base ds ps trigger (data.length + 1) (gaOff p.addr) data).foldl (fun s q => s.toEdge q posted) s

/-- Flits that tile t offers to its router's local port (R95, R96). -/
def State.offer (s : State) (t n : Nat) : State := s.updTile t (fun x => { x with inject := x.inject + n })

/-- A packet of tile t enters the mesh (R51, R55, R65, R90). `op` is PKT_OP, `flits` its payload with the control flit, and `mask` the lanes
of the access that closes it. An empty packet is sent only for its trigger. BEAT_LO is the beat in which the packet closes, and the flag
area is at the memory edge, KIND 1 (DESIGN CHOICE, log 116). -/
def State.sendPacket (s : State) (t : Nat) (w : WordId) (ga : W64) (cls op trigger : Nat) (flits : List Flit) (mask : Nat) : State :=
  let data := (pktParts op flits).2.2.2
  if data.isEmpty ∧ (op ≠ 0 ∨ trigger = 0) then s
  else match s.sendCause ga op trigger cls t with
  | some c => s.laneFault t w mask c
  | none =>
    let sp := gaSpace ga
    let off := gaOff ga
    let own := gaModule ga = s.moduleId
    let p : MeshPkt :=
      { kind := if !own then 2 else if sp = 1 then 0 else 1, dest := if own ∧ sp = 1 then off / Config.lsStride else 0, src := t
        trigger := trigger, lsAddr := if own ∧ sp = 1 then off % Config.lsStride / 16 else 0, cls := cls
        op := if op = 1 then 3 else if op = 2 then 4 else 0, beatLo := s.beat.toNat % 4096
        addr := if own ∧ sp = 1 then 0 else ga, tag := 0, payload := flits, word := some w
        way := hopsOf (if own ∧ sp = 1 then wayTile t (off / Config.lsStride) else wayEdge t (edgeRouter t sp off own)) }
    { s with mesh := s.mesh ++ [p] }

/-- Generator n's packet closes with a trigger (R89, R90); `mask` names the lanes of the access that closes it. -/
def State.closePacket (s : State) (t n trigger : Nat) (w : WordId) (mask : Nat := 0) : State :=
  let g := (s.tile t).gen n
  match g.pkt with
  | none => s
  | some p =>
    let s := s.updTile t (fun x => x.setGen n { x.gen n with pkt := none })
    let fl := match p.ctrl with | some c => c :: p.flits | none => p.flits
    s.sendPacket t w p.addr p.cls p.op trigger fl mask

/-- Payload flits of a packet, its control flit included. -/
def OpenPkt.len (p : OpenPkt) : Nat := p.flits.length + (match p.ctrl with | some _ => 1 | none => 0)

/-- The address that follows the payload of an open packet (R90, R344). -/
def OpenPkt.nextAddr (p : OpenPkt) : W64 :=
  let (ps, ds) := match p.ctrl with
    | some c => if p.op = 2 then rfmtSizes (nfld c.toNat 6 2) else (1, 1)
    | none => (1, 1)
  p.addr + BitVec.ofNat 64 (16 * p.flits.length / ps * ds)

/-- An open packet with one more payload flit; the first flit of an atomic or reduce-add is its control flit (R345). -/
def OpenPkt.push (p : OpenPkt) (f : Flit) : OpenPkt :=
  if p.op ≠ 0 ∧ p.ctrl = none then { p with ctrl := some f } else { p with flits := p.flits ++ [f] }

/-- One payload flit of a WRITE of generator n, whose access moves the lanes of `mask` (R89, R90, R345). With no packet open the flit is
sent alone from `addr`. A flit whose address R66 does not allow faults and is not made (R198). `close` is the PKT_TRIGGER of a WRITE
whose last flit this is and that names PKT_CLOSE; a packet that reaches 255 flits otherwise closes with TRIGGER 0 and the next one
opens. -/
def State.pktFlit (s : State) (t n : Nat) (w : WordId) (addr : W64) (f : Flit) (mask : Nat) (close : Option Nat) : State :=
  match ((s.tile t).gen n).pkt with
  | none => (s.sendPacket t w addr 1 0 0 [f] mask).offer t (if gaSpace addr = 1 then 2 else 3)
  | some p =>
    let s := match s.sendCause (if p.op ≠ 0 ∧ p.ctrl = none then p.addr else p.nextAddr) p.op 0 p.cls t with
      | some c => s.laneFault t w mask c
      | none => (s.offer t 1).updTile t (fun x => x.setGen n { x.gen n with pkt := some (p.push f) })
    match close, ((s.tile t).gen n).pkt with
    | some trg, _ => s.closePacket t n trg w mask
    | none, some p =>
      if p.len < 255 then s
      else (s.closePacket t n 0 w mask).updTile t (fun x =>
        x.setGen n { x.gen n with pkt := some { p with addr := p.nextAddr, flits := [], ctrl := if p.op = 2 then p.ctrl else none } })
    | none, none => s

/-- A packet opens on generator n at its current address; one that it holds open closes with TRIGGER 0 (R89). -/
def State.openPacket (s : State) (t n : Nat) (w : WordId) (addr : W64) (cls op : Nat) : State :=
  let s := (s.closePacket t n 0 w).offer t (if gaModule addr = s.moduleId ∧ gaSpace addr = 1 then 1 else 2)
  s.updTile t (fun x => x.setGen n { x.gen n with pkt := some { addr := addr, cls := cls, op := op, flits := [], ctrl := none } })

/-! ## Counted requests (R82) -/

/-- The access rule of R65, R66 and R297 for a read of 64 bytes at a line-aligned global address: the lane cause, if any. -/
def State.readCause (s : State) (t : Nat) (ga : W64) : Option Nat :=
  let sp := gaSpace ga
  let off := gaOff ga
  let own := gaModule ga = s.moduleId
  if sp > 3 then some lcSpace
  else if sp = 3 then
    let blk := 0x40000000 + t * 0x100
    if own ∧ ((off / 64 * 64 < 0x100) ∨ (blk ≤ off ∧ off < blk + 0x100)) then none else some lcSpace
  else if sp = 1 ∧ (off % Config.lsStride ≥ Config.lsBytes ∨ off / Config.lsStride ≥ Config.tiles) then some lcRange
  else if sp = 0 ∧ Config.stackBytes ≤ off then some lcRange
  else none

/-- A free request tag of a tile: the model's own numbering of its counted requests. -/
def Tile.freeTag (x : Tile) : Nat :=
  ((List.range 9).find? (fun i => !x.reqs.any (fun r => r.tag == i))).getD 8

/-- The eight registers of the 64 bytes at a space-3 offset that a tile may read (R65, R568), given by `reg`. -/
def regLine (reg : Nat → W64) (off : Nat) : Line :=
  bytesLine ((List.range 8).flatMap (fun i => leBytes 8 (reg (off + 8 * i)).toNat))

/-- The FEAT_ registers of R534. -/
def featReg (off : Nat) : W64 :=
  match off with
  | 0x0 => 0x1010501   -- FEAT_PART
  | 0x8 => 0x8   -- VLEN
  | 0x10 => 0x1FF   -- CAPS
  | 0x18 => 0x84004000400   -- ARRAY
  | 0x20 => 0x10010001000030   -- TILE
  | 0x28 => 0xc06000360   -- MEM
  | 0x30 => 0x80100602000   -- HOST
  | 0x38 => 0x20000100000   -- LIMITS
  | 0x40 => 0x104001001f27   -- FABRIC
  | 0x48 => 0xffff004000c80578   -- CLOCK
  | 0x50 => 0x800400003ff0200   -- LATH
  | _ => 0

/-- TILE_STATUS.STATE (R69). -/
def tileStCode : TileSt → Nat
  | .halted => 0 | .run => 1 | .waitBeat => 2 | .waitTrigger => 3 | .stall => 4 | .fault => 5 | .waitEither => 6 | .waitCounter => 7

/-- The largest pre-shift among the fill bank's entries (R169). -/
def Tile.preshift (x : Tile) : Nat :=
  (if x.fill = 0 then x.accA else x.accB).foldl (fun m e => if m < e.2.pre then e.2.pre else m) 0

/-- The registers of tile t (R68 to R75) by their offset in its block. -/
def State.tileReg (s : State) (t off : Nat) : W64 :=
  let x := s.tile t
  let set := fun n => x.cset n
  let pair := fun (a b : Nat) => BitVec.ofNat 64 (a + b * 2 ^ 32)
  match off with
  | 0x00 => BitVec.ofNat 64 (tileStCode x.st + x.bank * 8 + x.cw * 16 + x.fill * 2 ^ 12 + (if x.drain.isSome then 1 else 0) * 2 ^ 13
              + (s.region (regionOf t)).st * 2 ^ 14 + x.preshift * 2 ^ 16)
  | 0x10 => BitVec.ofNat 64 ((set 0).tag + (set 1).tag * 2 ^ 16 + (set 2).tag * 2 ^ 32 + (set 3).tag * 2 ^ 48)
  | 0x18 => pair (set 0).sat (set 0).flush
  | 0x20 => pair (set 0).replay (set 0).nan
  | 0x28 => pair (set 1).sat (set 1).flush
  | 0x30 => pair (set 1).replay (set 1).nan
  | 0x38 => pair (set 2).sat (set 2).flush
  | 0x40 => pair (set 2).replay (set 2).nan
  | 0x48 => pair (set 3).sat (set 3).flush
  | 0x50 => pair (set 3).replay (set 3).nan
  | 0x58 => BitVec.ofNat 64 (x.eccCorr + (if x.eccUnc then 1 else 0) * 2 ^ 16 + (if x.eccPar then 1 else 0) * 2 ^ 17
              + (if x.eccRes then 1 else 0) * 2 ^ 18 + x.eccWord * 2 ^ 19)
  | 0x60 => pair x.bankStalls x.unitStalls
  | 0x68 => BitVec.ofNat 64 (x.nanCw + x.nanBank * 2 ^ 8 + (if x.nanValid then 1 else 0) * 2 ^ 9 + x.nanBeat.toNat * 2 ^ 32)
  | _ => 0

/-- The registers that tile t itself may read (R65). -/
def State.ownReg (s : State) (t off : Nat) : W64 :=
  if off < 0x100 then featReg off else s.tileReg t (off % 0x100)

/-- A counted request leaves tile t (R51, R82): it becomes outstanding and enters the mesh towards the tile or the edge of its address. The
flag area is at the memory edge, KIND 1, and the registers at the fabric edge, KIND 2 (DESIGN CHOICE, log 116). -/
def State.issueReq (s : State) (t : Nat) (p : PendReq) : State :=
  let x := s.tile t
  let tag := x.freeTag
  let s := s.setTile t { x with reqs := x.reqs ++ [{ tag := tag, ag := p.ag, kind := p.kind, word := p.word, ga := p.ga, cls := p.cls }] }
  let sp := gaSpace p.ga
  let off := gaOff p.ga
  let own := gaModule p.ga = s.moduleId
  let payload := match p.store with
    | none => []
    | some (aw, v) => [BitVec.ofNat 128 (aw * 16), BitVec.ofNat 128 v.toNat]
  let m : MeshPkt :=
    { kind := if !own then 2 else if sp = 1 then 0 else if sp = 3 then 2 else 1, dest := if own ∧ sp = 1 then off / Config.lsStride else 0
      src := t, trigger := 0, lsAddr := if own ∧ sp = 1 then off % Config.lsStride / 16 else 0, cls := p.cls
      op := if p.store.isNone then 1 else 3, beatLo := s.beat.toNat % 4096, addr := if own ∧ sp = 1 then 0 else p.ga, tag := tag
      payload := payload
      way := hopsOf (if own ∧ sp = 1 then wayTile t (off / Config.lsStride) else wayEdge t (edgeRouter t sp off own)) }
  let s := s.offer t (payload.length + (if m.kind = 0 then 1 else 2))
  { s with mesh := s.mesh ++ [m] }

/-- At most one request of a gather or scatter leaves tile t in a cycle, as the count allows (R82, R193, R195). -/
def State.issueNext (s : State) (t : Nat) : State :=
  let x := s.tile t
  match x.sendQ with
  | [] => s
  | p :: r => if x.reqs.length < 8 then (s.setTile t { x with sendQ := r }).issueReq t p else s

end Sys2Proof.Machine
end

