-- ==== Sys2Proof/Machine/TileMac.lean ====
section
/-! DEFINITION. The MAC array, the accumulator banks, k-loops and drains (R35 to R39, R85, R86, R108 to R111, R142 to R145, R151 to
R171), and the FP64 groups (R154, R155, R565). -/

namespace Sys2Proof.Machine

/-! ## Operand queues (R84, R85) -/

/-- Bits of a queue that are present in cycle k. -/
def OpQueue.avail (q : OpQueue) (k : Nat) : Nat := 128 * (q.ents.takeWhile (fun e => decide (e.2 ≤ k))).length - q.used

/-- n bits from a queue, lowest first. -/
def qTake : Nat → OpQueue → Nat → Nat × OpQueue
  | 0, q, _ => (0, q)
  | f + 1, q, n =>
    match q.ents with
    | [] => (0, q)
    | (e, _) :: r =>
      let k := if n ≤ 128 - q.used then n else 128 - q.used
      let v := nfld e.toNat q.used k
      let q' : OpQueue := if q.used + k = 128 then { ents := r, used := 0 } else { q with used := q.used + k }
      if n = k then (v, q') else let (v2, q2) := qTake f q' (n - k)
                                 (v + v2 * 2 ^ k, q2)

/-! ## Accumulator banks -/

/-- Entry e of bank b (0 is A). -/
def Tile.acc (x : Tile) (b e : Nat) : AccE := aget {} (if b = 0 then x.accA else x.accB) e
/-- The tile with entry e of bank b written. -/
def Tile.setAcc (x : Tile) (b e : Nat) (v : AccE) : Tile :=
  if b = 0 then { x with accA := aset {} x.accA e v } else { x with accB := aset {} x.accB e v }
/-- The FP64 pair i of bank b, low word in entry 2i (R39). -/
def Tile.pair (x : Tile) (b i : Nat) : W64 := (x.acc b (2 * i + 1)).bits ++ (x.acc b (2 * i)).bits
/-- The value that pair i of the fill bank will have once every FP64 result under way to it is written (R156). -/
def Tile.pairNext (x : Tile) (i : Nat) : W64 :=
  ((x.pend64.filter (fun p => p.2.1 == i)).getLast?.map (·.2.2)).getD (x.pair x.fill i)
/-- The tile with FP64 pair i of bank b written. -/
def Tile.setPair (x : Tile) (b i : Nat) (v : W64) : Tile :=
  let put := fun (x : Tile) e (w : W32) => x.setAcc b e { x.acc b e with bits := w, ovf := none, held := false, int := false }
  put (put x (2 * i) (BitVec.ofNat 32 v.toNat)) (2 * i + 1) (BitVec.ofNat 32 (v.toNat / 2 ^ 32))

/-- FP64 results due up to cycle k enter their pairs of the fill bank (R565). -/
def Tile.landPairs (x : Tile) (k : Nat) : Tile :=
  let due := x.pend64.filter (fun p => decide (p.1 ≤ k))
  { due.foldl (fun x p => x.setPair x.fill p.2.1 p.2.2) x with pend64 := x.pend64.filter (fun p => !decide (p.1 ≤ k)) }
/-- An FP64 result still under way to the pair of entry e of the fill bank enters it, for a DOT's group that takes it as its accumulator term
(R156). A DST 2 result counts as such a group (DESIGN CHOICE, log 116). -/
def Tile.landEntry (x : Tile) (e : Nat) : Tile :=
  { (x.pend64.filter (fun p => p.2.1 == e / 2)).foldl (fun x p => x.setPair x.fill p.2.1 p.2.2) x with
    pend64 := x.pend64.filter (fun p => p.2.1 != e / 2) }
/-- Entry e of the fill bank has a DOT's result under way, written in cycle k (R95). -/
def Tile.macDue (x : Tile) (e k : Nat) : Tile := { x with macAt := aset 0 x.macAt e (max k (aget 0 x.macAt e)) }
/-- Whether DOTs to the entries of pair i of the fill bank are in flight in cycle k (R96). -/
def Tile.pairBusy (x : Tile) (i k : Nat) : Bool :=
  decide (aget 0 x.accReady i > k) || decide (aget 0 x.macAt (2 * i) > k) || decide (aget 0 x.macAt (2 * i + 1) > k)
/-- A result whose residue check fails is written in cycle k (R49): `bad` is its word's address and bank. -/
def Tile.fails (x : Tile) (k : Nat) (bad : Option (Nat × Nat)) : Tile :=
  match bad with
  | some b => { x with resDue := x.resDue ++ [(k, b.1, b.2)] }
  | none => x

/-- The entry that a group takes and the entry pointer after it (ENTRY_IDX, R85); c1 is counter C1 before the word. -/
def entryOf (w ep c1 : Nat) : Nat × Nat :=
  match wEntryIdx w with
  | 1 => (ep, (ep + 1) % 256)
  | 2 => (wAcc w, (wAcc w + 1) % 256)
  | 3 => ((wAcc w + c1) % 256, ep)
  | _ => (wAcc w, ep)

/-- The floating-point format of a MAC FMT code. -/
def macFmt : Nat → FpFmt
  | 1 => .e4m3 | 2 => .e5m2 | 4 => .bf16 | 5 => .fp16 | 7 => .e4m3 | 8 => .e5m2 | _ => .fp32

/-- Element width in bits of a MAC FMT code. -/
def macBits : Nat → Nat
  | 4 => 16 | 5 => 16 | 6 => 32 | _ => 8

/-- The elements of a consumed operand. -/
def macElems (fmt bits v : Nat) : List Nat := tab (bits / macBits fmt) (fun i => nfld v (macBits fmt * i) (macBits fmt))

/-- The terms of a group of `full` products: those that are missing are +0 (R154). -/
def shortTerms (full : Nat) (prods : List FVal) : List FVal := prods ++ List.replicate (full - prods.length) (FVal.fin false 0 0)

/-- A group's exact products rounded into entry e of the fill bank, which is written in cycle k (R157, R158, R164); counts go to set n. -/
def State.roundGroup (s : State) (t n e : Nat) (clr : Bool) (prods : List FVal) (fbits k : Nat) (bad : Option (Nat × Nat)) : State :=
  let x := (s.tile t).landEntry e
  let a := x.acc x.fill e
  let (v, fl) := if clr then (FVal.fin false 0 0, 0) else fpRead .fp32 a.bits.toNat
  let r := groupSum (v :: prods) fbits .fp32
  let y := x.setAcc x.fill e { a with bits := BitVec.ofNat 32 r.v, ovf := none, held := false, int := false }
  let s := s.setTile t ((y.macDue e k).fails k bad)
  s.tally t n (cntAdd r.c (flushes fl)) true

/-- The open 16-bit group is rounded, its entry written in cycle k (R153, R154). -/
def State.close16 (s : State) (t n k : Nat) : State :=
  let x := s.tile t
  match x.g16 with
  | none => s
  | some g =>
    let f := macFmt g.fmt
    let s := s.setTile t { x with g16 := none }
    s.roundGroup t n g.entry g.clr (shortTerms 16 (g.prods.map (fun p => fmul (fpVal f p.1) (fpVal f p.2)))) 26 k g.bad

/-- The open FP64 group is rounded into its pair of the fill bank, written in the later of cycle c and the delivery of its last product
(R154 to R156, R565); counts go to set n. -/
def State.close64 (s : State) (t n c : Nat) : State :=
  let x := s.tile t
  match x.g64 with
  | none => s
  | some g =>
    let (v, fl) := if g.clr then (FVal.fin false 0 0, 0) else fpRead .fp64 (x.pairNext g.pair).toNat
    let prods := g.prods.map (fun p => fmul (fpVal .fp64 p.1.toNat) (fpVal .fp64 p.2.toNat))
    let r := groupSum (v :: shortTerms 4 prods) 108 .fp64
    let k := max c g.ready
    let x := { x with pend64 := x.pend64 ++ [(k, g.pair, BitVec.ofNat 64 r.v)], g64 := none, accReady := aset 0 x.accReady g.pair k }
    (s.setTile t (x.fails k g.bad)).tally t n (cntAdd r.c (flushes fl)) true

/-- Every open group of tile t closes short in cycle c (R154); counts go to set n. -/
def State.closeAt (s : State) (t n c : Nat) : State := (s.close16 t n c).close64 t n c

/-- Every open group of tile t closes short now (R154); counts go to set n. -/
def State.closeShort (s : State) (t n : Nat) : State := s.closeAt t n (s.tile t).tc

/-- The input flushes of a list of encodings (R121). -/
def flushCount (f : FpFmt) (xs : List Nat) : Nat := xs.foldl (fun k x => k + (fpRead f x).2) 0

/-- An INT8 group added to an entry (R166, R167). In a k-loop neither an overflow bit nor a held value yields to ACC_CLR before the pass
ends; outside one a group with ACC_CLR begins the entry anew (log 110). -/
def int8Acc (a : AccE) (clr inLoop : Bool) (xs ys : List Nat) : AccE × Nat :=
  let g : Int := (xs.zip ys).foldl (fun k p => k + sext 8 p.1 * sext 8 p.2) 0
  if a.held && (inLoop || !clr) then (a, 0)
  else
    let base : Int := if clr then 0 else match a.ovf with
      | some v => v
      | none => sext 32 a.bits.toNat
    let v := base + rneShift g a.pre
    let bits : W32 := BitVec.ofNat 32 (twos 32 v)
    if a.ovf.isSome && (inLoop || !clr) then ({ a with bits := bits, ovf := some v, int := true }, 0)
    else if intMin 32 ≤ v ∧ v ≤ intMax 32 then ({ a with bits := bits, ovf := none, held := false, int := true }, 0)
    else if inLoop && decide (a.pre < 12) then ({ a with bits := bits, ovf := some v, held := false, int := true }, 0)
    else
      let e := if v < 0 then intMin 32 else intMax 32
      ({ a with bits := BitVec.ofNat 32 (twos 32 e), ovf := none, held := true, int := true }, 1)

/-- A DOT (R152, R153, R157, R163, R166). c1 is counter C1 before the word; `bad` names the word where its result fails its residue
check (R49). -/
def State.dot (s : State) (t w c1 : Nat) (bad : Option (Nat × Nat)) : State :=
  match famOf (wFmtX w) (wFmtY w) with
  | none => s
  | some fam =>
    let n := wCset w
    let x := s.tile t
    let s := match x.g16 with
      | some g => if g.fmt = wFmtX w ∧ (fam = Fam.bf16 ∨ fam = Fam.fp16) then s else s.close16 t n x.tc
      | none => s
    let x := s.tile t
    let k := famBits fam
    let (vx, qx) := qTake 3 x.qx k
    let (vy, qy) := qTake 3 x.qy k
    let xs := macElems (wFmtX w) k vx
    let ys := macElems (wFmtY w) k vy
    let x := { x with qx := qx, qy := qy }
    let at_ := x.tc + 4
    let fl := if fam = Fam.int8 ∨ fam = Fam.bsInt8 then 0
      else flushCount (macFmt (wFmtX w)) xs + flushCount (macFmt (wFmtY w)) ys
    let s := (s.setTile t x).tally t n (flushes fl) false
    let x := s.tile t
    match fam with
    | .int8 =>
      let (e, ep) := entryOf w x.ep c1
      let x := x.landEntry e
      let (a, sat) := int8Acc (x.acc x.fill e) (wAccClr w) x.kloop.isSome xs ys
      let y := { x.setAcc x.fill e a with ep := ep, macReady := max x.macReady at_ }
      (s.setTile t ((y.macDue e at_).fails at_ bad)).tally t n { sat := sat } false
    | .bf16 | .fp16 =>
      match x.g16 with
      | some g =>
        let g := { g with prods := g.prods ++ xs.zip ys, dots := g.dots + 1, cset := n, bad := g.bad <|> bad }
        let s := s.setTile t { x with g16 := some g, macReady := max x.macReady at_ }
        if g.dots = 4 then s.close16 t n at_ else s
      | none =>
        let (e, ep) := entryOf w x.ep c1
        s.setTile t { x with ep := ep, macReady := max x.macReady at_, g16 := some ⟨wFmtX w, e, wAccClr w, xs.zip ys, 1, n, bad⟩ }
    | .bsFp8 | .bsInt8 =>
      let (e, ep) := entryOf w x.ep c1
      let g : BlkGroup := ⟨wFmtX w, wFmtY w, e, wAccClr w, xs.zip ys, bad, n⟩
      let gs := x.blkGroups ++ [g]
      let pos := x.blkX + 1
      if pos < blkEntries (wBlk w) then
        s.setTile t { x with ep := ep, blkX := pos, blkY := pos, blkSize := wBlk w, blkGroups := gs }
      else
        let (sx, qx) := qTake 3 x.qx 128
        let (sy, qy) := qTake 3 x.qy 128
        let s := s.setTile t { x with ep := ep, qx := qx, qy := qy, blkX := 0, blkY := 0, blkGroups := []
                                      macReady := max x.macReady (at_ + gs.length - 1) }
        let el := fun f => if f = 7 then BlkElem.e4m3 else if f = 8 then .e5m2 else .int8
        gs.zipIdx.foldl (fun s (g, j) =>
          let ps := g.prods.map (fun p => fmul (blkRead (el g.fmtX) (sx % 256) p.1).1 (blkRead (el g.fmtY) (sy % 256) p.2).1)
          s.roundGroup t g.cset g.entry g.clr ps 26 (at_ + j) g.bad) s
    | _ =>
      let (e, ep) := entryOf w x.ep c1
      let ps := (xs.zip ys).map (fun p => fmul (fpVal (macFmt (wFmtX w)) p.1) (fpVal (macFmt (wFmtY w)) p.2))
      let s := s.setTile t { x with ep := ep, macReady := max x.macReady at_ }
      s.roundGroup t n e (wAccClr w) ps (if fam = Fam.fp32 then 50 else 26) at_ bad

/-! ## Bank operations (R85) -/

/-- SWAP: fill and drain exchange roles, the new fill bank is +0 with pre-shift 0, EP is 0 (R85, R166). FP64 results still under way to
the bank that was filling enter it before it exchanges its role, in the tc of the SWAP (DESIGN CHOICE, log 111: R565 does not say
which bank takes them). -/
def Tile.swap (x : Tile) : Tile :=
  let x := x.pend64.foldl (fun x p => x.setPair x.fill p.2.1 p.2.2) x
  let x := { x with fill := 1 - x.fill, ep := 0, accReady := [], macAt := [], pend64 := [] }
  if x.fill = 0 then { x with accA := [] } else { x with accB := [] }

/-- The step number that a LAUNCH's STEP names: all ones is the slice's present step (R457). -/
def State.stepNo (s : State) (v : W64) : W64 := if v = BitVec.allOnes 64 then s.slice.step else v

/-- The step number in which a conversion of tile t runs (R244): that of its launch. -/
def State.tileStep (s : State) (t : Nat) : W64 :=
  match (s.tile t).slot with
  | some k => match (s.slot k).launch with
    | some l => s.stepNo l.step
    | none => s.slice.step
  | none => s.slice.step

/-- The SR context of the active bank (R246). -/
def Tile.sr (x : Tile) : SRCtx := if x.bank = 0 then x.cs0.sr else x.cs1.sr

/-- The rounding of the k-th element that a word converts: the draw of element counter value `ctr` + k when `on` (R245, R246). -/
def State.roundMode (s : State) (t : Nat) (on : Bool) (ctr : W32) (k : Nat) : RMode :=
  if on then
    let c := (s.tile t).sr
    .sr (srDraw s.train.seed (s.tileStep t) c.tensor c.purpose (ctr + BitVec.ofNat 32 k))
  else .rne

/-- The value that an accumulator entry denotes, with its input flush (R142, R169). -/
def accVal (a : AccE) : FVal × Nat :=
  if a.int then
    let v := sext 32 a.bits.toNat
    (if v = 0 then .fin false 0 0 else .fin (decide (v < 0)) v.natAbs a.pre, 0)
  else fpRead .fp32 a.bits.toNat

/-- One drained value in an unscaled DRAIN_FMT (R142). -/
def drainElem (fmt : Nat) (md : RMode) (v : FVal) : Num :=
  match fmt with
  | 0 => fpPack .fp32 md v | 1 => fpPack .bf16 md v | 2 => fpPack .fp16 md v | 3 => fpPack .e4m3 md v | 4 => fpPack .e5m2 md v
  | 8 => toFix md 32 0 v | 9 => toFix md 16 0 v | 10 => toFix md 8 0 v | _ => fpPack .fp64 md v

/-- Bytes of one drained value. -/
def drainBytes (fmt : Nat) : Nat :=
  match fmt with
  | 0 => 4 | 1 => 2 | 2 => 2 | 8 => 4 | 9 => 2 | 11 => 8 | _ => 1

/-- The element format of a block-scaled DRAIN_FMT. -/
def drainElemFmt (fmt : Nat) : Option BlkElem :=
  match fmt with
  | 5 => some .e4m3 | 6 => some .e5m2 | 7 => some .int8 | _ => none

/-- The values of the drain bank, 256 entries or 128 pairs. -/
def Tile.drainVals (x : Tile) (fmt : Nat) : List (FVal × Nat) :=
  let b := 1 - x.fill
  if fmt = 11 then tab 128 (fun i => fpRead .fp64 (x.pair b i).toNat) else tab 256 (fun i => accVal (x.acc b i))

/-- The 128-bit write of elements of nb bytes, each with its counts, `gap` tc after the write before it. A NaN among them is a produced one
where `fp`. -/
def drainWr (gap nb : Nat) (fp : Bool) (es : List Num) : DrainWr :=
  let cnt := es.foldl (fun k r => cntAdd k r.c) {}
  { gap := gap, flit := bytesFlit (es.flatMap (fun e => leBytes nb e.v)), cnt := cnt, nan := fp && cnt.nan != 0 }

/-- The writes of a drain in turn (R37, R142 to R145): 8 entries are read a tc, so 16 elements of one byte take two, and a block's scale
record follows its last element write by one. Each write counts the conversions of its own elements. -/
def drainOut (fmt blk : Nat) (sr : Bool) (vals : List (FVal × Nat)) (mode : Nat → RMode) : List DrainWr :=
  let plus := fun (p : Num × Nat) => Num.mk p.1.v (cntAdd p.1.c (flushes p.2))
  match drainElemFmt fmt with
  | some el =>
    (chunks (16 * blkEntries blk) 32 vals.zipIdx).flatMap (fun c =>
      let (es, scale, flags) := trowelBlock el sr (c.map (·.1.1)) (c.map (fun p => mode p.2))
      (chunks 16 (blkEntries blk) ((es.zip (c.map (·.1.2))).map plus)).map (drainWr 2 1 true)
        ++ [{ gap := 1, flit := bytesFlit [BitVec.ofNat 8 scale, BitVec.ofNat 8 flags] }])
  | none =>
    let nb := drainBytes fmt
    let rs := vals.zipIdx.map (fun p => plus (drainElem fmt (mode p.2) p.1.1, p.1.2))
    (chunks (16 / nb) 128 rs).map (drainWr (if nb = 1 then 2 else 1) nb (!(fmt == 8 || fmt == 9 || fmt == 10)))

/-- The generator of a word that names WRITE on port DRAIN (R86). -/
def drainGen (w : Nat) : Option Nat := (List.range 4).find? (fun n => wAgOp w n == 2 && wAgPort w n == 4)

/-- DRAIN by a word of identity `id`: its writes begin in the cycle after, each with the conversions that it completes (R37, R86, R142, R246).
The drain bank does not change while it drains. -/
def State.startDrain (s : State) (t w : Nat) (id : WordId) : State :=
  match drainGen w with
  | none => s
  | some g =>
    let x := s.tile t
    let vals := x.drainVals (wDrainFmt w)
    let out := drainOut (wDrainFmt w) (wBlk w) (wSr w) vals (s.roundMode t (wSr w) x.srCtr)
    s.setTile t { x with
      drain := some { gen := g, lanes := laneCount (wLw w), out := out, word := id, cset := wCset w
                      next := x.tc + ((out.map (·.gap)).headD 1)
                      close := if wPktClose w ∧ wPktAg w = g then some (wPktTrig w) else none }
      srCtr := if wSr w then x.srCtr + BitVec.ofNat 32 vals.length else x.srCtr }

/-- The next write of the running drain: local, landing in the cycle after, or as a payload flit (R86), its conversions counted. After the last one its packet
closes where its word named PKT_CLOSE, and the generator is released. Faults and errors are the starting word's (R199). -/
def State.drainWrite (s : State) (t : Nat) : State :=
  let x := s.tile t
  match x.drain with
  | none => s
  | some d =>
    match d.out with
    | [] => s.setTile t { x with drain := none }
    | o :: r =>
      let g := x.gen d.gen
      let a := agAddr g d.lanes
      let s := (s.setTile t { x with
        drain := if r.isEmpty then none else some { d with out := r, next := x.tc + ((r.map (·.gap)).headD 1) } }).tallyAt t d.cset d.word o.cnt o.nan
      let s := if dGl g.desc then s.pktFlit t d.gen d.word a o.flit 0 (if r.isEmpty then d.close else none)
        else match localCause a with
          | some c => s.laneFault t d.word 0 c
          | none => s.updTile t (fun x => x.writeAt (x.tc + 1) ((flitBytes o.flit).zipIdx.map (fun p => (a.toNat + p.2, p.1))))
      s.updTile t (fun x => x.setGen d.gen (agStep (x.gen d.gen)))

/-! ## k-loops (R108 to R111, R168, R170) -/

/-- K_BEGIN latches the loop's starting state, of the tile as it stood before the word's fields act (R108). One that acts inside an open
k-loop latches anew, and a K_END outside a k-loop only closes open groups (DESIGN CHOICE, log 116). -/
def Tile.kLatch (x : Tile) (before : Tile) : Tile :=
  let owned := match before.drain with | some d => fun n => n == d.gen | none => fun _ => false
  { x with kloop := some { addr := before.cw, gens := ((List.range 4).filter (fun n => !owned n)).map (fun n => (n, before.gen n)),
                           cnts := before.cnts, cmps := before.cmps, ep := before.ep } }

/-- The fill bank of a tile as a map. -/
def Tile.fillBank (x : Tile) : Assoc AccE := if x.fill = 0 then x.accA else x.accB
/-- The tile with its fill bank replaced. -/
def Tile.setFillBank (x : Tile) (m : Assoc AccE) : Tile := if x.fill = 0 then { x with accA := m } else { x with accB := m }

/-- K_END (R109, R111, R168): with an overflow bit set, the pre-shifts rise, the fill bank becomes +0, the queues empty and the
latched state returns; the answer says whether the loop replays. The FP64 operand buffers, FP64 results under way to pairs and the
bindings of COUNT_REPLY are not among it and stay (DESIGN CHOICE, log 116). Without one the pass ends, and no entry holds its saturated value any
longer (R167). -/
def Tile.kEnd (x : Tile) : Tile × Bool :=
  match x.kloop with
  | none => (x, false)
  | some k =>
    let bank := x.fillBank
    if bank.all (fun e => e.2.ovf.isNone) then
      ({ x.setFillBank (bank.map (fun e => (e.1, { e.2 with held := false }))) with kloop := none }, false)
    else
      let zeroed := bank.foldl (fun m (e : Nat × AccE) =>
        aset {} m e.1 { bits := 0, pre := if e.2.ovf.isSome then e.2.pre + 4 else e.2.pre }) []
      let owned := match x.drain with | some d => fun n => n == d.gen | none => fun _ => false
      let gens := k.gens.foldl (fun m (g : Nat × Gen) => if owned g.1 then m
        else aset {} m g.1 { x.gen g.1 with desc := g.2.desc, base := g.2.base, i0 := g.2.i0, i1 := g.2.i1, ready := 0 }) x.gens
      ({ x.setFillBank zeroed with qx := {}, qy := {}, gens := gens, cnts := k.cnts, cmps := k.cmps, ep := k.ep, g16 := none,
                                   cw := k.addr }, true)

/-- The k-loop ends at a COMMIT swap: entries with an overflow bit saturate in place (R114, R170). The answer counts them. -/
def Tile.kAbort (x : Tile) : Tile × Nat :=
  match x.kloop with
  | none => (x, 0)
  | some _ =>
    let bank := x.fillBank
    let n := (bank.filter (fun e => e.2.ovf.isSome)).length
    let bank' := bank.map (fun e => match e.2.ovf with
      | some v => (e.1, { e.2 with bits := BitVec.ofNat 32 (twos 32 (if v < 0 then intMin 32 else intMax 32)), ovf := none, held := false })
      | none => (e.1, { e.2 with held := false }))
    ({ x.setFillBank bank' with kloop := none }, n)

end Sys2Proof.Machine
end

