-- ==== Sys2Proof/Machine/Tile.lean ====
section
/-! DEFINITION. What one control word does, a tile cycle at a time: bank pairs (R43, R44), interlocks (R96), address generators (R79 to
R83), gather and scatter (R188 to R195), FP64 (R565, R567), counters, comparators, the sequencer and waits (R94 to R105). -/

namespace Sys2Proof.Machine

/-! ## Bank pairs (R43, R44) -/

/-- Bank pair of a local offset (R43). -/
def bankPair (a : Nat) : Nat := a / 16 % 4

/-- Generator and bank pair of every access under way that wants the present tc: register reads, writes, and a local drain (R44). -/
def Tile.due (x : Tile) : List (Nat × Nat) :=
  (x.reads.filter (fun r => decide (r.at_ ≤ x.tc))).map (fun r => (r.gen, bankPair r.addr))
  ++ (x.writes.filter (fun r => decide (r.at_ ≤ x.tc))).map (fun r => (r.gen, bankPair r.addr))
  ++ (match x.drain with
      | some d => if d.next ≤ x.tc ∧ !dGl (x.gen d.gen).desc then [(d.gen, bankPair (agAddr (x.gen d.gen) d.lanes).toNat)] else []
      | none => [])

/-- The pairs that requesters before the generators take: a forced scrub cycle, and a flit of the local port (R44, R47). -/
def Tile.taken (x : Tile) : List Nat :=
  match x.scrubPair, x.port with
  | some p, q :: _ => if p = q then [p] else [p, q]
  | some p, [] => [p]
  | none, q :: _ => [q]
  | none, [] => []

/-- The generators whose accesses are granted in the present tc, AG0 first, beside `want` of the present word (R44). -/
def Tile.granted (x : Tile) (want : List (Nat × Nat)) : List Nat :=
  let reqs := x.due ++ want
  ((List.range 4).foldl (fun (a : List Nat × List Nat) n =>
    match reqs.find? (fun r => r.1 == n) with
    | some r => if a.1.contains r.2 then a else (r.2 :: a.1, a.2 ++ [n])
    | none => a) (x.taken, [])).2

/-- The accesses of generator n still to be made move on by one tc, and the data of its reads with them (R44). -/
def Tile.delay (x : Tile) (n : Nat) : Tile :=
  let regs := ((x.reads.filter (fun r => r.gen == n)).map (·.vd)).eraseDups
  let x := { x with
    reads := x.reads.map (fun (r : PRead) => if r.gen = n then { r with at_ := r.at_ + 1 } else r)
    writes := x.writes.map (fun (r : PWrite) => if r.gen = n then { r with at_ := r.at_ + 1 } else r)
    drain := x.drain.map (fun (d : Drain) => if d.gen = n then { d with next := x.tc + 1 } else d)
    vready := regs.foldl (fun m r => aset 0 m r (aget 0 m r + 1)) x.vready }
  x.setGen n { x.gen n with ready := (x.gen n).ready + 1 }

/-- The accesses under way that lose the present tc (R44). -/
def Tile.losers (x : Tile) (granted : List Nat) : List Nat := (x.due.map (·.1)).filter (fun n => !granted.contains n)

/-! ## One tile cycle beside the word -/

/-- The source registers of a CVT as they stand in cycle k: of those that it has still to read, one whose write is under way keeps the value
that it held before (R95, R137). -/
def Tile.cvtSees (x : Tile) (c : CvtRun) (k : Nat) : List W256 :=
  c.got.zipIdx.map (fun p =>
    let v := wVa c.w.toNat + p.2
    if k ≤ c.start + p.2 ∧ aget 0 x.vready v ≤ k ∧ aget 0 x.gatherLeft v = 0 then x.vreg v else p.1)

/-- A CVT that has read its source registers writes its result, and counts in its own word's set (R137, R146). -/
def State.cvtWrite (s : State) (t : Nat) (c : CvtRun) : State :=
  let x := s.tile t
  let w := c.w.toNat
  let act := cvtElems w c.lim
  let rg := fun i => if wVa w ≤ i ∧ i < wVa w + c.got.length then nth 0 c.got (i - wVa w) else x.vreg i
  let o := vecCvt w rg c.lim (fun i => nth .rne c.mds (act.idxOf i))
  let y := o.regs.foldl (fun x r => x.setVreg r.1 r.2) { x with cvt := none }
  (s.setTile t y).tallyAt t (wCset w) c.word o.cnt o.produced

/-- A CVT that reads its source registers in cycle k (R137). -/
def State.cvtCycle (s : State) (t k : Nat) : State :=
  let x := s.tile t
  match x.cvt with
  | none => s
  | some c =>
    let c := { c with got := x.cvtSees c k }
    if c.start + c.got.length ≤ k + 1 then s.cvtWrite t c else s.setTile t { x with cvt := some c }

/-- The end of cycle tc of tile t, in which the generators of `losers` have lost their bank pairs: the other accesses under way are made,
reads before the writes that land (R45), a running drain writes, FP64 results reach their pairs, failing results are raised, a CVT reads its
next source register, one queued request leaves, the local port moves a flit each way, and the cycle count advances. -/
def State.tickWith (s : State) (t : Nat) (losers : List Nat) : State :=
  let k := (s.tile t).tc
  let s := s.updTile t (fun x => { losers.foldl Tile.delay x with lost := !losers.isEmpty })
  let s := ((s.makeReads t k).makeWrites t k).landWrites t k
  let s := ((s.updTile t (fun x => x.landPairs (k + 1))).residues t k).cvtCycle t k
  let s := match (s.tile t).drain with
    | some d => if d.next ≤ k then s.drainWrite t else s
    | none => s
  (s.issueNext t).updTile t (fun x =>
    { x with tc := x.tc + 1, inject := x.inject - 1, scrubPair := none
             port := if x.scrubPair.isSome ∧ x.scrubPair = x.port.head? then x.port else x.port.drop 1 })

/-- A cycle in which the tile's word makes no access. -/
def State.tick (s : State) (t : Nat) : State := s.tickWith t ((s.tile t).losers ((s.tile t).granted []))

/-- Everything of tile t that is in flight lands (R70, R98): reads, writes, FP64 results and failing results. -/
def State.landAll (s : State) (t : Nat) : State :=
  let x := s.tile t
  let last := (x.reads.map (·.at_) ++ x.writes.map (·.at_) ++ x.zeros.map (·.1) ++ x.lsPend.map (·.1) ++ x.pend64.map (·.1)
    ++ x.resDue.map (·.1)).foldl max x.tc
  let s := ((s.makeReads t last).makeWrites t last).landWrites t (last + 1)
  let s := (s.updTile t (fun x => x.landPairs last)).residues t last
  match (s.tile t).cvt with
  | some c => s.cvtWrite t c
  | none => s

/-- Whether earlier words of a tile still have something under way. -/
def Tile.inFlight (x : Tile) : Bool :=
  !(x.reads.isEmpty && x.writes.isEmpty && x.zeros.isEmpty && x.lsPend.isEmpty && x.pend64.isEmpty && x.drain.isNone && x.sendQ.isEmpty
    && x.resDue.isEmpty && x.cvt.isNone && decide (x.inject = 0) && x.port.isEmpty)

/-! ## Interlocks (R33, R44, R85, R96) -/

/-- Vector registers that a generator field reads or writes on port VREG. -/
def agVregs (w : Nat) : List Nat :=
  (List.range 4).filterMap (fun n => if (wAgOp w n = 1 ∨ wAgOp w n = 2) ∧ wAgPort w n = 2 then some (wAgVreg w n) else none)

/-- The generators that a word names, the partner of a DEPOSIT read included (R82). -/
def agNamed (w : Nat) : List Nat :=
  (List.range 4).filter (fun n => wAgOp w n != 0 || wAgStep w n || (wAgOp w (n ^^^ 1) == 1 && wAgPort w (n ^^^ 1) == 5))

/-- FP64 values of generator n's buffer that a word's F64 operation takes. -/
def f64Takes (w n : Nat) : Nat := ((f64Uses (wF64Op w)).filter (fun k => wSrc w k == n)).length

/-- Whether a word offers flits to the router's local port: a global WRITE, a DEPOSIT read or a global gather or scatter (R95). -/
def Tile.offers (x : Tile) (w : Nat) : Bool :=
  (List.range 4).any (fun n =>
    let op := wAgOp w n
    ((op == 2 && wAgPort w n != 4) || op == 5 || op == 6) && dGl (x.gen n).desc || (op == 1 && wAgPort w n == 5))

/-- Flits that the local port's buffer towards the mesh holds (R52). -/
def portFlits : Nat := 8

/-- Whether a word must wait in its cycle for a unit, a register, a queue, a count or the local port (R33, R82, R85, R88, R96, R565,
R567). A READ on port F64 waits for room for its two values (R33, R88; log 110). A word that reads by SRC 5 waits for an FP64 result and for
DOTs under way to its pair, and for the products of an open group that it closes; a GRP into the pair of the open group reads the pair as it
stands (DESIGN CHOICE, log 116). A K_END without a DOT of its own waits for the last DOT's entry (R108). -/
def Tile.unitStall (x : Tile) (w : Nat) : Bool :=
  let k := x.tc
  let op := wBankOp w
  let regs := vecReads w ++ vecWrites w ++ agVregs w
  let fam := famOf (wFmtX w) (wFmtY w)
  let need := match fam with
    | some f => famBits f + (if famBlk f && decide (x.blkX + 1 ≥ blkEntries (wBlk w)) then 128 else 0)
    | none => 0
  let f := wF64Op w
  let resReady := (x.res.filter (fun r => decide (r.2 ≤ k))).length
  let f64w := agCount (fun n => wAgOp w n == 2 && wAgPort w n == 3)
  let deps := agCount (fun n => wAgOp w n == 1 && wAgPort w n == 5)
  regs.any (fun r => decide (aget 0 x.vready r > k) || aget 0 x.gatherLeft r != 0)
  || (agNamed w).any (fun n => decide ((x.gen n).ready > k) || (match x.drain with | some d => d.gen == n | none => false)
        || x.sendQ.any (fun p => p.ag == n))
  || (fam.isSome && (decide (x.qx.avail k < need) || decide (x.qy.avail k < need)))
  || (agCount (fun n => wAgOp w n == 1 && wAgPort w n == 0) != 0 && decide (x.qx.ents.length ≥ 4))
  || (agCount (fun n => wAgOp w n == 1 && wAgPort w n == 1) != 0 && decide (x.qy.ents.length ≥ 4))
  || (List.range 4).any (fun n => wAgOp w n == 1 && wAgPort w n == 3 && decide (f64Takes w n < (x.gen n).f64.length))
  || (wVop w != 0 && wVop w != 26 && wVop w != 27 && decide (x.vecFree > k))
  || (f != 0 && (decide (x.f64Free > k)
        || (List.range 4).any (fun n => decide (f64Takes w n > ((x.gen n).f64.filter (fun v => decide (v.2 ≤ k))).length))
        || ((f64Uses f).any (fun j => wSrc w j == 4) && decide (x.fwdReady > k))
        || ((f64Uses f).any (fun j => wSrc w j == 5) && (x.pairBusy (wAcc w) k || (match x.g64 with
            | some g => g.pair == wAcc w && f != 10 && decide (g.ready > k)
            | none => false)))
        || (f != 10 && wDst w == 1 && decide (x.res.length ≥ 2))
        || (f != 10 && wDst w == 2 && x.pairBusy (wAcc w) k)))
  || (f64w != 0 && !(resReady == 2 || (resReady == 1 && x.res.length == 1)))
  || ((op == 1 || op == 3) && (x.drain.isSome || (decide (x.macReady ≥ k) && x.macReady != 0)))
  || (op == 2 && x.drain.isSome)
  || ((op == 1 || op == 3 || op == 5) && (match x.g64 with | some g => decide (g.ready > k) | none => false))
  || (op == 5 && fam.isNone && x.kloop.isSome && decide (x.macReady > k))
  || (deps != 0 && decide (x.reqs.length + deps > 8))
  || (x.offers w && decide (x.inject ≥ portFlits))

/-- Whether a forbidden word meets an open block (R165). -/
def Tile.blockOpen (x : Tile) (w : Nat) : Bool :=
  x.blkX != 0 &&
    ([1, 3, 4, 5].contains (wBankOp w) || wSeqOp w == 7
      || (match famOf (wFmtX w) (wFmtY w) with
          | some f => !famBlk f || wBlk w != x.blkSize
          | none => false))

/-! ## Generator fields -/

/-- The active bytes of access j of a VREG transfer: (byte in the word, byte in the register, bytes) (R81, R87). -/
def vregParts (lw j : Nat) (lim : Option Nat) : List (Nat × Nat × Nat) :=
  let n := laneBytes lw
  (List.range (laneCount lw)).filterMap (fun i =>
    if laneOn lim i ∧ i * n / 16 = j then some (i * n % 16, i * n, n) else none)

/-- A READ on port VREG by a local generator (R81). The generator is busy two tc and the register usable from I + 3 whatever lanes are
active: an access that is not made keeps its tc (DESIGN CHOICE, log 110). -/
def State.readVreg (s : State) (t w n : Nat) (lim : Option Nat) (a : W64) (id : WordId) : State :=
  let vd := wAgVreg w n
  let k := (s.tile t).tc
  let s := (List.range 2).foldl (fun s j =>
    let ps := vregParts (wLw w) j lim
    if ps.isEmpty then s
    else match localCause (a + BitVec.ofNat 64 (16 * j)) with
      | some c => (s.updTile t (fun x => { x with zeros := x.zeros ++ [(k + j, vd, ps)] })).laneFault t id (partMask ps) c
      | none => s.updTile t (fun x => { x with reads := x.reads ++
          [{ gen := n, at_ := k + j, addr := a.toNat + 16 * j, vd := vd, width := laneBytes (wLw w), parts := ps, word := id, all := true }] })) s
  s.updTile t (fun x => (x.setGen n { x.gen n with ready := k + 2 }).vregAt vd (k + 3))

/-- The PKT_TRIGGER of a word whose WRITE of generator n closes its packet (R90). -/
def closeTrig (w n : Nat) : Option Nat := if wPktClose w ∧ wPktAg w = n then some (wPktTrig w) else none

/-- A WRITE on port VREG (R81): local accesses write the bytes of active lanes, a global one sends whole flits. -/
def State.writeVreg (s : State) (t w n : Nat) (lim : Option Nat) (a : W64) (id : WordId) : State :=
  let x := s.tile t
  let v := (x.vreg (wAgVreg w n)).toNat
  let k := x.tc
  let gl := dGl (x.gen n).desc
  let made := (List.range 2).filter (fun j => !(vregParts (wLw w) j lim).isEmpty)
  let s := made.foldl (fun s j =>
    let ps := vregParts (wLw w) j lim
    let aj := a + BitVec.ofNat 64 (16 * j)
    if gl then s.pktFlit t n id aj (BitVec.ofNat 128 (v >>> (128 * j))) (partMask ps) (if made.getLast? = some j then closeTrig w n else none)
    else match localCause aj with
      | some c => s.laneFault t id (partMask ps) c
      | none =>
        let bs := ps.flatMap (fun p => tab p.2.2 (fun i => (aj.toNat + p.1 + i, BitVec.ofNat 8 (v >>> (8 * (p.2.1 + i))))))
        s.updTile t (fun x => { x with writes := x.writes ++ [⟨n, k + j, aj.toNat, bs⟩] })) s
  s.updTile t (fun x => x.setGen n { x.gen n with ready := k + 2 })

/-- A local READ of one 128-bit access on a port without lanes: its data, zero when it faults (R83, R198). -/
def State.readOne (s : State) (t : Nat) (a : W64) (gl : Bool) (id : WordId) : Nat × State :=
  if gl then (0, s.laneFault t id 0 lcSpace)
  else match localCause a with
    | some c => (0, s.laneFault t id 0 c)
    | none => let (v, e0, e1, s) := s.lsRead128 t a.toNat
              (v, if e0 || e1 then s.laneFault t id 0 lcLs else s)

/-- A READ on port DEPOSIT (R82): the reply goes to the partner's address as it stood before the word; a faulting read writes zeros there
(R198). -/
def State.readDeposit (s : State) (t w n : Nat) (ga : W64) (id : WordId) (before : Tile) : State :=
  let x := before
  let p := n ^^^ 1
  let lanes := laneCount (wLw w)
  let la := agAddr (x.gen p) (x.genLanes p lanes)
  let line : W64 := ga &&& 0xFFFFFFFFFFFFFFC0
  let laBad := if dGl (x.gen p).desc then some lcSpace
    else if la.toNat % 16 ≠ 0 then some lcAlign
    else if la.toNat + 64 > Config.lsBytes then some lcRange else none
  let bad := if !dGl (x.gen n).desc ∨ wAgOp w p ≠ 0 then some lcSpace else match laBad with
    | some c => some c
    | none => s.readCause t line
  match bad with
  | some c =>
    let s := s.laneFault t id 0 c
    if laBad.isSome then s else s.updTile t (fun x => x.writeAt (x.tc + 1) (tab 64 (fun i => (la.toNat + i, 0#8))))   -- in I + 1
  | none => s.issueReq t { ag := n, kind := .deposit la.toNat, ga := line, cls := if wUrgent w then 0 else 1, store := none, word := id }

/-- LOAD_DESC (R79, R95). -/
def State.loadDesc (s : State) (t w n : Nat) (id : WordId) : State :=
  let (v, s) := s.readOne t (BitVec.ofNat 64 (wAgArg w n * 16)) false id
  s.updTile t (fun x => x.setGen n (agLoad (x.gen n) (BitVec.ofNat 128 v) (x.tc + 2)))

/-- REWIND restores the loaded descriptor (R79). -/
def Tile.rewind (x : Tile) (n : Nat) : Tile := x.setGen n (agLoad (x.gen n) (x.gen n).desc (x.tc + 2))

/-- A WRITE on port F64 takes the result buffer's values, the older first (R567). Of two such WRITEs in one word the lower generator's
takes them and the other writes nothing (DESIGN CHOICE, log 110). -/
def State.writeF64 (s : State) (t w n : Nat) (a : W64) (id : WordId) : State :=
  let x := s.tile t
  let ready := x.res.filter (fun r => decide (r.2 ≤ x.tc))
  let vals := (ready.take 2).map (·.1)
  let k := x.tc
  let s := s.setTile t { x with res := x.res.drop vals.length }
  let bytes := vals.flatMap (fun v => leBytes 8 v.toNat)
  if vals.isEmpty then s
  else if dGl (x.gen n).desc then s.pktFlit t n id a (bytesFlit bytes) 0 (closeTrig w n)
  else match localCause a with
    | some c => s.laneFault t id 0 c
    | none => s.updTile t (fun x => { x with writes := x.writes ++ [⟨n, k, a.toNat, bytes.zipIdx.map (fun p => (a.toNat + p.2, p.1))⟩] })

/-! ## Gather and scatter (R188 to R195) -/

/-- Element width in bytes of a gather or scatter (R189). -/
def idxWidth (w : Nat) : Nat := if wLw w = 0 ∧ wVsub w = 1 then 8 else laneBytes (wLw w)

/-- The address of an element or the cause of its fault (R191): base A, index and width. -/
def State.elemAddr (s : State) (t w : Nat) (gl scatter : Bool) (a : W64) (idx : Int) : W64 × Option Nat :=
  let o := idx * ((2 ^ wShift w : Nat) : Int)
  let wd := idxWidth w
  if gl then
    let off : Int := (gaOff a : Int) + o
    let sp := gaSpace a
    let ga := mkGa sp (gaModule a) off.toNat
    let blk := 0x40000000 + t * 0x100
    let spaceBad :=
      if scatter then sp ≠ 0 ∧ sp ≠ 2
      else sp > 3 ∨ (sp = 3 ∧ ¬ (gaModule a = s.moduleId ∧ ((0 ≤ off ∧ off < 0x100) ∨ ((blk : Int) ≤ off ∧ off < (blk + 0x100 : Nat)))))
    if spaceBad then (ga, some lcSpace)
    else if off < 0 ∨ off ≥ ((2 ^ 44 : Nat) : Int) then (ga, some lcRange)
    else if sp = 0 ∧ off ≥ (Config.stackBytes : Int) then (ga, some lcRange)
    else if sp = 1 ∧ (off.toNat % Config.lsStride ≥ Config.lsBytes ∨ off.toNat / Config.lsStride ≥ Config.tiles) then (ga, some lcRange)
    else if off.toNat % wd ≠ 0 then (ga, some lcAlign)
    else (ga, none)
  else
    let x : Int := (a.toNat : Int) + o
    let la := BitVec.ofNat 64 x.toNat
    if x < 0 ∨ x ≥ (Config.lsBytes : Int) then (la, some lcRange)
    else if x.toNat % wd ≠ 0 then (la, some lcAlign)
    else (la, none)

/-- Maximal runs of consecutive elements whose addresses lie in one aligned block of `g` bytes (R192, R193): (element, address). -/
def idxRuns (g : Nat) : List (Nat × Nat) → List (List (Nat × Nat))
  | [] => []
  | p :: r =>
    match idxRuns g r with
    | (q :: qs) :: rest => if q.1 = p.1 + 1 ∧ q.2 / g = p.2 / g then (p :: q :: qs) :: rest else [p] :: (q :: qs) :: rest
    | rest => [p] :: rest

/-- The active elements of a gather or scatter of generator n with their addresses or the causes of their faults (R189 to R191). -/
def State.idxElems (s : State) (t w n : Nat) (lim : Option Nat) (a : W64) : List (Nat × W64 × Option Nat) :=
  let x := s.tile t
  let e := laneCount (wLw w) / (if wLw w = 0 ∧ wVsub w = 1 then 2 else 1)
  let idx := fun i => sext 32 (regElem (x.vreg (wVa w + i / Config.vlen)) 4 (i % Config.vlen))
  ((List.range e).filter (laneOn lim)).map (fun i => (i, s.elemAddr t w (dGl (x.gen n).desc) (wAgOp w n == 6) a (idx i)))

/-- The elements that do not fault, with their addresses. -/
def goodElems (els : List (Nat × W64 × Option Nat)) : List (Nat × Nat) :=
  (els.filter (fun p => p.2.2.isNone)).map (fun p => (p.1, p.2.1.toNat))

/-- A gather or scatter on generator n (R188 to R195). -/
def State.indexed (s : State) (t w n : Nat) (lim : Option Nat) (a : W64) (id : WordId) : State :=
  let x := s.tile t
  let k := x.tc
  let gl := dGl (x.gen n).desc
  let scatter := wAgOp w n == 6
  let wd := idxWidth w
  let els := s.idxElems t w n lim a
  let bad := els.filter (fun p => p.2.2.isSome)
  let good := goodElems els
  let mask := bad.foldl (fun m p => m ||| 2 ^ p.1) 0
  let causes := bad.foldl (fun m p => m ||| p.2.2.getD 0) 0
  let vd := wVd w
  let s := if scatter ∨ bad.isEmpty then s
    else s.updTile t (fun x => { x with zeros := x.zeros ++ [(k, vd, bad.map (fun p => (0, p.1 * wd, wd)))] })
  let s := if bad.isEmpty then s else s.laneFault t id mask causes
  let cls := if wUrgent w then 0 else 1
  if gl then
    let reqs : List PendReq := if scatter then
        good.map (fun p => { ag := n, kind := .scatter p.1, ga := BitVec.ofNat 64 p.2, cls := cls, word := id,
                             store := some (Nat.log2 wd, BitVec.ofNat 64 (regElem (x.vreg (wVb w)) wd p.1)) })
      else
        (idxRuns 64 good).map (fun r => { ag := n, kind := .gather vd wd (r.map (fun p => (p.1, p.2 % 64))), store := none, word := id,
                                          ga := BitVec.ofNat 64 ((r.headD (0, 0)).2 / 64 * 64), cls := cls })
    s.updTile t (fun x =>
      { x.setGen n { x.gen n with ready := k + 1 } with
        sendQ := x.sendQ ++ reqs,
        gatherLeft := if scatter then x.gatherLeft else aset 0 x.gatherLeft vd reqs.length })
  else
    let runs := idxRuns 16 good
    if scatter then
      let v := (x.vreg (wVb w))
      let ws : List PWrite := runs.zipIdx.map (fun r => ⟨n, k + r.2, (r.1.headD (0, 0)).2,
        r.1.flatMap (fun p => tab wd (fun i => (p.2 + i, BitVec.ofNat 8 (regElem v wd p.1 >>> (8 * i)))))⟩)
      s.updTile t (fun x => { x.setGen n { x.gen n with ready := k + runs.length } with writes := x.writes ++ ws })
    else
      let rs : List PRead := runs.zipIdx.map (fun r =>
        let base := (r.1.headD (0, 0)).2 / 16 * 16
        { gen := n, at_ := k + r.2, addr := base, vd := vd, width := wd, parts := r.1.map (fun p => (p.2 - base, p.1 * wd, wd)), word := id })
      s.updTile t (fun x => ({ x.setGen n { x.gen n with ready := k + runs.length } with reads := x.reads ++ rs }).vregAt vd
        (k + runs.length + 1))

/-- Generator and bank pair of the first local access of every generator field of a word that makes one, in generator order (R43, R44);
an access none of whose lanes is active, or that faults, is not made. -/
def State.wordPairs (s : State) (t w : Nat) (lim : Option Nat) : List (Nat × Nat) :=
  let x := s.tile t
  (List.range 4).filterMap (fun n =>
    let op := wAgOp w n
    let port := wAgPort w n
    let g := x.gen n
    let a := agAddr g (x.genLanes n (laneCount (wLw w)))
    let at_ := fun (a : W64) => if (localCause a).isSome then none else some (n, bankPair a.toNat)
    if op = 3 then at_ (BitVec.ofNat 64 (wAgArg w n * 16))
    else if dGl g.desc then none
    else if op = 5 ∨ op = 6 then (goodElems (s.idxElems t w n lim a)).head?.map (fun p => (n, bankPair p.2))
    else if (op = 1 ∨ op = 2) ∧ port ≠ 4 ∧ port ≠ 5 then
      if port = 2 ∧ (vregParts (wLw w) 0 lim).isEmpty then none else at_ a
    else none)

/-- Generator field n of a word acts (R79 to R83, R188). PKT_OPEN with a local generator is an address fault of cause SPACE, and its WRITE
is not made (DESIGN CHOICE, log 110: R89 builds a header from a global address). `before` is the tile before the word. -/
def State.agField (s : State) (t w n : Nat) (lim : Option Nat) (id : WordId) (before : Tile) : State :=
  let x := s.tile t
  let k := x.tc
  let g := x.gen n
  let a := agAddr g (x.genLanes n (laneCount (wLw w)))
  let port := wAgPort w n
  let gl := dGl g.desc
  let s := match wAgOp w n with
    | 1 =>
      if port = 5 then s.readDeposit t w n a id before
      else if port = 2 then
        if gl then
          let ps := vregParts (wLw w) 0 lim ++ vregParts (wLw w) 1 lim
          if ps.isEmpty then s
          else (s.updTile t (fun x => ({ x with zeros := x.zeros ++ [(k, wAgVreg w n, ps)] }).vregAt (wAgVreg w n) (k + 3))).laneFault t id
            (partMask ps) lcSpace
        else s.readVreg t w n lim a id
      else
        let (v, s) := s.readOne t a gl id
        s.updTile t (fun x =>
          if port = 0 then { x with qx := { x.qx with ents := x.qx.ents ++ [(BitVec.ofNat 128 v, k + 2)] } }
          else if port = 1 then { x with qy := { x.qy with ents := x.qy.ents ++ [(BitVec.ofNat 128 v, k + 2)] } }
          else x.setGen n { x.gen n with f64 := (x.gen n).f64 ++ [(BitVec.ofNat 64 v, k + 2), (BitVec.ofNat 64 (v / 2 ^ 64), k + 2)] })
    | 2 =>
      let opens := wPktOpen w && wPktAg w == n
      if opens && !gl then s.laneFault t id 0 lcSpace
      else
        let s := if opens then s.openPacket t n id a (wPktClass w) (wPktOp w) else s
        if port = 4 then s
        else
          let s := if port = 2 then s.writeVreg t w n lim a id else s.writeF64 t w n a id
          match closeTrig w n with | some trg => s.closePacket t n trg id | none => s
    | 3 => s.loadDesc t w n id
    | 4 => s.updTile t (fun x => x.rewind n)
    | 5 => s.indexed t w n lim a id
    | 6 => s.indexed t w n lim a id
    | _ => s
  if wAgStep w n ∧ ¬ (wAgOp w n = 2 ∧ port = 4 ∧ (wBankOp w = 2 ∨ wBankOp w = 3)) then
    s.updTile t (fun x => x.setGen n (agStep (x.gen n)))
  else s

/-! ## FP64 unit (R565, R567, R88, R154, R155) -/

/-- The operand that source k of a word's F64 operation names; a buffer gives up its oldest value (R88). -/
def Tile.f64Src (x : Tile) (w k : Nat) : W64 × Tile :=
  let src := wSrc w k
  if src < 4 then
    match (x.gen src).f64 with
    | [] => (0, x)
    | v :: r => (v.1, x.setGen src { x.gen src with f64 := r })
  else if src = 4 then (x.fwd, x)
  else if src = 5 then (x.pairNext (wAcc w), x)
  else (0, x)

/-- The F64 group of a word acts (R565); `bad` names the word where its result fails its residue check (R49). -/
def State.f64Field (s : State) (t w : Nat) (bad : Option (Nat × Nat)) : State :=
  let op := wF64Op w
  if op = 0 then s
  else
    let n := wCset w
    let x := s.tile t
    let s := match x.g64 with
      | some g => if op = 10 ∧ g.pair = wAcc w then s else s.close64 t n x.tc
      | none => s
    let x := s.tile t
    let k := x.tc
    let uses := f64Uses op
    let (a, x) := if uses.contains 0 then x.f64Src w 0 else (0, x)
    let (b, x) := if uses.contains 1 then x.f64Src w 1 else (0, x)
    let (c, x) := if uses.contains 2 then x.f64Src w 2 else (0, x)
    let (busy, lat) := f64Time op
    let x := { x with f64Free := k + busy }
    if op = 10 then
      let s := (s.setTile t x).tally t n (flushes (flushCount .fp64 [a.toNat, b.toNat])) false
      let x := s.tile t
      let g : Group64 := match x.g64 with
        | some g => { g with prods := g.prods ++ [(a, b)], cset := n, ready := k + lat, bad := g.bad <|> bad }
        | none => ⟨wAcc w, wAccClr w, [(a, b)], n, k + lat, bad⟩
      let s := s.setTile t { x with g64 := some g }
      if g.prods.length = 4 then s.close64 t n k else s
    else
      let r := f64Result op a b c
      let v : W64 := BitVec.ofNat 64 r.v
      let x := { x with fwd := v, fwdReady := k + lat }
      let x := if wDst w = 1 then { x with res := x.res ++ [(v, k + lat)] }
        else if wDst w = 2 then { x with pend64 := x.pend64 ++ [(k + lat, wAcc w, v)], accReady := aset 0 x.accReady (wAcc w) (k + lat) }
        else x
      (s.setTile t (x.fails (k + lat) bad)).tally t n r.c (op != 9)

/-! ## Vector group, counters, comparators -/

/-- The VEC group of a word acts (R176, R135); GATHER and SCATTER act through their generator. A CVT whose source is the wider side goes on
reading its source registers in the tc that follow (R137). -/
def State.vecField (s : State) (t w : Nat) (lim : Option Nat) (id : WordId) : State :=
  let op := wVop w
  if op = 0 ∨ op = 26 ∨ op = 27 then s
  else
    let x := s.tile t
    let rg := fun i => x.vreg i
    let act := cvtElems w lim
    let mode := fun i => s.roundMode t (wSr w) x.srCtr i
    let (busy, lat) := vecTime w
    let k := x.tc
    let srcs := vecReads w
    if op = 3 ∧ 1 < srcs.length then
      s.setTile t { x.vregAt (wVd w) (k + lat) with
        vecFree := k + busy, srCtr := if wSr w then x.srCtr + BitVec.ofNat 32 act.length else x.srCtr
        cvt := some { w := BitVec.ofNat 256 w, lim := lim, word := id, mds := tab act.length mode, start := k, got := srcs.map rg } }
    else
    let o := if op = 3 then vecCvt w rg lim (fun i => mode (act.idxOf i)) else vecLanes w rg lim
    let x := o.regs.zipIdx.foldl (fun x r => (x.setVreg r.1.1 r.1.2).vregAt r.1.1
      (k + (if o.regs.length > 1 then 2 + r.2 else lat))) x
    let x := { x with vecFree := k + busy, srCtr := if op = 3 ∧ wSr w then x.srCtr + BitVec.ofNat 32 act.length else x.srCtr }
    (s.setTile t x).tally t (wCset w) o.cnt o.produced

/-- The CNT group of a word acts (R95): the new value of Cn. -/
def Tile.cntField (x : Tile) (w : Nat) : Tile :=
  let n := wCntSel w
  let c := x.counter n
  let lanes := laneCount (wLw w)
  let const := wCntConst w
  let x' := { x with replyOf := adel x.replyOf n }
  match wCntOp w with
  | 1 => x'.setCounter n (c + BitVec.ofInt 32 (sext 16 const))
  | 2 => x'.setCounter n (BitVec.ofNat 32 const)
  | 3 => x'.setCounter n (x.counter (wCntSrc w))
  | 4 => x'.setCounter n (BitVec.ofNat 32 lanes)
  | 5 => x'.setCounter n (BitVec.ofNat 32 (c.toNat - lanes))
  | 6 => { x'.setCounter n (BitVec.ofNat 32 const) with replyOf := aput x'.replyOf n (wCntSrc w) }
  | _ => x

/-- The CMP group of a word acts (R92). -/
def Tile.cmpField (x : Tile) (w : Nat) : Tile :=
  if wKSet w then
    let c : Cmp :=
      { a := wKA w, rel := wKRel w, b := wKB w, const := if wKB w = 4 then BitVec.ofInt 32 (sext 16 (wCntConst w)) else 0 }
    { x with cmps := aset {} x.cmps (wKSel w) c }
  else x

/-- BANK_OP of a word of identity `id` acts, its DOT having been taken (R85, R108, R111, R154). `before` is the tile before the word. -/
def State.bankField (s : State) (t w : Nat) (id : WordId) (before : Tile) : State :=
  match wBankOp w with
  | 1 => (s.closeShort t (wCset w)).updTile t Tile.swap
  | 2 => s.startDrain t w id
  | 3 => ((s.closeShort t (wCset w)).updTile t Tile.swap).startDrain t w id
  | 4 => s.updTile t (fun x => x.kLatch before)
  | 5 => s.closeShort t (wCset w)
  | _ => s

/-! ## The sequencer -/

/-- The address that follows a word (R94, R102): `x` holds the counters after the word, `kTrue` the comparator before it. -/
def nextAddr (x : Tile) (w cw : Nat) (kTrue : Bool) : Nat :=
  let nx := (cw + 1) % 256
  let c := x.counter (wSeqSel w)
  match x.waitEnd with
  | some a => a
  | none =>
    match wSeqOp w with
    | 1 => wTarget w
    | 2 => if c = 0 then wTarget w else nx
    | 3 => if c = 0 then nx else wTarget w
    | 4 => if kTrue then wTarget w else nx
    | 5 => if kTrue then nx else wTarget w
    | _ => nx

/-- Lanes that TAILC leaves active, by the counter before the word's CNT (R87, R95). -/
def Tile.tailc (x : Tile) (w : Nat) : Option Nat := if wTailc w = 0 then none else some (x.counter (wTailc w)).toNat

/-- The tile as it stood before its present word, of which some generators may have acted already (R44). -/
def Tile.beforeWord (x : Tile) : Tile := { x with gens := (x.part.map (·.gens)).getD x.gens }

/-- The fields of word w that are no generator's act in the present cycle (R94, R95). A DOT goes into the bank that fills before the word's
own SWAP, and its F64 operation into the one that fills after it (DESIGN CHOICE, log 110). -/
def State.actUnits (s : State) (t w : Nat) (u : Upset) (id : WordId) (before : Tile) : State :=
  let here := some (before.cw, before.bank)
  let s := if wBankOp w = 4 then s.bankField t w id before else s
  let s := s.dot t w (before.counter 1).toNat (if u.residue then here else none)
  let s := if wBankOp w = 4 then s else s.bankField t w id before
  let s := s.f64Field t w (if u.residue64 then here else none)
  let s := s.vecField t w (before.tailc w) id
  let mac := famOf (wFmtX w) (wFmtY w) |>.isSome
  let s := if u.regParity && (mac || wVop w != 0 || wBankOp w == 2 || wBankOp w == 3) then s.tileNote t .regParity else s
  s.updTile t (fun x => (x.cntField w).cmpField w)

/-- The generator fields `gens` of word w act (R44, R79). -/
def State.actGens (s : State) (t w : Nat) (gens : List Nat) (before : Tile) : State :=
  gens.foldl (fun s n => s.agField t w n (before.tailc w) (s.wordId t (wCset w)) before) s

/-- Word w of tile t acts in the present cycle but for the sequencer: its generator fields that have not acted, and every other field. -/
def State.actWord (s : State) (t w : Nat) (u : Upset) : State :=
  let before := (s.tile t).beforeWord
  let made := ((s.tile t).part.map (·.made)).getD []
  let s := if (s.tile t).part.isNone then s.updTile t (fun x => { x with serial := x.serial + 1 }) else s
  let s := s.actGens t w ((List.range 4).filter (fun n => !made.contains n)) before
  (s.actUnits t w u (s.wordId t (wCset w)) before).updTile t (fun x => { x with part := none })

/-- The sequencer goes to the address that follows word w, as the tile `before` it stood (R94, R95). -/
def State.goOn (s : State) (t w : Nat) (before : Tile) : State :=
  s.updTile t (fun x =>
    { x with cw := nextAddr x w before.cw (before.cmpTrue (wSeqSel w) (laneCount (wLw w))), waitEnd := none, st := .run, held := none })

/-- A progress event of tile t's launch (R502). -/
def State.progressed (s : State) (t : Nat) : State :=
  match (s.tile t).slot with
  | none => s
  | some k => s.updSlot k (fun z => { z with launch := z.launch.map (fun l =>
      if l.left.contains t then { l with progress := s.beat } else l) })

/-- K_END, whose word has acted, in the present cycle (R108, R109, R111): it waits for the last DOT's entry, which counts as a stall; then
it ends the loop, or counts a replay, whose next tc restores the latched state and fetches the K_BEGIN word. -/
def State.kEndCycle (s : State) (t : Nat) (e : KEnd) : State :=
  let x := s.tile t
  if e.replay then ((s.setTile t { x.kEnd.1 with kend := none, st := .run }).tick t)
  else if x.tc < e.at_ then (s.setTile t { x with st := .stall, unitStalls := cap32 x.unitStalls 1 }).tick t
  else if x.kEnd.2 then
    ((s.setTile t { x with st := .stall, kend := some { e with at_ := x.tc + 1, replay := true } }).count t e.cset {} 1).tick t
  else ((s.progressed t).setTile t { x.kEnd.1 with kend := none, cw := e.next, st := .run }).tick t

/-- The word that a tile is to act on: the one that it has fetched and that waits or stalls, else that of its active bank at its address, or a
plain HALT where a swap has found no entry (R94, R114). -/
def Tile.cur (x : Tile) : Nat :=
  if x.haltPend then 7 else match (if x.st = .run then none else x.held) with
    | some w => w.toNat
    | none => x.word x.bank x.cw
/-- Entry n of the entry table of the active bank (R99). -/
def Tile.entry (x : Tile) (n : Nat) : W16 := aget 0 (if x.bank = 0 then x.cs0.entries else x.cs1.entries) n
/-- Whether an entry-table entry is VALID (R99). -/
def entryValid (e : W16) : Bool := e.toNat / 256 % 2 == 1
/-- The word address of an entry (R99). -/
def entryAddr (e : W16) : Nat := e.toNat % 256

/-- Whether every unit of the tile is idle, as a HALT needs (R98). -/
def Tile.idle (x : Tile) : Bool :=
  x.drain.isNone && x.reads.isEmpty && x.writes.isEmpty && x.zeros.isEmpty && x.reqs.isEmpty && x.sendQ.isEmpty && x.pend64.isEmpty
  && x.lsPend.all (fun p => decide (p.1 ≤ x.tc)) && decide (x.vecFree ≤ x.tc) && decide (x.fwdReady ≤ x.tc)
  && x.vready.all (fun p => decide (p.2 ≤ x.tc)) && x.gatherLeft.isEmpty
  && (match x.g64 with | some g => decide (g.ready ≤ x.tc) | none => true)
  && x.gens.all (fun g => decide (g.2.ready ≤ x.tc) && g.2.f64.all (fun v => decide (v.2 ≤ x.tc)))
  && x.qx.ents.all (fun e => decide (e.2 ≤ x.tc)) && x.qy.ents.all (fun e => decide (e.2 ≤ x.tc)) && decide (x.macReady ≤ x.tc)

/-! ## Counter sets, the count tree and halting (R59, R60, R98) -/

/-- Four counts as one payload flit of a KIND 3 packet: SAT, FLUSH, REPLAY, NAN from the lowest word up (log 22). -/
def countFlit (sat flush replay nan : Nat) : Flit := BitVec.ofNat 128 (sat + flush * 2 ^ 32 + replay * 2 ^ 64 + nan * 2 ^ 96)

/-- The four sums of set n reach the dispatcher: they enter the launch whose operation has this tag (R60). -/
def State.deliverSums (s : State) (tag n : Nat) (f : Flit) : State :=
  let v := f.toNat
  s.slots.foldl (fun s p =>
    match p.2.launch with
    | some l =>
      if l.tag = tag then
        let old := aget (0, 0) l.setSums n
        s.updSlot p.1 (fun k => { k with launch := some { l with
          sat := cap32 l.sat (nfld v 0 32), flush := cap32 l.flush (nfld v 32 32),
          replay := cap32 l.replay (nfld v 64 32), nan := cap32 l.nan (nfld v 96 32),
          setSums := aset (0, 0) l.setSums n (cap32 old.1 (nfld v 0 32), cap32 old.2 (nfld v 32 32)) } })
      else s
    | none => s) s

/-- The count tree that the active image defines for the operation with a tag (R59): that of the slot and the ENTRY of its launch. -/
def State.countTree (s : State) (tag : Nat) : Assoc Nat :=
  match s.slots.find? (fun p => match p.2.launch with | some l => l.tag == tag | none => false) with
  | some p =>
    let entry := match p.2.launch with | some l => l.entry | none => 0
    ((s.cfg.active.countTrees.find? (fun c => c.1 == p.1 && c.2.1 == entry)).map (·.2.2)).getD []
  | none => []

/-- Counts of an operation's set n go from tile t along the operation's count tree: to its parent, or to the dispatcher from the root
(R59, R60, log 22). A count-sum packet has CLASS 1, its set number as its address and the operation's tag as its tag (DESIGN CHOICE, log 116). -/
def State.sendCounts (s : State) (t tag n : Nat) (f : Flit) : State :=
  match afind (s.countTree tag) t with
  | some (p + 1) =>
    let m : MeshPkt :=
      { kind := 3, dest := p, src := t, trigger := 0, lsAddr := 0, cls := 1, op := 5, beatLo := s.beat.toNat % 4096,
        addr := BitVec.ofNat 64 n, tag := tag, payload := [f], way := hopsOf (wayTile t p) }
    { s with mesh := s.mesh ++ [m] }
  | _ => s.deliverSums tag n f

/-- A counter set of a tile is bound to an operation's tag and cleared; while the sum of an earlier operation has not been sent the binding
waits (R58). -/
def Tile.bindSet (x : Tile) (n tag : Nat) : Tile :=
  if (x.cset n).bound then
    (if (x.cset n).tag = tag then x else { x with bindDue := x.bindDue ++ [(n, tag)] })
  else { x with sets := aset {} x.sets n { tag := tag, bound := true } }

/-- Tile t sends every bound counter set, then clears and releases it (R59). TAGn keeps the tag of a set that has been sent (DESIGN CHOICE,
log 110, R71). Bindings that have waited for the release follow (R58). -/
def State.sendSets (s : State) (t : Nat) : State :=
  let x := s.tile t
  let bound := x.sets.filter (fun p => p.2.bound)
  let y := { x with sets := x.sets.map (fun p => if p.2.bound then (p.1, ({ tag := p.2.tag } : CSet)) else p), bindDue := [] }
  let s := s.setTile t (x.bindDue.foldl (fun y b => y.bindSet b.1 b.2) y)
  bound.foldl (fun s p => s.sendCounts t p.2.tag p.1 (countFlit p.2.sat p.2.flush p.2.replay p.2.nan)) s

/-- Tile t counts as halted for the launch that started it; the beat of the last one is the completion beat (R282). -/
def State.launchLeft (s : State) (t : Nat) : State :=
  match (s.tile t).slot with
  | none => s
  | some k =>
    match (s.slot k).launch with
    | none => s
    | some l =>
      if l.left.contains t then
        let left := l.left.filter (fun i => i != t)
        let l := { l with left := left, progress := s.beat, doneBeat := if left.isEmpty then some s.beat else l.doneBeat }
        s.updSlot k (fun z => { z with launch := some l })
      else s

/-- A region that sleeps outside its schedule wakes, and UNSCHED_WAKES counts (R63). One that is WAKING already, from whatever cause, is not
counted again (DESIGN CHOICE, log 110). -/
def State.unschedWake (s : State) (r : Nat) : State :=
  let g := s.region r
  if g.st = 1 ∨ g.st = 2 then
    s.updRegion r (fun g => { g with st := 3, fromOff := g.st == 2, wakes := satTo 0xFFFF g.wakes 1 })
  else s

/-- The tile's cycle count past every time at which a unit of it comes free or a result is ready: between a halt and a start they all are
(R74, R98). -/
def Tile.settle (x : Tile) : Tile :=
  let gens := x.gens.map (·.2)
  { x with tc := ([x.macReady, x.vecFree, x.f64Free, x.fwdReady] ++ x.vready.map (·.2) ++ x.accReady.map (·.2) ++ x.macAt.map (·.2)
      ++ gens.map (·.ready) ++ gens.flatMap (fun g => g.f64.map (·.2)) ++ x.res.map (·.2) ++ x.qx.ents.map (·.2)
      ++ x.qy.ents.map (·.2)).foldl max x.tc }

/-- TILE_START: the tile's triggers, comparators, block position and records clear, the launch beat is recorded and fetch begins at
entry 0, at once or when its region reaches RUN (R63, R75, R100, R163, R199, R246). While the tile still runs an earlier operation, or a
binding waits for its sum, the entry waits (R58). Headers accepted before the start stay counted (R104). -/
def State.startTile (s : State) (t slot : Nat) : State :=
  match (s.slot slot).launch with
  | none => s
  | some l =>
    let x := s.tile t
    if x.st = .fault ∨ ¬ l.tiles.contains t then s
    else if x.st ≠ .halted ∨ x.bindDue ≠ [] then s.setTile t { x with startDue := some slot }
    else
      let r := regionOf t
      let e := x.entry 0
      let s := s.setTile t { x.settle with
        st := .run, cw := entryAddr e, held := none, trig := [], cmps := [], blkX := 0, blkY := 0, blkGroups := []
        launchBeat := l.armBeat, lastArmed := none, armed := none, waitEnd := none, slot := some slot, startDue := none, port := []
        scrubPair := none, nanValid := false, nanCw := 0, nanBank := 0, nanBeat := 0, cap := {}, srCtr := x.sr.elemBase
        startPend := (s.region r).st != 0 }
      let s := s.unschedWake r
      if entryValid e then s else s.tileFault t .triggerInvalid l.tag

/-- Tile t enters HALTED with its sets sent (R59, R98); an entry that has waited for that starts (R58). -/
def State.enterHalted (s : State) (t : Nat) : State :=
  let s := s.updTile t (fun x =>
    { x with st := .halted, held := none, armed := none, waitEnd := none, haltPend := false, startPend := false })
  let s := (s.sendSets t).launchLeft t
  match (s.tile t).startDue with
  | some k => s.startTile t k
  | none => s

/-- A HALT word has acted (R98, R154): open groups and packets close, what is in flight lands, the sets are sent and the tile is HALTED at
the word's address. Its own fields act in the halting tc, and a drain that it starts itself runs on (DESIGN CHOICE, log 110). -/
def State.haltNow (s : State) (t w : Nat) : State :=
  let s := s.closeShort t (wCset w)
  let id := s.wordId t (wCset w)
  let s := (List.range 4).foldl (fun s g => if ((s.tile t).drain.map (·.gen)) = some g then s else s.closePacket t g 0 id) s
  (s.landAll t).enterHalted t

/-- Word w, all of whose accesses are granted, acts: the sequencer goes on, a HALT halts the tile, and a K_END waits for the last DOT's
entry. -/
def State.finish (s : State) (t w : Nat) (u : Upset) : State :=
  let before := (s.tile t).beforeWord
  let s := s.actWord t w u
  if wSeqOp w = 7 then s.haltNow t w
  else if wBankOp w = 5 ∧ (s.tile t).kloop.isSome then
    let s := s.goOn t w before
    s.updTile t (fun x => { x with kend := some { at_ := x.macReady, next := x.cw, cset := wCset w }, cw := before.cw })
  else s.goOn t w before

/-- A word that is not waiting tries to act in the present cycle (R33, R44, R96, R98, R165): it faults on an open block, stalls for a unit,
stalls for an access under way that has lost its bank pair, stalls because accesses of its own have lost theirs, the others being made
and not repeated, or acts. -/
def State.tryAct (s : State) (t w : Nat) (u : Upset) : State :=
  let x := s.tile t
  let fresh := x.part.isNone
  if fresh && x.blockOpen w then s.tileFault t .blockOpen (x.cset (wCset w)).tag
  else if fresh && (x.unitStall w || (wSeqOp w == 7 && !x.idle)) then
    (s.setTile t { x with st := .stall, unitStalls := cap32 x.unitStalls 1 }).tick t
  else
    let all := s.wordPairs t w (x.beforeWord.tailc w)
    let want := if x.lost then [] else match x.part with
      | some p => all.filter (fun r => p.left.head? == some r.1)
      | none => all
    let granted := x.granted want
    let losers := x.losers granted
    let wait := (want.filter (fun r => !granted.contains r.1)).map (·.1)
    let stalled := fun (s : State) => (s.updTile t (fun x => { x with st := .stall, bankStalls := cap32 x.bankStalls 1 })).tickWith t losers
    if x.lost then stalled s
    else match x.part with
      | none =>
        if wait.isEmpty then
          let s := s.finish t w u
          if (s.tile t).kend.isSome ∧ (s.tile t).macReady ≤ (s.tile t).tc then
            match (s.tile t).kend with | some e => s.kEndCycle t e | none => s
          else s.tickWith t losers
        else
          let made := (want.map (·.1)).filter (fun n => !wait.contains n)
          let s := s.updTile t (fun x => { x with serial := x.serial + 1 })
          stalled ((s.actGens t w made x).updTile t (fun y => { y with part := some { left := wait, made := made, gens := x.gens } }))
      | some p =>
        if !wait.isEmpty then stalled s
        else if p.left.length ≤ 1 then (s.finish t w u).tickWith t losers
        else
          let made := want.map (·.1)
          stalled ((s.actGens t w made x.beforeWord).updTile t (fun y =>
            { y with part := some { p with left := p.left.drop 1, made := p.made ++ made } }))

/-- The armed beat of a WAIT (R103, R288). -/
def State.armedBeat (s : State) (t w : Nat) : W64 :=
  let x := s.tile t
  let ofs := BitVec.ofNat 64 (wArmOfs w)
  match wArmMode w with
  | 0 => s.beat + 1
  | 1 => x.launchBeat + ofs
  | 2 => (if fld s.esc.periodCfg 0 16 = 0 then x.launchBeat else s.esc.start) + ofs
  | _ => (x.lastArmed.getD x.launchBeat) + ofs

/-- The oldest queued trigger index that a mask accepts, and its place in the queue (R105). -/
def acceptedTrig (mask : Nat) (q : List Nat) : Option (Nat × Nat) := (q.zipIdx).find? (fun i => nfld mask (i.1 - 1) 1 == 1)

/-- The wait of tile t ends with a next address; the word's other fields act in this cycle, or stall (R102). -/
def State.endWait (s : State) (t w next : Nat) (u : Upset) : State :=
  ((s.progressed t).updTile t (fun x => { x with st := .stall, waitEnd := some next, armed := none, took := none })).tryAct t w u

/-- The armed beat ends the wait; a trigger taken in the tc before stays queued (R103, R105). -/
def State.endByBeat (s : State) (t w : Nat) (b : W64) (u : Upset) : State :=
  (s.updTile t (fun x => { x with lastArmed := some b, trig := match x.took with
    | some p => x.trig.insertIdx p.2 p.1
    | none => x.trig })).endWait t w (wTarget w) u

/-- The oldest accepted trigger is taken; the wait ends in the tc after, or the tile faults where the index has no VALID entry (R102,
R105). -/
def State.takeTrig (s : State) (t w : Nat) (p : Nat × Nat) : State :=
  let s := (s.progressed t).updTile t (fun x => { x with trig := x.trig.eraseIdx p.2 })
  if entryValid ((s.tile t).entry p.1) then (s.updTile t (fun x => { x with took := some p })).tick t
  else s.tileFault t .triggerInvalid ((s.tile t).cset (wCset w)).tag

/-- One cycle of a tile in a wait: the armed beat ends it, then a trigger taken in the tc before, then an accepted trigger is taken, or the
counter is zero (R102 to R105). -/
def State.waitCycle (s : State) (t : Nat) (u : Upset) : State :=
  let x := s.tile t
  let w := x.cur
  let due := if x.st = .waitBeat ∨ x.st = .waitEither then x.armed.filter (fun b => decide (b.toNat ≤ s.beat.toNat)) else none
  match due, x.took with
  | some b, _ => s.endByBeat t w b u
  | none, some p => s.endWait t w (entryAddr (x.entry p.1)) u
  | none, none =>
    if x.st = .waitCounter then (if x.counter (wSeqSel w) = 0 then s.endWait t w (wTarget w) u else s.tick t)
    else match (if x.st = .waitTrigger ∨ x.st = .waitEither then acceptedTrig (wTrigMask w) x.trig else none) with
      | some p => s.takeTrig t w p
      | none => s.tick t

/-- A WAIT word is met: the tile is in the wait of its kind, whose first cycle this is (R102, R103). -/
def State.enterWait (s : State) (t w : Nat) (u : Upset) : State :=
  let k := wWaitKind w
  let st := if k = 0 then TileSt.waitBeat else if k = 1 then .waitTrigger else if k = 2 then .waitEither else .waitCounter
  (s.updTile t (fun x => { x with st := st, armed := if k = 0 ∨ k = 2 then some (s.armedBeat t w) else none })).waitCycle t u

/-- Whether the tile is in a wait. -/
def Tile.waiting (x : Tile) : Bool :=
  x.st == .waitBeat || x.st == .waitTrigger || x.st == .waitEither || x.st == .waitCounter

/-- The tile belongs to a slot that is frozen as hung: it issues nothing, and its local port accepts nothing (R506). -/
def State.tileFrozen (s : State) (t : Nat) : Bool := (s.tile t).slot.isSome && (s.tile t).slot == s.hang.frozen

/-- Whether the tile's datapath is clocked and has a word to act on (R61, R63), and its slot is not frozen as hung (R506). -/
def State.tileRuns (s : State) (t : Nat) : Bool :=
  let x := s.tile t
  x.st != .halted && x.st != .fault && !x.startPend && (s.region (regionOf t)).st == 0
    && !s.tileFrozen t

/-- An upset of a local-store word (R46). -/
def State.lsUpset (s : State) (t : Nat) : Option (Nat × Ecc) → State
  | none => s
  | some (w, e) => s.setLsMark t w ((s.lsMark t w).upset e)

/-- The parity bits of a control word, that of its 64-bit part n as bit n (R48). -/
def wordParity (w : Nat) : Nat :=
  let par := fun (v : Nat) =>
    let a := v ^^^ (v >>> 32)
    let a := a ^^^ (a >>> 16)
    let a := a ^^^ (a >>> 8)
    let a := a ^^^ (a >>> 4)
    let a := a ^^^ (a >>> 2)
    (a ^^^ (a >>> 1)) % 2
  par (nfld w 0 64) + 2 * par (nfld w 64 64) + 4 * par (nfld w 128 64) + 8 * par (nfld w 192 64)

/-- A bank whose word i is written: its parity bits are generated with it (R48, R117). -/
def CsBank.write (c : CsBank) (i : Nat) (w : W256) : CsBank :=
  { c with words := aset 0 c.words i w, parity := aset 0 c.parity i (wordParity w.toNat) }

/-- A bank whose words are written in turn, each with its number. -/
def CsBank.writes (c : CsBank) (ws : List (W256 × Nat)) : CsBank := ws.foldl (fun c w => c.write w.2 w.1) c

/-- A bank in which bit n of word i has flipped: 256 to 259 are the word's parity bits (R48). -/
def CsBank.flip (c : CsBank) (i n : Nat) : CsBank :=
  if n < 256 then { c with words := aset 0 c.words i (aget 0 c.words i ^^^ BitVec.ofNat 256 (2 ^ n)) }
  else { c with parity := aset 0 c.parity i (aget 0 c.parity i ^^^ (2 ^ (n - 256) % 16)) }

/-- An upset of the control word that the tile fetches; it stays in the store (R48). -/
def Tile.csUpset (x : Tile) : Option Nat → Tile
  | none => x
  | some n => if x.bank = 0 then { x with cs0 := x.cs0.flip x.cw n } else { x with cs1 := x.cs1.flip x.cw n }

/-- Whether the parity check at the fetch of the tile's word fails (R48). -/
def Tile.parityBad (x : Tile) : Bool :=
  !x.haltPend && wordParity (x.word x.bank x.cw) != aget 0 (if x.bank = 0 then x.cs0.parity else x.cs1.parity) x.cw

/-- One tile cycle of tile t (R33, R94): the word at its address is fetched and checked (R48, R93), waits, stalls or acts; one that waits or
stalls is held, whatever becomes of its place in the store. A word is judged
inside a k-loop where the loop is open at its fetch: the K_BEGIN word outside it at first, inside it when a replay fetches it again
(DESIGN CHOICE, log 110, R110). A tile that fetches nothing goes on with what earlier words have under way (R70, R566). -/
def State.tileCycle (s : State) (t : Nat) (u : Upset) : State :=
  let s := s.lsUpset t u.lsWord
  if !s.tileRuns t then
    let x := s.tile t
    if (x.st = .halted ∨ x.st = .fault) ∧ (s.region (regionOf t)).st = 0 ∧ x.inFlight then s.tick t else s
  else
    let s := if u.csFlip.isSome then s.updTile t (fun x => x.csUpset u.csFlip) else s
    let x := s.tile t
    let w := x.cur
    match x.kend with
    | some e => s.kEndCycle t e
    | none =>
      let s := if x.st = .run then s.setTile t { x with held := some (BitVec.ofNat 256 w) } else s
      if x.waiting then s.waitCycle t u
      else if x.st = .run ∧ x.parityBad then (s.setTile t { x with eccPar := true }).tileFault t .csParity (x.cset (wCset w)).tag
      else if x.st = .run ∧ cwIllegal x.kloop.isSome w then s.tileFault t .cwIllegal (x.cset (wCset w)).tag
      else if wSeqOp w = 6 ∧ x.waitEnd = none then s.enterWait t w u
      else s.tryAct t w u

end Sys2Proof.Machine
end

