-- ==== Sys2Proof/Machine/Mesh.lean ====
section
/-! DEFINITION. The mesh (R50 to R55): its routers, whose five ports each hold a buffer of request and one of reply flits, move one flit a link
in a cycle. A step with no command waiting is one such cycle (log 1). A packet's place is the list of links that it has still to cross
(`MeshPkt.way`); the flits between two of them are those in the buffer between. -/

namespace Sys2Proof

/-! ## A packet and its flits -/

/-- Flits of a packet: its header, the second one of a packet with an address, and its payload (R55). -/
def MeshPkt.flits (p : MeshPkt) : Nat := p.payload.length + (if p.kind = 1 ∨ p.kind = 2 ∨ p.op = 6 then 2 else 1)

/-- Whether two packets go from one source to one destination, a tile or a line of one address, and so arrive in the order sent (R51, R91,
R195). -/
def MeshPkt.samePath (q p : MeshPkt) : Bool :=
  q.src == p.src && q.edge.isSome == p.edge.isSome && q.op != 6 && (q.kind == 1 || q.kind == 2) == (p.kind == 1 || p.kind == 2)
    && (if p.kind = 1 ∨ p.kind = 2 then decide (q.addr.toNat / 64 = p.addr.toNat / 64) else q.dest == p.dest)

/-- Flits of p that have come to its hop n. -/
def MeshPkt.come (p : MeshPkt) (n : Nat) : Nat :=
  match n with
  | 0 => p.flits
  | k + 1 => ((p.way[k]?).map (·.moved)).getD 0

/-- The hop of p that crosses a link, by its number. -/
def MeshPkt.hopAt (p : MeshPkt) (link : Nat × Nat) : Option (Hop × Nat) := p.way.zipIdx.find? (fun h => h.1.link == link)

/-- Whether a packet is a trigger packet of a tile whose header has entered the tile's local port (R104). -/
def MeshPkt.headIn (p : MeshPkt) : Bool :=
  p.kind == 0 && p.trigger != 0 && p.op == 0 && (match p.way[p.way.length - 2]? with | some h => h.moved != 0 | none => true)

/-- Whether a packet is a trigger packet whose header is at its tile's router, its local port not yet entered (R104). -/
def MeshPkt.headAt (p : MeshPkt) : Bool :=
  p.kind == 0 && p.trigger != 0 && p.op == 0 && !p.headIn && (p.come (p.way.length - 2) != 0)

/-- A packet of which one flit has crossed each of the links `won`, and which has waited at the others where it has a flit. -/
def MeshPkt.moveOn (p : MeshPkt) (won : List (Nat × Nat)) : MeshPkt :=
  { p with way := p.way.zipIdx.map (fun h =>
      if won.contains h.1.link then { h.1 with moved := h.1.moved + 1, waited := 0 }
      else if h.1.moved < p.come h.2 then { h.1 with waited := h.1.waited + 1 } else h.1) }

end Sys2Proof

namespace Sys2Proof.Machine

/-- Whether packet p of the request traffic is the next of its path. -/
def State.nextOfPath (s : State) (p : MeshPkt) : Bool := s.mesh.find? (fun q => q.samePath p) == some p

/-- Whether answer a is the next of its path: an answer of an edge has none before it but those of its own address (log 117). -/
def State.nextAnswer (s : State) (a : MeshPkt) : Bool :=
  a.src == a.dest || s.answers.find? (fun q => q.src == a.src && q.dest == a.dest) == some a

/-! ## Circuits (R53) -/

/-- Whether a circuit of the image owns a slot of a link (R53). -/
def State.ownsSlot (s : State) (c : Config.MeshCircuit) (link : Nat × Nat) (slot : Nat) : Bool :=
  s.cfg.active.meshCircuits.contains c && (nfld c.slots.toNat (slot % 16) 1 == 1) && (circuitLinks c).contains link

/-- Whether a packet is a circuit's flits: one of CLASS 3 whose tile has a circuit (R53, R91). -/
def State.onCircuit (s : State) (p : MeshPkt) : Bool := p.cls == 3 && p.edge.isNone && p.op != 2 && (s.circuitOf p.src).isSome

/-- The packet that a link carries next of those that wait for it, each with the cycles that it has waited: that of the circuit that owns the
slot, before all others, and in a slot that no circuit uses the packets by class, one that has waited 256 cycles before a higher class
(R52, R53). A circuit's packet takes no slot that the circuit does not own. -/
def State.meshNext {α : Type} (s : State) (link : Nat × Nat) (slot : Nat) (l : List (α × MeshPkt × Nat)) : Option α :=
  match l.find? (fun w => s.onCircuit w.2.1 && (match s.circuitOf w.2.1.src with | some c => s.ownsSlot c link slot | none => false)) with
  | some w => some w.1
  | none => (nextByClass (fun w : α × MeshPkt × Nat => w.2.1.cls) (fun _ => false) (fun w => decide (256 ≤ w.2.2))
      (l.filter (fun w => !s.onCircuit w.2.1))).map (·.1)

/-! ## The flits of a packet at a link -/

/-- The flits of one kind of traffic that wait in the buffer beyond a link (R52). -/
def heldAfter (l : List MeshPkt) (link : Nat × Nat) : Nat :=
  l.foldl (fun n p => match p.hopAt link with
    | some (h, i) => (match p.way[i + 1]? with | some g => n + (h.moved - g.moved) | none => n)
    | none => n) 0

/-- Flits that an input port's buffer of one kind of traffic holds (R52). -/
def bufFlits : Nat := 8

/-- Whether tile t has accepted a header more than have entered its local port (R104). -/
def State.spareHdr (s : State) (t : Nat) : Bool := decide ((s.mesh.filter (fun p => p.dest == t && p.headIn)).length < (s.tile t).hdrs)

/-- Whether the header of p may enter its tile's local port: the tile has accepted it, or can (R104). -/
def State.hdrMay (s : State) (p : MeshPkt) : Bool :=
  !s.tileFrozen p.dest && (s.spareHdr p.dest || decide ((s.tile p.dest).trig.length + (s.tile p.dest).hdrs < 16))

/-- Whether a flit of packet p, the n-th of traffic l, can cross a link in this cycle: it has come, the buffer beyond has room (R52), no packet
of its path is before it, and a trigger header is accepted (R104). -/
def State.canCross (s : State) (l : List MeshPkt) (p : MeshPkt) (n : Nat) (link : Nat × Nat) : Bool :=
  match p.hopAt link with
  | none => false
  | some (h, i) =>
    decide (h.moved < p.come i) && (decide (i + 1 = p.way.length) || decide (heldAfter l link < bufFlits))
      && !(l.take n).any (fun q => q.samePath p && (match q.hopAt link with | some (g, _) => decide (g.moved < q.flits) | none => false))
      && !(p.headAt && decide (i + 2 = p.way.length) && h.moved == 0 && !s.hdrMay p)

/-- The packets of one kind of traffic of which a flit can cross a link, each by its place with the cycles that it has waited there. -/
def State.crossers (s : State) (reply : Bool) (l : List MeshPkt) (link : Nat × Nat) : List ((Bool × Nat) × MeshPkt × Nat) :=
  (l.zipIdx.filter (fun p => s.canCross l p.1 p.2 link)).map (fun p => ((reply, p.2), p.1, ((p.1.hopAt link).map (·.1.waited)).getD 0))

/-- The packet whose flit crosses a link in this cycle: of equals a reply goes before a request (log 117). -/
def State.crosses (s : State) (link : Nat × Nat) : Option (Bool × Nat) :=
  s.meshNext link s.meshTc (s.crossers true s.answers link ++ s.crossers false s.mesh link)

/-- The links still to cross, of a packet of n flits, with the one that its last flit has crossed: none once all have crossed the last. -/
def shed (n : Nat) : List Hop → List Hop
  | [] => []
  | h :: r => match r with
    | [] => if h.moved = n then [] else [h]
    | g :: _ => if g.moved = n then shed n r else h :: r

/-! ## A mesh cycle -/

/-- A packet of KIND 1 or 2 reaches its edge (R51): a tile's read of its own or of the FEAT_ registers takes the value there (R530). -/
def State.meshExit (s : State) (p : MeshPkt) : State :=
  if p.kind = 2 ∧ gaModule p.addr = s.moduleId ∧ gaSpace p.addr = 3 then
    s.answer p.src p.tag (toFlits (lineBytes (regLine (s.ownReg p.src) (gaOff p.addr)))) none
  else s.atEdge p (match p.word with | some w => .tilePosted p.src w | none => .tile p.src p.tag) p.trigger

/-- One mesh cycle (R50 to R54): over every link that a flit can cross one flit crosses, a trigger header is accepted as it enters, and packets
that have come to their edge leave the mesh. -/
def State.meshCycle (s : State) : State :=
  let links := ((s.mesh ++ s.answers).flatMap (fun p => (p.way.zipIdx.filter (fun h => decide (h.1.moved < p.come h.2))).map (·.1.link))).eraseDups
  let won := links.filterMap (fun k => (s.crosses k).map (fun w => (w, k)))
  let on := fun (reply : Bool) (l : List MeshPkt) =>
    l.zipIdx.map (fun p =>
      let q := p.1.moveOn ((won.filter (fun w => w.1 == (reply, p.2))).map (·.2))
      { q with way := shed q.flits q.way })
  let mesh := on false s.mesh
  let heads := ((s.mesh.zip mesh).filter (fun p => p.1.headAt && p.2.headIn)).map (fun p => p.1.dest)
  let s := heads.foldl (fun s t => if s.spareHdr t then s else s.updTile t (fun x => { x with hdrs := x.hdrs + 1 })) s
  let out := fun (p : MeshPkt) => (p.kind == 1 || p.kind == 2) && p.way.isEmpty
  (mesh.filter out).foldl State.meshExit
    { s with mesh := mesh.filter (fun p => !out p), answers := on true s.answers, meshTc := (s.meshTc + 1) % 16 }

end Sys2Proof.Machine
end

