-- ==== Sys2Proof/Machine/TileEvents.lean ====
section
/-! DEFINITION. The commands of the tile family: the control word, waits and halts (R98 to R105), counter sets and the count tree
(R58 to R60), packets and answers (R56, R82, R104), the local store's scrubber (R46, R47), tile start (R100) and the tile's own
register writes (R70). A command whose premise does not hold changes nothing (log 7). -/

namespace Sys2Proof.Machine

/-! ## Stopping -/

/-- Tile t stops without waiting for its units (R70, R282, R480): open groups close short (R154), results in flight land, requests not yet
sent are dropped, a drain and open packets end unfinished, and the sets are sent. A tile in FAULT or HALTED is left as it is. The groups
count in the set that the tile's present word names, the flits that an open packet holds are not sent, and the groups of an open block wait on
without BLOCK_OPEN until the tile's next start drops them (DESIGN CHOICE, log 116). -/
def State.stopTile (s : State) (t : Nat) : State :=
  let x := s.tile t
  if x.st = .halted ∨ x.st = .fault then s
  else
    let s := (s.closeShort t (wCset x.cur)).landAll t
    let s := s.updTile t (fun x =>
      { x with drain := none, gens := x.gens.map (fun p => (p.1, { p.2 with pkt := none })), kloop := none, kend := none, took := none,
               part := none, lost := false, sendQ := [],
               gatherLeft := x.sendQ.foldl (fun m p => match p.kind with
                 | .gather vd _ _ => aset 0 m vd (aget 0 m vd - 1)
                 | _ => m) x.gatherLeft })
    s.enterHalted t

/-! ## The control word and its events -/

/-- CONTROL_WORD: one tile cycle (R94). -/
def execControlWord (tile : Nat) (u : Upset) (s : State) : Host.Outcome State Fault Refusal := done s (s.tileCycle tile u)

/-- Whether the tile is in a wait that a beat ends and its armed beat has come (R102, R103). -/
def State.beatDue (s : State) (t : Nat) : Bool :=
  let x := s.tile t
  (x.st == .waitBeat || x.st == .waitEither) && (match x.armed with | some b => decide (b.toNat ≤ s.beat.toNat) | none => false)

/-- WAIT_BEAT_END: the armed beat has arrived; the word's other fields act (R102, R103). -/
def execWaitBeatEnd (tile : Nat) (s : State) : Host.Outcome State Fault Refusal :=
  if s.tileRuns tile ∧ s.beatDue tile then done s (s.waitCycle tile {}) else done s s

/-- WAIT_TRIGGER_TAKEN: the oldest accepted index is removed, and the tile continues at its entry in the next cycle, or faults (R102,
R105). Where the armed beat of a kind-2 wait has arrived, the beat ends the wait and the trigger stays queued. -/
def execWaitTriggerTaken (tile : Nat) (s : State) : Host.Outcome State Fault Refusal :=
  let x := s.tile tile
  match acceptedTrig (wTrigMask x.cur) x.trig with
  | none => done s s
  | some p =>
    if s.tileRuns tile ∧ (x.st = .waitTrigger ∨ x.st = .waitEither) ∧ !s.beatDue tile ∧ x.took = none then
      let s1 := s.takeTrig tile x.cur p
      done s (if entryValid (x.entry p.1) then s1.waitCycle tile {} else s1)
    else done s s

/-- WAIT_COUNTER_END: the tested counter is zero (R102). -/
def execWaitCounterEnd (tile : Nat) (s : State) : Host.Outcome State Fault Refusal :=
  let x := s.tile tile
  if s.tileRuns tile ∧ x.st = .waitCounter ∧ x.counter (wSeqSel x.cur) = 0 then done s (s.waitCycle tile {}) else done s s

/-- HALT: every unit being idle, the tile's HALT word acts (R98). -/
def execHalt (tile : Nat) (s : State) : Host.Outcome State Fault Refusal :=
  let x := s.tile tile
  if s.tileRuns tile ∧ !x.waiting ∧ x.kend = none ∧ wSeqOp x.cur = 7 ∧ x.idle then done s (s.tileCycle tile {}) else done s s

/-- COUNT_SUM_PACKET: a node adds a count-sum packet into its own bound set; a node that has sent its set passes it on (R59). -/
def execCountSumPacket (p : MeshPkt) (s : State) : Host.Outcome State Fault Refusal :=
  if p.kind = 3 ∧ p.way = [] ∧ s.nextOfPath p ∧ !s.tileFrozen p.dest then
    let s1 := { s with mesh := s.mesh.erase p }
    let n := p.addr.toNat % 4
    let v := (p.payload.headD 0).toNat
    let x := s1.tile p.dest
    let c := x.cset n
    if c.bound && c.tag == p.tag then
      let c' := { c with sat := cap32 c.sat (nfld v 0 32), flush := cap32 c.flush (nfld v 32 32),
                         replay := cap32 c.replay (nfld v 64 32), nan := cap32 c.nan (nfld v 96 32) }
      done s (s1.setTile p.dest { x with sets := aset {} x.sets n c' })
    else done s (s1.sendCounts p.dest p.tag n (p.payload.headD 0))
  else done s s

/-- DRAIN_COMPLETE: the tile cycle in which the drain makes its last write, granted its bank pair (R37, R44): its packet closes where its
word named PKT_CLOSE, and its generator is released (R86). -/
def execDrainComplete (tile : Nat) (s : State) : Host.Outcome State Fault Refusal :=
  match (s.tile tile).drain with
  | none => done s s
  | some d =>
    let t := s.tileCycle tile {}
    if d.out.length ≤ 1 ∧ (t.tile tile).drain = none then done s t else done s s

/-! ## Answers and packets -/

/-- The lane cause of an answer that brings no data, or not all of it (R197, R349). -/
def answerCause (a : MeshPkt) : Nat := match a.err with | some c => dropLane c | none => lcLs
/-- The flits that the local port of a tile writes take their bank pairs one a tc, before the generators (R44). A tile that is HALTED or in
FAULT has no generator that they delay. -/
def Tile.portWrite (x : Tile) (addrs : List Nat) : Tile :=
  if x.st = .halted ∨ x.st = .fault then x else { x with port := x.port ++ addrs.map bankPair }

/-- ANSWER_LANDING: an answer to a counted request lands and frees its count; COUNT_REPLY decrements for a read (R82, R193, R199). -/
def State.landAnswer (s : State) (a : MeshPkt) : State :=
  let t := a.dest
  let x := s.tile t
  match x.reqs.find? (fun r => r.tag == a.tag) with
  | none => s
  | some r =>
    let bytes := payloadBytes a.payload
    let isRead := match r.kind with | .scatter _ => false | _ => true
    let cnts := if isRead then
        x.replyOf.foldl (fun m p => if p.2 = r.ag then aset 0 m p.1 (aget 0 m p.1 - (if aget 0 m p.1 = 0 then 0 else 1)) else m) x.cnts
      else x.cnts
    let s := s.setTile t { x with reqs := eraseFirst (fun q => q.tag == a.tag) x.reqs, cnts := cnts }
    match r.kind with
    | .deposit addr =>
      let bad := a.err.isSome || !a.lost.isEmpty
      let bs := if bad then List.replicate 64 0#8 else bytes
      let s := (s.writeLs t (bs.zipIdx.map (fun p => (addr + p.2, p.1)))).updTile t (fun x => x.portWrite (tab 4 (fun i => addr + 16 * i)))
      if bad then s.laneFault t r.word 0 (answerCause a) else s
    | .gather vd wd els =>
      let lost := fun (o : Nat) => a.err.isSome || a.lost.contains (o / 8)
      let s := s.updTile t (fun x =>
        let reg := els.foldl (fun v p => setElem v wd p.1 (if lost p.2 then 0 else (ofLe ((bytes.drop p.2).take wd)))) (x.vreg vd)
        let left := aget 0 x.gatherLeft vd - 1
        let x := { x.setVreg vd reg with gatherLeft := aset 0 x.gatherLeft vd left }
        if left = 0 then x.vregAt vd (x.tc + 2) else x)
      let bad := els.filter (fun p => lost p.2)
      if bad.isEmpty then s else s.laneFault t r.word (bad.foldl (fun m p => m ||| 2 ^ p.1) 0) (answerCause a)
    | .scatter e =>
      match a.err with | none => s | some c => s.laneFault t r.word (2 ^ e) (dropLane c)

/-- ANSWER_LANDING: the answer, all of whose flits have come to its tile's local port in the order of its path, lands (R82, R91). -/
def execAnswerLanding (a : MeshPkt) (s : State) : Host.Outcome State Fault Refusal :=
  if s.answers.contains a ∧ a.way = [] ∧ s.nextAnswer a ∧ !s.tileFrozen a.dest then done s (({ s with answers := s.answers.erase a }).landAnswer a) else done s s

/-- A KIND 0 write packet is deposited; a trigger index is queued after its last flit (R56, R104). Its flits take their bank pairs one a tc
(R44). -/
def State.deposit (s : State) (p : MeshPkt) : State :=
  let base := p.lsAddr * 16
  let bs := ((payloadBytes p.payload).zipIdx.map (fun q => (base + q.2, q.1))).filter (fun q => decide (q.1 < Config.lsBytes))
  let s := (s.writeLs p.dest bs).updTile p.dest (fun x => x.portWrite (tab p.payload.length (fun i => base + 16 * i)))
  if p.trigger = 0 then s
  else (s.updTile p.dest (fun x => { x with trig := x.trig ++ [p.trigger], hdrs := x.hdrs - 1 })).unschedWake (regionOf p.dest)

/-- The 64 bytes of a tile's local store that a read request asks for, the 64-bit words that a double-bit error has lost, and the error
records (R46, R65, R197): `element` where the request is a gather's (R482). -/
def State.lsReadLine (s : State) (t a : Nat) (element : Bool := false) : Line × List Nat × State :=
  let (v0, e0, f0, s) := s.lsRead128 t a element
  let (v1, e1, f1, s) := s.lsRead128 t (a + 16) element
  let (v2, e2, f2, s) := s.lsRead128 t (a + 32) element
  let (v3, e3, f3, s) := s.lsRead128 t (a + 48) element
  let lost := ([e0, f0, e1, f1, e2, f2, e3, f3].zipIdx.filter (·.1)).map (·.2)
  (BitVec.ofNat 512 (v0 + v1 * 2 ^ 128 + v2 * 2 ^ 256 + v3 * 2 ^ 384), lost, s)

/-- TRIGGER_HEADER_ACCEPT: the local port accepts a header with a trigger while queued and accepted ones number below 16 (R104). -/
def execTriggerHeaderAccept (tile : Nat) (s : State) : Host.Outcome State Fault Refusal :=
  let x := s.tile tile
  let waits := s.mesh.filter (fun p => p.dest == tile && (p.headAt || p.headIn))
  if x.trig.length + x.hdrs < 16 ∧ x.hdrs < waits.length ∧ !s.tileFrozen tile then done s (s.setTile tile { x with hdrs := x.hdrs + 1 }) else done s s

/-! ## Local-store errors and the scrubber -/

/-- LS_ECC_WRITEBACK: a word corrected on read is written back (R46). -/
def execLsEccWriteback (tile word : Nat) (s : State) : Host.Outcome State Fault Refusal :=
  match s.lsMark tile word with
  | .single _ => done s (s.setLsMark tile word .good)
  | _ => done s s

/-- Words of a local store. -/
def lsWords : Nat := 6144

/-- The scrubber reads its next word: it corrects a single-bit error, and poisons and reports a double-bit one once (R47). -/
def State.scrubLs (s : State) (t : Nat) (e : Ecc) : State :=
  let w := (s.tile t).scrub
  let s := s.lsUpset t (some (w, e))
  let s := s.updTile t (fun x => { x with scrub := (w + 1) % lsWords })
  match s.lsMark t w with
  | .single _ => (s.setLsMark t w .good).updTile t (fun x => { x with eccCorr := satTo 0xFFFF x.eccCorr 1, eccWord := w })
  | .double _ _ =>
    ((s.setLsMark t w .poison).updTile t (fun x => { x with eccUnc := true, eccWord := w })).tileNote t .lsUncorrectable w
  | _ => s

/-- LS_SCRUB_READ (R47). -/
def execLsScrubRead (tile : Nat) (e : Ecc) (s : State) : Host.Outcome State Fault Refusal := done s (s.scrubLs tile e)

/-- LS_SCRUB_FORCED_CYCLE, `waited` tc after the scrubber's last read: once 255 have passed without an idle cycle of its word's bank pair,
the scrubber takes the tc from every other requester of the pair: an access of the tile's word or one under way waits one tc, which counts
in BANK_STALLS, and so does a flit of the local port (R44, R47). -/
def execLsScrubForcedCycle (tile : Nat) (e : Ecc) (waited : Nat) (s : State) : Host.Outcome State Fault Refusal :=
  if waited < 255 then done s s
  else
    let p := bankPair (8 * (s.tile tile).scrub)
    let s1 := s.scrubLs tile e
    done s (if s.tileRuns tile then s1.updTile tile (fun x => { x with scrubPair := some p }) else s1)

/-! ## Start, binding, waking -/

/-- TILE_START (R100). -/
def execTileStart (tile slot : Nat) (s : State) : Host.Outcome State Fault Refusal := done s (s.startTile tile slot)

/-- COUNTER_SET_BIND: the set is bound to the operation's tag and cleared; while its last sum is unsent, it waits (R58). -/
def execCounterSetBind (tile set tag : Nat) (s : State) : Host.Outcome State Fault Refusal :=
  done s (s.updTile tile (fun x => x.bindSet (set % 4) (tag % 65536)))

/-- REGION_WAKE_COMPLETE: the region reaches RUN with its PLL locked, and tiles that were started begin fetch (R61, R63). -/
def execRegionWakeComplete (region : Nat) (s : State) : Host.Outcome State Fault Refusal :=
  if (s.region region).st = 3 then
    let s1 := s.updRegion region (fun g => { g with st := 0, lock := true, fromOff := false })
    done s { s1 with tiles := s1.tiles.map (fun p => if regionOf p.1 = region then (p.1, { p.2 with startPend := false }) else p) }
  else done s s

/-- TILE_CTRL_HALT (R70). -/
def execTileCtrlHalt (tile : Nat) (s : State) : Host.Outcome State Fault Refusal := done s (s.stopTile tile)

/-- CLR_STALL (R70). -/
def State.clrStall (s : State) (tile : Nat) : State := s.updTile tile (fun x => { x with bankStalls := 0, unitStalls := 0 })

/-- CLR_STALL (R70). -/
def execClrStall (tile : Nat) (s : State) : Host.Outcome State Fault Refusal := done s (s.clrStall tile)

end Sys2Proof.Machine
end

