-- ==== Sys2Proof/Machine/Fabric.lean ====
section
/-! DEFINITION. The Gwynto fabric (chapter 11): cells and link retry (R325 to R331), port states (R332 to R335), headers and
routing (R340 to R352, R569), requests at their destination (R342 to R346), tags (R348), drain and tables (R353, R354), circuits
(R355 to R357) and congestion (R359, R360). A command whose premise does not hold changes nothing (log 7). -/

namespace Sys2Proof.Machine

/-! ## Headers (R340) -/

/-- Code of an OP. -/
def opCode : FabOp → Nat
  | .read => 0 | .write => 1 | .atomic => 2 | .reduceAdd => 3 | .circuitData => 4 | .drainMarker => 5 | .haltMarker => 6
  | .readReply => 7 | .ack => 8 | .errorReply => 9 | .control => 10 | .reserved c => c
/-- OP of a code. -/
def opOf : Nat → FabOp
  | 0 => .read | 1 => .write | 2 => .atomic | 3 => .reduceAdd | 4 => .circuitData | 5 => .drainMarker | 6 => .haltMarker
  | 7 => .readReply | 8 => .ack | 9 => .errorReply | 10 => .control | c => .reserved c

/-- Bit of a Bool. -/
def b1 (b : Bool) : Nat := if b then 1 else 0

/-- The 256 bits of a packet's header (R340). -/
def hdrBits (p : FabPkt) : Nat :=
  opCode p.op + p.cls * 2 ^ 4 + b1 p.cmark * 2 ^ 6 + b1 p.echo * 2 ^ 7 + p.dest * 2 ^ 8 + p.src * 2 ^ 22 + p.srcTile * 2 ^ 36
    + b1 p.srcEngine * 2 ^ 56 + p.tag * 2 ^ 57 + p.trigger * 2 ^ 74 + p.aop * 2 ^ 78 + p.aw * 2 ^ 82 + p.rfmt * 2 ^ 84
    + p.payload.length * 2 ^ 86 + p.hops * 2 ^ 91 + p.circuit * 2 ^ 93 + p.beat * 2 ^ 104 + p.addr.toNat * 2 ^ 128
    + p.stepLo.toNat * 2 ^ 192 + p.epoch.toNat * 2 ^ 224 + p.slice.toNat * 2 ^ 240

/-- The packet whose header bits and payload bytes are given. -/
def pktOf (h : Nat) (rest : List Byte) : FabPkt :=
  let f := fun lo len => nfld h lo len
  { op := opOf (f 0 4), cls := f 4 2, cmark := f 6 1 == 1, echo := f 7 1 == 1, dest := f 8 14, src := f 22 14, srcTile := f 36 20,
    srcEngine := f 56 1 == 1, tag := f 57 17, trigger := f 74 4, aop := f 78 4, aw := f 82 2, rfmt := f 84 2, hops := f 91 2,
    circuit := f 93 8, beat := f 104 24, addr := BitVec.ofNat 64 (f 128 64), stepLo := BitVec.ofNat 32 (f 192 32),
    epoch := BitVec.ofNat 16 (f 224 16), slice := BitVec.ofNat 16 (f 240 16), payload := toFlits (rest.take (16 * f 86 5)) }

/-- Cells that a packet occupies (R326). -/
def pktCells (p : FabPkt) : Nat := (32 + 16 * p.payload.length + 63) / 64

/-- The bodies of a packet: header, payload, zero padding (R326). -/
def pktBodies (p : FabPkt) : List Line := (chunks 64 (pktCells p) (leBytes 32 (hdrBits p) ++ payloadBytes p.payload)).map bytesLine

/-- Whether an OP is an answer. -/
def isAnswer : FabOp → Bool
  | .readReply => true | .ack => true | .errorReply => true | _ => false

/-- The VC of a packet on link h = HOPS (R330). -/
def vcOf (p : FabPkt) : Nat := (if isAnswer p.op then 3 else 0) + (p.hops - 1)

/-! ## Drops (R349, R367) -/

/-- The first drop since rearming is recorded; every drop counts (R367). -/
def State.recordDrop (s : State) (port : Nat) (p : FabPkt) (c : DropCause) : State :=
  let f := s.fab
  let first := !bitOf f.drop0 0
  { s with fab := { f with
      drop0 := if first then BitVec.ofNat 64 (1 + dropCode c * 2 + port * 2 ^ 5 + p.src * 2 ^ 11 + p.dest * 2 ^ 25 + opCode p.op * 2 ^ 39) else f.drop0
      drop1 := if first then p.addr else f.drop1
      drop2 := addFld (if first then setFld f.drop2 32 32 s.beat.toNat else f.drop2) 0 32 1 } }

/-- A packet is dropped: recorded, and a request is answered with the cause; a request of this module's own is answered at its own
edge (R349). -/
def State.dropPkt (s : State) (port : Nat) (p : FabPkt) (c : DropCause) : State :=
  let s := s.recordDrop port p c
  if !isRequest p.op then s
  else if p.src = s.moduleId then
    { s with fab := { s.fab with delivered := s.fab.delivered ++ [{ p with op := .errorReply, payload := [], aop := dropCode c }] } }
  else s.replyFab p [] (some c)

/-! ## Port states -/

/-- FAB_STATUS bit i set to b. -/
def State.fabBit (s : State) (i : Nat) (b : Bool) : State := { s with fab := { s.fab with status := setBit s.fab.status i b } }

/-- A port's link state at its start. -/
def Port.freshLink (p : Port) : Port :=
  { p with txSeq := 0, rxSeq := 0, retry := [], resend := [], nakSent := none, nakSeq := 0, nakRun := 0, sendNak := false,
           credits := [], cirUsed := [], freed := [], queue := [], cirQueue := [], halts := [], flight := [], cirFlight := [],
           rx := [], markersOut := [], matched := false, okGot := false }

/-- A port leaves UP: every packet queued for it or not yet acknowledged whole is dropped, and outside JOINING LINK_DOWN is raised (R334).
A packet that has begun is there until its last cell is acknowledged. -/
def State.linkDrop (s : State) (port : Nat) : State :=
  let x := s.port port
  let begun := (x.retry ++ x.flight ++ x.cirFlight.flatMap (fun e => e.2)).filter (fun c => c.last)
  let ps := begun.map (fun c => c.pkt) ++ x.halts ++ x.queue.map (fun i => i.pkt) ++ x.cirQueue
  let s := s.updPort port Port.freshLink
  let s := ps.foldl (fun s p => s.dropPkt p.inPort p .linkDown) s
  if s.outside then s.fault .linkDown .port port else s

/-- A port leaves its state for another one. -/
def State.portTo (s : State) (port st reason : Nat) : State :=
  let s := if (s.port port).st = 3 then s.linkDrop port else s
  s.updPort port (fun p => { p.freshLink with st := st, reason := reason })

/-- A DOWN port with ENABLE 1 and a signal trains (R332). -/
def State.tryTrain (s : State) (port : Nat) : State :=
  let p := s.port port
  if p.st = 0 ∧ p.enable ∧ p.signal then s.portTo port 1 0 else s

/-- A matched port that has its peer's IDENT_OK enters UP; while FAB_P_PEER.VALID is 0, or the module has no MODULE_ID, it waits (R333). -/
def State.tryUp (s : State) (port : Nat) : State :=
  let p := s.port port
  if p.st = 2 ∧ p.matched ∧ p.okGot ∧ bitOf p.peer 20 ∧ s.moduleId ≠ 0x3FFF then s.updPort port (fun p => { p.freshLink with st := 3, reason := 0 }) else s

/-- An agent whose PORT is disabled, or whose neighbour there is not ROOT, is in NO_ROOT (R275). -/
def State.rootLost (s : State) (port : Nat) : State := if s.hsPort = port then s.noRoot else s

/-- The received IDENT is compared with FAB_P_PEER (R333). -/
def State.checkPeer (s : State) (port : Nat) : State :=
  let p := s.port port
  if p.st ≠ 2 ∨ !bitOf p.ident 34 ∨ !bitOf p.peer 20 ∨ s.moduleId = 0x3FFF then s
  else if fld p.ident 0 20 = fld p.peer 0 20 then
    (s.updPort port (fun p => { p with matched := true, ctl := p.ctl ++ [.identOk] })).tryUp port
  else (s.portTo port 4 3).rootLost port

/-- An IDENT message is received (R333, R368). -/
def State.gotIdent (s : State) (port module peerPort rack slot : Nat) : State :=
  if (s.port port).st ≠ 2 then s
  else
    let v := module % 2 ^ 14 + peerPort % 64 * 2 ^ 14 + rack % 512 * 2 ^ 20 + slot % 32 * 2 ^ 29 + 2 ^ 34
    (s.updPort port (fun p => { p with ident := BitVec.ofNat 64 v })).checkPeer port

/-- IDENT_OK is received (R333). -/
def State.gotIdentOk (s : State) (port : Nat) : State :=
  if (s.port port).st ≠ 2 then s else (s.updPort port (fun p => { p with okGot := true })).tryUp port

/-- The IDENT message of a port, with the FAB_ID of the present (R333). -/
def State.ownIdent (s : State) (port : Nat) : CtlBlock := .ident s.moduleId port (fld s.fab.id 14 9) (fld s.fab.id 23 5)

/-- PORT_TRAINING_END (R332). -/
def execPortTrainingEnd (port : Nat) (ok : Bool) (s : State) : Host.Outcome State Fault Refusal :=
  if (s.port port).st ≠ 1 then done s s
  else if ok then
    done s ((s.portTo port 2 0).updPort port (fun p =>
      { p with ctl := p.ctl ++ [s.ownIdent port] }))
  else done s (s.portTo port 0 2)

/-- IDENT (R333). -/
def execIdent (port module peerPort rack slot : Nat) (s : State) : Host.Outcome State Fault Refusal :=
  done s (s.gotIdent port module peerPort rack slot)
/-- IDENT_OK (R333). -/
def execIdentOk (port : Nat) (s : State) : Host.Outcome State Fault Refusal := done s (s.gotIdentOk port)

/-- LINK_DOWN: a port leaves UP (R334). -/
def execLinkDown (port : Nat) (s : State) : Host.Outcome State Fault Refusal :=
  if (s.port port).st = 3 then done s (s.portTo port 0 (s.port port).reason) else done s s

/-- A write of ENABLE 0 acts: DOWN with reason HOST (R332, R368). -/
def State.portDisable (s : State) (port : Nat) : State :=
  ((s.portTo port 0 5).updPort port (fun p => { p with enable := false })).rootLost port
/-- ENABLE: the write of ENABLE 0 (R332). -/
def execEnable (port : Nat) (s : State) : Host.Outcome State Fault Refusal := done s (s.portDisable port)

/-- A write of RETRAIN acts (R332). -/
def State.portRetrain (s : State) (port : Nat) : State :=
  if (s.port port).st = 0 ∨ (s.port port).st = 4 then s.portTo port 1 0 else s
/-- RETRAIN (R332). -/
def execRetrain (port : Nat) (s : State) : Host.Outcome State Fault Refusal := done s (s.portRetrain port)

/-- A write of TEST_ENTER acts (R335). -/
def State.portTest (s : State) (port : Nat) : State :=
  let st := (s.port port).st
  if st = 0 ∨ st = 4 ∨ (st = 3 ∧ !s.outside) then
    (s.portTo port 5 0).updPort port (fun p =>
      { p with checkers := [], gens := [], genOut := [], prbsErr := p.prbsErr.foldl (fun m e => aset 0 m e.1 (setBit e.2 32 false)) [] })
  else s.fabBit 6 true
/-- TEST_ENTER_PORT (R335). -/
def execTestEnterPort (port : Nat) (s : State) : Host.Outcome State Fault Refusal := done s (s.portTest port)
/-- A write of TEST_EXIT acts (R332). -/
def State.portTestExit (s : State) (port : Nat) : State := if (s.port port).st = 5 then s.portTo port 1 0 else s
/-- TEST_EXIT_PORT (R332). -/
def execTestExitPort (port : Nat) (s : State) : Host.Outcome State Fault Refusal := done s (s.portTestExit port)

/-- A write of FAB_P_PEER acts: what was compared before counts no more (R332, R333, R365). -/
def State.portPeer (s : State) (port : Nat) (v : W64) : State :=
  let st := (s.port port).st
  if s.outside ∧ st ≠ 0 ∧ st ≠ 4 then s.fabBit 6 true
  else
    let s := s.updPort port (fun p => { p with peer := rw p.peer (maskOf 0 21) v, matched := false })
    if st = 4 then s.portTo port 1 0 else s.checkPeer port
/-- FAB_P_PEER_WRITE (R332). -/
def execFabPPeerWrite (port : Nat) (v : W64) (s : State) : Host.Outcome State Fault Refusal := done s (s.portPeer port v)

/-- SIGNAL_PRESENT: a signal appears, and a DOWN port with ENABLE 1 trains (R332, R334). -/
def execSignalPresent (port : Nat) (s : State) : Host.Outcome State Fault Refusal :=
  done s ((s.updPort port (fun p => { p with signal := true })).tryTrain port)

/-- NO_SIGNAL: silence of 1 us takes the port DOWN; without a signal no port leaves DOWN (R329, R332). -/
def execNoSignal (port : Nat) (s : State) : Host.Outcome State Fault Refusal :=
  let st := (s.port port).st
  let s1 := if st = 2 ∨ st = 3 then s.portTo port 0 1 else s
  done s (s1.updPort port (fun p => { p with signal := false }))

/-- One received bit at a lane's checker (R335): checker, whether it is locked, and the errors since lock (R368). -/
def prbsBit (w t : Nat) (c : Checker) (locked : Bool) (errs : Nat) (b : Bool) : Checker × Bool × Nat :=
  if c.hist.length < w then ({ c with hist := b :: c.hist }, locked, errs)
  else
    let want := (nth false c.hist (w - 1)) != (nth false c.hist (t - 1))
    if locked then ({ c with hist := (want :: c.hist).take w }, true, if want = b then errs else errs + 1)
    else
      let n := if want = b then c.agree + 1 else 0
      ({ hist := (b :: c.hist).take w, agree := n }, decide (1024 ≤ n), if 1024 ≤ n then 0 else errs)

/-- PRBS_PATTERN_RECEIVE (R335, R368). -/
def execPrbsPatternReceive (port lane : Nat) (bits : List Bool) (s : State) : Host.Outcome State Fault Refusal :=
  let p := s.port port
  if p.st = 5 ∧ bitOf p.prbs 12 ∧ lane < 8 ∧ bitOf p.prbs (3 + lane) ∧ fld p.prbs 0 3 < 5 then
    let (w, t) := prbsTaps (fld p.prbs 0 3)
    let e := aget (0 : W64) p.prbsErr lane
    let (c, l, n) := bits.foldl (fun (x : Checker × Bool × Nat) b => prbsBit w t x.1 x.2.1 x.2.2 b)
      (aget ({} : Checker) p.checkers lane, bitOf e 32, fld e 0 32)
    done s (s.updPort port (fun p => { p with checkers := aset {} p.checkers lane c,
                                              prbsErr := aset 0 p.prbsErr lane (setBit (setFld e 0 32 (min n (2 ^ 32 - 1))) 32 l) }))
  else done s s

/-! ## The link layer -/

/-- The 80 bytes of a cell (R325). -/
def cellBytes (c : Cell) : List Byte :=
  let b := leBytes 1 (c.type % 16 + c.vc % 8 * 16) ++ leBytes 2 (c.seq % 4096) ++ leBytes 1 c.circuit ++ lineBytes c.body
    ++ leBytes 2 (c.ack % 4096 + b1 c.nak * 4096) ++ tab 6 (fun v => BitVec.ofNat 8 (nth 0 c.credits v))
  b ++ leBytes 4 (crc32 b).toNat

/-- The cell that 80 bytes hold (R325). -/
def cellOf (bs : List Byte) : Cell :=
  let at_ := fun o n => ofLe ((bs.drop o).take n)
  { type := at_ 0 1 % 16, vc := at_ 0 1 / 16 % 8, seq := at_ 1 2 % 4096, circuit := at_ 3 1, body := bytesLine ((bs.drop 4).take 64)
    ack := at_ 68 2 % 4096, nak := at_ 68 2 / 4096 % 2 == 1, credits := tab 6 (fun v => at_ (70 + v) 1) }

/-- Whether a received cell's CRC checks (R325). -/
def cellCrcOk (bs : List Byte) : Bool := bs.length == 80 && ofLe (bs.drop 76) == (crc32 (bs.take 76)).toNat

/-- Whether a cell's TYPE and VC are ones that R325 gives: one of a reserved TYPE is discarded as one out of sequence is, and is not counted
in CRC_ERRORS (DESIGN CHOICE, log 112). -/
def cellKnown (c : Cell) : Bool := decide (c.type < 4) && (c.type != 1 || decide (c.vc < 6))

/-- Cells of a packet, from the LEN of the header in its first body (R326, R340). -/
def cellsNeeded (body : Line) : Nat := (32 + 16 * nfld body.toNat 86 5 + 63) / 64

/-- The retry buffer from sequence number `seq` on: the cells before it have arrived. A number that the buffer does not reach changes
nothing (R328). -/
def ackTx (l : List Tx) (seq : Nat) : List Tx :=
  let k := (seq + 4096 - (match l with | [] => seq | x :: _ => x.cell.seq)) % 4096
  if k ≤ l.length then l.drop k else l

/-- A packet whose cells are complete comes to the switch. -/
def State.cellsDone (s : State) (port : Nat) (bodies : List Line) : State :=
  let bs := bodies.flatMap lineBytes
  let p := pktOf (ofLe (bs.take 32)) (bs.drop 32)
  { s with fab := { s.fab with switchQ := s.fab.switchQ ++ [(port, p)] } }

/-- RETRY_LIMIT; 0 acts as 1 (R366). -/
def State.retryLimit (s : State) : Nat := max 1 (fld s.fab.txnCfg 16 4)

/-- A NAK is received: the sender resends from the named cell onward; RETRY_LIMIT consecutive NAKs for one number take the port DOWN
(R328, R329). -/
def State.gotNak (s : State) (port seq : Nat) : State :=
  let x := s.port port
  let run := if x.nakRun ≠ 0 ∧ x.nakSeq = seq then x.nakRun + 1 else 1
  if run ≥ s.retryLimit then (s.updPort port (fun p => { p with link := addFld p.link 16 16 1 })).portTo port 0 4
  else s.updPort port (fun p => { p with nakSeq := seq, nakRun := run, link := addFld p.link 16 16 1, resend := ackTx p.retry seq })

/-- NAK (R328, R329). -/
def execNak (port seq : Nat) (s : State) : Host.Outcome State Fault Refusal :=
  if (s.port port).st ≠ 3 then done s s else done s (s.gotNak port seq)

/-- Symbol errors that a codeword's FEC corrects at most (R324). -/
def fecLimit : Nat := 15

/-- The outcomes of codewords in FAB_P_FEC: their symbol errors corrected, or one that cannot be corrected (R324, R328, R368). -/
def Port.fecCount (p : Port) (symErrs : List Nat) : Port :=
  symErrs.foldl (fun p e => { p with fec := if e ≤ fecLimit then addFld p.fec 0 32 e else addFld p.fec 32 32 1 }) p

/-- A cell that is not accepted is discarded, with one NAK for the expected number (R328). -/
def Port.nakOnce (p : Port) : Port :=
  if p.nakSent = some p.rxSeq then p else { p with nakSent := some p.rxSeq, sendNak := true, link := addFld p.link 0 16 1 }

/-- A received cell's acknowledgement and credits (R328, R330). -/
def Port.report (p : Port) (c : Cell) : Port :=
  let retry := ackTx p.retry c.ack
  { p with retry := retry, resend := p.resend.filter (fun x => retry.contains x)
           credits := (c.credits.zipIdx).foldl (fun m v => aset 0 m v.2 (aget 0 m v.2 - v.1)) p.credits }

/-- A cell in sequence is accepted: a HALT cell is a packet, and other cells join those of their VC or circuit until their packet is
complete (R325, R326, R328). -/
def State.acceptCell (s : State) (port : Nat) (c : Cell) : State :=
  let s := s.updPort port (fun p => { p with rxSeq := (p.rxSeq + 1) % 4096, nakSent := none })
  if c.type = 3 then s.cellsDone port [c.body]
  else
    let key := if c.type = 2 then 6 + c.circuit else c.vc
    let bodies := aget [] (s.port port).rx key ++ [c.body]
    if cellsNeeded (bodies.headD 0) ≤ bodies.length then (s.updPort port (fun p => { p with rx := aset [] p.rx key [] })).cellsDone port bodies
    else s.updPort port (fun p => { p with rx := aset [] p.rx key bodies })

/-- LINK_CELL_RECEIVE: a cell of 80 bytes is accepted in sequence, or discarded with one NAK for the expected number; the NAK that it carries
names its ACK (R325, R328). `symErrs` are the symbol errors of each codeword that ends with the cell: where the FEC cannot correct one,
the cell fails its CRC. -/
def execLinkCellReceive (port : Nat) (bytes : List Byte) (symErrs : List Nat) (s : State) : Host.Outcome State Fault Refusal :=
  if (s.port port).st ≠ 3 then done s s
  else
    let s1 := s.updPort port (fun p => p.fecCount symErrs)
    let c := cellOf bytes
    if symErrs.any (fun e => decide (fecLimit < e)) || !cellCrcOk bytes then
      done s (s1.updPort port (fun p => { p with link := addFld p.link 32 16 1 }.nakOnce))
    else
      let s2 := s1.updPort port (fun p => p.report c)
      let s3 := if c.nak then s2.gotNak port c.ack else s2
      if (s3.port port).st ≠ 3 ∨ (cellKnown c ∧ c.type = 0) then done s s3
      else if !cellKnown c ∨ c.seq ≠ (s3.port port).rxSeq then done s (s3.updPort port Port.nakOnce)
      else done s (s3.acceptCell port c)

/-- CONTROL_BLOCK_RECEIVE: a block whose CRC fails is discarded and counted (R327). An agent whose neighbour on PORT shows that it is not ROOT
enters NO_ROOT (R275; the block that shows it is a DESIGN CHOICE, log 115). -/
def execControlBlockReceive (port : Nat) (b : CtlBlock) (crcOk : Bool) (s : State) : Host.Outcome State Fault Refusal :=
  if !crcOk then done s (s.updPort port (fun p => { p with link := addFld p.link 32 16 1 }))
  else match b with
  | .ident m q r k => done s (s.gotIdent port m q r k)
  | .identOk => done s (s.gotIdentOk port)
  | .circuitCredit c n => done s (s.updPort port (fun p => { p with cirUsed := aset 0 p.cirUsed c (aget 0 p.cirUsed c - n) }))
  | .hairspring _ => done s s
  | .hsRoot root => done s (if root then s else s.rootLost port)
  | .training => done s s

/-! ## Circuits (R355 to R357) -/

/-- Word w of a circuit entry. -/
def cirWord (m : Assoc W64) (port c w : Nat) : W64 := aget 0 m (port * 1024 + c * 4 + w)
/-- Slots of a circuit entry. -/
def cirSlots (m : Assoc W64) (port c : Nat) : Nat := (cirWord m port c 1).toNat + (cirWord m port c 2).toNat * 2 ^ 64
/-- The valid entries (port, circuit) of a table. -/
def cirValid (m : Assoc W64) : List (Nat × Nat) :=
  (m.filter (fun e => e.1 % 4 == 0 && bitOf e.2 0)).map (fun e => (e.1 / 1024, e.1 % 1024 / 4))

/-- Whether two valid entries of one port share a slot while their windows overlap (R356). -/
def State.cirConflict (s : State) (m : Assoc W64) : Bool :=
  let es := cirValid m
  let win := fun (e : Nat × Nat) => (fld (cirWord m e.1 e.2 0) 32 16, fld (cirWord m e.1 e.2 0) 48 16)
  es.any (fun a => es.any (fun b =>
    a.1 == b.1 && decide (a.2 < b.2) && (BitVec.ofNat 128 (cirSlots m a.1 a.2) &&& BitVec.ofNat 128 (cirSlots m b.1 b.2)) != 0#128
      && (s.esc.periodCfg.toNat % 65536 == 0 || (decide ((win a).1 < (win b).2) && decide ((win b).1 < (win a).2)))))

/-- Whether a circuit entry's window holds the current beat; with P = 0 windows are ignored (R356). -/
def State.cirOpen (s : State) (port c : Nat) : Bool :=
  let w := cirWord s.fab.cir port c 0
  let o := s.beat.toNat - s.esc.start.toNat
  s.esc.periodCfg.toNat % 65536 == 0 || (decide (fld w 32 16 ≤ o) && decide (o < fld w 48 16))

/-- Whether a port holds cells of a circuit that its source has accepted: those of a packet that has begun, or of one in transit (R357). -/
def Port.accepted (p : Port) (c : Nat) : Bool :=
  !(aget [] p.cirFlight c).isEmpty || p.cirQueue.any (fun q => q.circuit == c && q.inPort != 63)

/-- The circuits that may send in slot j of a port: the one that owns it, by its window, before those whose window has ended with cells
already accepted (R356, R357). -/
def State.slotOwners (s : State) (port j : Nat) : List Nat :=
  let es := ((cirValid s.fab.cir).filter (fun e => e.1 == port && nfld (cirSlots s.fab.cir port e.2) j 1 == 1)).map (fun e => e.2)
  es.filter (s.cirOpen port) ++ es.filter (fun c => !s.cirOpen port c && (s.port port).accepted c)

/-! ## An output port's cell time (R331) -/

/-- The cells of a packet, not yet numbered. -/
def mkCells (type vc circuit : Nat) (p : FabPkt) : List Tx :=
  let bs := pktBodies p
  (bs.zipIdx).map (fun b =>
    { cell := { type := type, vc := vc, seq := 0, circuit := circuit, body := b.1, ack := 0, nak := false, credits := [] }
      pkt := p, last := b.2 + 1 == bs.length })

/-- Cells that a port's packet queues hold. -/
def Port.queued (p : Port) : Nat := p.flight.length + (p.queue.map (fun i => pktCells i.pkt)).foldl (· + ·) 0

/-- MARK_CELLS; 0 acts as 1. -/
def State.markCells (s : State) : Nat := max 1 (fld s.fab.ccCfg 0 12)

/-- A cell goes out with the receiver's report of at most 255 cells a VC (R325). -/
def Port.put (p : Port) (c : Cell) : Port :=
  { p with sent := p.sent ++ [{ c with ack := p.rxSeq, nak := p.sendNak, credits := tab 6 (fun v => min 255 (aget 0 p.freed v)) }]
           sendNak := false
           freed := (List.range 6).foldl (fun m v => aset 0 m v (aget 0 m v - 255)) p.freed }

/-- An IDLE cell. -/
def idleCell : Cell := { type := 0, vc := 0, seq := 0, circuit := 0, body := 0, ack := 0, nak := false, credits := [] }

/-- A cell takes its number, goes out and is kept for retry (R328). -/
def Port.emit (p : Port) (x : Tx) : Port :=
  let x := { x with cell := { x.cell with seq := p.txSeq } }
  { p.put x.cell with txSeq := (p.txSeq + 1) % 4096, retry := p.retry ++ [x] }

/-- The queued packet that starts next: one with a credit, in class order, replies first, CLASS 3 last, and one that has waited 4,096 cell
times before every packet of a higher class (R330, R331, log 112). -/
def Port.nextItem (p : Port) : Option PortItem :=
  nextByClass (fun i => i.pkt.cls) (fun i => isAnswer i.pkt.op) (fun i => decide (4096 ≤ i.age))
    (p.queue.filter (fun i => decide (aget 0 p.credits i.vc < 256)))

/-- Bits that a lane carries in a cell time (R324). -/
def laneBits : Nat := 85

/-- The pattern generators of a port in TEST run one cell time: 85 bits on each lane that takes part (R324, R335). Where a generator begins in
its sequence is not said: a free value that is not 0 (DESIGN CHOICE, log 112). -/
def State.prbsSend (s : State) (port : Nat) : State :=
  let p := s.port port
  if !bitOf p.prbs 11 ∨ 4 < fld p.prbs 0 3 then s
  else
    let (w, t) := prbsTaps (fld p.prbs 0 3)
    ((List.range 8).filter (fun l => bitOf p.prbs (3 + l))).foldl (fun s l =>
      let (v, s) := s.free
      let r := aget 0 (s.port port).gens l % 2 ^ w
      let r := if r = 0 then max 1 (v.toNat % 2 ^ w) else r
      let (out, r') := prbsBits w t laneBits r
      s.updPort port (fun p => { p with gens := aset 0 p.gens l r', genOut := aset 0 p.genOut l out })) s

/-- A port in IDENT repeats its IDENT, and its IDENT_OK once it has matched, in one control block of every 16 codeword periods of 64 cell
times (R324, R333). -/
def State.identRepeat (s : State) (port : Nat) : State :=
  if (s.port port).cellTime % 1024 ≠ 0 then s
  else s.updPort port (fun p => { p with ctl := p.ctl ++ s.ownIdent port :: (if p.matched then [.identOk] else []) })

/-- A cell of a circuit leaves its buffer: the port on which it came gives the circuit's credit back (R357). -/
def State.cirFreed (s : State) (p : FabPkt) (n : Nat) : State :=
  if p.inPort = 63 then s else s.updPort p.inPort (fun x => { x with ctl := x.ctl ++ [.circuitCredit p.circuit n] })

/-- Circuit c sends its next cell on a port, where it has one and the credit for it. A packet that starts here is taken only inside the
window; the cells of one in transit have been accepted by their source (R356, R357). -/
def State.sendCircuit (s : State) (port c : Nat) : Option State :=
  let p := s.port port
  let send := fun (s : State) (cells : List Tx) => match cells with
    | [] => s
    | d :: r => (s.updPort port (fun p =>
        { p with cirFlight := aset [] p.cirFlight c r, cirUsed := aset 0 p.cirUsed c (aget 0 p.cirUsed c + 1) }.emit d)).cirFreed d.pkt 1
  if 64 ≤ aget 0 p.cirUsed c then none
  else match aget [] p.cirFlight c with
    | [] =>
      (p.cirQueue.find? (fun q => q.circuit == c && (q.inPort != 63 || s.cirOpen port c))).map (fun q =>
        send (s.updPort port (fun p => { p with cirQueue := p.cirQueue.erase q })) (mkCells 2 0 c q))
    | l => some (send s l)

/-- The port's slot carries a circuit's cell, where one may go in it. -/
def State.circuitCell (s : State) (port : Nat) : Option State :=
  ((s.slotOwners port ((s.port port).cellTime % 128)).filterMap (s.sendCircuit port)).head?

/-- The first cell of a packet that starts; a request of class normal or background is marked as it leaves a congested port (R359). -/
def State.startPacket (s : State) (port : Nat) (i : PortItem) : State :=
  let mark := isRequest i.pkt.op && (i.pkt.cls == 1 || i.pkt.cls == 2) && decide (s.markCells ≤ (s.port port).queued)
  let pkt := if mark then { i.pkt with cmark := true } else i.pkt
  let s1 := if mark then { s with fab := { s.fab with stats1 := addFld s.fab.stats1 32 32 1 } } else s
  match mkCells 1 i.vc 0 pkt with
  | [] => s1
  | d :: r => s1.updPort port (fun p =>
      { p with queue := p.queue.erase i, flight := r, credits := aset 0 p.credits i.vc (aget 0 p.credits i.vc + 1) }.emit d)

/-- An UP port sends the first ready item (R328, R331). -/
def State.sendCell (s : State) (port : Nat) : State :=
  let p := s.port port
  let idle := s.updPort port (fun p => p.put idleCell)
  match p.resend with
  | x :: r => s.updPort port (fun p => { p.put x.cell with resend := r })
  | [] =>
    if 3072 ≤ p.retry.length then idle
    else match p.halts with
    | h :: r => s.updPort port (fun p =>
        { p with halts := r }.emit { cell := { idleCell with type := 3, body := (pktBodies h).headD 0 }, pkt := h, last := true })
    | [] =>
      match s.circuitCell port with
      | some t => t
      | none =>
        match p.flight with
        | d :: r =>
          if aget 0 p.credits d.cell.vc < 256 then
            s.updPort port (fun p =>
              { p with flight := r, credits := aset 0 p.credits d.cell.vc (aget 0 p.credits d.cell.vc + 1) }.emit d)
          else idle
        | [] =>
          match p.nextItem with
          | none => idle
          | some i => s.startPacket port i

/-! ## Routing (R350 to R352) -/

/-- The active routing entry of a module. -/
def State.route (s : State) (m : Nat) : W64 := aget 0 s.fab.rt m
/-- The ports of a routing entry, lowest first. -/
def rtPorts (e : W64) : List Nat := (List.range Config.ports).filter (fun p => bitOf e p)
/-- The port that a packet takes (R352). -/
def outPort (e : W64) (p : FabPkt) : Nat := nth 0 (rtPorts e) ((p.src + p.srcTile) % max 1 (rtPorts e).length)

/-- The rate toward a module. -/
def State.rate (s : State) (m : Nat) : Nat := 4096 - aget 0 s.fab.rate m

/-- A cell time of a port gives each module that it leads to its share of a cell back (R360). -/
def State.paceCell (s : State) (port : Nat) : State :=
  { s with fab := { s.fab with
    spent := s.fab.spent.foldl (fun m e =>
      if (rtPorts (s.route e.1)).head? = some port then aset 0 m e.1 (e.2 - s.rate e.1) else m) s.fab.spent } }

/-- PORT_CELL_TIME: an UP port sends a cell (R331), one in IDENT repeats its messages (R333), one in TEST sends its pattern (R335), and a DOWN
one with ENABLE 1 and a signal trains (R332, R334). -/
def execPortCellTime (port : Nat) (s : State) : Host.Outcome State Fault Refusal :=
  let fin := fun (s : State) => s.updPort port (fun p =>
    { p with cellTime := p.cellTime + 1, queue := p.queue.map (fun i => { i with age := i.age + 1 }) })
  match (s.port port).st with
  | 0 => done s (s.tryTrain port)
  | 2 => done s (fin (s.identRepeat port))
  | 3 => done s ((fin (s.sendCell port)).paceCell port)
  | 5 => done s (fin (s.prbsSend port))
  | _ => done s s

/-! ## Packets on their way -/

/-- A packet leaves on a port; HOPS increments, and a halt marker goes ahead of everything (R331, R352, R362). On a port that is not UP it is
dropped with LINK_DOWN (R334, R349; DEDUCED, log 112). -/
def State.sendOn (s : State) (port : Nat) (p : FabPkt) : State :=
  if (s.port port).st ≠ 3 then s.dropPkt p.inPort p .linkDown
  else
    let p := { p with hops := p.hops + 1 }
    s.updPort port (fun x =>
      if p.op = .haltMarker then { x with halts := x.halts ++ [p] }
      else if p.op = .circuitData then { x with cirQueue := x.cirQueue ++ [p] }
      else { x with queue := x.queue ++ [{ pkt := p, vc := vcOf p, age := 0 }] })

/-- The collective header check (R380): the packet is not applied when its step or epoch differs in RUNNING. -/
def State.headerCheck (s : State) (p : FabPkt) : State × Bool :=
  let ch := p.srcTile - 0x1000
  if s.sliceSt = 2 ∧ p.srcEngine ∧ 0x1000 ≤ p.srcTile ∧ p.srcTile < 0x1040 ∧ isRequest p.op then
    let layer := match afind s.slice.running ch with | some r => r.layer | none => 0
    if p.stepLo ≠ BitVec.ofNat 32 s.slice.step.toNat then
      ((s.collFault 1 ch p.src layer none).fault .stepMismatch .collective ch, false)
    else if p.epoch ≠ BitVec.ofNat 16 s.slice.epoch.toNat then
      ((s.collFault 2 ch p.src layer none).fault .epochMismatch .collective ch, false)
    else (s, true)
  else (s, true)

/-- A packet that arrived for this module is delivered or dropped (R351, R380, R394). -/
def State.deliver (s : State) (port : Nat) (p : FabPkt) : State :=
  let e := s.route s.moduleId
  if isAnswer p.op then
    if bitOf e 39 then { s with fab := { s.fab with delivered := s.fab.delivered ++ [p] } } else s.dropPkt port p .noRoute
  else if !bitOf e 39 ∨ p.slice ≠ BitVec.ofNat 16 (fld s.fab.id 28 16) then s.dropPkt port p .outOfSlice
  else if p.op = .control ∧ 12 ≤ p.aop then s.dropPkt port p .badHeader
  else
    let (s, ok) := s.headerCheck p
    if ok then { s with fab := { s.fab with delivered := s.fab.delivered ++ [p] } } else s

/-- The circuit entry by which a packet that came from `port` (63: from here) goes on; `named` is the port whose
entry the command names, or 63 (R358). -/
def State.cirRoute (s : State) (port c named : Nat) : Option (Nat × Nat) :=
  (cirValid s.fab.cir).find? (fun e => e.2 == c && fld (cirWord s.fab.cir e.1 e.2 0) 8 6 == port && (named == 63 || e.1 == named))

/-- The cause with which a packet that came from `port` (63: from here) is dropped by the routing table, if it is (R351). -/
def State.routeCause (s : State) (port : Nat) (p : FabPkt) : Option DropCause :=
  let e := s.route p.dest
  let ports := rtPorts e
  match p.op with
  | .reserved _ => some .badHeader
  | _ =>
    if port = 63 then
      if !bitOf e 42 ∨ (!bitOf e 39 ∧ ports.isEmpty) then some .noRoute
      else if !bitOf e 40 then some .outOfSlice
      else none
    else if p.dest = s.moduleId then none
    else if !bitOf e 42 ∨ ports.isEmpty then some .noRoute
    else if !bitOf e 40 ∧ !bitOf e 41 then some .outOfSlice
    else if 3 ≤ p.hops then some .hopLimit
    else none

/-- A packet is routed (R351, R355, R569): delivered here, or sent on, circuit data by its circuit's entry. A circuit's cells that do not go on
leave their buffer (R357). -/
def State.routePkt (s : State) (port : Nat) (p : FabPkt) : State :=
  let e := s.route p.dest
  let here := if port = 63 then bitOf e 39 else p.dest == s.moduleId
  let named := p.cirPort
  let p := { p with cirPort := 63, inPort := port }
  let freed := fun (s : State) => if p.op = .circuitData then s.cirFreed p (pktCells p) else s
  match s.routeCause port p with
  | some c => freed (s.dropPkt port p c)
  | none =>
    if here then freed (s.deliver port p)
    else if p.op = .circuitData then
      match s.cirRoute port p.circuit named with
      | none => freed (s.dropPkt port p .noRoute)
      | some k =>
        let o := fld (cirWord s.fab.cir k.1 k.2 0) 2 6
        if bitOf (cirWord s.fab.cir k.1 k.2 0) 1 then freed (s.deliver port p)
        else if (s.port o).st ≠ 3 then freed (s.sendOn o p)
        else s.sendOn o p
    else s.sendOn (outPort e p) p

/-- Whether two packets are of one flow, which keeps its order: one class, from one source to one module (R347). -/
def sameFlow (q p : FabPkt) : Bool :=
  q.cls == p.cls && q.src == p.src && q.srcTile == p.srcTile && q.srcEngine == p.srcEngine && q.dest == p.dest

/-- Whether a packet at the switch may be routed now: it is there, behind no packet of its flow, and behind no drain marker of its port and VC
(R347, R353). -/
def State.mayRoute (s : State) (port : Nat) (p : FabPkt) : Bool :=
  s.fab.switchQ.contains (port, p)
    && !(before (port, p) s.fab.switchQ).any (fun q => sameFlow q.2 p
      || (q.1 == port && port != 63 && q.2.op == .drainMarker && q.2.aop == vcOf p && p.op != .haltMarker && p.op != .circuitData))

/-- FABRIC_PACKET_ROUTE: a packet at the switch is routed once by the active table (R351); its cells free their VC's buffer (R330), and a HALT
cell has taken no credit. Port 63 is this module's own traffic. -/
def execFabricPacketRoute (port : Nat) (p : FabPkt) (s : State) : Host.Outcome State Fault Refusal :=
  if p.op = .drainMarker ∨ !s.mayRoute port p then done s s
  else
    let s1 := { s with fab := { s.fab with switchQ := s.fab.switchQ.erase (port, p) } }
    let s2 := if port = 63 ∨ p.op = .circuitData ∨ p.op = .haltMarker then s1
      else s1.updPort port (fun x => { x with freed := aset 0 x.freed (vcOf p) (aget 0 x.freed (vcOf p) + pktCells p) })
    done s (s2.routePkt port p)

/-! ## The edge's tags (R347, R348) -/

/-- Bytes that a request touches (R341, R343, R344). -/
def pktSpan (p : FabPkt) : Nat :=
  match p.op with
  | .read => 64
  | .atomic => 2 ^ p.aw
  | .reduceAdd => 16 * p.payload.length / (rfmtSizes p.rfmt).1 * (rfmtSizes p.rfmt).2
  | _ => 16 * p.payload.length

/-- Whether two requests of one requester touch one line and the first of them writes it (R196, R347). -/
def writesLineOf (q p : FabPkt) : Bool :=
  let last := fun (x : FabPkt) => (x.addr.toNat + max 1 (pktSpan x) - 1) / 64
  q.srcTile == p.srcTile && q.srcEngine == p.srcEngine && (q.op == .write || q.op == .atomic || q.op == .reduceAdd || q.op == .circuitData)
    && decide (q.addr.toNat / 64 ≤ last p) && decide (p.addr.toNat / 64 ≤ last q)

/-- Whether the rate toward its module limits a request: one of class normal or background to another module (R360). -/
def State.paced (s : State) (p : FabPkt) : Bool :=
  isRequest p.op && (p.cls == 1 || p.cls == 2) && p.dest != s.moduleId && !(rtPorts (s.route p.dest)).isEmpty
/-- Whether a request exceeds the burst of 16 cells beyond its module's share (R360). -/
def State.overRate (s : State) (p : FabPkt) : Bool :=
  s.paced p && decide (16 * 4096 < aget 0 s.fab.spent p.dest + 4096 * pktCells p)

/-- Whether a waiting transaction may go. One with this module's memory: no earlier one of its tile waits. One of the fabric: injection is not
stopped (R353), no earlier one of its tile, class and module waits, no earlier write of its tile to its line waits, whatever its class, or
is unanswered (R196, R347), and its module's rate allows it (R360). -/
def State.mayGo (s : State) (before : List EdgeReq) (w : EdgeReq) : Bool :=
  let p := w.pkt
  if s.memReq w then !before.any (fun q => s.memReq q && q.pkt.srcTile == p.srcTile)
  else
    !bitOf s.fab.status 2
      && !before.any (fun q => (q.pkt.srcTile == p.srcTile && q.pkt.srcEngine == p.srcEngine && q.pkt.cls == p.cls && q.pkt.dest == p.dest)
        || writesLineOf q.pkt p)
      && !s.fab.txns.any (fun t => !t.held && writesLineOf t.pkt p) && !s.overRate p

/-- The first waiting transaction that may go, with those before it. -/
def State.firstGo (s : State) : List EdgeReq → List EdgeReq → Option EdgeReq
  | _, [] => none
  | before, q :: r => if s.mayGo before q then some q else State.firstGo s (before ++ [q]) r

/-- EDGE_TAG_GRANT: the first waiting transaction that may go takes a free tag and is sent, or its operations go to memory; where no tag is free
it waits for one, and TAG_STALLS counts that once (R348, R353). In a replay a request toward another module is answered at the edge
(R518). -/
def execEdgeTagGrant (s : State) : Host.Outcome State Fault Refusal :=
  match State.firstGo s [] s.fab.waiting with
  | none => done s s
  | some w =>
    if !s.tagFree then
      done s (if w.stalled then s else { s with fab := { s.fab with
        waiting := s.fab.waiting.map (fun x => if x = w then { x with stalled := true } else x), stats0 := addFld s.fab.stats0 0 16 1 } })
    else
      let s0 := { s with fab := { s.fab with waiting := s.fab.waiting.erase w } }
      if s.memReq w then done s (s0.startMem w)
      else
        let tag := s.nextFree
        let h := s.mkFab w.pkt.op w.pkt.cls w.pkt.addr []
        let p : FabPkt := { w.pkt with tag := tag, beat := h.beat, stepLo := h.stepLo, epoch := h.epoch, slice := h.slice }
        let s1 := { s0 with fab := { s0.fab with
          spent := if s.paced p then aset 0 s.fab.spent p.dest (aget 0 s.fab.spent p.dest + 4096 * pktCells p) else s.fab.spent
          txns := s.fab.txns ++ [({ tag := tag, pkt := p, src := w.src, beat := s.beat } : Txn)]
          nextTag := (tag + 1) % Config.txnTags } }
        if s.hang.replaying.isSome ∧ p.dest ≠ s.moduleId then done s (s1.dropPkt 63 p .outOfSlice) else done s (s1.toSwitch p)

/-! ## Requests at their destination (R342 to R346) -/

/-- A read request has reached tile t (R65): its answer goes back to the tile or, over the fabric, to the module that asked. -/
def State.serveRead (s : State) (p : MeshPkt) : State :=
  let gather := p.edge.isNone && (s.tile p.src).reqs.any (fun r => r.tag == p.tag && (match r.kind with | .gather _ _ _ => true | _ => false))
  let (v, lost, s) := s.lsReadLine p.dest (p.lsAddr * 16) gather
  match p.edge with
  | none => s.answer p.src p.tag (toFlits (lineBytes v)) none lost
  | some f => if lost.isEmpty then s.replyFab f (toFlits (lineBytes v)) none else s.replyFab f [] (some .memUncorrectable)

/-- PACKET_DEPOSIT: a KIND 0 packet, all of whose flits have come to its destination's local port, in the order of its path (R51, R91): a write
is deposited, a read request is answered; a failed CRC or DEST check raises MESH_CRC and the packet is delivered as it is (R56, R65, R476, R566), and a
write from the fabric is acknowledged once it is performed (R341). A trigger packet whose header has not been accepted waits while the
queue is full (R104). A load packet is none of these (R55). -/
def execPacketDeposit (p : MeshPkt) (crcBad : Bool) (s : State) : Host.Outcome State Fault Refusal :=
  let x := s.tile p.dest
  if p.kind = 0 ∧ p.op ≠ 6 ∧ p.way = [] ∧ s.nextOfPath p ∧ !s.tileFrozen p.dest ∧ (p.trigger = 0 ∨ x.hdrs ≠ 0 ∨ x.trig.length + x.hdrs < 16) then
    let s1 := { s with mesh := s.mesh.erase p }
    let s2 := if crcBad then s1.tileNote p.dest .meshCrc else s1
    if p.op = 1 then done s (s2.serveRead p)
    else
      let s3 := if p.trigger ≠ 0 ∧ x.hdrs = 0 then s2.updTile p.dest (fun x => { x with hdrs := 1 }) else s2
      let s4 := s3.deposit p
      done s (match p.edge with | some f => s4.replyFab f [] none | none => s4)
  else done s s

/-- A delivered request is accepted or dropped with its cause; an accepted one is performed at memory or flags, or enters the mesh toward
its tile (R51, R341 to R346). -/
def State.accept (s : State) (p : FabPkt) : State :=
  let s := s.consume p
  let sp := gaSpace p.addr
  let off := gaOff p.addr
  match reqCause p.op sp off p.payload.length p.aw p.rfmt p.aop with
  | some c => s.dropPkt p.inPort p c
  | none =>
    if sp = 1 then
      let t := off / Config.lsStride
      let o := off % Config.lsStride
      let m : MeshPkt :=
        { kind := 0, dest := t, src := t, trigger := p.trigger, lsAddr := o / 16, cls := p.cls, op := if p.op = .read then 1 else 0
          beatLo := s.beat.toNat % 4096, addr := 0, tag := 0, payload := p.payload, edge := some p, way := hopsOf (wayIn t) }
      { s with mesh := s.mesh ++ [m] }
    else
      let bytes := payloadBytes p.payload
      let before := s.mem.inbox.length + s.host.flagIn.length
      let s2 := s.edgeRequest (.fabric p) p.op p.cls sp off p.aw p.rfmt p.aop bytes
      let n := s2.mem.inbox.length + s2.host.flagIn.length - before
      { s2 with fab := { s2.fab with inReqs := s2.fab.inReqs ++ [(p, n, none)] } }

/-- WRITE (R341). -/
def execWrite (p : FabPkt) (s : State) : Host.Outcome State Fault Refusal := if p.op = .write then done s (s.accept p) else done s s
/-- ATOMIC (R343). -/
def execAtomic (p : FabPkt) (s : State) : Host.Outcome State Fault Refusal := if p.op = .atomic then done s (s.accept p) else done s s
/-- REDUCE_ADD (R344). -/
def execReduceAdd (p : FabPkt) (s : State) : Host.Outcome State Fault Refusal :=
  if p.op = .reduceAdd then done s (s.accept p) else done s s

/-! ## Congestion (R360) -/

/-- The state with that rate. -/
def State.setRate (s : State) (m v : Nat) : State := { s with fab := { s.fab with rate := aset 0 s.fab.rate m (4096 - v) } }
/-- CUT_GAP; 0 acts as 1. -/
def State.cutGap (s : State) : Nat := max 1 (fld s.fab.ccCfg 16 8)
/-- CUT_SHIFT, held to 1 to 4. -/
def State.cutShift (s : State) : Nat := min 4 (max 1 (fld s.fab.ccCfg 12 4))
/-- RATE_MIN; 0 acts as 1. -/
def State.rateMin (s : State) : Nat := max 1 (fld s.fab.ccCfg 36 12)
/-- Whether CUT_GAP beats have passed since the last cut toward a module; one never cut has no such limit. -/
def State.gapPassed (s : State) (m : Nat) : Bool :=
  match afind s.fab.lastCut m with
  | some b => decide (b + s.cutGap ≤ s.beat.toNat)
  | none => true

/-- An echoed answer from module m (R360). -/
def State.onEcho (s : State) (m : Nat) : State :=
  let s := { s with fab := { s.fab with stats1 := addFld s.fab.stats1 0 32 1 } }
  if s.gapPassed m then
    let r := s.rate m
    let s := s.setRate m (max s.rateMin (r - r / 2 ^ s.cutShift))
    { s with fab := { s.fab with lastCut := aput s.fab.lastCut m s.beat.toNat, stats0 := addFld s.fab.stats0 48 16 1 } }
  else s

/-- The rates recover at a boundary (R360). -/
def State.recoverRates (s : State) : State :=
  let n := max 1 (fld s.fab.ccCfg 48 8)
  if s.beat.toNat % n ≠ 0 then s
  else s.fab.rate.foldl (fun s e => if s.gapPassed e.1 then s.setRate e.1 (min 4096 (s.rate e.1 + fld s.fab.ccCfg 24 12)) else s) s

/-! ## Drain and tables (R353, R354) -/

/-- From the evaluation of a commit that needs a drain until its beat, injection stays stopped and DRAINED set: a DRAIN, RT_APPLY or
RESUME has no effect (R354, R428; DEDUCED, log 118). -/
def State.fabHeld (s : State) : Bool :=
  s.cfg.commit.isSome && (match s.cfg.staging with
    | some g => g.items.types.contains 5 || g.items.types.contains 6 || g.items.types.contains 7
    | none => false)

/-- A write of DRAIN acts (R353). -/
def State.drainStart (s : State) : State :=
  if s.fabHeld then s
  else
  let s := ((s.fabBit 2 true).fabBit 0 true).fabBit 1 false
  { s with fab := { s.fab with drainBeat := some s.beat, markersSent := false, awaited := [] } }
/-- DRAIN_FABRIC (R353). -/
def execDrainFabric (s : State) : Host.Outcome State Fault Refusal := done s s.drainStart

/-- A packet as it came, whatever this module has changed in it on its way. -/
def asCame (p : FabPkt) : FabPkt := { p with hops := 0, cmark := false, cirPort := 63, inPort := 63 }

/-- The packets in this module's queues (R353): at the switch, delivered, accepted and not performed, and in its ports' queues. -/
def State.queuedPkts (s : State) : List FabPkt :=
  (s.fab.switchQ.map (fun q => q.2) ++ s.fab.delivered ++ s.fab.inReqs.map (fun r => r.1) ++ s.mesh.filterMap (fun m => m.edge)
    ++ s.fab.ports.flatMap (fun p => p.2.queue.map (fun i => i.pkt) ++ p.2.cirQueue ++ p.2.halts ++ p.2.flight.map (fun c => c.pkt)
      ++ p.2.cirFlight.flatMap (fun e => e.2.map (fun c => c.pkt)))).filter (fun p => p.op != .drainMarker)

/-- Once the last of the module's markers has returned, the packets that came before and are still in its queues are those that the drain
waits for (R353; DEDUCED, log 112). -/
def State.markersBack (s : State) : State :=
  if s.fab.markersSent ∧ s.fab.ports.all (fun p => p.2.markersOut.isEmpty) then
    { s with fab := { s.fab with awaited := s.queuedPkts.map asCame } }
  else s

/-- DRAIN_MARKERS_SEND: every fabric transaction is answered, so a marker goes out on every VC of every UP port (R353). -/
def execDrainMarkersSend (s : State) : Host.Outcome State Fault Refusal :=
  if bitOf s.fab.status 0 ∧ !s.fab.markersSent ∧ s.fab.txns.all (fun t => t.held || t.left != 0) then
    let s1 := (List.range Config.ports).foldl (fun s q =>
      if (s.port q).st = 3 then
        s.updPort q (fun x =>
          { x with markersOut := List.range 6,
                   queue := x.queue ++ (List.range 6).map (fun v =>
                     { pkt := { s.mkFab .drainMarker 0 0 [] with aop := v, hops := 1 }, vc := v, age := 0 }) })
      else s) s
    done s (State.markersBack { s1 with fab := { s1.fab with markersSent := true } })
  else done s s

/-- Whether a packet that came on a VC of a port before its drain marker has not left this module: at the switch, in an output queue, or delivered
and not performed (R353). The VC is that of the link on which it came. -/
def State.crossing (s : State) (port vc : Nat) : Bool :=
  let came := fun (p : FabPkt) => p.inPort == port && vcOf p == vc && p.op != .haltMarker && p.op != .circuitData
  let back := fun (p : FabPkt) => came { p with hops := p.hops - 1 }
  s.fab.delivered.any came || s.fab.inReqs.any (fun r => came r.1) || s.mesh.any (fun m => match m.edge with | some p => came p | none => false)
    || s.fab.ports.any (fun x => x.2.queue.any (fun i => back i.pkt) || x.2.flight.any (fun c => back c.pkt))

/-- DRAIN_MARKER: this module's own marker comes back on a port and VC; or a peer's marker is returned once every earlier packet of its
VC has left the switch, and the writes of those delivered here have been evicted (R353). -/
def execDrainMarker (port vc : Nat) (s : State) : Host.Outcome State Fault Refusal :=
  let here := s.fab.switchQ.find? (fun q => q.1 == port && q.2.op == .drainMarker && q.2.aop == vc)
  let s1 := match here with
    | some q => ({ s with fab := { s.fab with switchQ := s.fab.switchQ.erase q } } : State).updPort port (fun x =>
        { x with freed := aset 0 x.freed vc (aget 0 x.freed vc + 1) })
    | none => s
  let ours := match here with | some q => q.2.src == s.moduleId | none => (s.port port).markersOut.contains vc
  let earlier := match here with | some q => before q s.fab.switchQ | none => s.fab.switchQ
  if ours then done s (s1.updPort port (fun x => { x with markersOut := x.markersOut.erase vc })).markersBack
  else if earlier.any (fun q => q.1 == port && vcOf q.2 == vc && q.2.op != .haltMarker && q.2.op != .circuitData) ∨ s.crossing port vc
      ∨ (s.port port).st ≠ 3 then done s s
  else
    let s2 := s1.mem.chans.foldl (fun s c => s.evictAll c.1) s1
    let back := match here with | some q => q.2 | none => { s.mkFab .drainMarker 0 0 [] with aop := vc, src := 0x3FFF }
    done s (s2.updPort port (fun x => { x with queue := x.queue ++ [{ pkt := back, vc := vc, age := 0 }] }))

/-- Whether every marker has returned and no packet that came before them remains in the module's queues. -/
def State.queuesEmpty (s : State) : Bool :=
  s.fab.ports.all (fun p => p.2.markersOut.isEmpty) && !s.queuedPkts.any (fun p => s.fab.awaited.contains (asCame p))

/-- DRAINED: every marker has returned and the queues hold no packet from before (R353). -/
def execDrained (s : State) : Host.Outcome State Fault Refusal :=
  if bitOf s.fab.status 0 ∧ s.fab.markersSent ∧ s.queuesEmpty then
    let t := (s.fabBit 1 true).fabBit 0 false
    done s { t with fab := { t.fab with drainBeat := none } }
  else done s s

/-- DRAIN_TIMEOUT; 0 acts as 1 (R366). -/
def State.drainLimit (s : State) : Nat := max 1 (fld s.fab.txnCfg 20 16)

/-- DRAIN_TIMEOUT: the beats have passed before the drain ended (R353). -/
def execDrainTimeout (s : State) : Host.Outcome State Fault Refusal :=
  match s.fab.drainBeat with
  | none => done s s
  | some b =>
    if bitOf s.fab.status 0 ∧ b.toNat + s.drainLimit ≤ s.beat.toNat then
      let t := (s.fabBit 4 true).fabBit 0 false
      done s { t with fab := { t.fab with drainBeat := none } }
    else done s s

/-- Injection resumes; DRAINED clears (R353). -/
def State.resumeFab (s : State) : State :=
  let t := ((s.fabBit 2 false).fabBit 1 false).fabBit 0 false
  { t with fab := { t.fab with drainBeat := none, markersSent := false } }
/-- A write of RESUME acts (R353). -/
def State.resumeAct (s : State) : State := if s.fabHeld then s else s.resumeFab
/-- RESUME (R353). -/
def execResume (s : State) : Host.Outcome State Fault Refusal := done s s.resumeAct

/-- The shadow tables become active, and injection resumes (R354). -/
def State.copyTables (s : State) : State := State.resumeFab { s with fab := { s.fab with rt := s.fab.rts, cir := s.fab.cirs } }

/-- A write of RT_APPLY acts (R354). -/
def State.rtApply (s : State) : State :=
  if s.fabHeld then s
  else if !bitOf s.fab.status 1 then s.fabBit 3 true
  else if s.cirConflict s.fab.cirs then s.fabBit 5 true
  else s.copyTables
/-- RT_APPLY (R354). -/
def execRtApply (s : State) : Host.Outcome State Fault Refusal := done s s.rtApply

/-- A write of DROP_REARM acts (R366). -/
def State.dropRearm (s : State) : State := { s with fab := { s.fab with drop0 := 0, drop1 := 0, drop2 := 0 } }
/-- DROP_REARM (R366). -/
def execDropRearm (s : State) : Host.Outcome State Fault Refusal := done s s.dropRearm

end Sys2Proof.Machine
end

