-- ==== Sys2Proof/Machine/Solver.lean ====
section
/-! DEFINITION. The jointed-body solver (chapter 07): delta packets, factorisation, free motion and constraint set-up, iterations,
integration, checks and outputs, and the adjoint. An element of a Q31 lath is its stored integer in bits [31:0] of a word, one of
an FP64 lath its encoding. -/

namespace Sys2Proof.Machine

/-! ## Arithmetic of a world (R207, R208) -/

/-- A world in work: its lath, its data, what its lane adds to the counter sets (R217), whether the adjoint runs and has failed
(R240), and the free values used. -/
structure Ar where
  l : Lath
  w : World
  cnt : Cnt := {}
  adj : Bool := false
  adjBad : Bool := false
  free : Nat := 0
  deriving DecidableEq, Repr

/-- A computation over a world in work. -/
abbrev SolvM (α : Type) := StateM Ar α

/-- Classes of R206. -/
def cMass : Nat := 0
/-- FACTOR. -/
def cFactor : Nat := 1
/-- FORCE. -/
def cForce : Nat := 2
/-- VEL. -/
def cVel : Nat := 3
/-- JAC. -/
def cJac : Nat := 4
/-- INTER. -/
def cInter : Nat := 5
/-- DEL. -/
def cDel : Nat := 6
/-- IMP. -/
def cImp : Nat := 7
/-- MU. -/
def cMu : Nat := 8
/-- ADJ_VEL. -/
def cAdjVel : Nat := 9
/-- ADJ_IMP. -/
def cAdjImp : Nat := 10
/-- ADJ_FORCE. -/
def cAdjForce : Nat := 11

/-- Binary point of a class. -/
def Lath.n (l : Lath) (c : Nat) : Nat := nth 0 l.bp c
/-- The stored integer of a Q31 element. -/
def sx (v : W64) : Int := sext 32 v.toNat
/-- The Q31 element of a stored integer. -/
def ux (v : Nat) : W64 := BitVec.ofNat 64 (v % 2 ^ 32)
/-- Whether an FP64 encoding is a NaN or an infinity. -/
def nonFin (v : W64) : Bool := fld v 52 11 == 0x7FF
/-- An FP64 encoding with its sign changed. -/
def neg64 (v : W64) : W64 := v ^^^ 0x8000000000000000#64

/-- The world is ABANDONED or DIVERGED in this step (R217). -/
def World.isOver (w : World) : Bool := w.fixed && (w.status == .abandoned || w.status == .diverged)
/-- The world became CONVERGED (R224). -/
def World.conv (w : World) : Bool := w.fixed && w.status == .converged

/-- The world ends with a status, unless it has ended before (R230). -/
def World.endAs (w : World) (st : WStat) : World := if w.isOver then w else { w with status := st, fixed := true }

/-- A world's data changed. -/
def updW (f : World → World) : SolvM Unit := modify (fun r => { r with w := f r.w })

/-- A Q31 result with its counts (R177, R208). -/
def keepQ (quot : Bool) (r : Num) : SolvM W64 := fun x =>
  let x := { x with cnt := cntAdd x.cnt r.c }
  let edge := quot && (r.v == 0x7FFFFFFF || r.v == 0x80000000)
  let on := !x.w.isOver
  let x :=
    if edge then
      let w := if on then { x.w with qsat := satTo 0xFFFF x.w.qsat 1 } else x.w
      if x.adj then { x with w := w, adjBad := true } else { x with w := w.endAs .diverged }
    else if r.c.sat != 0 && on then { x with w := { x.w with sat := satTo 0xFFFF x.w.sat 1 } }
    else x
  (ux r.v, x)

/-- An FP64 result with its counts (R229, R240). -/
def keepF (r : Num) : SolvM W64 := fun x =>
  let v := BitVec.ofNat 64 r.v
  let bad := nonFin v
  let x := { x with cnt := cntAdd x.cnt r.c }
  let x := if x.adj then { x with adjBad := x.adjBad || bad } else { x with w := { x.w with nonFinite := x.w.nonFinite || bad } }
  (v, x)

/-- A value's counts enter the lane's (R217). -/
def countR (c : Cnt) : SolvM Unit := modify (fun r => { r with cnt := cntAdd r.cnt c })

/-- An element as an operation reads it: in an FP64 lath a subnormal is a zero of its sign, and counts in FLUSH (R121). -/
def readE (v : W64) : SolvM W64 := do
  if (← get).l.fp64 then
    let (_, n) := fpRead .fp64 v.toNat
    countR { flush := n }
    pure (if n = 0 then v else v &&& 0x8000000000000000#64)
  else pure v

/-- An FP64 value in FP32 (R140). -/
def toFp32 (v : W64) : SolvM Nat := do
  let r := cvtElem (.fp .fp64) (.fp .fp32) 0 .rne v.toNat
  countR r.c
  pure r.v

/-- An F64 operation. -/
def f64 (op : Nat) (a b c : W64) : SolvM W64 := keepF (f64Result op a b c)

/-- QMUL31 with SHIFT = fa + fb − fc (R179, R207). Obosh refuses a lath that needs a SHIFT outside 0 to 31; the product is scaled by
the same power of two there. -/
def qmul (x y fa fb fc : Int) : Num :=
  let s := fa + fb - fc
  satInt 32 (if 0 ≤ s then rneShift (x * y) s.toNat else x * y * ((2 ^ (-s).toNat : Nat) : Int))

/-- mul of R207; `fa`, `fb`, `fc` are the fraction bits of the operands and the result. -/
def mul (quot : Bool) (fa fb fc : Int) (a b : W64) : SolvM W64 := do
  if (← get).l.fp64 then f64 4 a b 0
  else keepQ quot (qmul (sx a) (sx b) fa fb fc)

/-- mul of R207 by a negated second operand; the negation is exact (R220). -/
def mulNeg (fa fb fc : Int) (a b : W64) : SolvM W64 := do
  if (← get).l.fp64 then f64 4 a (neg64 b) 0
  else keepQ false (qmul (sx a) (-(sx b)) fa fb fc)

/-- adds of R207. -/
def adds (a b : W64) : SolvM W64 := do
  if (← get).l.fp64 then f64 2 a b 0 else keepQ false (satInt 32 (sx a + sx b))

/-- SUBS31 or F64 SUB. -/
def subs (a b : W64) : SolvM W64 := do
  if (← get).l.fp64 then f64 3 a b 0 else keepQ false (satInt 32 (sx a - sx b))

/-- sub_sat(a, mul(b, e, c)) of R207: in FP64 one FMA. -/
def subMul (fb fe fc : Int) (a b e : W64) : SolvM W64 := do
  if (← get).l.fp64 then f64 1 (neg64 b) e a
  else
    let p ← mul false fb fe fc b e
    subs a p

/-- shift of R207 between binary points. -/
def shiftTo (f t : Nat) (x : W64) : SolvM W64 := do
  if (← get).l.fp64 then pure x
  else if f ≤ t then keepQ false (satInt 32 (sx x * ((2 ^ (t - f) : Nat) : Int)))
  else keepQ false (satInt 32 (rneShift (sx x) (f - t)))

/-- recip of R207 with reciprocal shift s. -/
def recip (s : Nat) (x : W64) : SolvM W64 := do
  if (← get).l.fp64 then f64 5 0x3FF0000000000000#64 x 0
  else
    let y ← keepQ false (satInt 32 (rneShift (sx x) s))
    keepQ true (intLane 21 32 0 (y.toNat) 0 0)

/-- One level of the pairwise tree of R172. -/
def treeLevel : List W64 → SolvM (List W64)
  | a :: b :: r => do
    let s ← adds a b
    let t ← treeLevel r
    pure (s :: t)
  | l => pure l

/-- Levels of the tree until one value is left. -/
def treeLevels : Nat → List W64 → SolvM W64
  | _, [] => pure 0
  | _, [x] => pure x
  | 0, x :: _ => pure x
  | k + 1, l => do treeLevels k (← treeLevel l)

/-- tree_sum of R207, terms in increasing index. -/
def treeSum (l : List W64) : SolvM W64 := treeLevels l.length l

/-- An FP64 value at a class: CVT under R140 in a Q31 lath (R214). -/
def toClass (c : Nat) (v : W64) : SolvM W64 := do
  let l := (← get).l
  if l.fp64 then pure v
  else
    let r := cvtElem (.fp .fp64) (.fix 32 true) (l.n c) .rne v.toNat
    keepQ false r

/-- The FP64 value of an element of a class (R214). -/
def ofClass (c : Nat) (v : W64) : SolvM W64 := do
  let l := (← get).l
  if l.fp64 then pure v else keepF (cvtElem (.fix 32 true) (.fp .fp64) (l.n c) .rne (v.toNat % 2 ^ 32))

/-- A computation for each element of a list, in order. -/
def eachM {α β : Type} (f : α → SolvM β) : List α → SolvM (List β)
  | [] => pure []
  | a :: r => do
    let b ← f a
    let t ← eachM f r
    pure (b :: t)

/-- A state carried over a list, in order. -/
def overM {α σ : Type} (f : σ → α → SolvM σ) : σ → List α → SolvM σ
  | s, [] => pure s
  | s, a :: r => do overM f (← f s a) r

/-! ## Patterns (R202, R204, R209) -/

/-- Ancestors of DOF k in increasing order, over at most `fuel` steps. -/
def ancFrom (l : Lath) : Nat → Nat → List Nat
  | 0, _ => []
  | fuel + 1, k =>
    let p := nth 0xFFFF l.parent k
    if p < l.ndof then p :: ancFrom l fuel p else []
/-- Ancestors of DOF k. -/
def Lath.anc (l : Lath) (k : Nat) : List Nat := ancFrom l l.ndof k
/-- Pattern position of the first entry of column k. -/
def Lath.colStart (l : Lath) (k : Nat) : Nat := (List.range k).foldl (fun n j => n + 1 + (l.anc j).length) 0
/-- NFACT. -/
def Lath.nfact (l : Lath) : Nat := l.colStart l.ndof
/-- Pattern position of entry (i, k). -/
def Lath.pos (l : Lath) (i k : Nat) : Nat := l.colStart k + (k :: l.anc k).idxOf i
/-- NROW. -/
def Lath.nrow (l : Lath) : Nat := l.rows.length
/-- Jacobian position of the first entry of row r. -/
def Lath.jacStart (l : Lath) (r : Nat) : Nat := (l.jac.take r).foldl (fun n x => n + x.length) 0
/-- NJAC. -/
def Lath.njac (l : Lath) : Nat := l.jacStart l.jac.length
/-- The DOFs on row r. -/
def Lath.jrow (l : Lath) (r : Nat) : List Nat := nth [] l.jac r
/-- J[r][k] on the pattern. -/
def World.jAt (w : World) (l : Lath) (r k : Nat) : W64 := aget 0 w.entries (0x6000 + l.jacStart r + (l.jrow r).idxOf k)
/-- The rows that share a Delassus entry with row r, in increasing order. -/
def Lath.delRow (l : Lath) (r : Nat) : List Nat :=
  (List.range l.nrow).filter (fun s => if s ≤ r then (nth [] l.del r).contains s else (nth [] l.del s).contains r)
/-- A[r][s] of the symmetric Delassus matrix. -/
def World.delAt (w : World) (r s : Nat) : W64 := aget 0 w.delA (max r s * 4096 + min r s)

/-- Whether an entry index is valid for the lath (R209). -/
def Lath.validIndex (l : Lath) (i : Nat) : Bool :=
  if i < 0x4000 then decide (i < l.nfact)
  else if i < 0x4200 then decide (i - 0x4000 < l.ndof)
  else if i < 0x4A00 then decide (i - 0x4200 < l.nrow)
  else if i < 0x5200 then decide (i - 0x4A00 < l.nrow)
  else if i < 0x5A00 then decide (i - 0x5200 < l.nrow)
  else if i < 0x5C00 then decide (i - 0x5A00 < l.ndof)
  else if i < 0x6000 then false
  else decide (i - 0x6000 < l.njac)

/-- The lane groups of a slot (R234): how many, and the worlds of one. -/
def Lath.groups (l : Lath) : Nat := if l.fp64 then l.nworld else (l.nworld + Config.vlen - 1) / Config.vlen
/-- The worlds of a lane group. -/
def Lath.members (l : Lath) (g : Nat) : List Nat :=
  if l.fp64 then (List.range l.nworld).filter (· == g)
  else (List.range l.nworld).filter (fun w => w / Config.vlen == g)

/-! ## Factorisation and solve (R215 to R217) -/

/-- The magnitude of a pivot compared with PIVOT_MIN: whether it passes, and whether it is below 0. -/
def pivotOk (l : Lath) (d : W64) : Bool × Bool :=
  if l.fp64 then
    let v := fpVal .fp64 d.toNat
    (!flt (fabs v) (fpVal .fp64 l.pivotMin.toNat), flt v (.fin false 0 0))
  else (decide ((sx d).natAbs ≥ l.pivotMin.toNat), decide (sx d < 0))

/-- guard (R216, R217) on a pivot that has been read: the pivot that the factorisation uses. -/
def guard (d : W64) (k : Nat) : SolvM W64 := fun x =>
  let l := x.l
  let pm := l.pivotMin
  let first := if x.w.isOver then x.w else { x.w with pivotDof := if x.w.pivotDof = 0xFFFF then k else x.w.pivotDof }
  if l.fp64 && nonFin d then (pm, { x with w := first.endAs .diverged })
  else
    let (ok, neg) := pivotOk l d
    if ok then (d, x)
    else if x.w.isOver then (pm, x)
    else if l.abandon then (pm, { x with w := first.endAs .abandoned })
    else
      let v := if neg then (if l.fp64 then neg64 pm else ux (twos 32 (-(sx pm)))) else pm
      (v, { x with w := { first with regularised := satTo 0xFFFF first.regularised 1 } })

/-- The fraction bits of dinv[k] (R207). -/
def Lath.fDinv (l : Lath) (k : Nat) : Int := 31 - (l.n cMass : Int) + ((nth 0 l.rsCol k : Nat) : Int)
/-- The fraction bits of ainv[r] (R207). -/
def Lath.fAinv (l : Lath) (r : Nat) : Int := 31 - (l.n cDel : Int) + ((nth 0 l.rsRow r : Nat) : Int)

/-- Column k of the factorisation (R215). -/
def factorColumn (k : Nat) : SolvM Unit := do
  let l := (← get).l
  let anc := l.anc k
  let d ← guard (← readE (aget 0 (← get).w.a (l.pos k k))) k
  updW (fun w => { w with a := aset 0 w.a (l.pos k k) d })
  let r ← recip (nth 0 l.rsCol k) d
  let ls ← eachM (fun j => do
    mul true (l.n cMass) (l.fDinv k) (l.n cFactor) (aget 0 (← get).w.a (l.pos j k)) r) anc
  let _ ← eachM (fun (p : Nat × W64) => do
    let j := p.1
    eachM (fun i => do
      let w := (← get).w
      let v ← subMul (l.n cMass) (l.n cFactor) (l.n cMass) (aget 0 w.a (l.pos i j)) (aget 0 w.a (l.pos i k)) p.2
      updW (fun w => { w with a := aset 0 w.a (l.pos i j) v })) (anc.dropWhile (· != j))) (anc.zip ls)
  updW (fun w => { w with a := (anc.zip ls).foldl (fun m p => aset 0 m (l.pos p.1 k) p.2) w.a, dinv := w.dinv ++ [r] })

/-- factor (R215). -/
def factor : SolvM Unit := do
  let l := (← get).l
  updW (fun w => { w with a := w.entries.filter (fun p => p.1 < 0x4000), dinv := [] })
  let _ ← eachM factorColumn (List.range l.ndof)

/-- The forward-substitution part of solve over the DOFs `ks`, leaves first. -/
def forwardSub (ks : List Nat) (z : List W64) : SolvM (List W64) := do
  let x ← get
  let l := x.l
  let n : Int := l.n cInter
  overM (fun z k => overM (fun (z : List W64) i => do
    let v ← subMul (l.n cFactor) n n (nth 0 z i) (aget 0 x.w.a (l.pos i k)) (nth 0 z k)
    pure (setNth 0 z i v)) z (l.anc k)) z ks

/-- solve (R215) of y, which is at class `ci`, to class `co`. -/
def solve (ci co : Nat) (y : List W64) : SolvM (List W64) := do
  let x ← get
  let l := x.l
  let ks := List.range l.ndof
  let n : Int := l.n cInter
  let c : Int := l.n co
  let z ← eachM (fun k => shiftTo (l.n ci) (l.n cInter) (nth 0 y k)) ks
  let z ← forwardSub ks z
  let z ← eachM (fun k => mul true n (l.fDinv k) c (nth 0 z k) (nth 0 x.w.dinv k)) ks
  overM (fun z k => overM (fun (z : List W64) i => do
    let v ← subMul (l.n cFactor) c c (nth 0 z k) (aget 0 x.w.a (l.pos i k)) (nth 0 z i)
    pure (setNth 0 z k v)) z (l.anc k)) z ks.reverse

/-! ## Free motion and constraint set-up (R214, R218, R219) -/

/-- Phase 3: v_free = v + h × solve(τ − c); product and sum round apart (R207). -/
def freeMotion : SolvM Unit := do
  let l := (← get).l
  let w := (← get).w
  let y ← eachM (fun k => do
    let t ← ofClass cForce (aget 0 w.entries (0x4000 + k))
    let c ← ofClass cForce (aget 0 w.entries (0x5A00 + k))
    toClass cForce (← f64 3 t c 0)) (List.range l.ndof)
  let x ← solve cForce cVel y
  let vf ← eachM (fun k => do
    f64 2 (nth 0 w.v k) (← f64 4 l.h (← ofClass cVel (nth 0 x k)) 0) 0) (List.range l.ndof)
  updW (fun w => { w with vfree := vf })

/-- tree_sum over row r's Jacobian pattern of mul(J[r][k], x[k], class) (R218). -/
def jacDot (cx c r : Nat) (x : List W64) : SolvM W64 := do
  let a ← get
  let l := a.l
  let ts ← eachM (fun k => mul false (l.n cJac) (l.n cx) (l.n c) (a.w.jAt l r k) (nth 0 x k)) (l.jrow r)
  treeSum ts

/-- J transposed times λ for DOF k over the rows `rs`, in increasing r (R218). -/
def jacT (cx c : Nat) (rs : List Nat) (lam : List W64) (k : Nat) : SolvM W64 := do
  let a ← get
  let l := a.l
  let ts ← eachM (fun r => mul false (l.n cJac) (l.n cx) (l.n c) (a.w.jAt l r k) (nth 0 lam r))
    (rs.filter (fun r => (l.jrow r).contains k))
  treeSum ts

/-- The DOFs at which Y[r] can be non-zero: the row's DOFs and their ancestors, in increasing order. -/
def Lath.reach (l : Lath) (r : Nat) : List Nat :=
  (List.range l.ndof).filter (fun k => (l.jrow r).any (fun j => j == k || (l.anc j).contains k))

/-- Y[r] and S[r] (R218). -/
def rowYS (r : Nat) : SolvM (List W64 × List W64) := do
  let a ← get
  let l := a.l
  let ks := l.reach r
  let z ← eachM (fun k => shiftTo (l.n cJac) (l.n cInter)
    (if (l.jrow r).contains k then a.w.jAt l r k else 0)) (List.range l.ndof)
  let y ← forwardSub ks z
  let n : Int := l.n cInter
  let s ← eachM (fun k => if ks.contains k then mul true n (l.fDinv k) n (nth 0 y k) (nth 0 a.w.dinv k) else pure 0)
    (List.range l.ndof)
  pure (y, s)

/-- The sign of a diagonal Delassus entry: whether it is exactly 0, and whether it is below 0. -/
def diagSign (l : Lath) (v : W64) : Bool × Bool :=
  if l.fp64 then
    let x := fpVal .fp64 v.toNat
    (isZero x, flt x (.fin false 0 0))
  else (sx v == 0, decide (sx v < 0))

/-- Phase 4: e, Y, S, A and the reciprocals of the rows (R218, R219). -/
def setUp : SolvM Unit := do
  let l := (← get).l
  let rows := List.range l.nrow
  let vq ← eachM (toClass cVel) (← get).w.vfree
  let e ← eachM (fun r => do
    let jv ← jacDot cVel cVel r vq
    subs (aget 0 (← get).w.entries (0x4200 + r)) jv) rows
  let ys ← eachM rowYS rows
  let n : Int := l.n cInter
  let _ ← eachM (fun r => eachM (fun s => do
    let ks := (l.reach r).filter (fun k => (l.reach s).contains k)
    let ts ← eachM (fun k => mul false n n (l.n cDel) (nth 0 (nth ([], []) ys r).2 k) (nth 0 (nth ([], []) ys s).1 k)) ks
    let v ← treeSum ts
    updW (fun w => { w with delA := aset 0 w.delA (r * 4096 + s) v })) (nth [] l.del r)) rows
  let inv ← eachM (fun r => do
    let d := (← get).w.delAt r r
    let (zero, neg) := diagSign l (← readE d)
    if zero then pure (0, true)
    else if neg then do
      updW (fun w => w.endAs .diverged)
      pure (0, true)
    else do
      let v ← recip (nth 0 l.rsRow r) d
      pure (v, false)) rows
  updW (fun w => { w with
    e := e, ainv := inv.map (·.1), inactive := inv.map (·.2)
    lam := (w.lam.zip (inv.map (·.2))).map (fun p => if p.2 then 0 else p.1) })

/-! ## Iterations (R220 to R224) -/

/-- x < y for elements of the lath. -/
def lessE (x y : W64) : SolvM Bool := do
  let a ← readE x
  let b ← readE y
  pure (if (← get).l.fp64 then flt (fpVal .fp64 a.toNat) (fpVal .fp64 b.toNat) else decide (sx a < sx b))

/-- x held in [lo, hi]: in an FP64 lath by F64 MAX and MIN, of which a NaN operand gives a NaN (R565). -/
def clampE (x lo hi : W64) : SolvM W64 := do
  if (← get).l.fp64 then f64 7 (← f64 8 x lo 0) hi 0
  else
    let x := if sx x < sx lo then lo else x
    pure (if sx hi < sx x then hi else x)

/-- The negative of an element. -/
def negE (l : Lath) (x : W64) : W64 := if l.fp64 then neg64 x else ux (twos 32 (-(sx x)))

/-- project (R221). -/
def project (r : Nat) (x : W64) (lam : List W64) : SolvM W64 := do
  let a ← get
  let l := a.l
  let (kind, nr) := nth (0, 0) l.rows r
  match kind with
  | 0 => pure x
  | 1 => clampE x (aget 0 a.w.entries (0x4A00 + r)) (aget 0 a.w.entries (0x5200 + r))
  | _ => do
    let b ← mul false (l.n cMu) (l.n cImp) (l.n cImp) (aget 0 a.w.entries (0x5200 + r)) (nth 0 lam nr)
    clampE x (negE l b) b

/-- The magnitude of new − old, exact in a Q31 lath (R220). -/
def absDiff (new old : W64) : SolvM W64 := do
  if (← get).l.fp64 then do
    let d ← f64 3 new old 0
    pure (d &&& 0x7FFFFFFFFFFFFFFF#64)
  else pure (BitVec.ofNat 64 (sx new - sx old).natAbs)

/-- The larger of two residuals. -/
def maxRho (a b : W64) : SolvM W64 := do
  if (← get).l.fp64 then f64 8 a b 0 else pure (if a.toNat < b.toNat then b else a)

/-- One PGS sweep (R220) over the rows `rs`, with right side `e` at class `ce`, λ at class `cl` and projection where `proj`; the
result is ρ. -/
def sweep (rs : List Nat) (e : List W64) (ce cl : Nat) (proj : Bool) (lam : List W64) : SolvM (W64 × List W64) := do
  let a ← get
  let l := a.l
  overM (fun (p : W64 × List W64) r => do
    let lam := p.2
    let ts ← eachM (fun s => mulNeg (l.n cDel) (l.n cl) (l.n ce) (a.w.delAt r s) (nth 0 lam s))
      ((l.delRow r).filter (fun s => proj || rs.contains s))
    let t ← treeSum ts
    let res ← adds (nth 0 e r) t
    let delta ← mul true (l.n ce) (l.fAinv r) (l.n cl) res (nth 0 a.w.ainv r)
    let sum ← adds (nth 0 lam r) delta
    let new ← if proj then project r sum lam else pure sum
    let df ← absDiff new (nth 0 lam r)
    let rho ← maxRho p.1 df
    pure (rho, setNth 0 lam r new)) ((0 : W64), lam) rs

/-- A times a vector, at row r over the rows `rs`. -/
def delDot (rs : List Nat) (x : List W64) (cx c r : Nat) : SolvM W64 := do
  let a ← get
  let l := a.l
  let ts ← eachM (fun s => mul false (l.n cDel) (l.n cx) (l.n c) (a.w.delAt r s) (nth 0 x s))
    ((l.delRow r).filter (fun s => rs.contains s))
  treeSum ts

/-- The dot product of two FP64 vectors over the rows `rs` (R222). -/
def dotF (rs : List Nat) (x y : List W64) : SolvM W64 := do
  let ts ← eachM (fun r => f64 4 (nth 0 x r) (nth 0 y r) 0) rs
  treeSum ts

/-- The start of conjugate gradient (R222): the residual e − A λ and the first direction. -/
def cgStart (rs : List Nat) (e : List W64) (ce cl : Nat) (lam : List W64) : SolvM Unit := do
  let l := (← get).l
  let res ← eachM (fun r => if rs.contains r then do subs (nth 0 e r) (← delDot rs lam cl ce r) else pure 0) (List.range l.nrow)
  let d ← if l.fp64 then dotF rs res res else pure 0
  updW (fun w => { w with res := res, dir := res, rs := d })

/-- A free value of 32 bits (log 5). -/
def freeQ : SolvM Num := fun x => (⟨(Config.freeValue x.free).toNat % 2 ^ 32, {}⟩, { x with free := x.free + 1 })

/-- One conjugate-gradient iteration over the rows `rs` (R222); the result is ρ. In a Q31 lath the manual gives no class to the
direction, the dot products, α and β: each value computed through them is free (log 31). -/
def cgIter (rs : List Nat) (lam : List W64) : SolvM (W64 × List W64) := do
  let x ← get
  let l := x.l
  if l.fp64 then do
    let ap ← eachM (fun r => if rs.contains r then delDot rs x.w.dir 0 0 r else pure 0) (List.range l.nrow)
    let pap ← dotF rs x.w.dir ap
    let alpha ← mul true 0 0 0 x.w.rs (← recip 0 pap)
    let lam' ← overM (fun (v : List W64) r => do
      let y ← f64 2 (nth 0 v r) (← f64 4 alpha (nth 0 x.w.dir r) 0) 0
      pure (setNth 0 v r y)) lam rs
    let res ← overM (fun (v : List W64) r => do
      let y ← subMul 0 0 0 (nth 0 v r) alpha (nth 0 ap r)
      pure (setNth 0 v r y)) x.w.res rs
    let rs' ← dotF rs res res
    let beta ← mul true 0 0 0 rs' (← recip 0 x.w.rs)
    let dir ← overM (fun (v : List W64) r => do
      let y ← f64 2 (nth 0 res r) (← f64 4 beta (nth 0 v r) 0) 0
      pure (setNth 0 v r y)) x.w.dir rs
    updW (fun w => { w with res := res, dir := dir, rs := rs' })
    let rho ← overM (fun (m : W64) r => maxRho m (nth 0 res r &&& 0x7FFFFFFFFFFFFFFF#64)) 0 rs
    pure (rho, lam')
  else do
    let _ ← keepQ true (← freeQ)
    let lam' ← overM (fun (v : List W64) r => do pure (setNth 0 v r (ux (← freeQ).v))) lam rs
    let res ← overM (fun (v : List W64) r => do pure (setNth 0 v r (ux (← freeQ).v))) x.w.res rs
    let _ ← keepQ true (← freeQ)
    updW (fun w => { w with res := res })
    pure (rs.foldl (fun m r => let v := BitVec.ofNat 64 (sx (nth 0 res r)).natAbs; if m.toNat < v.toNat then v else m) 0, lam')

/-- ρ ≤ tol (R224). -/
def within (rho tol : W64) : SolvM Bool := do
  if (← get).l.fp64 then
    let b ← readE tol
    pure (!isNan (fpVal .fp64 rho.toNat) && !isNan (fpVal .fp64 b.toNat) && !flt (fpVal .fp64 b.toNat) (fpVal .fp64 rho.toNat))
  else pure (decide ((rho.toNat : Int) ≤ sx tol))

/-- The rows that the iterations update. -/
def World.activeRows (w : World) (l : Lath) : List Nat := (List.range l.nrow).filter (fun r => !(nth false w.inactive r))

/-- The world has ended: it is ABANDONED or DIVERGED, or a value of its step is NaN or infinite, which makes it DIVERGED (R229, R230). -/
def World.past (w : World) : Bool := w.isOver || w.nonFinite

/-- Iteration `it` of a world in the forward solve, up to its boundary (R220 to R224). Of a world that has ended the lane goes on, and its
residual and its iterations are those of its last boundary before (R217, R236). -/
def iterateWorld (it : Nat) : SolvM Unit := do
  let x ← get
  let rows := x.w.activeRows x.l
  let (rho, lam) ← if x.l.cg then cgIter rows x.w.lam else sweep rows x.w.e cVel cImp true x.w.lam
  let met ← within rho x.l.tol
  updW (fun w =>
    let w := { w with lam := lam }
    if w.past then w
    else
      let w := { w with residual := rho, iters := it }
      if met then { w with status := .converged, fixed := true } else w)

/-! ## Integration (R228, R229) -/

/-- FMA over signed terms from +0, in order. -/
def fmaChain (ts : List (Bool × W64 × W64)) : SolvM W64 :=
  overM (fun s (t : Bool × W64 × W64) => f64 1 (if t.1 then neg64 t.2.1 else t.2.1) t.2.2 s) 0 ts

/-- The orientation update of a BALL joint: coordinates q from offset o, rotational velocity w. -/
def ballStep (q : List W64) (o : Nat) (w : List W64) : SolvM (List W64) := do
  let h := (← get).l.h
  let hh ← f64 4 h 0x3FE0000000000000#64 0
  let qw := nth 0 q o
  let qx := nth 0 q (o + 1)
  let qy := nth 0 q (o + 2)
  let qz := nth 0 q (o + 3)
  let wx := nth 0 w 0
  let wy := nth 0 w 1
  let wz := nth 0 w 2
  let terms := [[(true, qx, wx), (true, qy, wy), (true, qz, wz)],
                [(false, qw, wx), (false, qy, wz), (true, qz, wy)],
                [(false, qw, wy), (true, qx, wz), (false, qz, wx)],
                [(false, qw, wz), (false, qx, wy), (true, qy, wx)]]
  let p ← eachM (fun (t : List (Bool × W64 × W64) × Nat) => do
    let s ← fmaChain t.1
    f64 1 hh s (nth 0 q (o + t.2))) terms.zipIdx
  let n ← fmaChain (p.map (fun v => (false, v, v)))
  let root ← f64 6 n 0 0
  let u ← eachM (fun v => f64 5 v root 0) p
  pure (u.zipIdx.foldl (fun q e => setNth 0 q (o + e.2) e.1) q)

/-- The position update of every joint in order (R228): coordinates and the offset of the next joint's. -/
def moveJoints (v : List W64) : List (Nat × Nat) → Nat → List W64 → SolvM (List W64)
  | [], _, q => pure q
  | (kind, first) :: r, o, q => do
    let slide := fun (q : List W64) (i j : Nat) => (do
      let y ← f64 1 (← get).l.h (nth 0 v j) (nth 0 q i)
      pure (setNth 0 q i y) : SolvM (List W64))
    match kind with
    | 0 => moveJoints v r (o + 1) (← slide q o first)
    | 1 => moveJoints v r (o + 1) (← slide q o first)
    | 2 => moveJoints v r (o + 4) (← ballStep q o (v.drop first))
    | 3 => do
      let q ← slide q o first
      let q ← slide q (o + 1) (first + 1)
      let q ← slide q (o + 2) (first + 2)
      moveJoints v r (o + 7) (← ballStep q (o + 3) (v.drop (first + 3)))
    | _ => moveJoints v r o q

/-- The RESIDUAL field: ρ in FP32 under R140. -/
def residual32 : SolvM Nat := do
  let x ← get
  if x.l.fp64 then toFp32 x.w.residual
  else
    let r := fpPack .fp32 .rne (.fin false x.w.residual.toNat (-(x.l.n (if x.l.cg then cVel else cImp) : Int)))
    countR r.c
    pure r.v

/-- Phases 6 and 7 of a world (R214, R228, R229): a world that ends keeps its state of before the step and freezes. -/
def integrateWorld : SolvM Unit := do
  let x ← get
  let l := x.l
  let jt ← eachM (jacT cImp cForce (List.range l.nrow) x.w.lam) (List.range l.ndof)
  let s ← solve cForce cVel jt
  let v ← eachM (fun k => do f64 2 (nth 0 x.w.vfree k) (← ofClass cVel (nth 0 s k)) 0) (List.range l.ndof)
  let q ← moveJoints v l.joints 0 x.w.q
  updW (fun w =>
    let w := if w.nonFinite || (q ++ v).any nonFin then w.endAs .diverged else w
    if w.isOver then { w with frozen := true, fresh := false } else { w with q := q, v := v, fresh := false })
  let r ← residual32
  updW (fun w => { w with recRes := r })

/-! ## Slots and groups -/

/-- A world of a slot. -/
def Slot.world (x : Slot) (w : Nat) : World := aget {} x.worlds w
/-- The lath bound to a slot. -/
def State.slotLath (s : State) (k : Nat) : Option Lath := (s.slot k).lath.bind (fun i => afind s.laths i)

/-- The data of a world that lasts from step to step (R237). -/
def World.newStep (w : World) : World :=
  { entries := w.entries, q := w.q, v := w.v, lam := w.lam, frozen := w.frozen, fresh := w.fresh }

/-- A new step of the slot begins: its worlds wait for their deltas (R213, R214). -/
def Slot.newStep (x : Slot) (l : Lath) (step : W64) : Slot :=
  { x with step := step, groupIters := []
           worlds := (List.range l.nworld).foldl (fun m w => aput m w ((aget {} m w).newStep)) x.worlds }

/-- A NaN that the solver's programs produce is subject to the NaN watch like any other (R149): the tile that produced it latches it where
it has latched none, and sends its notice (R146). Which tile and word that is the manual does not say: free values (log 5); so is the tag
where no LAUNCH runs on the slot. -/
def State.solvNan (s : State) (k : Nat) : State :=
  let (t, s) := s.free
  let (c, s) := s.free
  let tag := match (s.slot k).launch with | some L => L.tag | none => c.toNat / 2 ^ 16 % Config.opTags
  s.nanAt (t.toNat % Config.tiles) (c.toNat % 256) (c.toNat / 256 % 2) tag

/-- The counts of the solver's lanes enter the sums of the slot's LAUNCH (R57, R217). -/
def State.solvCount (s : State) (k : Nat) (c : Cnt) : State :=
  let s := s.updSlot k (fun x => { x with launch := x.launch.map (fun L =>
    { L with sat := cap32 L.sat c.sat, flush := cap32 L.flush c.flush, nan := cap32 L.nan c.nan }) })
  if c.nan ≠ 0 then s.solvNan k else s

/-- A computation on a world of a slot. -/
def State.onWorld (s : State) (k : Nat) (l : Lath) (w : Nat) (f : SolvM Unit) : State :=
  let x := s.slot k
  let (_, a) := f { l := l, w := x.world w, free := s.freeCtr }
  let s := { s with freeCtr := a.free }
  let s := s.updSlot k (fun x => { x with worlds := aput x.worlds w a.w })
  s.solvCount k a.cnt

/-- A computation on each world of a list. -/
def State.onWorlds (s : State) (k : Nat) (l : Lath) (ws : List Nat) (f : SolvM Unit) : State :=
  ws.foldl (fun s w => s.onWorld k l w f) s

/-! ## Deltas (R210 to R213) -/

/-- The pairs of a delta packet's payload (R210). -/
def deltaPairs (payload : List Flit) : List (Nat × Nat) :=
  let hd := (nth 0 payload 0).toNat
  tab (min 672 (nfld hd 16 10)) (fun i =>
    let g := i / 8
    let j := i % 8
    (nfld (nth 0 payload (1 + 3 * g)).toNat (16 * j) 16,
     nfld (nth 0 payload (2 + 3 * g + j / 4)).toNat (32 * (j % 4)) 32))

/-- DELTA_PACKET_INGEST (R209 to R213). -/
def execDeltaPacketIngest (tile slot : Nat) (payload : List Flit) (s : State) : Host.Outcome State Fault Refusal :=
  let hd := (nth 0 payload 0).toNat
  let x := s.slot slot
  let world := nfld hd 0 7
  match s.slotLath slot with
  | none => done s (s.tileFault tile .deltaStep)
  | some l =>
    if nfld hd 48 32 ≠ fld x.step 0 32 ∨ x.lath ≠ some (nfld hd 32 8) ∨ nfld hd 40 8 ≠ slot then
      done s (s.tileFault tile .deltaStep)
    else
      let ps := deltaPairs payload
      if l.nworld ≤ world ∨ ps.any (fun p => !l.validIndex p.1) then done s (s.tileFault tile .deltaIndex)
      else
        let value := fun (v : Nat) =>
          if l.fp64 then cvtElem (.fp .fp32) (.fp .fp64) 0 .rne v else ⟨v, {}⟩
        let vs := ps.map (fun p => (p.1, value p.2))
        let s := s.updSlot slot (fun x =>
          let w := x.world world
          let w := { w with entries := vs.foldl (fun m p => aset 0 m p.1 (BitVec.ofNat 64 p.2.v)) w.entries }
          let w := if nfld hd 8 1 = 1 then { w with frozen := false, fresh := true } else w
          let w := if nfld hd 7 1 = 1 then { w with ended := true } else w
          { x with worlds := aput x.worlds world w })
        done s (s.solvCount slot (vs.foldl (fun c p => cntAdd c p.2.c) {}))

/-! ## The forward step of a group (R213, R214, R225) -/

/-- A world's factorisation, free motion and set-up; the first λ of its iterations (R223). -/
def startWorld : SolvM Unit := do
  factor
  freeMotion
  let l := (← get).l
  updW (fun w => { w with lam := if l.warm && !w.fresh then tab l.nrow (nth 0 w.lam) else List.replicate l.nrow 0 })
  setUp
  let x ← get
  if l.cg then cgStart (x.w.activeRows l) x.w.e cVel cImp x.w.lam else pure ()

/-- A change to each world of a list. -/
def Slot.updWorlds (x : Slot) (ws : List Nat) (f : World → World) : Slot :=
  { x with worlds := ws.foldl (fun m w => aput m w (f (aget {} m w))) x.worlds }

/-- Whether every world of a list satisfies p. -/
def Slot.allWorlds (x : Slot) (ws : List Nat) (p : World → Bool) : Bool := ws.all (fun w => p (x.world w))

/-- Whether the phases of the slot's step may run: a LAUNCH has begun it and has not been stopped (R100, R282, R480). -/
def Slot.solving (x : Slot) : Bool := match x.launch with | some l => l.status == 0 | none => false

/-- The worlds of a list that are not frozen out of the step. -/
def Slot.live (x : Slot) (ws : List Nat) : List Nat := ws.filter (fun w => (x.world w).status != .frozen)

/-- Between the evaluation of a COMMIT and its beat, no phase starts of a lath that it replaces or rebinds (R237, R428). -/
def State.lathHeld (s : State) (lath : Option Nat) : Bool :=
  s.cfg.commit.isSome && (match lath with | some i => s.cfg.lathBusy.contains i | none => false)

/-- FACTORISATION_START (R213, R215 to R219, R223). -/
def execFactorisationStart (slot group : Nat) (s : State) : Host.Outcome State Fault Refusal :=
  match s.slotLath slot with
  | none => done s s
  | some l =>
    let ws := l.members group
    let x := s.slot slot
    if s.hang.frozen = some slot ∨ ws = [] ∨ !x.solving ∨ s.lathHeld x.lath ∨ !x.allWorlds ws (fun w => w.ended && w.phase == .ingest) then done s s
    else
      let s := s.updSlot slot (fun x => x.updWorlds ws (fun w =>
        if w.frozen then { w with phase := .iterating, status := .frozen, fixed := true } else { w with phase := .iterating }))
      done s (s.onWorlds slot l ((s.slot slot).live ws) startWorld)

/-- The deadline beat of a phase, if one applies (R226, R227, R239). -/
def State.deadline (s : State) (slot ofs : Nat) : Option W64 :=
  match (s.slot slot).launch with
  | some L => if ofs = 0 ∨ bitOf s.solvCtrl 0 then none else some (L.armBeat + BitVec.ofNat 64 ofs)
  | none => none

/-- ITERATION_BOUNDARY: one iteration of the group runs and ends (R220 to R227). -/
def execIterationBoundary (slot group : Nat) (s : State) : Host.Outcome State Fault Refusal :=
  match s.slotLath slot with
  | none => done s s
  | some l =>
    let ws := l.members group
    if s.hang.frozen = some slot ∨ ws = [] ∨ !(s.slot slot).solving ∨ !(s.slot slot).allWorlds ws (fun w => w.phase == .iterating) then done s s
    else
      let it := aget 0 (s.slot slot).groupIters group + 1
      let s := s.onWorlds slot l (((s.slot slot).live ws).filter (fun w => !((s.slot slot).world w).conv)) (iterateWorld it)
      let late := match s.deadline slot l.deadlineOfs with | some d => decide (d.toNat ≤ s.beat.toNat) | none => false
      let s := s.updSlot slot (fun x => { x with groupIters := aset 0 x.groupIters group it })
      let x := s.slot slot
      let stop := x.allWorlds ws (fun w => w.fixed) || it == l.iterCap || late
      done s (if stop then s.updSlot slot (fun x => x.updWorlds ws (fun w =>
          if w.fixed then { w with phase := .iterated }
          else { w with phase := .iterated, status := .notConverged, fixed := true, deadline := decide (it < l.iterCap) }))
        else s)

/-! ## Outputs (R230 to R233, R241) -/

/-- STATUS code of a world (R232). -/
def wStatCode : WStat → Nat
  | .converged => 0 | .notConverged => 1 | .abandoned => 2 | .diverged => 3 | .frozen => 4
/-- VALID (R230). -/
def World.valid (w : World) : Bool := w.fixed && (w.status == .converged || w.status == .notConverged)

/-- A world record (R232). -/
def worldRecord (w : World) : Flit :=
  BitVec.ofNat 128 (wStatCode w.status + (if w.valid then 8 else 0) + (if w.deadline then 16 else 0) + w.adjStatus * 2 ^ 5
    + w.iters % 256 * 2 ^ 8 + w.adjIters % 256 * 2 ^ 16 + w.regularised * 2 ^ 32 + w.pivotDof * 2 ^ 48 + w.qsat * 2 ^ 64
    + w.sat * 2 ^ 80 + w.recRes * 2 ^ 96)

/-- Bytes written by the module's own work to a global address: stack memory, a local store, the flags, or another module. -/
def State.globalStore (s : State) (ga : W64) (bs : List Byte) : State :=
  if gaModule ga ≠ s.moduleId then s.toEdge (s.mkFab .write 1 ga (toFlits bs)) .edge
  else match gaSpace ga with
    | 0 => (s.wrMem (gaOff ga) bs).2
    | 1 => s.writeLs (gaOff ga / Config.lsStride) (bs.zipIdx.map (fun p => (gaOff ga % Config.lsStride + p.2, p.1)))
    | _ => s.edgeRequest .edge .write 1 2 (gaOff ga) 0 0 0 bs

/-- The output area of a slot's step: the validity mask and the worlds' records (R231). -/
def State.writeOutputs (s : State) (slot : Nat) (l : Lath) : State :=
  let x := s.slot slot
  let ws := List.range l.nworld
  let mask := ws.foldl (fun m w => if (x.world w).valid then m + 2 ^ w else m) 0
  let bs := leBytes 64 mask ++ ws.flatMap (fun w => flitBytes (worldRecord (x.world w)))
  s.globalStore (l.outBase + BitVec.ofNat 64 (x.step.toNat % 2 * 0x1000)) bs

/-- SOLVER_INTEGRATION (R228 to R232): the group's worlds integrate; with the slot's last group the outputs are written. -/
def execSolverIntegration (slot group : Nat) (s : State) : Host.Outcome State Fault Refusal :=
  match s.slotLath slot with
  | none => done s s
  | some l =>
    let ws := l.members group
    if s.hang.frozen = some slot ∨ ws = [] ∨ !(s.slot slot).solving ∨ !(s.slot slot).allWorlds ws (fun w => w.phase == .iterated) then done s s
    else
      let s := s.onWorlds slot l ((s.slot slot).live ws) integrateWorld
      let s := s.updSlot slot (fun x => x.updWorlds ws (fun w => { w with phase := .done }))
      if (s.slot slot).allWorlds (List.range l.nworld) (fun w => w.phase == .done) then
        done s ((s.writeOutputs slot l).updSlot slot (fun x => if l.hasAdj then x else { x with sumDue := true }))
      else done s s

/-- SOLV_SUM0 and SOLV_SUM1 of a slot (R241). -/
def Slot.sums (x : Slot) (l : Lath) : W64 × W64 :=
  let ws := (List.range l.nworld).map x.world
  let n := fun (p : World → Bool) => (ws.filter p).length
  let st := fun (v : WStat) => n (fun w => w.status == v) % 256
  let reg := ws.foldl (fun a w => satTo 0xFFFF a w.regularised) 0
  let mx := ws.foldl (fun a w => max a w.iters) 0
  (BitVec.ofNat 64 (fld x.step 0 32 + st .notConverged * 2 ^ 32 + st .abandoned * 2 ^ 40 + st .diverged * 2 ^ 48 + st .frozen * 2 ^ 56),
   BitVec.ofNat 64 (reg + n (fun w => w.deadline) % 256 * 2 ^ 16 + n (fun w => w.adjStatus == 1) % 256 * 2 ^ 24
     + n (fun w => w.adjStatus == 2) % 256 * 2 ^ 32 + mx % 256 * 2 ^ 40 + l.id * 2 ^ 48 + fld x.step 0 8 * 2 ^ 56))

/-- At a beat boundary the summaries that are due are written, both together (R241). -/
def State.writeSums (s : State) : State :=
  s.slots.foldl (fun s p =>
    if p.2.sumDue then
      match s.slotLath p.1 with
      | some l => let (a, b) := p.2.sums l
                  s.updSlot p.1 (fun x => { x with sum0 := a, sum1 := b, sumDue := false })
      | none => s.updSlot p.1 (fun x => { x with sumDue := false })
    else s) s

/-- Worlds NOT_CONVERGED, ABANDONED and DIVERGED in the slot's step (R233). -/
def Slot.worldCounts (x : Slot) : Nat × Nat × Nat :=
  let n := fun (v : WStat) => ((x.worlds.filter (fun p => p.2.fixed && p.2.status == v)).length)
  (n .notConverged, n .abandoned, n .diverged)

/-- Whether the slot's forward and adjoint phases have ended, or it has none. -/
def State.solverEnded (s : State) (slot : Nat) : Bool :=
  match s.slotLath slot with
  | none => true
  | some l => (List.range l.nworld).all (fun w => let x := (s.slot slot).world w; x.phase == .done && (!l.hasAdj || x.adjRan))

/-! ## The adjoint (R238 to R240) -/

/-- Whether row r is active for the adjoint (R239). -/
def adjActive (r : Nat) : SolvM Bool := do
  let x ← get
  let l := x.l
  let w := x.w
  let lam := nth 0 w.lam r
  let inside := fun (lo hi : W64) => (do pure ((← lessE lo lam) && (← lessE lam hi)) : SolvM Bool)
  if nth false w.inactive r then pure false
  else match nth (0, 0) l.rows r with
    | (0, _) => pure true
    | (1, _) => inside (aget 0 w.entries (0x4A00 + r)) (aget 0 w.entries (0x5200 + r))
    | (_, nr) => do
      let b ← mul false (l.n cMu) (l.n cImp) (l.n cImp) (aget 0 w.entries (0x5200 + r)) (nth 0 w.lam nr)
      inside (negE l b) b

/-- The first part of adjoint (R238): v̄, the active rows, the right side of sub_solve, and its start from 0. -/
def adjointStart (qbar vbar : List W64) : SolvM AdjRun := do
  let x ← get
  let l := x.l
  let on ← eachM adjActive (List.range l.nrow)
  let rs := (List.range l.nrow).filter (fun r => nth false on r)
  updW (fun w => { w with adjStatus := 1 })
  let vb ← eachM (fun k => do toClass cAdjVel (← f64 1 l.h (nth 0 qbar k) (nth 0 vbar k))) (List.range l.ndof)
  let m1 ← solve cAdjVel cAdjVel vb
  let lbar ← eachM (fun r => if rs.contains r then jacDot cAdjVel cAdjImp r m1 else pure 0) (List.range l.nrow)
  let mu := List.replicate l.nrow (0 : W64)
  if l.cg then cgStart rs lbar cAdjImp cAdjImp mu else pure ()
  pure { rows := rs, lbar := lbar, mu := mu, vbar := vb, qbar := qbar }

/-- At most `n` iterations of sub_solve (R239), each with its boundary: whether it has ended, by ADJ_TOL, the cap or, where `late` says so,
the deadline. -/
def subIterate (late : Bool) : Nat → AdjRun → SolvM (Bool × AdjRun)
  | 0, r => pure (false, r)
  | n + 1, r => do
    let l := (← get).l
    let (rho, mu) ← if l.cg then cgIter r.rows r.mu else sweep r.rows r.lbar cAdjImp cAdjImp false r.mu
    let r := { r with it := r.it + 1, mu := mu }
    updW (fun w => { w with adjIters := r.it })
    if ← within rho l.adjTol then do
      updW (fun w => { w with adjStatus := 0 })
      pure (true, r)
    else if r.it = l.iterCap ∨ late then pure (true, r)
    else subIterate late n r

/-- The last part of adjoint (R238): the gradients τ, c, b, q, v. -/
def adjointEnd (r : AdjRun) : SolvM (List W64 × List W64 × List W64 × List W64 × List W64) := do
  let l := (← get).l
  let ks := List.range l.ndof
  let vf ← eachM (fun k => do subs (nth 0 r.vbar k) (← jacT cAdjImp cAdjVel r.rows r.mu k)) ks
  let u ← solve cAdjVel cAdjVel vf
  let hu ← eachM (fun k => do f64 4 l.h (← ofClass cAdjVel (nth 0 u k)) 0) ks
  let tau ← eachM (toClass cAdjForce) hu
  let c ← eachM (fun v => toClass cAdjForce (neg64 v)) hu
  let v ← eachM (ofClass cAdjVel) vf
  pure (tau, c, r.mu, r.qbar, v)

/-- The pairs of a world's adjoint deltas (R240): an FP64 value goes as FP32. -/
def adjointPairs (tau c mu : List W64) : SolvM (List (Nat × Nat)) := do
  let l := (← get).l
  let val := fun (p : Nat × W64) => (do
    if l.fp64 then pure (p.1, ← toFp32 p.2) else pure (p.1, p.2.toNat % 2 ^ 32) : SolvM (Nat × Nat))
  eachM val (tab l.ndof (fun k => (0x4000 + k, nth 0 tau k)) ++ tab l.nrow (fun r => (0x4200 + r, nth 0 mu r))
    ++ tab l.ndof (fun k => (0x5A00 + k, nth 0 c k)))

/-- A delta packet's payload (R210). -/
def deltaPayload (world slot lath : Nat) (step : W64) (last : Bool) (ps : List (Nat × Nat)) : List Flit :=
  let hd := world + (if last then 128 else 0) + ps.length * 2 ^ 16 + lath * 2 ^ 32 + slot * 2 ^ 40 + fld step 0 32 * 2 ^ 48
  let group := fun (g : List (Nat × Nat)) =>
    let ix := g.zipIdx.foldl (fun n p => n + p.1.1 * 2 ^ (16 * p.2)) 0
    let va := fun k => ((g.drop (4 * k)).take 4).zipIdx.foldl (fun n p => n + p.1.2 % 2 ^ 32 * 2 ^ (32 * p.2)) 0
    [BitVec.ofNat 128 ix, BitVec.ofNat 128 (va 0), BitVec.ofNat 128 (va 1)]
  BitVec.ofNat 128 hd :: (chunks 8 (ps.length / 8 + 1) ps).flatMap group

/-- The delta packets of a world's adjoint on their way (R240); the tiles and the entry point that the adjoint schedule names are
no data of the manual's layouts, so they are free values (log 32). -/
def State.sendDeltas (s : State) (world slot : Nat) (l : Lath) (ps : List (Nat × Nat)) : State :=
  let (d, s) := s.free
  let cs := chunks 672 (ps.length / 672 + 1) ps
  let pkts := cs.zipIdx.map (fun c =>
    ({ kind := 0, dest := d.toNat % Config.tiles, src := d.toNat / Config.tiles % Config.tiles, trigger := d.toNat / 2 ^ 40 % 16,
       lsAddr := d.toNat / 2 ^ 44 % 0xC00, cls := 1, op := 0, beatLo := s.beat.toNat % 4096, addr := 0, tag := 0
       payload := deltaPayload world slot l.id (s.slot slot).step (decide (c.2 + 1 = cs.length)) c.1
       way := hopsOf (wayIn (d.toNat % Config.tiles)) } : MeshPkt))
  { s with mesh := s.mesh ++ pkts }

/-- A world's adjoint has ended: its gradients, its record and its packets (R240, R241). -/
def State.adjointDone (s : State) (slot world : Nat) (l : Lath) (g : List W64 × List W64 × List W64 × List W64 × List W64) (a : Ar)
    (bad : Bool) : State :=
  let (tau, c, mu, q, v) := g
  let (ps, a) := if bad then adjointPairs [] [] [] a else adjointPairs tau c mu a
  let w' := { a.w with
    adjRan := true, adjRun := none
    adjQ := tab l.ndof (fun k => if bad then 0 else nth 0 q k), adjV := tab l.ndof (fun k => if bad then 0 else nth 0 v k) }
  let s := { s with freeCtr := a.free }
  let s := s.updSlot slot (fun x => { x with worlds := aput x.worlds world w' })
  let s := ((s.solvCount slot a.cnt).sendDeltas world slot l ps).writeOutputs slot l
  let all := (s.slot slot).allWorlds (List.range l.nworld) (fun w => w.adjRan)
  if all then s.updSlot slot (fun x => { x with sumDue := true }) else s

/-- ADJOINT of one world (R238 to R240) goes on by `iters` iterations, whose boundaries lie in the present beat: the first such command of the
step begins it, and the one in which sub_solve ends, by ADJ_TOL, the cap or the deadline, ends it (log 32). A world that is not VALID
has no iterations. -/
def execAdjoint (slot world : Nat) (qbar vbar : List W64) (iters : Nat) (s : State) : Host.Outcome State Fault Refusal :=
  match s.slotLath slot with
  | none => done s s
  | some l =>
    let w := (s.slot slot).world world
    if s.hang.frozen = some slot ∨ !(s.slot slot).solving ∨ !l.hasAdj ∨ l.nworld ≤ world ∨ w.phase ≠ .done ∨ w.adjRan then done s s
    else if !w.valid then
      done s (s.adjointDone slot world l ([], [], [], [], []) { l := l, w := { w with adjStatus := 3 }, adj := true, free := s.freeCtr } true)
    else
      let late := match s.deadline slot l.adjDeadlineOfs with | some d => decide (d.toNat ≤ s.beat.toNat) | none => false
      let a0 : Ar := { l := l, w := w, adj := true, free := s.freeCtr }
      let (r, a) := match w.adjRun with
        | some r => (r, { a0 with adjBad := r.bad, w := { w with res := r.res, dir := r.dir, rs := r.rs } })
        | none => adjointStart qbar vbar a0
      let ((over_, r), a) := subIterate late iters r a
      let kept := fun (a : Ar) => { a with w := { a.w with res := w.res, dir := w.dir, rs := w.rs } }
      if over_ then
        let (g, a) := adjointEnd r a
        let a := kept a
        done s (s.adjointDone slot world l g { a with w := { a.w with adjStatus := if a.adjBad then 2 else a.w.adjStatus } } a.adjBad)
      else
        let r := { r with bad := a.adjBad, res := a.w.res, dir := a.w.dir, rs := a.w.rs }
        let s := { s with freeCtr := a.free }
        done s ((s.updSlot slot (fun x => { x with worlds := aput x.worlds world { (kept a).w with adjRun := some r } })).solvCount slot a.cnt)

end Sys2Proof.Machine
end

