-- ==== Sys2Proof/Machine/Training.lean ====
section
/-! DEFINITION. Training numerics (chapter 08): the Ratchet, the agreed gradient scale table, zero runs and dead layers, norms, the
verdict beat and the step record. -/

namespace Sys2Proof.Machine

/-! ## What the mapping names -/

/-- The mapping's entry of a layer. -/
def State.layerMap (s : State) (c l : Nat) : Option Config.LayerMap :=
  s.cfg.active.mapLayers.find? (fun m => m.context == c && m.layer == l)
/-- The mapping's layers of a context, in layer order. -/
def State.layerMaps (s : State) (c n : Nat) : List Config.LayerMap := (List.range n).filterMap (fun l => s.layerMap c l)
/-- The mapping's entry of a context. -/
def State.ctxMap (s : State) (c : Nat) : Option Config.CtxMap := s.cfg.active.mapCtxs.find? (fun m => m.context == c)
/-- The module's domain and its position in it (R370). -/
def State.ownDomain (s : State) : Nat := s.rank / max 1 s.domSize
/-- Position in the domain (R370). -/
def State.ownPos (s : State) : Nat := s.rank % max 1 s.domSize
/-- The ranks of a domain, in position order. -/
def State.domainRanks (s : State) (d : Nat) : List Nat := tab s.domSize (fun p => d * s.domSize + p)

/-! ## Sums of squares, losses (R243, R260) -/

/-- One level of the tree of R172 over FP64 values. -/
def pairUp : List W64 → List W64
  | a :: b :: r => add64 a b :: pairUp r
  | l => l
/-- The tree of R172 over FP64 values with F64 ADD; the empty sum is +0. -/
def tree64 : Nat → List W64 → W64
  | _, [] => 0
  | _, [x] => x
  | 0, x :: _ => x
  | k + 1, l => tree64 k (pairUp l)
/-- A value in FP32 of an FP64 value, to nearest even (R140). -/
def to32 (v : W64) : W32 := BitVec.ofNat 32 (cvtElem (.fp .fp64) (.fp .fp32) 0 .rne v.toNat).v
/-- A norm of the partials of its shards (R260). -/
def norm32 (parts : List W64) : W32 := to32 (BitVec.ofNat 64 (f64Result 6 (tree64 parts.length parts) 0 0).v)
/-- The canonical FP32 NaN. -/
def nan32 : W32 := BitVec.ofNat 32 (fpNan .fp32)
/-- An FP32 encoding that is a NaN or an infinity. -/
def bad32 (v : Nat) : Bool := nfld v 23 8 == 255

/-! ## The Ratchet (R249) -/

/-- The flags of a step record (R263). -/
def rfSkipped : Nat := 1
/-- SKIM. -/
def rfSkim : Nat := 2
/-- GREW. -/
def rfGrew : Nat := 4
/-- FLOOR. -/
def rfFloor : Nat := 8
/-- DEAD_ANY. -/
def rfDeadAny : Nat := 16
/-- DEAD_ACTED. -/
def rfDeadActed : Nat := 32

/-- The Ratchet's move from (E, N): the new pair and the record's flags (R249). -/
def ratchetMove (ctrl : W64) (nonFinite : Bool) (e n : Nat) : Nat × Nat × Nat :=
  let (_, lo, hi, grow) := ratchetCfg ctrl
  if nonFinite then (if e > lo then (e - 1, 0, rfSkipped) else (e, 0, rfSkipped + rfFloor))
  else if n + 1 < grow then (e, n + 1, 0)
  else if e < hi then (e + 1, 0, rfGrew)
  else (e, 0, 0)

/-! ## The agreed scale table (R251 to R254) -/

/-- T_MIN and T_MAX of NUM_SCALE_CTRL (R264). -/
def tMin (w : W64) : Int := let v := sext 8 (fld w 24 8); if v < -120 then -120 else v
/-- T_MAX. -/
def tMax (w : W64) : Int := let v := sext 8 (fld w 32 8); if v > 100 then 100 else v

/-- update_entry of R252. -/
def updateEntry (ctrl : W64) (sat high : Bool) (b : TEntry) : TEntry :=
  let sr := fld ctrl 8 16
  if sat then { t := if b.t + 1 ≤ tMax ctrl then b.t + 1 else tMax ctrl, run := 0 }
  else if high then { b with run := 0 }
  else if sr ≠ 0 ∧ b.run + 1 = sr then { t := if b.t > tMin ctrl then b.t - 1 else b.t, run := 0 }
  else { b with run := (b.run + 1) % 65536 }

/-- skim_exp of R254 on an FP32 maximum. -/
def skimExp (ctrl : W64) (amax : W32) : Int :=
  match fpVal .fp32 amax.toNat with
  | .fin _ m e =>
    if m = 0 then sext 8 (fld ctrl 0 8)
    else
      let k := flog2 m e
      let t := if roundAt .rne m (e + 6 - k) 0 false > 127 then k + 1 else k
      clampInt (tMin ctrl) (tMax ctrl) t
  | _ => sext 8 (fld ctrl 0 8)

/-- The 3 bytes of each entry in block order (R253). -/
def tableBytes (t : List TEntry) : List Byte := t.flatMap (fun b => BitVec.ofNat 8 (twos 8 b.t) :: leBytes 2 b.run)
/-- TABLE_CRC of a context (R253). -/
def Ctx.tableCrc (x : Ctx) : W32 := crc32 (tableBytes x.table)
/-- The resident contexts, in context order: those of which the active image holds a record (R431). -/
def State.resident (s : State) : List Nat := (List.range 256).filter (fun c => s.cfg.active.contexts.any (fun r => r.1 == c))
/-- TABLE_CRC_ALL (R253, R373). -/
def State.tableCrcAll (s : State) : W32 := crc32 (s.resident.flatMap (fun c => leBytes 4 (s.ctx c).tableCrc.toNat))
/-- Entries of a context's table: the blocks that the mapping's shards of its layers name (R251, R381). -/
def State.tableSize (s : State) (c : Nat) : Nat :=
  (s.cfg.active.mapLayers.filter (fun m => m.context == c)).foldl (fun n m =>
    m.shards.foldl (fun n k => k.blocks.foldl (fun n b => max n (b.1 + 1)) n) n) 0

/-- NUM_SCALE_CTRL: SKIM_DONE is the current context's (R264). -/
def State.scaleReg (s : State) : W64 := setBit s.train.scaleCtrl 40 (s.ctx s.train.curCtx).skimDone
/-- NUM_SCALE_STATUS: TABLE_CRC is of the current context's table (R264). -/
def State.scaleStatusReg (s : State) : W64 := setFld s.train.scaleStatus 0 32 (s.ctx s.train.curCtx).tableCrc.toNat
/-- NUM_STEP_RING: REC_BYTES is 128 + 16 × NLAYER of the current context (R264). -/
def State.stepRingReg (s : State) : W64 := setFld s.train.stepRing 16 16 (128 + 16 * (s.ctx s.train.curCtx).nlayer)

/-- The table in use of a context replaced. The copy in stack memory is that of a STEADY range, which changes at verdict beats only (R486). -/
def State.useTable (s : State) (c : Nat) (t : List TEntry) : State := s.updCtx c (fun x => { x with table := t })

/-- The table of a context replaced at a verdict beat, with the copy in stack memory (R253, R431). -/
def State.setTable (s : State) (c : Nat) (t : List TEntry) : State :=
  let s := s.useTable c t
  (s.wrMem (gaOff (s.ctx c).scaleBase) (tableBytes t)).2

/-- The module's own shard of a layer: the one whose number is its position (R381). -/
def State.ownShard (s : State) (m : Config.LayerMap) : Option Config.ShardMap := m.shards[s.ownPos]?

/-- The summary of shard p of a layer, read from stack memory (R399). The bits of the module's own shard are those that its sums gave
(R256). -/
def State.summary (s : State) (m : Config.LayerMap) (p : Config.ShardMap × Nat) : Option (Config.ShardMap × Config.Summary) × State :=
  let (bs, _, s) := s.rdMem p.1.summary p.1.summaryBytes
  (match (if p.2 = s.ownPos then afind (s.ctx m.context).owned m.layer else none), Config.summaryOf bs with
    | some o, some v => some (p.1, { v with nonzero := o.nonzero, sat := o.sat, high := o.high })
    | _, v => v.map (fun v => (p.1, v)), s)

/-- The summaries of the shards of layers, in layer and shard order (R399). -/
def State.summaries (s : State) (ms : List Config.LayerMap) : List (List (Config.ShardMap × Config.Summary)) × State :=
  ms.foldl (fun (a : List (List (Config.ShardMap × Config.Summary)) × State) m =>
    let (l, s) := m.shards.zipIdx.foldl (fun (b : List (Config.ShardMap × Config.Summary) × State) p =>
      let (v, s) := b.2.summary m p
      (b.1 ++ v.toList, s)) ([], a.2)
    (a.1 ++ [l], s)) ([], s)

/-- The blocks of the listed shards whose bit is set. -/
def markedBlocks (f : Config.Summary → List Bool) (l : List (Config.ShardMap × Config.Summary)) : List Nat :=
  l.flatMap (fun p => ((p.1.blocks.zip (f p.2)).filter (fun b => b.2)).map (fun b => b.1.1))

/-! ## The verdict beat (R257) -/

/-- A layer after a committed verdict (R258, R259): its zero run, its dead-layer state and its norms. -/
def Layer.commit (x : Layer) (threshold action : Nat) (nonzero : Bool) (w g u : W32) : Layer :=
  let run := if nonzero then 0 else satTo 65535 x.zeroRun 1
  let dead := decide (threshold ≤ run)
  { zeroRun := run, dead := dead, zero := !nonzero
    frozen := if nonzero then false else (dead && action == 1) || x.frozen
    wNorm := if x.frozen && !nonzero then x.wNorm else some w, gNorm := g, uNorm := if x.frozen && !nonzero then 0 else u }

/-- A layer after a skipped step (R258, R261). -/
def Layer.skip (x : Layer) (nonzero : Bool) : Layer := { x with zero := !nonzero, gNorm := nan32, uNorm := 0 }

/-- Layers whose W_NORM is that of weights of which no summary has arrived: a free value for each, once (log 5). -/
def State.fillNorms : List Layer → State → List Layer × State
  | [], s => ([], s)
  | l :: r, s =>
    match l.wNorm with
    | some _ => let (r, s) := State.fillNorms r s
                (l :: r, s)
    | none => let (v, s) := s.free
              let (r, s) := State.fillNorms r s
              ({ l with wNorm := some (BitVec.ofNat 32 v.toNat) } :: r, s)

/-- FREEZE_LAYER leaves a layer's weights and optimiser state unchanged (R259): what the current slot of the module's shard holds after
its header is what the other slot holds as version s + 1 becomes current (R401, R402). -/
def State.holdLayer (s : State) (c : Nat) (m : Config.LayerMap) : State :=
  match s.ownShard m with
  | none => s
  | some k =>
    let (a, b) := if (s.ctx c).cur = 0 then (k.slot0, k.slot1) else (k.slot1, k.slot0)
    let (bs, _, s) := s.rdMem (a + 64) (k.slotBytes - 64)
    (s.wrMem (b + 64) bs).2

/-- The verdict of step `v.step` for one context that the step ran (R249 to R261). A table that the step's Skim pass has seeded enters stack
memory at a skipped verdict too: no entry changes there (R252, R486). -/
def State.verdictCtx (s : State) (v : VerdictDown) (c : Nat) : State :=
  let x := s.ctx c
  let ms := s.layerMaps c x.nlayer
  let (sums, s) := s.summaries ms
  let e := s.ratchetExp c
  let (e', n', fl) := ratchetMove s.train.ratchetCtrl v.nonFinite e x.clean
  let th := max 1 (fld s.train.deadCtrl 0 16)
  let act := fld s.train.deadCtrl 16 2
  let ls := tab x.nlayer (fun i =>
    let l := nth {} x.layers i
    let ps := (nth [] sums i).map (·.2)
    let nz := ps.any (fun p => p.nonzero)
    if v.nonFinite then l.skip nz
    else l.commit th act nz (norm32 (ps.map (·.wPart))) (norm32 (ps.map (·.gPart))) (norm32 (ps.map (·.uPart))))
  let (ls, s) := State.fillNorms ls s
  let sat := sums.flatMap (markedBlocks (·.sat))
  let high := sums.flatMap (markedBlocks (·.high))
  let tbl := x.table.zipIdx.map (fun p => updateEntry s.train.scaleCtrl (sat.contains p.2) (high.contains p.2) p.1)
  let shrunk := ((x.table.zip tbl).filter (fun p => decide (p.2.t < p.1.t))).length
  let dead := ls.any (·.dead)
  let fl := fl + (if x.skimRan then rfSkim else 0) + (if dead then rfDeadAny else 0)
    + (if dead && act != 0 && !v.nonFinite then rfDeadActed else 0)
  let loss := match v.losses.find? (fun p => p.1 == c) with | some p => p.2 | none => 0
  let s := if v.nonFinite then s
    else (ms.zip ((tab x.nlayer (fun i => nth ({} : Layer) x.layers i)).zip ls)).foldl (fun s p =>
      if p.2.1.frozen ∧ p.2.2.zero then s.holdLayer c p.1 else s) s
  let s := s.updCtx c (fun x => { x with
    oldTable := none, usedCrc := x.tableCrc, usedExp := e, exp := some e', clean := n', layers := ls, recFlags := fl, loss := loss
    satBlocks := sat.eraseDups.length, shrunk := if v.nonFinite then 0 else shrunk
    cur := if v.nonFinite then x.cur else 1 - x.cur
    curVersion := if v.nonFinite then x.curVersion else v.step + 1
    skimDone := x.skimDone || !v.nonFinite })
  if v.nonFinite then (if x.skimRan then s.setTable c x.table else s)
  else
    let s := s.setTable c tbl
    if act = 2 ∧ dead then s.fault .deadLayer .numeric (ls.findIdx (·.dead)) else s

/-- The contexts that the step ran. -/
def State.ranCtxs (s : State) : List Nat := (s.ctxs.filter (fun p => p.2.ran)).map (·.1)
/-- Of these, those that the step trains (log 113). -/
def State.trainCtxs (s : State) : List Nat := (s.ctxs.filter (fun p => p.2.ran && p.2.trains)).map (·.1)

/-- What the step gathered for a context is dropped: its step is over. -/
def Ctx.endStep (x : Ctx) : Ctx :=
  { x with ran := false, trains := false, skimRan := false, seed := none, oldTable := none, owned := [], rollSums := [] }

/-- With the last context of a step, its verdict and the sums over its completion records are dropped (R263). -/
def State.endStep (s : State) : State :=
  if s.ranCtxs.isEmpty then
    { s with train := { s.train with verdict := none, applied := false, sat := 0, flush := 0, replay := 0, nan := 0 } }
  else s

/-- The step is cut off before its verdict beat for a context: its state is that after step s − 1, and the step reaches no verdict
(R257, R282, R480). -/
def State.cutStep (s : State) (c : Nat) : State :=
  if s.train.applied then s
  else
    let s := match (s.ctx c).oldTable with | some t => s.useTable c t | none => s
    let s := s.updCtx c Ctx.endStep
    let s := if s.trainCtxs.isEmpty then
        { s with train := { s.train with verdict := none }, slice := { s.slice with finalDone := false, finalWait := [], verdictSent := false } } else s
    s.endStep

/-- SKIPS and FLOOR_HITS, and after a committed step SAT_BLOCKS and SHRUNK_BLOCKS (R264). -/
def State.verdictRegs (s : State) (v : VerdictDown) (floor : Bool) : State :=
  let x := s.ctx s.train.curCtx
  let r := if v.nonFinite then addFld s.train.ratchetStatus 24 16 1 else s.train.ratchetStatus
  let r := if floor then addFld r 40 16 1 else r
  let st := if v.nonFinite then s.train.scaleStatus
    else BitVec.ofNat 64 (satTo 0xFFFF x.satBlocks 0 * 2 ^ 32 + satTo 0xFFFF x.shrunk 0 * 2 ^ 48)
  { s with train := { s.train with ratchetStatus := r, scaleStatus := st } }

/-- VERDICT_BEAT (R257): at the boundary that begins the verdict beat, in RUNNING. -/
def execVerdictBeat (s : State) : Host.Outcome State Fault Refusal :=
  match s.train.verdict with
  | none => done s s
  | some v =>
    let cs := s.trainCtxs
    if s.train.applied ∨ cs.isEmpty ∨ s.sliceSt ≠ 2 ∨ s.beat.toNat < v.verdict.toNat then done s s
    else
      let s := cs.foldl (fun s c => s.verdictCtx v c) s
      let floor := v.nonFinite && cs.any (fun c => (s.ctx c).recFlags / rfFloor % 2 == 1)
      let s := s.verdictRegs v floor
      done s { s with train := { s.train with applied := true }, slice := { s.slice with step := v.step + 1 } }

/-! ## The step record (R262, R263) -/

/-- A share of R262. -/
def share (n : Nat) (values : W64) : Nat :=
  if values = 0 then 0 else min (n * 65536 / values.toNat) 0xFFFF

/-- The 16 bytes of a layer entry of a TRAIN record, W_NORM given. -/
def layerEntry (l : Layer) (w : W32) : List Byte :=
  leBytes 4 w.toNat ++ leBytes 4 l.gNorm.toNat ++ leBytes 4 l.uNorm.toNat ++ leBytes 2 l.zeroRun
    ++ leBytes 1 ((if l.dead then 1 else 0) + (if l.frozen then 2 else 0) + (if l.zero then 4 else 0)) ++ [0#8]

/-- The layer entries; each W_NORM is one that a verdict has left (R260, R261). -/
def layerEntries (ls : List Layer) : List Byte := ls.flatMap (fun l => layerEntry l (l.wNorm.getD 0))

/-- The format entries of a ROLLOUT record. -/
def rollEntries (fmts : List (Nat × Nat × W64)) (sums : List (Nat × Nat × Nat)) : List Byte :=
  (List.range 4).flatMap (fun k =>
    match fmts.find? (fun f => f.1 == k) with
    | none => 0xFF#8 :: List.replicate 15 0#8
    | some f =>
      let (a, b) := match sums.find? (fun x => x.1 == k) with | some x => x.2 | none => (0, 0)
      leBytes 1 f.2.1 ++ [0#8] ++ leBytes 2 (share a f.2.2) ++ leBytes 2 (share b f.2.2) ++ leBytes 2 0 ++ leBytes 8 f.2.2.toNat)

/-- The 64 bytes that TRAIN and ROLLOUT records begin with. -/
def State.recordHead (s : State) (c : Nat) (train : Bool) (step : W64) : List Byte :=
  let x := s.ctx c
  let e := s.ratchetExp c
  let v : W64 := match s.train.verdict with | some v => v.verdict | none => 0
  let nl := if train then x.nlayer else 0
  let t := fun (v : Nat) => if train then v else 0
  let loss := if bad32 x.loss.toNat then nan32 else x.loss
  leBytes 2 (if train then 1 else 2) ++ leBytes 1 1 ++ leBytes 1 (t x.recFlags) ++ leBytes 2 nl ++ leBytes 2 0 ++ leBytes 8 step.toNat
    ++ leBytes 8 (if train then v.toNat else s.beat.toNat) ++ leBytes 4 (t loss.toNat)
    ++ leBytes 1 (if train then x.usedExp else e) ++ leBytes 1 e ++ leBytes 1 c ++ leBytes 1 0 ++ leBytes 4 x.validWorlds
    ++ leBytes 4 (if train then x.usedCrc.toNat else x.tableCrc.toNat) ++ leBytes 4 (t x.satBlocks) ++ leBytes 4 (t x.shrunk)
    ++ leBytes 4 (satTo 0xFFFFFFFF s.train.sat 0) ++ leBytes 4 (satTo 0xFFFFFFFF s.train.flush 0)
    ++ leBytes 4 (satTo 0xFFFFFFFF s.train.replay 0) ++ leBytes 4 (satTo 0xFFFFFFFF s.train.nan 0)

/-- The step of a context is over for its record: a training step with its verdict applied (R22, R257), and a rollout step once no
REDUCE_SCATTER of the context waits in a queue; its LAUNCHes are complete (R262, log 113). -/
def State.recordDue (s : State) (c : Nat) : Bool :=
  let mine := fun (q : Nat) (d : Cmd) => cmdOp d.raw == 5 && cmdFld d.raw 17 1 == 1 && cmdFld d.raw 18 1 == c && (s.queue q).st != 0
  let running := s.slots.any (fun p => p.2.context == c && (match p.2.launch with
    | some l => (match s.cmd l.q l.index with | some d => d.st == .acting | none => false)
    | none => false))
  !running && (if (s.ctx c).trains then s.train.applied else !s.host.queues.any (fun p => p.2.cmds.any (mine p.1)))

/-- The base of a context's record ring (R263, R431): RECORD_BASE overrides NUM_STEP_BASE while a context with a record runs. -/
def State.recordRing (s : State) (c : Nat) : W64 := if s.resident.contains c then (s.ctx c).recordBase else s.train.stepBase

/-- STEP_RECORD_WRITE of a context that the step ran (R262, R263). -/
def execStepRecordWrite (context : Nat) (s : State) : Host.Outcome State Fault Refusal :=
  let x := s.ctx context
  if !x.ran ∨ !s.recordDue context then done s s
  else
    let step : W64 := match s.train.verdict with | some v => if x.trains then v.step else x.step | none => x.step
    let head := s.recordHead context x.trains step
    let tail :=
      if x.trains then List.replicate 64 0#8 ++ layerEntries (tab x.nlayer (fun i => nth {} x.layers i))
      else rollEntries (match s.ctxMap context with | some m => m.rollout | none => []) x.rollSums
    let ix := step.toNat % max 1 (fld s.train.stepRing 0 16)
    let bs := head ++ tail
    let s := (s.wrMem (gaOff (s.recordRing context) + ix * 0x1000) bs).2
    let s := s.updCtx context Ctx.endStep
    done s { s with train := { s.train with stepRing := setFld s.train.stepRing 32 16 ix, newest := some (step, bs) } }.endStep

end Sys2Proof.Machine
end

