-- ==== Sys2Proof/Machine/Slice.lean ====
section
/-! DEFINITION. Slices and collectives (chapter 12): joining, the commit exchange, the collective channels, the reductions through
the master and the verdict exchange. A collective's own accesses to the module's stack memory and flags act at once (log 34); its
requests to other members go to the edge from engine 0x1000 + channel. -/

namespace Sys2Proof.Machine

/-! ## Joining (R369 to R376) -/

/-- An entry of the slice table: MODULE_ID, RACK, SLOT (R369). -/
def tableEntry (v : W64) : Nat × Nat × Nat := (fld v 0 14, fld v 14 9, fld v 23 5)
/-- RACK and SLOT of FAB_ID (R366). -/
def State.ownEntry (s : State) : Nat × Nat × Nat := (fld s.fab.id 0 14, fld s.fab.id 14 9, fld s.fab.id 23 5)
/-- MASTER of CFG_SLICE_CFG. -/
def State.namedMaster (s : State) : Nat := fld s.slice.cfg 20 14
/-- Whether all elements of a list are equal. -/
def allEq (l : List Nat) : Bool := match l with | [] => true | x :: r => r.all (· == x)

/-- The checks of R370 on a table that has been read. -/
def State.tableOk (s : State) (t : List (Nat × Nat × Nat)) : Bool :=
  let m := s.nMembers
  let d := s.domSize
  let ids := t.map (·.1)
  decide (1 ≤ m) && decide (m ≤ 8224) && decide (1 ≤ d) && decide (d ≤ 32) && m % d == 0
    && (List.range (m / max 1 d)).all (fun k => allEq (((t.drop (k * d)).take d).map (·.2.1)))
    && ids.eraseDups.length == ids.length
    && (t.filter (· == s.ownEntry)).length == 1
    && (s.namedMaster == 0x3FFF || ids.contains s.namedMaster)

/-- What the exchanges of a slice hold on a module is dropped as the module joins, leaves, halts or enters RUNNING: join and commit reports,
counts, verdicts and gathers that have not begun belong to the run that they were sent in (R374, R378, R395, R397, R403). -/
def Slice.forget (x : Slice) : Slice :=
  { x with joinAt := none, joinGo := false, reports := [], commitReports := [], lateCommits := [], counts := [], verdicts := []
           verdictSent := false, finalDone := false, finalWait := [], early := [] }

/-- The slice table is read and checked (R369, R370): RANK, the effective master and IS_MASTER are those that it gives; where a check
fails, BAD_TABLE sets and what was read before stands. -/
def State.readTable (s : State) : Bool × State :=
  let n := if s.nMembers ≤ 8224 then s.nMembers else 0
  let (bs, e, s) := s.rdMem (gaOff s.slice.tableBase) (8 * n)
  let t := (chunks 8 n bs).map (fun b => tableEntry (BitVec.ofNat 64 (ofLe b)))
  if e.isSome || !s.tableOk t then (false, { s with slice := { s.slice with status := setBit s.slice.status 31 true } })
  else
    let master := if s.namedMaster ≠ 0x3FFF then s.namedMaster else (t.map (·.1)).foldl min 0x3FFF
    let st := setFld (setFld s.slice.status 2 14 ((t.idxOf? s.ownEntry).getD 0)) 16 14 master
    (true, { s with slice := { s.slice with status := setBit st 30 (master == s.moduleId), table := t } })

/-- JOIN acts (R370 to R372); a module that is OUT_OF_SERVICE ignores it (R523). -/
def State.joinAct (s : State) : State :=
  if (s.sliceSt ≠ 0 ∧ s.sliceSt ≠ 3) ∨ s.outOfService then { s with slice := { s.slice with status := setBit s.slice.status 44 true } }
  else match s.readTable with
    | (false, s) => s
    | (true, s) =>
      let s := s.setSliceSt 1
      { s with slice := { s.slice.forget with joinBeat := s.beat, lastReport := none } }

/-- JOIN. -/
def execJoin (s : State) : Host.Outcome State Fault Refusal := done s s.joinAct

/-- LEAVE acts (R372). -/
def State.leaveAct (s : State) : State :=
  if s.sliceSt = 1 ∨ s.sliceSt = 3 then
    { s.setSliceSt 0 with slice := (s.setSliceSt 0).slice.forget }
  else { s with slice := { s.slice with status := setBit s.slice.status 44 true } }

/-- LEAVE. -/
def execLeave (s : State) : Host.Outcome State Fault Refusal := done s s.leaveAct

/-- FEATURES (R373, R536). -/
def featuresDigest : W256 := sm3Word ((List.range 32).flatMap (fun i => leBytes 8 (featReg (8 * i)).toNat))
/-- MAP_DIGEST (R373). -/
def State.mapDigest (s : State) : W256 :=
  sm3Word (leBytes 8 (fld s.slice.cfg 0 34)
    ++ s.slice.table.flatMap (fun m => leBytes 8 (m.1 + m.2.1 * 2 ^ 14 + m.2.2 * 2 ^ 23)))

/-- The report that the module would send now (R373); a commit's report is of the staged image and its arm beat (R377). -/
def State.ownReport (s : State) (commit : Option (W64 × Nat)) : Report :=
  { image := if commit.isSome then s.cfg.stagedDigest else s.cfg.activeDigest
    features := featuresDigest
    mapDigest := s.mapDigest
    firmware := BitVec.ofNat 64 (fld s.power.boot 32 32)
    beat := s.beat
    beatRc := fld s.esc.beatCfg 0 16
    epoch := match commit, s.cfg.staging with
      | some _, some g => g.epoch
      | _, _ => fld s.slice.epoch 0 16
    tableCrc := s.tableCrcAll
    step := s.slice.step
    hsState := s.hsState
    apply := match commit with | some (_, a) => a | none => 0
    anchor := match commit with | some (b, _) => b | none => s.esc.anchor }

/-- The 256 bytes of a report (R373). -/
def reportBytes (r : Report) : List Byte :=
  leBytes 32 r.image.toNat ++ leBytes 32 r.features.toNat ++ leBytes 32 r.mapDigest.toNat ++ leBytes 8 r.firmware.toNat
    ++ leBytes 8 r.beat.toNat ++ leBytes 2 r.beatRc ++ leBytes 2 r.epoch ++ leBytes 4 r.tableCrc.toNat ++ leBytes 8 r.step.toNat
    ++ leBytes 1 r.hsState ++ leBytes 1 r.apply ++ leBytes 6 0 ++ leBytes 8 r.anchor.toNat ++ List.replicate 112 0#8

/-- The slice spans more than one rack (R277). -/
def State.manyRacks (s : State) : Bool := !allEq (s.slice.table.map (·.2.1))

/-- The items on which a report that arrived in beat `at_` disagrees with the module's own values (R374), as a bitmap; `map` says that
the staged mapping section is not the active one (R385). -/
def State.failing (s : State) (own r : Report) (at_ : W64) (map : Bool) : Nat :=
  let bit := fun (i : Nat) (b : Bool) => if b then 2 ^ i else 0
  let age := sext 64 (at_ - r.beat).toNat
  bit 0 (r.image != own.image) + bit 1 (r.firmware != own.firmware) + bit 2 (r.features != own.features)
    + bit 3 (r.beatRc != own.beatRc || r.anchor != own.anchor || (age != 0 && age != 1))
    + bit 4 (r.step != own.step) + bit 5 (r.epoch != own.epoch) + bit 6 (r.tableCrc != own.tableCrc)
    + bit 7 (r.mapDigest != own.mapDigest || map) + bit 8 (s.manyRacks && r.hsState != 2)

/-- The lowest item of a bitmap. -/
def lowItem (m : Nat) : Nat := ((List.range 9).find? (fun i => m.testBit i)).getD 0

/-- Beats between reports (R410). -/
def State.joinRetry (s : State) : Nat := max 1 (fld s.slice.collCfg 0 16)

/-- JOIN_REPORT_SEND (R373): in JOINING, at the boundary after JOIN and then every JOIN_RETRY beats. The slice table, which the host may
write in JOINING, is read anew for each report, so that a member with a corrected one joins (R369, R376; DEDUCED, log 118). -/
def execJoinReportSend (s : State) : Host.Outcome State Fault Refusal :=
  let due := match s.slice.lastReport with
    | none => decide (s.slice.joinBeat.toNat < s.beat.toNat)
    | some b => decide (b.toNat + s.joinRetry ≤ s.beat.toNat)
  if s.sliceSt ≠ 1 ∨ !due then done s s
  else
    let s0 := s.readTable.2
    let s1 := s0.sendControl s0.masterId 0 (reportBytes (s0.ownReport none))
    done s { s1 with slice := { s1.slice with lastReport := some s.beat } }

/-- A list with the entry of key r replaced. -/
def putKey {α : Type} (l : List (Nat × α)) (r : Nat) (v : α) : List (Nat × α) := l.filter (fun p => p.1 != r) ++ [(r, v)]

/-- JOIN_MISMATCH to the members that the master has heard from (R376): `bad` holds each disagreeing rank and its items. -/
def State.sendMismatch (s : State) (bad : List (Nat × Nat)) (dests : List Nat) : State :=
  let rank := (bad.map (·.1)).foldl min 0x3FFF
  let item := lowItem ((bad.find? (fun p => p.1 == rank)).getD (0, 0)).2
  let all := bad.foldl (fun m p => m ||| p.2) 0
  dests.foldl (fun s r => s.sendControl (s.moduleOf r) 2
    (leBytes 2 rank ++ leBytes 2 item ++ leBytes 4 bad.length ++ leBytes 8 all)) s

/-- JOIN_REPORT at the master (R374 to R376). -/
def execJoinReport (src : Nat) (r : Report) (s : State) : Host.Outcome State Fault Refusal :=
  let s0 := s.consumeControl src 0
  match s.rankOf src with
  | none => done s s0
  | some rank =>
    if s.sliceSt ≠ 1 ∨ !s.isMaster ∨ s.slice.joinAt.isSome ∨ s.slice.joinGo then done s s0
    else
      let own := s.ownReport none
      let reps := putKey s.slice.reports rank (r, s.failing own r s.beat false == 0, s.beat)
      let s := { s0 with slice := { s0.slice with reports := reps } }
      let bad := (reps.map (fun p => (p.1, s.failing own p.2.1 p.2.2.2 false))).filter (fun p => p.2 != 0)
      let heard := reps.map (·.1)
      if !bad.isEmpty then done s0 (s.sendMismatch bad heard)
      else if reps.length ≠ s.nMembers then done s0 s
      else if s.beat.toNat + s.periodLead < s.esc.anchor.toNat then
        let j := s.beat.toNat + s.periodLead
        let s1 := s.controlAll 1 (leBytes 8 j ++ leBytes 8 s.slice.step.toNat)
        done s0 { s1 with slice := { s1.slice with joinGo := true } }
      else done s0 (s.sendMismatch (heard.map (fun k => (k, 8))) heard)

/-- JOIN_GO at a member (R375). -/
def execJoinGo (j step : W64) (s : State) : Host.Outcome State Fault Refusal :=
  let s := s.consumeControl s.masterId 1
  if s.sliceSt ≠ 1 then done s s else done s { s with slice := { s.slice with joinAt := some j, step := step } }

/-- A mismatch report is recorded (R376). -/
def State.recordMismatch (s : State) (rank item count bitmap : Nat) : State :=
  { s with slice := { s.slice with
      mismatch := setFld (setFld (setFld (setFld s.slice.mismatch 0 14 rank) 14 4 item) 18 14 count) 32 32 s.beat.toNat
      status := setFld s.slice.status 32 9 bitmap } }

/-- JOIN_MISMATCH at a member (R376). -/
def execJoinMismatch (rank item count bitmap : Nat) (s : State) : Host.Outcome State Fault Refusal :=
  done s ((s.consumeControl s.masterId 2).recordMismatch rank item count bitmap)

/-- At the boundary that begins beat J the member enters RUNNING, and its rates are reset (R361, R375). -/
def State.enterRunning (s : State) : State :=
  match s.slice.joinAt with
  | none => s
  | some j =>
    if s.sliceSt ≠ 1 ∨ s.beat.toNat < j.toNat then s
    else
      let s := s.setSliceSt 2
      { s with
        slice := s.slice.forget
        fab := { s.fab with rate := [], lastCut := [] }
        esc := { s.esc with started := false, starts := [], announced := none, markers := [], doneSent := false, bound := [] } }

/-! ## The commit exchange (R377 to R379) -/

/-- STATUS codes that COMMIT_STOP carries (R466). -/
def stLate : Nat := 22
/-- MISMATCH. -/
def stMismatch : Nat := 23

/-- Whether the staged mapping section differs from the active one (R385): a FULL image that has none empties the mapping. -/
def State.mapChanges (s : State) : Bool :=
  match s.cfg.staging with
  | some g => (!g.patch || g.items.types.contains 14) && g.items.mapping != s.cfg.active.mapping
  | none => false

/-- The master's decision of the commit armed for beat b on the reports it holds (R378): the outcome, with rank and item; none is
COMMIT_GO. -/
def State.commitOutcome (s : State) (b : W64) (reps : List (Nat × Report × W64)) : Option (Nat × Nat × Nat) :=
  let own := s.ownReport (some (b, 0))
  let bad := (reps.map (fun p => (p.1, s.failing own p.2.1 p.2.2 s.mapChanges))).filter (fun p => p.2 != 0)
  let refuse := (reps.filter (fun p => p.2.1.apply != 0)).map (fun p => (p.1, p.2.1.apply))
  let low := fun (l : List (Nat × Nat)) => (l.map (·.1)).foldl min 0x3FFF
  let at_ := fun (l : List (Nat × Nat)) => ((l.find? (fun p => p.1 == low l)).getD (0, 0)).2
  if !bad.isEmpty then some (stMismatch, low bad, lowItem (at_ bad))
  else if !refuse.isEmpty then some (at_ refuse, low refuse, 0)
  else if s.beat.toNat + s.periodLead ≤ b.toNat then none
  else some (stLate, 0, 0)

/-- The arm beats of the commits that the master itself has reported and not decided. -/
def State.ownCommits (s : State) : List W64 := (s.slice.commitReports.filter (fun p => p.1 == s.rank)).map (fun p => p.2.1.anchor)

/-- The report of a rank for the master's commit of beat b: the one that names b, or else one that names no commit of the master's, which
fails item TIME under R374 (R377, R378; DEDUCED, log 118). -/
def State.commitOf (s : State) (b : W64) (rank : Nat) : Option (Nat × Report × W64) :=
  let mine := s.slice.commitReports.filter (fun p => p.1 == rank)
  match mine.find? (fun p => p.2.1.anchor == b) with
  | some p => some p
  | none => mine.find? (fun p => !s.ownCommits.contains p.2.1.anchor)

/-- The reports held for the commit armed for beat b, in rank order. -/
def State.commitHeld (s : State) (b : W64) : List (Nat × Report × W64) := (List.range s.nMembers).filterMap (s.commitOf b)

/-- COMMIT_STOP to every member, with a mismatch report where the outcome is MISMATCH (R376, R378). -/
def State.sendStop (s : State) (b : W64) (o : Nat × Nat × Nat) : State :=
  let own := s.ownReport (some (b, 0))
  let bad := ((s.commitHeld b).map (fun p => (p.1, s.failing own p.2.1 p.2.2 s.mapChanges))).filter (fun p => p.2 != 0)
  let s1 := if o.1 = stMismatch then s.sendMismatch bad (List.range s.nMembers) else s
  s1.controlAll 5 (leBytes 1 o.1 ++ [0#8] ++ leBytes 2 o.2.1 ++ leBytes 1 o.2.2 ++ leBytes 3 0)

/-- COMMIT_REPORT at the master (R378). One for a commit that has been decided LATE changes nothing, nor does one whose beat has come,
unless a commit of the master's is still open for which it is the rank's report. -/
def execCommitReport (src : Nat) (r : Report) (s : State) : Host.Outcome State Fault Refusal :=
  let s0 := s.consumeControl src 3
  match s.rankOf src with
  | none => done s s0
  | some rank =>
    let open_ := s.ownCommits.any (fun b => decide (s.beat.toNat < b.toNat))
    if s.sliceSt ≠ 2 ∨ !s.isMaster ∨ s.slice.lateCommits.contains r.anchor ∨ (r.anchor.toNat ≤ s.beat.toNat ∧ !open_) then done s s0
    else
      let s := { s0 with slice := { s0.slice with
        commitReports := s0.slice.commitReports.filter (fun p => !(p.1 == rank && p.2.1.anchor == r.anchor)) ++ [(rank, r, s.beat)] } }
      match s.ownCommits.find? (fun b => (s.commitHeld b).length == s.nMembers) with
      | none => done s0 s
      | some b =>
        let held := s.commitHeld b
        let rest := s.slice.commitReports.filter (fun p => !held.contains p)
        let s2 := match s.commitOutcome b held with
          | none => s.controlAll 4 (leBytes 8 b.toNat ++ leBytes 8 0)
          | some o => s.sendStop b o
        done s0 { s2 with slice := { s2.slice with commitReports := rest } }

/-- The commit that the master's deadline looks at: the earliest of its own, or the earliest that a member has reported. -/
def State.commitNext (s : State) : Option W64 :=
  match (if s.ownCommits.isEmpty then s.slice.commitReports.map (fun p => p.2.1.anchor) else s.ownCommits) with
  | [] => none
  | b :: bs => some (bs.foldl (fun m x => if x.toNat < m.toNat then x else m) b)

/-- COMMIT_DECISION_DEADLINE (R378): a report is missing in beat b − PERIOD_LEAD. -/
def execCommitDecisionDeadline (s : State) : Host.Outcome State Fault Refusal :=
  match s.commitNext with
  | none => done s s
  | some b =>
    if s.sliceSt ≠ 2 ∨ !s.isMaster ∨ s.beat.toNat + s.periodLead < b.toNat then done s s
    else
      let held := s.commitHeld b
      let s1 := s.sendStop b (stLate, 0, 0)
      done s { s1 with slice := { s1.slice with
        commitReports := s1.slice.commitReports.filter (fun q => q.2.1.anchor != b && !held.contains q)
        lateCommits := b :: s1.slice.lateCommits.filter (fun x => decide (s.beat.toNat < x.toNat)) } }

/-- COMMIT_GO at a member (R378, R427). -/
def execCommitGo (b : W64) (s : State) : Host.Outcome State Fault Refusal :=
  let s1 := s.consumeControl s.masterId 4
  done s { s1 with cfg := { s1.cfg with
    armed := s1.cfg.armed.map (fun a => if a.beat = b then { a with goAhead := true } else a) } }

/-- COMMIT_STOP at a member (R378, R427): the earliest armed commit that has no decision completes with the outcome at its
evaluation; the message names no beat. With MISMATCH the slice enters JOINING from that beat, whatever else the evaluation finds. -/
def execCommitStop (outcome rank item : Nat) (s : State) : Host.Outcome State Fault Refusal :=
  let s1 := s.consumeControl s.masterId 5
  let open_ := s1.cfg.armed.filter (fun a => !a.goAhead && a.stop.isNone)
  match open_ with
  | [] => done s s1
  | p :: ps =>
    let b := ps.foldl (fun m a => if a.beat.toNat < m.toNat then a.beat else m) p.beat
    let s2 := if outcome = stMismatch then
        { s1 with slice := { s1.slice with mismatch := setFld (setFld s1.slice.mismatch 0 14 rank) 14 4 item, rejoin := some b } }
      else s1
    done s { s2 with cfg := { s2.cfg with armed := s2.cfg.armed.map (fun a =>
      if a.beat = b ∧ !a.goAhead ∧ a.stop.isNone then { a with stop := some outcome } else a) } }

/-! ## Collective channels (R386 to R389) -/

/-- The engine number of channel c (R380). -/
def collEngine (c : Nat) : Nat := 0x1000 + c

/-- The running collective of channel c changed. -/
def State.updRun (s : State) (c : Nat) (f : CollRun → CollRun) : State :=
  { s with slice := { s.slice with running := s.slice.running.map (fun p => if p.1 = c then (p.1, f p.2) else p) } }
/-- The running collective of channel c. -/
def State.collRun (s : State) (c : Nat) : Option CollRun := afind s.slice.running c

/-- A phase of channel c's collective. -/
def State.phase (s : State) (c ph : Nat) : State := s.updRun c (fun r => { r with phase := ph, progress := s.beat })

/-- The running collective on channel c, if it is of a kind; one that a halt or an ABORT ends issues nothing more (R282, R480). -/
def State.kindRun (s : State) (c kind : Nat) : Option CollRun :=
  match s.collRun c with
  | some r => if r.kind = kind ∧ r.ending.isNone ∧ !s.frozenAs (0x1000 + c) then some r else none
  | none => none

/-- A shard header that arrives for the running gather of channel c (R403). -/
def State.checkShard (s : State) (c : Nat) (r : CollRun) (src : Nat) (hd : List Byte) : State :=
  let f := fun o n => ofLe ((hd.drop o).take n)
  let pos := match s.rankOf src with | some k => k % max 1 s.domSize | none => 0xFF
  if f 0 8 = (s.ctx r.context).curVersion.toNat ∧ f 8 1 = r.context ∧ f 9 2 = r.layer ∧ f 11 1 = pos then s
  else (s.collFault 0 c src r.layer none).fault .shardVersion .collective c

/-- A packet of a SHARD_GATHER has arrived on channel c (R403): a header, which is checked, or a part of the shard, of which the last one
ends its arrival. One for which this member runs no gather, or whose shard it has already, is of a gather that its sender has begun before
this member: it is looked at when that gather starts here. -/
def State.gatherArrive (s : State) (c : Nat) (p : FabPkt) : State :=
  let keep := if s.sliceSt = 2 then { s with slice := { s.slice with early := s.slice.early ++ [(c, p)] } } else s
  match s.kindRun c 0, s.rankOf p.src with
  | some r, some k =>
    let pos := k % max 1 s.domSize
    if r.arrived.contains pos then keep
    else match (s.layerMap r.context r.layer).bind (fun m => m.shards[pos]?) with
      | none => s
      | some sh =>
        let o := gaOff p.addr
        if gaSpace p.addr = 0 ∧ o = sh.header then s.checkShard c r p.src (payloadBytes p.payload)
        else if gaSpace p.addr = gaSpace sh.dest ∧ gaOff sh.dest + sh.slotBytes ≤ o + 16 * p.payload.length + 64 then
          s.updRun c (fun r => { r with arrived := r.arrived ++ [pos], progress := s.beat })
        else s
  | _, some _ => keep
  | _, none => s

/-- Whether a gather has every shard of its layer. -/
def State.gathered (s : State) (r : CollRun) : Bool :=
  match s.layerMap r.context r.layer with
  | some m => (List.range m.shards.length).all r.arrived.contains
  | none => false

/-- A collective starts on its channel: it is the channel's oldest, and ISSUED counts it (R387, R410). What has come early for it is looked
at. -/
def State.startColl (s : State) (c : Nat) (r : CollRun) : State :=
  let mine := s.slice.early.filter (fun e => e.1 == c)
  let s := { s with slice := { s.slice with
      running := aput s.slice.running c { r with progress := s.beat }
      early := if r.kind = 0 then s.slice.early.filter (fun e => e.1 != c) else s.slice.early
      chans := aset 0 s.slice.chans c (wrapFld (aget 0 s.slice.chans c) 0 32 1) } }
  if r.kind = 0 then mine.foldl (fun s e => s.gatherArrive c e.2) s else s

/-- Every collective of the module that has not completed: queue and index. -/
def State.outstandingColl (s : State) : List (Nat × Nat) :=
  s.slice.running.map (fun p => (p.2.q, p.2.index)) ++ s.slice.queued.map (fun p => (p.2.q, p.2.index))

/-- An operation acts: where the image marks it, it is period-bound in this period (R283). -/
def State.actBound (s : State) (o : Config.PeriodOp) (q i : Nat) : State :=
  if s.cfg.active.periodOps.contains o then s.updEsc (fun e => { e with bound := e.bound ++ [(q, i)] }) else s

/-- A COLLECTIVE acts: it starts, or waits behind the channel's older ones (R387). -/
def State.issueColl (s : State) (c : Nat) (r : CollRun) : State :=
  let s := if r.final then
      { s with slice := { s.slice with finalDone := false, verdictSent := false, finalWait := s.outstandingColl } } else s
  let s := s.actBound (.collective r.kind r.context r.layer) r.q r.index
  let s := if r.kind = 1 ∨ r.kind = 2 then s.updCtx r.context (fun x => { x with ran := true, trains := true }) else s
  if (s.collRun c).isNone then s.startColl c r
  else { s with slice := { s.slice with queued := s.slice.queued ++ [(c, r)] } }

/-- A COLLECTIVE that trains ends without success: its context's step is cut off. -/
def State.collCut (s : State) (r : CollRun) (status : Nat) : State :=
  if status ≠ 0 ∧ (r.kind = 1 ∨ r.kind = 2) then s.cutStep r.context else s

/-- The next of a channel's waiting collectives starts; those before it that a halt or an ABORT has ended complete in their turn (R387). -/
def State.nextColl (s : State) (c : Nat) : Nat → State
  | 0 => s
  | k + 1 =>
    match s.slice.queued.find? (fun p => p.1 == c) with
    | none => s
    | some p =>
      let s := { s with slice := { s.slice with queued := s.slice.queued.erase p } }
      match p.2.ending with
      | none => s.startColl c p.2
      | some st =>
        let s := s.complete p.2.q p.2.index st
        State.nextColl ((({ s with slice := { s.slice with
          finalWait := s.slice.finalWait.filter (fun x => x != (p.2.q, p.2.index)) } } : State)).collCut p.2 st) c k

/-- The channel's oldest collective ends with a status: its record, COMPLETED, and the start of the next one (R387, R388). -/
def State.endColl (s : State) (c status : Nat) : State :=
  match s.collRun c with
  | none => s
  | some r =>
    let s := s.complete r.q r.index status
    let sl := s.slice
    let s := { s with
      slice := { sl with
        running := adel sl.running c
        chans := aset 0 sl.chans c (wrapFld (aget 0 sl.chans c) 32 32 1)
        finalDone := sl.finalDone || (r.final && status == 0)
        finalWait := sl.finalWait.filter (fun p => p != (r.q, r.index)) } }
    (s.collCut r status).nextColl c sl.queued.length

/-- A request of channel c to another member, of class urgent, or of class circuit as circuit data (R340, R391); its answer is awaited
(R387). -/
def State.collSend (s : State) (c rank : Nat) (p : FabPkt) : State :=
  let p : FabPkt := { p with dest := s.moduleOf rank, addr := mkGa (gaSpace p.addr) (s.moduleOf rank) (gaOff p.addr)
                             cls := if p.op = .circuitData then 3 else 0, srcEngine := true, srcTile := collEngine c }
  (s.updRun c (fun r => { r with left := r.left + 1 })).toEdge p (.engine (collEngine c))

/-- The increment of a flag of a member: its own at once, another's by ATOMIC ADD (R389). -/
def State.collFlag (s : State) (c rank flag : Nat) : State :=
  if rank = s.rank then (s.atomicFlag flag 3 1 0).2
  else s.collSend c rank { s.mkFab .atomic 0 (mkGa 2 0 (8 * flag)) [1#128] with aop := 3, aw := 3 }

/-- A reduce-add of bytes to stack memory of a member: its own at once, another's as REDUCE_ADD packets of at most 256 bytes. -/
def State.collReduce (s : State) (c rank rfmt : Nat) : Nat → Nat → List Byte → State
  | 0, _, _ => s
  | k + 1, off, bs =>
    if bs.isEmpty then s
    else
      let n := 256
      let here := bs.take n
      let dst := here.length / (rfmtSizes rfmt).1 * (rfmtSizes rfmt).2
      let s := if rank = s.rank then
          (reduceLines .edge 0 rfmt (here.length + 1) off here).foldl State.engineDo s
        else s.collSend c rank { s.mkFab .reduceAdd 0 (mkGa 0 0 off) (toFlits here) with rfmt := rfmt }
      State.collReduce s c rank rfmt k (off + dst) (bs.drop n)

/-- An unsigned maximum on a 32-bit value of stack memory of a member (R400). -/
def State.collMax (s : State) (c rank off v : Nat) : State :=
  if rank = s.rank then
    s.engineDo { src := .edge, addr := off / 64 * 64, op := .atomic 10 2 (off % 64) (BitVec.ofNat 64 v) 0, cls := 0 }
  else s.collSend c rank { s.mkFab .atomic 0 (mkGa 0 0 off) [BitVec.ofNat 128 v] with aop := 10, aw := 2 }

/-- A write of bytes to stack memory of a member, in packets of at most 256 bytes. -/
def State.collWrite (s : State) (c rank : Nat) : Nat → Nat → List Byte → State
  | 0, _, _ => s
  | k + 1, off, bs =>
    if bs.isEmpty then s
    else if rank = s.rank then (s.wrMem off bs 0).2
    else State.collWrite (s.collSend c rank (s.mkFab .write 0 (mkGa 0 0 off) (toFlits (bs.take 256)))) c rank k (off + 256) (bs.drop 256)

/-- The ranks that own shard j of context c: position j of each domain of its model group (R382). -/
def State.owners (s : State) (c j : Nat) : List Nat :=
  match s.ctxMap c with
  | some m => m.domains.map (fun d => d * s.domSize + j)
  | none => [s.ownDomain * s.domSize + j]

/-- The channel whose running collective is of a kind for a context and layer. -/
def State.chanOf (s : State) (kind context layer : Nat) : Option (Nat × CollRun) :=
  s.slice.running.find? (fun p => p.2.kind == kind && p.2.context == context && p.2.layer == layer && p.2.ending.isNone
    && !s.frozenAs (0x1000 + p.1))

/-- The shards of a layer with their numbers, in order. -/
def shardList (m : Config.LayerMap) : List (Config.ShardMap × Nat) := m.shards.zipIdx

/-! ## SHARD_GATHER (R401 to R404) -/

/-- The module's current slot of its shard is sent as CIRCUIT_DATA to a member of the domain: the header to the header area, then the rest
to the local stores, with the trigger in the last packet (R403). -/
def State.gatherSend (s : State) (c rank : Nat) (k : Config.ShardMap) (bs : List Byte) : State :=
  let body := bs.drop 64
  let parts := chunks 256 ((body.length + 255) / 256) body
  let s := s.collSend c rank { s.mkFab .circuitData 3 (mkGa 0 0 k.header) (toFlits (bs.take 64)) with circuit := k.circuit }
  (parts.zipIdx).foldl (fun s p =>
    s.collSend c rank { s.mkFab .circuitData 3 (k.dest + BitVec.ofNat 64 (256 * p.2)) (toFlits p.1) with
      circuit := k.circuit, trigger := if p.2 + 1 = parts.length then k.trigger else 0 }) s

/-- SHARD_GATHER (R403): the own current slot is sent to every member of the domain, this one included; the collective ends when every
owner's shard has arrived and its own requests have been answered. -/
def execShardGather (channel : Nat) (s : State) : Host.Outcome State Fault Refusal :=
  match s.kindRun channel 0 with
  | none => done s s
  | some r =>
    match s.layerMap r.context r.layer with
    | none => done s s
    | some m =>
      if r.phase = 0 then
        let s1 := s.phase channel 1
        match s.ownShard m with
        | none => done s s1
        | some k =>
          let (bs, _, s1) := s1.rdMem (if (s.ctx r.context).cur = 0 then k.slot0 else k.slot1) k.slotBytes
          done s ((s.domainRanks s.ownDomain).foldl (fun s q => s.gatherSend channel q k bs) s1)
      else if r.left = 0 ∧ s.gathered r then done s (s.endColl channel 0)
      else done s s

/-! ## REDUCE_SCATTER (R390 to R393) -/

/-- Bytes of a shard's stream (R390): the element bytes of each group of 8 blocks with its 16-byte side record. -/
def streamBytes (k : Config.ShardMap) : Nat := (k.blocks.map (·.2)).foldl (· + ·) 0 + 16 * ((k.blocks.length + 7) / 8)

/-- Which bytes of a shard's stream a member of a sequence group contributes (R408): those of the elements from number `lo` to below `hi`, and
the side bytes of the blocks that hold one of them; `n` is the number of the first element of the blocks. -/
def streamMask (lo hi : Nat) : Nat → Nat → List (Nat × Nat) → List Bool
  | 0, _, _ => []
  | f + 1, n, blocks =>
    match blocks with
    | [] => []
    | _ =>
      let (n', es, side) := (blocks.take 8).foldl (fun (a : Nat × List Bool × List Bool) b =>
        let e := tab b.2 (fun i => decide (lo ≤ a.1 + i) && decide (a.1 + i < hi))
        (a.1 + b.2, a.2.1 ++ e, a.2.2 ++ List.replicate 2 (e.any id))) (n, [], [])
      es ++ side ++ List.replicate (16 - side.length) false ++ streamMask lo hi f n' (blocks.drop 8)

/-- The runs of whole flits of a stream that hold a contributed byte, each with its offset; the other bytes of them are 0. -/
def maskedRuns (bs : List Byte) (m : List Bool) : List (Nat × List Byte) :=
  let n := (bs.length + 15) / 16
  let v := (bs.zip m).map (fun p => if p.2 then p.1 else 0#8)
  (((chunks 16 n v).zip (chunks 16 n m)).zipIdx.filter (fun p => p.1.2.any id)).foldr (fun p (a : List (Nat × List Byte)) =>
    match a with
    | (o, l) :: r => if o = 16 * p.2 + 16 then (16 * p.2, p.1.1 ++ l) :: r else (16 * p.2, p.1.1) :: a
    | [] => [(16 * p.2, p.1.1)]) []

/-- A member's stream for a shard, as runs with their offsets in it: the whole stream, or in a sequence group of Q its 1/Q of the shard's
elements, from qN/Q to below (q + 1)N/Q of the shard's N (R391, R408; DEDUCED, log 118). -/
def State.streamRuns (s : State) (c : Nat) (k : Config.ShardMap) (bs : List Byte) : List (Nat × List Byte) :=
  let q := match s.ctxMap c with | some m => max 1 m.seqQ | none => 1
  if q = 1 then [(0, bs)]
  else
    let n := (k.blocks.map (·.2)).foldl (· + ·) 0
    let i := s.ownPos % q
    maskedRuns bs (streamMask (i * n / q) ((i + 1) * n / q) (k.blocks.length + 1) 0 k.blocks)

/-- REDUCE_SCATTER (R391): the domain stage. Phase 0 sends the streams, 1 waits for their answers and increments the DOM flags, 2 waits
for those; then a member that owns nothing in the layer is done. -/
def execReduceScatter (channel : Nat) (s : State) : Host.Outcome State Fault Refusal :=
  match s.kindRun channel 1 with
  | none => done s s
  | some r =>
    match s.layerMap r.context r.layer with
    | none => done s s
    | some m =>
      let base := s.ownDomain * s.domSize
      if r.phase = 0 then
        let s1 := s.phase channel 1
        done s ((shardList m).foldl (fun s p =>
          let (bs, _, s) := s.rdMem p.1.stream (streamBytes p.1)
          (s.streamRuns r.context p.1 bs).foldl (fun s r =>
            s.collReduce channel (base + p.2) 2 (r.2.length + 1) (p.1.dom + 4 * r.1) r.2) s) s1)
      else if r.phase = 1 ∧ r.left = 0 then
        done s ((shardList m).foldl (fun s p => s.collFlag channel (base + p.2) p.1.domFlag) (s.phase channel 2))
      else if r.phase = 2 ∧ r.left = 0 ∧ (s.ownShard m).isNone then done s (s.endColl channel 0)
      else done s s

/-- REDUCE_SCATTER_GROUP_STAGE (R392): phase 2 with DOM flag D sends the DOM buffer to every owner's TOTAL; phase 3, once answered,
increments the TOT flags. -/
def execReduceScatterGroupStage (context layer : Nat) (s : State) : Host.Outcome State Fault Refusal :=
  match s.chanOf 1 context layer, s.layerMap context layer with
  | some (c, r), some m =>
    match s.ownShard m with
    | none => done s s
    | some k =>
      let (v, s1) := s.readFlag k.domFlag
      if r.phase = 2 ∧ r.left = 0 ∧ (v.getD 0).toNat ≥ s.domSize then
        let (bs, _, s2) := s1.rdMem k.dom (4 * streamBytes k)
        done s ((s2.owners context s2.ownPos).foldl (fun s q => s.collReduce c q 0 (bs.length + 1) k.total bs) (s2.phase c 3))
      else if r.phase = 3 ∧ r.left = 0 then
        done s ((s.owners context s.ownPos).foldl (fun s q => s.collFlag c q k.totFlag) (s.phase c 4))
      else done s s
  | _, _ => done s s

/-- The reduced gradients of a stream of exact sums, in stream order (R251, R393): blocks with their sizes, sums S as INT32 bytes; the
result is the FP32 bytes. A group of 8 blocks is followed by 16 side sums. -/
def convertSums (tbl : List TEntry) : Nat → List (Nat × Nat) → List Byte → List Byte
  | 0, _, _ => []
  | f + 1, blocks, bs =>
    match blocks with
    | [] => []
    | _ =>
      let here := blocks.take 8
      let n := (here.map (·.2)).foldl (· + ·) 0
      let one := fun (o : Nat × List Byte) (b : Nat × Nat) =>
        let t := (nth {} tbl b.1).t
        let es := (chunks 4 b.2 (bs.drop (4 * o.1))).map (fun e =>
          leBytes 4 (fpPack .fp32 .rne (ofUnits false (sext 32 (ofLe e)) (t - 6))).v)
        (o.1 + b.2, o.2 ++ es.flatten)
      (here.foldl one (0, [])).2 ++ convertSums tbl f (blocks.drop 8) (bs.drop (4 * (n + 16)))

/-- What the owner takes from the sums of a stream (R256, R393): NONZERO where some S is not 0, and each block's SAT and HIGH ORs from its
side counts. -/
def ownedOf : Nat → List (Nat × Nat) → List Byte → Owned
  | 0, _, _ => { nonzero := false, sat := [], high := [] }
  | f + 1, blocks, bs =>
    match blocks with
    | [] => { nonzero := false, sat := [], high := [] }
    | _ =>
      let here := blocks.take 8
      let n := (here.map (·.2)).foldl (· + ·) 0
      let side := fun (k : Nat) => ofLe ((bs.drop (4 * (n + k))).take 4) != 0
      let r := ownedOf f (blocks.drop 8) (bs.drop (4 * (n + 16)))
      { nonzero := (bs.take (4 * n)).any (· != 0#8) || r.nonzero
        sat := tab here.length (fun k => side (2 * k)) ++ r.sat
        high := tab here.length (fun k => side (2 * k + 1)) ++ r.high }

/-- A trigger packet to tiles that the image names; the manual states no payload, so its one flit is a free value (log 5). -/
def State.triggerTiles (s : State) (ts : List (Nat × Nat × Nat)) : State :=
  ts.foldl (fun s t =>
    let (v, s) := s.free
    { s with mesh := s.mesh ++ [{ kind := 0, dest := t.1, src := t.1, trigger := t.2.2, lsAddr := t.2.1 / 16, cls := 0, op := 0
                                  beatLo := s.beat.toNat % 4096, addr := 0, tag := 0, payload := [BitVec.ofNat 128 v.toNat]
                                  way := hopsOf (wayIn t.1) }] }) s

/-- REDUCE_SCATTER_CONVERT (R393): the TOT flag has reached the number of domains of the model group. -/
def execReduceScatterConvert (context layer : Nat) (s : State) : Host.Outcome State Fault Refusal :=
  match s.chanOf 1 context layer, s.layerMap context layer with
  | some (c, r), some m =>
    match s.ownShard m with
    | none => done s s
    | some k =>
      let (v, s1) := s.readFlag k.totFlag
      if r.phase = 4 ∧ r.left = 0 ∧ (v.getD 0).toNat ≥ (s.owners context s.ownPos).length then
        let (bs, _, s2) := s1.rdMem k.total (4 * streamBytes k)
        let zero := List.replicate (4 * streamBytes k) 0#8
        let s3 := (s2.wrMem k.grad (convertSums (s.ctx context).table (k.blocks.length + 1) k.blocks bs)).2
        let s3 := s3.updCtx context (fun x => { x with
          owned := aput x.owned layer (ownedOf (k.blocks.length + 1) k.blocks bs) })
        let s4 := ((s3.wrMem k.dom zero).2.wrMem k.total zero).2
        done s ((((s4.putFlag k.domFlag 0).putFlag k.totFlag 0).triggerTiles k.optimiser).endColl c 0)
      else done s s
  | _, _ => done s s

/-! ## SKIM_MAX (R400) -/

/-- A block maximum as the exchange carries it: a non-finite value is 0x7F80_0000. -/
def skimValue (v : Nat) : Nat := if bad32 v then 0x7F800000 else v % 2 ^ 31

/-- SKIM_MAX (R400). Phase 0 applies the maxima to the domain's owners, 1 increments their DOM flags, 2 (owner, DOM flag D) forwards the
MAX buffer, 3 increments the TOT flags, 4 (TOT flag |G|) computes and spreads t, 5 increments the summary flags, 6 takes the agreed
table and ends once the summary flag reads D. -/
def execSkimMax (channel : Nat) (s : State) : Host.Outcome State Fault Refusal :=
  match s.kindRun channel 2 with
  | none => done s s
  | some r =>
    if r.phase = 0 ∧ (s.ctx r.context).skimDone then done s (s.endColl channel 0)
    else match s.layerMap r.context r.layer with
    | none => done s s
    | some m =>
      let base := s.ownDomain * s.domSize
      let own := s.ownShard m
      let ready := fun (s : State) f n => decide (((s.readFlag f).1.getD 0).toNat ≥ n)
      if r.left ≠ 0 then done s s
      else match r.phase, own with
      | 0, _ =>
        done s ((shardList m).foldl (fun s p =>
          let (bs, _, s) := s.rdMem p.1.maxima (4 * p.1.blocks.length)
          ((chunks 4 p.1.blocks.length bs).zipIdx).foldl (fun s e =>
            s.collMax channel (base + p.2) (p.1.maxBuf + 4 * e.2) (skimValue (ofLe e.1))) s) (s.phase channel 1))
      | 1, k =>
        done s ((shardList m).foldl (fun s p => s.collFlag channel (base + p.2) p.1.domFlag)
          (s.phase channel (if k.isSome then 2 else 6)))
      | 2, some k =>
        if ready s k.domFlag s.domSize then
          let (bs, _, s1) := s.rdMem k.maxBuf (4 * k.blocks.length)
          done s ((s1.owners r.context s1.ownPos).foldl (fun s q =>
            ((chunks 4 k.blocks.length bs).zipIdx).foldl (fun s e => s.collMax channel q (k.maxBuf + 4 * e.2) (ofLe e.1)) s)
            (s1.phase channel 3))
        else done s s
      | 3, some k =>
        done s ((s.owners r.context s.ownPos).foldl (fun s q => s.collFlag channel q k.totFlag) (s.phase channel 4))
      | 4, some k =>
        if ready s k.totFlag (s.owners r.context s.ownPos).length then
          let (bs, _, s1) := s.rdMem k.maxBuf (4 * k.blocks.length)
          let ts := (chunks 4 k.blocks.length bs).map (fun b =>
            BitVec.ofNat 8 (twos 8 (skimExp s.train.scaleCtrl (BitVec.ofNat 32 (ofLe b)))))
          let s2 := (s1.wrMem k.maxBuf (List.replicate (4 * k.blocks.length) 0#8)).2
          let s3 := (s2.putFlag k.domFlag 0).putFlag k.totFlag 0
          done s ((s.domainRanks s.ownDomain).foldl (fun s q => s.collWrite channel q (ts.length + 1) k.seeded ts) (s3.phase channel 5))
        else done s s
      | 5, _ =>
        done s ((s.domainRanks s.ownDomain).foldl (fun s q => s.collFlag channel q m.sumFlag) (s.phase channel 6))
      | _, _ =>
        if ready s m.sumFlag s.domSize then
          let s := s.updCtx r.context (fun x => { x with oldTable := some (x.oldTable.getD x.table) })
          let (tbl, s1) := m.shards.foldl (fun (a : List TEntry × State) k =>
            let (bs, _, s) := a.2.rdMem k.seeded k.blocks.length
            ((k.blocks.zip bs).foldl (fun t b => setNth {} t b.1.1 { t := sext 8 b.2.toNat, run := 0 }) a.1, s))
            ((s.ctx r.context).table, s)
          let s2 := (s1.useTable r.context tbl).putFlag m.sumFlag 0
          done s ((s2.updCtx r.context (fun x => { x with skimRan := true })).endColl channel 0)
        else done s s

/-! ## COUNT_SUM and SEQ_EXCHANGE (R395, R408) -/

/-- The module's count of valid worlds of a context (R24, R383). -/
def State.validWorlds (s : State) (c : Nat) : Nat :=
  s.slots.foldl (fun n p => if p.2.context = c ∧ p.2.lath.isSome then
    n + (p.2.worlds.filter (fun w => w.2.valid)).length else n) 0

/-- COUNT_SUM (R395): COUNT_UP goes to the master. -/
def execCountSum (channel : Nat) (s : State) : Host.Outcome State Fault Refusal :=
  match s.kindRun channel 3 with
  | none => done s s
  | some r =>
    if r.phase ≠ 0 then done s s
    else done s ((s.phase channel 1).sendControl s.masterId 6
      (leBytes 8 r.step.toNat ++ leBytes 8 r.context ++ leBytes 8 (s.validWorlds r.context) ++ leBytes 8 0))

/-- COUNT_UP at the master (R395): the counts of one step of a context are added; those of another step that it held are dropped. -/
def execCountUp (src : Nat) (step : W64) (context : Nat) (count : W64) (s : State) : Host.Outcome State Fault Refusal :=
  let s0 := s.consumeControl src 6
  match s.rankOf src with
  | none => done s s0
  | some rank =>
    if !s.isMaster || !s.outside then done s s0
    else
      let held := s.slice.counts.filter (fun p => p.2.1 != context || (p.1 == step && p.2.2.1 != rank)) ++ [(step, context, rank, count)]
      let mine := held.filter (fun p => p.2.1 == context)
      let s1 := { s0 with slice := { s0.slice with counts := held } }
      if mine.length ≠ s.nMembers then done s0 s1
      else
        let sum := mine.foldl (fun (n : W64) p => n + p.2.2.2) 0
        let s2 := s1.controlAll 7 (leBytes 8 step.toNat ++ leBytes 8 context ++ leBytes 8 sum.toNat ++ leBytes 8 0)
        done s0 { s2 with slice := { s2.slice with counts := held.filter (fun p => p.2.1 != context) } }

/-- The FP32 seed 2^E / count (R243): infinite for a count of 0. -/
def lossSeed (e count : Nat) : W32 :=
  BitVec.ofNat 32 (fdivR .fp32 (.fin false 1 e) (.fin false count 0)).v

/-- With the slice-wide count, the backward pass of each world of the context has its seed: +0 for a world that is not valid (R243). The
mapping names where the module puts them (log 40). -/
def State.handSeeds (s : State) (c : Nat) : State :=
  let seed := lossSeed (s.ratchetExp c) (s.ctx c).validWorlds
  let s := s.updCtx c (fun x => { x with seed := some seed })
  match s.ctxMap c with
  | none => s
  | some m =>
    s.slots.foldl (fun s p => if p.2.context = c ∧ p.2.lath.isSome then
      p.2.worlds.foldl (fun s w =>
        (s.wrMem (m.seeds + 4 * (p.1 * 128 + w.1)) (leBytes 4 (if w.2.valid then seed.toNat else 0))).2) s
      else s) s

/-- COUNT_DOWN (R395). -/
def execCountDown (step : W64) (context : Nat) (count : W64) (s : State) : Host.Outcome State Fault Refusal :=
  let s0 := s.consumeControl s.masterId 7
  match s.slice.running.find? (fun p => p.2.kind == 3 && p.2.context == context && p.2.step == step && p.2.phase == 1 && p.2.ending.isNone) with
  | none => done s s0
  | some p => done s (((s0.updCtx context (fun x => { x with validWorlds := count.toNat % 2 ^ 32 })).handSeeds context).endColl p.1 0)

/-- SEQ_EXCHANGE (R407, R408): the segment goes to the group's other members, round by round; the collective ends when every round's
data has arrived, and its flags are written back to 0. -/
def execSeqExchange (channel : Nat) (s : State) : Host.Outcome State Fault Refusal :=
  match s.kindRun channel 4 with
  | none => done s s
  | some r =>
    match s.ctxMap r.context with
    | none => done s s
    | some m =>
      let q := max 1 m.seqQ
      let base := s.rank - s.ownPos % q
      let peer := fun (i : Nat) => base + (s.ownPos % q + i + 1) % q
      if r.left ≠ 0 then done s s
      else if r.phase = 0 then
        done s ((m.rounds.zipIdx).foldl (fun s p =>
          let (bs, _, s) := s.rdMem p.1.1 p.1.2.1
          s.collWrite channel (peer p.2) (bs.length + 1) p.1.2.2.1 bs) (s.phase channel 1))
      else if r.phase = 1 then
        done s ((m.rounds.zipIdx).foldl (fun s p => s.collFlag channel (peer p.2) p.1.2.2.2) (s.phase channel 2))
      else if m.rounds.all (fun p => decide (((s.readFlag p.2.2.2).1.getD 0).toNat ≥ 1)) then
        done s ((m.rounds.foldl (fun s p => s.putFlag p.2.2.2 0) s).endColl channel 0)
      else done s s

/-! ## The verdict exchange (R396, R397) -/

/-- The FP32 losses of a context's valid worlds by global world index, read from stack memory (R243, R383); none of a context that the step
does not train, nor on a member of a sequence group but member 0 (R408). -/
def State.readLosses (s : State) (c : Nat) : Assoc Nat × State :=
  match s.ctxMap c with
  | none => ([], s)
  | some m =>
    if !(s.ctx c).trains || s.ownPos % max 1 m.seqQ != 0 then ([], s)
    else
      let worlds := (s.slots.filter (fun p => decide (p.1 < Config.slots) && p.2.context == c && p.2.lath.isSome)).flatMap (fun p =>
        (p.2.worlds.filter (fun w => decide (w.1 < 128) && w.2.valid)).map (fun w => 128 * p.1 + w.1))
      worlds.foldl (fun (a : Assoc Nat × State) i =>
        let (bs, _, s) := a.2.rdMem (m.losses + 4 * i) 4
        (aput a.1 i (ofLe bs), s)) ([], s)

/-- The loss of a global world index as FP64, +0 where the context has none (R243, R383). -/
def lossOf (l : Assoc Nat) (i : Nat) : W64 :=
  match afind l i with
  | some v => BitVec.ofNat 64 (cvtElem (.fp .fp32) (.fp .fp64) 0 .rne v).v
  | none => 0

/-- The three partial sums of a context's losses (R396). -/
def lossPartials (l : Assoc Nat) : List W64 := tab 3 (fun k => tree64 13 (tab 4096 (fun i => lossOf l (4096 * k + i))))

/-- A context's share of the module's non-finite bit (R250): its loss seed or a loss is non-finite, or the programs' word says so. -/
def State.nonFiniteCtx (s : State) (c : Nat) (l : Assoc Nat) : Bool × State :=
  let own := (match (s.ctx c).seed with | some v => bad32 v.toNat | none => false) || l.any (fun p => bad32 p.2)
  match s.ctxMap c with
  | none => (own, s)
  | some m =>
    let (bs, _, s) := s.rdMem m.nonFinite 8
    (own || ((s.ctx c).trains && ofLe bs != 0), s)

/-- What a VERDICT_UP carries of each context that the step ran, in its entry of 32 bytes, and the module's non-finite bit (R250, R253,
R396). A forward-only context has no losses: its partial sums are +0. -/
def State.verdictEntries (s : State) : List (List Byte) × Bool × State :=
  s.ranCtxs.foldl (fun (a : List (List Byte) × Bool × State) c =>
    let (l, s) := a.2.2.readLosses c
    let (nf, s) := s.nonFiniteCtx c l
    (a.1 ++ [leBytes 1 c ++ leBytes 3 0 ++ leBytes 4 (s.ctx c).tableCrc.toNat ++ (lossPartials l).flatMap (fun v => leBytes 8 v.toNat)],
      a.2.1 || nf, s)) ([], false, s)

/-- The summary flags of the step's layers (R396, R399). -/
def State.stepFlags (s : State) : List Nat :=
  s.trainCtxs.flatMap (fun c => (s.layerMaps c (s.ctx c).nlayer).map (·.sumFlag))

/-- A tier-1 SAVE of the present step that has dispatched and has not made its local copy: the module sends no VERDICT_UP of that step until
it has (R490). -/
def State.saveHolds (s : State) : Bool :=
  match s.ras.run with
  | some r => r.op == 0 && r.tier == 1 && r.step == s.slice.step && r.stage == 0
  | none => s.host.queues.any (fun p => p.2.cmds.any (fun c =>
      cmdOp c.raw == 6 && c.st == .dispatched && cmdFld c.raw 16 1 == 1 && cmdFld c.raw 17 1 == 0 && cmdFld c.raw 24 8 == s.slice.step.toNat))

/-- VERDICT_UP_SEND (R396): the final reduce-scatter, the collectives issued before it and the summaries of the step are complete. -/
def execVerdictUpSend (s : State) : Host.Outcome State Fault Refusal :=
  let full := s.stepFlags.all (fun f => decide (((s.readFlag f).1.getD 0).toNat ≥ s.domSize))
  if s.sliceSt ≠ 2 ∨ s.slice.verdictSent ∨ !s.slice.finalDone ∨ !s.slice.finalWait.isEmpty ∨ !full ∨ s.saveHolds ∨ s.trainCtxs.isEmpty then done s s
  else
    let (es, nf, s0) := s.verdictEntries
    let s1 := (chunks 7 (es.length / 7 + 1) es).foldl (fun s g => s.sendControl s.masterId 8
      (leBytes 8 s.slice.step.toNat ++ leBytes 1 (if nf then 1 else 0) ++ leBytes 1 g.length ++ leBytes 2 0
        ++ leBytes 4 s.tableCrcAll.toNat ++ g.flatten)) s0
    let s2 := s.stepFlags.foldl (fun s f => s.putFlag f 0) s1
    done s { s2 with slice := { s2.slice with verdictSent := true } }

/-- The contexts whose TABLE_CRC differs between members' VERDICT_UPs. -/
def crcDiffers (vs : List VerdictUp) : List Nat :=
  let ids := (vs.flatMap (fun v => v.contexts.map (·.context))).eraseDups
  ids.filter (fun c => !allEq (vs.filterMap (fun v => (v.contexts.find? (fun x => x.context == c)).map (fun x => x.crc.toNat))))

/-- The FP32 loss of a context over the members in rank order (R243, R396). -/
def State.sliceLoss (s : State) (vs : List VerdictUp) (c : Nat) : W32 :=
  let parts := vs.flatMap (fun v => match v.contexts.find? (fun x => x.context == c) with
    | some x => tab 3 (nth 0 x.partials)
    | none => [0, 0, 0])
  let sum := tree64 parts.length parts
  let n := BitVec.ofNat 64 (fpPack .fp64 .rne (.fin false (s.ctx c).validWorlds 0)).v
  to32 (BitVec.ofNat 64 (f64Result 5 sum n 0).v)

/-- The member whose tables fail the comparison: the lowest rank whose VERDICT_UP differs from the master's own in a table's CRC (R253, R397;
DEDUCED, log 118). -/
def State.differing (s : State) (held : List (Nat × VerdictUp)) : Nat :=
  let crcs := fun (v : VerdictUp) => v.contexts.map (fun x => (x.context, x.crc))
  let own := (held.find? (fun p => p.1 == s.rank)).map (·.2)
  let off := (List.range s.nMembers).find? (fun r => match held.find? (fun p => p.1 == r), own with
    | some p, some o => p.2.crcAll != o.crcAll || (crcs p.2).any (fun x => (crcs o).any (fun y => x.1 == y.1 && x.2 != y.2))
    | _, _ => false)
  s.moduleOf (off.getD s.rank)

/-- VERDICT_UP at the master (R397). -/
def execVerdictUp (src : Nat) (v : VerdictUp) (s : State) : Host.Outcome State Fault Refusal :=
  let s0 := s.consumeControl src 8
  match s.rankOf src with
  | none => done s s0
  | some rank =>
    if s.sliceSt ≠ 2 ∨ !s.isMaster then done s s0
    else
      let held := putKey (s.slice.verdicts.filter (fun p => p.2.step == v.step)) rank v
      let s1 := { s0 with slice := { s0.slice with verdicts := held } }
      if held.length ≠ s.nMembers then done s0 s1
      else
        let vs := (List.range s.nMembers).filterMap (fun r => (held.find? (fun p => p.1 == r)).map (·.2))
        let bad := crcDiffers vs
        let s2 := { s1 with slice := { s1.slice with verdicts := [] } }
        if !bad.isEmpty || !allEq (vs.map (fun v => v.crcAll.toNat)) then
          let ctx := match bad with | [] => none | b => some (b.foldl min 255)
          done s0 ((s2.collFault 5 63 (s.differing held) 0 ctx).fault .scaleTable .collective 63)
        else
          let vb := max (s.esc.start.toNat + fld s.slice.collCfg 16 16) (s.beat.toNat + s.periodLead)
          let ids := (vs.flatMap (fun v => v.contexts.map (·.context))).eraseDups
          let nf := vs.any (·.nonFinite)
          let groups := chunks 29 (ids.length / 29 + 1) ids
          let groups := if groups.isEmpty then [[]] else groups
          done s0 (groups.foldl (fun s g => s.controlAll 9
            (leBytes 8 v.step.toNat ++ leBytes 8 vb ++ leBytes 1 (if nf then 1 else 0) ++ leBytes 7 0
              ++ g.flatMap (fun c => leBytes 1 c ++ leBytes 3 0 ++ leBytes 4 (s.sliceLoss vs c).toNat))) s2)

/-- VERDICT_DOWN at a member (R397); a message of several packets is taken together. One for a step that this member has cut off changes
nothing: its verdict beat never comes (R257, R282). -/
def execVerdictDown (v : VerdictDown) (s : State) : Host.Outcome State Fault Refusal :=
  let s := s.consumeControl s.masterId 9
  if s.sliceSt ≠ 2 ∨ !s.slice.verdictSent ∨ v.step ≠ s.slice.step ∨ s.trainCtxs.isEmpty then done s s
  else if s.beat.toNat + 1 > v.verdict.toNat then
    done s ((s.collFault 3 63 s.masterId 0 none).fault .verdictLate .collective 63)
  else done s { s with train := { s.train with verdict := some v, applied := false } }

end Sys2Proof.Machine
end

