-- ==== Sys2Proof/Machine/Host.lean ====
section
/-! DEFINITION. The host link's queues (chapter 14): DMA, fetch, dispatch and arms, LAUNCH, WAIT_FLAG, SET_FLAG, COPY, FENCE, STATUS
and ABORT (R278 to R282, R440 to R467). COMMIT stands with the images, CHECKPOINT with the checkpoints. -/

namespace Sys2Proof.Machine

/-! ## The link (R13, R440, R441) -/

/-- The host part of the state changed. -/
def State.updHost (s : State) (f : HostIf → HostIf) : State := { s with host := f s.host }

/-- Whether the host's accesses reach the module: the host port is in Detect.Quiet until stage 8 of start-up has released it (R552, R553). -/
def State.hostUp (s : State) : Bool := s.host.link != .detectQuiet

/-- Bus Master Enable and the D state, with the link in L0 or, in D3hot, in L1 (R12); when both come to allow DMA again, the held records
are due at the next boundary (R441). -/
def State.setDma (s : State) (busMaster d0 : Bool) : State :=
  let before := s.host.busMaster && s.host.d0
  s.updHost (fun h => { h with
    busMaster := busMaster, d0 := d0, link := if d0 then .l0 else .l1, dmaDue := h.dmaDue || (!before && busMaster && d0) })

/-- The host port leaves Detect.Quiet, and its link trains: the time that this takes is left out (R552, R553). -/
def State.linkRelease (s : State) : State := s.updHost (fun h => { h with link := .l0 })

/-- PERST: the host port and its link state reset; Bus Master Enable reads 0 after it, and the link trains anew (R13). In Detect.Quiet it does
nothing (R553). -/
def execPerst (s : State) : Host.Outcome State Fault Refusal := if s.hostUp then done s (s.setDma false true) else done s s

/-- DMA_HOLD_CHANGE (R441). -/
def execDmaHoldChange (busMaster d0 : Bool) (s : State) : Host.Outcome State Fault Refusal :=
  if s.hostUp then done s (s.setDma busMaster d0) else done s s

/-- The boundary at which DMA is allowed again: every held record in completion order, then one mirror (R441); during a replay neither is
written, and both wait for its end (R518). -/
def State.releaseHeld (s : State) : State :=
  if s.host.dmaDue ∧ s.dmaOk ∧ s.hang.replaying.isNone then
    let rs := s.host.held
    let s := s.updHost (fun h => { h with held := [], dmaDue := false })
    (rs.foldl (fun s r => s.record r) s).writeMirror
  else s

/-! ## Queues (R446 to R451) -/

/-- A doorbell write acts (R448). -/
def State.qTail (s : State) (q : Nat) (tail : W32) : State :=
  s.updQueue q (fun x =>
    if (tail.toNat + 2 ^ 32 - x.oldest) % 2 ^ 32 > x.size then { x with overrun := true } else { x with tail := tail })

/-- UNBLOCK acts (R450). -/
def State.qUnblock (s : State) (q : Nat) : State := s.updQueue q (fun x => if x.st = 2 then { x with st := 1 } else x)

/-- A write of Q_CFG acts (R450, R451, R474): SIZE_LOG2 is written where its value changes (log 50). -/
def State.qCfg (s : State) (q : Nat) (v : W64) : State :=
  let x := s.queue q
  let sized := fld v 1 5 != fld x.cfg 1 5
  let x := if sized then (if x.st = 0 then { x with cfg := setFld x.cfg 1 5 (fld v 1 5) } else { x with busy := true }) else x
  let x := if bitOf v 6 ∧ x.st = 2 then { x with st := 1 } else x
  let x := if bitOf v 0 then
      (if x.st = 0 then { x with st := 1, cfg := setBit x.cfg 0 true, tail := 0, oldest := 0, fetched := 0, cmds := [], recorded := [],
                                 doomed := [] } else x)
    else if x.st = 0 then x
    else if x.cmds.isEmpty ∧ !s.host.held.any (fun r => r.q == q) then { x with st := 0, cfg := setBit x.cfg 0 false }
    else { x with busy := true }
  s.updQueue q (fun _ => x)
/-- ENABLE_QUEUE: a write of Q_CFG (R450, R451). -/
def execEnableQueue (q : Nat) (v : W64) (s : State) : Host.Outcome State Fault Refusal := done s (s.qCfg q v)
/-- UNBLOCK (R450). -/
def execUnblock (q : Nat) (s : State) : Host.Outcome State Fault Refusal := done s (s.qUnblock q)

/-- A write of Q_SQ_BASE or Q_CQ_BASE acts (R451). -/
def State.qBase (s : State) (q : Nat) (sq : Bool) (v : W64) : State :=
  s.updQueue q (fun x =>
    if x.st ≠ 0 then { x with busy := true }
    else if sq then { x with sq := rw x.sq (maskOf 12 52) v } else { x with cq := rw x.cq (maskOf 12 52) v })

/-- Whether command number `fetched` lies before TAIL (R448). -/
def Queue.mayFetch (x : Queue) : Bool :=
  decide ((x.fetched + 2 ^ 32 - x.oldest) % 2 ^ 32 < (x.tail.toNat + 2 ^ 32 - x.oldest) % 2 ^ 32)

/-- The host address of submission slot i mod SIZE (R446, R447). -/
def Queue.slotAddr (x : Queue) (i : Nat) : W64 := x.sq + BitVec.ofNat 64 (64 * (i % x.size))

/-- COMMAND_FETCH: command number `fetched` of queue q is read from its submission slot, once (R447 to R449), where `cmd` is what the host has
put there; one that an ABORT has already aborted completes with it (R282). -/
def execCommandFetch (q : Nat) (cmd : Line) (s : State) : Host.Outcome State Fault Refusal :=
  let x := s.queue q
  if x.st = 1 ∧ s.dmaOk ∧ !s.outOfService ∧ !s.frozenAs 0x1C00 ∧ x.mayFetch
      ∧ (x.cmds.filter (fun c => c.st == .fetched)).length < 16 then
    let i := x.fetched
    let s1 := (s.updQueue q (fun x => { x with
        fetched := (i + 1) % 2 ^ 32, cmds := x.cmds ++ [{ index := i, raw := cmd }]
        doomed := x.doomed.filter (fun k => k != i) })).updHost (fun h => { h with fetches := h.fetches ++ [x.slotAddr i] })
    done s (if x.doomed.contains i then s1.complete q i 1 else s1)
  else done s s

/-- FETCH_ERROR: a DMA read of the ring ends with an error (R450, R474). -/
def execFetchError (q : Nat) (s : State) : Host.Outcome State Fault Refusal :=
  let x := s.queue q
  if x.st = 1 ∧ s.dmaOk ∧ !s.outOfService ∧ !s.frozenAs 0x1C00 ∧ x.mayFetch then
    done s ((s.updQueue q (fun x => { x with st := 3 })).updHost (fun h => { h with
      status := setBit h.status 4 true, fetches := h.fetches ++ [x.slotAddr x.fetched] }))
  else done s s

/-! ## The form of a command (R456, R457) -/

/-- Bytes 16 to 63 that an opcode's fields occupy: first byte and length. -/
def cmdFields : Nat → List (Nat × Nat)
  | 1 => [(16, 2), (24, 8)]
  | 2 => [(16, 8), (24, 8), (32, 8), (40, 1), (48, 8)]
  | 3 => [(16, 8), (24, 8), (32, 1)]
  | 4 => [(16, 8), (24, 8), (32, 8), (40, 1), (41, 1), (42, 1), (43, 1)]
  | 5 => [(16, 1), (17, 1), (18, 1), (19, 1), (20, 2), (24, 8)]
  | 6 => [(16, 1), (17, 1), (24, 8), (32, 8)]
  | 8 => [(16, 2), (20, 4), (24, 1)]
  | 9 => [(16, 1)]
  | _ => []

/-- Whether a command is BAD_COMMAND (R456): a reserved opcode, byte or bit, or a field outside its values. -/
def badCommand (c : Line) : Bool :=
  let op := cmdOp c
  let f := cmdFld c
  let used := fun (i : Nat) => (cmdFields op).any (fun p => decide (p.1 ≤ i) && decide (i < p.1 + p.2))
  let reserved := decide (2 ≤ f 1 1) || f 3 1 != 0 || f 6 2 != 0 || (List.range 48).any (fun k => !used (16 + k) && f (16 + k) 1 != 0)
  let ga := fun (i : Nat) => BitVec.ofNat 64 (f i 8)
  let range := match op with
    | 1 | 7 | 10 => true
    | 2 => f 16 8 % 8 == 0 && decide (f 40 1 ≤ 3)
    | 3 => f 16 8 % 8 == 0 && gaSpace (ga 16) == 2 && decide (f 32 1 ≤ 10)
    | 4 => f 16 8 % 64 == 0 && f 24 8 % 64 == 0 && decide (gaSpace (ga 16) ≤ 2) && decide (gaSpace (ga 24) ≤ 2)
        && f 32 8 % 64 == 0 && decide (64 ≤ f 32 8) && decide (f 32 8 ≤ 2 ^ 40) && (decide (f 40 1 ≤ 15) || f 40 1 == 255)
        && decide (f 41 1 ≤ 3)
    | 5 => decide (f 16 1 ≤ 63) && decide (f 17 1 ≤ 4) && decide (f 19 1 ≤ 3)
    | 6 => decide (1 ≤ f 16 1) && decide (f 16 1 ≤ 3) && decide (f 17 1 ≤ 1) && (f 16 1 == 3 || f 32 8 == 0)
    | 8 => decide (f 16 2 ≤ 8191) && decide (f 24 1 ≤ 1)
    | 9 => decide (f 16 1 ≤ 1)
    | _ => false
  reserved || !range

/-! ## Arms (R278, R279, R288) -/

/-- What an arm says: BAD_ARM, a period that is not announced, or the beat at whose boundary the command acts, with whether it was
late. -/
inductive ArmIs where
  | bad
  | waits
  | acts (b : W64) (late : Bool)
  deriving DecidableEq, Repr

/-- The beat S_k + o, once period k is announced. A period whose start lies so far back that S_k + o has passed for every o, or before the
first one, gives 0, so that the command acts at the next boundary (log 51). The first period starts at ESC_PERIOD_ANCHOR (R283). -/
def State.periodBeat (s : State) (k o : Nat) : Option Nat :=
  let e := s.esc
  let past := if e.started then decide (k < e.now.toNat) else decide (k < e.first.toNat)
  if past then some (match e.starts.find? (fun p => p.1 == k) with | some p => p.2.toNat + o | none => 0)
  else if e.started ∧ k = e.now.toNat then some (e.start.toNat + o)
  else if !e.started ∧ k = e.first.toNat then some (e.anchor.toNat + o)
  else match e.announced with
    | some a => if a.k1.toNat = k then some (a.e.toNat + o) else none
    | none => none

/-- The arm of a command now. -/
def State.armIs (s : State) (c : Line) : ArmIs :=
  let v := cmdFld c 8 8
  let next := s.beat + 1
  let at_ := fun (b : Nat) => if b ≤ s.beat.toNat then ArmIs.acts next true else .acts (BitVec.ofNat 64 b) false
  match cmdFld c 2 1 with
  | 0 => if v = 0 then .acts next false else at_ v
  | 1 =>
    if s.periodP = 0 then .bad
    else match s.periodBeat (v % 2 ^ 48) (v / 2 ^ 48) with
      | none => .waits
      | some b => at_ b
  | _ => .bad

/-! ## Dispatch (R452 to R455) -/

/-- The slot to which a queue is bound (R453). -/
def State.boundSlot (s : State) (q : Nat) : Option Nat :=
  match afind s.cfg.active.queueBind q with
  | some (k + 1) => some k
  | _ => none

/-- The staged image, from the evaluation of its COMMIT until it applies, for a command armed for beat b (R428). -/
def State.stagedFor (s : State) (b : W64) : Option Staged :=
  match s.cfg.commit with
  | some a => if a.beat.toNat ≤ b.toNat then s.cfg.staging else none
  | none => none

/-- The slot to which a queue is bound for a LAUNCH armed for beat b: the staged image's binding, or under a PATCH that has none the active
one (R413, R428). -/
def State.boundFor (s : State) (q : Nat) (b : W64) : Option Nat :=
  match s.stagedFor b with
  | none => s.boundSlot q
  | some g => match afind g.items.queueBind q with
    | some (k + 1) => some k
    | some 0 => none
    | none => if g.patch then s.boundSlot q else none

/-- The slot of a LAUNCH that dispatches now: that of its arm beat, where its arm gives one (R428, R453). -/
def State.launchFor (s : State) (q : Nat) (c : Line) : Option Nat :=
  match s.armIs c with
  | .acts b _ => s.boundFor q b
  | _ => s.boundSlot q

/-- Whether a slot has a LAUNCH that is dispatched or running. -/
def State.slotTaken (s : State) (k : Nat) : Bool :=
  (s.slot k).launch.isSome || s.host.queues.any (fun p => p.2.cmds.any (fun c => cmdOp c.raw == 1 && c.st != .fetched
    && (match c.arm with | some b => s.boundFor p.1 b | none => s.boundSlot p.1) == some k))

/-- The copy engine that a COPY takes: the one it names, or the lowest-numbered free one (R453, R457). -/
def State.copyEngine (s : State) (c : Line) : Option Nat :=
  let free := (List.range 16).filter (fun e => (afind s.host.copies e).isNone)
  if cmdFld c 40 1 = 255 then free.head? else if free.contains (cmdFld c 40 1) then some (cmdFld c 40 1) else none

/-- Whether a CHECKPOINT is dispatched or running. -/
def State.ckTaken (s : State) : Bool :=
  s.ras.run.isSome || s.host.queues.any (fun p => p.2.cmds.any (fun c => cmdOp c.raw == 6 && c.st != .fetched))

/-- A hang is being handled (R506). -/
def State.handling (s : State) : Bool := fld s.hang.status 0 2 != 0
/-- Whether a queue is a suspect of the hang that is being handled (R505). -/
def State.suspect (s : State) (q : Nat) : Bool := s.handling && s.hang.suspects.any (fun x => x.q == q)

/-- The command of a queue that dispatches next: an ABORT goes ahead of every other (R452). -/
def Queue.next (x : Queue) : Option Cmd :=
  match x.cmds.find? (fun c => c.st == .fetched && cmdOp c.raw == 8) with
  | some c => some c
  | none => x.cmds.find? (fun c => c.st == .fetched)

/-- Whether the order of a queue lets a command dispatch (R452). -/
def Queue.inOrder (x : Queue) (c : Cmd) : Bool :=
  match x.cmds.find? (fun d => d.index == (c.index + 2 ^ 32 - 1) % 2 ^ 32) with
  | none => true
  | some d => cmdOp c.raw == 8 || (nfld (cmdFld c.raw 1 1) 0 1 == 1 && d.st != .fetched)

/-- A command dispatches: its arm beat is fixed and its tag recorded (R279, R455); a FENCE notes what it waits for (R461); a COPY
takes its engine. -/
def State.dispatch (s : State) (q : Nat) (c : Cmd) (arm : Option W64) (late : Bool) (tag : Option Nat) : State :=
  let f := cmdFld c.raw
  let x := s.queue q
  let dispatched := s.host.queues.flatMap (fun p => (p.2.cmds.filter (fun d => d.st != .fetched)).map (fun d => (p.1, d.index)))
  let earlier := (x.cmds.takeWhile (fun d => d.index != c.index)).map (fun d => (q, d.index))
  let c' : Cmd := { c with
    st := .dispatched, arm := arm, tag := tag, late := late, progress := s.beat
    waits := if cmdOp c.raw = 9 then (if f 16 1 = 0 then earlier else dispatched) else []
    lines := if cmdOp c.raw = 9 then s.mem.chans.flatMap (fun p => p.2.wcb.map (fun w => (p.1, w.addr))) else [] }
  let s := s.updCmd q c.index (fun _ => c')
  let s := if late then s.updEsc (fun e => { e with lateStats := addFld e.lateStats 48 16 1 }) else s
  let s := match tag with
    | some t => s.updHost (fun (h : HostIf) => { h with tags := aput h.tags t (q, c.index, f 16 2, BitVec.ofNat 64 (f 24 8)) })
    | none => s
  match cmdOp c.raw, s.copyEngine c.raw with
  | 4, some e =>
    let r : CopyRun :=
      { q := q, index := c.index, src := BitVec.ofNat 64 (f 16 8), dst := BitVec.ofNat 64 (f 24 8), bytes := f 32 8, cls := f 41 1,
        progress := s.beat }
    s.updHost (fun h => { h with copies := aput h.copies e r })
  | _, _ => s

/-- COMMAND_DISPATCH: the next command of queue q dispatches with a free operation tag, completes with a status of its form, or waits
(R372, R434, R452 to R456, R480, R505). -/
def execCommandDispatch (q tag : Nat) (s : State) : Host.Outcome State Fault Refusal :=
  let x := s.queue q
  match x.next with
  | none => done s s
  | some c =>
    let op := cmdOp c.raw
    let i := c.index
    let engine := op == 1 || op == 4 || op == 5 || op == 6
    let bound := op == 1 || op == 5 || op == 6
    if x.st ≠ 1 ∨ s.suspect q ∨ !x.inOrder c ∨ s.frozenAs 0x1C00 then done s s
    else if badCommand c.raw then done s (s.complete q i 7)
    else if op = 1 ∧ (s.launchFor q c.raw).isNone then done s (s.complete q i 10)
    else if bound ∧ s.sliceSt = 3 then done s (s.complete q i 4)
    else if bound ∧ s.sliceSt ≠ 2 then done s s
    else
      let tagOk := !engine || (decide (tag < Config.opTags) && (afind s.host.tags tag).isNone)
      let free := match op with
        | 1 => match s.launchFor q c.raw with | some k => !s.slotTaken k | none => false
        | 4 => (s.copyEngine c.raw).isSome
        | 6 => !s.ckTaken
        | _ => true
      let t := if engine then some tag else none
      if !tagOk ∨ !free ∨ (engine ∧ s.cfg.retiming) then
        (match s.armIs c.raw with | .bad => done s (s.complete q i 8) | _ => done s s)
      else match s.armIs c.raw with
        | .bad => done s (s.complete q i 8)
        | .waits => if op = 8 then done s (s.dispatch q c none false none) else done s s
        | .acts b late => done s (s.dispatch q c (some b) late t)

/-- While the stacks retime, a LAUNCH, COPY, COLLECTIVE or CHECKPOINT that has not begun is held (R434). -/
def State.retimeHolds (s : State) (c : Cmd) : Bool :=
  s.cfg.retiming && c.st == .dispatched && (cmdOp c.raw == 1 || cmdOp c.raw == 4 || cmdOp c.raw == 5 || cmdOp c.raw == 6)

/-- In NONE and JOINING a LAUNCH, COLLECTIVE or CHECKPOINT that is bound to the slice waits, except in a replay (R372, R518). -/
def State.sliceHolds (s : State) (c : Cmd) : Bool :=
  decide (s.sliceSt < 2) && !c.replay && c.st == .dispatched && (cmdOp c.raw == 1 || cmdOp c.raw == 5 || cmdOp c.raw == 6)

/-- Whether a dispatched command's arm beat has come, and nothing holds it. -/
def State.cmdDue (s : State) (c : Cmd) : Bool :=
  c.st != .fetched && !s.retimeHolds c && !s.sliceHolds c && (match c.arm with | some b => decide (b.toNat ≤ s.beat.toNat) | none => false)

/-- Whether an ABORT is due: its arm beat, fixed at dispatch or by a period announced since, has come. One that targets a suspect's
commands waits for the end of the handling (R505). -/
def State.abortDue (s : State) (c : Cmd) : Bool :=
  let v := cmdFld c.raw 8 8
  let here := match c.arm with
    | some b => decide (b.toNat ≤ s.beat.toNat)
    | none => (match s.periodBeat (v % 2 ^ 48) (v / 2 ^ 48) with | some b => decide (b ≤ s.beat.toNat) | none => false)
  c.st == .dispatched && here && !s.suspect (cmdFld c.raw 16 2)

/-! ## LAUNCH (R100, R428, R432, R453) -/

/-- The slot on which a LAUNCH has started. -/
def State.launchSlot (s : State) (q i : Nat) : Option Nat :=
  (s.slots.find? (fun p => match p.2.launch with | some l => l.q == q && l.index == i | none => false)).map (·.1)

/-- The 64 bytes of a context record (R431). -/
def ctxRecord (r : Nat × Nat × List W64) : List Byte :=
  leBytes 2 r.1 ++ leBytes 2 r.2.1 ++ leBytes 4 0 ++ (tab 6 (nth 0 r.2.2)).flatMap (fun v => leBytes 8 v.toNat) ++ leBytes 8 0

/-- The slot binding and context record that a launch armed for beat b takes: context, CTX_LS_OFS and record (R428, R432). Of a FULL image
there is none but what it names (R413). -/
def State.launchBinding (s : State) (k : Nat) (b : W64) : Nat × Nat × List Byte :=
  let find := fun (l : List (Nat × Nat × List W64)) (c : Nat) => l.find? (fun (r : Nat × Nat × List W64) => r.1 == c)
  let own := s.slot k
  let (c, o) : Nat × Nat := match s.stagedFor b with
    | some g => (match g.items.slots.find? (fun r => r.1 == k) with
      | some r => (r.2.1, r.2.2.2.2)
      | none => if g.patch then (own.context, own.ctxLsOfs) else (0, 0))
    | none => (own.context, own.ctxLsOfs)
  let r := match s.stagedFor b with
    | some g => (match find g.items.contexts c with
      | some r => some r
      | none => if g.patch then find s.cfg.active.contexts c else none)
    | none => find s.cfg.active.contexts c
  (c, o, match r with | some r => ctxRecord r | none => List.replicate 64 0#8)

/-- The context record is deposited in the tiles of a slot's launch (R432). -/
def State.depositCtx (s : State) (k : Nat) (b : W64) (tiles : List Nat) : State :=
  let (_, o, bs) := s.launchBinding k b
  let ws := (bs.zipIdx.map (fun p => (o + p.2, p.1))).filter (fun p => decide (p.1 < Config.lsBytes))
  tiles.foldl (fun s t => s.writeLs t ws) s

/-- The mapping section that is in force for a launch armed for beat b (R428). -/
def State.mapFor (s : State) (b : W64) : List Byte :=
  match s.stagedFor b with
  | some g => if !g.patch || g.items.types.contains 14 then g.items.mapping else s.cfg.active.mapping
  | none => s.cfg.active.mapping
/-- The tiles that a LAUNCH of slot k with an ENTRY starts (R100, R457). -/
def State.tilesFor (s : State) (k entry : Nat) (b : W64) : List Nat :=
  let map := s.mapFor b
  ((if map.isEmpty then [] else Config.slotTiles map k entry).filter (fun t => decide (t < Config.tiles))).eraseDups

/-- A dispatched LAUNCH starts its slot's tiles (R100, R101). Between the evaluation of a COMMIT and its beat no tile starts for a lath
that it replaces or rebinds (R428). -/
def State.launchStart (s : State) (q : Nat) (c : Cmd) : State :=
  match c.arm.bind (fun b => s.boundFor q b), c.arm, c.tag with
  | some k, some b, some tag =>
    let x := s.slot k
    if x.launch.isSome ∨ s.lathHeld x.lath ∨ s.retimeHolds c ∨ s.sliceHolds c then s
    else
      let entry := cmdFld c.raw 16 2
      let map := s.mapFor b
      let tiles := s.tilesFor k entry b
      let l : Launch := { q := q, index := c.index, entry := entry, step := BitVec.ofNat 64 (cmdFld c.raw 24 8), armBeat := b, tag := tag
                          tiles := tiles, left := tiles, progress := s.beat }
      let s := s.updSlot k (fun x => { x with launch := some l })
      let sets := if map.isEmpty then [] else ((Config.opSets map k entry).filter (fun n => decide (n < 4))).eraseDups
      tiles.foldl (fun s t => (s.updTile t (fun x => sets.foldl (fun x n => x.bindSet n tag) x)).startTile t k) (s.depositCtx k b tiles)
  | _, _, _ => s

/-- The tiles that a LAUNCH has started before its arm beat are taken back from it: they halt and send nothing, and what the launch waits
for at others is dropped; the command waits on (R372, R428; DEDUCED, log 118). -/
def State.unstart (s : State) (k : Nat) : State :=
  match (s.slot k).launch with
  | none => s
  | some l =>
    let due := fun (x : Tile) => x.bindDue.filter (fun b => b.2 != l.tag)
    let s := l.tiles.foldl (fun s t =>
      let x := s.tile t
      if x.startDue = some k then s.setTile t { x with startDue := none, bindDue := due x }
      else if x.slot = some k ∧ x.st ≠ .fault then
        s.setTile t { x with
          st := .halted, held := none, armed := none, waitEnd := none, haltPend := false, startPend := false, took := none, part := none
          lost := false, kloop := none, kend := none, sendQ := [], slot := none, bindDue := due x
          sets := x.sets.map (fun p => if p.2.bound && p.2.tag == l.tag then (p.1, ({ tag := p.2.tag } : CSet)) else p) }
      else s) s
    s.updSlot k (fun x => { x with launch := none })

/-- The launches that wait for their arm beat: slot, launch and command. -/
def State.waitingLaunches (s : State) : List (Nat × Launch × Cmd) :=
  s.slots.filterMap (fun p => match p.2.launch with
    | some l => (match s.cmd l.q l.index with | some c => if c.st = .dispatched then some (p.1, l, c) else none | none => none)
    | none => none)

/-- A LAUNCH acts at its arm beat: it is a period-bound operation of the period (R283), its STEP is fixed (R457) and its slot's worlds
begin a new step (R213). -/
def State.launchAct (s : State) (q : Nat) (c : Cmd) : State :=
  let s := s.launchStart q c
  match s.launchSlot q c.index with
  | none => s
  | some k =>
    match (s.slot k).launch with
    | none => s
    | some l =>
      if c.st ≠ .dispatched then s
      else
        let step := s.stepNo l.step
        let l := { l with step := step, doneBeat := if l.tiles.isEmpty then some s.beat else l.doneBeat }
        let x := { s.slot k with launch := some l, step := step }
        let x := match s.slotLath k with | some t => x.newStep t step | none => x
        let s := (s.updSlot k (fun _ => x)).updCmd q c.index (fun c => { c with st := .acting })
        let s := s.updCtx x.context (fun y =>
          let y := if step = 0 ∧ !y.ran then { y with exp := none, clean := 0 } else y
          { y with ran := true, step := step })
        let s := { s with train := { s.train with curCtx := x.context } }
        let s := s.updHost (fun h => { h with tags := aput h.tags l.tag (q, c.index, l.entry, step) })
        s.actBound (.launch k l.entry) q c.index

/-- LAUNCH: command `index` of queue q, dispatched, starts its slot's tiles; at or after its arm beat it acts (R453). -/
def execLaunch (q index : Nat) (s : State) : Host.Outcome State Fault Refusal :=
  match s.cmd q index with
  | some c =>
    if cmdOp c.raw ≠ 1 ∨ c.st ≠ .dispatched then done s s
    else if s.cmdDue c then done s (s.launchAct q c) else done s (s.launchStart q c)
  | none => done s s

/-- The launch of slot k stops with a status (R282, R480), which cuts its step off before the verdict (R257): its tiles stop fetching and send their counter sets; a tile in FAULT sends
its sets and stays in FAULT. -/
def State.stopLaunch (s : State) (k status : Nat) : State :=
  match (s.slot k).launch with
  | none => s
  | some l =>
    let s := l.left.foldl (fun s t =>
      let x := s.tile t
      if x.slot != some k || x.startDue == some k then s.setTile t { x with startDue := none, bindDue := x.bindDue.filter (fun b => b.2 != l.tag) }
      else if x.st = .fault then (s.sendSets t).launchLeft t else s.stopTile t) s
    let s := s.updSlot k (fun x => { x with launch := x.launch.map (fun l =>
      { l with left := [], status := status, doneBeat := some (l.doneBeat.getD s.beat) }) })
    let acted : Bool := match s.cmd l.q l.index with | some c => c.st == .acting | none => false
    if acted then s.cutStep (s.slot k).context else s

/-- Whether the record of slot k's launch may be written: its last tile has halted, its sums have arrived, and the
slot's forward and adjoint phases have ended (R60, R213, R282, R465). -/
def State.launchOver (s : State) (k : Nat) (l : Launch) : Bool :=
  l.left.isEmpty && l.doneBeat.isSome && !s.mesh.any (fun p => p.kind == 3 && p.tag == l.tag)
    && (l.status != 0 || s.solverEnded k)

/-- The record of slot k's launch is written (R465, R467); its sums enter the step's (R262, R263). -/
def State.endLaunch (s : State) (k : Nat) : State :=
  match (s.slot k).launch with
  | none => s
  | some l =>
    let x := s.slot k
    let (nc, ab, dv) := if x.lath.isSome then x.worldCounts else (0, 0, 0)
    let cut := fun (n : Nat) => min n 255
    let body := BitVec.ofNat 128 (l.sat + l.flush * 2 ^ 32 + l.replay * 2 ^ 64 + l.nan * 2 ^ 96)
    let s1 := (s.complete l.q l.index l.status body (cut nc) (cut ab) (cut dv) (l.doneBeat.getD s.beat)).updSlot k (fun x => { x with launch := none })
    if l.status ≠ 0 then s1
    else
    let s2 := s1.updCtx x.context (fun y => { y with
      rollSums := l.setSums.foldl (fun r p => match r.find? (fun e => e.1 == p.1) with
        | some e => putKey r p.1 (e.2.1 + p.2.1, e.2.2 + p.2.2)
        | none => putKey r p.1 p.2) y.rollSums })
    { s2 with
      train := { s2.train with sat := cap32 s2.train.sat l.sat, flush := cap32 s2.train.flush l.flush
                               replay := cap32 s2.train.replay l.replay, nan := cap32 s2.train.nan l.nan } }

/-- LAUNCH_COMPLETE (R60, R465). -/
def execLaunchComplete (slot : Nat) (s : State) : Host.Outcome State Fault Refusal :=
  match (s.slot slot).launch with
  | some l => if s.launchOver slot l then done s (s.endLaunch slot) else done s s
  | none => done s s

/-! ## WAIT_FLAG and SET_FLAG (R458, R459) -/

/-- Whether a WAIT_FLAG's comparison holds on a flag value (R457, R458). -/
def waitHolds (c : Line) (flag : W64) : Bool :=
  let m := BitVec.ofNat 64 (cmdFld c 32 8)
  let a := (flag &&& m).toNat
  let b := (BitVec.ofNat 64 (cmdFld c 24 8) &&& m).toNat
  match cmdFld c 40 1 with
  | 0 => a == b | 1 => a != b | 2 => decide (b ≤ a) | _ => decide (a < b)

/-- A WAIT_FLAG evaluates at the boundary of the present beat, once (R458). An uncorrectable flag raises its fault and gives 0
(log 52). -/
def State.runWait (s : State) (q : Nat) (c : Cmd) : State :=
  let off := cmdFld c.raw 16 8
  if !s.cmdDue c ∨ c.lastEval = some s.beat ∨ s.frozenAs 0x1C00 then s
  else if Config.flagBytes ≤ off then s.complete q c.index 9
  else
    let (v, s) := s.readFlag (off / 8)
    let v := v.getD 0
    let first := c.firstEval.getD s.beat
    let timeout := cmdFld c.raw 48 8
    let body := BitVec.ofNat 128 v.toNat
    let s := s.updCmd q c.index (fun c => { c with st := .acting, firstEval := some first, lastEval := some s.beat, value := v })
    if waitHolds c.raw v then s.complete q c.index 0 body
    else if timeout ≠ 0 ∧ first.toNat + timeout ≤ s.beat.toNat then s.complete q c.index 6 body
    else s

/-- WAIT_FLAG. -/
def execWaitFlag (q index : Nat) (s : State) : Host.Outcome State Fault Refusal :=
  match s.cmd q index with
  | some c => if cmdOp c.raw = 2 then done s (s.runWait q c) else done s s
  | none => done s s

/-- WAIT_FLAG_TIMEOUT: TIMEOUT beats have passed since the first evaluation (R458). -/
def execWaitFlagTimeout (q index : Nat) (s : State) : Host.Outcome State Fault Refusal :=
  match s.cmd q index with
  | some c =>
    match c.firstEval with
    | some b =>
      let t := cmdFld c.raw 48 8
      if cmdOp c.raw = 2 ∧ t ≠ 0 ∧ b.toNat + t ≤ s.beat.toNat then
        (if c.lastEval = some s.beat then done s (s.complete q index 6 (BitVec.ofNat 128 c.value.toNat)) else done s (s.runWait q c))
      else done s s
    | none => done s s
  | none => done s s

/-- The requester of a dispatcher's packet: engine 0x1C00, with the command's queue and index above bit 16. -/
def dispSrc (q i : Nat) : ReqSrc := .engine (0x1C00 + 2 ^ 16 * (q + 8192 * i))

/-- A SET_FLAG acts (R459): at once on the module's own flags, as an urgent ATOMIC on another module's. A CAS has no compare value in
the command, so its compare value is a free value (log 53). -/
def State.runSet (s : State) (q : Nat) (c : Cmd) : State :=
  let ga := BitVec.ofNat 64 (cmdFld c.raw 16 8)
  let v := BitVec.ofNat 64 (cmdFld c.raw 24 8)
  let aop := cmdFld c.raw 32 1
  if !s.cmdDue c ∨ c.sent ∨ s.frozenAs 0x1C00 then s
  else
    let (cmp, s) := if aop = 2 then s.free else ((0 : W64), s)
    if gaModule ga = s.moduleId then
      if Config.flagBytes ≤ gaOff ga then s.complete q c.index 9
      else match s.atomicFlag (gaOff ga / 8) aop v cmp with
        | (some old, s) => s.complete q c.index 0 (BitVec.ofNat 128 old.toNat)
        | (none, s) => s.complete q c.index 9 (BitVec.ofNat 128 (dropCode .memUncorrectable * 2 ^ 64))
    else
      let e := s.route (gaModule ga)
      if !bitOf e 42 ∨ !bitOf e 40 then s.complete q c.index 9
      else
        let p := s.mkFab .atomic 0 ga [BitVec.ofNat 128 (v.toNat + cmp.toNat * 2 ^ 64)]
        let s := s.updCmd q c.index (fun c => { c with st := .acting, sent := true })
        s.toEdge { p with aop := aop, aw := 3, srcEngine := true, srcTile := 0x1C00 } (dispSrc q c.index)

/-- SET_FLAG. -/
def execSetFlag (q index : Nat) (s : State) : Host.Outcome State Fault Refusal :=
  match s.cmd q index with
  | some c => if cmdOp c.raw = 3 then done s (s.runSet q c) else done s s
  | none => done s s

/-! ## COPY (R460) -/

/-- A line at a global address of this module, in its space, by a packet class; the answer names the first error. -/
def State.readHere (s : State) (ga : W64) (cls : Nat) : Line × Option DropCause × State :=
  match reqCause .read (gaSpace ga) (gaOff ga) 0 0 0 0 with
  | some c => (0, some c, s)
  | none => match gaSpace ga with
    | 0 => s.engineRead (gaOff ga) cls fullMask
    | 1 => let (v, lost, s) := s.lsReadLine (gaOff ga / Config.lsStride) (gaOff ga % Config.lsStride)
           (v, if lost.isEmpty then none else some .memUncorrectable, s)
    | _ => let (v, bad, s) := State.readFlags 8 s (gaOff ga / 8)
           (BitVec.ofNat 512 v, if bad then some .memUncorrectable else none, s)

/-- 64 bytes written at a global address of this module. -/
def State.writeHere (s : State) (ga : W64) (v : Line) (cls : Nat) : Option DropCause × State :=
  match reqCause .write (gaSpace ga) (gaOff ga) 4 0 0 0 with
  | some c => (some c, s)
  | none => match gaSpace ga with
    | 0 => s.engineWrite (gaOff ga) fullMask v cls
    | 1 => (none, s.writeLs (gaOff ga / Config.lsStride) ((lineBytes v).zipIdx.map (fun p => (gaOff ga % Config.lsStride + p.2, p.1))))
    | _ => (none, ((chunks 8 8 (lineBytes v)).zipIdx).foldl (fun s p => s.putFlag (gaOff ga / 8 + p.2) (BitVec.ofNat 64 (ofLe p.1))) s)

/-- Copy engine e's run changed. -/
def State.updCopy (s : State) (e : Nat) (f : CopyRun → CopyRun) : State :=
  s.updHost (fun h => { h with copies := h.copies.map (fun p => if p.1 = e then (p.1, f p.2) else p) })

/-- The rest of the destination of a failed COPY (R460): every byte at or above the failing line holds what it held or what the COPY would
have written there; which of the two is a free value (log 5). Nothing is written there before: the lines of a destination on this module
are written in increasing order. -/
def State.copyRest (s : State) (r : CopyRun) (o : Nat) : State :=
  if gaModule r.dst ≠ s.moduleId then s
  else
    (List.range ((r.bytes - o) / 64)).foldl (fun s n =>
      let at_ := BitVec.ofNat 64 (o + 64 * n)
      let (old, _, _) := s.readHere (r.dst + at_) r.cls
      let (unread, s) := s.freeBytes 64
      let new := if gaModule r.src = s.moduleId then lineBytes (s.readHere (r.src + at_) r.cls).1 else unread
      let (pick, s) := s.freeBytes 64
      let bs := (lineBytes old).zipIdx.map (fun p => if (nth 0 pick p.2).getLsbD 0 then nth 0 new p.2 else p.1)
      (s.writeHere (r.dst + at_) (bytesLine bs) r.cls).2) s

/-- The COPY of engine e ends with a status (R460, R467). -/
def State.endCopy (s : State) (e status : Nat) : State :=
  match afind s.host.copies e with
  | none => s
  | some r =>
    let body := match r.err with
      | some (o, c) => o + dropCode c * 2 ^ 64
      | none => if status = 0 then r.bytes else 0
    let s := match r.err with | some (o, _) => s.copyRest r o | none => s
    (s.complete r.q r.index status (BitVec.ofNat 128 body)).updHost (fun h => { h with copies := adel h.copies e })

/-- The requests of an engine that wait for a tag, those whose numbers `p` picks, are not issued: their numbers, and the state without
them. -/
def State.unissue (s : State) (u : Nat) (p : Nat → Bool := fun _ => true) : List Nat × State :=
  let mine := fun (w : EdgeReq) => match w.src with | .engine e => e % 2 ^ 16 == u && p (e / 2 ^ 16) | _ => false
  ((s.fab.waiting.filter mine).filterMap (fun w => match w.src with | .engine e => some (e / 2 ^ 16) | _ => none),
    { s with fab := { s.fab with waiting := s.fab.waiting.filter (fun w => !mine w) } })

/-- Engine e issues nothing more of its COPY at or above an offset: what has not been issued there is not outstanding (R282, R460). -/
def State.copyStop (s : State) (e o : Nat) : State :=
  let (ns, s) := s.unissue (0x800 + e) (fun n => decide (o ≤ 64 * n))
  s.updCopy e (fun r => { r with lines := r.lines.filter (fun l =>
    !ns.contains (l.1 / 64) && (decide (l.1 < o) || (match l.2 with | .held _ => false | _ => true))) })

/-- The offset from which engine e issues nothing more: its failing line, or 0 once the COPY is to end. -/
def CopyRun.limit (r : CopyRun) : Nat :=
  if r.ending.isSome then 0 else match r.err with | some x => x.1 | none => r.bytes

/-- The line at an offset has failed: the lowest failing line counts, and nothing more is issued but the writes of the lines below it, which
hold the copied data before the record is written (R460; DEDUCED, log 54). -/
def State.copyErr (s : State) (e o : Nat) (c : DropCause) : State :=
  (s.updCopy e (fun r => { r with
    err := (match r.err with | some x => if x.1 ≤ o then some x else some (o, c) | none => some (o, c))
    lines := r.lines.filter (fun l => l.1 != o) })).copyStop e o

/-- The line at an offset has been written. -/
def State.copyDone (s : State) (e o : Nat) : State :=
  s.updCopy e (fun r => { r with lines := r.lines.filter (fun l => l.1 != o), progress := s.beat })

/-- The line at an offset is written: here at once, at another module by a write of the COPY's class. PORT of a COPY that names no port
names no entry (R355, R457). -/
def State.copyWrite (s : State) (e : Nat) (r : CopyRun) (o : Nat) (v : Line) : State :=
  let ga := r.dst + BitVec.ofNat 64 o
  if gaModule ga = s.moduleId then
    match s.writeHere ga v r.cls with
    | (some c, s) => s.copyErr e o c
    | (none, s) => s.copyDone e o
  else
    let raw := match s.cmd r.q r.index with | some c => c.raw | none => 0
    let port := if cmdFld raw 42 1 < Config.ports then cmdFld raw 42 1 else 64
    let p := s.mkFab (if r.cls = 3 then .circuitData else .write) r.cls ga (toFlits (lineBytes v))
    let p : FabPkt := { p with circuit := if r.cls = 3 then cmdFld raw 43 1 else 0, cirPort := if r.cls = 3 then port else 63
                               srcEngine := true, srcTile := 0x800 + e }
    (s.updCopy e (fun r => { r with lines := r.lines.map (fun l => if l.1 = o then (o, .writing) else l) })).toEdge p
      (.engine (0x800 + e + 2 ^ 16 * (o / 64)))

/-- The lines whose data are there are written, in increasing order: none before the lines below it. -/
def State.copyWrites (s : State) (e : Nat) : List (Nat × CopySt) → State
  | [] => s
  | (_, .writing) :: l => s.copyWrites e l
  | (_, .reading) :: _ => s
  | (o, .held v) :: l =>
    match afind s.host.copies e with
    | some r => if r.limit ≤ o then s else State.copyWrites (s.copyWrite e r o v) e l
    | none => s

/-- The lines of engine e that can be written are written. -/
def State.copyGo (s : State) (e : Nat) : State :=
  match afind s.host.copies e with
  | some r => s.copyWrites e r.lines
  | none => s

/-- The COPY of engine e ends if nothing of it is outstanding and it has all its lines, an error or a status to end with. -/
def State.copyOver (s : State) (e : Nat) : State :=
  match afind s.host.copies e with
  | none => s
  | some r =>
    if !r.lines.isEmpty then s
    else match r.ending, r.err with
      | some st, _ => s.endCopy e st
      | none, some _ => s.endCopy e 11
      | none, none => if r.bytes ≤ r.off then s.endCopy e 0 else s

/-- COPY: engine e begins its next line, or ends (R460). A line of this module is read or written at once, one of another module by a
request of the fabric; at most 8 lines are outstanding, and the lines are read and written in increasing order (log 54). -/
def State.copyLine (s : State) (e : Nat) : State :=
  match afind s.host.copies e with
  | none => s
  | some r =>
    match s.cmd r.q r.index with
    | none => s
    | some c =>
      if !s.cmdDue c ∨ s.frozenAs (0x800 + e) then s
      else
        let s := s.updCmd r.q r.index (fun c => { c with st := .acting })
        if r.ending.isSome ∨ r.err.isSome ∨ r.bytes ≤ r.off then s.copyOver e
        else if 8 ≤ r.lines.length then s
        else
          let ga := r.src + BitVec.ofNat 64 r.off
          let begin_ := fun (s : State) (x : CopySt) =>
            s.updCopy e (fun r => { r with off := r.off + 64, lines := r.lines ++ [(r.off, x)] })
          if gaModule ga = s.moduleId then
            match s.readHere ga r.cls with
            | (_, some x, s) => (begin_ s .reading).copyErr e r.off x
            | (v, none, s) => (begin_ s (.held v)).copyGo e
          else
            let p := s.mkFab .read (if r.cls = 3 then 1 else r.cls) ga []
            (begin_ s .reading).toEdge { p with srcEngine := true, srcTile := 0x800 + e } (.engine (0x800 + e + 2 ^ 16 * (r.off / 64)))

/-- COPY. -/
def execCopy (engine : Nat) (s : State) : Host.Outcome State Fault Refusal := done s (s.copyLine engine)

/-! ## FENCE and STATUS (R461, R462) -/

/-- A FENCE whose commands have completed and whose entries have been evicted completes. -/
def State.runFence (s : State) (q : Nat) (c : Cmd) : State :=
  let open_ := c.waits.any (fun w => (s.cmd w.1 w.2).isSome)
  let held := c.lines.any (fun l => (s.chan l.1).wcb.any (fun w => w.addr == l.2))
  if !s.cmdDue c ∨ s.frozenAs 0x1C00 then s
  else if open_ ∨ held then
    let s := c.lines.foldl (fun s l => s.updChan l.1 (fun x => if (x.entry l.2).isSome then x.queueEvict l.2 else x)) s
    s.updCmd q c.index (fun c => { c with st := .acting })
  else s.complete q c.index 0

/-- FENCE. -/
def execFence (q index : Nat) (s : State) : Host.Outcome State Fault Refusal :=
  match s.cmd q index with
  | some c => if cmdOp c.raw = 9 then done s (s.runFence q c) else done s s
  | none => done s s

/-- A STATUS writes one mirror, then its record with the mirror's SEQ; while DMA is held it waits (R441, R462). A replayed one writes no mirror,
and every other one waits for the replay's end (R518). -/
def State.runStatus (s : State) (q : Nat) (c : Cmd) : State :=
  if !s.cmdDue c ∨ s.frozenAs 0x1C00 then s
  else if c.replay then s.complete q c.index 0
  else if !s.mirrorNow then s
  else
    let s := s.writeMirror
    s.complete q c.index 0 (BitVec.ofNat 128 s.host.mirrorSeq.toNat)

/-- STATUS. -/
def execStatus (q index : Nat) (s : State) : Host.Outcome State Fault Refusal :=
  match s.cmd q index with
  | some c => if cmdOp c.raw = 10 then done s (s.runStatus q c) else done s s
  | none => done s s

/-- INTERVAL of the status mirror; values below 16 act as 16 (R474). -/
def State.mirrorInterval (s : State) : Nat := max 16 (fld s.host.mirrorCfg 0 16)

/-- STATUS_MIRROR_WRITE: after the events of a boundary whose beat is a multiple of INTERVAL, with ENABLE 1 and DMA allowed (R470). -/
def execStatusMirrorWrite (s : State) : Host.Outcome State Fault Refusal :=
  if bitOf s.host.mirrorCfg 16 ∧ s.mirrorNow ∧ s.synced ∧ s.beat.toNat % s.mirrorInterval = 0 then done s s.writeMirror else done s s

/-! ## Ending a command that is in flight or waits (R282, R480) -/

/-- KiB of a number of bytes. -/
def kib (n : Nat) : Nat := (n + 1023) / 1024

/-- The run of a CHECKPOINT as its command asks for it (R498): a RESTORE begins with tier 1. -/
def ckOf (q : Nat) (c : Cmd) : CkRun :=
  let f := cmdFld c.raw
  { q := q, index := c.index, op := f 17 1, tier := if f 17 1 = 0 then f 16 1 else 1, slot := 0, step := BitVec.ofNat 64 (f 24 8)
    target := BitVec.ofNat 64 (f 32 8), top := f 16 1 }

/-- Bytes 16 to 31 of a CHECKPOINT record (R498). -/
def ckBody (r : CkRun) : Flit :=
  BitVec.ofNat 128 (r.step.toNat + r.tier * 2 ^ 64 + (if r.op = 0 then r.slot else b1 r.rebuilt) * 2 ^ 72 + kib r.moved * 2 ^ 96)

/-- The CKPT ranges of the active image (R485). -/
def State.ckptAreas (s : State) : List (Nat × Nat × Nat) := s.cfg.active.areas.filter (fun r => r.2.2 != 0)

/-- The live ranges hold undefined bytes (R497): free values (log 5). -/
def State.loseRanges (s : State) : State :=
  s.ckptAreas.foldl (fun s r =>
    let (bs, s) := s.freeBytes r.2.1
    (s.wrMem r.1 bs).2) s

/-- The CHECKPOINT in progress ends with a status. The segments that have come for a tier-1 SAVE that is cut off are dropped (R491), and a
RESTORE cut off by a halt leaves the live ranges undefined (R497). -/
def State.endCk (s : State) (status : Nat) : State :=
  match s.ras.run with
  | none => s
  | some r =>
    let s := s.complete r.q r.index status (ckBody r)
    let s := if r.op = 1 ∧ (status = 4 ∨ status = 5) then s.loseRanges else s
    let late := r.op == 0 && r.tier == 1 && status != 0
    { s with ras := { s.ras with
        run := none
        pieces := if late then s.ras.pieces.filter (fun p => decide (r.step.toNat % 2 ^ 32 < p.stepLo.toNat)) else s.ras.pieces } }

/-- A COLLECTIVE ends: the channel's oldest once its requests are answered, one that waits behind others after them, in issue order
(R387). It issues nothing more (R480). -/
def State.cancelColl (s : State) (q i status : Nat) : State :=
  if s.slice.queued.any (fun p => p.2.q == q && p.2.index == i) then
    { s with slice := { s.slice with queued := s.slice.queued.map (fun p =>
        if p.2.q = q ∧ p.2.index = i then (p.1, { p.2 with ending := some (p.2.ending.getD status) }) else p) } }
  else
    match s.slice.running.find? (fun p => p.2.q == q && p.2.index == i) with
    | some p =>
      let (ns, s) := s.unissue (0x1000 + p.1)
      let s := s.updRun p.1 (fun r => { r with left := r.left - ns.length, ending := some status })
      if p.2.left ≤ ns.length then s.endColl p.1 status else s
    | none => s.complete q i status

/-- A CHECKPOINT ends once its requests are answered; it issues nothing more (R480). -/
def State.cancelCk (s : State) (q i status : Nat) : State :=
  match s.ras.run with
  | some r =>
    if r.q = q ∧ r.index = i then
      let (ns, s) := s.unissue 0x1800
      let out := r.out.filter (fun x => !ns.contains x.1)
      let s := { s with ras := { s.ras with run := some { r with out := out, ending := some status } } }
      if out.isEmpty then s.endCk status else s
    else s.complete q i status
  | none => s.complete q i status

/-- A COPY ends once its requests are answered; it issues nothing more. -/
def State.cancelCopy (s : State) (q i status : Nat) : State :=
  match s.host.copies.find? (fun p => p.2.q == q && p.2.index == i) with
  | some p => ((s.updCopy p.1 (fun r => { r with ending := some status })).copyStop p.1 0).copyOver p.1
  | none => s.complete q i status

/-- A COMMIT is armed no longer, and COMMIT_ARMED follows (R439). -/
def State.disarm (s : State) (q i : Nat) : State :=
  let rest := s.cfg.armed.filter (fun a => !(a.q == q && a.index == i))
  { s with cfg := { s.cfg with armed := rest, loadStatus := setBit s.cfg.loadStatus 20 (!rest.isEmpty || s.cfg.commit.isSome) } }

/-- A command ends with a status: what has started stops, what has not is removed from its queue. -/
def State.cancel (s : State) (q : Nat) (c : Cmd) (status : Nat) : State :=
  match cmdOp c.raw with
  | 1 => (match s.launchSlot q c.index with | some k => s.stopLaunch k status | none => s.complete q c.index status)
  | 4 => s.cancelCopy q c.index status
  | 5 => s.cancelColl q c.index status
  | 6 => s.cancelCk q c.index status
  | 7 => (s.disarm q c.index).complete q c.index status
  | 2 => s.complete q c.index status (BitVec.ofNat 128 c.value.toNat)
  | _ => s.complete q c.index status

/-! ## Register-side accesses that fail (R442, R443) -/

/-- HOST_STATUS bit i sets. -/
def State.hostBit (s : State) (i : Nat) : State := s.updHost (fun h => { h with status := setBit h.status i true })

/-- A read completes to its reader. -/
def State.readOut (s : State) (r : ReadOut) : State := s.updHost (fun h => { h with reads := h.reads ++ [r] })

/-- A read of BAR0 that is no naturally aligned one of 8 bytes: it completes as Unsupported Request, and BAD_ACCESS sets (R442). -/
def State.badRead (s : State) (off : Nat) : State :=
  (s.hostBit 2).readOut { path := .bar0, offset := off, value := 0, unsupported := true }

/-- BAR0_BAD_ACCESS (R442). Whether it reads or writes, and where, the command does not say: both are free values (log 119). -/
def execBar0BadAccess (s : State) : Host.Outcome State Fault Refusal :=
  if s.hostUp then
    let (v, s1) := s.free
    done s (if bitOf v 63 then s1.badRead (fld v 0 28) else s1.hostBit 2)
  else done s s

/-- BAR_READ_TIMEOUT: the read returns all ones, and RD_FAIL sets (R443). Which BAR it reads, and where, is free (log 119). -/
def execBarReadTimeout (s : State) : Host.Outcome State Fault Refusal :=
  if s.hostUp then
    let (v, s1) := s.free
    let r : ReadOut := { path := if bitOf v 63 then .window else .bar0, offset := fld v 0 (if bitOf v 63 then 32 else 28)
                         value := BitVec.allOnes 64 }
    done s ((s1.hostBit 1).readOut r)
  else done s s

end Sys2Proof.Machine
end

