-- ==== Sys2Proof/Machine/Ras.lean ====
section
/-! DEFINITION. Faults and slice halts (R478 to R482, R362), the NaN watch (R146 to R150) and checkpoints (R485 to R498). The two
tier-1 slots and the two flash slots are held apart from the stack and flash bytes, since the manual gives them no addresses, and
checkpoint packets carry an offset in the piece that they belong to (log 60). -/

namespace Sys2Proof.Machine

/-! ## Recording a fault (R478, R481, R482, R501) -/

/-- Code of a cause (R482). -/
def causeCode : Cause → Nat
  | .none => 0 | .cwIllegal => 1 | .triggerInvalid => 2 | .blockOpen => 3 | .csParity => 4 | .residue => 5 | .regParity => 6
  | .lsUncorrectable => 7 | .laneFault => 8 | .meshCrc => 9 | .deltaIndex => 10 | .deltaStep => 11 | .nanTrap => 16
  | .deadLayer => 17 | .memUncorrectable => 24 | .stackOvertemp => 25 | .linkDown => 32 | .fabricTimeout => 33
  | .shardVersion => 34 | .stepMismatch => 35 | .epochMismatch => 36 | .verdictLate => 37 | .commitSplit => 38 | .scaleTable => 39
  | .periodAnnounce => 40 | .syncSlip => 48 | .beatSlip => 49 | .hairspring => 50 | .refLoss => 51 | .pllUnlock => 52
  | .powerRail => 56 | .dieOvertemp => 57 | .coolant => 58 | .hostHalt => 64 | .engineHang => 65
/-- Code of a unit (R501). -/
def unitCode : FaultUnit → Nat
  | .tile => 0 | .channel => 1 | .port => 2 | .escapement => 3 | .region => 4 | .rail => 5 | .sensor => 6 | .engine => 7 | .host => 8
  | .numeric => 9 | .collective => 10

/-- The RAS part of the state changed. -/
def State.updRas (s : State) (f : Ras → Ras) : State := { s with ras := f s.ras }

/-- RAS_FAULT0 to RAS_FAULT3 of a fault that arrives in the present beat (R501). -/
def State.faultRegs (s : State) (f : FaultRec) : Ras → Ras := fun r =>
  { r with
    fault0 := BitVec.ofNat 64 (1 + causeCode f.cause * 2 + unitCode f.unit * 2 ^ 9 + f.index % 2 ^ 20 * 2 ^ 13 + f.cwAddr % 256 * 2 ^ 33
      + f.bank % 2 * 2 ^ 41)
    fault1 := s.beat
    fault2 := BitVec.ofNat 64 (f.tag % 65536 + f.laneMask.toNat * 2 ^ 16 + f.laterWords % 256 * 2 ^ 48 + f.laneCauses % 64 * 2 ^ 56)
    fault3 := f.detail
    status := setBit r.status 0 true }

/-- The first fault since REARM is recorded; of the faults of one beat, that with the lowest UNIT and then INDEX; every other one
counts in LATER_FAULTS (R481). -/
def State.recordFault (s : State) (f : FaultRec) : State :=
  let r := s.ras
  if !bitOf r.fault0 0 then (s.updRas (s.faultRegs f)).latchLanes f.index
  else
    let key := unitCode f.unit * 2 ^ 20 + f.index % 2 ^ 20
    let held := fld r.fault0 9 4 * 2 ^ 20 + fld r.fault0 13 20
    let s1 := s.updRas (fun r => { r with status := addFld r.status 11 16 1 })
    if r.fault1 = s.beat ∧ key < held then (s1.updRas (s.faultRegs f)).latchLanes f.index else s1

/-- A HALT_MARKER to every other member, with the cause and the beat at whose boundary this module halts (R362). -/
def State.sendMarkers (s : State) (cause : Nat) (b : W64) : State :=
  s.slice.table.foldl (fun s m =>
    if m.1 = s.moduleId then s
    else s.toSwitch (s.mkFab .haltMarker 0 (mkGa 0 m.1 0) [BitVec.ofNat 128 (cause + b.toNat * 2 ^ 64)])) s

/-- A fault is raised in the present beat: recorded, and in RUNNING the module halts at the next boundary and sends its markers
(R478). In a replay it enters the suspect's report entry only (R518). -/
def State.faultArrive (s : State) (f : FaultRec) : State :=
  match s.hang.replaying with
  | some q =>
    { s with hang := { s.hang with suspects := s.hang.suspects.map (fun x =>
        if x.q = q ∧ x.cause = 0 then { x with cause := causeCode f.cause } else x) } }
  | none =>
    let s := s.recordFault f
    let b := s.beat + 1
    if s.sliceSt ≠ 2 then s
    else if s.ras.halts.any (fun h => h.own) then s
    else
      let h : HaltDue := { beat := b, cause := causeCode f.cause, src := s.moduleId, own := true }
      (s.updRas (fun r => { r with halts := r.halts ++ [h] })).sendMarkers (causeCode f.cause) b

/-- FAULT_ARRIVAL: a fault on the fault tree reaches the RAS block (R478). -/
def execFaultArrival (f : FaultRec) (s : State) : Host.Outcome State Fault Refusal :=
  done s ((s.updRas (fun r => { r with tree := r.tree.erase f })).faultArrive f)

/-- HALT_MARKER from a member (R362, R394). -/
def execHaltMarker (src cause : Nat) (haltBeat : W64) (s : State) : Host.Outcome State Fault Refusal :=
  let s1 := { s with fab := { s.fab with delivered := eraseFirst (fun p => p.op == .haltMarker && p.src == src) s.fab.delivered } }
  if s.sliceSt ≠ 2 ∨ (s.rankOf src).isNone then done s s1
  else
    let b := if haltBeat.toNat ≤ s.beat.toNat then s.beat + 1 else haltBeat
    done s (s1.updRas (fun r => { r with halts := r.halts ++ [{ beat := b, cause := cause % 256, src := src, own := false }] }))

/-- RAS_CTRL.REARM acts (R501). -/
def State.rasRearm (s : State) : State :=
  let s := s.updRas (fun r =>
    { r with fault0 := 0, fault1 := 0, fault2 := 0, fault3 := 0, halt := 0, status := setFld r.status 0 27 0 })
  { s with slice := { s.slice with collFault := 0 } }
/-- RAS_CTRL.HALT acts (R482, R501). -/
def State.rasHalt (s : State) : State := s.faultArrive { cause := .hostHalt, unit := .host, index := 0 }
/-- HALT_RAS. -/
def execHaltRas (s : State) : Host.Outcome State Fault Refusal := done s s.rasHalt
/-- REARM_RAS. -/
def execRearmRas (s : State) : Host.Outcome State Fault Refusal := done s s.rasRearm

/-! ## The halt that the module obeys (R481) -/

/-- RAS_HALT takes the first halt that the module obeys since REARM (R481). -/
def State.recordHalt (s : State) (h : HaltDue) : State :=
  if s.ras.halt ≠ 0 then s
  else s.updRas (fun r =>
    { r with
      halt := BitVec.ofNat 64 (h.cause % 256 + h.src % 2 ^ 14 * 2 ^ 8 + s.beat.toNat % 2 ^ 32 * 2 ^ 32)
      status := setFld (setBit r.status 2 h.own) 3 8 h.cause })

/-! ## The NaN watch (R146 to R150) -/

/-- NAN_NOTICE: a notice reaches the watch (R146, R147). -/
def execNanNotice (n : NanNotice) (s : State) : Host.Outcome State Fault Refusal :=
  let s := s.updRas (fun r => { r with notices := r.notices.erase n })
  if bitOf s.nan.rec0 0 then done s { s with nan := { s.nan with later := addFld s.nan.later 0 32 1 } }
  else
    let c := match s.nan.collect with | some (b, l) => (b, l ++ [n]) | none => (s.beat, [n])
    done s { s with nan := { s.nan with collect := some c } }

/-- Whether a notice comes before another one: the lower beat, then the lower TILE_ID (R147). -/
def nanBefore (a b : NanNotice) : Bool := decide (a.beat.toNat < b.beat.toNat) || (a.beat == b.beat && decide (a.tile < b.tile))

/-- NAN_WATCH_RECORD: two beats after the first notice the watch takes its record; under TRAP the slice halts at the next boundary
(R147, R148), but not in a replay, where a fault halts nothing (R518). Where the notice's tag is bound to no operation any longer, the manual gives the operation's fields no value: they are
free (log 5). -/
def execNanWatchRecord (s : State) : Host.Outcome State Fault Refusal :=
  match s.nan.collect with
  | none => done s s
  | some (b, l) =>
    match l with
    | [] => done s s
    | x :: r =>
      if s.beat.toNat < b.toNat + 2 then done s s
      else
        let n := r.foldl (fun m y => if nanBefore y m then y else m) x
        let trap := bitOf s.nan.ctrl 0
        let (op, s1) : (Nat × Nat × Nat × W64) × State := match afind s.host.tags n.tag with
          | some o => (o, s)
          | none => let (v, s) := s.free
                    let (w, s) := s.free
                    ((fld v 0 13, fld v 13 32, fld v 45 16, w), s)
        let s2 := { s1 with nan := { s1.nan with
          collect := none
          rec0 := BitVec.ofNat 64 (1 + op.1 % 8192 * 2 ^ 2 + n.tile % 2 ^ 20 * 2 ^ 15 + n.cw % 256 * 2 ^ 35 + n.bank % 2 * 2 ^ 43)
          rec1 := BitVec.ofNat 64 (op.2.1 % 2 ^ 32 + op.2.2.1 % 65536 * 2 ^ 32 + n.tag % 65536 * 2 ^ 48)
          beat := n.beat, step := op.2.2.2, later := 0, trapDue := trap && s.hang.replaying.isNone } }
        if trap then
          done s (s2.faultArrive { cause := .nanTrap, unit := .tile, index := n.tile, cwAddr := n.cw, bank := n.bank, tag := n.tag })
        else done s s2

/-- A write of NUM_NAN_CTRL.REARM acts (R150). -/
def State.nanRearm (s : State) : State :=
  { s with nan := { s.nan with rec0 := 0, rec1 := 0, beat := 0, step := 0, later := 0, collect := none } }
/-- REARM (R150). -/
def execRearm (s : State) : Host.Outcome State Fault Refusal := done s s.nanRearm

/-! ## The snapshot (R485, R486) -/

/-- RAS_CKPT_CFG.GROUP_SIZE. -/
def State.groupSize (s : State) : Nat := fld s.ras.ckptCfg 0 5

/-- The context of a SLOTTED range: that of the layer of which the mapping puts the module's own slots there (R401, R486). -/
def State.slottedCtx (s : State) (a len : Nat) : Option Nat :=
  (s.cfg.active.mapLayers.find? (fun m => match s.ownShard m with
    | some k => decide (a ≤ k.slot0) && decide (k.slot0 < a + len)
    | none => false)).map (·.context)

/-- Which half of a SLOTTED range is current: the one whose header names the range's context and, as VERSION, its CUR_VERSION (R401, R486).
Where both halves or neither would do, it is the one that the verdicts have left current (R402; DEDUCED, log 118). A range that the mapping
does not name has the context of its own header. -/
def State.slottedCur (s : State) (a len : Nat) : Nat × Option DropCause × State :=
  let (h0, e0, s) := s.rdCkpt a 64
  let (h1, e1, s) := s.rdCkpt (a + len / 2) 64
  let own := fun (h : List Byte) => ofLe ((h.drop 8).take 1)
  let ok := fun (h : List Byte) =>
    (match s.slottedCtx a len with | some c => own h == c | none => true) && ofLe (h.take 8) == (s.ctx (own h)).curVersion.toNat
  let k := if ok h0 && !ok h1 then 0 else if ok h1 && !ok h0 then 1 else (s.ctx ((s.slottedCtx a len).getD (own h0))).cur % 2
  (k, (match e0 with | some e => some e | none => e1), s)

/-- The current halves of the SLOTTED ranges, in AREAS order. -/
def State.curHalves (s : State) : List Nat × Option DropCause × State :=
  (s.ckptAreas.filter (fun r => r.2.2 == 3)).foldl (fun (a : List Nat × Option DropCause × State) r =>
    let (k, e, s) := a.2.2.slottedCur r.1 r.2.1
    (a.1 ++ [k], (match a.2.1 with | some c => some c | none => e), s)) ([], none, s)

/-- The part of each CKPT range that a snapshot of step n holds, in AREAS order: offset and length (R486); `halves` are the current halves
of the SLOTTED ranges that are still to come. -/
def snapParts (n : W64) : List Nat → List (Nat × Nat × Nat) → List (Nat × Nat)
  | _, [] => []
  | halves, r :: rs => match r.2.2 with
    | 2 => (r.1 + (n.toNat + 1) % 2 * (r.2.1 / 2), r.2.1 / 2) :: snapParts n halves rs
    | 3 => (r.1 + halves.headD 0 * (r.2.1 / 2), r.2.1 / 2) :: snapParts n halves.tail rs
    | _ => (r.1, r.2.1) :: snapParts n halves rs

/-- The values of the state block (R485): step, period, the Ratchet's registers, each context's version, current slots, Ratchet state,
SKIM_DONE and zero runs, and the current halves. -/
def State.stateVals (s : State) (halves : List Nat) : List W64 :=
  [s.slice.step, s.esc.now, s.train.ratchetStatus, s.train.scaleStatus, BitVec.ofNat 64 s.ctxs.length]
    ++ s.ctxs.flatMap (fun p =>
      let x := p.2
      [BitVec.ofNat 64 p.1, x.curVersion, BitVec.ofNat 64 x.cur, BitVec.ofNat 64 (match x.exp with | some e => e + 1 | none => 0),
       BitVec.ofNat 64 x.clean, BitVec.ofNat 64 (b1 x.skimDone), BitVec.ofNat 64 x.layers.length]
        ++ x.layers.map (fun l => BitVec.ofNat 64 l.zeroRun))
    ++ halves.map (BitVec.ofNat 64)

/-- The zero runs restored into a context's layers: DEAD_LAYER and FREEZE_LAYER follow from them (R259). -/
def State.restoreLayers (s : State) (runs : List W64) : List Layer :=
  let th := max 1 (fld s.train.deadCtrl 0 16)
  runs.map (fun v =>
    let z := v.toNat % 65536
    { zeroRun := z, dead := decide (th ≤ z), frozen := decide (th ≤ z) && fld s.train.deadCtrl 16 2 == 1 })

/-- The contexts' values written back; the rest of the values is answered. -/
def State.restoreCtxs : Nat → List W64 → State → List W64 × State
  | 0, vs, s => (vs, s)
  | k + 1, vs, s =>
    let g := fun i => (nth 0 vs i).toNat
    let n := g 6
    let ls := s.restoreLayers ((vs.drop 7).take n)
    State.restoreCtxs k (vs.drop (7 + n)) (s.updCtx (g 0) (fun x =>
      { x with curVersion := nth 0 vs 1, cur := g 2 % 2, exp := (if g 3 = 0 then none else some (g 3 - 1)), clean := g 4
               skimDone := g 5 != 0, layers := ls }))

/-- The current halves of the SLOTTED ranges that state-block values name. -/
def slottedHalves : Nat → List W64 → List Nat
  | 0, vs => vs.map (fun v => v.toNat % 2)
  | k + 1, vs => slottedHalves k (vs.drop (7 + (nth 0 vs 6).toNat))

/-- The agreed tables of the contexts, as their copies in stack memory hold them (R253, R431). -/
def State.reloadTables (s : State) : State :=
  s.ctxs.foldl (fun s p =>
    let n := max p.2.table.length (s.tableSize p.1)
    let (bs, _, s) := s.rdMem (gaOff p.2.scaleBase) (3 * n)
    s.updCtx p.1 (fun x => { x with table := (chunks 3 n bs).map (fun e =>
      { t := sext 8 (nth 0 e 0).toNat, run := ofLe (e.drop 1) }) })) s

/-- The state block's values written back. -/
def State.restoreVals (s : State) (vs : List W64) : State :=
  let s := { s with slice := { s.slice with step := nth 0 vs 0 }
                    esc := { s.esc with now := nth 0 vs 1 }
                    train := { s.train with ratchetStatus := nth 0 vs 2, scaleStatus := nth 0 vs 3 } }
  ((State.restoreCtxs (nth 0 vs 4).toNat (vs.drop 5) s).2).reloadTables

/-- A snapshot taken now (R485, R486): its ranges, the values of its state block, and the first error. -/
def State.takeSnap (s : State) : List (Nat × List Byte) × List W64 × Option DropCause × State :=
  let (halves, e, s) := s.curHalves
  let (snap, e, s) := (snapParts s.slice.step halves s.ckptAreas).foldl (fun (a : List (Nat × List Byte) × Option DropCause × State) r =>
    let (bs, e2, s) := a.2.2.rdCkpt r.1 r.2
    (a.1 ++ [(r.1, bs)], (match a.2.1 with | some c => some c | none => e2), s)) ([], e, s)
  (snap, s.stateVals halves, e, s)

/-- The bytes of a state block. -/
def blockBytes (vs : List W64) : List Byte :=
  let bs := (Config.stateBlock vs).take 4096
  bs ++ List.replicate (4096 - bs.length) 0#8

/-- The bytes of a slot's snapshot: its ranges in order, then the state block. -/
def CkSlot.bytes (x : CkSlot) : List Byte := x.snap.flatMap (fun r => r.2) ++ blockBytes x.state

/-! ## Parity groups (R488, R489) -/

/-- Index of the member in its parity group. -/
def State.groupIndex (s : State) (r : Nat) : Nat := r / max 1 s.domSize % max 1 s.groupSize
/-- The rank at index j of this member's group. -/
def State.groupRank (s : State) (j : Nat) : Nat :=
  (s.rank / max 1 s.domSize / max 1 s.groupSize * s.groupSize + j) * s.domSize + s.rank % max 1 s.domSize
/-- Whether the slice fits the group size: no parity, or 4 to 16 dividing the number of domains, with no RACK twice in a group. -/
def State.layoutOk (s : State) : Bool :=
  let g := s.groupSize
  let d := max 1 s.domSize
  g == 0 || (decide (4 ≤ g) && decide (g ≤ 16) && s.nMembers / d % g == 0
    && (List.range (s.nMembers / d / g)).all (fun k => (List.range d).all (fun p =>
      let racks := tab g (fun j => (nth (0, 0, 0) s.slice.table (((k * g + j) * d) + p)).2.1)
      racks.eraseDups.length == racks.length)))

/-- Bytes U of a segment of a snapshot of z bytes. -/
def segBytes (z g : Nat) : Nat := (z + 64 * (g - 1) - 1) / (64 * (g - 1)) * 64
/-- Segment n of a snapshot, padded with zeros. -/
def segment (bs : List Byte) (g n : Nat) : List Byte :=
  let u := segBytes bs.length g
  let part := (bs.drop (n * u)).take u
  part ++ List.replicate (u - part.length) 0#8
/-- XOR of bytes laid at an offset; a list too short is lengthened with zeros. -/
def xorAt (l : List Byte) (o : Nat) (bs : List Byte) : List Byte :=
  let l := l ++ List.replicate (o + bs.length - l.length) 0#8
  l.take o ++ ((l.drop o).zip bs).map (fun p => p.1 ^^^ p.2) ++ l.drop (o + bs.length)
/-- Packets that carry n bytes. -/
def packetsOf (n : Nat) : Nat := (n + 255) / 256

/-- The indices of the other members of this member's group. -/
def State.peers (s : State) : List Nat :=
  if s.groupSize = 0 then [] else (List.range s.groupSize).filter (· != s.groupIndex s.rank)
/-- The incoming segment of a group member that is looked at first: the oldest that has begun to arrive. -/
def State.pieceOf (s : State) (j : Nat) : Option CkPiece := s.ras.pieces.find? (fun p => p.index == j)
/-- Whether every incoming segment of a snapshot of z bytes has arrived whole (R490). -/
def State.parityWhole (s : State) (z : Nat) : Bool :=
  s.peers.all (fun j => match s.pieceOf j with | some p => decide (segBytes z s.groupSize ≤ p.bytes.length) | none => false)
/-- The parity block: the XOR of the incoming segments (R489). -/
def State.parityBlock (s : State) : List Byte := (s.peers.filterMap s.pieceOf).foldl (fun b p => xorAt b 0 p.bytes) []

/-- The complete slot of a step among two; a slot's header records its completion (R490). -/
def slotOf (l : Assoc CkSlot) (step : W64) : Option Nat :=
  (List.range 2).find? (fun k => let x := aget ({} : CkSlot) l k; x.complete && x.step == step)
/-- The slot that does not hold the newest complete snapshot (R490, R491). -/
def oldSlot (l : Assoc CkSlot) : Nat :=
  let a := aget ({} : CkSlot) l 0
  let b := aget ({} : CkSlot) l 1
  if a.complete ∧ (!b.complete ∨ b.step.toNat ≤ a.step.toNat) then 1 else 0

/-- A tier-1 slot changed. -/
def State.updTier1 (s : State) (k : Nat) (f : CkSlot → CkSlot) : State :=
  s.updRas (fun r => { r with tier1 := aput r.tier1 k (f (aget {} r.tier1 k)) })

/-! ## The checkpoint engine -/

/-- The CHECKPOINT in progress changed. -/
def State.updCk (s : State) (f : CkRun → CkRun) : State := s.updRas (fun r => { r with run := r.run.map f })

/-- A dispatched CHECKPOINT whose arm beat has come starts (R453). -/
def State.ckStart (s : State) : State :=
  if s.ras.run.isSome then s
  else
    let cs := s.host.queues.flatMap (fun p => (p.2.cmds.filter (fun c => cmdOp c.raw == 6 && c.st == .dispatched && s.cmdDue c)).map
      (fun c => (p.1, c)))
    match cs with
    | [] => s
    | (q, c) :: _ =>
      (s.updCmd q c.index (fun c => { c with st := .acting })).updRas (fun x => { x with run := some { ckOf q c with progress := s.beat } })

/-- Bytes of the engine go to a module in packets of at most 256 bytes, each awaited; `off` is their first address. Circuit data take the
circuit that the image gives the checkpoint engine to that member (R489). -/
def State.ckSend (s : State) (dest : Nat) (op : FabOp) (cls off : Nat) (bs : List Byte) : State :=
  let parts := chunks 256 (bs.length / 256 + 1) bs
  let circuit := match s.rankOf dest with
    | some r => if op = .circuitData ∧ s.cfg.active.mapping ≠ [] then Config.ckCircuit s.cfg.active.mapping r % 256 else 0
    | none => 0
  (parts.zipIdx).foldl (fun s p =>
    let n := match s.ras.run with | some r => (r.out.map (·.1)).foldl max 0 + 1 | none => 1
    let pkt := s.mkFab op cls (mkGa 0 dest (off + 256 * p.2)) (toFlits p.1)
    (s.updCk (fun r => { r with out := r.out ++ [(n, p.1.length)] })).toEdge
      { pkt with srcEngine := true, srcTile := 0x1800, circuit := circuit } (.engine (0x1800 + 2 ^ 16 * n))) s

/-- Bytes that the CHECKPOINT in progress has moved; every 64 KiB is a progress event (R502). -/
def CkRun.move (r : CkRun) (n : Nat) (beat : W64) : CkRun :=
  { r with moved := r.moved + n, progress := if r.moved / 65536 < (r.moved + n) / 65536 then beat else r.progress }
/-- Bytes have been moved. -/
def State.ckMoved (s : State) (n : Nat) : State := s.updCk (fun r => r.move n s.beat)

/-- A complete copy at tier t becomes the newest; the newest becomes the previous (R501). -/
def State.ckNewest (s : State) (t : Nat) (step : W64) (parity : Bool) : State :=
  let v := setBit (setBit (setFld 0 0 48 step.toNat) 48 true) 49 parity
  s.updRas (fun r => { r with ckptPrev := aset 0 r.ckptPrev t (aget 0 r.ckptNew t), ckptNew := aset 0 r.ckptNew t v })

/-- A slot of a tier is about to be overwritten: the copy that PREVt names exists no longer (R501). -/
def State.ckOverwrite (s : State) (t : Nat) : State :=
  s.updRas (fun r => { r with ckptPrev := aset 0 r.ckptPrev t (setFld (aget 0 r.ckptPrev t) 48 2 0) })

/-- A tier-1 SAVE makes its local copy (R490). Of the segments that have come before it, those that were sent before this step are of an
earlier SAVE, and are dropped. -/
def State.saveLocal (s : State) (r : CkRun) : State :=
  if r.step ≠ s.slice.step then s.endCk 32
  else if !s.layoutOk then s.endCk 33
  else
    let k := oldSlot s.ras.tier1
    let s := (s.ckOverwrite 1).updRas (fun x => { x with
      pieces := x.pieces.filter (fun p => decide (r.step.toNat % 2 ^ 32 ≤ p.stepLo.toNat)), tier1 := aput x.tier1 k {} })
    let (snap, vals, e, s) := s.takeSnap
    match e with
    | some _ => s.endCk 36
    | none =>
      let s := s.updTier1 k (fun _ => { step := r.step, image := s.cfg.activeDigest, mapDigest := s.mapDigest, snap := snap, state := vals })
      let n := ((aget ({} : CkSlot) s.ras.tier1 k).bytes).length
      (s.updCk (fun r => { r with slot := k, stage := 1 })).ckMoved n

/-- A tier-1 SAVE sends its segments to the group (R489). -/
def State.saveParity (s : State) (r : CkRun) : State :=
  let g := s.groupSize
  let i := s.groupIndex s.rank
  let bs := (aget ({} : CkSlot) s.ras.tier1 r.slot).bytes
  s.peers.foldl (fun s j => s.ckSend (s.moduleOf (s.groupRank j)) .circuitData 3 0 (segment bs g ((j + 2 * g - i - 1) % g)))
    (s.updCk (fun r => { r with stage := 2 }))

/-- A tier-1 SAVE ends once every incoming segment is there and its own have been answered; only then does the slot's header record its
completion, so that a SAVE cut off before leaves it incomplete (R490, R491). -/
def State.saveEnd (s : State) (r : CkRun) : State :=
  let x := aget ({} : CkSlot) s.ras.tier1 r.slot
  if r.out.isEmpty ∧ s.parityWhole x.bytes.length then
    let parity := s.groupSize != 0
    let used := s.peers.filterMap s.pieceOf
    let s := s.updTier1 r.slot (fun x => { x with complete := true, parity := parity, block := s.parityBlock })
    let s := s.updRas (fun x => { x with pieces := used.foldl List.erase x.pieces })
    (s.ckNewest 1 x.step parity).endCk 0
  else s

/-- The address of the object that a tier-3 command names (R498): the manual does not say how an object number becomes one. -/
def CkRun.object (r : CkRun) : Nat := Config.objectPlace (fld r.target 16 48) % 2 ^ 34 * 64
/-- The header with which a copy of a snapshot begins (R385, R490). -/
def CkSlot.header (x : CkSlot) : List Byte := (Config.slotHeader x.step x.complete x.image x.mapDigest ++ List.replicate 64 0#8).take 64

/-- Bytes of a flash transfer of n bytes are moved, 64 KiB at a time, until its last ones (R492, R502). -/
def State.flashStep (s : State) (r : CkRun) (n : Nat) : State := if r.moved + 65536 < n then s.ckMoved 65536 else s
/-- Bytes of a slot: own copy and parity block. -/
def CkSlot.size (x : CkSlot) : Nat := x.bytes.length + x.block.length

/-- CHECKPOINT_SAVE: a SAVE starts, or goes on (R488, R490, R492). -/
def State.saveStep (s : State) : State :=
  let s := s.ckStart
  match s.ras.run with
  | none => s
  | some r =>
    if r.op ≠ 0 ∨ s.frozenAs 0x1800 then s
    else match r.ending with
    | some st => if r.out.isEmpty then s.endCk st else s
    | none =>
      match r.tier, r.stage with
      | 1, 0 => s.saveLocal r
      | 1, 1 => s.saveParity r
      | 1, _ => s.saveEnd r
      | t, 0 =>
        if !s.layoutOk then s.endCk 33
        else (match slotOf s.ras.tier1 r.step with
        | none => s.endCk 34
        | some k =>
          if t = 2 then
            let f := oldSlot s.ras.tier2
            ((s.ckOverwrite 2).updRas (fun y => { y with tier2 := aput y.tier2 f {} })).updCk (fun r => { r with slot := f, stage := 1 })
          else
            let x := aget ({} : CkSlot) s.ras.tier1 k
            (s.updCk (fun r => { r with slot := k, stage := 1 })).ckSend (fld r.target 0 14) .write 2 r.object (x.header ++ x.bytes))
      | 3, _ => if r.out.isEmpty then (s.ckNewest 3 r.step false).endCk 0 else s
      | _, _ => (match slotOf s.ras.tier1 r.step with
        | some k => s.flashStep r (aget ({} : CkSlot) s.ras.tier1 k).size
        | none => s)
/-- CHECKPOINT_SAVE. -/
def execCheckpointSave (s : State) : Host.Outcome State Fault Refusal := done s s.saveStep

/-! ## RESTORE (R483, R493 to R497) -/

/-- Every flag and collective buffer that the image names is zeroed (R483). -/
def State.zeroBuffers (s : State) : State :=
  let s := s.cfg.active.mapLayers.foldl (fun s m =>
    let s := s.putFlag m.sumFlag 0
    m.shards.foldl (fun s k =>
      let z := List.replicate (4 * streamBytes k) 0#8
      let s := ((s.putFlag k.domFlag 0).putFlag k.totFlag 0)
      let s := ((s.wrMem k.dom z).2.wrMem k.total z).2
      (s.wrMem k.maxBuf (List.replicate (4 * k.blocks.length) 0#8)).2) s) s
  s.cfg.active.mapCtxs.foldl (fun s m => m.rounds.foldl (fun s r => s.putFlag r.2.2.2 0) s) s

/-- The other half of a SLOTTED range gets a header VERSION of 0 (R495). -/
def State.voidOther (s : State) (a : Nat) : State :=
  match s.ckptAreas.find? (fun r => r.2.2 == 3 && decide (r.1 ≤ a) && decide (a < r.1 + r.2.1)) with
  | none => s
  | some r => (s.wrMem (if a = r.1 then r.1 + r.2.1 / 2 else r.1) (leBytes 8 0)).2

/-- A snapshot is written back; the first error ends the RESTORE with CKPT_IO_ERROR (R495, R497). -/
def State.writeSnap (s : State) (snap : List (Nat × List Byte)) (vals : List W64) : State :=
  let (e, s) := snap.foldl (fun (a : Option DropCause × State) p =>
    let (e2, s) := a.2.wrMem p.1 p.2
    ((match a.1 with | some c => some c | none => e2), s.voidOther p.1)) (none, s)
  if e.isSome then s.endCk 36
  else
    let done := match s.ras.run with | some r => if r.tier = 2 then r.moved else 0 | none => 0
    let n := (snap.map (fun p => p.2.length)).foldl (· + ·) 4096 - done
    (((s.restoreVals vals).zeroBuffers).ckMoved n).endCk 0

/-- A snapshot's bytes cut into the places of the active image's ranges: the state block's values say which halves were current. -/
def State.cutSnap (s : State) (bs : List Byte) (step : W64) : List (Nat × List Byte) × List W64 :=
  let len := fun (r : Nat × Nat × Nat) => if r.2.2 = 1 then r.2.1 else r.2.1 / 2
  let z := (s.ckptAreas.map len).foldl (· + ·) 0
  let vals := Config.stateBlockOf ((bs.drop z).take 4096)
  let halves := slottedHalves (nth 0 vals 4).toNat (vals.drop 5)
  let cut := (snapParts step halves s.ckptAreas).foldl (fun (a : List (Nat × List Byte) × Nat) r =>
    (a.1 ++ [(r.1, (bs.drop a.2).take r.2)], a.2 + r.2)) ([], 0)
  (cut.1, vals)

/-- Bytes Z of this module's snapshot. -/
def State.snapLen (s : State) : Nat :=
  (s.ckptAreas.map (fun r => if r.2.2 = 1 then r.2.1 else r.2.1 / 2)).foldl (· + ·) 4096

/-- The slots of a tier. -/
def State.tierSlots (s : State) (t : Nat) : Assoc CkSlot := if t = 1 then s.ras.tier1 else s.ras.tier2

/-- The own complete slot is restored, unless its header refuses or its transfer meets an error (R495, R497). -/
def State.restoreOwn (s : State) (x : CkSlot) (bad : Bool) : State :=
  if x.image ≠ s.cfg.activeDigest then s.endCk 38
  else if x.mapDigest ≠ s.mapDigest then s.endCk 25
  else if bad then s.endCk 36
  else s.writeSnap x.snap x.state

/-- The space-0 offset of the header of slot k of a tier: the manual gives the slots no address (log 60). -/
def slotAddr (tier k : Nat) : Nat := Config.slotPlace tier k % (Config.stackBytes / 64) * 64

/-- The slot header that lies at an offset, as this module's engine answers a peer's READ of it (R496). -/
def State.headerAt (s : State) (o : Nat) : Option (List Byte) :=
  ([(1, 0), (1, 1), (2, 0), (2, 1)].find? (fun p => slotAddr p.1 p.2 == o)).map (fun p =>
    (aget ({} : CkSlot) (s.tierSlots p.1) p.2).header)

/-- A RESTORE reads both slot headers of each of its peers (R496); request 2j + k + 1 is of slot k of member j. -/
def State.restoreAsk (s : State) (r : CkRun) : State :=
  s.peers.foldl (fun s j => [0, 1].foldl (fun s k =>
    let n := 2 * j + k + 1
    let pkt := s.mkFab .read 1 (mkGa 0 (s.moduleOf (s.groupRank j)) (slotAddr r.tier k)) []
    (s.updCk (fun r => { r with out := r.out ++ [(n, 0)] })).toEdge { pkt with srcEngine := true, srcTile := 0x1800 }
      (.engine (0x1800 + 2 ^ 16 * n))) s) (s.updCk (fun x => { x with stage := 1, got := r.got.filter (fun g => g.1 != 0) }))

/-- The header of a complete slot of the step that a peer has, if it has one: image identity and MAP_DIGEST. -/
def CkRun.peerSlot (r : CkRun) (j : Nat) : Option (W256 × W256) :=
  (r.got.filterMap (fun g => if g.1 == 0 && (g.2.1 - 1) / 2 == j then some (Config.slotHeaderOf g.2.2) else none)).findSome? (fun h =>
    if h.2.1 && h.1 == r.step then some h.2.2 else none)

/-- The peers without a complete slot of the step, as their headers say. -/
def State.lacking (s : State) (r : CkRun) : List Nat := s.peers.filter (fun j => (r.peerSlot j).isNone)

/-- How the peers' slot headers refuse a rebuild: of another image, or of another mapping (R495). -/
def State.headersRefuse (s : State) (r : CkRun) : Option Nat :=
  let hs := s.peers.filterMap r.peerSlot
  if hs.any (fun h => h.1 != s.cfg.activeDigest) then some 38
  else if hs.any (fun h => h.2 != s.mapDigest) then some 25
  else none

/-- A member sends what the rebuilding member k needs: its parity block and its own segments (R496). Each piece is laid at the number
of the segment of k that it rebuilds. -/
def State.sendRebuild (s : State) (x : CkSlot) (k : Nat) : State :=
  let g := s.groupSize
  let i := s.groupIndex s.rank
  let bs := x.bytes
  let u := segBytes bs.length g
  let dest := s.moduleOf (s.groupRank k)
  let s := s.ckSend dest .circuitData 3 ((i + 2 * g - k - 1) % g * u) x.block
  (List.range g).foldl (fun s j =>
    if j = i ∨ j = k then s
    else s.ckSend dest .circuitData 3 ((j + 2 * g - k - 1) % g * u) (segment bs g ((j + 2 * g - i - 1) % g))) s

/-- The next tier of a RESTORE that no member of the group can serve at the present one; after the last one no tier holds the snapshot
(R495). -/
def State.restoreNext (s : State) (r : CkRun) : State :=
  if r.tier + 1 ≤ r.top then s.updCk (fun x => { x with tier := r.tier + 1, stage := 0, got := [] }) else s.endCk 34

/-- The peers have answered (R493 to R496). With no member of the group without its slot the own one serves; with one, that member's
snapshot is rebuilt; with two or more, where some member has its slot, every member's RESTORE fails; where none has, the tier does not
serve (DEDUCED, log 118). -/
def State.restoreChoose (s : State) (r : CkRun) : State :=
  let lack := s.lacking r
  let own := slotOf (s.tierSlots r.tier) r.step
  let n := lack.length + (if own.isNone then 1 else 0)
  if n = s.peers.length + 1 then s.restoreNext r
  else if 2 ≤ n then s.endCk 35
  else match own, lack with
  | some k, [] => s.updCk (fun y => { y with slot := k, stage := 3 })
  | some k, j :: _ => (s.updCk (fun y => { y with slot := k, stage := 3 })).sendRebuild (aget ({} : CkSlot) (s.tierSlots r.tier) k) j
  | none, _ => match s.headersRefuse r with
    | some st => s.endCk st
    | none => s.updCk (fun y => { y with rebuilt := true, stage := 2 })

/-- A rebuild ends once every piece has arrived: each segment is the XOR of its arrivals (R496). -/
def State.restoreRebuilt (s : State) (r : CkRun) : State :=
  let g := s.groupSize
  let u := segBytes s.snapLen g
  let parts := r.got.filter (fun p => p.1 == 1)
  if (g - 1) * (g - 1) * packetsOf u ≤ parts.length then
    let bs := parts.foldl (fun l p => xorAt l p.2.1 p.2.2) (List.replicate (u * (g - 1)) 0#8)
    let (snap, vals) := s.cutSnap bs r.step
    s.writeSnap snap vals
  else s

/-- CHECKPOINT_RESTORE: a RESTORE starts, or goes on (R495 to R497). Stage 0 asks the peers, 1 chooses, 2 waits for a rebuild, 3 writes
the own slot; a flash slot is written back by CHECKPOINT_FLASH_TRANSFER_DONE. The tier-1 slots stand apart from the stack lines (log 60), so
whether reading one meets an error of their ECC is a free value (R497, log 118). -/
def State.restoreStep (s : State) : State :=
  let s := s.ckStart
  match s.ras.run with
  | none => s
  | some r =>
    if r.op ≠ 1 ∨ s.frozenAs 0x1800 then s
    else match r.ending with
    | some st => if r.out.isEmpty then s.endCk st else s
    | none =>
      match r.tier, r.stage with
      | 3, 0 =>
        if r.step ≠ s.slice.step then s.endCk 32
        else
          (List.range (1 + (s.snapLen + 63) / 64)).foldl (fun s n =>
            let pkt := s.mkFab .read 2 (mkGa 0 (fld r.target 0 14) (r.object + 64 * n)) []
            (s.updCk (fun r => { r with out := r.out ++ [(n, 64)] })).toEdge { pkt with srcEngine := true, srcTile := 0x1800 }
              (.engine (0x1800 + 2 ^ 16 * n))) (s.updCk (fun x => { x with stage := 1 }))
      | 3, _ =>
        if r.out.isEmpty then
          let bs := (List.range (1 + (s.snapLen + 63) / 64)).flatMap (fun n =>
            match r.got.find? (fun g => g.1 == 2 && g.2.1 == n) with | some g => g.2.2 | none => [])
          let h := Config.slotHeaderOf (bs.take 64)
          if h.2.2.1 ≠ s.cfg.activeDigest then s.endCk 38
          else if h.2.2.2 ≠ s.mapDigest then s.endCk 25
          else
            let (snap, vals) := s.cutSnap (bs.drop 64) r.step
            s.writeSnap snap vals
        else s
      | _, 0 => if r.step ≠ s.slice.step then s.endCk 32 else s.restoreAsk r
      | _, 1 => if r.out.isEmpty then s.restoreChoose r else s
      | _, 2 => s.restoreRebuilt r
      | 2, _ => s.flashStep r (aget ({} : CkSlot) s.ras.tier2 r.slot).size
      | 1, _ =>
        if r.out.isEmpty then
          let (v, s) := s.free
          s.restoreOwn (aget {} s.ras.tier1 r.slot) (bitOf v 0)
        else s
      | _, _ => s
/-- CHECKPOINT_RESTORE. -/
def execCheckpointRestore (s : State) : Host.Outcome State Fault Refusal := done s s.restoreStep

/-- CHECKPOINT_FLASH_TRANSFER_DONE: a tier-2 transfer ends, or fails beyond the flash's code (R476, R492, R497). It waits for a
flash copy that started before it (R561). -/
def execCheckpointFlashTransferDone (ok : Bool) (s : State) : Host.Outcome State Fault Refusal :=
  match s.ras.run with
  | none => done s s
  | some r =>
    if r.tier ≠ 2 ∨ s.frozenAs 0x1800 ∨ (fld s.power.flashCtrl 6 2 = 1 ∧ s.power.flashAfter ≠ some (r.q, r.index)) then done s s
    else match r.ending with
    | some st => if r.out.isEmpty then done s (s.endCk st) else done s s
    | none =>
      if r.op = 0 ∧ r.stage = 1 then
        if !ok then done s (s.endCk 36)
        else match slotOf s.ras.tier1 r.step with
          | none => done s (s.endCk 36)
          | some k =>
            let x := aget ({} : CkSlot) s.ras.tier1 k
            let s1 := s.updRas (fun y => { y with tier2 := aput y.tier2 r.slot x })
            done s (((s1.ckMoved (x.size - r.moved)).ckNewest 2 x.step x.parity).endCk 0)
      else if r.op = 1 ∧ r.stage = 3 ∧ r.out.isEmpty then
        done s (s.restoreOwn (aget {} s.ras.tier2 r.slot) !ok)
      else done s s

/-- RAS_CKPT_STATUS (R501): SLOT is the tier-1 slot, which a SAVE to another tier reads. -/
def State.ckptStatus (s : State) : W64 :=
  match s.ras.run with
  | none => 0
  | some r =>
    let k := if r.tier = 1 then r.slot else if r.op = 0 then (slotOf s.ras.tier1 r.step).getD 0 else 0
    BitVec.ofNat 64 (r.op + 1 + r.tier % 4 * 2 ^ 2 + k % 2 * 2 ^ 4 + kib r.moved % 2 ^ 32 * 2 ^ 32)

end Sys2Proof.Machine
end

