-- ==== Sys2Proof/Machine/Answers.lean ====
section
/-! DEFINITION. Answers of the fabric at the module's edge (R341, R348, R359) and the circuit data that engines receive (R355, R403,
R489, R496). -/

namespace Sys2Proof.Machine

/-- The cause of a code (R349). -/
def causeOf : Nat → DropCause
  | 0 => .noRoute | 1 => .outOfSlice | 2 => .hopLimit | 3 => .space | 4 => .range | 5 => .badHeader | 6 => .linkDown | 7 => .timeout
  | _ => .memUncorrectable

/-- The engine and the request number of an engine's requester. -/
def engineOf (e : Nat) : Nat × Nat := (e % 2 ^ 16, e / 2 ^ 16)

/-- A request of collective channel c has been answered (R387); a collective that is to end does so with its last answer (R480). -/
def State.collAnswered (s : State) (c : Nat) : State :=
  let s := s.updRun c (fun r => { r with left := r.left - 1, progress := s.beat })
  match s.collRun c with
  | some r => (match r.ending with | some st => if r.left = 0 then s.endColl c st else s | none => s)
  | none => s

/-- The request of copy engine e for the line at an offset has been answered with a line, with an ACK or with an error (R460). -/
def State.copyAnswered (s : State) (e o : Nat) (op : FabOp) (data : Line) (err : Option DropCause) : State :=
  let stopped := match afind s.host.copies e with | some r => decide (r.limit ≤ o) | none => true
  let s := match err with
    | some c => s.copyErr e o c
    | none =>
      if op = FabOp.readReply then
        if stopped then s.updCopy e (fun r => { r with lines := r.lines.filter (fun (l : Nat × CopySt) => l.1 != o) })
        else (s.updCopy e (fun r => { r with lines := r.lines.map (fun (l : Nat × CopySt) => if l.1 = o then (o, CopySt.held data) else l) })).copyGo e
      else s.copyDone e o
  s.copyOver e

/-- Request n of the checkpoint engine has been answered (R490, R492, R496, R497): an error of a header read shows a peer without a
slot; another one ends the command, a refusal for size by the gateway with CKPT_NO_SPACE. -/
def State.ckAnswered (s : State) (n : Nat) (data : List Byte) (err : Option DropCause) : State :=
  match s.ras.run with
  | none => s
  | some r =>
    let header := r.op == 1 && r.tier != 3 && r.stage == 1
    let bad := err.isSome && !header
    let moved := match r.out.find? (fun x => x.1 == n) with | some x => if err.isNone then x.2 else 0 | none => 0
    let r := { r.move moved s.beat with
      out := eraseFirst (fun x => x.1 == n) r.out
      got := if err.isNone && r.op == 1 && r.stage == 1 then r.got ++ [((if r.tier = 3 then 2 else 0), n, data)] else r.got
      ending := match r.ending with
        | some st => some st
        | none => if bad then some (if r.op = 0 ∧ r.tier = 3 ∧ err = some .range then 37 else 36) else none }
    let s := s.updRas (fun x => { x with run := some r })
    match r.ending with | some st => if r.out.isEmpty then s.endCk st else s | none => s

/-- The SET_FLAG of another module's flag has been answered (R459). -/
def State.setAnswered (s : State) (n : Nat) (old : W64) (err : Option DropCause) : State :=
  let q := n % 8192
  let i := n / 8192
  match s.cmd q i with
  | none => s
  | some c =>
    if !c.sent then s
    else match err with
    | none => s.complete q i 0 (BitVec.ofNat 128 old.toNat)
    | some x => s.complete q i 9 (BitVec.ofNat 128 (dropCode x * 2 ^ 64))

/-- The answer of a transaction goes to its requester (R82, R341, R348); an engine that is frozen as hung accepts none (R506). -/
def State.toRequester (s : State) (src : ReqSrc) (op : FabOp) (payload : List Flit) (err : Option DropCause) : State :=
  let bytes := payloadBytes payload
  let line := bytesLine (bytes.take 64)
  match src with
  | .tile t tag => s.answer t tag (if op = .readReply then toFlits (lineBytes line) else []) err
  | .engine e =>
    let (u, n) := engineOf e
    if s.frozenAs u then s
    else if 0x800 ≤ u ∧ u < 0x810 then s.copyAnswered (u - 0x800) (64 * n) op line err
    else if 0x1000 ≤ u ∧ u < 0x1040 then s.collAnswered (u - 0x1000)
    else if u = 0x1800 then s.ckAnswered n bytes err
    else if u = 0x1C00 then s.setAnswered n (BitVec.ofNat 64 (ofLe (bytes.take 8))) err
    else s
  | .tilePosted t w => (match err with | some c => s.laneFault t w 0 (dropLane c) | none => s)
  | _ => s

/-- An answer arrives at the edge: its transaction retires and its tag is free; the late answer of one that has timed out is discarded
(R341, R348, R359). -/
def State.retire (s : State) (p : FabPkt) (err : Option DropCause) : State :=
  let s := s.consume p
  match s.fab.txns.find? (fun t => t.tag == p.tag) with
  | none => s
  | some t =>
    let s := { s with fab := { s.fab with txns := s.fab.txns.erase t } }
    let s := if p.echo then s.onEcho t.pkt.dest else s
    if t.held then s else s.toRequester t.src p.op p.payload err

/-- READ_REPLY (R341). -/
def execReadReply (p : FabPkt) (s : State) : Host.Outcome State Fault Refusal :=
  if p.op = .readReply then done s (s.retire p none) else done s s
/-- ACK (R341). -/
def execAck (p : FabPkt) (s : State) : Host.Outcome State Fault Refusal := if p.op = .ack then done s (s.retire p none) else done s s
/-- ERROR_REPLY (R341, R349). -/
def execErrorReply (p : FabPkt) (s : State) : Host.Outcome State Fault Refusal :=
  if p.op = .errorReply then done s (s.retire p (some (causeOf p.aop))) else done s s

/-- TXN_TIMEOUT in beats; 0 acts as 1 (R366). -/
def State.txnTimeout (s : State) : Nat := max 1 (fld s.fab.txnCfg 0 16)

/-- TXN_TIMEOUT: an unanswered transaction is answered at the edge with TIMEOUT, its drop recorded and counted in TIMEOUTS and its fault
raised; its tag is held (R348, R367). -/
def execTxnTimeout (tag : Nat) (s : State) : Host.Outcome State Fault Refusal :=
  match s.fab.txns.find? (fun t => t.tag == tag && !t.held) with
  | none => done s s
  | some t =>
    if s.beat.toNat < t.beat.toNat + s.txnTimeout then done s s
    else
      let s1 := { s with fab := { s.fab with
        txns := s.fab.txns.map (fun x => if x = t then { x with held := true } else x), stats0 := addFld s.fab.stats0 16 16 1 } }
      let s2 := (s1.recordDrop 63 t.pkt .timeout).fault .fabricTimeout .port (if t.left ≠ 0 then 63 else outPort (s.route t.pkt.dest) t.pkt) t.pkt.addr
      done s (s2.toRequester t.src .errorReply [] (some .timeout))

/-- A packet of a group peer's checkpoint engine arrives: rebuild data for a RESTORE, else part of a segment (R489, R496). A segment's first
packet begins it, and the others of that member follow it; it waits, apart from the slots, for the SAVE of its step. -/
def State.ckArrive (s : State) (p : FabPkt) : State :=
  match s.rankOf p.src with
  | none => s
  | some k =>
    let o := gaOff p.addr
    let bs := payloadBytes p.payload
    let restoring := match s.ras.run with | some r => r.op == 1 | none => false
    if restoring then (s.updCk (fun r => { r with got := r.got ++ [(1, o, bs)] })).ckMoved bs.length
    else if s.sliceSt ≠ 2 then s
    else
      let j := s.groupIndex k
      let ps := s.ras.pieces
      let ps := if o = 0 then ps ++ [{ index := j, stepLo := p.stepLo, bytes := bs }]
        else match (ps.zipIdx.filter (fun x => x.1.index == j)).getLast? with
          | none => ps
          | some x => ps.set x.2 { x.1 with bytes := x.1.bytes ++ bs }
      let s := s.updRas (fun r => { r with pieces := ps })
      match s.ras.run, s.pieceOf j with
      | some r, some x =>
        let z := (aget ({} : CkSlot) s.ras.tier1 r.slot).bytes.length
        if r.op = 0 ∧ r.tier = 1 ∧ r.stage ≠ 0 ∧ x.bytes.length = segBytes z s.groupSize then
          s.updCk (fun r => { r with progress := s.beat })
        else s
      | _, _ => s

/-- CIRCUIT_DATA (R341, R355): written as a WRITE; a shard's header is checked beside it, and a checkpoint engine's data goes to this
module's checkpoint engine. -/
def execCircuitData (p : FabPkt) (s : State) : Host.Outcome State Fault Refusal :=
  if p.op ≠ .circuitData then done s s
  else if p.srcEngine ∧ p.srcTile = 0x1800 then
    if s.frozenAs 0x1800 then done s s else done s (((s.consume p).ckArrive p).replyFab p [] none)
  else if p.srcEngine ∧ 0x1000 ≤ p.srcTile ∧ p.srcTile < 0x1040 then done s ((s.accept p).gatherArrive (p.srcTile - 0x1000) p)
  else done s (s.accept p)

/-- READ (R341). The header of a checkpoint slot that a group peer's engine reads is answered by this module's checkpoint engine (R496). -/
def execRead (p : FabPkt) (s : State) : Host.Outcome State Fault Refusal :=
  if p.op ≠ .read then done s s
  else
    let header := if p.srcEngine ∧ p.srcTile = 0x1800 ∧ gaSpace p.addr = 0 then s.headerAt (gaOff p.addr) else none
    match header with
    | some bs => if s.frozenAs 0x1800 then done s s else done s ((s.consume p).replyFab p (toFlits bs) none)
    | none => done s (s.accept p)

end Sys2Proof.Machine
end

