-- ==== Sys2Proof/Machine/Image.lean ====
section
/-! DEFINITION. Configuration images (chapter 13) up to the staging, and the CW_LD registers (R112, R115 to R117): the layout of an
image, the checks of R421, the loader's states, load packets, and what a discard leaves. Sections whose byte layout the manual does
not give are decoded by Config (log 40). -/

namespace Sys2Proof.Machine

/-! ## Status and shadow banks -/

/-- A change to the image registers and the loader. -/
def State.updCfg (s : State) (f : Cfg → Cfg) : State := { s with cfg := f s.cfg }
/-- CFG_LOAD_STATUS.STATE: 0 IDLE, 1 FETCH, 2 VERIFY, 3 VALIDATE, 4 DISTRIBUTE, 5 STAGED (R439). -/
def State.loadSt (s : State) : Nat := fld s.cfg.loadStatus 0 3
/-- STATE and RESULT take values; BEAT_LO follows a change (R439). -/
def State.loadSet (s : State) (st result : Nat) : State :=
  let v := s.cfg.loadStatus
  if fld v 0 3 = st ∧ fld v 3 5 = result then s
  else s.updCfg (fun c => { c with loadStatus := setFld (setFld (setFld v 0 3 st) 3 5 result) 32 32 s.beat.toNat })
/-- RESULT takes a value. -/
def State.loadResult (s : State) (result : Nat) : State := s.loadSet s.loadSt result
/-- STATE takes a value. -/
def State.loadState (s : State) (st : Nat) : State := s.loadSet st (fld s.cfg.loadStatus 3 5)
/-- A load ends with a RESULT and the directory index of the failing section (R421). -/
def State.loadFail (s : State) (result sec : Nat) : State :=
  let s := s.loadSet 0 result
  s.updCfg (fun c => { c with loadStatus := setFld c.loadStatus 8 12 sec })
/-- A COMMIT is armed against the staging (COMMIT_ARMED). -/
def State.commitArmed (s : State) : Bool := !s.cfg.armed.isEmpty || s.cfg.commit.isSome

/-- Physical bank b of a tile. -/
def Tile.bankOf (x : Tile) (b : Nat) : CsBank := if b = 0 then x.cs0 else x.cs1
/-- The tile with physical bank b replaced. -/
def Tile.setBank (x : Tile) (b : Nat) (c : CsBank) : Tile := if b = 0 then { x with cs0 := c } else { x with cs1 := c }
/-- The shadow bank of a tile (R112). -/
def Tile.shadow (x : Tile) : Nat := 1 - x.bank

/-- Whether the shadow bank of a tile holds undefined contents (R424). -/
def State.shadowUndef (s : State) (t : Nat) : Bool := s.cfg.undefined.1 != s.cfg.undefined.2.contains t
/-- The tile's shadow bank is defined from now on. -/
def State.shadowDefined (s : State) (t : Nat) : State :=
  if s.shadowUndef t then
    s.updCfg (fun c => { c with undefined := (c.undefined.1, if c.undefined.1 then t :: c.undefined.2 else c.undefined.2.erase t) })
  else s
/-- The tile's shadow bank becomes undefined. -/
def State.shadowLost (s : State) (t : Nat) : State :=
  if s.shadowUndef t then s
  else s.updCfg (fun c => { c with undefined := (c.undefined.1, if c.undefined.1 then c.undefined.2.erase t else t :: c.undefined.2) })

/-- Before an undefined shadow bank is read or written word by word, each of its words and entries takes a free value (log 5). -/
def State.materialise (s : State) (t : Nat) : State :=
  if !s.shadowUndef t then s
  else
    let s := s.shadowDefined t
    let n := s.freeCtr
    let v := fun i => Config.freeValue (n + i)
    let words := tab 256 (fun i => v (4 * i + 3) ++ v (4 * i + 2) ++ v (4 * i + 1) ++ v (4 * i))
    let entries := (List.range 16).foldl (fun (m : Assoc W16) i => aset 0 m i (BitVec.ofNat 16 (v (1024 + i)).toNat)) []
    let s := s.updTile t (fun x => x.setBank x.shadow (({ entries := entries } : CsBank).writes words.zipIdx))
    { s with freeCtr := n + 1040 }

/-! ## Discard (R424, R425) -/

/-- The fields of word w of a circuit entry (R355). -/
def cirMask (w : Nat) : W64 := if w = 0 then maskOf 0 14 ||| maskOf 32 32 else if w = 3 then 0 else BitVec.allOnes 64

/-- The staging places that a load has begun to write hold undefined contents. -/
def State.loseStaging (s : State) (g : Staged) : State :=
  let s := if g.patch then g.targets.foldl State.shadowLost s else s.updCfg (fun c => { c with undefined := (true, []) })
  let s := g.items.routing.foldl (fun s r =>
    let (v, s) := s.free
    { s with fab := { s.fab with rts := aset 0 s.fab.rts (r.1 % Config.moduleIds) (v &&& maskOf 0 43) } }) s
  let s := g.items.circuits.foldl (fun s r =>
    let (v, s) := s.free
    { s with fab := { s.fab with cirs := aset 0 s.fab.cirs r.1 (v &&& cirMask (r.1 % 4)) } }) s
  g.items.stackData.foldl (fun s r =>
    let (bs, s) := s.freeBytes r.2.length
    (s.wrMem r.1 bs).2) s

/-- A staging, or a load in DISTRIBUTE, ends with a RESULT and nothing to commit. -/
def State.dropStaging (s : State) (result : Nat) : State :=
  let s := match s.cfg.staging with | some g => s.loseStaging g | none => s
  let s := s.updCfg (fun c => { c with staging := none, stagedDigest := 0 })
  { s.loadSet 0 result with mesh := s.mesh.filter (fun p => p.op != 6) }

/-- Whether the beat of the commit that stands has begun: its tiles have swapped, and it ends at this boundary (R113, R429). -/
def State.commitPast (s : State) : Bool :=
  match s.cfg.commit with
  | some a => decide (a.beat.toNat ≤ s.beat.toNat)
  | none => false

/-- A write to a shadow place from outside the loader discards the staging once DISTRIBUTE has begun (R424), but for one that a commit is
applying. -/
def State.shadowWritten (s : State) : State := if 4 ≤ s.loadSt ∧ !s.commitPast then s.dropStaging 15 else s

/-- LOAD_BUSY holds off GO and DISCARD (R425). -/
def State.loadBusy (s : State) : Bool := (decide (1 ≤ s.loadSt) && decide (s.loadSt ≤ 4)) || s.commitArmed

/-- GO acts (R420, R425). -/
def State.loadGo (s : State) : State :=
  if s.loadBusy then s.loadResult 16
  else
    let s := if s.loadSt = 5 then s.dropStaging 15 else s
    s.loadState (if bitOf s.cfg.loadSrc 0 then 1 else 2)
/-- GO. -/
def execGo (s : State) : Host.Outcome State Fault Refusal := done s s.loadGo

/-- DISCARD acts (R424, R425). -/
def State.loadDiscard (s : State) : State :=
  if s.loadBusy then s.loadResult 16 else if s.loadSt = 5 then s.dropStaging 15 else s
/-- DISCARD. -/
def execDiscard (s : State) : Host.Outcome State Fault Refusal := done s s.loadDiscard

/-- POLICY is set (R419); only a COLD reset clears it. -/
def State.setPolicy (s : State) : State := s.updCfg (fun c => { c with secure := setBit c.secure 0 true })
/-- POLICY. -/
def execPolicy (s : State) : Host.Outcome State Fault Refusal := done s s.setPolicy

/-! ## CW_LD (R112, R115 to R117) -/

/-- A COMMIT is armed that targets the tile, and the tile has not swapped for it (R112, R428): a commit whose beat has begun has. -/
def State.shadowCommitted (s : State) (t : Nat) : Bool :=
  s.commitArmed && !s.commitPast && (match s.cfg.staging with | some g => !g.patch || g.targets.contains t | none => false)

/-- RESULT of CW_LD_STATUS with BEAT_LO (R116). -/
def State.cwResult (s : State) (r : Nat) : State :=
  { s with cwld := { s.cwld with status := setFld (setFld s.cwld.status 0 3 r) 32 32 s.beat.toNat } }

/-- The write of a control word or an entry into a bank. -/
def CsBank.put (c : CsBank) (i : Nat) (d0 d1 d2 d3 : W64) : CsBank :=
  if i < 256 then c.write i (d3 ++ d2 ++ d1 ++ d0)
  else { c with entries := aset 0 c.entries (i - 256) (BitVec.ofNat 16 d0.toNat) }

/-- The target's word or entry in the DATA registers (R116). For an entry, of 16 bits, the other DATA bits are 0 (DESIGN CHOICE, log 110). -/
def State.cwLoad (s : State) (c : CsBank) (i : Nat) : State :=
  let w : Nat := if i < 256 then (aget 0 c.words i).toNat else (aget 0 c.entries (i - 256)).toNat
  let d := fun k => BitVec.ofNat 64 (nfld w (64 * k) 64)
  { s with cwld := { s.cwld with data0 := d 0, data1 := d 1, data2 := d 2, data3 := d 3 } }

/-- A CW_LD access acts on the latched TARGET and DATA: a write, forced or not, then a read (R115 to R117). Where GO and READ are set
together the write comes first, and the read is made even where the write is refused (DESIGN CHOICE, log 110). -/
def State.cwLdAct (s : State) (target : W64) (data : List W64) (write forced read : Bool) : State :=
  let t := fld target 0 20
  let b := fld target 20 1
  let i := fld target 21 9
  if 271 < i then s.cwResult 5
  else
    let s := if b = (s.tile t).shadow then s.materialise t else s
    let x := s.tile t
    let stopped := x.st == .halted || x.st == .fault
    let (s, ok) : State × Nat :=
      if !write then (s, 2)
      else if b = x.bank ∧ !(forced && stopped) then (s, 3)
      else if b ≠ x.bank ∧ s.shadowCommitted t then (s, 4)
      else
        let s1 := if b = x.bank then s else (s.shadowWritten).materialise t
        (s1.updTile t (fun y => y.setBank b ((y.bankOf b).put i (nth 0 data 0) (nth 0 data 1) (nth 0 data 2) (nth 0 data 3))), 2)
    let s := if read then s.cwLoad ((s.tile t).bankOf b) i else s
    s.cwResult ok

/-! ## The layout of an image (R411 to R415, R570) -/

/-- `n` bytes of a string from offset `o`. -/
def sub (bs : List Byte) (o n : Nat) : List Byte := (bs.drop o).take n
/-- The little-endian field of `n` bytes at offset `o`. -/
def leAt (bs : List Byte) (o n : Nat) : Nat := ofLe (sub bs o n)
/-- Whether `n` bytes from offset `o` are 0. -/
def zeroAt (bs : List Byte) (o n : Nat) : Bool := (sub bs o n).all (· == 0#8)

/-- The header is in order: MAGIC, FORMAT, KIND, IMAGE_BYTES, SECTIONS and reserved fields (R411). -/
def headOk (h : List Byte) : Bool :=
  let n := leAt h 16 8
  leAt h 0 4 == 0x4D494550 && leAt h 4 2 == 1 && decide (leAt h 6 1 ≤ 1) && decide (leAt h 7 1 ≤ 1)
    && decide (1 ≤ leAt h 10 2) && decide (leAt h 10 2 ≤ 4096)
    && n % 64 == 0 && decide (n ≤ 2 ^ 31) && decide (256 + 32 * leAt h 10 2 + 128 ≤ n)
    && zeroAt h 12 4 && zeroAt h 82 2 && zeroAt h 96 160 && (leAt h 6 1 == 1 || zeroAt h 24 32)

/-- The trailer's reserved bytes are 0, and all of it where the image is unsigned (R416). -/
def trailerOk (bs : List Byte) (size : Nat) : Bool :=
  if leAt bs 7 1 = 1 then zeroAt bs (size - 32) 32 else zeroAt bs (size - 128) 128

/-- The directory: TYPE, OFFSET and LENGTH of each entry (R412). -/
def imgDir (bs : List Byte) : List (Nat × Nat × Nat) :=
  tab (leAt bs 10 2) (fun i => (leAt bs (256 + 32 * i) 2, leAt bs (264 + 32 * i) 8, leAt bs (272 + 32 * i) 8))

/-- The index of the first directory entry that breaks R412. -/
def badEntry (bs : List Byte) (size : Nat) : Option Nat :=
  let d := imgDir bs
  (List.range d.length).find? (fun i =>
    let (t, o, n) := nth (0, 0, 0) d i
    let prev := if i = 0 then 256 + 32 * d.length else (let (_, o', n') := nth (0, 0, 0) d (i - 1); o' + n')
    let same := i != 0 && decide (o ≤ (nth (0, 0, 0) d (i - 1)).2.1)
    decide (t < 1) || decide (16 < t) || o % 64 != 0 || decide (o < prev) || same || decide (size - 128 < o + n)
      || !zeroAt bs (258 + 32 * i) 6 || !zeroAt bs (280 + 32 * i) 8 || ((d.take i).any (fun e => e.1 == t)))

/-- The bytes of a section, if the image has one of the type. -/
def secOf (bs : List Byte) (t : Nat) : Option (List Byte) := ((imgDir bs).find? (fun e => e.1 == t)).map (fun e => sub bs e.2.1 e.2.2)
/-- The directory index of a section type. -/
def secIdx (bs : List Byte) (t : Nat) : Nat := ((imgDir bs).map (·.1)).idxOf t
/-- The bytes of a section, empty where the image has none. -/
def secBytes (bs : List Byte) (t : Nat) : List Byte := (secOf bs t).getD []
/-- What `f` reads in the section of a type, `d` where the image has none. -/
def inSec {α : Type} (bs : List Byte) (t : Nat) (d : α) (f : List Byte → α) : α :=
  match secOf bs t with
  | some b => f b
  | none => d

/-- Whether a section is whole records of `n` bytes, each of which is in order. -/
def recordsOk (n : Nat) (ok : List Byte → Bool) (bs : List Byte) : Bool :=
  bs.length % n == 0 && (chunks n (bs.length / n) bs).all ok
/-- The records of a section. -/
def recordsOf {α : Type} (n : Nat) (f : List Byte → α) (bs : List Byte) : List α := (chunks n (bs.length / n) bs).map f

/-- The program records of a TILE_PROGRAMS section (R414); none where it breaks the layout. -/
def programsOf : Nat → List Byte → Option (List Program)
  | _, [] => some []
  | 0, _ :: _ => none
  | fuel + 1, bs =>
    let n := leAt bs 2 2
    if bs.length < 64 + 32 * n ∨ n < 1 ∨ 256 < n ∨ !zeroAt bs 39 1 ∨ !zeroAt bs 44 20 then none
    else
      let p : Program := { num := leAt bs 0 2
                           entries := tab 16 (fun i => BitVec.ofNat 16 (leAt bs (4 + 2 * i) 2))
                           sr := { tensor := leAt bs 36 2, purpose := leAt bs 38 1, elemBase := BitVec.ofNat 32 (leAt bs 40 4) }
                           words := tab n (fun i => BitVec.ofNat 256 (leAt bs (64 + 32 * i) 32)) }
      (programsOf fuel (bs.drop (64 + 32 * n))).map (fun r => p :: r)

/-- A pattern's record (R415). -/
def patternOf (b : List Byte) : Pattern :=
  { x0 := leAt b 0 2, x1 := leAt b 2 2, y0 := leAt b 4 2, y1 := leAt b 6 2, xs := leAt b 8 2, ys := leAt b 10 2, prog := leAt b 12 2 }
/-- A pattern covers tile (x, y) (R415). -/
def Pattern.covers (p : Pattern) (x y : Nat) : Bool :=
  decide (p.x0 ≤ x) && decide (x ≤ p.x1) && (x - p.x0) % p.xs == 0 && decide (p.y0 ≤ y) && decide (y ≤ p.y1) && (y - p.y0) % p.ys == 0
/-- The tiles that a pattern covers. -/
def Pattern.tiles (p : Pattern) : List Nat :=
  if p.xs = 0 ∨ p.ys = 0 then []
  else (List.range ((p.y1 - p.y0) / p.ys + 1)).flatMap (fun j =>
    (List.range ((p.x1 - p.x0) / p.xs + 1)).map (fun i => (p.y0 + j * p.ys) * Config.cols + (p.x0 + i * p.xs)))
/-- The last column and row that a pattern reaches. -/
def Pattern.reach (p : Pattern) : Nat × Nat := (p.x0 + (p.x1 - p.x0) / p.xs * p.xs, p.y0 + (p.y1 - p.y0) / p.ys * p.ys)

/-- The record of a pattern is in order, its PROGRAM aside (R415). -/
def patternOk (b : List Byte) : Bool :=
  let p := patternOf b
  zeroAt b 14 2 && p.xs != 0 && p.ys != 0 && decide (p.x0 ≤ p.x1) && decide (p.y0 ≤ p.y1)

/-- The program that a tile receives: that of the last pattern that covers it (R415). -/
def programAt (ps : List Pattern) (t : Nat) : Option Nat :=
  (ps.reverse.find? (fun p => p.covers (t % Config.cols) (t / Config.cols))).map (·.prog)

/-- A region's record: its number, its windows, and whether the record is in order (R570). -/
def windowOf (b : List Byte) : Nat × List (Nat × Nat) :=
  (leAt b 0 1, tab (min 8 (leAt b 1 1)) (fun w => (leAt b (8 + 4 * w) 2, leAt b (10 + 4 * w) 2)))
/-- The record is in order. -/
def windowOk (b : List Byte) : Bool :=
  let n := leAt b 1 1
  decide (1 ≤ n) && decide (n ≤ 8) && zeroAt b 2 6 && (windowOf b).2.all (fun w => decide (w.1 < w.2)) && zeroAt b (8 + 4 * n) (32 - 4 * n)

/-- Whether every element of a list occurs once. -/
def distinct (l : List Nat) : Bool := l.eraseDups.length == l.length

/-- A slot binding (R432): SLOT, CONTEXT, LATH_ID, WORLD_BASE, CTX_LS_OFS. -/
def slotOfRec (b : List Byte) : Nat × Nat × Nat × W64 × Nat :=
  (leAt b 0 1, leAt b 1 1, leAt b 2 1, BitVec.ofNat 64 (leAt b 8 8), leAt b 16 2)
/-- A context record (R431): CONTEXT, NLAYER and the six words from WEIGHT_BASE to USER. -/
def ctxOfRec (b : List Byte) : Nat × Nat × List W64 := (leAt b 0 1, leAt b 2 2, tab 6 (fun i => BitVec.ofNat 64 (leAt b (8 + 8 * i) 8)))
/-- A queue's binding (R453): the queue, and its slot + 1, or 0. -/
def bindOf (b : List Byte) : Nat × Nat :=
  let v := leAt b 0 8
  (nfld v 0 13, if nfld v 23 1 = 1 then nfld v 16 7 + 1 else 0)
/-- Its reserved bits are 0. -/
def bindOk (b : List Byte) : Bool := let v := leAt b 0 8; nfld v 13 3 == 0 && v / 2 ^ 24 == 0

/-! ## Laths (R201 to R207) -/

/-- `n` rounded up to a multiple of 16. -/
def pad16 (n : Nat) : Nat := (n + 15) / 16 * 16

/-- Numbers cut into runs that rise strictly. -/
def risingRuns : List Nat → List (List Nat)
  | [] => []
  | a :: r => match r, risingRuns r with
    | b :: _, c :: cs => if a < b then (a :: c) :: cs else [a] :: c :: cs
    | _, cs => [a] :: cs

/-- A list cut into pieces of the given lengths. -/
def cut {α : Type} : List Nat → List α → List (List α)
  | [], _ => []
  | n :: ns, l => l.take n :: cut ns (l.drop n)

/-- The rows of the Jacobian pattern: `nr` rows of the DOF numbers in order, each rising (R204). Where the rising runs are as many as the
rows there is one way to cut them; elsewhere the manual does not say where a row ends, and the lengths are a free value (log 40). -/
def jacRows (nr : Nat) (ks : List Nat) : List (List Nat) :=
  let rs := risingRuns ks
  if rs.length = nr then rs else cut (Config.jacLengths ks nr) ks

/-- The lath that a header and its tables describe (R203, R204). The reciprocal shifts are the last table. -/
def lathOf (h tb : List Byte) : Lath :=
  let ndof := leAt h 8 2
  let nj := leAt h 10 2
  let nr := leAt h 12 2
  let jo := pad16 (2 * ndof)
  let ro := jo + pad16 (4 * nj)
  let po := ro + pad16 (4 * nr)
  let njac := leAt h 16 2
  let so := tb.length - pad16 (ndof + nr)
  let dels := po + pad16 (2 * njac)
  { id := leAt h 0 1, fp64 := leAt h 1 1 == 1, cg := leAt h 2 1 == 1, iterCap := leAt h 3 1, abandon := leAt h 4 1 == 1
    nworld := leAt h 5 1, warm := nfld (leAt h 6 1) 0 1 == 1, hasAdj := nfld (leAt h 6 1) 1 1 == 1, ndof := ndof
    deadlineOfs := leAt h 18 2, adjDeadlineOfs := leAt h 20 2
    pivotMin := BitVec.ofNat 64 (leAt h 24 8), tol := BitVec.ofNat 64 (leAt h 32 8), adjTol := BitVec.ofNat 64 (leAt h 40 8)
    h := BitVec.ofNat 64 (leAt h 48 8), bp := tab 12 (fun c => leAt h (56 + c) 1)
    outBase := BitVec.ofNat 64 (leAt h 72 8), tables := BitVec.ofNat 64 (leAt h 80 8)
    parent := tab ndof (fun k => leAt tb (2 * k) 2)
    joints := tab nj (fun i => (nfld (leAt tb (jo + 4 * i) 4) 0 3, nfld (leAt tb (jo + 4 * i) 4) 3 10))
    rows := tab nr (fun r => (nfld (leAt tb (ro + 4 * r) 4) 0 2, nfld (leAt tb (ro + 4 * r) 4) 2 11))
    jac := jacRows nr (tab njac (fun i => leAt tb (po + 2 * i) 2))
    del := Config.delassus nr ((tb.drop dels).take (so - dels))
    rsCol := tab ndof (fun k => leAt tb (so + k) 1), rsRow := tab nr (fun r => leAt tb (so + ndof + r) 1)
    init := Config.lathInit tb, initQ := Config.lathCoords tb }

/-- DOFs of a joint kind: REVOLUTE, PRISMATIC, BALL, FREE, FIXED (R228). -/
def jointDofs (kind : Nat) : Nat := nth 0 [1, 1, 3, 6, 0] kind

/-- Whether a list rises strictly. -/
def rises : List Nat → Bool
  | a :: b :: r => decide (a < b) && rises (b :: r)
  | _ => true

/-- Every SHIFT that the muls of a Q31 lath need (R207): forward, and for the adjoint where the lath has it. -/
def Lath.shifts (l : Lath) : List Int :=
  let n := fun c => (l.n c : Int)
  let ks := List.range l.ndof
  let up := ks.filter (fun k => !(l.anc k).isEmpty)
  let rows := List.range l.nrow
  let reached := ks.filter (fun k => rows.any (fun r => (l.reach r).contains k))
  let live := rows.filter (fun r => (nth [] l.del r).contains r)
  let jac := l.njac != 0
  let del := l.del.any (fun x => !x.isEmpty)
  up.map (fun k => n cMass + l.fDinv k - n cFactor) ++ (if up.isEmpty then [] else [n cFactor])
    ++ ks.map (fun k => n cInter + l.fDinv k - n cVel) ++ reached.map (fun k => l.fDinv k)
    ++ (if jac then [n cJac, n cJac + n cImp - n cForce] else []) ++ (if jac && del then [2 * n cInter - n cDel] else [])
    ++ (if del then [n cDel + n cImp - n cVel] else [])
    ++ (if l.cg then [] else live.map (fun r => n cVel + l.fAinv r - n cImp))
    ++ (if l.rows.any (fun r => r.1 == 2) then [n cMu] else [])
    ++ (if !l.hasAdj then []
        else ks.map (fun k => n cInter + l.fDinv k - n cAdjVel)
          ++ (if jac then [n cJac + n cAdjVel - n cAdjImp, n cJac + n cAdjImp - n cAdjVel] else [])
          ++ (if del then [n cDel] else []) ++ (if l.cg then [] else live.map (fun r => l.fAinv r)))

/-- Whether the module accepts a lath (R201, R203, R205 to R207). -/
def lathOk (h tb : List Byte) : Bool :=
  let l := lathOf h tb
  let nj := leAt h 10 2
  let jo := pad16 (2 * l.ndof)
  let ro := jo + pad16 (4 * nj)
  let pm := l.pivotMin
  let rs := l.rsCol ++ l.rsRow
  let head := h.length == 128 && decide (leAt h 1 1 ≤ 1) && decide (leAt h 2 1 ≤ 1) && decide (1 ≤ l.iterCap) && decide (leAt h 4 1 ≤ 1)
    && decide (1 ≤ l.nworld) && decide (l.nworld ≤ 128) && decide (leAt h 6 1 ≤ 3) && zeroAt h 7 1 && zeroAt h 22 2 && zeroAt h 92 36
    && decide (1 ≤ l.ndof) && decide (l.ndof ≤ 512) && decide (1 ≤ nj) && decide (nj ≤ 1023) && decide (leAt h 12 2 ≤ 2048)
    && decide (l.ndof ≤ leAt h 14 2) && decide (leAt h 14 2 ≤ 16384) && decide (leAt h 16 2 ≤ 40960) && decide (leAt h 88 4 ≤ 131072)
    && zeroAt h 68 4 && (if l.fp64 then zeroAt h 56 16 else l.bp.all (fun n => decide (n ≤ 31)))
    && (if l.fp64 then !bitOf pm 63 && decide (0 < fld pm 52 11) && decide (fld pm 52 11 < 2047)
        else decide (0 < pm.toNat) && decide (pm.toNat < 2 ^ 31))
    && l.outBase.toNat % 8192 == 0
    && gaSpace l.tables == 0 && decide (gaOff l.tables + tb.length ≤ Config.stackBytes)
  let tables := decide (ro + pad16 (4 * l.nrow) + pad16 (2 * leAt h 16 2) + pad16 (l.ndof + l.nrow) ≤ tb.length)
    && (List.range l.ndof).all (fun k => let p := nth 0 l.parent k; p == 0xFFFF || (decide (k < p) && decide (p < l.ndof)))
    && (List.range nj).all (fun i => leAt tb (jo + 4 * i) 4 / 2 ^ 13 == 0)
    && (List.range l.nrow).all (fun r => leAt tb (ro + 4 * r) 4 / 2 ^ 13 == 0)
    && l.joints.all (fun j => decide (j.1 ≤ 4) && decide (j.2 + jointDofs j.1 ≤ l.ndof))
    && l.rows.all (fun r => decide (r.1 ≤ 2) && (r.1 != 2 || decide (r.2 < l.nrow)))
  let patterns := l.nfact == leAt h 14 2 && l.jac.length == l.nrow && l.del.length == l.nrow
    && l.njac == leAt h 16 2 && (l.del.map List.length).foldl (· + ·) 0 == leAt h 88 4
    && l.jac.all (fun x => rises x && x.all (fun k => decide (k < l.ndof)))
    && l.del.zipIdx.all (fun x => rises x.1 && x.1.all (fun k => decide (k ≤ x.2)))
    && rs.length == l.ndof + l.nrow
  head && tables && patterns
    && (l.fp64 || (rs.all (fun r => decide (r ≤ 31)) && l.shifts.all (fun x => decide (0 ≤ x) && decide (x ≤ 31))
          && l.rsCol.all (fun r => decide (256 ≤ rneShift pm.toNat r))))

/-! ## The items of an image -/

/-- What the sections of an image name. -/
def itemsOf (bs : List Byte) : Items :=
  let sec := secBytes bs
  let parts := inSec bs 11 [] Config.lathParts
  let laths := parts.map (fun p => lathOf p.1 p.2)
  { programs := (programsOf (sec 1).length (sec 1)).getD []
    patterns := recordsOf 16 patternOf (sec 2)
    meshCircuits := inSec bs 3 [] Config.meshCircuits
    countTrees := (inSec bs 4 [] Config.countTrees).map (fun p => (p.1, p.2.1, p.2.2.foldl (fun m q => aset 0 m q.1 (q.2 + 1)) []))
    stackTiming := sec 7
    queueBind := (recordsOf 8 bindOf (sec 8)).foldl (fun m p => aput m p.1 p.2) []
    slots := recordsOf 32 slotOfRec (sec 9)
    contexts := recordsOf 64 ctxOfRec (sec 10)
    laths := laths
    stackData := (laths.zip parts).map (fun p => (gaOff p.1.tables, p.2.2)) ++ inSec bs 12 [] Config.stackData
    areas := inSec bs 13 [] Config.areas
    mapping := sec 14
    mapCtxs := inSec bs 14 [] Config.mapCtxs
    mapLayers := inSec bs 14 [] Config.mapLayers
    periodOps := inSec bs 14 [] Config.periodOps
    regWrites := inSec bs 15 [] Config.regWrites
    windows := recordsOf 40 windowOf (sec 16)
    routing := inSec bs 5 [] Config.fabRouting
    circuits := inSec bs 6 [] Config.fabCircuits
    types := (imgDir bs).map (·.1) }

/-- Stack ranges of an image: LATHS and STACK_DATA, then AREAS (R421). -/
def Items.ranges (x : Items) : List (Nat × Nat) := x.stackData.map (fun r => (r.1, r.2.length)) ++ x.areas.map (fun a => (a.1, a.2.1))
/-- Whether two lists of ranges share a byte. -/
def rangesMeet (a b : List (Nat × Nat)) : Bool :=
  a.any (fun x => b.any (fun y => decide (x.1 < y.1 + y.2) && decide (y.1 < x.1 + x.2) && x.2 != 0 && y.2 != 0))

/-- The image's bytes as they stand in stack memory from CFG_LOAD_ADDR, to the end of stack memory at most (R420). -/
def State.imageBytes (s : State) : List Byte × State :=
  let a := gaOff s.cfg.loadAddr
  let (h, _, s) := s.rdMem a 256 2
  let n := leAt h 16 8
  if !headOk h ∨ gaSpace s.cfg.loadAddr ≠ 0 then (h, s)
  else
    let (bs, _, s) := s.rdMem a (min n (Config.stackBytes - a)) 2
    (bs, s)

/-- The digest of an image (R416). -/
def digestOf (bs : List Byte) : W256 := sm3Word (bs.take (leAt bs 16 8 - 128))

/-- The registers that REG_WRITES may name (R533). -/
def imageRegs : List Nat :=
  [0x30040, 0x30050, 0x30068, 0x30070, 0x30078, 0x50038, 0x50090, 0x60000, 0x60008, 0x70020, 0x70028, 0x200038, 0x230038]

/-! ## The checks of R421 -/

/-- The first section whose content is not in order (IMAGE_INVALID), by its directory index; one that lies beyond the bytes read is passed
over. -/
def State.badSection (s : State) (bs : List Byte) : Option Nat :=
  let bad := fun (t : Nat) => match secOf bs t with
    | none => false
    | some b => match t with
      | 1 => (programsOf b.length b).isNone
      | 2 =>
        let ps := match secOf bs 1 with
          | some p => (programsOf p.length p).getD []
          | none => if leAt bs 6 1 = 1 then s.cfg.active.programs else []
        !recordsOk 16 patternOk b || (recordsOf 16 patternOf b).any (fun p => !(ps.any (fun r => r.num == p.prog)))
      | 8 => !recordsOk 8 bindOk b
      | 9 => !recordsOk 32 (fun r => zeroAt r 3 5 && zeroAt r 18 14) b
      | 10 => !recordsOk 64 (fun r => zeroAt r 1 1 && zeroAt r 4 4 && zeroAt r 56 8) b
      | 16 => !recordsOk 40 windowOk b || !distinct ((recordsOf 40 windowOf b).map (·.1))
      | _ => false
  (List.range (imgDir bs).length).find? (fun i =>
    let e := nth (0, 0, 0) (imgDir bs) i
    decide (e.2.1 + e.2.2 ≤ bs.length) && bad e.1)

/-- The signature verifies against the installed key that KEY_ID names; r and s are little-endian like every field of an image (R411, R416,
R418). -/
def State.signatureOk (s : State) (bs : List Byte) : Bool :=
  let n := leAt bs 16 8
  let tr := sub bs (n - 128) 128
  match s.flash.keys.find? (fun k => sm3 k.2 == sub tr 64 32) with
  | none => false
  | some k => sm2Verify k.2 (bs.take (n - 128)) (leAt tr 0 32) (leAt tr 32 32)

/-- What VERIFY finds of the signature: none where the image is unsigned, else whether it verifies (R418, R420). -/
def State.signatureIs (s : State) (bs : List Byte) : Option Bool := if leAt bs 7 1 = 1 then some (s.signatureOk bs) else none

/-- R435: 0 where the image fits the part, else FEATURE_MISMATCH with the index of the section at fault. -/
def featureFail (bs : List Byte) : Option Nat :=
  let cols := leAt bs 74 2
  let rows := leAt bs 76 2
  if (BitVec.ofNat 64 (leAt bs 64 8) &&& ~~~Config.caps) ≠ 0 ∨ (leAt bs 72 2 ≠ 0 ∧ leAt bs 72 2 ≠ Config.vlen) ∨ Config.cols < cols
      ∨ Config.tiles / Config.cols < rows ∨ Config.slots < leAt bs 78 2 ∨ 256 < leAt bs 80 2
      ∨ Config.stackBytes / 2 ^ 30 < leAt bs 84 4 then some 0
  else if (recordsOf 16 patternOf (secBytes bs 2)).any (fun p => decide (cols ≤ p.reach.1) || decide (rows ≤ p.reach.2)) then
    some (secIdx bs 2)
  else none

/-- The RESULT of the checks of R421 on an image, in their order, with the index of the failing section; none where all hold. Of the signature
they take what VERIFY has found (R420). -/
def State.imageFail (s : State) (bs : List Byte) : Option (Nat × Nat) :=
  let n := leAt bs 16 8
  let a := gaOff s.cfg.loadAddr
  let g := itemsOf bs
  let sec := secIdx bs
  if !headOk (bs.take 256) then some (2, 0)
  else if gaSpace s.cfg.loadAddr ≠ 0 ∨ bs.length < 256 + 32 * leAt bs 10 2 then some (3, 0)
  else if bs.length = n ∧ !trailerOk bs n then some (2, 0)
  else match badEntry bs n with
  | some i => some (2, i)
  | none => match s.badSection bs with
  | some i => some (2, i)
  | none =>
    if Config.stackBytes < a + n then some (3, 0)
    else if s.cfg.verifySig = some false then some (4, 0)
    else if s.cfg.verifySig = none ∧ bitOf s.cfg.secure 0 then some (5, 0)
    else if leAt bs 6 1 = 1 ∧ leAt bs 24 32 ≠ s.cfg.activeDigest.toNat then some (6, 0)
    else match featureFail bs with
    | some i => some (7, i)
    | none =>
      if g.programs.any (fun p => p.words.any (fun w => cwIllegal false w.toNat) || p.entries.any (fun e => decide (512 ≤ e.toNat))) then
        some (8, sec 1)
      else if (inSec bs 11 [] Config.lathParts).any (fun p => !lathOk p.1 p.2) then some (9, sec 11)
      else if meshConflict g.meshCircuits then some (10, sec 3)
      else if g.types.contains 6 ∧ s.cirConflict (g.circuits.foldl (fun m c => aset 0 m c.1 c.2) s.fab.cirs) then some (10, sec 6)
      else
        let act := s.cfg.active.ranges
        let own := fun (k : Nat) => (inSec bs k [] Config.stackData).map (fun r => (r.1, r.2.length))
        let laths := (inSec bs 11 [] Config.lathParts).map (fun p => (gaOff (lathOf p.1 p.2).tables, p.2.length))
        if rangesMeet laths act then some (11, sec 11)
        else if rangesMeet (own 12) act then some (11, sec 12)
        else if rangesMeet (g.areas.map (fun r => (r.1, r.2.1))) act then some (11, sec 13)
        else if g.regWrites.any (fun r => !(imageRegs.contains r.1 || (r.1 == 0x30000 && decide (r.2.1.toNat ≤ 1)))) then some (12, sec 15)
        else none

/-! ## The loader's states (R420 to R426) -/

/-- LOAD_FETCH_DONE: the flash slot stands at CFG_LOAD_ADDR, or its read failed (R420, R421). -/
def execLoadFetchDone (ok : Bool) (s : State) : Host.Outcome State Fault Refusal :=
  if s.loadSt ≠ 1 then done s s
  else if !ok then done s (s.loadFail 13 0)
  else
    let bs := aget [] s.flash.images (fld s.cfg.loadSrc 1 4)
    done s ((s.wrMem (gaOff s.cfg.loadAddr) bs).2.loadState 2)

/-- LOAD_VERIFY_DONE: the digest is taken, and the signature checked, on the same bytes (R420, R423). -/
def execLoadVerifyDone (s : State) : Host.Outcome State Fault Refusal :=
  if s.loadSt ≠ 2 then done s s
  else
    let (bs, s1) := s.imageBytes
    let sig := s1.signatureIs bs
    done s ((s1.updCfg (fun c => { c with verifyDigest := digestOf bs, verifySig := sig })).loadState 3)

/-- What an image would stage. -/
def State.stagedOf (s : State) (bs : List Byte) : Staged :=
  let d := digestOf bs
  let g := itemsOf bs
  let patch := leAt bs 6 1 == 1
  { digest := d, patch := patch, signed := leAt bs 7 1 == 1, epoch := leAt bs 8 2, seed := BitVec.ofNat 64 (leAt bs 56 8), items := g
    identity := if patch then sm3Word (leBytes 32 s.cfg.activeDigest.toNat ++ leBytes 32 d.toNat) else d
    targets := (g.patterns.flatMap Pattern.tiles).eraseDups }

/-- The programs that an image's patterns name: its own records, or the active image's (R415). -/
def State.recordsFor (s : State) (g : Staged) : List Program :=
  if g.items.types.contains 1 then g.items.programs else s.cfg.active.programs

/-- The load packets of one pattern, injected in a beat (R55, R426). -/
def loadPackets (beat : W64) (p : Pattern) (r : Program) : List MeshPkt :=
  let pat := p.x0 + p.x1 * 2 ^ 16 + p.y0 * 2 ^ 32 + p.y1 * 2 ^ 48 + p.xs * 2 ^ 64 + p.ys * 2 ^ 80 + p.prog * 2 ^ 96
  let flits := fun (l : List W256) => l.flatMap (fun w => [BitVec.ofNat 128 w.toNat, BitVec.ofNat 128 (w.toNat / 2 ^ 128)])
  let head := toFlits (leBytes 2 r.num ++ leBytes 2 r.words.length ++ r.entries.flatMap (fun e => leBytes 2 e.toNat)
    ++ leBytes 2 r.sr.tensor ++ leBytes 1 r.sr.purpose ++ leBytes 1 0 ++ leBytes 4 r.sr.elemBase.toNat ++ List.replicate 20 0#8)
  let mk := fun (first : Nat) (hd : Nat) (pl : List Flit) =>
    let v := pat + first * 2 ^ 112 + hd * 2 ^ 120
    ({ kind := 0, dest := 0, src := 0, trigger := 0, lsAddr := 0, cls := 2, op := 6, beatLo := beat.toNat % 4096
       addr := BitVec.ofNat 64 v, tag := v / 2 ^ 64, payload := pl } : MeshPkt)
  let rest := chunks 127 2 (r.words.drop 125)
  mk 0 1 (head ++ flits (r.words.take 125)) :: rest.zipIdx.map (fun c => mk (125 + 127 * c.2) 0 (flits c.1))

/-- LOAD_VALIDATE_DONE: the first failing check ends the load; else DISTRIBUTE begins and its load packets enter the mesh. -/
def execLoadValidateDone (s : State) : Host.Outcome State Fault Refusal :=
  if s.loadSt ≠ 3 then done s s
  else
    let (bs, s1) := s.imageBytes
    match s1.imageFail bs with
    | some (r, i) => done s (s1.loadFail r i)
    | none =>
      let g := s1.stagedOf bs
      let recs := s1.recordsFor g
      let pkts := g.items.patterns.flatMap (fun p =>
        match recs.find? (fun r => r.num == p.prog) with | some r => loadPackets s1.beat p r | none => [])
      let s2 := (s1.updCfg (fun c => { c with staging := some g })).loadState 4
      done s { s2 with mesh := s2.mesh ++ pkts }

/-- A load packet at the tiles of its pattern (R426): a HEAD packet clears the shadow bank, whatever it held, and writes its entry table and SR
context; the words enter from FIRST upward. -/
def State.loadDeliver (s : State) (p : MeshPkt) : State :=
  let v := p.addr.toNat + p.tag * 2 ^ 64
  let pat : Pattern := { x0 := nfld v 0 16, x1 := nfld v 16 16, y0 := nfld v 32 16, y1 := nfld v 48 16, xs := nfld v 64 16, ys := nfld v 80 16
                         prog := nfld v 96 16 }
  let first := nfld v 112 8
  let hd := nfld v 120 1 == 1
  let body := payloadBytes p.payload
  let words := chunks 32 256 (if hd then body.drop 64 else body)
  let bank := fun (c : CsBank) =>
    let c : CsBank := if hd then
        { sr := { tensor := leAt body 36 2, purpose := leAt body 38 1, elemBase := BitVec.ofNat 32 (leAt body 40 4) }
          entries := (List.range 16).foldl (fun m i => aset 0 m i (BitVec.ofNat 16 (leAt body (4 + 2 * i) 2))) [] }
      else c
    c.writes (words.zipIdx.map (fun w => (BitVec.ofNat 256 (ofLe w.1), first + w.2)))
  (pat.tiles.filter (fun t => decide (t < Config.tiles))).foldl (fun s t =>
    (if hd then s.shadowDefined t else s.materialise t).updTile t (fun x => x.setBank x.shadow (bank (x.bankOf x.shadow)))) s

/-- The pattern of a load packet, as the number in its second header flit (R426). -/
def loadPattern (p : MeshPkt) : Nat := (p.addr.toNat + p.tag * 2 ^ 64) % 2 ^ 112

/-- LOAD_PACKET: a load packet of the mesh, the next of its record, reaches its tiles in the order sent (R426). -/
def execLoadPacket (p : MeshPkt) (s : State) : Host.Outcome State Fault Refusal :=
  if p.op ≠ 6 ∨ s.mesh.find? (fun q => q.op == 6 && loadPattern q == loadPattern p) ≠ some p then done s s else done s (({ s with mesh := s.mesh.erase p } : State).loadDeliver p)

/-- The shadow bank that a tile receives (R414, R415): its program, or all zeros with no VALID entry. -/
def bankFor (g : Staged) (recs : List Program) (t : Nat) : CsBank :=
  match (programAt g.items.patterns t).bind (fun n => recs.find? (fun r => r.num == n)) with
  | none => {}
  | some r => ({ sr := r.sr, entries := r.entries.zipIdx.foldl (fun m e => aset 0 m e.2 e.1) [] } : CsBank).writes r.words.zipIdx

/-- The staging places take their contents (R413, R422). -/
def State.distribute (s : State) (g : Staged) : State :=
  let recs := s.recordsFor g
  let s := if g.patch then s else s.mapTiles (fun x => x.setBank x.shadow {})
  let s := g.targets.foldl (fun s t => s.updTile t (fun x => x.setBank x.shadow (bankFor g recs t))) s
  let s := if g.patch then g.targets.foldl State.shadowDefined s else s.updCfg (fun c => { c with undefined := (false, []) })
  let s := g.items.stackData.foldl (fun s r => (s.wrMem r.1 r.2).2) s
  { s with fab := { s.fab with
      rts := g.items.routing.foldl (fun m r => aset 0 m (r.1 % Config.moduleIds) (r.2 &&& maskOf 0 43)) s.fab.rts
      cirs := g.items.circuits.foldl (fun m r => aset 0 m r.1 (r.2 &&& cirMask (r.1 % 4))) s.fab.cirs } }

/-- LOAD_DISTRIBUTE_DONE: the staging stands, or the image's bytes changed during the load (R423). -/
def execLoadDistributeDone (s : State) : Host.Outcome State Fault Refusal :=
  if s.loadSt ≠ 4 then done s s
  else
    let (bs, s1) := s.imageBytes
    if digestOf bs ≠ s1.cfg.verifyDigest then done s (s1.dropStaging 14)
    else
      let g := s1.stagedOf bs
      let s2 := s1.distribute g
      let s3 := s2.updCfg (fun c => { c with staging := some g, stagedDigest := g.identity })
      done s { s3.loadState 5 with mesh := s3.mesh.filter (fun p => p.op != 6) }

end Sys2Proof.Machine
end

