-- ==== Sys2Proof/Machine/RegRead.lean ====
section
/-! DEFINITION. What every register reads as (chapter 17 and the register tables of the other chapters). WO and reserved fields read
0; an offset that holds no register reads 0 (R527). Reading changes nothing here: what a read clears stands in Registers.lean. -/

namespace Sys2Proof.Machine

/-! ## Blocks of BAR0 by the offset in the block -/

/-- CROWN_UPTIME and CROWN_SCRATCHn (R537). -/
def State.regModule (s : State) (o : Nat) : W64 :=
  if o = 0 then s.power.uptime else if o < 0x28 then aget 0 s.power.scratch (o / 8 - 1) else 0

/-- CW_LD_ (R116). -/
def State.regCwLd (s : State) (o : Nat) : W64 :=
  match o with
  | 0x00 => s.cwld.target
  | 0x08 => s.cwld.data0
  | 0x10 => s.cwld.data1
  | 0x18 => s.cwld.data2
  | 0x20 => s.cwld.data3
  | 0x30 => s.cwld.status
  | _ => 0

/-- NUM_ (R150, R264). -/
def State.regNum (s : State) (o : Nat) : W64 :=
  match o with
  | 0x00 => s.nan.ctrl
  | 0x08 => s.nan.rec0
  | 0x10 => s.nan.rec1
  | 0x18 => s.nan.beat
  | 0x20 => s.nan.step
  | 0x28 => s.nan.later
  | 0x40 => s.train.ratchetCtrl
  | 0x48 => s.ratchetReg
  | 0x50 => s.scaleReg
  | 0x58 => s.scaleStatusReg
  | 0x60 => s.train.seed
  | 0x68 => s.train.deadCtrl
  | 0x70 => s.train.stepBase
  | 0x78 => s.stepRingReg
  | _ => 0

/-- SOLV_ (R241). -/
def State.regSolv (s : State) (o : Nat) : W64 :=
  if o = 0 then s.solvCtrl
  else if 0x100 ≤ o ∧ o < 0x700 then
    let x := s.slot ((o - 0x100) / 16)
    if o % 16 = 0 then x.sum0 else x.sum1
  else 0

/-- ESC_ (R295). -/
def State.regEsc (s : State) (o : Nat) : W64 :=
  let e := s.esc
  match o with
  | 0x00 => e.beat
  | 0x08 => e.rcCount
  | 0x10 => e.beatCfg
  | 0x18 => e.beatChange
  | 0x28 => e.syncLoad
  | 0x30 => e.status
  | 0x38 => e.periodCfg
  | 0x40 => e.anchor
  | 0x48 => e.first
  | 0x50 => e.now
  | 0x58 => e.start
  | 0x60 => e.next
  | 0x68 => e.lateness
  | 0x70 => e.lateStats
  | 0x78 => e.hsCfg
  | 0x80 => e.hsStatus
  | 0x88 => e.hsSlew
  | 0x90 => e.wakeCfg
  | _ => 0

/-- MEM_ module-wide and MEM_STK_ (R322, R323). -/
def State.regMem (s : State) (o : Nat) : W64 :=
  match o with
  | 0x00 => s.mem.cfg
  | 0x08 => s.mem.thermCfg
  | 0x10 => s.memStatus
  | _ =>
    if 0x100 ≤ o ∧ o < 0x280 then
      let x := s.stack ((o - 0x100) / 0x20)
      match (o - 0x100) % 0x20 with
      | 0x00 => x.therm
      | 0x08 => x.stats
      | _ => 0
    else 0

/-- MEM_CH_ and MEM_TG_ of a channel (R323); a reserved CHANNEL_ID reads 0 (R322). -/
def State.regChan (s : State) (ch o : Nat) : W64 :=
  let x := s.chan ch
  if Config.channels ≤ ch then 0
  else match o with
    | 0x00 => BitVec.ofNat 64 (x.st + x.wcb.length * 8)
    | 0x10 => x.ecc
    | 0x18 => x.stats
    | 0x20 => x.tgCtrl
    | 0x28 => x.tgRange
    | 0x70 => x.tgStatus
    | 0x78 => x.tgFirst
    | _ => if 0x30 ≤ o ∧ o < 0x70 then aget 0 x.tgUser ((o - 0x30) / 8) else 0

/-- FAB_P_ of a port (R364, R368). -/
def State.regPort (s : State) (p o : Nat) : W64 :=
  let x := s.port p
  if Config.ports ≤ p then 0
  else match o with
    | 0x00 => BitVec.ofNat 64 (x.st + x.reason * 8)
    | 0x08 => BitVec.ofNat 64 (b1 x.enable)
    | 0x10 => x.peer
    | 0x18 => x.ident
    | 0x20 => x.fec
    | 0x28 => x.link
    | 0x30 => x.prbs
    | _ => if 0x38 ≤ o ∧ o < 0x78 then aget 0 x.prbsErr ((o - 0x38) / 8) else 0

/-- FAB_ module-wide and FAB_P_ (R364, R366). -/
def State.regFab (s : State) (o : Nat) : W64 :=
  let f := s.fab
  match o with
  | 0x00 => f.id
  | 0x10 => f.status
  | 0x18 => s.portsUp
  | 0x20 => f.ccCfg
  | 0x28 => f.txnCfg
  | 0x30 => f.drop0
  | 0x38 => f.drop1
  | 0x40 => f.drop2
  | 0x48 => f.stats0
  | 0x50 => f.stats1
  | _ => if 0x1000 ≤ o then s.regPort ((o - 0x1000) / 0x100) ((o - 0x1000) % 0x100) else 0

/-- CFG_SLICE_ and CFG_COLL_ (R409, R410). -/
def State.regSlice (s : State) (o : Nat) : W64 :=
  let x := s.slice
  match o with
  | 0x00 => x.cfg
  | 0x08 => x.tableBase
  | 0x18 => x.status
  | 0x20 => x.mismatch
  | 0x28 => x.step
  | 0x30 => x.epoch
  | 0x38 => x.collCfg
  | 0x40 => x.collFault
  | _ => if 0x100 ≤ o ∧ o < 0x300 then aget 0 x.chans ((o - 0x100) / 8) else 0

/-- Word n of a digest register (R439). -/
def digestWord (d : W256) (n : Nat) : W64 := BitVec.ofNat 64 (nfld d.toNat (64 * n) 64)

/-- CFG_ image registers (R438, R439). -/
def State.regCfg (s : State) (o : Nat) : W64 :=
  let c := s.cfg
  match o with
  | 0x00 => c.loadSrc
  | 0x08 => c.loadAddr
  | 0x18 => c.loadStatus
  | 0x20 => c.secure
  | 0x28 => c.activeInfo
  | _ =>
    if 0x40 ≤ o ∧ o < 0x60 then digestWord c.activeDigest ((o - 0x40) / 8)
    else if 0x60 ≤ o ∧ o < 0x80 then digestWord c.stagedDigest ((o - 0x60) / 8)
    else 0

/-- HOST_ (R474). -/
def State.regHost (s : State) (o : Nat) : W64 :=
  match o with
  | 0x00 => s.host.winCfg
  | 0x08 => s.host.mirrorAddr
  | 0x10 => s.host.mirrorCfg
  | 0x18 => s.hostStatus
  | _ => 0

/-- RAS_ (R500, R501). -/
def State.regRas (s : State) (o : Nat) : W64 :=
  let r := s.ras
  match o with
  | 0x00 => s.rasStatus
  | 0x10 => r.fault0
  | 0x18 => r.fault1
  | 0x20 => r.fault2
  | 0x28 => r.fault3
  | 0x30 => r.halt
  | 0x38 => r.ckptCfg
  | 0x40 => s.ckptStatus
  | _ =>
    if 0x48 ≤ o ∧ o < 0x78 then
      let t := (o - 0x48) / 16 + 1
      if (o - 0x48) % 16 = 0 then aget 0 r.ckptNew t else aget 0 r.ckptPrev t
    else 0

/-- The 8 bytes of the dump buffer at OFFSET (R507, R525); beyond the buffer they are 0. -/
def State.dumpData (s : State) : W64 :=
  let a := 8 * fld s.hang.dumpAddr 3 16
  if a < 0x44000 then BitVec.ofNat 64 (ofLe (tab 8 (fun i => Memory.get s.hang.buffer (a + i)))) else 0

/-- CROWN_ hang and reset (R524, R525). -/
def State.regHang (s : State) (o : Nat) : W64 :=
  let h := s.hang
  match o with
  | 0x00 => h.wdCfg
  | 0x08 => h.status
  | 0x10 => h.info
  | 0x18 => h.beat
  | 0x28 => h.resetStatus
  | 0x30 => h.escCfg
  | 0x40 => h.dumpAddr
  | 0x48 => s.dumpData
  | _ => 0

/-- CROWN_ power, identity and attestation (R563, R564). -/
def State.regPower (s : State) (o : Nat) : W64 :=
  let p := s.power
  match o with
  | 0x00 => p.pwrCfg
  | 0x08 => p.pwrStatus
  | 0x10 => p.env
  | 0x18 => p.boot
  | 0x20 => Config.serial
  | 0x28 => p.keyCtrl
  | 0x30 => p.keyAddr
  | 0x38 => p.attCtrl
  | 0x40 => p.attAddr
  | 0x48 => p.nonce0
  | 0x50 => p.nonce1
  | 0x58 => p.nonce2
  | 0x60 => p.nonce3
  | 0x68 => p.certCtrl
  | 0x70 => p.flashSrc
  | 0x78 => p.flashCtrl
  | _ => 0

/-- Q_STATUS (R474). -/
def Queue.statusReg (x : Queue) : W64 := BitVec.ofNat 64 (x.st + b1 x.overrun * 4 + b1 x.busy * 8 + x.oldest % 2 ^ 32 * 2 ^ 32)

/-- A queue block (R473, R474). -/
def State.regQueue (s : State) (q o : Nat) : W64 :=
  let x := s.queue q
  match o with
  | 0x00 => x.sq
  | 0x08 => x.cq
  | 0x10 => x.cfg
  | 0x18 => x.statusReg
  | _ => 0

/-- Word of the active or shadow circuit entries at an offset in their range (R364). -/
def cirReg (m : Assoc W64) (o : Nat) : W64 := if o / 8 < Config.ports * 1024 then aget 0 m (o / 8) else 0

/-- The register at a BAR0 offset, which is also its space-3 offset (R526). -/
def State.regAt (s : State) (off : Nat) : W64 :=
  let o := off % 0x10000
  if off % 8 ≠ 0 then 0
  else match off / 0x10000 with
    | 0 => featReg off
    | 1 => s.regModule o
    | 2 => s.regCwLd o
    | 3 => s.regNum o
    | 4 => s.regSolv o
    | 5 => s.regEsc o
    | 6 => s.regMem o
    | 7 => s.regFab o
    | 0x20 => s.regSlice o
    | 0x21 => s.regCfg o
    | 0x22 => s.regHost o
    | 0x23 => s.regRas o
    | 0x24 => s.regHang o
    | 0x25 => s.regPower o
    | 0x40 => BitVec.ofNat 64 (s.queue (o / 8)).tail.toNat
    | _ =>
      if off < 0x80000 then 0
      else if off < 0xA0000 then s.route ((off - 0x80000) / 8)
      else if off < 0xC0000 then aget 0 s.fab.rts ((off - 0xA0000) / 8)
      else if off < 0xE0000 then BitVec.ofNat 64 (s.rate ((off - 0xC0000) / 8))
      else if 0x100000 ≤ off ∧ off < 0x180000 then cirReg s.fab.cir (off - 0x100000)
      else if 0x180000 ≤ off ∧ off < 0x200000 then cirReg s.fab.cirs (off - 0x180000)
      else if 0x300000 ≤ off ∧ off < 0x340000 then s.regQueue ((off - 0x300000) / 0x20) (off % 0x20)
      else if 0x1000000 ≤ off ∧ off < 0x1080000 then s.regChan ((off - 0x1000000) / 0x100) (off % 0x100)
      else 0

/-- TILE_REGION_STATUS (R76). -/
def Region.reg (x : Region) : W64 := BitVec.ofNat 64 (x.st + b1 x.lock * 4 + x.wakes * 2 ^ 16)

/-- Whether a space-3 offset lies in the register map (R526, R527). -/
def inRegMap (off : Nat) : Bool := decide (off < 0x10000000) || (decide (0x40000000 ≤ off) && decide (off < 0x50001000))

/-- The register at a space-3 offset (R68, R526). -/
def State.reg3 (s : State) (off : Nat) : W64 :=
  if off < 0x10000000 then s.regAt off
  else if off % 8 ≠ 0 then 0
  else if 0x40000000 ≤ off ∧ off < 0x50000000 then s.tileReg ((off - 0x40000000) / 0x100) (off % 0x100)
  else if 0x50000000 ≤ off ∧ off < 0x50001000 ∧ off % 16 = 0 then (s.region ((off - 0x50000000) / 16)).reg
  else 0

end Sys2Proof.Machine
end

