-- ==== Sys2Proof/Machine/Hang.lean ====
section
/-! DEFINITION. Hangs, dumps and resets (chapter 16): the watched units, the phases of a handling, the dump buffer, the reset domains,
replay, verdicts and escalation. The phases follow the environment's commands; what acts at a boundary (the freeze, the reset of the
hung unit, OUT_OF_SERVICE) stands here as functions that Boundary.lean calls. -/

namespace Sys2Proof.Machine

/-- The hang part of the state changed. -/
def State.updHang (s : State) (f : Hang → Hang) : State := { s with hang := f s.hang }

/-! ## Watched units (R502, R503) -/

/-- REPLAY_WD; 0 acts as 1. -/
def State.replayWd (s : State) : Nat := max 1 (fld s.hang.wdCfg 32 16)

/-- The beat from which a command is on its unit: a command that waits for its arm beat is on none (R503). -/
def Cmd.since (c : Cmd) : W64 := laterBeat c.progress (c.arm.getD 0)

/-- The WAIT_FLAGs that the dispatcher is watched for: TIMEOUT 0 or above WD_BEATS, and acting (R502). -/
def State.watchedWaits (s : State) : List (Nat × Cmd) :=
  s.host.queues.flatMap (fun p => (p.2.cmds.filter (fun c => s.watches c.raw && s.cmdDue c)).map (fun c => (p.1, c)))

/-- Of two watched waits, the one that has waited longer. -/
def olderWait (a b : Nat × Cmd) : Nat × Cmd := if b.2.since.toNat < a.2.since.toNat then b else a

/-- Whether a command of a unit is past its arm beat, and the beat since which it is on its unit. -/
def State.onUnit (s : State) (q i : Nat) (progress : W64) : Option (Nat × Nat × W64) :=
  match s.cmd q i with
  | none => none
  | some c => if s.cmdDue c ∨ cmdOp c.raw ≠ 1 ∧ c.st = .acting then some (q, i, laterBeat progress (c.arm.getD 0)) else none

/-- The oldest command of a busy unit, its queue and CMD_INDEX, and the unit's progress beat (R502). -/
def State.unitRun (s : State) (e : Nat) : Option (Nat × Nat × W64) :=
  if e < 0x800 then (match (s.slot e).launch with | some l => s.onUnit l.q l.index l.progress | none => none)
  else if e < 0x1000 then (match afind s.host.copies (e - 0x800) with | some r => s.onUnit r.q r.index r.progress | none => none)
  else if e < 0x1800 then (match s.collRun (e - 0x1000) with | some r => some (r.q, r.index, r.progress) | none => none)
  else if e = 0x1800 then (match s.ras.run with | some r => some (r.q, r.index, r.progress) | none => none)
  else if e = 0x1C00 then
    (match s.watchedWaits with
    | [] => none
    | w :: r => let o := r.foldl olderWait w
                some (o.1, o.2.index, o.2.since))
  else none

/-- The watched units in the order of their engine numbers (R502). -/
def watchedUnits : List Nat :=
  List.range 96 ++ tab 16 (fun e => 0x800 + e) ++ tab 64 (fun c => 0x1000 + c) ++ [0x1800, 0x1C00]

/-- The status word of a unit (R510); an idle one shows the beats since its progress beat, one that has never been busy those since beat 0
(log 120). -/
def State.unitWord (s : State) (e : Nat) : W64 :=
  match s.unitRun e with
  | none => BitVec.ofNat 64 (min 0x3FFFF (s.beat.toNat - (aget 0 s.hang.last e).toNat) * 2 ^ 46)
  | some (q, i, p) =>
    BitVec.ofNat 64 (1 + q % 8192 * 2 + i % 2 ^ 32 * 2 ^ 14 + min 0x3FFFF (s.beat.toNat - p.toNat) * 2 ^ 46)

/-! ## Declaration (R503 to R506) -/

/-- The queues with a command in flight on any slot, or with a watched WAIT_FLAG, or else on the hung unit (R505). -/
def State.suspectQueues (s : State) (e : Nat) : List Nat :=
  let on := if e < 0x800 ∨ e = 0x1C00 then
      s.slots.filterMap (fun p => (s.unitRun p.1).map (·.1)) ++ s.watchedWaits.map (·.1)
    else (match s.unitRun e with | some r => [r.1] | none => [])
  (s.host.queues.map (·.1)).filter (fun q => on.contains q)

/-- The suspect of a queue: its commands in flight at the declaration. One that waits for its arm beat is not in flight (R503). -/
def State.suspectOf (s : State) (q : Nat) : Suspect :=
  let cs := (s.queue q).cmds.filter (fun c => s.cmdDue c || c.st == .acting)
  { q := q, first := (match cs with | c :: _ => c.index | [] => 0), cmds := cs }

/-- A hang of the unit is declared (R503, R505, R506, R525). -/
def State.declareHang (s : State) (e q i : Nat) : State :=
  let sus := (s.suspectQueues e).map s.suspectOf
  let s := s.fault .engineHang .engine e
  s.updHang (fun h => { h with
    status := setFld (setFld (setFld h.status 0 2 1) 4 1 0) 5 24 (min 255 sus.length)
    info := BitVec.ofNat 64 (e % 65536 + q % 8192 * 2 ^ 16 + i % 2 ^ 32 * 2 ^ 32)
    beat := s.beat
    suspects := sus
    replaying := none })

/-- HANG_DECLARED: a busy unit whose progress beat is at or before b - WD_BEATS is hung, and no other hang is being handled or has been in
this beat (R503, R504). -/
def execHangDeclared (engine : EngineNo) (s : State) : Host.Outcome State Fault Refusal :=
  if s.handling ∨ s.hang.endedAt = some s.beat ∨ !s.synced then done s s
  else match s.unitRun engine with
    | none => done s s
    | some (q, i, p) => if s.beat.toNat < p.toNat + s.wdBeats then done s s else done s (s.declareHang engine q i)

/-! ## The dump (R507 to R511) -/

/-- Bytes written into the dump buffer. -/
def State.putBuf (s : State) (a : Nat) (bs : List Byte) : State :=
  s.updHang (fun h => { h with buffer := bs.zipIdx.foldl (fun m p => Memory.put m (a + p.2) p.1) h.buffer })

/-- FLAGS of the header: TRUNCATED and LOG_TRUNCATED. -/
def State.bufFlags (s : State) : Nat := b1 (bitOf s.hang.status 4) + b1 (bitOf s.hang.resetStatus 48) * 2

/-- The header of the dump buffer (R511). -/
def State.bufHeader (s : State) : State :=
  let h := s.hang
  s.putBuf 0 (leBytes 8 h.beat.toNat ++ leBytes 2 (fld h.info 0 16) ++ leBytes 2 h.entries ++ leBytes 1 s.bufFlags
    ++ leBytes 1 (fld h.status 5 8) ++ List.replicate 50 0#8)

/-- The flag of the module's own area that a WAIT_FLAG or SET_FLAG names (R509). -/
def State.namedFlag (s : State) (c : Line) : Option Nat :=
  let v := cmdFld c 16 8
  let ga := BitVec.ofNat 64 v
  match cmdOp c with
  | 2 => if v < Config.flagBytes then some (v / 8) else none
  | 3 => if gaModule ga = s.moduleId ∧ gaSpace ga = 2 ∧ gaOff ga < Config.flagBytes then some (gaOff ga / 8) else none
  | _ => none

/-- A list of numbers in increasing order, each once. -/
def sortNat (l : List Nat) : List Nat := (l.foldl (fun (m : Assoc Unit) n => aput m n ()) []).map (·.1)

/-- The locations of a dump taken now, in the order of R509. -/
def State.dumpList (s : State) : List DumpLoc :=
  let reg := fun (k : Nat) (o : Nat) => ({ section_ := k, src := .reg o } : DumpLoc)
  let sus := s.hang.suspects
  let cmds := sus.flatMap (fun x => (s.queue x.q).cmds)
  let queues := sus.flatMap (fun x =>
    let b := 0x300000 + 0x20 * x.q
    [reg 2 b, reg 2 (b + 8), reg 2 (b + 16), reg 2 (b + 24), reg 2 (0x400000 + 8 * x.q)]
      ++ (s.queue x.q).cmds.flatMap (fun c => tab 8 (fun k =>
          ({ section_ := 2, src := .word (BitVec.ofNat 64 (cmdFld c.raw (8 * k) 8)) } : DumpLoc))))
  let tiles := if fld s.hang.info 0 16 < 0x800 then
      s.slots.flatMap (fun p => match p.2.launch with
        | some l => if sus.any (fun x => x.q == l.q) then l.tiles.filter (fun t => (s.tile t).st != .halted) else []
        | none => [])
    else []
  [0x50000, 0x50030, 0x230000, 0x230010, 0x230018, 0x230020, 0x230028, 0x230030].map (reg 0)
    ++ watchedUnits.map (fun e => ({ section_ := 1, src := .unit e } : DumpLoc))
    ++ queues
    ++ (sortNat (cmds.filterMap (fun c => s.namedFlag c.raw))).map (fun n => ({ section_ := 3, src := .flag n } : DumpLoc))
    ++ (sortNat tiles).map (fun t => ({ section_ := 4, src := .tileReg (0x40000000 + 0x100 * t) } : DumpLoc))

/-- Entries that a dump holds at most (R508). -/
def dumpMax : Nat := 16128

/-- The hung unit freezes and the dump begins, at the boundary after the declaration, once the halt has acted (R506). -/
def State.freezeHung (s : State) : State :=
  if fld s.hang.status 0 2 = 1 ∧ s.hang.frozen.isNone ∧ !s.hang.resetDue ∧ s.hang.beat.toNat < s.beat.toNat then
    let l := s.dumpList
    s.updHang (fun h => { h with
      frozen := some (fld h.info 0 16), dumping := true, todo := l.take dumpMax, entries := 0
      status := setBit h.status 4 (decide (dumpMax < l.length))
      buffer := h.buffer.filter (fun c => decide (0x40000 ≤ c.1)) })
  else s

/-- What a location holds now. -/
def State.dumpValue (s : State) : DumpSrc → W64
  | .reg o => s.regAt o
  | .tileReg o => s.reg3 o
  | .unit e => s.unitWord e
  | .word v => v
  | .flag n => s.flag n

/-- The location field of an entry: a BAR0 offset, or a space-3 offset with bit 47. Unit words, command copies and flags lie in neither,
and the manual gives them no location: it is free (log 5). -/
def State.dumpWhere (s : State) : DumpSrc → Nat × State
  | .reg o => (o, s)
  | .tileReg o => (o + 2 ^ 47, s)
  | _ => let (v, s) := s.free; (v.toNat % 2 ^ 48, s)

/-- DUMP_ENTRY_READ: the next location is read, or recorded UNREADABLE with all ones (R508, R511). -/
def execDumpEntryRead (ok : Bool) (s : State) : Host.Outcome State Fault Refusal :=
  match s.hang.todo with
  | [] => done s s
  | d :: r =>
    if !s.hang.dumping then done s s
    else
      let v := if ok then (s.dumpValue d.src).toNat else 2 ^ 64 - 1
      let (o, s1) := s.dumpWhere d.src
      let s2 := s1.putBuf (0x1000 + 16 * s1.hang.entries) (leBytes 6 o ++ leBytes 1 d.section_ ++ leBytes 1 (b1 (!ok)) ++ leBytes 8 v)
      done s (s2.updHang (fun h => { h with todo := r, entries := h.entries + 1 }))

/-- DUMP_END: every location has been read; the hung unit's reset acts at the next boundary (R506). -/
def execDumpEnd (s : State) : Host.Outcome State Fault Refusal :=
  if s.hang.dumping ∧ s.hang.todo = [] then
    done s ((s.updHang (fun h => { h with dumping := false, resetDue := true })).bufHeader)
  else done s s

/-- A read of CROWN_DUMP_DATA: the 8 bytes at OFFSET return, and OFFSET advances by 1 (R525). -/
def State.readDump (s : State) (path : Path) : State :=
  let r : ReadOut := { path := path, offset := 0x240048, value := s.dumpData }
  (s.updHost (fun h => { h with reads := h.reads ++ [r] })).updHang (fun h => { h with dumpAddr := wrapFld h.dumpAddr 3 16 1 })
/-- DUMP_DATA_READ. -/
def execDumpDataRead (s : State) : Host.Outcome State Fault Refusal := done s (s.readDump .bar0)

/-- The report entry of a suspect (R521). -/
def State.reportEntry (s : State) (x : Suspect) : List Byte :=
  let ga := match x.waitFlag with | some n => (mkGa 2 s.moduleId (8 * n)).toNat | none => 0
  leBytes 2 x.q ++ leBytes 1 x.verdict ++ leBytes 1 x.cause ++ leBytes 4 x.first ++ leBytes 4 x.endIdx ++ leBytes 2 x.partner
    ++ leBytes 2 0 ++ leBytes 8 ga ++ leBytes 8 x.endBeat.toNat

/-- The report entries of the suspects that have their verdict (R511, R519). -/
def State.putReport (s : State) : State :=
  ((s.hang.suspects.take 64).zipIdx.filter (fun p => p.1.replayed)).foldl (fun s p => s.putBuf (0x40 + 32 * p.2) (s.reportEntry p.1)) s

/-! ## Reset domains (R512) -/

/-- What a requester becomes once its unit has been reset: its answers reach nobody. -/
def orphan (p : ReqSrc → Bool) (r : ReqSrc) : ReqSrc := if p r then .edge else r

/-- The requests in channels, at the flag area and at the fabric's edge whose requester is of a kind lose it; their tags stay held until
they are answered (R348, R512). -/
def State.orphans (s : State) (p : ReqSrc → Bool) : State :=
  let lr := fun (r : LineReq) => ({ r with src := orphan p r.src } : LineReq)
  let qr := fun (l : List QReq) => l.map (fun x => ({ x with req := lr x.req } : QReq))
  { s with
    mem := { s.mem with
      inbox := s.mem.inbox.map lr
      chans := s.mem.chans.map (fun c => (c.1, { c.2 with urgent := qr c.2.urgent, normal := qr c.2.normal, writes := qr c.2.writes
                                                          waiting := qr c.2.waiting })) }
    host := { s.host with flagIn := s.host.flagIn.map (fun f => (orphan p f.1, f.2)) }
    fab := { s.fab with
      waiting := s.fab.waiting.map (fun w => { w with src := orphan p w.src })
      txns := s.fab.txns.map (fun t => { t with src := orphan p t.src }) } }

/-- The requester is the engine u. -/
def isEngine (u : Nat) : ReqSrc → Bool
  | .engine e => e % 2 ^ 16 == u
  | _ => false
/-- The requester is a collective channel. -/
def isColl : ReqSrc → Bool
  | .engine e => decide (0x1000 ≤ e % 2 ^ 16) && decide (e % 2 ^ 16 < 0x1040)
  | _ => false
/-- The requester is a tile. -/
def isTile : ReqSrc → Bool
  | .tile _ _ => true
  | .tilePosted _ _ => true
  | _ => false

/-- A reset of domain ENGINE: the unit's commands in flight complete ENGINE_RESET, and its buffers and counts are cleared (R506, R512). -/
def State.engineReset (s : State) (e : Nat) : State :=
  if e < 0x1000 then
    match afind s.host.copies (e - 0x800) with
    | none => s
    | some r =>
      if (s.unitRun e).isNone then s
      else ((s.complete r.q r.index 12).updHost (fun h => { h with copies := adel h.copies (e - 0x800) })).orphans (isEngine e)
  else if e = 0x1000 then
    let rs := s.slice.running.map (·.2) ++ s.slice.queued.map (·.2)
    let s := rs.foldl (fun s r => s.complete r.q r.index 12) s
    let chans := s.slice.running.foldl (fun m p => aset 0 m p.1 (wrapFld (aget 0 m p.1) 32 32 1)) s.slice.chans
    let s := { s with slice := { s.slice with running := [], queued := [], counts := [], finalWait := [], early := [], chans := chans } }
    (rs.foldl (fun s r => if r.kind = 1 ∨ r.kind = 2 then s.cutStep r.context else s) s).orphans isColl
  else if e = 0x1800 then
    match s.ras.run with
    | none => s
    | some _ => ((s.endCk 12).updRas (fun x => { x with pieces := [] })).orphans (isEngine e)
  else
    let decided := fun (q i : Nat) => match s.cfg.commit with | some a => a.q == q && a.index == i | none => false
    let inFlight := fun (q : Nat) (c : Cmd) => match cmdOp c.raw with
      | 2 | 3 | 9 | 10 => s.cmdDue c
      | 7 => s.cmdDue c && !decided q c.index
      | 8 => s.abortDue c
      | _ => false
    let cs := s.host.queues.flatMap (fun p => (p.2.cmds.filter (inFlight p.1)).map (fun c => (p.1, c)))
    (cs.foldl (fun s x => s.cancel x.1 x.2 12) s).orphans (isEngine e)

/-- Every LAUNCH in flight ends; one that a halt or an abort has ended keeps its status (R506, R512). -/
def State.endLaunches (s : State) : State :=
  s.slots.foldl (fun s p =>
    if p.2.launch.isSome then
      (s.updSlot p.1 (fun x => { x with launch := x.launch.map (fun l =>
        { l with left := [], status := if l.status = 0 then 12 else l.status }) })).endLaunch p.1 |>.cutStep p.2.context
    else s) s

/-- The regions' defaults under the active image: those that it uses in RUN, the others in PLL_OFF (R291, R292). -/
def State.defaultRegions (s : State) : Assoc Region :=
  if s.power.mainOn then
    (s.cfg.active.windows.map (·.1)).foldl (fun m r =>
      aset {} m r ({ st := 0, lock := true, wakes := 0, fromOff := false } : Region)) []
  else []

/-- A tile after a reset of domain TILE_ARRAY: both banks with their entry tables and SR contexts, and which is active (R512). -/
def Tile.afterReset (x : Tile) : Tile := { cs0 := x.cs0, cs1 := x.cs1, bank := x.bank }

/-- A reset of domain TILE_ARRAY. A load in DISTRIBUTE ends (R424). -/
def State.tileArrayReset (s : State) : State :=
  let s := s.endLaunches
  let s := if s.loadSt = 4 then s.dropStaging (fld s.cfg.loadStatus 3 5) else s
  let s := (s.mapTiles Tile.afterReset).orphans isTile
  { s with mesh := [], answers := [], regions := s.defaultRegions }

/-- The port by which this module's request leaves: circuit data by its circuit's entry, another by the routing table (R352, R355). -/
def State.leavesBy (s : State) (p : FabPkt) : Option Nat :=
  if p.dest = s.moduleId then none
  else if p.op = .circuitData then
    (s.cirRoute 63 p.circuit p.cirPort).map (fun k => fld (cirWord s.fab.cir k.1 k.2 0) 2 6)
  else if (rtPorts (s.route p.dest)).isEmpty then none
  else some (outPort (s.route p.dest) p)

/-- A reset of domain PORT (R348, R512): its packets drop, this module's transactions through it are answered with LINK_DOWN, the tags held for
late answers through it are free, and it retrains. -/
def State.portReset (s : State) (p : Nat) : State :=
  let ts := s.fab.txns.filter (fun t => s.leavesBy t.pkt == some p)
  let s := s.portTo p 0 0
  let s := { s with fab := { s.fab with
    txns := s.fab.txns.filter (fun t => !ts.any (fun x => x.tag == t.tag))
    switchQ := s.fab.switchQ.filter (fun x => !(x.2.op == FabOp.errorReply && x.2.dest == s.moduleId && ts.any (fun t => t.tag == x.2.tag))) } }
  let s := (ts.filter (fun t => !t.held)).foldl (fun s t => s.toRequester t.src .errorReply [] (some .linkDown)) s
  (s.updPort p (fun x => { x with ident := 0, fec := 0, link := 0, prbsErr := [], checkers := [] })).tryTrain p

/-- The lines that the buffer of a channel holds, in increasing order (R511). -/
def State.heldLines (s : State) (ch : Nat) : List Nat := sortNat ((s.chan ch).wcb.map (fun w => (stackMap w.addr).2))

/-- Before a reset acts, a channel in READY evicts its buffer, and any other discards it: the lines discarded (R308). -/
def State.flushChannel (s : State) (ch : Nat) : List (Nat × Nat) × State :=
  if (s.chan ch).st = 2 then ([], s.evictAll ch)
  else ((s.heldLines ch).map (fun l => (ch, l)), s.updChan ch (fun x => { x with wcb := [] }))

/-- The reset log, DISCARDED and LOG_TRUNCATED (R511, R525). -/
def State.logDiscards (s : State) (ls : List (Nat × Nat)) : State :=
  let long := decide (1024 < ls.length)
  let s := s.updHang (fun h => { h with
    resetStatus := setBit (setFld h.resetStatus 32 16 (min 0xFFFF ls.length)) 48 long
    buffer := h.buffer.filter (fun c => decide (c.1 < 0x40000)) })
  let bytes := (ls.take 1024).flatMap (fun p => leBytes 2 p.1 ++ List.replicate 6 0#8 ++ leBytes 4 p.2 ++ List.replicate 4 0#8)
  (s.putBuf 0x40000 bytes).putBuf 12 (leBytes 1 s.bufFlags)

/-- A reset of domain CHANNEL (R308, R512): the buffer, error replies to what is queued, and the channel trains. -/
def State.channelReset (s : State) (ch : Nat) : State :=
  let (ls, s) := s.flushChannel ch
  let qs := (s.chan ch).all.filter (fun q => !ownOp q.req.op)
  let s := s.updChan ch (fun x => { x with st := 1, urgent := [], normal := [], writes := [], waiting := [], wcb := [], pressure := false })
  (qs.foldl (fun s q => s.reply q.req.src 0 0 (some .memUncorrectable)) s).logDiscards ls

/-- Every channel's buffer before a WARM or COLD reset. -/
def State.flushAll (s : State) : List (Nat × Nat) × State :=
  s.mem.chans.foldl (fun (a : List (Nat × Nat) × State) c =>
    let (l, s) := a.2.flushChannel c.1
    (a.1 ++ l, s)) ([], s)

/-- What a reset keeps of the fault record (R528). -/
def Ras.kept (r : Ras) : Ras :=
  { fault0 := r.fault0, fault1 := r.fault1, fault2 := r.fault2, fault3 := r.fault3, halt := r.halt
    status := r.status &&& maskOf 0 27 &&& ~~~(maskOf 1 1) }

/-- The complete slots among two, as their headers say; an incomplete one is none (R490, R528). -/
def survivors (l : Assoc CkSlot) : Assoc CkSlot := l.filter (fun p => p.2.complete)

/-- A handling in progress ends with a WARM or COLD reset: the report keeps what it had gathered, the entries and the header written as far
as they go (R513). -/
def State.endHandling (s : State) : State :=
  if !s.handling then s
  else s.putReport.bufHeader.updHang (fun h => { h with
    status := setFld h.status 0 2 0, dumping := false, todo := [], resetDue := false, frozen := none, replaying := none
    suspects := [], endedAt := some s.beat })

/-- The ports whose peer sends a signal, each at its reset value: they train once stage 7 is complete (R332, R552). -/
def State.signals (s : State) : Assoc Port :=
  (s.fab.ports.filter (fun p => p.2.signal)).map (fun p => (p.1, ({ signal := true } : Port)))

/-- A WARM reset (R512, R526, R528): stack contents, the always-on domain with the Escapement, flash, POLICY and the host port stay;
every channel trains, and stages 5 to 7 of the start-up run (R554). -/
def State.warmReset (s : State) : State :=
  let (ls, s) := s.flushAll
  let chans : Assoc Chan := if s.power.mainOn then tab Config.channels (fun c => (c, ({ st := 1 } : Chan))) else []
  let p := s.power
  let t : State := { State.reset with
    pending := s.pending, freeCtr := s.freeCtr, flash := s.flash, memLog := s.memLog, memWipe := s.memWipe, lsWipe := true
    mem := { chans := chans, bytes := s.mem.bytes, marks := s.mem.marks }
    esc := { s.esc with bound := [], markers := [], doneSent := false }
    fab := { ports := s.signals }
    cfg := { secure := s.cfg.secure }
    host := { link := s.host.link, winCfg := s.host.winCfg, mirrorAddr := s.host.mirrorAddr, mirrorCfg := s.host.mirrorCfg, status := s.host.status
              busMaster := s.host.busMaster, d0 := s.host.d0, dmaDue := s.host.dmaDue, mirrorSeq := s.host.mirrorSeq
              out := s.host.out, reads := s.host.reads, fetches := s.host.fetches }
    ras := { s.ras.kept with tier1 := survivors s.ras.tier1, tier2 := survivors s.ras.tier2 }
    hang := s.endHandling.hang
    power := { p with delta := [], pendDelta := none, boot := if fld p.boot 0 4 > 5 then setFld p.boot 0 4 5 else p.boot } }
  t.logDiscards ls

/-- The state at the start of a COLD reset or a cold start: what flash keeps, the pin, what the host has been sent, and the report of a
handling that the reset ends (R512, R513, R523). -/
def State.coldState (s : State) : State :=
  { State.reset with
    pending := s.pending, freeCtr := s.freeCtr, flash := s.flash, memWipe := true, lsWipe := true
    fab := { ports := s.signals }
    host := { out := s.host.out, reads := s.host.reads, fetches := s.host.fetches }
    ras := { tier2 := survivors s.ras.tier2 }
    hang := { status := setBit 0 3 s.flash.outOfService, coldSince := s.flash.outOfService, dumpSlot := s.hang.dumpSlot
              buffer := if s.handling then s.endHandling.hang.buffer else [] }
    power := { pwrEnPin := s.power.pwrEnPin, nowUs := s.power.nowUs } }

/-- A COLD reset: the whole start-up runs (R512, R552). -/
def State.coldReset (s : State) : State :=
  let (ls, s) := s.flushAll
  s.coldState.logDiscards ls

/-- Why a request for a reset is refused: the RESULT, or 0 (R513). -/
def State.resetRefusal (s : State) (domain index : Nat) : Nat :=
  let hot := (List.range 12).any (fun k => decide (360 ≤ fld (s.stack k).therm 0 12))
  let engine := (decide (0x800 ≤ index) && decide (index < 0x810)) || index == 0x1000 || index == 0x1800 || index == 0x1C00
  if domain ≠ 5 ∧ s.sliceSt = 2 then 2
  else if (domain = 4 ∨ domain = 5) ∧ hot then 3
  else if 5 < domain ∨ (domain = 0 ∧ !engine) ∨ (domain = 2 ∧ Config.ports ≤ index) ∨ (domain = 3 ∧ Config.channels ≤ index) then 4
  else 0

/-- A reset acts (R512). -/
def State.resetAct (s : State) (domain index : Nat) : State :=
  match domain with
  | 0 => s.engineReset index
  | 1 => s.tileArrayReset
  | 2 => s.portReset index
  | 3 => s.channelReset index
  | 4 => s.warmReset
  | _ => s.coldReset

/-- LAST_DOMAIN, PENDING, RESULT and LAST_INDEX of CROWN_RESET_STATUS. -/
def State.resetNote (s : State) (domain index : Nat) (pending : Bool) (result : Nat) : State :=
  s.updHang (fun h => { h with
    resetStatus := setFld (setFld (setBit (setFld h.resetStatus 0 3 domain) 3 pending) 4 3 result) 8 16 index })

/-- A request for a reset acts: it is refused, or the domain resets and PENDING shows it (R513, R525). -/
def State.resetRequest (s : State) (domain index : Nat) : State :=
  let no := s.resetRefusal domain index
  if no ≠ 0 then s.resetNote domain index (bitOf s.hang.resetStatus 3) no
  else (s.resetAct domain index).resetNote domain index true 0

/-- ENGINE. -/
def execEngine (index : Nat) (s : State) : Host.Outcome State Fault Refusal := done s (s.resetRequest 0 index)
/-- TILE_ARRAY. -/
def execTileArray (s : State) : Host.Outcome State Fault Refusal := done s (s.resetRequest 1 0)
/-- PORT. -/
def execPort (index : Nat) (s : State) : Host.Outcome State Fault Refusal := done s (s.resetRequest 2 index)
/-- CHANNEL. -/
def execChannel (index : Nat) (s : State) : Host.Outcome State Fault Refusal := done s (s.resetRequest 3 index)
/-- WARM. -/
def execWarm (s : State) : Host.Outcome State Fault Refusal := done s (s.resetRequest 4 0)
/-- COLD. -/
def execCold (s : State) : Host.Outcome State Fault Refusal := done s (s.resetRequest 5 0)

/-- RAS_CKPT_NEWt and RAS_CKPT_PREVt from the complete slots that survived (R528). -/
def ckptRegs (l : Assoc CkSlot) : W64 × W64 :=
  let v := fun (x : CkSlot) => setBit (setBit (setFld 0 0 48 x.step.toNat) 48 true) 49 x.parity
  match l.map (·.2) with
  | [a] => (v a, 0)
  | [a, b] => if a.step.toNat < b.step.toNat then (v b, v a) else (v a, v b)
  | _ => (0, 0)

/-- NEWt and PREVt are rebuilt at the end of a WARM or COLD reset. -/
def State.rebuildCkpt (s : State) : State :=
  let (n1, p1) := ckptRegs s.ras.tier1
  let (n2, p2) := ckptRegs s.ras.tier2
  s.updRas (fun r => { r with ckptNew := aset 0 (aset 0 [] 1 n1) 2 n2, ckptPrev := aset 0 (aset 0 [] 1 p1) 2 p2 })

/-- RESET_COMPLETE: the pending reset has finished, a WARM or COLD one with its start-up stages (R512, R528, R554). -/
def execResetComplete (s : State) : Host.Outcome State Fault Refusal :=
  let v := s.hang.resetStatus
  let d := fld v 0 3
  let ch := fld v 8 16
  if !bitOf v 3 ∨ ((d = 4 ∨ d = 5) ∧ fld s.power.boot 0 4 ≠ 9) then done s s
  else
    let s1 := if d = 3 ∧ (s.chan ch).st = 1 then s.updChan ch (fun x => { x with st := 2 })
      else if d = 4 ∨ d = 5 then s.rebuildCkpt else s
    done s (s1.updHang (fun h => { h with resetStatus := setFld (setBit h.resetStatus 3 false) 4 3 1, replayBeat := s.beat }))

/-- The hung unit's domain is reset at the boundary after the dump's end (R506, R516, R522). -/
def State.hungReset (s : State) : State :=
  if !s.hang.resetDue then s
  else
    let e := fld s.hang.info 0 16
    let (d, i) : Nat × Nat := if e < 0x800 then (1, 0) else if 0x1000 ≤ e ∧ e < 0x1800 then (0, 0x1000) else (0, e)
    let s := (s.resetAct d i).resetNote d i true 0
    s.updHang (fun h => { h with
      resetDue := false, frozen := none, status := setFld h.status 0 2 2, resetTimes := h.resetTimes ++ [s.power.uptime] })

/-! ## Replay (R517, R518) -/

/-- The suspect of a queue changed. -/
def State.updSuspect (s : State) (q : Nat) (f : Suspect → Suspect) : State :=
  s.updHang (fun h => { h with suspects := h.suspects.map (fun x => if x.q = q then f x else x) })

/-- The lowest operation tag that is free. -/
def State.lowTag (s : State) : Nat :=
  ((List.range (s.host.tags.length + 1)).find? (fun t => (afind s.host.tags t).isNone)).getD 0

/-- A command of a suspect that is to run in the replay, and of a command that the reset left alive the one with which the queue goes on: the
replay takes it over, and it runs without a record (R517, R518, R519; DEDUCED, log 120). A LAUNCH or COPY that still runs is watched as it
is. A SET_FLAG whose atomic was issued counts as completed; a COMMIT and an ABORT keep to their own boundary. -/
def State.replayTake (s : State) (q : Nat) (c : Cmd) : Bool × State :=
  let op := cmdOp c.raw
  match s.cmd q c.index with
  | none => (!(op == 3 && c.sent), s)
  | some d =>
    if op = 7 ∨ op = 8 ∨ (op = 3 ∧ d.sent) then (false, s)
    else
      let s := s.updHang (fun h => { h with suspects := h.suspects.map (fun x =>
        if x.q = q then { x with resume := x.resume ++ [{ index := c.index, raw := c.raw }] } else x) })
      if op = 1 ∨ op = 4 then (false, s.updCmd q c.index (fun d => { d with replay := true }))
      else (true, s.updQueue q (fun x => { x with cmds := x.cmds.filter (fun d => d.index != c.index) }))

/-- A command of a suspect runs again, from the dispatcher's copy (R517, R518): a PERIOD arm acts as ABS 0. -/
def State.replayCmd (s : State) (q : Nat) (c : Cmd) : State :=
  let (runs, s) := s.replayTake q c
  if !runs then s
  else
    let abs := if cmdFld c.raw 2 1 = 0 then cmdFld c.raw 8 8 else 0
    let tag := c.tag.map (fun t => if (afind s.host.tags t).isNone then t else s.lowTag)
    let arm := BitVec.ofNat 64 (max abs s.beat.toNat)
    let c' : Cmd := { index := c.index, raw := c.raw, waits := c.waits, lines := c.lines }
    let s := s.updQueue q (fun x => { x with cmds := x.cmds.filter (fun d => d.replay) ++ c' :: x.cmds.filter (fun d => !d.replay) })
    let s := s.dispatch q c' (some arm) false tag
    s.updCmd q c.index (fun d => { d with replay := true, waits := c.waits, lines := c.lines })

/-- A suspect that no replay takes: it has a COLLECTIVE or a CHECKPOINT in flight, or stands beyond the 64th (R518, R519). -/
def notReplayed (x : Suspect) (n : Nat) : Bool := decide (64 ≤ n) || x.cmds.any (fun c => cmdOp c.raw == 5 || cmdOp c.raw == 6)

/-- The suspects before the next replay: those that none takes have their verdict. -/
def State.skipSuspects (s : State) : State :=
  s.updHang (fun h => { h with suspects := h.suspects.zipIdx.map (fun p =>
    if notReplayed p.1 p.2 ∧ !p.1.replayed then { p.1 with replayed := true, verdict := 3, endIdx := p.1.first, endBeat := s.beat }
    else p.1) })

/-- Whether the hung unit's reset has completed, or a replay has ended, before this boundary (R506). -/
def State.replayReady (s : State) : Bool :=
  let st := fld s.hang.status 0 2
  ((st == 2 && !bitOf s.hang.resetStatus 3) || st == 3) && s.hang.replaying.isNone && decide (s.hang.replayBeat.toNat < s.beat.toNat)

/-- REPLAY_START: the next suspect's commands in flight run again, in index order (R506, R517). -/
def execReplayStart (s : State) : Host.Outcome State Fault Refusal :=
  if !s.replayReady then done s s
  else
    let s1 := (s.updHang (fun h => { h with status := setFld h.status 0 2 3 })).skipSuspects
    match s1.hang.suspects.find? (fun x => !x.replayed) with
    | none => done s s1
    | some x =>
      let s2 := s1.updHang (fun h => { h with replaying := some x.q, replayBeat := s.beat })
      done s (x.cmds.foldl (fun s c => s.replayCmd x.q c) s2)

/-- The commands that the present replay still runs. -/
def State.replayLeft (s : State) (q : Nat) : List Cmd := (s.queue q).cmds.filter (fun c => c.replay)

/-- The commands without a record that a replay of queue q has taken over stand in its queue again, in index order, to be dispatched anew
(R450, R519). -/
def State.resumeCmds (s : State) (q : Nat) : State :=
  let cs := match s.hang.suspects.find? (fun x => x.q == q) with | some x => x.resume | none => []
  (s.updSuspect q (fun x => { x with resume := [] })).updQueue q (fun x =>
    { x with cmds := sortKey (fun c => (c.index + 2 ^ 32 - x.oldest) % 2 ^ 32) (x.cmds ++ cs) })

/-- A replay of queue q ends; what it summed belongs to no step. -/
def State.endReplay (s : State) (q : Nat) : State :=
  let s := (s.resumeCmds q).updHang (fun h => { h with replaying := none, replayBeat := s.beat })
  { s with
    ctxs := s.ctxs.map (fun p => (p.1, p.2.endStep))
    train := { s.train with sat := 0, flush := 0, replay := 0, nan := 0 } }

/-- REPLAY_END: the last of the suspect's commands has completed (R517, R519). -/
def execReplayEnd (s : State) : Host.Outcome State Fault Refusal :=
  match s.hang.replaying with
  | none => done s s
  | some q =>
    if (s.replayLeft q).isEmpty then
      done s ((s.updSuspect q (fun x => { x with
        replayed := true, verdict := 0, endBeat := s.beat, endIdx := (match x.cmds.getLast? with | some c => c.index | none => x.first) })).endReplay q)
    else done s s

/-- The latest progress event of the units that run the replayed commands (R502, R517). -/
def State.replayProgress (s : State) (q : Nat) : W64 :=
  (s.replayLeft q).foldl (fun b c =>
    let p := match cmdOp c.raw with
      | 1 => (match s.launchSlot q c.index with
        | some k => (match (s.slot k).launch with | some l => l.progress | none => 0)
        | none => 0)
      | 4 => (match s.host.copies.find? (fun x => x.2.q == q && x.2.index == c.index) with | some x => x.2.progress | none => 0)
      | _ => 0
    laterBeat b p) s.hang.replayBeat

/-- What a replay that did not finish had running stops, without a record. -/
def State.dropReplay (s : State) (q : Nat) : State :=
  let s := (s.replayLeft q).foldl (fun s c => let s := s.leaveUnit q c
    match cmdOp c.raw with
    | 1 => (match s.launchSlot q c.index with
      | some k =>
        let s := s.stopLaunch k 12
        s.updSlot k (fun x => { x with launch := none })
      | none => s)
    | 4 => (match s.host.copies.find? (fun x => x.2.q == q && x.2.index == c.index) with
      | some p => (s.unissue (0x800 + p.1)).2.updHost (fun h => { h with copies := adel h.copies p.1 })
      | none => s)
    | _ => s) s
  let tags := (s.replayLeft q).filterMap (fun c => c.tag)
  let s := s.updHost (fun h => { h with tags := h.tags.filter (fun p => !tags.contains p.1) })
  s.updQueue q (fun x => { x with cmds := x.cmds.filter (fun c => !c.replay) })

/-- REPLAY_WD_EXPIRY: REPLAY_WD beats without a progress event end the replay (R517, R519). -/
def execReplayWdExpiry (s : State) : Host.Outcome State Fault Refusal :=
  match s.hang.replaying with
  | none => done s s
  | some q =>
    match s.replayLeft q with
    | [] => done s s
    | c :: _ =>
      if s.beat.toNat < (s.replayProgress q).toNat + s.replayWd then done s s
      else
        let s1 := s.updSuspect q (fun x => { x with
          replayed := true, verdict := 1, endIdx := c.index, endBeat := s.beat
          waitFlag := if cmdOp c.raw = 2 then s.namedFlag c.raw else none })
        done s ((s1.dropReplay q).endReplay q)

/-! ## Verdicts (R519 to R523) -/

/-- A fetched command of queue b with a higher index than i is a SET_FLAG that names flag n of this module (R520). -/
def State.setsLater (s : State) (b : Suspect) (n : Nat) : Bool :=
  let cs := (s.queue b.q).cmds ++ b.cmds
  cs.any (fun c => cmdOp c.raw == 3 && c.index != b.endIdx && decide ((c.index + 2 ^ 32 - b.endIdx) % 2 ^ 32 < 2 ^ 31)
    && s.namedFlag c.raw == some n)

/-- Whether two suspects form a MUTUAL_WAIT pair (R520). -/
def State.mutual (s : State) (a b : Suspect) : Bool :=
  match a.waitFlag, b.waitFlag with
  | some fa, some fb => a.q != b.q && a.verdict == 1 && b.verdict == 1 && s.setsLater b fa && s.setsLater a fb
  | _, _ => false

/-- Each suspect in queue order pairs with the lowest queue that is still unpaired (R520). -/
def State.pairSuspects (s : State) : State :=
  (s.hang.suspects.map (fun x => x.q)).foldl (fun s q =>
    match s.hang.suspects.find? (fun x => x.q == q) with
    | none => s
    | some a =>
      match s.hang.suspects.find? (fun b => s.mutual a b) with
      | none => s
      | some b => (s.updSuspect a.q (fun x => { x with verdict := 2, partner := b.q })).updSuspect b.q (fun x =>
          { x with verdict := 2, partner := a.q })) s

/-- Cycles of the always-on clock in a second (R289, R537). -/
def alwaysOnHz : Nat := 50000000

/-- Escalation (R522): the counted resets within WINDOW_S of the last. -/
def State.escalate (s : State) : State :=
  let w := max 1 (fld s.hang.escCfg 8 16) * alwaysOnHz
  let ts := match s.hang.resetTimes.getLast? with
    | none => []
    | some l => s.hang.resetTimes.filter (fun t => decide (l.toNat ≤ t.toNat + w))
  let limit := fld s.hang.escCfg 0 8
  s.updHang (fun h => { h with
    resetTimes := ts, status := setFld h.status 29 8 (min 255 ts.length)
    oosDue := h.oosDue || (limit != 0 && decide (limit ≤ ts.length)) })

/-- HANG_VERDICTS: after the last replay the verdicts are given, the report is completed and copied to flash, the queues of GUILTY and
MUTUAL_WAIT suspects block, and the handling ends (R506, R507, R519 to R522). -/
def execHangVerdicts (s : State) : Host.Outcome State Fault Refusal :=
  if !s.replayReady then done s s
  else
    let s0 := s.skipSuspects
    if s0.hang.suspects.any (fun x => !x.replayed) then done s s
    else
      let s1 := s0.pairSuspects
      let xs := s1.hang.suspects
      let n := fun (v : Nat) => min 255 (xs.filter (fun x => x.verdict == v)).length
      let s2 := s1.putReport
      let s3 := xs.foldl (fun s x =>
        if x.verdict = 1 ∨ x.verdict = 2 then s.updQueue x.q (fun y => if y.st = 1 then { y with st := 2 } else y) else s) s2
      let s4 := (s3.updHang (fun h => { h with
        status := setFld (setFld (setBit (setFld h.status 0 2 0) 2 true) 13 8 (n 1)) 21 8 (n 2), suspects := []
        endedAt := some s.beat })).escalate
      let s5 := s4.bufHeader
      done s ({ s5 with flash := { s5.flash with dumps := aput s5.flash.dumps s5.hang.dumpSlot s5.hang.buffer } }.updHang (fun h =>
        { h with dumpSlot := (h.dumpSlot + 1) % 4 }))

/-- The module enters OUT_OF_SERVICE at the boundary after an escalation, and flash keeps the record (R522, R523). -/
def State.enterOos (s : State) : State :=
  if s.hang.oosDue then
    { s.updHang (fun h => { h with oosDue := false, coldSince := false, status := setBit h.status 3 true }) with
      flash := { s.flash with outOfService := true } }
  else s

/-- A write of ADMIT acts: it leaves OUT_OF_SERVICE after a COLD reset (R523). -/
def State.admitAct (s : State) : State :=
  if s.outOfService ∧ s.hang.coldSince then
    { s.updHang (fun h => { h with coldSince := false, status := setBit h.status 3 false }) with
      flash := { s.flash with outOfService := false } }
  else s
/-- ADMIT. -/
def execAdmit (s : State) : Host.Outcome State Fault Refusal := done s s.admitAct

end Sys2Proof.Machine
end

