-- ==== Sys2Proof/Machine/Power.lean ====
section
/-! DEFINITION. Power, coolant and the governor (R542 to R551), start-up (R552 to R557), keys, attestation, certificates and the flash
copy (R558 to R561). -/

namespace Sys2Proof.Machine

/-- The power part of the state changed. -/
def State.updPower (s : State) (f : Power → Power) : State := { s with power := f s.power }
/-- CROWN_ENV_STATUS with a field set. -/
def State.setEnv (s : State) (lo len v : Nat) : State := s.updPower (fun p => { p with env := setFld p.env lo len v })
/-- CROWN_BOOT_STATUS.STAGE (R552). -/
def State.stage (s : State) : Nat := fld s.power.boot 0 4
/-- CROWN_PWR_STATUS.TILE_MHZ. -/
def State.tileMhz (s : State) : Nat := fld s.power.pwrStatus 16 12

/-! ## The governor (R549 to R551) -/

/-- CAP_W, within 3,000 to 7,500. -/
def State.capW (s : State) : Nat := min 7500 (max 3000 (fld s.power.pwrCfg 0 16))
/-- DIE_THROTTLE in 0.25 °C, within 80 to 105 °C. -/
def State.throttleQ (s : State) : Nat := 4 * min 105 (max 80 (fld s.power.pwrCfg 16 8))
/-- UP_HOLD_MS in µs; 0 acts as 1. -/
def State.upHoldUs (s : State) : Nat := 1000 * max 1 (fld s.power.pwrCfg 24 8)
/-- MAX_MHZ, rounded down to a multiple of 100 within 700 to 1,400. -/
def State.maxMhz (s : State) : Nat := min 1400 (max 700 (fld s.power.pwrCfg 32 12 / 100 * 100))

/-- A step's drop in A is measured 1 ms after it. -/
def State.measureDelta (s : State) : State :=
  match s.power.pendDelta with
  | some (f, t, a) =>
    if t + 1000 ≤ s.power.nowUs then
      s.updPower (fun p => { p with pendDelta := none, delta := aput p.delta f ((a : Int) - (fld p.pwrStatus 0 16 : Nat)) })
    else s
  | none => s

/-- delta[f], or 400 where it is undefined. -/
def State.deltaOf (s : State) (f : Nat) : Int := (afind s.power.delta f).getD 400

/-- The tile clock steps to f. -/
def State.stepClock (s : State) (f : Nat) : State :=
  let down := decide (f < s.tileMhz)
  s.updPower (fun p =>
    let v := setFld p.pwrStatus 16 12 f
    { p with pwrStatus := if down then addFld v 32 16 1 else v, lastChange := p.nowUs })

/-- LIMIT of CROWN_PWR_STATUS: what holds the clock where it is (log 70). -/
def State.limitNow (s : State) : Nat :=
  let a := fld s.power.pwrStatus 0 16
  let die := fld s.power.env 24 12
  let f := s.tileMhz
  let isOver := decide (s.capW < a) || decide (s.throttleQ ≤ die)
  if isOver ∧ f ≤ 700 then 4
  else if s.capW < a then 1
  else if s.throttleQ ≤ die then 2
  else if f < s.maxMhz then (if s.throttleQ ≤ die + 20 then 2 else if (s.capW : Int) < a + s.deltaOf f then 1 else 0)
  else if s.maxMhz < 1400 then 3 else 0

/-- The governor's decision on the tile clock (R549). -/
def State.governor (s : State) : State :=
  let s := s.measureDelta
  let p := s.power
  let a := fld p.pwrStatus 0 16
  let die := fld p.env 24 12
  let f := s.tileMhz
  let since := p.nowUs - p.lastChange
  let isOver := decide (s.capW < a) || decide (s.throttleQ ≤ die)
  let s1 :=
    if isOver ∧ 1000 ≤ since ∧ 700 < f then
      (s.updPower (fun p => { p with delta := adel p.delta (f - 100), pendDelta := some (f - 100, p.nowUs, a) })).stepClock (f - 100)
    else if !isOver ∧ f < s.maxMhz ∧ s.upHoldUs ≤ since ∧ die + 20 < s.throttleQ ∧ (a : Int) + s.deltaOf f ≤ s.capW then
      s.stepClock (f + 100)
    else if s.maxMhz < f then s.stepClock s.maxMhz
    else s
  s1.updPower (fun p => { p with pwrStatus := setFld p.pwrStatus 28 3 s1.limitNow })

/-- POWER_SAMPLE: every 10 µs; A is the average of the newest 100 samples (R549). CROWN_UPTIME advances with the samples' time, 50
cycles a µs (R537, log 73). -/
def execPowerSample (watts nowUs : Nat) (s : State) : Host.Outcome State Fault Refusal :=
  let l := (watts :: s.power.samples).take 100
  let a := l.foldl (· + ·) 0 / l.length
  let s1 := s.updPower (fun p =>
    let v := setFld p.pwrStatus 0 16 a
    { p with samples := l, nowUs := nowUs, uptime := p.uptime + BitVec.ofNat 64 (50 * (nowUs - p.nowUs)), pwrStatus := setFld v 48 16 (max (fld v 48 16) (min watts 0xFFFF)) })
  let s2 := s1.measureDelta
  done s (if s2.synced then s2 else s2.governor)

/-- DIE_TEMP_SAMPLE: the hottest junction; 110 °C raises DIE_OVERTEMP (R476, R549, R551). The manual gives the sensors no numbers: the
INDEX is free (log 5). -/
def execDieTempSample (temp : Nat) (s : State) : Host.Outcome State Fault Refusal :=
  let s1 := s.setEnv 24 12 (min temp 0xFFF)
  if temp < 440 then done s s1
  else
    let (v, s2) := s1.free
    done s (s2.fault .dieOvertemp .sensor (v.toNat % 2 ^ 20))

/-! ## Input, rails and coolant (R542 to R546, R476) -/

/-- The main converter stops: every rail but the always-on domain's falls (R542). -/
def State.mainStop (s : State) : State :=
  let s := s.updPower (fun p => { p with mainOn := false, powerGood := false, stopAtBoundary := false })
  { s with
    regions := []
    mem := { s.mem with chans := [] }
    fab := { s.fab with ports := s.signals }
    host := { s.host with busMaster := false, link := .detectQuiet } }

/-- INPUT_MV and INPUT_WARN (R542, R564). -/
def State.inputMv (s : State) (mv : Nat) : State :=
  (s.setEnv 36 17 (min mv 0x1FFFF)).setEnv 54 1 (b1 (decide (40000 ≤ mv) && decide (mv < 42000) && s.power.mainOn))

/-- INPUT_UNDERVOLTAGE: below 40.0 V for 5 µs; the converter stops at the end of hold-up, in the model at the next boundary (R542, R543,
log 71). -/
def execInputUndervoltage (mv : Nat) (s : State) : Host.Outcome State Fault Refusal :=
  let s1 := s.inputMv mv
  if mv < 40000 ∧ s.power.mainOn then
    done s ((s1.fault .powerRail .rail 0 (BitVec.ofNat 64 mv)).updPower (fun p => { p with stopAtBoundary := true }))
  else done s s1

/-- INPUT_OVERVOLTAGE: above 58.0 V for 5 µs; the converter stops at once (R542). -/
def execInputOvervoltage (mv : Nat) (s : State) : Host.Outcome State Fault Refusal :=
  let s1 := s.inputMv mv
  if 58000 < mv ∧ s.power.mainOn then done s ((s1.fault .powerRail .rail 0 (BitVec.ofNat 64 mv)).mainStop) else done s s1

/-- INPUT_WARN: a sample of the input voltage (R542). -/
def execInputWarn (mv : Nat) (s : State) : Host.Outcome State Fault Refusal := done s (s.inputMv mv)

/-- PWR_EN: the pin; low raises POWER_RAIL and stops the converter at the next boundary, or at once while no beats are counted (R531,
R544). -/
def execPwrEn (high : Bool) (s : State) : Host.Outcome State Fault Refusal :=
  let s1 := s.updPower (fun p => { p with pwrEnPin := high })
  if high ∨ !s.power.mainOn then done s s1
  else
    let s2 := s1.fault .powerRail .rail 0 (BitVec.ofNat 64 (fld s.power.env 36 17))
    done s (if s.synced then s2.updPower (fun p => { p with stopAtBoundary := true }) else s2.mainStop)

/-- POWER_RAIL: a rail outside ±10 % (R476). -/
def execPowerRail (rail mv : Nat) (s : State) : Host.Outcome State Fault Refusal :=
  done s (s.fault .powerRail .rail rail (BitVec.ofNat 64 mv))

/-- INLET, FLOW and COOLANT_WARN (R546, R564). -/
def State.inlet (s : State) (t : Nat) : State :=
  (s.setEnv 0 12 (min t 0xFFF)).setEnv 53 1 (b1 (decide (160 ≤ t) && decide (t ≤ 180)))

/-- COOLANT: a reading that has held for 1 s; an inlet above 45 °C or a flow below 9 L/min is a fault (R476, R546). The manual gives the
sensors no numbers: the INDEX is free (log 5). -/
def execCoolant (inlet flow : Nat) (s : State) : Host.Outcome State Fault Refusal :=
  let s1 := (s.inlet inlet).setEnv 12 12 (min flow 0xFFF)
  if 180 < inlet ∨ flow < 900 then
    let (v, s2) := s1.free
    done s (s2.fault .coolant .sensor (v.toNat % 2 ^ 20))
  else done s s1

/-- COOLANT_WARN (R546). -/
def execCoolantWarn (inlet : Nat) (s : State) : Host.Outcome State Fault Refusal := done s (s.inlet inlet)

/-- PLL_UNLOCK: a region's PLL loses lock in RUN (R476). -/
def execPllUnlock (region : Nat) (s : State) : Host.Outcome State Fault Refusal :=
  if region < Config.regions ∧ (s.region region).st = 0 then
    done s ((s.updRegion region (fun r => { r with lock := false })).fault .pllUnlock .region region)
  else done s s

/-! ## Start-up (R552 to R557) -/

/-- Whether firmware slot i is valid, and its version (R555). -/
def State.fwSlot (s : State) (i : Nat) : Bool × Nat :=
  match afind s.flash.firmware i with
  | some bs => (Config.firmwareSigned bs, (Config.firmwareVersion bs).toNat)
  | none => (s.flash.fwValid.contains i, (aget 0 s.flash.fwVersion i).toNat)

/-- The slot that the ROM starts: the valid one with the higher version, A when both are equal (R555). -/
def State.fwChoice (s : State) : Option Nat :=
  let a := s.fwSlot 0
  let b := s.fwSlot 1
  if a.1 ∧ (!b.1 ∨ b.2 ≤ a.2) then some 0 else if b.1 then some 1 else none

/-- The FAIL codes of a stage (R552). -/
def stageFails : Nat → List Nat
  | 1 => [1] | 2 => [2, 3] | 3 => [4] | 4 => [5] | 5 => [6] | 6 => [7] | 7 => [8] | _ => []

/-- CFG_SECURE.KEYS_VALID from flash. -/
def State.keysValid (s : State) : Nat := (List.range 4).foldl (fun m k => if (afind s.flash.keys k).isSome then m + 2 ^ k else m) 0

/-- The work of a stage is done and the next one begins (R552). -/
def State.stageDone (s : State) (n : Nat) : State :=
  let next := fun (s : State) (k : Nat) => s.updPower (fun p => { p with boot := setFld p.boot 0 4 k })
  match n with
  | 0 => next s 1
  | 1 =>
    (match s.fwChoice with
    | none => s.updPower (fun p => { p with boot := setFld p.boot 4 8 1 })
    | some i => next (s.updPower (fun p => { p with boot := setFld (setFld p.boot 12 1 i) 32 32 (s.fwSlot i).2 })) 2)
  | 2 => next { s with cfg := { s.cfg with secure := setFld (setBit 0 0 s.flash.policyRecord) 1 4 s.keysValid } } 3
  | 3 => if 900 ≤ fld s.power.env 12 12 ∧ fld s.power.env 0 12 ≤ 180 then next s 4 else s
  | 4 =>
    if s.power.pwrEnPin ∧ 42000 ≤ fld s.power.env 36 17 then
      next { s.updPower (fun p => { p with mainOn := true }) with
        mem := { s.mem with chans := tab Config.channels (fun c => (c, ({ st := 1 } : Chan))) } } 5
    else s
  | 5 =>
    let s := { s with mem := { s.mem with chans := s.mem.chans.map (fun c => (c.1, if c.2.st = 1 then { c.2 with st := 2 } else c.2)) } }
    let s := (List.range 12).foldl (fun s k => s.updStack k (fun x => { x with counting := true })) s
    let s := if s.power.powerGood then s else { s with memWipe := true, memLog := [], mem := { s.mem with marks := [] } }
    next s 6
  | 6 =>
    next { s with
      tiles := [], tileDef := {}, lsWipe := true, lsLog := [], lsMarks := []
      host := { s.host with flags := [], flagMarks := [] } } 7
  | 7 => next ((List.range Config.ports).foldl State.tryTrain s) (if s.power.powerGood then 9 else 8)
  | 8 => next ((s.updPower (fun p => { p with powerGood := true })).linkRelease) 9
  | _ => s

/-- BOOT_STAGE_COMPLETE: the stage is complete, or start-up stops with FAIL and POWER_GOOD low (R552). -/
def execBootStageComplete (ok : Bool) (failCode : Nat) (s : State) : Host.Outcome State Fault Refusal :=
  let n := s.stage
  if fld s.power.boot 4 8 ≠ 0 ∨ 9 ≤ n then done s s
  else if ok then done s (s.stageDone n)
  else if (stageFails n).contains failCode then
    let s1 := if n = 5 then
        { s with mem := { s.mem with chans := s.mem.chans.map (fun c => (c.1, if c.2.st = 1 then { c.2 with st := 5 } else c.2)) } }
      else s
    done s (s1.updPower (fun p => { p with boot := setFld p.boot 4 8 failCode, powerGood := false }))
  else done s s

/-- COLD_START: power at J1 with PWR_EN high starts the Crown controller from ROM (R552). -/
def execColdStart (s : State) : Host.Outcome State Fault Refusal :=
  done s (s.coldState.updPower (fun p => { p with pwrEnPin := true }))

/-! ## Keys (R558) -/

/-- RESULT of CROWN_KEY_CTRL. -/
def State.keyResult (s : State) (r : Nat) : State := s.updPower (fun p => { p with keyCtrl := setFld p.keyCtrl 4 3 r })

/-- Whether a global address is in this module's stack memory. -/
def State.ownMem (s : State) (a : W64) : Bool := gaSpace a == 0 && gaModule a == s.moduleId

/-- GO of CROWN_KEY_CTRL acts: INSTALL reads the point and REMOVE names the slot, and the operation runs, or RESULT says why not. A point
that cannot be read is no point on the curve. -/
def State.keyGo (s : State) (remove : Bool) : State :=
  let slot := fld s.power.keyCtrl 0 2
  let held := (afind s.flash.keys slot).isSome
  if s.power.keyRun.isSome then s.keyResult 6
  else if bitOf s.cfg.secure 0 then s.keyResult 2
  else if remove then
    (if held then (s.keyResult 0).updPower (fun p => { p with keyRun := some (slot, []) }) else s.keyResult 5)
  else if held then s.keyResult 3
  else
    let (bs, e, s) := s.rdMem (gaOff s.power.keyAddr) 64
    if e.isSome ∨ !s.ownMem s.power.keyAddr ∨ !smOnCurve (ofBe (bs.take 32)) (ofBe (bs.drop 32)) then s.keyResult 4
    else (s.keyResult 0).updPower (fun p => { p with keyRun := some (slot, bs) })
/-- INSTALL. -/
def execInstall (s : State) : Host.Outcome State Fault Refusal := done s (s.keyGo false)
/-- REMOVE. -/
def execRemove (s : State) : Host.Outcome State Fault Refusal := done s (s.keyGo true)

/-- KEY_OPERATION_DONE: the key slot is written or erased, and RESULT reads DONE. -/
def execKeyOperationDone (s : State) : Host.Outcome State Fault Refusal :=
  match s.power.keyRun with
  | none => done s s
  | some (k, bs) =>
    let s1 := { s with flash := { s.flash with keys := if bs.isEmpty then adel s.flash.keys k else aput s.flash.keys k bs } }
    let s2 := { s1 with cfg := { s1.cfg with secure := setFld s1.cfg.secure 1 4 s1.keysValid } }
    done s ((s2.keyResult 1).updPower (fun p => { p with keyRun := none }))

/-! ## Attestation and certificates (R559, R560) -/

/-- FW_DIGEST of the running firmware. -/
def State.fwDigest (s : State) : List Byte :=
  let i := fld s.power.boot 12 1
  match afind s.flash.firmware i with
  | some bs => sm3 bs
  | none => leBytes 32 (Config.firmwareDigest i).toNat

/-- Bytes 0 to 255 of the report on the state now (R559). -/
def State.attBytes (s : State) : List Byte :=
  let p := s.power
  let keys := (List.range 4).flatMap (fun k => match afind s.flash.keys k with
    | some bs => sm3 bs
    | none => List.replicate 32 0#8)
  [0x50#8, 0x58#8, 0x41#8, 0x54#8] ++ leBytes 2 1 ++ leBytes 1 (fld s.cfg.secure 0 1 + fld s.cfg.activeInfo 16 1 * 2) ++ leBytes 1 0
    ++ leBytes 8 Config.serial.toNat ++ s.fwDigest ++ leBytes 32 s.cfg.activeDigest.toNat ++ sm3 Config.calibration ++ sm3 keys
    ++ leBytes 8 p.nonce0.toNat ++ leBytes 8 p.nonce1.toNat ++ leBytes 8 p.nonce2.toNat ++ leBytes 8 p.nonce3.toNat
    ++ leBytes 8 (if s.synced then s.esc.beat.toNat else 0) ++ leBytes 8 p.uptime.toNat ++ List.replicate 64 0#8

/-- GO of CROWN_ATT_CTRL acts: nonce and state are latched; while BUSY it is ignored. -/
def State.attGo (s : State) : State :=
  if fld s.power.attCtrl 1 2 = 1 then s
  else s.updPower (fun p => { p with attCtrl := setFld p.attCtrl 1 2 1, attReport := some s.attBytes })
/-- A GO that acts at a boundary latches the state after order 4, a COMMIT of that boundary included; the nonce stays the one that it
latched (R559). -/
def State.attLatch (s old : State) : State :=
  if fld old.power.attCtrl 1 2 = 1 ∨ fld s.power.attCtrl 1 2 ≠ 1 then s
  else s.updPower (fun p => { p with attReport := p.attReport.map (fun bs => s.attBytes.take 144 ++ (bs.drop 144).take 32 ++ s.attBytes.drop 176) })
/-- ATTESTATION_GO. -/
def execAttestationGo (s : State) : Host.Outcome State Fault Refusal := done s s.attGo

/-- Bytes written at an address of the module's stack memory; whether all of them were. -/
def State.crownWrite (s : State) (a : W64) (bs : List Byte) : Bool × State :=
  if s.ownMem a then let (e, s) := s.wrMem (gaOff a) bs
                     (e.isNone, s)
  else (false, s)

/-- ATTESTATION_REPORT_DONE: the report and its signature are written at CROWN_ATT_ADDR. -/
def execAttestationReportDone (s : State) : Host.Outcome State Fault Refusal :=
  match s.power.attReport with
  | none => done s s
  | some bs =>
    let (r, v) := Config.identitySign bs
    let (ok, s1) := s.crownWrite s.power.attAddr (bs ++ leBytes 32 r.toNat ++ leBytes 32 v.toNat)
    done s (s1.updPower (fun p => { p with attReport := none, attCtrl := setFld p.attCtrl 1 2 (if ok then 2 else 3) }))

/-- GO of CROWN_CERT_CTRL acts: the certificate is written, LENGTH and STATE are set; a reserved INDEX fails (log 72). -/
def State.certGo (s : State) : State :=
  let i := fld s.power.certCtrl 0 2
  let set := fun (s : State) (st n : Nat) => s.updPower (fun p => { p with certCtrl := setFld (setFld p.certCtrl 3 2 st) 16 16 n })
  if i = 3 then set s 3 0
  else
    let bs := Config.certificate i
    let (ok, s) := s.crownWrite s.power.attAddr bs
    if ok then set s 2 bs.length else set s 3 0
/-- CERTIFICATE_GO. -/
def execCertificateGo (s : State) : Host.Outcome State Fault Refusal := done s s.certGo

/-! ## The flash copy (R561) -/

/-- STATE of CROWN_FLASH_CTRL. -/
def State.flashState (s : State) (v : Nat) : State := s.updPower (fun p => { p with flashCtrl := setFld p.flashCtrl 6 2 v })

/-- Bytes that the copy from `src` to flash slot k takes: IMAGE_BYTES of the image's header, or a firmware slot's 8 MiB. -/
def State.flashLen (s : State) (k : Nat) (src : W64) : Nat × Option DropCause × State :=
  if k < 16 then
    let (h, e, s) := s.rdMem (gaOff src) 64
    (leAt h 16 8, e, s)
  else (2 ^ 23, none, s)

/-- GO of CROWN_FLASH_CTRL acts: the slot reads as empty until the copy ends; a copy that may not run ends FAILED, and one that finds a
tier-2 CHECKPOINT waits for its end (log 72). -/
def State.flashGo (s : State) : State :=
  let k := fld s.power.flashCtrl 0 5
  if fld s.power.flashCtrl 6 2 = 1 then s
  else
    let (n, e, s) := s.flashLen k s.power.flashSrc
    if 17 < k ∨ (16 ≤ k ∧ k - 16 = fld s.power.boot 12 1) ∨ e.isSome ∨ !s.ownMem s.power.flashSrc ∨ 2 ^ 31 < n then s.flashState 3
    else
      let after := match s.ras.run with | some r => if r.tier = 2 then some (r.q, r.index) else none | none => none
      let f := s.flash
      let f := if k < 16 then { f with images := adel f.images k }
        else { f with firmware := adel f.firmware (k - 16), fwValid := f.fwValid.erase (k - 16) }
      ({ s with flash := f }.flashState 1).updPower (fun p => { p with flashAfter := after, flashRun := some (k, p.flashSrc) })
/-- FLASH_COPY_GO. -/
def execFlashCopyGo (s : State) : Host.Outcome State Fault Refusal := done s s.flashGo

/-- FLASH_COPY_DONE: the copy ends, once a CHECKPOINT that started before it has ended. -/
def execFlashCopyDone (s : State) : Host.Outcome State Fault Refusal :=
  let waits : Bool := match s.power.flashAfter, s.ras.run with
    | some a, some r => r.tier == 2 && a == (r.q, r.index)
    | _, _ => false
  match s.power.flashRun with
  | none => done s s
  | some (k, src) =>
    if fld s.power.flashCtrl 6 2 ≠ 1 ∨ waits then done s s
    else
      let (n, e1, s1) := s.flashLen k src
      let (bs, e2, s2) := s1.rdMem (gaOff src) n
      let s3 := s2.updPower (fun p => { p with flashAfter := none, flashRun := none })
      if e1.isSome ∨ e2.isSome then done s (s3.flashState 3)
      else
        let f := s3.flash
        let f := if k < 16 then { f with images := aput f.images k bs } else { f with firmware := aput f.firmware (k - 16) bs }
        done s ({ s3 with flash := f }.flashState 2)

end Sys2Proof.Machine
end

