-- ==== Sys2Proof/Machine/Registers.lean ====
section
/-! DEFINITION. Register writes and reads (chapter 17): how each register's write acts (R18, R19, R532), the slice locks (R533), what a
read clears (R532), and the paths of R529: BAR0, the host window (R444, R445), the debug ring and the SMBus sideband (R541). -/

namespace Sys2Proof.Machine

/-! ## Writes by block -/

/-- A write that a lock of R264 ignores. -/
def State.policyLocked (s : State) : State :=
  { s with train := { s.train with stepRing := setBit s.train.stepRing 48 true } }

/-- The training registers written without regard to a lock (R264): THRESHOLD takes no 0. -/
def State.writeTrain (s : State) (o : Nat) (v : W64) : State :=
  let t := s.train
  match o with
  | 0x40 => { s with train := { t with ratchetCtrl := rw t.ratchetCtrl (maskOf 0 40) v } }
  | 0x50 => { s with train := { t with scaleCtrl := rw t.scaleCtrl (maskOf 0 40) v } }
  | 0x68 =>
    let m := if fld v 0 16 = 0 then maskOf 16 2 else maskOf 0 18
    { s with train := { t with deadCtrl := rw t.deadCtrl m v } }
  | 0x70 => { s with train := { t with stepBase := v } }
  | 0x78 => { s with train := { t with stepRing := rw t.stepRing (maskOf 0 16) v } }
  | _ => s

/-- NUM_ (R150, R264). -/
def State.writeNum (s : State) (o : Nat) (v : W64) : State :=
  if o = 0 then
    let s := { s with nan := { s.nan with ctrl := rw s.nan.ctrl (maskOf 0 1) v } }
    if bitOf v 1 then s.nanRearm else s
  else if o = 0x40 ∨ o = 0x50 ∨ o = 0x68 ∨ o = 0x70 ∨ o = 0x78 then
    let s := if o = 0x78 then { s with train := { s.train with stepRing := w1c s.train.stepRing (maskOf 48 1) v } } else s
    if s.outside then s.policyLocked else s.writeTrain o v
  else s

/-- ESC_PERIOD_CFG's RW fields (R295). -/
def periodCfgMask : W64 := maskOf 0 39 ||| maskOf 40 24

/-- ESC_ (R294, R295). -/
def State.writeEsc (s : State) (o : Nat) (v : W64) : State :=
  let locked := fun (t : State) => if s.outside then s.escLocked else t
  match o with
  | 0x10 => s.updEsc (fun e => { e with beatCfg := rw e.beatCfg (maskOf 16 16) v })
  | 0x18 => s.escBeatChange v
  | 0x20 => locked (let s := if bitOf v 0 then s.escArm else s
                    if bitOf v 1 then s.escDisarm else s)
  | 0x28 => locked (s.updEsc (fun e => { e with syncLoad := v }))
  | 0x30 => s.updEsc (fun e => { e with status := w1c e.status (maskOf 5 3) v })
  | 0x38 => locked (s.updEsc (fun e => { e with periodCfg := rw e.periodCfg periodCfgMask v })).lateNow
  | 0x40 => locked (s.updEsc (fun e => { e with anchor := v }))
  | 0x48 => locked (s.updEsc (fun e => { e with first := v }))
  | 0x78 => s.escHsCfg v
  | 0x80 => s.updEsc (fun e => { e with hsStatus := w1c e.hsStatus (maskOf 35 1) v })
  | 0x90 => s.updEsc (fun e => { e with wakeCfg := rw e.wakeCfg (maskOf 0 41) v })
  | _ => s

/-- MEM_ module-wide (R322, R323). -/
def State.writeMem (s : State) (o : Nat) (v : W64) : State :=
  match o with
  | 0x00 => if s.outside then s.memLocked else { s with mem := { s.mem with cfg := rw s.mem.cfg (maskOf 0 32) v } }
  | 0x08 => if s.outside then s.memLocked else { s with mem := { s.mem with thermCfg := rw s.mem.thermCfg (maskOf 0 24) v } }
  | 0x10 => { s with mem := { s.mem with status := w1c s.mem.status (maskOf 25 1) v } }
  | _ => s

/-- MEM_TG_CTRL's RW fields (R323). -/
def tgCtrlMask : W64 := maskOf 1 6 ||| maskOf 8 39
/-- MEM_TG_RANGE's RW fields. -/
def tgRangeMask : W64 := maskOf 0 24 ||| maskOf 32 24

/-- MEM_CH_ and MEM_TG_ of a channel (R319 to R323). -/
def State.writeChan (s : State) (ch o : Nat) (v : W64) : State :=
  if Config.channels ≤ ch then s
  else match o with
    | 0x08 =>
      let s := if bitOf v 0 then s.testEnterCh ch else s
      if bitOf v 1 then s.testExitCh ch else s
    | 0x10 => s.updChan ch (fun x => { x with ecc := w1c x.ecc (maskOf 16 2) v })
    | 0x20 =>
      let s := s.updChan ch (fun x => { x with tgCtrl := rw x.tgCtrl tgCtrlMask v })
      let s := if bitOf v 7 then s.tgHalt ch else s
      if bitOf v 0 then s.tgStart ch else s
    | 0x28 => s.updChan ch (fun x => { x with tgRange := rw x.tgRange tgRangeMask v })
    | _ => if 0x30 ≤ o ∧ o < 0x70 then s.updChan ch (fun x => { x with tgUser := aset 0 x.tgUser ((o - 0x30) / 8) v }) else s

/-- FAB_P_ of a port (R332, R335, R365, R368). -/
def State.writePort (s : State) (p o : Nat) (v : W64) : State :=
  if Config.ports ≤ p then s
  else match o with
    | 0x08 =>
      let on := bitOf v 0
      let s := if !on ∧ ((s.port p).enable ∨ (s.port p).st ≠ 0) then s.portDisable p
        else if on ∧ !(s.port p).enable then (s.updPort p (fun x => { x with enable := true })).tryTrain p else s
      let s := if bitOf v 1 then s.portRetrain p else s
      let s := if bitOf v 2 then s.portTest p else s
      if bitOf v 3 then s.portTestExit p else s
    | 0x10 => s.portPeer p v
    | 0x30 => s.updPort p (fun x => { x with prbs := rw x.prbs (maskOf 0 13) v })
    | _ => s

/-- FAB_ module-wide and FAB_P_: the ID of a store gateway is no MODULE_ID, and a new MODULE_ID is compared anew on the ports in IDENT (R333,
R338, R353, R354, R364 to R366). -/
def State.writeFab (s : State) (o : Nat) (v : W64) : State :=
  let f := s.fab
  match o with
  | 0x00 =>
    if s.outside then s.fabBit 6 true
    else
      let mask := if 16128 ≤ fld v 0 14 then maskOf 14 30 else maskOf 0 44
      (List.range Config.ports).foldl State.checkPeer { s with fab := { f with id := rw f.id mask v } }
  | 0x08 =>
    let s := if bitOf v 0 then s.drainStart else s
    let s := if bitOf v 1 then s.rtApply else s
    let s := if bitOf v 2 then s.resumeAct else s
    if bitOf v 3 then s.dropRearm else s
  | 0x10 => { s with fab := { f with status := w1c f.status (maskOf 3 4) v } }
  | 0x20 => if s.outside then s.fabBit 6 true else { s with fab := { f with ccCfg := rw f.ccCfg (maskOf 0 56) v } }
  | 0x28 => { s with fab := { f with txnCfg := rw f.txnCfg (maskOf 0 36) v } }
  | _ => if 0x1000 ≤ o then s.writePort ((o - 0x1000) / 0x100) ((o - 0x1000) % 0x100) v else s

/-- A write to a shadow table from outside the loader: ignored between a COMMIT's evaluation and its beat (R428); otherwise it discards a
staging (R424). -/
def State.shadowTable (s : State) (f : Fab → Fab) : State :=
  if s.cfg.commit.isSome then s.fabBit 6 true
  else let s := s.shadowWritten
       { s with fab := f s.fab }

/-- CFG_SLICE_ and CFG_COLL_ (R372, R385, R410). -/
def State.writeSlice (s : State) (o : Nat) (v : W64) : State :=
  let x := s.slice
  let locked := fun (t : State) => if s.outside then { s with slice := { x with status := setBit x.status 44 true } } else t
  match o with
  | 0x00 => locked { s with slice := { x with cfg := rw x.cfg (maskOf 0 34) v } }
  | 0x08 => locked { s with slice := { x with tableBase := v } }
  | 0x10 =>
    let s := if bitOf v 0 then s.joinAct else s
    if bitOf v 1 then s.leaveAct else s
  | 0x18 => { s with slice := { x with status := w1c x.status (maskOf 31 1 ||| maskOf 44 1) v } }
  | 0x28 => locked { s with slice := { x with step := v } }
  | 0x38 => { s with slice := { x with collCfg := rw x.collCfg (maskOf 0 32) v } }
  | _ => s

/-- CFG_ image registers (R419, R425, R438, R439). -/
def State.writeCfg (s : State) (o : Nat) (v : W64) : State :=
  let busy := decide (1 ≤ s.loadSt) && decide (s.loadSt ≤ 4)
  match o with
  | 0x00 => if busy then s.loadResult 16 else s.updCfg (fun c => { c with loadSrc := rw c.loadSrc (maskOf 0 5) v })
  | 0x08 => if busy then s.loadResult 16 else s.updCfg (fun c => { c with loadAddr := v })
  | 0x10 =>
    let s := if bitOf v 0 then s.loadGo else s
    if bitOf v 1 then s.loadDiscard else s
  | 0x20 => if bitOf v 0 then s.setPolicy else s
  | _ => s

/-- HOST_ (R474). -/
def State.writeHost (s : State) (o : Nat) (v : W64) : State :=
  match o with
  | 0x00 => s.updHost (fun h => { h with winCfg := rw h.winCfg (maskOf 0 6 ||| maskOf 16 28) v })
  | 0x08 => s.updHost (fun h => { h with mirrorAddr := rw h.mirrorAddr (maskOf 12 52) v })
  | 0x10 => s.updHost (fun h => { h with mirrorCfg := rw h.mirrorCfg (maskOf 0 17) v })
  | 0x18 => s.updHost (fun h => { h with status := w1c h.status (maskOf 1 4) v })
  | _ => s

/-- RAS_ (R500, R501): REARM acts before HALT. -/
def State.writeRas (s : State) (o : Nat) (v : W64) : State :=
  match o with
  | 0x08 =>
    let s := if bitOf v 1 then s.rasRearm else s
    if bitOf v 0 then s.rasHalt else s
  | 0x38 => if s.outside then s else s.updRas (fun r => { r with ckptCfg := rw r.ckptCfg (maskOf 0 5) v })
  | _ => s

/-- CROWN_ hang and reset (R513, R523 to R525). -/
def State.writeHang (s : State) (o : Nat) (v : W64) : State :=
  match o with
  | 0x00 => s.updHang (fun h => { h with wdCfg := rw h.wdCfg (maskOf 0 48) v })
  | 0x08 => s.updHang (fun h => { h with status := w1c h.status (maskOf 2 1) v })
  | 0x20 => if bitOf v 24 then s.resetRequest (fld v 0 3) (fld v 8 16) else s
  | 0x30 => s.updHang (fun h => { h with escCfg := rw h.escCfg (maskOf 0 24) v })
  | 0x38 => if bitOf v 0 then s.admitAct else s
  | 0x40 => s.updHang (fun h => { h with dumpAddr := rw h.dumpAddr (maskOf 3 16) v })
  | _ => s

/-- CROWN_ power, identity and attestation (R558 to R564). -/
def State.writePower (s : State) (o : Nat) (v : W64) : State :=
  match o with
  | 0x00 => s.updPower (fun p => { p with pwrCfg := rw p.pwrCfg (maskOf 0 44) v })
  | 0x28 =>
    let s := s.updPower (fun p => { p with keyCtrl := rw p.keyCtrl (maskOf 0 3) v })
    if bitOf v 3 then s.keyGo (bitOf v 2) else s
  | 0x30 => s.updPower (fun p => { p with keyAddr := v })
  | 0x38 => if bitOf v 0 then s.attGo else s
  | 0x40 => s.updPower (fun p => { p with attAddr := v })
  | 0x48 => s.updPower (fun p => { p with nonce0 := v })
  | 0x50 => s.updPower (fun p => { p with nonce1 := v })
  | 0x58 => s.updPower (fun p => { p with nonce2 := v })
  | 0x60 => s.updPower (fun p => { p with nonce3 := v })
  | 0x68 =>
    let s := s.updPower (fun p => { p with certCtrl := rw p.certCtrl (maskOf 0 2) v })
    if bitOf v 2 then s.certGo else s
  | 0x70 => s.updPower (fun p => { p with flashSrc := v })
  | 0x78 =>
    let s := s.updPower (fun p => { p with flashCtrl := rw p.flashCtrl (maskOf 0 5) v })
    if bitOf v 5 then s.flashGo else s
  | _ => s

/-- A queue block (R450, R451, R474). -/
def State.writeQueue (s : State) (q o : Nat) (v : W64) : State :=
  match o with
  | 0x00 => s.qBase q true v
  | 0x08 => s.qBase q false v
  | 0x10 => s.qCfg q v
  | 0x18 => s.updQueue q (fun x => { x with overrun := x.overrun && !bitOf v 2, busy := x.busy && !bitOf v 3 })
  | _ => s

/-- The RW registers of CW_LD_ (R116). -/
def State.writeCwLd (s : State) (o : Nat) (v : W64) : State :=
  let c := s.cwld
  match o with
  | 0x00 => { s with cwld := { c with target := rw c.target (maskOf 0 30) v } }
  | 0x08 => { s with cwld := { c with data0 := v } }
  | 0x10 => { s with cwld := { c with data1 := v } }
  | 0x18 => { s with cwld := { c with data2 := v } }
  | 0x20 => { s with cwld := { c with data3 := v } }
  | _ => s

/-- TILE_CTRL and TILE_ECC of a tile (R70, R73). -/
def State.writeTile (s : State) (t o : Nat) (v : W64) : State :=
  match o with
  | 0x08 =>
    let s := if bitOf v 0 then s.stopTile t else s
    if bitOf v 1 then s.clrStall t else s
  | 0x58 => s.updTile t (fun x => { x with
      eccUnc := x.eccUnc && !bitOf v 16, eccPar := x.eccPar && !bitOf v 17, eccRes := x.eccRes && !bitOf v 18 })
  | _ => s

/-- A write to a space-3 offset acts (R280, R526, R527, R532); CW_LD_CTRL acts with what its landing latched, in `actLanded`. -/
def State.writeReg (s : State) (off : Nat) (v : W64) : State :=
  let o := off % 0x10000
  if off % 8 ≠ 0 then s
  else match off / 0x10000 with
    | 1 => if 8 ≤ o ∧ o < 0x28 then s.updPower (fun p => { p with scratch := aset 0 p.scratch (o / 8 - 1) v }) else s
    | 2 => s.writeCwLd o v
    | 3 => s.writeNum o v
    | 4 => if o = 0 then { s with solvCtrl := rw s.solvCtrl (maskOf 0 1) v } else s
    | 5 => s.writeEsc o v
    | 6 => s.writeMem o v
    | 7 => s.writeFab o v
    | 0x20 => s.writeSlice o v
    | 0x21 => s.writeCfg o v
    | 0x22 => s.writeHost o v
    | 0x23 => s.writeRas o v
    | 0x24 => s.writeHang o v
    | 0x25 => s.writePower o v
    | 0x40 => s.qTail (o / 8) (BitVec.ofNat 32 v.toNat)
    | _ =>
      if 0xA0000 ≤ off ∧ off < 0xC0000 then
        s.shadowTable (fun f => { f with rts := aset 0 f.rts ((off - 0xA0000) / 8) (v &&& maskOf 0 43) })
      else if 0x180000 ≤ off ∧ off < 0x180000 + 8 * 1024 * Config.ports then
        let k := (off - 0x180000) / 8
        s.shadowTable (fun f => { f with cirs := aset 0 f.cirs k (v &&& cirMask (k % 4)) })
      else if 0x300000 ≤ off ∧ off < 0x340000 then s.writeQueue ((off - 0x300000) / 0x20) (off % 0x20) v
      else if 0x1000000 ≤ off ∧ off < 0x1080000 then s.writeChan ((off - 0x1000000) / 0x100) (off % 0x100) v
      else if 0x40000000 ≤ off ∧ off < 0x50000000 then s.writeTile ((off - 0x40000000) / 0x100) (off % 0x100) v
      else s

/-! ## Writes from an image (R429, R533) -/

/-- A register's value under a REG_WRITES triple. -/
def masked (old mask v : W64) : W64 := (old &&& ~~~mask) ||| (v &&& mask)

/-- A REG_WRITES triple acts: no slice lock holds it off (R429, R533). -/
def State.imageWrite (s : State) (off : Nat) (mask v : W64) : State :=
  let w := masked (s.regAt off) mask v
  match off with
  | 0x30000 => { s with nan := { s.nan with ctrl := rw s.nan.ctrl (maskOf 0 1) w } }
  | 0x50038 => (s.updEsc (fun e => { e with periodCfg := rw e.periodCfg periodCfgMask w })).lateNow
  | 0x50090 => s.updEsc (fun e => { e with wakeCfg := rw e.wakeCfg (maskOf 0 41) w })
  | 0x60000 => { s with mem := { s.mem with cfg := rw s.mem.cfg (maskOf 0 32) w } }
  | 0x60008 => { s with mem := { s.mem with thermCfg := rw s.mem.thermCfg (maskOf 0 24) w } }
  | 0x70020 => { s with fab := { s.fab with ccCfg := rw s.fab.ccCfg (maskOf 0 56) w } }
  | 0x70028 => { s with fab := { s.fab with txnCfg := rw s.fab.txnCfg (maskOf 0 36) w } }
  | 0x200038 => { s with slice := { s.slice with collCfg := rw s.slice.collCfg (maskOf 0 32) w } }
  | 0x230038 => s.updRas (fun r => { r with ckptCfg := rw r.ckptCfg (maskOf 0 5) w })
  | _ => if off / 0x10000 = 3 then s.writeTrain (off % 0x10000) w else s

/-! ## Reads (R532) -/

/-- The RC fields of the register at an offset clear. -/
def State.rcClear (s : State) (off : Nat) : State :=
  let o := off % 0x10000
  if off = 0x50070 then s.updEsc (fun e => { e with lateStats := 0 })
  else if 0x60100 ≤ off ∧ off < 0x60280 then
    let k := (o - 0x100) / 0x20
    (match (o - 0x100) % 0x20 with
    | 0 => s.updStack k (fun x => { x with therm := setFld x.therm 32 12 0 })
    | 8 => s.updStack k (fun x => { x with stats := 0 })
    | _ => s)
  else if off = 0x70048 then { s with fab := { s.fab with stats0 := 0 } }
  else if off = 0x70050 then { s with fab := { s.fab with stats1 := 0 } }
  else if 0x71000 ≤ off ∧ off < 0x71000 + 0x100 * Config.ports then
    let p := (o - 0x1000) / 0x100
    let r := (o - 0x1000) % 0x100
    (match r with
    | 0x20 => s.updPort p (fun x => { x with fec := 0 })
    | 0x28 => s.updPort p (fun x => { x with link := setFld x.link 0 48 0 })
    | _ =>
      if 0x38 ≤ r ∧ r < 0x78 then
        let k := (r - 0x38) / 8
        s.updPort p (fun x => { x with prbsErr := aset 0 x.prbsErr k (setFld (aget 0 x.prbsErr k) 0 32 0) })
      else s)
  else if off = 0x250008 then s.updPower (fun p => { p with pwrStatus := setFld p.pwrStatus 32 32 0 })
  else if 0x1000000 ≤ off ∧ off < 0x1000000 + 0x100 * Config.channels then
    let ch := (off - 0x1000000) / 0x100
    (match off % 0x100 with
    | 0x10 => s.updChan ch (fun x => { x with ecc := setFld x.ecc 0 16 0 })
    | 0x18 => s.updChan ch (fun x => { x with stats := setFld x.stats 0 48 0 })
    | _ => s)
  else if 0x40000000 ≤ off ∧ off < 0x50000000 ∧ off % 0x100 = 0x58 then
    s.updTile ((off - 0x40000000) / 0x100) (fun x => { x with eccCorr := 0 })
  else if 0x50000000 ≤ off ∧ off < 0x50001000 ∧ off % 16 = 0 then
    s.updRegion ((off - 0x50000000) / 16) (fun x => { x with wakes := 0 })
  else s

/-- A value returns to a reader. -/
def State.returns (s : State) (p : Path) (off : Nat) (v : W64) : State :=
  let r : ReadOut := { path := p, offset := off, value := v }
  s.updHost (fun h => { h with reads := h.reads ++ [r] })

/-- ESC_RC_COUNT at a moment of the present beat: the cycles since its start are free, and so are those since the last pulse while beats are
not counted; without the reference the count stands (R266, log 94). -/
def State.readCount (s : State) (p : Path) : State :=
  let (v, t) := s.free
  let c := if s.synced then BitVec.ofNat 64 (v.toNat % max 1 (s.beatLength s.beat)) else v
  if bitOf s.esc.status 0 then t.returns p 0x50008 (s.esc.rcCount + c) else s.returns p 0x50008 s.esc.rcCount

/-- A register is read: only BAR0 and window reads clear RC fields; CROWN_DUMP_DATA advances (R525, R532). -/
def State.readReg (s : State) (p : Path) (off : Nat) : State :=
  if off = 0x240048 then s.readDump p
  else if off = 0x50008 then s.readCount p
  else
    let t := s.returns p off (s.reg3 off)
    if p = .bar0 ∨ p = .window then t.rcClear off else t

/-! ## Landing (R280, R442, R529, R531) -/

/-- Whether the SMBus sideband reaches an offset (R529). -/
def smbusReach (off : Nat) : Bool :=
  decide (off < 0x100) || (decide (0x230000 ≤ off) && decide (off < 0x230078)) || (decide (0x240000 ≤ off) && decide (off < 0x260000))

/-- Whether a path reaches an offset: the host's paths only over a link that has left Detect.Quiet (R529, R553). In D3hot, where the manual
stops DMA alone (R441), a BAR access acts as in D0 (DESIGN CHOICE, log 119). -/
def State.pathReach (s : State) (p : Path) (off : Nat) : Bool :=
  match p with
  | .bar0 => s.hostUp && decide (off < Config.bar0Bytes)
  | .smbus => smbusReach off
  | .window => s.hostUp && inRegMap off
  | .ring => inRegMap off

/-- The CW_LD registers as the writes that have landed leave them: what GO and READ latch as they are written (R117). -/
def State.cwLatched (s : State) : CwLd :=
  (s.host.landed.foldl (fun s l => if l.offset / 0x10000 = 2 then s.writeCwLd (l.offset % 0x10000) l.value else s) s).cwld

/-- A landed write acts. -/
def State.actLanded (s : State) (l : Landed) : State :=
  if l.offset = 0x20028 then s.cwLdAct l.target l.data (bitOf l.value 0) (bitOf l.value 1) (bitOf l.value 2)
  else s.writeReg l.offset l.value

/-- A write lands (R280, R531): it waits for the next boundary, or acts while no beats are counted. A write of GO or READ to CW_LD_CTRL
latches TARGET and DATA and reads PENDING, unless an access is pending (R116, R117). -/
def State.land (s : State) (p : Path) (off : Nat) (v : W64) : State :=
  if off = 0x20028 then
    if !(bitOf v 0 || bitOf v 2) ∨ fld s.cwld.status 0 3 = 1 then s
    else
      let c := s.cwLatched
      let l : Landed := { path := p, offset := off, value := v, target := c.target, data := [c.data0, c.data1, c.data2, c.data3] }
      let s := s.cwResult 1
      if s.synced then s.updHost (fun h => { h with landed := h.landed ++ [l] }) else s.actLanded l
  else
    let l : Landed := { path := p, offset := off, value := v }
    if s.synced then s.updHost (fun h => { h with landed := h.landed ++ [l] }) else s.actLanded l

/-- GO or READ is written to CW_LD_CTRL; the access takes effect at the next boundary (R115, R117). The debug ring and the host write it alike. -/
def State.cwLdGo (s : State) (v : W64) : State := s.land .bar0 0x20028 v
/-- CW_LD_WRITE: GO. -/
def execCwLdWrite (s : State) : Host.Outcome State Fault Refusal := done s (s.cwLdGo 1)
/-- CW_LD_FORCED_WRITE: GO with FORCE. -/
def execCwLdForcedWrite (s : State) : Host.Outcome State Fault Refusal := done s (s.cwLdGo 3)
/-- CW_LD_READ: READ. -/
def execCwLdRead (s : State) : Host.Outcome State Fault Refusal := done s (s.cwLdGo 4)

/-- Q_DOORBELL: a doorbell is written; it acts at the next boundary (R448). -/
def execQDoorbell (q : Nat) (tail : W32) (s : State) : Host.Outcome State Fault Refusal :=
  if q < Config.queues then done s (s.land .bar0 (0x400000 + 8 * q) (tail.setWidth 64)) else done s s

/-- REGISTER_WRITE: a write of 8 bytes lands on a path that reaches it; a BAR0 write that is not aligned is dropped, and BAD_ACCESS is set
(R280, R442, R529). -/
def execRegisterWrite (path : Path) (offset : Nat) (v : W64) (s : State) : Host.Outcome State Fault Refusal :=
  if path = .bar0 ∧ s.hostUp ∧ offset % 8 ≠ 0 then done s (s.hostBit 2)
  else if s.pathReach path offset ∧ offset % 8 = 0 then done s (s.land path offset v)
  else done s s

/-! ## Reads by command -/

/-- RC_FIELD_READ: a read of a register on a path that reaches it; one of BAR0 that is not aligned is an Unsupported Request (R442, R532). -/
def execRcFieldRead (path : Path) (offset : Nat) (s : State) : Host.Outcome State Fault Refusal :=
  if path = .bar0 ∧ s.hostUp ∧ offset % 8 ≠ 0 then done s (s.badRead offset)
  else if s.pathReach path offset ∧ offset % 8 = 0 then done s (s.readReg path offset) else done s s

/-! ## The host window (R444, R445) -/

/-- Whether a window access is one of R445, inside the limits of its space (R342, R444). -/
def windowOk_ (space off len : Nat) : Bool :=
  match space with
  | 0 => decide (1 ≤ len) && decide (len ≤ 4096) && decide (off % 4096 + len ≤ 4096) && decide (off + len ≤ Config.stackBytes)
  | 1 => decide (1 ≤ len) && decide (len ≤ 4096) && decide (off % 4096 + len ≤ 4096) && decide (off / Config.lsStride < Config.tiles)
      && decide (off % Config.lsStride + len ≤ Config.lsBytes)
  | 2 => len == 8 && off % 8 == 0 && decide (off + 8 ≤ Config.flagBytes)
  | 3 => len == 8 && off % 8 == 0 && inRegMap off
  | _ => false

/-- n words of a local store from word w. -/
def State.lsWordsRead : Nat → State → Nat → Nat → List Byte × State
  | 0, s, _, _ => ([], s)
  | n + 1, s, t, w =>
    let (v, _, s) := s.lsReadWord t w
    let (r, s) := State.lsWordsRead n s t (w + 1)
    (leBytes 8 v ++ r, s)

/-- Bytes return to the host, eight to an entry. -/
def State.returnBytes (s : State) (off : Nat) (bs : List Byte) : State :=
  (chunks 8 (bs.length / 8 + 1) bs).zipIdx.foldl (fun s p => s.returns .window (off + 8 * p.2) (BitVec.ofNat 64 (ofLe p.1))) s

/-- A read through the window: the value cannot be obtained where memory or a flag is uncorrectable, so all ones return with RD_FAIL
(R443, R445). -/
def State.windowRead (s : State) (space off len : Nat) : State :=
  let fail := fun (s : State) => (s.hostBit 1).returnBytes off (List.replicate len 0xFF#8)
  match space with
  | 0 =>
    let (bs, e, s) := s.rdMem off len
    if e.isSome then fail s else s.returnBytes off bs
  | 1 =>
    let o := off % Config.lsStride
    let (bs, s) := State.lsWordsRead ((o % 8 + len + 7) / 8) s (off / Config.lsStride) (o / 8)
    s.returnBytes off ((bs.drop (o % 8)).take len)
  | 2 => (match s.readFlag (off / 8) with
    | (some v, s) => s.returns .window off v
    | (none, s) => fail s)
  | _ => s.readReg .window off

/-- A write through the window: memory and local stores on landing, flags and registers at the next boundary (R445). -/
def State.windowWrite (s : State) (space off : Nat) (bs : List Byte) : State :=
  match space with
  | 0 => (s.wrMem off bs).2
  | 1 => s.writeLs (off / Config.lsStride) (bs.zipIdx.map (fun p => (off % Config.lsStride + p.2, p.1)))
  | 2 =>
    let v := BitVec.ofNat 64 (ofLe bs)
    if s.synced then s.updHost (fun h => { h with winLanded := h.winLanded ++ [(off / 8, v)] }) else s.putFlag (off / 8) v
  | _ => s.land .window off (BitVec.ofNat 64 (ofLe bs))

/-- WINDOW_ACCESS: a BAR2 access of `len` bytes at byte `offset`; one that R444 or R445 does not allow sets WIN_ERR, and reads all ones or
is dropped (log 74). -/
def execWindowAccess (write : Bool) (offset len : Nat) (data : List Byte) (s : State) : Host.Outcome State Fault Refusal :=
  let space := fld s.host.winCfg 0 6
  let off := fld s.host.winCfg 16 28 * 2 ^ 16 + offset
  let n := if write then data.length else len
  if !s.hostUp then done s s
  else if !windowOk_ space off n ∨ Config.bar2Bytes ≤ offset then
    let s1 := s.hostBit 3
    done s (if write then s1 else s1.returnBytes off (List.replicate len 0xFF#8))
  else done s (if write then s.windowWrite space off data else s.windowRead space off n)

/-! ## The SMBus sideband (R541) -/

/-- SMBUS_BLOCK_WRITE: a Block Write of 12 bytes, an offset and 8 data bytes; other lengths write nothing. -/
def execSmbusBlockWrite (bytes : List Byte) (s : State) : Host.Outcome State Fault Refusal :=
  let off := ofLe (bytes.take 4)
  if bytes.length = 12 ∧ off % 8 = 0 ∧ smbusReach off then done s (s.land .smbus off (BitVec.ofNat 64 (ofLe (bytes.drop 4))))
  else done s s

/-- SMBUS_BLOCK_READ: the register at a 4-byte offset returns; the manual gives no value for an offset beyond the sideband's reach: it is
free (log 5). -/
def execSmbusBlockRead (bytes : List Byte) (s : State) : Host.Outcome State Fault Refusal :=
  let off := ofLe (bytes.take 4)
  if bytes.length ≠ 4 then done s s
  else if smbusReach off ∧ off % 8 = 0 then done s (s.readReg .smbus off)
  else
    let (v, s1) := s.free
    done s (s1.returns .smbus off v)

end Sys2Proof.Machine
end

