-- ==== Sys2Proof/Machine/Commit.lean ====
section
/-! DEFINITION. COMMIT (R427 to R434): arming, the evaluation at the boundary before its beat, what the module holds until then, the bank
swap (R113, R114) and the items that take effect at the beat, with what a FULL image and a PATCH replace (R413). -/

namespace Sys2Proof.Machine

/-! ## What a staging touches -/

/-- The laths that an image replaces or rebinds (R237): its own, those that its slot records name, and those that the slots of these
records hold; all of them for a FULL image (log 80). -/
def State.lathsOf (s : State) (g : Staged) : List Nat :=
  let own := g.items.laths.map (·.id)
  let slots := if g.patch then g.items.slots.map (·.1) else g.items.slots.map (·.1) ++ s.slots.map (·.1)
  let held := slots.filterMap (fun k => (s.slot k).lath)
  let named := (g.items.slots.map (fun r => r.2.2.1)).filter (fun i => i != 255)
  (own ++ named ++ held).eraseDups

/-- Whether a forward or adjoint phase of a lath is running (R214, R237): on a slot bound to it a LAUNCH has begun the step and has not been
stopped, and its phases have not all ended. -/
def State.lathRuns (s : State) (i : Nat) : Bool :=
  s.slots.any (fun p => p.2.lath == some i
    && (match p.2.launch with
        | some l => (match s.cmd l.q l.index with | some c => c.st == .acting && l.status == 0 && !s.solverEnded p.1 | none => false)
        | none => false))

/-- A LAUNCH or COPY runs on the module, or a channel holds a request (R427). -/
def State.memBusy (s : State) : Bool :=
  s.slots.any (fun p => p.2.launch.isSome)
    || s.host.copies.any (fun p => match s.cmd p.2.q p.2.index with | some c => c.st == .acting | none => false)
    || s.mem.chans.any (fun p => !p.2.all.isEmpty)

/-- The first of R427's module conditions that holds: BUSY_NEEDS_DRAIN, LATH_IN_USE or CIR_CONFLICT. -/
def State.commitBlock (s : State) (g : Staged) : Option Nat :=
  let has := fun (t : Nat) => g.items.types.contains t
  if (has 5 || has 6 || has 7) && !bitOf s.fab.status 1 then some 19
  else if has 7 && s.memBusy then some 19
  else if (s.lathsOf g).any s.lathRuns then some 20
  else if s.cirConflict s.fab.cirs then some 21
  else none

/-- COMMIT_ARMED follows what is armed (R439). -/
def State.armedBit (s : State) : State :=
  s.updCfg (fun c => { c with loadStatus := setBit c.loadStatus 20 (!c.armed.isEmpty || c.commit.isSome) })

/-- CFG_SLICE_STATUS.LAST_COMMIT (R410). -/
def State.lastCommit (s : State) (v : Nat) : State := { s with slice := { s.slice with status := setFld s.slice.status 41 3 v } }

/-! ## Arming (R377, R427, R428) -/

/-- APPLY of a COMMIT_REPORT (R377): BUSY_NEEDS_DRAIN or LATH_IN_USE, where the member would refuse the commit. -/
def State.applyCode (s : State) : Nat :=
  match s.cfg.staging with
  | some g => (match s.commitBlock g with | some 19 => 19 | some 20 => 20 | _ => 0)
  | none => 0

/-- A dispatched COMMIT arms (R427); `first` is the first beat whose evaluation is still to come. In RUNNING its report goes to the master
(R377). While a commit stands between its evaluation and its beat, it completes with COMMIT_PENDING (R428). -/
def State.commitArm (s : State) (first : W64) (q : Nat) (c : Cmd) : State :=
  match c.arm with
  | none => s
  | some a =>
    if s.frozenAs 0x1C00 then s
    else if s.cfg.commit.isSome then s.complete q c.index 24
    else
      let b := if a.toNat < first.toNat then first else a
      let s := s.updCfg (fun x => { x with armed := x.armed ++ [{ q := q, index := c.index, beat := b, reported := s.sliceSt == 2 }] })
      let s := (s.updCmd q c.index (fun c => { c with st := .acting })).armedBit
      if s.sliceSt = 2 then s.sendControl s.masterId 3 (reportBytes (s.ownReport (some (b, s.applyCode)))) else s

/-- COMMIT: command `index` of queue q, dispatched, arms the staged image for its beat; within a beat the evaluation for the next one is
past. -/
def execCommit (q index : Nat) (s : State) : Host.Outcome State Fault Refusal :=
  match s.cmd q index with
  | some c => if cmdOp c.raw = 7 ∧ c.st = .dispatched then done s (s.commitArm (s.beat + 2) q c) else done s s
  | none => done s s

/-! ## Evaluation (R427, R379) -/

/-- The outcome of R427's table for a commit; none is APPLIED. -/
def State.commitStatus (s : State) (a : Armed) : Option Nat :=
  if s.sliceSt = 3 then some 4
  else if s.loadSt ≠ 5 then some 18
  else match s.cfg.staging with
  | none => some 18
  | some g =>
    match s.commitBlock g with
    | some k => some k
    | none =>
      if s.sliceSt = 2 then (match a.stop with | some k => some k | none => if a.goAhead then none else some 22)
      else none

/-- Targeted tiles in FAULT. -/
def State.faultedTargets (s : State) (g : Staged) : Nat :=
  ((if g.patch then g.targets else s.tiles.map (·.1)).filter (fun t => (s.tile t).st == .fault)).length

/-- A refusal sets what R354 and R433 say, and raises COMMIT_SPLIT on a member that holds COMMIT_GO (R379, R427). -/
def State.commitRefuse (s : State) (a : Armed) (k : Nat) : State :=
  let types := match s.cfg.staging with | some g => g.items.types | none => []
  let drains := types.contains 5 || types.contains 6 || types.contains 7
  let s := if k = 19 ∧ drains ∧ !bitOf s.fab.status 1 then s.fabBit 3 true else s
  let s := if k = 21 ∧ (types.contains 5 ∨ types.contains 6) then s.fabBit 5 true else s
  let s := s.lastCommit (if k = stMismatch then 2 else if k = stLate then 3 else 4)
  let s := if a.goAhead then (s.collFault 4 63 s.masterId 0 none).fault .commitSplit .collective 63 else s
  s.complete a.q a.index k

/-- Launches of the commit's beat or later that have started their tiles take the staged bindings (R428, R432): the context record where
slot and tiles stay; otherwise the tiles are taken back, and the launch starts on the slot to which the staged image binds its queue. -/
def State.rebind (s : State) (b : W64) : State :=
  s.waitingLaunches.foldl (fun s x =>
    let (k, l, c) := x
    if l.armBeat.toNat < b.toNat then s
    else if s.boundFor l.q l.armBeat = some k ∧ s.tilesFor k l.entry l.armBeat = l.tiles then s.depositCtx k l.armBeat l.tiles
    else (s.unstart k).launchStart l.q c) s

/-- One armed commit is evaluated. -/
def State.commitEval (s : State) (a : Armed) : State :=
  let s := s.updCfg (fun c => { c with armed := c.armed.filter (fun x => !(x.q == a.q && x.index == a.index)) })
  if s.cfg.commit.isSome then (s.complete a.q a.index 24).armedBit
  else match s.commitStatus a, s.cfg.staging with
    | some k, _ => (s.commitRefuse a k).armedBit
    | none, some g =>
      let s := s.updCfg (fun c => { c with commit := some { a with faulted := s.faultedTargets g }, lathBusy := s.lathsOf g })
      (s.armedBit).rebind a.beat
    | none, none => s

/-- The evaluations that are due at the boundary that has begun the present beat, in queue and index order; a dispatcher that is frozen as hung
makes none (R506). -/
def State.commitEvals (s : State) : State :=
  if s.frozenAs 0x1C00 then s
  else
    let due := s.cfg.armed.filter (fun a => decide (a.beat.toNat ≤ s.beat.toNat + 1))
    let key := fun (a : Armed) => a.q * 2 ^ 32 + a.index
    (sortKey key due).foldl (fun s a => s.commitEval a) s

/-! ## The swap (R113, R114, R154, R165, R170) -/

/-- A tile exchanges its banks: a HALTED tile stays HALTED; any other is at entry 0 of the new bank, or halts where that is not VALID.
A word that waits or stalls is abandoned; what some of its generators have done under R44 before stands (DESIGN CHOICE, log 116). -/
def Tile.swapBank (x : Tile) : Tile :=
  let y := { x with bank := 1 - x.bank, kloop := none, kend := none }
  if x.st = .halted then y
  else
    let e := y.entry 0
    { y with st := .run, cw := entryAddr e, held := none, armed := none, waitEnd := none, took := none, part := none, lost := false, haltPend := !entryValid e }

/-- A tile started early for a launch of the swap's beat or later counts its elements from the new bank's ELEM_BASE (R246, log 110). -/
def State.recount (s : State) (t : Nat) : State :=
  if s.beat.toNat < (s.tile t).launchBeat.toNat then s.updTile t (fun x => { x with srCtr := x.sr.elemBase }) else s

/-- A targeted tile swaps: its open groups close short, a k-loop ends with its overflowed entries saturated, and an open block is a
fault in place of the swap. The answer says whether it swapped. Counts go to the set that the tile's word names (log 81). -/
def State.swapTile (s : State) (t : Nat) : Bool × State :=
  let x := s.tile t
  let n := wCset x.cur
  if x.st = .fault then (false, s)
  else if x.blkX ≠ 0 ∨ x.blkY ≠ 0 then (false, s.tileFault t .blockOpen (x.cset n).tag)
  else
    let s := (s.closeAt t n (x.tc - 1)).updTile t (fun x => x.landPairs (x.tc - 1))
    let (y, k) := (s.tile t).kAbort
    let s := (s.setTile t y.swapBank).recount t
    (true, if k = 0 then s else s.tally t n { sat := k } false)

/-- Targeted tiles swap in turn; the answer counts those that did not. -/
def State.swapTiles (s : State) (ts : List Nat) : Nat × State :=
  ts.foldl (fun (a : Nat × State) t =>
    let (ok, s) := a.2.swapTile t
    (if ok then a.1 else a.1 + 1, s)) (0, s)

/-- Every tile swaps, for a FULL image. -/
def State.swapAll (s : State) : Nat × State :=
  let ts := s.tiles.map (·.1)
  let (n, s1) := s.swapTiles ts
  let d := s.tileDef.swapBank
  (n, { s1 with tileDef := d, tiles := (ts.map (fun t => (t, s1.tile t))).filter (fun p => p.2 != d) })

/-- The faults that the swap has raised arrive in the beat that ends (R165, R430). -/
def State.swapFaults (s : State) (before : Nat) : State :=
  let new := s.ras.tree.drop before
  new.foldl (fun s f => s.faultArrive f) (s.updRas (fun r => { r with tree := r.tree.take before }))

/-- Order 0 of a boundary, at the end of beat b − 1: the commit for beat b swaps its tiles, the routers' slot tables and the count
trees (R113, R429). -/
def State.commitSwap (s : State) : State :=
  match s.cfg.commit, s.cfg.staging with
  | some a, some g =>
    if s.beat.toNat + 1 < a.beat.toNat then s
    else
      let n0 := s.ras.tree.length
      let (n, s) := if g.patch then s.swapTiles g.targets else s.swapAll
      let s := s.swapFaults n0
      let has := fun (t : Nat) => !g.patch || g.items.types.contains t
      s.updCfg (fun c => { c with
        commit := some { a with noSwap := n }
        active := { c.active with
          meshCircuits := if has 3 then g.items.meshCircuits else c.active.meshCircuits
          countTrees := if has 4 then g.items.countTrees else c.active.countTrees } })
  | _, _ => s

/-! ## The items (R413, R429) -/

/-- Records of a PATCH over those in force: a record replaces the one with its number. -/
def mergeBy {α : Type} (key : α → Nat) (old new : List α) : List α := old.filter (fun x => !(new.any (fun y => key y == key x))) ++ new

/-- The active image's items after an image applies (R413, log 82): a FULL image replaces them all; a PATCH replaces records with the
numbers that it carries, adds ranges, and replaces its other sections whole. -/
def itemsAfter (old new : Items) (patch : Bool) : Items :=
  if !patch then new
  else
    let has := fun (t : Nat) => new.types.contains t
    let gone := (old.laths.filter (fun l => new.laths.any (fun m => m.id == l.id))).map (fun l => gaOff l.tables)
    { programs := if has 1 then mergeBy (·.num) old.programs new.programs else old.programs
      patterns := if has 2 then old.patterns ++ new.patterns else old.patterns
      meshCircuits := old.meshCircuits
      countTrees := old.countTrees
      stackTiming := if has 7 then new.stackTiming else old.stackTiming
      queueBind := if has 8 then new.queueBind.foldl (fun m p => aput m p.1 p.2) old.queueBind else old.queueBind
      slots := if has 9 then mergeBy (·.1) old.slots new.slots else old.slots
      contexts := if has 10 then mergeBy (·.1) old.contexts new.contexts else old.contexts
      laths := if has 11 then mergeBy (·.id) old.laths new.laths else old.laths
      stackData := old.stackData.filter (fun r => !gone.contains r.1) ++ new.stackData
      areas := old.areas ++ new.areas
      mapping := if has 14 then new.mapping else old.mapping
      mapCtxs := if has 14 then new.mapCtxs else old.mapCtxs
      mapLayers := if has 14 then new.mapLayers else old.mapLayers
      periodOps := if has 14 then new.periodOps else old.periodOps
      regWrites := if has 15 then new.regWrites else old.regWrites
      windows := if has 16 then new.windows else old.windows
      routing := if has 5 then new.routing else old.routing
      circuits := if has 6 then new.circuits else old.circuits
      types := (old.types ++ new.types).eraseDups }

/-- Every channel that is READY enters TRAINING (R434). -/
def State.retime (s : State) : State :=
  { s with
    mem := { s.mem with chans := (List.range Config.channels).foldl (fun m c =>
      if (aget {} m c).st = 2 then aset {} m c { aget {} m c with st := 1 } else m) s.mem.chans }
    cfg := { s.cfg with retiming := true } }

/-- Order 4: what the commit changes after the host's register writes (R429, R468); one that needed a drain resumes injection (R434). -/
def State.commitItems (s : State) (g : Staged) : State :=
  let has := fun (t : Nat) => g.items.types.contains t
  let s := g.items.regWrites.foldl (fun s r => s.imageWrite r.1 r.2.1 r.2.2) s
  let s := if has 5 ∨ has 6 then s.copyTables else if has 7 then s.resumeFab else s
  let old := s.cfg.active
  let act := itemsAfter old g.items g.patch
  let info := setFld (setBit (setBit (setFld s.cfg.activeInfo 0 16 g.epoch) 16 g.signed) 17 g.patch) 32 32 s.beat.toNat
  let s := { s with
    train := { s.train with seed := g.seed }
    slice := { s.slice with epoch := setFld s.slice.epoch 0 16 g.epoch }
    cfg := { s.cfg with
      active := { act with queueBind := old.queueBind, slots := old.slots, contexts := old.contexts, laths := old.laths,
                           meshCircuits := old.meshCircuits, countTrees := old.countTrees }
      activeInfo := info, activeDigest := g.identity, hasActive := true } }
  let s := if g.patch then s else s.updHost (fun h => { h with flags := [], flagMarks := [] })
  if has 7 then s.retime else s

/-- A world of a lath that has been loaded: the image's initial values, no step run (R211, R223). -/
def Lath.freshWorld (l : Lath) : World := { entries := l.init, q := l.initQ }

/-- A slot under a binding record; its worlds begin anew where its lath is another or has been loaded anew. -/
def Slot.bind (x : Slot) (laths : Assoc Lath) (loaded : List Nat) (r : Nat × Nat × Nat × W64 × Nat) : Slot :=
  let lath := if r.2.2.1 = 255 then none else some r.2.2.1
  let fresh := match lath with
    | some i => (match afind laths i with
      | some l => if x.lath = some i ∧ !loaded.contains i then x.worlds else tab l.nworld (fun w => (w, l.freshWorld))
      | none => [])
    | none => []
  { x with context := r.2.1, lath := lath, worldBase := r.2.2.2.1, ctxLsOfs := r.2.2.2.2, worlds := fresh }

/-- A context under its record: NLAYER and the base addresses; its training state stays (R431, R432). A FULL image begins a fresh job:
only the contexts that it names are resident, and their training state begins anew (R249, log 48). -/
def Ctx.bind (x : Ctx) (r : Nat × Nat × List W64) : Ctx :=
  { x with nlayer := r.2.1, weightBase := nth 0 r.2.2 0, optBase := nth 0 r.2.2 1, scaleBase := nth 0 r.2.2 2,
           stageBase := nth 0 r.2.2 3, recordBase := nth 0 r.2.2 4, user := nth 0 r.2.2 5 }

/-- Order 7: the new queue bindings, slot bindings, context records and laths (R429); slots that a FULL image does not bind are
unbound. -/
def State.commitBindings (s : State) (g : Staged) : State :=
  let old := s.cfg.active
  let act := itemsAfter old g.items g.patch
  let loaded := g.items.laths.map (·.id)
  let laths := g.items.laths.foldl (fun m l => aput m l.id l) (if g.patch then s.laths else [])
  let again := (s.slots.filter (fun p => match p.2.lath with | some i => loaded.contains i | none => false)).map
    (fun p => (p.1, p.2.context, p.2.lath.getD 255, p.2.worldBase, p.2.ctxLsOfs))
  let unbound := (s.slots.map (·.1)).map (fun k => (k, 0, 255, (0 : W64), 0))
  let recs := (if g.patch then again else unbound) |>.filter (fun r => !(g.items.slots.any (fun x => x.1 == r.1)))
  let s := { s with
    laths := laths
    cfg := { s.cfg with active := { old with queueBind := act.queueBind, slots := act.slots, contexts := act.contexts, laths := act.laths } } }
  let s := (recs ++ g.items.slots).foldl (fun s r => s.updSlot r.1 (fun x => x.bind laths loaded r)) s
  let s := if g.patch then s else { s with ctxs := [] }
  g.items.contexts.foldl (fun s r => s.updCtx r.1 (fun x => x.bind r)) s

/-- A commit that applies at the present boundary: STATE and RESULT, the end of what R428 holds, and its record; `halted` says that a slice
halt acted at this boundary (R429, R430). -/
def State.commitEnd (s : State) (a : Armed) (halted : Bool) : State :=
  let s := (s.updCfg (fun c => { c with commit := none, staging := none, stagedDigest := 0, lathBusy := [] })).armedBit
  let s := (s.loadSet 0 1).lastCommit 1
  s.complete a.q a.index (if halted || decide (a.faulted < a.noSwap) then 17 else 16) (BitVec.ofNat 128 a.noSwap)

/-- The commit whose beat the present boundary begins, with its staging. -/
def State.commitNow (s : State) : Option (Armed × Staged) :=
  match s.cfg.commit, s.cfg.staging with
  | some a, some g => if a.beat.toNat ≤ s.beat.toNat then some (a, g) else none
  | _, _ => none

/-- STACK_RETIMING_END: every channel is READY again (R434). -/
def execStackRetimingEnd (s : State) : Host.Outcome State Fault Refusal :=
  if !s.cfg.retiming then done s s
  else
    done s { s with
      mem := { s.mem with chans := (List.range Config.channels).foldl (fun m c =>
        if (aget {} m c).st = 1 then aset {} m c { aget {} m c with st := 2 } else m) s.mem.chans }
      cfg := { s.cfg with retiming := false } }

end Sys2Proof.Machine
end

