-- ==== Sys2Proof/Machine/Halt.lean ====
section
/-! DEFINITION. What ends operations from outside: slice halts at order 2 of a boundary (R148, R281, R480) and ABORT (R282). -/

namespace Sys2Proof.Machine

/-! ## Operations whose work has ended -/

/-- A COPY, a collective or a CHECKPOINT whose engine has ended its work completes with its own status; none while some of it is left
(R282). -/
def State.finished (s : State) (q i : Nat) : Option State :=
  match s.host.copies.find? (fun p => p.2.q == q && p.2.index == i) with
  | some p =>
    if !p.2.lines.isEmpty ∨ p.2.ending.isSome then none
    else if p.2.err.isSome then some (s.endCopy p.1 11)
    else if p.2.bytes ≤ p.2.off then some (s.endCopy p.1 0)
    else none
  | none => match s.slice.running.find? (fun p => p.2.q == q && p.2.index == i) with
    | some p =>
      let r := p.2
      let gathered := s.gathered r
      let owns := match s.layerMap r.context r.layer with | some m => (s.ownShard m).isSome | none => true
      if r.left = 0 ∧ r.ending.isNone ∧ ((r.kind = 0 ∧ r.phase = 1 ∧ gathered) ∨ (r.kind = 1 ∧ r.phase = 2 ∧ !owns)) then some (s.endColl p.1 0)
      else none
    | none => match s.ras.run with
      | some r =>
        if r.q = q ∧ r.index = i ∧ r.op = 0 ∧ r.ending.isNone ∧ r.out.isEmpty then
          let t := if r.tier = 1 ∧ 2 ≤ r.stage then s.saveEnd r
            else if r.tier = 3 ∧ r.stage = 1 then (s.ckNewest 3 r.step false).endCk 0 else s
          if t.ras.run.isNone then some t else none
        else none
      | none => none

/-! ## Slice halts -/

/-- Every LAUNCH that is not complete stops with the status; one whose completion beat has passed stands (R149, R282, R480). -/
def State.stopLaunches (s : State) (status : Nat) : State :=
  s.slots.foldl (fun s p =>
    match p.2.launch with
    | none => s
    | some l =>
      let isOver := match l.doneBeat with | some d => decide (d.toNat < s.beat.toNat) | none => false
      if isOver then s
      else (s.stopLaunch p.1 status).updRas (fun r => { r with haltEnded := r.haltEnded ++ [(l.q, l.index)] })) s

/-- The commands bound to the slice that have dispatched, other than a LAUNCH whose tiles have started. -/
def State.boundCmds (s : State) : List (Nat × Cmd) :=
  s.host.queues.flatMap (fun p => (p.2.cmds.filter (fun c =>
    c.st != .fetched && (cmdOp c.raw == 5 || cmdOp c.raw == 6 || (cmdOp c.raw == 1 && (s.launchSlot p.1 c.index).isNone)))).map
      (fun c => (p.1, c)))

/-- The slice halts on this member (R480): the collectives that wait in their channels are marked before those that run end, and complete
after them. -/
def State.haltSlice (s : State) (cause : Nat) : State :=
  let s := s.stopLaunches (haltStatus cause)
  let all := s.boundCmds
  let waits := fun (x : Nat × Cmd) => s.slice.queued.any (fun p => p.2.q == x.1 && p.2.index == x.2.index)
  let s := (all.filter waits ++ all.filter (fun x => !waits x)).foldl (fun s x =>
    match s.finished x.1 x.2.index with
    | some t => t
    | none => (s.cancel x.1 x.2 (if cmdOp x.2.raw = 1 then haltStatus cause else 4)).updRas (fun r => { r with haltEnded := r.haltEnded ++ [(x.1, x.2.index)] })) s
  let s := s.setSliceSt 3
  s.ranCtxs.foldl State.cutStep { s with slice := s.slice.forget, ras := { s.ras with pieces := [] } }

/-- Order 2 of a boundary: the NaN watch's TRAP and the slice halts that are due (R148, R281, R480). The module's own halt is the one
it obeys when a marker names the same boundary (R481). -/
def State.haltBoundary (s : State) : State :=
  let due := s.ras.halts.filter (fun h => decide (h.beat.toNat ≤ s.beat.toNat))
  let s := s.updRas (fun r => { r with haltEnded := [], halts := r.halts.filter (fun h => decide (s.beat.toNat < h.beat.toNat)) })
  let s := if s.nan.trapDue then
      { s.stopLaunches 5 with nan := { s.nan with trapDue := false, rec0 := setBit s.nan.rec0 1 true } } else s
  let pick := match due.find? (fun h => h.own) with | some h => some h | none => due.head?
  match pick with
  | some h => if s.sliceSt = 2 then (s.recordHalt h).haltSlice h.cause else s
  | none => s

/-! ## ABORT (R282) -/

/-- What an ABORT does to one target at the present boundary: 0 it was complete, 1 it is aborted, 2 a halt at this boundary ended it.
A COMMIT that has been decided stands (log 55). -/
def State.abortOne (s : State) (q i : Nat) (tq ti : Nat) : Nat × State :=
  if s.ras.haltEnded.contains (tq, ti) then (2, s)
  else if tq = q ∧ ti = i then (0, s)
  else match s.cmd tq ti with
    | none =>
      let x := s.queue tq
      let ahead := (ti + 2 ^ 32 - x.fetched) % 2 ^ 32
      if x.st ≠ 0 ∧ ahead < (x.tail.toNat + 2 ^ 32 - x.fetched) % 2 ^ 32 ∧ !x.doomed.contains ti then
        (1, s.updQueue tq (fun x => { x with doomed := x.doomed ++ [ti] }))
      else (0, s)
    | some c =>
      let isOver : Bool := match s.launchSlot tq ti with
        | some k => (match (s.slot k).launch with
          | some l => l.status != 0 || (match l.doneBeat with | some d => decide (d.toNat < s.beat.toNat) | none => false)
          | none => false)
        | none => false
      let decided : Bool := cmdOp c.raw == 7 && (match s.cfg.commit with
        | some a => a.q == tq && a.index == ti
        | none => false)
      if isOver ∨ decided then (0, s)
      else match s.finished tq ti with
        | some t => (0, t)
        | none => (1, s.cancel tq c 1)

/-- The indices from OLDEST to TARGET_INDEX (R457). -/
def Queue.upTo (x : Queue) (ti : Nat) : List Nat :=
  let d := (ti + 2 ^ 32 - x.oldest) % 2 ^ 32
  if d ≤ x.size then tab (d + 1) (fun k => (x.oldest + k) % 2 ^ 32) else []

/-- An ABORT evaluates at the present boundary and completes (R282, R467). -/
def State.runAbort (s : State) (q : Nat) (c : Cmd) : State :=
  if !s.abortDue c ∨ s.frozenAs 0x1C00 then s
  else
    let tq := cmdFld c.raw 16 2
    let ti := cmdFld c.raw 20 4
    let ts := if cmdFld c.raw 24 1 = 0 then [ti] else (s.queue tq).upTo ti
    let (n, h, s) := ts.foldl (fun (a : Nat × Nat × State) t =>
      let (r, s) := a.2.2.abortOne q c.index tq t
      (a.1 + (if r = 1 then 1 else 0), a.2.1 + (if r = 2 then 1 else 0), s)) (0, 0, s)
    s.complete q c.index (if n ≠ 0 then 1 else if h ≠ 0 then 3 else 2) (BitVec.ofNat 128 n)

/-- ABORT. -/
def execAbort (q index : Nat) (s : State) : Host.Outcome State Fault Refusal :=
  match s.cmd q index with
  | some c => if cmdOp c.raw = 8 then done s (s.runAbort q c) else done s s
  | none => done s s

end Sys2Proof.Machine
end

