-- ==== Sys2Proof/Machine/Boundary.lean ====
section
/-! DEFINITION. The beat boundary (R281): what the module does, in its order, at the boundary that begins a beat. -/

namespace Sys2Proof.Machine

/-! ## Order 1: the beat (R268, R269, R290) -/

/-- BEAT_RC_NEW; values below 64 act as 64 (R295). -/
def State.newBeatRc (s : State) : Nat := max 64 (fld s.esc.beatCfg 16 16)

/-- An armed change of the beat's length applies from AT_BEAT, or is refused (R269). -/
def State.beatChangeAct (s : State) : State :=
  let a := s.esc.beatChange
  if a = 0 ∨ s.beat.toNat < a.toNat then s
  else
    let s := if a = s.beat ∧ !s.outside then s.updEsc (fun e => { e with beatCfg := setFld e.beatCfg 0 16 s.newBeatRc }) else s.escBit 6 true
    s.updEsc (fun e => { e with beatChange := 0 })

/-- The beat advances: the reference cycles of the beat that has ended are counted, or a holdover beat is (R268, R290). -/
def State.advance (s : State) : State :=
  let n := s.beatLength s.beat
  let held := bitOf s.esc.status 4
  let s := s.updEsc (fun e => { e with
    beat := e.beat + 1
    rcCount := if held then e.rcCount else e.rcCount + BitVec.ofNat 64 n
    holdover := if held then e.holdover + 1 else e.holdover
    slews := e.slews.filter (fun p => decide (s.beat.toNat < p.1.toNat)) })
  s.dropSteps.beatChangeAct

/-- After a SYNC slip no beats are counted from the halt boundary on, or from the next boundary where the slice does not run (R266); after
a loss of the reference, from the 64th holdover beat or the end of the halt on (R290). -/
def State.unsync (s : State) : State :=
  if s.esc.unsyncDue ∧ s.sliceSt ≠ 2 then (s.escBit 1 false).updEsc (fun e => { e with unsyncDue := false })
  else if bitOf s.esc.status 4 ∧ (64 ≤ s.esc.holdover ∨ s.sliceSt = 3) then s.stopBeats
  else s

/-! ## Orders 3 and 4 -/

/-- The commands of every queue that satisfy a test, in increasing queue and index. -/
def State.cmdsWhere (s : State) (p : Cmd → Bool) : List (Nat × Nat) :=
  s.host.queues.flatMap (fun q => (sortKey (·.index) (q.2.cmds.filter p)).map (fun c => (q.1, c.index)))

/-- A step on each of these commands that is still there. -/
def State.onCmds (s : State) (l : List (Nat × Nat)) (f : State → Nat → Cmd → State) : State :=
  l.foldl (fun s x => match s.cmd x.1 x.2 with | some c => f s x.1 c | none => s) s

/-- Order 3: the ABORTs that are due are evaluated (R282). -/
def State.aborts (s : State) : State := s.onCmds (s.cmdsWhere (fun c => cmdOp c.raw == 8 && c.st == .dispatched)) State.runAbort

/-- Order 4: the writes that landed during the beat act in landing order (R280, R445). -/
def State.landedWrites (s : State) : State :=
  let l := s.host.landed
  let w := s.host.winLanded
  let s := s.updHost (fun h => { h with landed := [], winLanded := [] })
  w.foldl (fun s p => s.putFlag p.1 p.2) (l.foldl State.actLanded s)

/-! ## Joining (R375, R378) -/

/-- The slice enters JOINING after a commit mismatch (R378). -/
def State.rejoinAct (s : State) : State :=
  match s.slice.rejoin with
  | none => s
  | some b =>
    if s.beat.toNat < b.toNat then s
    else if s.sliceSt = 2 then
      let s := s.waitingLaunches.foldl (fun s x => s.unstart x.1) (s.setSliceSt 1)
      { s with slice := { s.slice.forget with rejoin := none, joinBeat := s.beat, lastReport := none } }
    else { s with slice := { s.slice with rejoin := none } }

/-! ## Order 6: periods (R283 to R287) -/

/-- A period starts. -/
def State.periodBegin (s : State) (k start : W64) (lambda late : Nat) : State :=
  s.updEsc (fun e => { e with
    now := k, start := start, announced := none, started := true
    starts := e.starts.filter (fun p => decide (start.toNat ≤ p.2.toNat + 65535)) ++ [(k.toNat, start)], bound := [], doneSent := false, markers := []
    lateness := setFld (setFld e.lateness 0 32 (min late 0xFFFFFFFF)) 48 16 lambda
    lateStats := setFld e.lateStats 0 32 (max (fld e.lateStats 0 32) (min late 0xFFFFFFFF)) })

/-- A period ends with a lateness: LATE_RUN, LATE_PERIODS and LATE (R287). -/
def State.periodEnd (s : State) (late : Nat) : State :=
  State.lateNow (s.updEsc (fun e =>
    if late = 0 then { e with lateness := setFld e.lateness 32 16 0 }
    else { e with lateness := addFld e.lateness 32 16 1, lateStats := addFld e.lateStats 32 16 1 }))

/-- The first period starts at ESC_PERIOD_ANCHOR, every other one at its announced beat (R283, R284). -/
def State.periodStart (s : State) : State :=
  if s.periodP = 0 ∨ s.sliceSt ≠ 2 then s
  else if !s.esc.started then
    if s.esc.anchor.toNat ≤ s.beat.toNat then
      let (l, late) := s.periodLength s.esc.first.toNat s.esc.anchor.toNat
      s.periodBegin s.esc.first s.esc.anchor l late
    else s
  else match s.esc.announced with
    | some a => if a.e.toNat ≤ s.beat.toNat then (s.periodEnd a.late).periodBegin a.k1 a.e a.lambda a.late else s
    | none => s

/-! ## Order 7: commands (R278, R386, R387, R454) -/

/-- A COLLECTIVE acts on its channel. -/
def State.collAct (s : State) (q : Nat) (c : Cmd) : State :=
  let f := cmdFld c.raw
  let ch := f 16 1
  if s.frozenAs (collEngine ch) then s
  else
    let r : CollRun :=
      { q := q, index := c.index, kind := f 17 1, context := f 18 1, layer := f 20 2, critical := nfld (f 19 1) 0 1 == 1
        final := nfld (f 19 1) 1 1 == 1, step := BitVec.ofNat 64 (f 24 8), tag := c.tag.getD 0 }
    (s.updCmd q c.index (fun c => { c with st := .acting })).issueColl ch r

/-- A due command acts, or goes on. -/
def State.actCmd (s : State) (q : Nat) (c : Cmd) : State :=
  let new := c.st == .dispatched
  if !s.cmdDue c then s
  else match cmdOp c.raw with
    | 1 => if new then s.launchAct q c else s
    | 2 => s.runWait q c
    | 3 => s.runSet q c
    | 4 => (match s.host.copies.find? (fun p => p.2.q == q && p.2.index == c.index) with
      | some p => if new then s.copyLine p.1 else s
      | none => s)
    | 5 => if new then s.collAct q c else s
    | 6 => if new then s.ckStart else s
    | 9 => s.runFence q c
    | _ => s

/-- A SET_FLAG of the module's own flags. -/
def State.ownSet (s : State) (c : Cmd) : Bool := cmdOp c.raw == 3 && gaModule (BitVec.ofNat 64 (cmdFld c.raw 16 8)) == s.moduleId

/-- Order 7: own SET_FLAGs first, then every command by queue and index (R454); COMMITs arm (R427). -/
def State.commandsAct (s : State) : State :=
  let own := s.ownSet
  let s := s.onCmds (s.cmdsWhere own) State.runSet
  let s := s.onCmds (s.cmdsWhere (fun c => !own c)) State.actCmd
  s.onCmds (s.cmdsWhere (fun c => cmdOp c.raw == 7 && c.st == .dispatched)) (State.commitArm · (s.beat + 1))

/-- After the events of the boundary: the records held while DMA was not allowed, and the STATUS commands with their mirrors (R441, R462,
R470). -/
def State.mirrorsWrite (s : State) : State :=
  let s := s.releaseHeld
  s.onCmds (s.cmdsWhere (fun c => cmdOp c.raw == 10)) State.runStatus

/-- The LAUNCHes of the next beat start their tiles, one beat before it (R100), under the bindings that this boundary's evaluations have left
(R428). -/
def State.startLaunches (s : State) : State :=
  let soon := fun (c : Cmd) => match c.arm with | some b => decide (b.toNat ≤ s.beat.toNat + 1) | none => false
  s.onCmds (s.cmdsWhere (fun c => cmdOp c.raw == 1 && c.st == .dispatched && soon c)) State.launchStart

/-! ## Order 8: clock regions (R291, R292) -/

/-- A tile that keeps its region busy: in RUN or STALL, with a drain running or a trigger queued. -/
def Tile.busy (x : Tile) : Bool := x.st == .run || x.st == .stall || x.drain.isSome || !x.trig.isEmpty

/-- PLL_LEAD as it acts, from the 15 µs of a PLL wake. -/
def State.pllLead (s : State) : Nat := max (fld s.esc.wakeCfg 8 8) ((3000 + fld s.esc.beatCfg 0 16 - 1) / max 1 (fld s.esc.beatCfg 0 16))
/-- PLL_OFF_MIN as it acts; 0 disables PLL_OFF. -/
def State.pllOffMin (s : State) : Nat := let m := fld s.esc.wakeCfg 24 16; if m = 0 then 0 else max m (s.pllLead + 1)

/-- The windows of a region in beats: of the current period from S and of the next from S + Λ; before the first period, of the first
from its anchor. Without periods none is in force (log 83). -/
def State.windowsOf (s : State) (ws : List (Nat × Nat)) : List (Nat × Nat) :=
  let bases := if s.periodP = 0 ∨ s.sliceSt ≠ 2 then []
    else if s.esc.started then [s.esc.start.toNat, s.esc.start.toNat + s.lambda] else [s.esc.anchor.toNat]
  ws.flatMap (fun w => bases.map (fun b => (b + w.1, b + w.2)))

/-- The state that R292 gives region r at the present boundary: 0 RUN, 1 GATED, 2 PLL_OFF. -/
def State.regionWants (s : State) (r : Nat) : Nat :=
  let ts := (s.tiles.filter (fun p => regionOf p.1 == r)).map (·.2)
  let b := s.beat.toNat
  let g := s.region r
  match s.cfg.active.windows.find? (fun w => w.1 == r) with
  | none => if ts.any Tile.busy then 0 else 2
  | some w =>
    if ts.any Tile.busy ∨ bitOf s.esc.wakeCfg 40 then 0
    else
      let ws := s.windowsOf w.2
      let starts : List Nat := (ws.map (·.1)).filter (fun a => decide (b ≤ a))
      let arms : List Nat := ts.filterMap (fun x => x.armed.map (·.toNat))
      let gap : Option Nat := match starts ++ arms with | [] => none | a :: l => some (l.foldl min a - b)
      let lead : Nat := if g.st = 2 ∨ (g.st = 3 ∧ g.fromOff) then s.pllLead else max 1 (fld s.esc.wakeCfg 0 8)
      let at_ : Nat → Bool := fun n => match gap with | some d => decide (n ≤ d) | none => true
      let gate : Bool := at_ (max 1 (fld s.esc.wakeCfg 16 8))
      if ws.any (fun w => decide (w.1 ≤ b) && decide (b < w.2)) || !at_ (lead + 1) then 0
      else if s.pllOffMin ≠ 0 ∧ at_ s.pllOffMin then 2
      else if gate then 1
      else 0

/-- A region takes the state that it is given: to RUN through WAKING, and a gated region's PLL is locked (R61, R292). -/
def Region.move (g : Region) (want : Nat) : Region :=
  match want with
  | 0 => if g.st = 1 ∨ g.st = 2 then { g with st := 3, fromOff := g.st == 2 } else g
  | 1 => { g with st := 1, lock := g.lock || g.fromOff, fromOff := false }
  | _ => { g with st := 2, lock := false, fromOff := true }

/-- Order 8: the state of each region, while main power is on. -/
def State.regionStates (s : State) : State :=
  if !s.power.mainOn then s
  else
    let old := s
    (List.range 256).foldl (fun s r => s.updRegion r (fun g => g.move (old.regionWants r))) s

/-! ## What else a boundary does -/

/-- The agent's slew (R273). -/
def State.hsBoundary (s : State) : State :=
  let e := s.esc
  if s.hsRole ≠ 2 ∨ s.beat.toNat < e.lastSlew.toNat + s.slewGap ∨ e.owe.natAbs < 16 then s
  else
    let d : Int := if 0 < e.owe then -1 else 1
    (s.sendSlew (s.beat + 4) d).updEsc (fun e => { e with owe := e.owe + 16 * d, lastSlew := s.beat })

/-- Orders 0 to 2: the swap, the beat, and the halts with what follows them. -/
def State.boundaryHead (s : State) : State :=
  let s := (s.commitSwap.advance).haltBoundary
  let s := s.freezeHung.hungReset.enterOos
  let s := if s.power.stopAtBoundary then s.mainStop else s
  s.unsync

/-- Orders 3 to 5, and the slice's entry to RUNNING and JOINING. -/
def State.boundaryWrites (s : State) : State :=
  let t := s.aborts.landedWrites
  let t := match t.commitNow with | some (_, g) => t.commitItems g | none => t
  (t.attLatch s).governor.enterRunning.rejoinAct

/-- Orders 6 to 8 and what follows; `halted` says that a slice halt acted at this boundary. -/
def State.boundaryActs (s : State) (halted : Bool) : State :=
  let s := s.writeSums.periodStart
  let s := match s.commitNow with | some (a, g) => (s.commitBindings g).commitEnd a halted | none => s
  let s := s.commandsAct.regionStates
  s.hsBoundary.recoverRates.levelsApply.commitEvals.startLaunches.mirrorsWrite

/-- The boundary that begins the next beat (R281). -/
def State.boundary (s : State) : State :=
  let h := s.boundaryHead
  h.boundaryWrites.boundaryActs (s.sliceSt == 2 && h.sliceSt == 3)

/-- BEAT_BOUNDARY: while beats are counted. -/
def execBeatBoundary (s : State) : Host.Outcome State Fault Refusal := if s.synced then done s s.boundary else done s s

end Sys2Proof.Machine
end

