-- ==== Sys2Proof/Machine/Dispatch.lean ====
section
/-! DEFINITION. The meaning of every command: one arm per constructor of Instr, each one direct call. -/

namespace Sys2Proof.Machine

/-- The effect of command `i` on everything but the queue. -/
def exec (i : Instr) (s : State) : Host.Outcome State Fault Refusal :=
  match i with
  | .controlWord tile u => Sys2Proof.Machine.execControlWord tile u s
  | .waitBeatEnd tile => Sys2Proof.Machine.execWaitBeatEnd tile s
  | .waitTriggerTaken tile => Sys2Proof.Machine.execWaitTriggerTaken tile s
  | .waitCounterEnd tile => Sys2Proof.Machine.execWaitCounterEnd tile s
  | .halt tile => Sys2Proof.Machine.execHalt tile s
  | .countSumPacket p => Sys2Proof.Machine.execCountSumPacket p s
  | .drainComplete tile => Sys2Proof.Machine.execDrainComplete tile s
  | .answerLanding a => Sys2Proof.Machine.execAnswerLanding a s
  | .packetDeposit p crcBad => Sys2Proof.Machine.execPacketDeposit p crcBad s
  | .triggerHeaderAccept tile => Sys2Proof.Machine.execTriggerHeaderAccept tile s
  | .lsEccWriteback tile word => Sys2Proof.Machine.execLsEccWriteback tile word s
  | .lsScrubRead tile e => Sys2Proof.Machine.execLsScrubRead tile e s
  | .lsScrubForcedCycle tile e waited => Sys2Proof.Machine.execLsScrubForcedCycle tile e waited s
  | .tileStart tile slot => Sys2Proof.Machine.execTileStart tile slot s
  | .counterSetBind tile set tag => Sys2Proof.Machine.execCounterSetBind tile set tag s
  | .regionWakeComplete region => Sys2Proof.Machine.execRegionWakeComplete region s
  | .tileCtrlHalt tile => Sys2Proof.Machine.execTileCtrlHalt tile s
  | .clrStall tile => Sys2Proof.Machine.execClrStall tile s
  | .cwLdWrite => Sys2Proof.Machine.execCwLdWrite s
  | .cwLdForcedWrite => Sys2Proof.Machine.execCwLdForcedWrite s
  | .cwLdRead => Sys2Proof.Machine.execCwLdRead s
  | .nanNotice n => Sys2Proof.Machine.execNanNotice n s
  | .nanWatchRecord => Sys2Proof.Machine.execNanWatchRecord s
  | .rearm => Sys2Proof.Machine.execRearm s
  | .deltaPacketIngest tile slot payload => Sys2Proof.Machine.execDeltaPacketIngest tile slot payload s
  | .factorisationStart slot group => Sys2Proof.Machine.execFactorisationStart slot group s
  | .iterationBoundary slot group => Sys2Proof.Machine.execIterationBoundary slot group s
  | .solverIntegration slot group => Sys2Proof.Machine.execSolverIntegration slot group s
  | .adjoint slot world qbar vbar iters => Sys2Proof.Machine.execAdjoint slot world qbar vbar iters s
  | .verdictBeat => Sys2Proof.Machine.execVerdictBeat s
  | .stepRecordWrite context => Sys2Proof.Machine.execStepRecordWrite context s
  | .beatBoundary => Sys2Proof.Machine.execBeatBoundary s
  | .syncCheckPulse rc => Sys2Proof.Machine.execSyncCheckPulse rc s
  | .syncLoadPulse rc => Sys2Proof.Machine.execSyncLoadPulse rc s
  | .arm => Sys2Proof.Machine.execArm s
  | .disarm => Sys2Proof.Machine.execDisarm s
  | .escBeatChangeWrite v => Sys2Proof.Machine.execEscBeatChangeWrite v s
  | .hsExchangeRequest t1 => Sys2Proof.Machine.execHsExchangeRequest t1 s
  | .hsRootReply port t2 t3 => Sys2Proof.Machine.execHsRootReply port t2 t3 s
  | .hsExchangeReply t2 t3 t4 => Sys2Proof.Machine.execHsExchangeReply t2 t3 t4 s
  | .hsIntervalNoReply => Sys2Proof.Machine.execHsIntervalNoReply s
  | .hsHoldoverTimeout => Sys2Proof.Machine.execHsHoldoverTimeout s
  | .slewMessage port target d agent => Sys2Proof.Machine.execSlewMessage port target d agent s
  | .slewMessageMissing => Sys2Proof.Machine.execSlewMessageMissing s
  | .escHsCfgWrite v => Sys2Proof.Machine.execEscHsCfgWrite v s
  | .periodDoneSend => Sys2Proof.Machine.execPeriodDoneSend s
  | .periodDone src k => Sys2Proof.Machine.execPeriodDone src k s
  | .periodAnnounce k1 e lambda late => Sys2Proof.Machine.execPeriodAnnounce k1 e lambda late s
  | .refQualify => Sys2Proof.Machine.execRefQualify s
  | .refLoss => Sys2Proof.Machine.execRefLoss s
  | .refHoldoverEnd => Sys2Proof.Machine.execRefHoldoverEnd s
  | .registerWrite path offset v => Sys2Proof.Machine.execRegisterWrite path offset v s
  | .rcFieldRead path offset => Sys2Proof.Machine.execRcFieldRead path offset s
  | .memLineRequest r => Sys2Proof.Machine.execMemLineRequest r s
  | .wcbWriteWaitEnd ch => Sys2Proof.Machine.execWcbWriteWaitEnd ch s
  | .channelLineSlot ch e => Sys2Proof.Machine.execChannelLineSlot ch e s
  | .wcbIdleEvict ch line => Sys2Proof.Machine.execWcbIdleEvict ch line s
  | .stackScrubSlot ch e => Sys2Proof.Machine.execStackScrubSlot ch e s
  | .stackThermalSample stack temp => Sys2Proof.Machine.execStackThermalSample stack temp s
  | .thermDeferExpire stack => Sys2Proof.Machine.execThermDeferExpire stack s
  | .thermDeferEnd => Sys2Proof.Machine.execThermDeferEnd s
  | .testEnterChannel ch => Sys2Proof.Machine.execTestEnterChannel ch s
  | .testExitChannel ch => Sys2Proof.Machine.execTestExitChannel ch s
  | .tgGo ch => Sys2Proof.Machine.execTgGo ch s
  | .tgStop ch => Sys2Proof.Machine.execTgStop ch s
  | .tgDone ch => Sys2Proof.Machine.execTgDone ch s
  | .flagOperation src flag act => Sys2Proof.Machine.execFlagOperation src flag act s
  | .flagScrub e => Sys2Proof.Machine.execFlagScrub e s
  | .linkCellReceive port bytes symErrs => Sys2Proof.Machine.execLinkCellReceive port bytes symErrs s
  | .nak port seq => Sys2Proof.Machine.execNak port seq s
  | .noSignal port => Sys2Proof.Machine.execNoSignal port s
  | .controlBlockReceive port b crcOk => Sys2Proof.Machine.execControlBlockReceive port b crcOk s
  | .portCellTime port => Sys2Proof.Machine.execPortCellTime port s
  | .portTrainingEnd port ok => Sys2Proof.Machine.execPortTrainingEnd port ok s
  | .ident port module peerPort rack slot => Sys2Proof.Machine.execIdent port module peerPort rack slot s
  | .identOk port => Sys2Proof.Machine.execIdentOk port s
  | .linkDown port => Sys2Proof.Machine.execLinkDown port s
  | .enable port => Sys2Proof.Machine.execEnable port s
  | .retrain port => Sys2Proof.Machine.execRetrain port s
  | .testEnterPort port => Sys2Proof.Machine.execTestEnterPort port s
  | .testExitPort port => Sys2Proof.Machine.execTestExitPort port s
  | .fabPPeerWrite port v => Sys2Proof.Machine.execFabPPeerWrite port v s
  | .fabricPacketRoute port p => Sys2Proof.Machine.execFabricPacketRoute port p s
  | .edgeTagGrant => Sys2Proof.Machine.execEdgeTagGrant s
  | .read p => Sys2Proof.Machine.execRead p s
  | .write p => Sys2Proof.Machine.execWrite p s
  | .atomic p => Sys2Proof.Machine.execAtomic p s
  | .reduceAdd p => Sys2Proof.Machine.execReduceAdd p s
  | .circuitData p => Sys2Proof.Machine.execCircuitData p s
  | .drainMarker port vc => Sys2Proof.Machine.execDrainMarker port vc s
  | .haltMarker src cause haltBeat => Sys2Proof.Machine.execHaltMarker src cause haltBeat s
  | .readReply p => Sys2Proof.Machine.execReadReply p s
  | .ack p => Sys2Proof.Machine.execAck p s
  | .errorReply p => Sys2Proof.Machine.execErrorReply p s
  | .txnTimeout tag => Sys2Proof.Machine.execTxnTimeout tag s
  | .drainFabric => Sys2Proof.Machine.execDrainFabric s
  | .drainMarkersSend => Sys2Proof.Machine.execDrainMarkersSend s
  | .drained => Sys2Proof.Machine.execDrained s
  | .drainTimeout => Sys2Proof.Machine.execDrainTimeout s
  | .rtApply => Sys2Proof.Machine.execRtApply s
  | .resume => Sys2Proof.Machine.execResume s
  | .dropRearm => Sys2Proof.Machine.execDropRearm s
  | .join => Sys2Proof.Machine.execJoin s
  | .leave => Sys2Proof.Machine.execLeave s
  | .joinReportSend => Sys2Proof.Machine.execJoinReportSend s
  | .joinReport src r => Sys2Proof.Machine.execJoinReport src r s
  | .joinGo j step => Sys2Proof.Machine.execJoinGo j step s
  | .joinMismatch rank item count bitmap => Sys2Proof.Machine.execJoinMismatch rank item count bitmap s
  | .commitReport src r => Sys2Proof.Machine.execCommitReport src r s
  | .commitDecisionDeadline => Sys2Proof.Machine.execCommitDecisionDeadline s
  | .commitGo b => Sys2Proof.Machine.execCommitGo b s
  | .commitStop outcome rank item => Sys2Proof.Machine.execCommitStop outcome rank item s
  | .shardGather channel => Sys2Proof.Machine.execShardGather channel s
  | .reduceScatter channel => Sys2Proof.Machine.execReduceScatter channel s
  | .reduceScatterGroupStage context layer => Sys2Proof.Machine.execReduceScatterGroupStage context layer s
  | .reduceScatterConvert context layer => Sys2Proof.Machine.execReduceScatterConvert context layer s
  | .skimMax channel => Sys2Proof.Machine.execSkimMax channel s
  | .countSum channel => Sys2Proof.Machine.execCountSum channel s
  | .seqExchange channel => Sys2Proof.Machine.execSeqExchange channel s
  | .countUp src step context count => Sys2Proof.Machine.execCountUp src step context count s
  | .countDown step context count => Sys2Proof.Machine.execCountDown step context count s
  | .verdictUpSend => Sys2Proof.Machine.execVerdictUpSend s
  | .verdictUp src v => Sys2Proof.Machine.execVerdictUp src v s
  | .verdictDown v => Sys2Proof.Machine.execVerdictDown v s
  | .go => Sys2Proof.Machine.execGo s
  | .discard => Sys2Proof.Machine.execDiscard s
  | .loadFetchDone ok => Sys2Proof.Machine.execLoadFetchDone ok s
  | .loadVerifyDone => Sys2Proof.Machine.execLoadVerifyDone s
  | .loadValidateDone => Sys2Proof.Machine.execLoadValidateDone s
  | .loadDistributeDone => Sys2Proof.Machine.execLoadDistributeDone s
  | .loadPacket p => Sys2Proof.Machine.execLoadPacket p s
  | .stackRetimingEnd => Sys2Proof.Machine.execStackRetimingEnd s
  | .policy => Sys2Proof.Machine.execPolicy s
  | .perst => Sys2Proof.Machine.execPerst s
  | .dmaHoldChange busMaster d0 => Sys2Proof.Machine.execDmaHoldChange busMaster d0 s
  | .bar0BadAccess => Sys2Proof.Machine.execBar0BadAccess s
  | .barReadTimeout => Sys2Proof.Machine.execBarReadTimeout s
  | .windowAccess write offset len data => Sys2Proof.Machine.execWindowAccess write offset len data s
  | .qDoorbell q tail => Sys2Proof.Machine.execQDoorbell q tail s
  | .commandFetch q cmd => Sys2Proof.Machine.execCommandFetch q cmd s
  | .fetchError q => Sys2Proof.Machine.execFetchError q s
  | .enableQueue q v => Sys2Proof.Machine.execEnableQueue q v s
  | .unblock q => Sys2Proof.Machine.execUnblock q s
  | .commandDispatch q tag => Sys2Proof.Machine.execCommandDispatch q tag s
  | .launch q index => Sys2Proof.Machine.execLaunch q index s
  | .launchComplete slot => Sys2Proof.Machine.execLaunchComplete slot s
  | .waitFlag q index => Sys2Proof.Machine.execWaitFlag q index s
  | .waitFlagTimeout q index => Sys2Proof.Machine.execWaitFlagTimeout q index s
  | .setFlag q index => Sys2Proof.Machine.execSetFlag q index s
  | .copy engine => Sys2Proof.Machine.execCopy engine s
  | .checkpointSave => Sys2Proof.Machine.execCheckpointSave s
  | .checkpointRestore => Sys2Proof.Machine.execCheckpointRestore s
  | .commit q index => Sys2Proof.Machine.execCommit q index s
  | .abort q index => Sys2Proof.Machine.execAbort q index s
  | .fence q index => Sys2Proof.Machine.execFence q index s
  | .status q index => Sys2Proof.Machine.execStatus q index s
  | .statusMirrorWrite => Sys2Proof.Machine.execStatusMirrorWrite s
  | .faultArrival f => Sys2Proof.Machine.execFaultArrival f s
  | .haltRas => Sys2Proof.Machine.execHaltRas s
  | .rearmRas => Sys2Proof.Machine.execRearmRas s
  | .hangDeclared engine => Sys2Proof.Machine.execHangDeclared engine s
  | .dumpEntryRead ok => Sys2Proof.Machine.execDumpEntryRead ok s
  | .dumpEnd => Sys2Proof.Machine.execDumpEnd s
  | .replayStart => Sys2Proof.Machine.execReplayStart s
  | .replayWdExpiry => Sys2Proof.Machine.execReplayWdExpiry s
  | .replayEnd => Sys2Proof.Machine.execReplayEnd s
  | .hangVerdicts => Sys2Proof.Machine.execHangVerdicts s
  | .engine index => Sys2Proof.Machine.execEngine index s
  | .tileArray => Sys2Proof.Machine.execTileArray s
  | .port index => Sys2Proof.Machine.execPort index s
  | .channel index => Sys2Proof.Machine.execChannel index s
  | .warm => Sys2Proof.Machine.execWarm s
  | .cold => Sys2Proof.Machine.execCold s
  | .resetComplete => Sys2Proof.Machine.execResetComplete s
  | .admitModule => Sys2Proof.Machine.execAdmit s
  | .dumpDataRead => Sys2Proof.Machine.execDumpDataRead s
  | .powerSample watts nowUs => Sys2Proof.Machine.execPowerSample watts nowUs s
  | .dieTempSample temp => Sys2Proof.Machine.execDieTempSample temp s
  | .inputUndervoltage mv => Sys2Proof.Machine.execInputUndervoltage mv s
  | .inputOvervoltage mv => Sys2Proof.Machine.execInputOvervoltage mv s
  | .inputWarn mv => Sys2Proof.Machine.execInputWarn mv s
  | .pwrEn high => Sys2Proof.Machine.execPwrEn high s
  | .powerRail rail mv => Sys2Proof.Machine.execPowerRail rail mv s
  | .coolant inlet flow => Sys2Proof.Machine.execCoolant inlet flow s
  | .coolantWarn inlet => Sys2Proof.Machine.execCoolantWarn inlet s
  | .pllUnlock region => Sys2Proof.Machine.execPllUnlock region s
  | .bootStageComplete ok failCode => Sys2Proof.Machine.execBootStageComplete ok failCode s
  | .smbusBlockWrite bytes => Sys2Proof.Machine.execSmbusBlockWrite bytes s
  | .smbusBlockRead bytes => Sys2Proof.Machine.execSmbusBlockRead bytes s
  | .install => Sys2Proof.Machine.execInstall s
  | .remove => Sys2Proof.Machine.execRemove s
  | .keyOperationDone => Sys2Proof.Machine.execKeyOperationDone s
  | .attestationGo => Sys2Proof.Machine.execAttestationGo s
  | .attestationReportDone => Sys2Proof.Machine.execAttestationReportDone s
  | .certificateGo => Sys2Proof.Machine.execCertificateGo s
  | .flashCopyGo => Sys2Proof.Machine.execFlashCopyGo s
  | .flashCopyDone => Sys2Proof.Machine.execFlashCopyDone s
  | .signalPresent port => Sys2Proof.Machine.execSignalPresent port s
  | .slewAcknowledgement slot busy => Sys2Proof.Machine.execSlewAcknowledgement slot busy s
  | .prbsPatternReceive port lane bits => Sys2Proof.Machine.execPrbsPatternReceive port lane bits s
  | .checkpointFlashTransferDone ok => Sys2Proof.Machine.execCheckpointFlashTransferDone ok s
  | .coldStart => Sys2Proof.Machine.execColdStart s

end Sys2Proof.Machine
end

