-- ==== Sys2Proof/WellFormed.lean ====
section
/-! DEFINITION. Well-formed commands: every index, offset and field lies in the range that the manual gives it. A command that is
not well-formed names a part that the block does not have. The meanings are total: this predicate is for statements. -/

namespace Sys2Proof

/-- A tile of the array (R31). -/
def okTile (t : Nat) : Bool := t < Config.tiles
/-- A clock region (R61). -/
def okRegion (r : Nat) : Bool := r < Config.regions
/-- A fabric port (R324). -/
def okPort (p : Nat) : Bool := p < Config.ports
/-- Where a packet enters the switch (R351, R569): a port, or 63 for this module's own edge. -/
def okInPort (p : Nat) : Bool := okPort p || p == 63
/-- A memory channel (R296). -/
def okChan (c : Nat) : Bool := c < Config.channels
/-- A stack: 12 of 128 channels (R296). -/
def okStack (k : Nat) : Bool := k < 12
/-- A hardware queue (R446). -/
def okQueue (q : Nat) : Bool := q < Config.queues
/-- An episode slot (R1). -/
def okSlot (k : Nat) : Bool := k < Config.slots
/-- A rack position of a hall (R337). -/
def okRack (r : Nat) : Bool := r < 257
/-- A slot position of a rack (R336). -/
def okRackSlot (k : Nat) : Bool := k < 32
/-- A lane group of a slot: one world each in an FP64 lath of 128 worlds (R203, R234). -/
def okGroup (g : Nat) : Bool := g < 128
/-- A world of a lath (R203). -/
def okWorld (w : Nat) : Bool := w < 128
/-- A numeric counter set of a tile (R57). -/
def okSet (n : Nat) : Bool := n < 4
/-- An operation tag (R455). -/
def okOpTag (t : Nat) : Bool := t < Config.opTags
/-- A transaction tag of the edge (R348). -/
def okTxnTag (t : Nat) : Bool := t < Config.txnTags
/-- An engine number (R502): an episode slot, a copy engine, a collective channel, the checkpoint engine or the dispatcher. -/
def okEngineNo (e : Nat) : Bool :=
  e < 96 || (0x800 ≤ e && e < 0x810) || (0x1000 ≤ e && e < 0x1040) || e == 0x1800 || e == 0x1C00
/-- A copy engine, by its number of R502. -/
def okCopyEngine (e : Nat) : Bool := e < 16
/-- A collective channel (R502). -/
def okCollChannel (c : Nat) : Bool := c < 64
/-- A CMD_INDEX (R447). -/
def okCmdIndex (i : Nat) : Bool := i < 2 ^ 32
/-- A resident model context (R431). -/
def okContext (c : Nat) : Bool := c < 256
/-- A layer of a context (R263, R431). -/
def okLayer (l : Nat) : Bool := l < 240
/-- A flag of the flag area (R468). -/
def okFlag (n : Nat) : Bool := n < 0x100000
/-- A 64-bit word of a local store (R43, R46). -/
def okLsWord (w : Nat) : Bool := w < 6144
/-- A module identifier (R338, R350). -/
def okModule (m : Nat) : Bool := m < Config.moduleIds
/-- A rank of a slice (R369). -/
def okRank (r : Nat) : Bool := r < 8224
/-- A lane of a fabric port (R324, R335). -/
def okLane (l : Nat) : Bool := l < 8
/-- A packet VC (R330). -/
def okVc (v : Nat) : Bool := v < 6
/-- A cell's sequence number (R325, R328). -/
def okSeq (n : Nat) : Bool := n < 4096
/-- A supply rail: the INDEX field of RAS_FAULT0 (R501). -/
def okRail (r : Nat) : Bool := r < 2 ^ 20
/-- A line of the stacks, by its 64-byte-aligned space-0 offset (R297). -/
def okLine (a : Nat) : Bool := a < Config.stackBytes && a % 64 == 0
/-- A line of a channel, by its number (R296, R297). -/
def okChanLine (l : Nat) : Bool := l < Config.linesPerChannel
/-- A BAR0 offset (R442, R526). -/
def okBar0 (o : Nat) : Bool := o < 0x10000000
/-- A byte of the window (R440). -/
def okWindow (o : Nat) : Bool := o < 2 ^ 32
/-- An access that stays inside the window. -/
def okAccess (o n : Nat) : Bool := n != 0 && o + n ≤ 2 ^ 32

/-- A mesh packet whose header fields lie in the widths of R55. -/
def MeshPkt.ok (p : MeshPkt) : Bool :=
  p.kind < 4 && okTile p.dest && okTile p.src && p.trigger < 16 && p.lsAddr < 4096 && p.cls < 4 && p.op < 8 && p.beatLo < 4096

/-- A fabric packet whose header fields lie in the widths of R340. -/
def FabPkt.ok (p : FabPkt) : Bool :=
  p.cls < 4 && okModule p.dest && okModule p.src && okTxnTag p.tag && p.trigger < 16 && p.beat < 2 ^ 24 && okInPort p.inPort

/-- A line request to a line that exists (R297). -/
def LineReq.ok (r : LineReq) : Bool := okLine r.addr && r.cls < 4

/-- A notice from a tile of the array (R146). -/
def NanNotice.ok (n : NanNotice) : Bool := okTile n.tile && n.cw < 256 && n.bank < 2 && okOpTag n.tag

/-- Whether a command names only parts that the block has. -/
def wellFormed : Instr → Bool
  | .controlWord tile _ => okTile tile
  | .waitBeatEnd tile => okTile tile
  | .waitTriggerTaken tile => okTile tile
  | .waitCounterEnd tile => okTile tile
  | .halt tile => okTile tile
  | .countSumPacket p => MeshPkt.ok p
  | .drainComplete tile => okTile tile
  | .answerLanding a => MeshPkt.ok a && a.op == 2
  | .packetDeposit p _ => MeshPkt.ok p
  | .triggerHeaderAccept tile => okTile tile
  | .lsEccWriteback tile word => okTile tile && okLsWord word
  | .lsScrubRead tile _ => okTile tile
  | .lsScrubForcedCycle tile _ _ => okTile tile
  | .tileStart tile slot => okTile tile && okSlot slot
  | .counterSetBind tile set tag => okTile tile && okSet set && okOpTag tag
  | .regionWakeComplete region => okRegion region
  | .tileCtrlHalt tile => okTile tile
  | .clrStall tile => okTile tile
  | .cwLdWrite => true
  | .cwLdForcedWrite => true
  | .cwLdRead => true
  | .nanNotice n => NanNotice.ok n
  | .nanWatchRecord => true
  | .rearm => true
  | .deltaPacketIngest tile slot _ => okTile tile && okSlot slot
  | .factorisationStart slot group => okSlot slot && okGroup group
  | .iterationBoundary slot group => okSlot slot && okGroup group
  | .solverIntegration slot group => okSlot slot && okGroup group
  | .adjoint slot world _ _ _ => okSlot slot && okWorld world
  | .verdictBeat => true
  | .stepRecordWrite context => okContext context
  | .beatBoundary => true
  | .syncCheckPulse _ => true
  | .syncLoadPulse _ => true
  | .arm => true
  | .disarm => true
  | .escBeatChangeWrite _ => true
  | .hsExchangeRequest t1 => decide (t1.frac < 16)
  | .hsRootReply port t2 t3 => okPort port && decide (t2.2.frac < 16) && decide (t3.frac < 16)
  | .hsExchangeReply _ _ t4 => decide (t4.frac < 16)
  | .hsIntervalNoReply => true
  | .hsHoldoverTimeout => true
  | .slewMessage port _ _ _ => okPort port
  | .slewMessageMissing => true
  | .escHsCfgWrite _ => true
  | .periodDoneSend => true
  | .periodDone src _ => okModule src
  | .periodAnnounce _ _ _ _ => true
  | .refQualify => true
  | .refLoss => true
  | .refHoldoverEnd => true
  | .registerWrite _ offset _ => okBar0 offset
  | .rcFieldRead _ offset => okBar0 offset
  | .memLineRequest r => LineReq.ok r
  | .wcbWriteWaitEnd ch => okChan ch
  | .channelLineSlot ch _ => okChan ch
  | .wcbIdleEvict ch line => okChan ch && okChanLine line
  | .stackScrubSlot ch _ => okChan ch
  | .stackThermalSample stack _ => okStack stack
  | .thermDeferExpire stack => okStack stack
  | .thermDeferEnd => true
  | .testEnterChannel ch => okChan ch
  | .testExitChannel ch => okChan ch
  | .tgGo ch => okChan ch
  | .tgStop ch => okChan ch
  | .tgDone ch => okChan ch
  | .flagOperation _ flag _ => okFlag flag
  | .flagScrub _ => true
  | .linkCellReceive port bytes symErrs => okPort port && bytes.length == 80 && symErrs.all (fun e => decide (e ≤ 544))
  | .nak port seq => okPort port && okSeq seq
  | .noSignal port => okPort port
  | .controlBlockReceive port _ _ => okPort port
  | .portCellTime port => okPort port
  | .portTrainingEnd port _ => okPort port
  | .ident port module peerPort rack slot => okPort port && okModule module && okPort peerPort && okRack rack && okRackSlot slot
  | .identOk port => okPort port
  | .linkDown port => okPort port
  | .enable port => okPort port
  | .retrain port => okPort port
  | .testEnterPort port => okPort port
  | .testExitPort port => okPort port
  | .fabPPeerWrite port _ => okPort port
  | .fabricPacketRoute port p => okInPort port && FabPkt.ok p
  | .edgeTagGrant => true
  | .read p => FabPkt.ok p
  | .write p => FabPkt.ok p
  | .atomic p => FabPkt.ok p
  | .reduceAdd p => FabPkt.ok p
  | .circuitData p => FabPkt.ok p
  | .drainMarker port vc => okPort port && okVc vc
  | .haltMarker src _ _ => okModule src
  | .readReply p => FabPkt.ok p
  | .ack p => FabPkt.ok p
  | .errorReply p => FabPkt.ok p
  | .txnTimeout tag => okTxnTag tag
  | .drainFabric => true
  | .drainMarkersSend => true
  | .drained => true
  | .drainTimeout => true
  | .rtApply => true
  | .resume => true
  | .dropRearm => true
  | .join => true
  | .leave => true
  | .joinReportSend => true
  | .joinReport src _ => okModule src
  | .joinGo _ _ => true
  | .joinMismatch rank _ _ _ => okRank rank
  | .commitReport src _ => okModule src
  | .commitDecisionDeadline => true
  | .commitGo _ => true
  | .commitStop _ rank _ => okRank rank
  | .shardGather channel => okCollChannel channel
  | .reduceScatter channel => okCollChannel channel
  | .reduceScatterGroupStage context layer => okContext context && okLayer layer
  | .reduceScatterConvert context layer => okContext context && okLayer layer
  | .skimMax channel => okCollChannel channel
  | .countSum channel => okCollChannel channel
  | .seqExchange channel => okCollChannel channel
  | .countUp src _ context _ => okModule src && okContext context
  | .countDown _ context _ => okContext context
  | .verdictUpSend => true
  | .verdictUp src _ => okModule src
  | .verdictDown _ => true
  | .go => true
  | .discard => true
  | .loadFetchDone _ => true
  | .loadVerifyDone => true
  | .loadValidateDone => true
  | .loadDistributeDone => true
  | .loadPacket p => MeshPkt.ok p
  | .stackRetimingEnd => true
  | .policy => true
  | .perst => true
  | .dmaHoldChange _ _ => true
  | .bar0BadAccess => true
  | .barReadTimeout => true
  | .windowAccess _ offset len _ => okWindow offset && okAccess offset len
  | .qDoorbell q _ => okQueue q
  | .commandFetch q _ => okQueue q
  | .fetchError q => okQueue q
  | .enableQueue q _ => okQueue q
  | .unblock q => okQueue q
  | .commandDispatch q tag => okQueue q && okOpTag tag
  | .launch q index => okQueue q && okCmdIndex index
  | .launchComplete slot => okSlot slot
  | .waitFlag q index => okQueue q && okCmdIndex index
  | .waitFlagTimeout q index => okQueue q && okCmdIndex index
  | .setFlag q index => okQueue q && okCmdIndex index
  | .copy engine => okCopyEngine engine
  | .checkpointSave => true
  | .checkpointRestore => true
  | .commit q index => okQueue q && okCmdIndex index
  | .abort q index => okQueue q && okCmdIndex index
  | .fence q index => okQueue q && okCmdIndex index
  | .status q index => okQueue q && okCmdIndex index
  | .statusMirrorWrite => true
  | .faultArrival _ => true
  | .haltRas => true
  | .rearmRas => true
  | .hangDeclared engine => okEngineNo engine
  | .dumpEntryRead _ => true
  | .dumpEnd => true
  | .replayStart => true
  | .replayWdExpiry => true
  | .replayEnd => true
  | .hangVerdicts => true
  | .engine index => okEngineNo index
  | .tileArray => true
  | .port index => okPort index
  | .channel index => okChan index
  | .warm => true
  | .cold => true
  | .resetComplete => true
  | .admitModule => true
  | .dumpDataRead => true
  | .powerSample _ _ => true
  | .dieTempSample _ => true
  | .inputUndervoltage _ => true
  | .inputOvervoltage _ => true
  | .inputWarn _ => true
  | .pwrEn _ => true
  | .powerRail rail _ => okRail rail
  | .coolant _ _ => true
  | .coolantWarn _ => true
  | .pllUnlock region => okRegion region
  | .bootStageComplete _ _ => true
  | .smbusBlockWrite _ => true
  | .smbusBlockRead _ => true
  | .install => true
  | .remove => true
  | .keyOperationDone => true
  | .attestationGo => true
  | .attestationReportDone => true
  | .certificateGo => true
  | .flashCopyGo => true
  | .flashCopyDone => true
  | .signalPresent port => okPort port
  | .slewAcknowledgement slot _ => okRackSlot slot
  | .prbsPatternReceive port lane _ => okPort port && okLane lane
  | .checkpointFlashTransferDone _ => true
  | .coldStart => true

end Sys2Proof
end

