-- ==== Sys2Proof/Safety.lean ====
section
/-! DEFINITION. The terms in which claims are stated: the invariant of the state, the parts of the state that a frame names, and
what it is for a command to run to completion. -/

namespace Sys2Proof.Machine

/-- No write of a command in progress is waiting: so every state between two commands. -/
abbrev Clean (s : State) : Prop := s.lsLog = [] ∧ s.memLog = [] ∧ s.lsWipe = false ∧ s.memWipe = false

/-- The invariant that every step keeps: both byte memories are in canonical form, and no write is waiting. -/
abbrev Inv (s : State) : Prop := Memory.wf s.ls = true ∧ Memory.wf s.mem.bytes = true ∧ Clean s

/-- A step that does not stop: the machine answers a next state. -/
def Runs (o : Host.Outcome State Fault Refusal) : Prop := ∃ t, o = .next t

/-- The parts of the state that a frame names. `tiles` is every tile's registers; `ls` the bytes of the local stores and `bytes`
those of the stacks; `chans`, `stacks` and `memRegs` the channels, the stacks' registers and the module-wide memory registers;
`ports` the fabric ports and `fab` the rest of the fabric; `flags` the flag area, `queues` the hardware queues with their records,
held records and posted writes, `landed` the register writes that wait for a boundary, and `host` the rest of the host link. -/
inductive Piece where
  | tiles | regions | ls | lsMarks | mesh | answers | cwld | nan | solvCtrl | laths | slots | ctxs | train | esc
  | memRegs | stks | chans | bytes | memMarks | inbox | ports | fab | slice | cfg
  | flags | queues | landed | host | ras | hang | power | flash | freeCtr
  deriving DecidableEq, Repr

/-- Piece `p` is the same in both states. Memories are compared through the read of one byte, tiles one by one. -/
def Piece.same : Piece → State → State → Prop
  | .tiles, s, t => ∀ n, t.tile n = s.tile n
  | .regions, s, t => t.regions = s.regions
  | .ls, s, t => ∀ a, Memory.get t.ls a = Memory.get s.ls a
  | .lsMarks, s, t => t.lsMarks = s.lsMarks
  | .mesh, s, t => t.mesh = s.mesh ∧ t.meshTc = s.meshTc
  | .answers, s, t => t.answers = s.answers
  | .cwld, s, t => t.cwld = s.cwld
  | .nan, s, t => t.nan = s.nan
  | .solvCtrl, s, t => t.solvCtrl = s.solvCtrl
  | .laths, s, t => t.laths = s.laths
  | .slots, s, t => t.slots = s.slots
  | .ctxs, s, t => t.ctxs = s.ctxs
  | .train, s, t => t.train = s.train
  | .esc, s, t => t.esc = s.esc
  | .memRegs, s, t => t.mem.cfg = s.mem.cfg ∧ t.mem.thermCfg = s.mem.thermCfg ∧ t.mem.status = s.mem.status
  | .stks, s, t => t.mem.stks = s.mem.stks
  | .chans, s, t => t.mem.chans = s.mem.chans
  | .bytes, s, t => ∀ a, Memory.get t.mem.bytes a = Memory.get s.mem.bytes a
  | .memMarks, s, t => t.mem.marks = s.mem.marks
  | .inbox, s, t => t.mem.inbox = s.mem.inbox
  | .ports, s, t => t.fab.ports = s.fab.ports
  | .fab, s, t => { t.fab with ports := [] } = { s.fab with ports := [] }
  | .slice, s, t => t.slice = s.slice
  | .cfg, s, t => t.cfg = s.cfg
  | .flags, s, t => t.host.flags = s.host.flags ∧ t.host.flagMarks = s.host.flagMarks
  | .queues, s, t => t.host.queues = s.host.queues ∧ t.host.held = s.host.held ∧ t.host.out = s.host.out ∧
      t.host.tags = s.host.tags
  | .landed, s, t => t.host.landed = s.host.landed
  | .host, s, t =>
      { t.host with flags := [], flagMarks := [], queues := [], held := [], out := [], tags := [], landed := [] } =
      { s.host with flags := [], flagMarks := [], queues := [], held := [], out := [], tags := [], landed := [] }
  | .ras, s, t => t.ras = s.ras
  | .hang, s, t => t.hang = s.hang
  | .power, s, t => t.power = s.power
  | .flash, s, t => t.flash = s.flash
  | .freeCtr, s, t => t.freeCtr = s.freeCtr

/-- What an engine's own access to stack memory can touch beside the bytes it stores: it performs the requests that wait for its lines,
which answers them (R302). -/
abbrev engineParts : List Piece := [.chans, .bytes, .memMarks, .queues, .answers, .tiles, .fab, .ras]

/-- From `s` to `t` nothing changed but the parts listed: the queue of commands is the same, no write is left waiting, and every
part that is not listed is the same. -/
def Frame (changed : List Piece) (s t : State) : Prop :=
  t.pending = s.pending ∧ Clean t ∧ ∀ p, p ∉ changed → p.same s t

/-- Command `c` runs to completion from `s`: exec answers a next state, of which `post` holds and which differs from `s` in the
listed parts alone. -/
def Does (c : Instr) (s : State) (changed : List Piece) (post : State → Prop) : Prop :=
  ∃ t, exec c s = .next t ∧ post t ∧ Frame changed s t

/-! ## Terms of several statements -/

/-- From `s` to `t`, command `c` of queue `q`, which no replay runs, has completed with a status, bytes 16 to 31 of its record and its counts of
worlds (R441, R448, R455, R463, R465, R467): it has left the queue. While DMA is allowed and no held record is to come before it, its record has been written to the completion ring, bytes 8 to 31 before bytes 0 to 7, its tag is free, and
OLDEST moves past it where it was the oldest; otherwise the record is held, and tag and OLDEST stay. The other queues are as before. -/
def Completed (s t : State) (q : Nat) (c : Cmd) (status : Nat) (body : Flit) (nc ab dv : Nat := 0) (beat : W64 := s.esc.beat) : Prop :=
  let x := s.queue q
  let r : Record := { q := q, index := c.index, opcode := cmdOp c.raw, status := status, user := cmdFld c.raw 4 2, notConv := nc
                      abandoned := ab, diverged := dv, beat := beat, body := if body = 0 then idleBody c.raw else body, tag := c.tag }
  let a := x.cq + BitVec.ofNat 64 (32 * (c.index % x.size))
  t.cmd q c.index = none ∧ (∀ p, p ≠ q → t.queue p = s.queue p) ∧
  (s.recordNow = true → t.host.held = s.host.held ∧ t.host.out = s.host.out ++
    [{ addr := a + 8, bytes := (recordBytes r x.size).drop 8 }, { addr := a, bytes := (recordBytes r x.size).take 8 }] ∧
    (∀ g, c.tag = some g → afind t.host.tags g = none) ∧
    (x.oldest = c.index → x.recorded = [] → (t.queue q).oldest = (c.index + 1) % 2 ^ 32 ∧ (t.queue q).recorded = [])) ∧
  (s.recordNow = false → t.host.held = s.host.held ++ [r] ∧ t.host.out = s.host.out ∧ t.host.tags = s.host.tags ∧
    (t.queue q).oldest = x.oldest ∧ (t.queue q).recorded = x.recorded)

/-- Transaction `tg` of the edge is request `tag` of tile `tl`, of which one line or flag operation is left and none has failed (R348). -/
def TileTxn (s : State) (tg tl tag : Nat) : Prop :=
  (s.fab.txns.find? (fun u => u.tag == tg)).any (fun u =>
    u.src == .tile tl tag && u.left == 1 && !u.held && u.err == none) = true

/-- From `s` to `t`, that transaction has retired, and the tile's answer has entered the mesh with its data or its error (R82, R341, R348). -/
def TxnAnswered (s t : State) (tg tl tag : Nat) (data : Line) (e : Option DropCause) : Prop :=
  t.answers = s.answers ++ [s.answerPkt tl tag (if e.isSome then [] else toFlits (lineBytes data)) e] ∧
  t.fab = { s.fab with txns := s.fab.txns.filter (fun x => x.tag != tg) }

/-- Nothing of a tile is in flight: no read, write, result, conversion, drain or request is under way, the local port is empty, no word or
K_END waits for its second part, and no binding or start waits. -/
def TileQuiet (x : Tile) : Prop :=
  x.reads = [] ∧ x.writes = [] ∧ x.zeros = [] ∧ x.lsPend = [] ∧ x.pend64 = [] ∧ x.resDue = [] ∧ x.drain = none ∧ x.sendQ = [] ∧
  x.inject = 0 ∧ x.port = [] ∧ x.part = none ∧ x.lost = false ∧ x.kend = none ∧ x.took = none ∧ x.cvt = none ∧ x.bindDue = [] ∧
  x.startDue = none

/-- The launch that started a tile has made progress in the present beat (R502): the slots of s as they are after it. -/
def ProgressedSlot (s : State) (x : Tile) (n j : Nat) : Slot :=
  if x.slot = some j then { s.slot j with launch := (s.slot j).launch.map (fun l =>
    if l.left.contains n then { l with progress := s.esc.beat } else l) } else s.slot j

/-- The fields of a fabric header lie in the widths of R340; the port that a COPY names is no part of it. -/
def HeaderFits (p : FabPkt) : Prop :=
  p.cls < 4 ∧ p.dest < 2 ^ 14 ∧ p.src < 2 ^ 14 ∧ p.srcTile < 2 ^ 20 ∧ p.tag < 2 ^ 17 ∧ p.trigger < 16 ∧ p.aop < 16 ∧ p.aw < 4 ∧
  p.rfmt < 4 ∧ p.hops < 4 ∧ p.circuit < 256 ∧ p.beat < 2 ^ 24 ∧ p.payload.length < 32 ∧ p.cirPort = 63 ∧
  (match p.op with | .reserved c => decide (11 ≤ c ∧ c < 16) | _ => true) = true

/-- The fields of a cell lie in the widths of R325. -/
def CellFits (c : Cell) : Prop :=
  c.type < 16 ∧ c.vc < 8 ∧ c.seq < 2 ^ 12 ∧ c.circuit < 2 ^ 8 ∧ c.ack < 2 ^ 12 ∧ c.credits.length = 6 ∧ ∀ n ∈ c.credits, n < 2 ^ 8

/-- The oldest collective `r` of channel `c` has ended and nothing of the channel waits behind it: the channel is free, COMPLETED has
counted, its command has left its queue, and a period waits for it no more. -/
def CollEnded (s t : State) (c : Nat) (r : CollRun) : Prop :=
  t.collRun c = none ∧ fld (aget 0 t.slice.chans c) 32 32 = (fld (aget 0 s.slice.chans c) 32 32 + 1) % 2 ^ 32 ∧
  t.cmd r.q r.index = none ∧ ((s.cmd r.q r.index).isSome = true → t.esc.bound = s.esc.bound.erase (r.q, r.index))

/-- Unit and index of a fault as one number: the order in which faults of one beat are recorded (R481). -/
def faultKey (u : FaultUnit) (index : Nat) : Nat := unitCode u * 2 ^ 20 + index % 2 ^ 20

/-- The fault registers hold fault `f` of the present beat (R501). -/
def Recorded (s t : State) (f : FaultRec) : Prop :=
  bitOf t.ras.fault0 0 = true ∧ fld t.ras.fault0 1 8 = causeCode f.cause ∧ fld t.ras.fault0 9 4 = unitCode f.unit ∧
  fld t.ras.fault0 13 20 = f.index % 2 ^ 20 ∧ fld t.ras.fault0 33 8 = f.cwAddr % 256 ∧ fld t.ras.fault0 41 1 = f.bank % 2 ∧
  t.ras.fault1 = s.esc.beat ∧ fld t.ras.fault2 0 16 = f.tag % 65536 ∧ fld t.ras.fault2 16 32 = f.laneMask.toNat ∧ fld t.ras.fault2 48 8 = f.laterWords % 256 ∧
  fld t.ras.fault2 56 6 = f.laneCauses % 64 ∧ t.ras.fault3 = f.detail ∧ bitOf t.ras.status 0 = true

/-- Bytes `bs` stand in the dump buffer from offset `a`, and every other byte of it is as before. -/
def BufferHas (s t : State) (a : Nat) (bs : List Byte) : Prop :=
  (∀ j, j < bs.length → Memory.get t.hang.buffer (a + j) = nth 0 bs j) ∧
  ∀ i, i < a ∨ a + bs.length ≤ i → Memory.get t.hang.buffer i = Memory.get s.hang.buffer i

/-- CROWN_RESET_STATUS shows the reset of a domain: LAST_DOMAIN, PENDING, RESULT and LAST_INDEX. -/
def ResetNoted (t : State) (domain index : Nat) (pending : Bool) (result : Nat) : Prop :=
  fld t.hang.resetStatus 0 3 = domain ∧ bitOf t.hang.resetStatus 3 = pending ∧ fld t.hang.resetStatus 4 3 = result ∧
  fld t.hang.resetStatus 8 16 = index % 65536

end Sys2Proof.Machine
end

