-- ==== Sys2Proof/Certificates/Slice0/Obligations.lean ====
section
/-! DEFINITION. The statements of this model for its provers, by chapter of the spec. `Does c s parts post` says that command c runs to
completion from s, that post holds of the state after it, and that no part of the state but those listed has changed. -/

section
open Sys2Proof Sys2Proof.Machine

/-! ## The machine as a whole -/

/-- A step runs the command at the front of the queue, with the rest of the queue left waiting, and is exec of that command; on an empty
queue a mesh cycle passes, which takes nothing from the queue and writes no memory (the model's choice, log 1). -/
def Obligations.StepRunsTheFront : Prop :=
  ∀ (s : State) (c : Instr) (r : List Instr),
    (s.pending = c :: r → step s = exec c { s with pending := r }) ∧
    step { s with pending := c :: r } = exec c { s with pending := r } ∧
    (s.pending = [] → step s = .next s.meshCycle ∧ s.meshCycle.pending = [] ∧ s.meshCycle.ls = s.ls ∧ s.meshCycle.mem.bytes = s.mem.bytes ∧
      s.meshCycle.meshTc = (s.meshTc + 1) % 16)

/-- No command stops: from every state every step answers a next state, and it takes the front of the queue and nothing else from the
queue (the model's reading: a command whose premise does not hold changes nothing, log 7).
Every step keeps the invariant: both byte memories stay in canonical form, and no write of a command is left waiting. It holds from
every state that has it, whatever the command. -/
def Obligations.StepAnswersAndKeepsTheInvariant : Prop :=
  (∀ s : State, ∃ t, step s = .next t ∧ t.pending = s.pending.drop 1) ∧
  ∀ s t : State, Inv s → step s = .next t → Inv t

/-- State.reset has the invariant, an empty queue, and the reset values that the spec's register tables give: among them BEAT_RC and
BEAT_RC_NEW 512, P 0, MODULE_ID 0x3FFF, WD_BEATS 50,000 and REPLAY_WD 1,024, RESET_LIMIT 3 and WINDOW_S 600, CAP_W 7,500,
DIE_THROTTLE 100, UP_HOLD_MS 10, MAX_MHZ and TILE_MHZ 1,400, and STAGE 0; queues are DISABLED, tiles HALTED, flags 0
(R295, R366, R474, R525, R564). -/
def Obligations.ResetHoldsTheInvariant : Prop :=
  let z := State.reset
  Inv z ∧ z.pending = [] ∧ z.esc.beat = 0 ∧ fld z.esc.beatCfg 0 16 = 512 ∧ fld z.esc.beatCfg 16 16 = 512 ∧ z.synced = false ∧
  fld z.fab.id 0 14 = 0x3FFF ∧ fld z.hang.wdCfg 0 32 = 50000 ∧ fld z.hang.wdCfg 32 16 = 1024 ∧ fld z.hang.escCfg 0 8 = 3 ∧
  fld z.hang.escCfg 8 16 = 600 ∧ z.hang.status = 0 ∧ fld z.power.pwrCfg 0 16 = 7500 ∧ fld z.power.pwrCfg 16 8 = 100 ∧
  fld z.power.pwrCfg 24 8 = 10 ∧ fld z.power.pwrCfg 32 12 = 1400 ∧ fld z.power.pwrStatus 16 12 = 1400 ∧ fld z.power.boot 0 4 = 0 ∧
  (∀ q, (z.queue q).st = 0) ∧ (∀ n, (z.tile n).st = .halted) ∧ (∀ k, z.flag k = 0) ∧ z.ras.fault0 = 0 ∧ z.sliceSt = 0 ∧ z.loadSt = 0

/-! ## Tiles: control words, waits, halts and starts (chapters 02, 03) -/

/-- CONTROL_WORD, a word of SEQ and CNT fields alone, on a running tile with nothing in flight: it acts in one tile cycle. The counter
that CNT_SEL names takes the value of CNT_OP, and the next address follows SEQ_OP: the branches on a counter test the value of the
same word, those on a comparator its relation before the word. Nothing else of the tile or of the block changes. -/
def Obligations.SequencerAndCounters : Prop :=
  ∀ (s : State) (n : Nat), Clean s →
    let x := s.tile n
    let w := x.cur
    s.tileRuns n = true → x.st = .run → x.waitEnd = none → TileQuiet x → x.scrubPair = none → x.parityBad = false →
    nfld w 13 155 = 0 → nfld w 191 65 = 0 → wSeqOp w ≤ 5 → wCntOp w ≤ 5 →
    Does (.controlWord n {}) s [.tiles] fun t =>
      let y := t.tile n
      (∀ m, m ≠ n → t.tile m = s.tile m) ∧
      y = { x with cw := y.cw, held := none, cnts := y.cnts, replyOf := y.replyOf, serial := x.serial + 1, tc := x.tc + 1 } ∧
      (∀ k, k ≠ wCntSel w → y.counter k = x.counter k) ∧
      y.counter (wCntSel w) =
        (match wCntOp w with
         | 0 => x.counter (wCntSel w)
         | 1 => x.counter (wCntSel w) + BitVec.ofInt 32 (sext 16 (wCntConst w))
         | 2 => BitVec.ofNat 32 (wCntConst w)
         | 3 => x.counter (wCntSrc w)
         | 4 => 8
         | _ => if x.counter (wCntSel w) < 8 then 0 else x.counter (wCntSel w) - 8) ∧
      y.cw =
        (match wSeqOp w with
         | 0 => (x.cw + 1) % 256
         | 1 => wTarget w
         | 2 => if y.counter (wSeqSel w) = 0 then wTarget w else (x.cw + 1) % 256
         | 3 => if y.counter (wSeqSel w) = 0 then (x.cw + 1) % 256 else wTarget w
         | 4 => if x.cmpTrue (wSeqSel w) 8 then wTarget w else (x.cw + 1) % 256
         | _ => if x.cmpTrue (wSeqSel w) 8 then (x.cw + 1) % 256 else wTarget w)

/-- CONTROL_WORD, a word of the VEC group alone with an integer operation of ADD, SUB, MIN, MAX, AND, OR and XOR, on a running tile with
nothing in flight and its registers ready: every lane of VD that is active becomes the operation of the lanes of VA and VB, and every
other lane and every other register is as before (R87, R176, R177). -/
def Obligations.VectorIntegerLanes : Prop :=
  ∀ (s : State) (n : Nat), Clean s →
    let x := s.tile n
    let w := x.cur
    let by_ := laneBytes (wLw w)
    let bits := 8 * by_
    s.tileRuns n = true → x.st = .run → x.waitEnd = none → TileQuiet x → x.scrubPair = none → x.parityBad = false → x.vecFree ≤ x.tc →
    (∀ r ∈ x.vready, r.2 ≤ x.tc) → (∀ r ∈ x.gatherLeft, r.2 = 0) →
    (x.cset 0).sat < 2 ^ 32 → (x.cset 0).flush < 2 ^ 32 → (x.cset 0).replay < 2 ^ 32 → (x.cset 0).nan < 2 ^ 32 →
    nfld w 0 104 = 0 → nfld w 124 9 = 0 → nfld w 135 121 = 0 → wLw w ≤ 2 → [4, 6, 10, 11, 12, 13, 14].contains (wVop w) = true →
    Does (.controlWord n {}) s [.tiles] fun t =>
      let y := t.tile n
      (∀ m, m ≠ n → t.tile m = s.tile m) ∧
      y = { x with vregs := y.vregs, vready := y.vready, vecFree := x.tc + 1, sets := y.sets, cw := (x.cw + 1) % 256, held := none
                   serial := x.serial + 1, tc := x.tc + 1 } ∧
      (∀ m, y.cset m = x.cset m) ∧ (∀ r, r ≠ wVd w → y.vreg r = x.vreg r) ∧
      ∀ i < laneCount (wLw w),
        let a := regElem (x.vreg (wVa w)) by_ i
        let b := regElem (x.vreg (wVb w)) by_ i
        regElem (y.vreg (wVd w)) by_ i =
          if wTailc w = 0 ∨ i < (x.counter (wTailc w)).toNat then
            (match wVop w with
             | 4 => (a + b) % 2 ^ bits
             | 6 => (a + 2 ^ bits - b) % 2 ^ bits
             | 10 => if sext bits a ≤ sext bits b then a else b
             | 11 => if sext bits a ≤ sext bits b then b else a
             | 12 => a &&& b
             | 13 => a ||| b
             | _ => a ^^^ b)
          else regElem (x.vreg (wVd w)) by_ i

/-- The waits: with the armed beat reached, the tested counter at zero, or an accepted trigger queued, the WAIT word ends and the tile goes on
at SEQ_TARGET or at the trigger's entry, its other fields acting as the model's cycle does it; the oldest accepted index leaves the queue,
the others stay in order; an entry that is not VALID puts the tile in FAULT with TRIGGER_INVALID. The end of the wait is a progress event
of the tile's launch. A word that names nothing beside its wait, on a tile with nothing in flight, changes nothing else (R102, R103, R105,
R502). -/
def Obligations.WaitsEnd : Prop :=
  ∀ (s : State) (n : Nat), Clean s → s.tileRuns n = true →
    let x := s.tile n
    let w := x.cur
    let plain := TileQuiet x ∧ x.scrubPair = none ∧ nfld w 16 188 = 0 ∧ nfld w 237 19 = 0 ∧ wSeqOp w = 6
    let goesOn := fun (t : State) (y : Tile) => (∀ m, m ≠ n → t.tile m = s.tile m) ∧ t.tile n = y ∧ ∀ j, t.slot j = ProgressedSlot s x n j
    (∀ b, x.st = .waitBeat ∨ x.st = .waitEither → x.armed = some b → b.toNat ≤ s.esc.beat.toNat →
      exec (.waitBeatEnd n) s = .next (endOf s (s.endByBeat n w b {})) ∧
      (plain → Does (.waitBeatEnd n) s [.tiles, .slots] fun t =>
        goesOn t { x with st := .run, held := none, cw := wTarget w, waitEnd := none, armed := none, lastArmed := some b
                          serial := x.serial + 1, tc := x.tc + 1 })) ∧
    (x.st = .waitCounter → x.counter (wSeqSel w) = 0 → x.took = none →
      exec (.waitCounterEnd n) s = .next (endOf s (s.endWait n w (wTarget w) {})) ∧
      (plain → Does (.waitCounterEnd n) s [.tiles, .slots] fun t =>
        goesOn t { x with st := .run, held := none, cw := wTarget w, waitEnd := none, armed := none, serial := x.serial + 1, tc := x.tc + 1 })) ∧
    (∀ (i : Nat) (before after : List Nat),
      x.st = .waitTrigger ∨ (x.st = .waitEither ∧ x.armed.all (fun b => decide (s.esc.beat.toNat < b.toNat)) = true) → x.took = none →
      x.trig = before ++ i :: after → nfld (wTrigMask w) (i - 1) 1 = 1 → (∀ j ∈ before, nfld (wTrigMask w) (j - 1) 1 = 0) →
      let s1 := s.takeTrig n w (i, before.length)
      (nfld (x.entry i).toNat 8 1 = 1 → exec (.waitTriggerTaken n) s = .next (endOf s (s1.waitCycle n {})) ∧
        (plain → Does (.waitTriggerTaken n) s [.tiles, .slots] fun t =>
          goesOn t { x with st := .run, held := none, cw := nfld (x.entry i).toNat 0 8, waitEnd := none, armed := none, trig := before ++ after
                            serial := x.serial + 1, tc := x.tc + 2 })) ∧
      (nfld (x.entry i).toNat 8 1 = 0 → Does (.waitTriggerTaken n) s [.tiles, .slots, .ras] fun t =>
        goesOn t { x with st := .fault, held := none, waitEnd := none, armed := none, part := none, kend := none, trig := before ++ after } ∧
        t.ras = { s.ras with tree := s.ras.tree ++ [{ cause := .triggerInvalid, unit := .tile, index := n, cwAddr := x.cw
                                                      bank := x.bank, tag := (x.cset (wCset w)).tag }] }))

/-- HALT, TILE_CTRL.HALT, COUNTER_SET_BIND, COUNT_SUM_PACKET and CLR_STALL. A HALT word of an idle tile enters HALTED; so does TILE_CTRL.HALT,
which abandons what the tile has open, and which leaves a tile in HALTED or FAULT as it is. Both send every bound set to the parent in
the count tree of its operation and release it, and count the tile out of its launch, whose completion beat the last one sets. A set is
bound and cleared, or waits for the sum that another operation has still to send. A node adds what it receives to its own set, stopping at
0xFFFF_FFFF, and passes on what it has no set for; from the root the sums enter their launch (R58, R59, R60, R70, R98). That TAGn keeps
the tag of a set that has been sent is the model's choice (log 110). -/
def Obligations.HaltsAndCounterSets : Prop :=
  ∀ (s : State) (n k p : Nat) (l : Launch), Clean s →
    let x := s.tile n
    let sum := fun (tag set : Nat) (f : Flit) => ({ kind := 3, dest := p, src := n, trigger := 0, lsAddr := 0, cls := 1, op := 5
                                                    beatLo := s.esc.beat.toNat % 4096, addr := BitVec.ofNat 64 set, tag := tag
                                                    payload := [f], way := hopsOf (wayTile n p) } : MeshPkt)
    let halted := fun (t : State) =>
      (∀ m, m ≠ n → t.tile m = s.tile m) ∧
      (∀ m, (t.tile n).cset m = if (x.cset m).bound then { tag := (x.cset m).tag } else x.cset m) ∧
      t.mesh = s.mesh ++ (x.sets.filter (fun c => c.2.bound)).map (fun c => sum c.2.tag c.1
        (BitVec.ofNat 128 (c.2.sat + c.2.flush * 2 ^ 32 + c.2.replay * 2 ^ 64 + c.2.nan * 2 ^ 96))) ∧
      (∀ j, j ≠ k → t.slot j = s.slot j) ∧
      t.slot k = { s.slot k with launch := some { l with
        left := l.left.filter (fun i => i != n), progress := s.esc.beat
        doneBeat := if (l.left.filter (fun i => i != n)).isEmpty then some s.esc.beat else l.doneBeat } }
    (TileQuiet x → x.slot = some k → (s.slot k).launch = some l → l.left.contains n = true →
      (∀ c ∈ x.sets, c.2.bound = true → afind (s.countTree c.2.tag) n = some (p + 1)) →
      (s.tileRuns n = true → x.st = .run ∨ x.st = .stall → x.cur = 7 → x.idle = true → x.parityBad = false → x.blkX = 0 → x.g16 = none →
        x.g64 = none → x.waitEnd = none → x.kloop = none → x.scrubPair = none → (∀ g ∈ x.gens, g.2.pkt = none) →
        Does (.halt n) s [.tiles, .mesh, .slots] fun t => halted t ∧
          t.tile n = { x with st := .halted, held := none, armed := none, haltPend := false, startPend := false, sets := (t.tile n).sets
                              serial := x.serial + 1, tc := x.tc + 1 }) ∧
      (x.st ≠ .halted → x.st ≠ .fault → x.g16 = none → x.g64 = none →
        Does (.tileCtrlHalt n) s [.tiles, .mesh, .slots] fun t => halted t ∧
          t.tile n = { x with st := .halted, held := none, armed := none, waitEnd := none, haltPend := false, startPend := false, kloop := none
                              gens := (t.tile n).gens, sets := (t.tile n).sets } ∧
          ∀ g, (t.tile n).gen g = { x.gen g with pkt := none })) ∧
    (x.st ≠ .halted → x.st ≠ .fault → ∃ t, exec (.tileCtrlHalt n) s = .next t ∧ (t.tile n).st = .halted ∧ (t.tile n).drain = none ∧
      (t.tile n).sendQ = [] ∧ (t.tile n).kloop = none ∧ (t.tile n).part = none ∧ ∀ g, ((t.tile n).gen g).pkt = none) ∧
    (x.st = .halted ∨ x.st = .fault → Does (.tileCtrlHalt n) s [] fun _ => True) ∧
    (∀ set tag, (x.cset (set % 4)).bound = false → Does (.counterSetBind n set tag) s [.tiles] fun t =>
      (∀ m, m ≠ n → t.tile m = s.tile m) ∧ t.tile n = { x with sets := (t.tile n).sets } ∧
      (t.tile n).cset (set % 4) = { tag := tag % 65536, bound := true } ∧ ∀ m, m ≠ set % 4 → (t.tile n).cset m = x.cset m) ∧
    (∀ set tag, (x.cset (set % 4)).bound = true → Does (.counterSetBind n set tag) s [.tiles] fun t =>
      (∀ m, m ≠ n → t.tile m = s.tile m) ∧ t.tile n = { x with
        bindDue := if (x.cset (set % 4)).tag = tag % 65536 then x.bindDue else x.bindDue ++ [(set % 4, tag % 65536)] }) ∧
    (Does (.clrStall n) s [.tiles] fun t =>
      (∀ m, m ≠ n → t.tile m = s.tile m) ∧ t.tile n = { x with bankStalls := 0, unitStalls := 0 }) ∧
    (∀ (q : MeshPkt) (f : Flit), q.kind = 3 → q.dest = n → q.payload = [f] → q.way = [] → s.nextOfPath q = true → s.tileFrozen n = false →
      let m := q.addr.toNat % 4
      let c := x.cset m
      let v := fun i => nfld f.toNat (32 * i) 32
      (c.bound = true → c.tag = q.tag →
        Does (.countSumPacket q) s [.tiles, .mesh] fun t => t.mesh = s.mesh.erase q ∧ (∀ j, j ≠ n → t.tile j = s.tile j) ∧
          t.tile n = { x with sets := (t.tile n).sets } ∧ (∀ j, j ≠ m → (t.tile n).cset j = x.cset j) ∧
          (t.tile n).cset m = { c with sat := min (c.sat + v 0) 0xFFFFFFFF, flush := min (c.flush + v 1) 0xFFFFFFFF
                                       replay := min (c.replay + v 2) 0xFFFFFFFF, nan := min (c.nan + v 3) 0xFFFFFFFF }) ∧
      (c.bound = false ∨ c.tag ≠ q.tag → afind (s.countTree q.tag) n = some (p + 1) →
        Does (.countSumPacket q) s [.mesh] fun t => t.mesh = s.mesh.erase q ++ [sum q.tag m f]) ∧
      (c.bound = false ∨ c.tag ≠ q.tag → afind (s.countTree q.tag) n = none → (s.slots.map (·.1)).Pairwise (· < ·) →
        Does (.countSumPacket q) s [.mesh, .slots] fun t => t.mesh = s.mesh.erase q ∧
          ∀ j, t.slot j = { s.slot j with launch := (s.slot j).launch.map (fun r => if r.tag = q.tag then { r with
            sat := min (r.sat + v 0) 0xFFFFFFFF, flush := min (r.flush + v 1) 0xFFFFFFFF, replay := min (r.replay + v 2) 0xFFFFFFFF
            nan := min (r.nan + v 3) 0xFFFFFFFF
            setSums := aset (0, 0) r.setSums m (min ((aget (0, 0) r.setSums m).1 + v 0) 0xFFFFFFFF,
                                                min ((aget (0, 0) r.setSums m).2 + v 1) 0xFFFFFFFF) } else r) }))

/-- TILE_START and REGION_WAKE_COMPLETE: a start clears the pending triggers, the comparators, the block position and the records of the
launch before, records the launch beat, leaves accumulators, vector registers, counters and generators as they were, and begins at
entry 0 of the active bank, at once in a region in RUN and else when the region, which then wakes, reaches RUN; an entry 0 that is not
VALID puts the tile in FAULT (R63, R100, R163, R199). While the tile still runs an earlier operation the start waits for its halt (R58). -/
def Obligations.TileStarts : Prop :=
  ∀ (s : State) (n slot region : Nat) (l : Launch), Clean s →
    let x := s.tile n
    let g := s.region (regionOf n)
    let started : Tile := { x with
      st := .run, cw := nfld (x.entry 0).toNat 0 8, held := none, trig := [], cmps := [], blkX := 0, blkY := 0, blkGroups := []
      tc := x.settle.tc, startDue := none
      launchBeat := l.armBeat, lastArmed := none, armed := none, waitEnd := none, slot := some slot, port := [], scrubPair := none
      nanValid := false, nanCw := 0, nanBank := 0, nanBeat := 0, cap := {}, srCtr := x.sr.elemBase, startPend := g.st != 0 }
    let woken := fun (t : State) => (∀ m, m ≠ n → t.tile m = s.tile m) ∧ ∀ r, t.region r =
      if r = regionOf n ∧ (g.st = 1 ∨ g.st = 2) then { g with st := 3, fromOff := g.st == 2, wakes := min (g.wakes + 1) 0xFFFF }
      else s.region r
    ((s.slot slot).launch = some l → l.tiles.contains n = true → x.st = .halted → x.bindDue = [] →
      (nfld (x.entry 0).toNat 8 1 = 1 → Does (.tileStart n slot) s [.tiles, .regions] fun t => t.tile n = started ∧ woken t) ∧
      (nfld (x.entry 0).toNat 8 1 = 0 → Does (.tileStart n slot) s [.tiles, .regions, .ras] fun t => woken t ∧
        t.tile n = { started with st := .fault, took := none, part := none, kend := none } ∧
        t.ras = { s.ras with tree := s.ras.tree ++ [{ cause := .triggerInvalid, unit := .tile, index := n
                                                      cwAddr := nfld (x.entry 0).toNat 0 8, bank := x.bank, tag := l.tag }] })) ∧
    ((s.slot slot).launch = some l → l.tiles.contains n = true → x.st ≠ .halted → x.st ≠ .fault →
      Does (.tileStart n slot) s [.tiles] fun t =>
        t.tile n = { x with startDue := some slot } ∧ ∀ m, m ≠ n → t.tile m = s.tile m) ∧
    (s.tileDef.startPend = false → (s.region region).st = 3 → Does (.regionWakeComplete region) s [.tiles, .regions] fun t =>
      (∀ r, r ≠ region → t.region r = s.region r) ∧
      t.region region = { s.region region with st := 0, lock := true, fromOff := false } ∧
      ∀ m, t.tile m = if regionOf m = region then { s.tile m with startPend := false } else s.tile m)

/-- PACKET_DEPOSIT, TRIGGER_HEADER_ACCEPT, ANSWER_LANDING and DRAIN_COMPLETE. A packet whose flits have all come to its tile's local port
enters in the order of its path: the payload of a write enters the local store at LS_ADDR, its flits taking their bank pairs, and its trigger
joins the tile's queue and wakes a sleeping region; a read request is answered with the 64 bytes; a CRC error is reported and the packet
delivered as it is; a header with a trigger is accepted while queued and accepted ones number below 16 (R51, R56, R63, R65, R91, R104). The
answer of a counted request frees its count and lowers the counters that COUNT_REPLY named; it writes the 64 bytes of a DEPOSIT read, or
zeros where data is lost, or the elements of a gather (R82, R193). A drain ends with its last write, in the tile cycle that makes it, and
one step of its generator (R37, R86). A tile of a slot that is frozen as hung takes nothing (R506). -/
def Obligations.PacketsAndAnswers : Prop :=
  ∀ (s : State) (n : Nat), Clean s →
    let x := s.tile n
    let at_ := n * Config.lsStride
    let taking := x.st = .halted ∨ x.st = .fault
    (∀ (p : MeshPkt) (crcBad : Bool), p.kind = 0 → p.dest = n → p.op ≠ 6 → p.way = [] → s.nextOfPath p = true → s.tileFrozen n = false →
      let base := p.lsAddr * 16
      let bs := payloadBytes p.payload
      let g := s.region (regionOf n)
      let y := if taking then x else { x with port := x.port ++ tab p.payload.length (fun i => bankPair (base + 16 * i)) }
      let taken := fun (t : State) => t.mesh = s.mesh.erase p ∧ (∀ m, m ≠ n → t.tile m = s.tile m) ∧
        t.ras = (if crcBad then { s.ras with tree := s.ras.tree ++
          [{ cause := .meshCrc, unit := .tile, index := n, cwAddr := x.cw, bank := x.bank }] } else s.ras)
      (p.op ≠ 1 → p.trigger = 0 ∨ x.hdrs ≠ 0 ∨ x.trig.length < 16 →
        Does (.packetDeposit p crcBad) s [.mesh, .ls, .lsMarks, .tiles, .regions, .ras, .fab] fun t => taken t ∧
          (∀ i b, bs[i]? = some b → base + i < Config.lsBytes → Memory.get t.ls (at_ + base + i) = b) ∧
          (∀ a, (∀ i < bs.length, base + i < Config.lsBytes → a ≠ at_ + base + i) → Memory.get t.ls a = Memory.get s.ls a) ∧
          t.tile n = (if p.trigger = 0 then y else { y with trig := x.trig ++ [p.trigger], hdrs := x.hdrs - 1 }) ∧
          (∀ r, t.region r = if p.trigger ≠ 0 ∧ r = regionOf n ∧ (g.st = 1 ∨ g.st = 2)
            then { g with st := 3, fromOff := g.st == 2, wakes := min (g.wakes + 1) 0xFFFF } else s.region r) ∧
          t.fab = (match p.edge with | some f => (s.replyFab f [] none).fab | none => s.fab)) ∧
      (p.op ≠ 1 → p.trigger ≠ 0 → x.hdrs = 0 → 16 ≤ x.trig.length → Does (.packetDeposit p crcBad) s [] fun _ => True) ∧
      (p.op = 1 → p.trigger = 0 → p.edge = none → (∀ i < 8, s.lsMark n (2 * p.lsAddr + i) = .good) →
        Does (.packetDeposit p crcBad) s [.mesh, .answers, .ras] fun t => taken t ∧
          t.answers = s.answers ++ [s.answerPkt p.src p.tag (toFlits (tab 64 (fun i => Memory.get s.ls (at_ + base + i)))) none])) ∧
    (∀ (p : MeshPkt) (crcBad : Bool), p.way ≠ [] ∨ s.nextOfPath p = false ∨ s.tileFrozen p.dest = true →
      Does (.packetDeposit p crcBad) s [] fun _ => True) ∧
    (x.trig.length + x.hdrs < 16 → s.tileFrozen n = false →
      x.hdrs < (s.mesh.filter (fun p => p.dest == n && (p.headAt || p.headIn))).length →
      Does (.triggerHeaderAccept n) s [.tiles] fun t =>
        t.tile n = { x with hdrs := x.hdrs + 1 } ∧ ∀ m, m ≠ n → t.tile m = s.tile m) ∧
    (16 ≤ x.trig.length + x.hdrs → Does (.triggerHeaderAccept n) s [] fun _ => True) ∧
    (∀ (a : MeshPkt) (r : OutReq), s.answers.contains a = true → a.way = [] → s.nextAnswer a = true → a.dest = n → s.tileFrozen n = false →
      x.reqs.find? (fun q => q.tag == a.tag) = some r → (x.replyOf.map (·.1)).Pairwise (· < ·) →
      let freed := fun (t : State) (isRead : Bool) => t.answers = s.answers.erase a ∧ (∀ m, m ≠ n → t.tile m = s.tile m) ∧
        (t.tile n).reqs = eraseFirst (fun q => q.tag == a.tag) x.reqs ∧ ∀ k, (t.tile n).counter k =
          if isRead = true ∧ afind x.replyOf k = some r.ag ∧ x.counter k ≠ 0 then x.counter k - 1 else x.counter k
      let whole := a.err = none ∧ a.lost = []
      (∀ addr, r.kind = .deposit addr → a.payload.length = 4 →
        Does (.answerLanding a) s [.answers, .tiles, .ls, .lsMarks, .ras] fun t => freed t true ∧
        (∀ i < 64, whole → some (Memory.get t.ls (at_ + addr + i)) = (payloadBytes a.payload)[i]?) ∧
        (∀ i < 64, ¬ whole → Memory.get t.ls (at_ + addr + i) = 0) ∧
        (∀ b, (∀ i < 64, b ≠ at_ + addr + i) → Memory.get t.ls b = Memory.get s.ls b) ∧
        (whole → t.ras = s.ras ∧ t.tile n = { x with
          reqs := (t.tile n).reqs, cnts := (t.tile n).cnts
          port := if taking then x.port else x.port ++ tab 4 (fun i => bankPair (addr + 16 * i)) })) ∧
      (∀ vd wd els, r.kind = .gather vd wd els → whole → Does (.answerLanding a) s [.answers, .tiles] fun t => freed t true ∧
        (t.tile n).vreg vd = els.foldl (fun v p => setElem v wd p.1 (ofLe (((payloadBytes a.payload).drop p.2).take wd))) (x.vreg vd) ∧
        (∀ v, v ≠ vd → (t.tile n).vreg v = x.vreg v) ∧ aget 0 (t.tile n).gatherLeft vd = aget 0 x.gatherLeft vd - 1) ∧
      (∀ e, r.kind = .scatter e → a.err = none → Does (.answerLanding a) s [.answers, .tiles] fun t => freed t false ∧
        t.tile n = { x with reqs := (t.tile n).reqs, cnts := (t.tile n).cnts })) ∧
    (∀ d : Drain, x.drain = some d →
      (2 ≤ d.out.length → Does (.drainComplete n) s [] fun _ => True) ∧
      (d.out.length ≤ 1 → ((s.tileCycle n {}).tile n).drain = none → exec (.drainComplete n) s = exec (.controlWord n {}) s) ∧
      (∀ f : Flit, d.out = [{ gap := 1, flit := f }] → d.next ≤ x.tc → taking → (s.region (regionOf n)).st = 0 →
        TileQuiet { x with drain := none } → x.scrubPair = none → (x.cset d.cset).sat < 2 ^ 32 → (x.cset d.cset).flush < 2 ^ 32 →
        (x.cset d.cset).replay < 2 ^ 32 → (x.cset d.cset).nan < 2 ^ 32 →
        let a := agAddr (x.gen d.gen) d.lanes
        dGl (x.gen d.gen).desc = false → a.toNat < Config.lsBytes → a.toNat % 16 = 0 → Does (.drainComplete n) s [.tiles] fun t =>
          (∀ m, m ≠ n → t.tile m = s.tile m) ∧ (∀ m, (t.tile n).cset m = x.cset m) ∧
          t.tile n = { x with drain := none, gens := (t.tile n).gens, sets := (t.tile n).sets, tc := x.tc + 1
                              lsPend := x.lsPend ++ (flitBytes f).zipIdx.map (fun p => (x.tc + 1, a.toNat + p.2, p.1)) } ∧
          (t.tile n).gen d.gen = agStep (x.gen d.gen) ∧ ∀ g, g ≠ d.gen → (t.tile n).gen g = x.gen g))

/-- The local store's errors: a word corrected on read is written back; the scrubber reads words in increasing index, corrects a
single-bit error and counts it, rewrites a double-bit one with the poison code and raises its fault once, and passes over poison; in a
forced cycle, due once 255 cycles have passed, the scrubber has its word's bank pair, and an access of the tile's word that needs it waits one cycle, counted in
BANK_STALLS (R44, R46, R47). No byte of the store changes. -/
def Obligations.LocalStoreErrors : Prop :=
  ∀ (s : State) (n v w b b2 c : Nat), Clean s → (s.tile n).scrub = w →
    let x := s.tile n
    let next := { x with scrub := (w + 1) % 6144 }
    let others := fun (t : State) => (∀ m, m ≠ n → t.tile m = s.tile m) ∧
      ∀ k, k ≠ n * 8192 + w → aget Mark.good t.lsMarks k = aget Mark.good s.lsMarks k
    (s.lsMark n v = .single b → Does (.lsEccWriteback n v) s [.lsMarks] fun t => t.lsMark n v = .good ∧
      ∀ k, k ≠ n * 8192 + v → aget Mark.good t.lsMarks k = aget Mark.good s.lsMarks k) ∧
    (s.lsMark n v = .good ∨ s.lsMark n v = .poison ∨ s.lsMark n v = .double b b2 → Does (.lsEccWriteback n v) s [] fun _ => True) ∧
    (s.lsMark n w = .single b → Does (.lsScrubRead n .ok) s [.tiles, .lsMarks] fun t => others t ∧ t.lsMark n w = .good ∧
      t.tile n = { next with eccCorr := min (x.eccCorr + 1) 0xFFFF, eccWord := w }) ∧
    (s.lsMark n w = .double b b2 → Does (.lsScrubRead n .ok) s [.tiles, .lsMarks, .ras] fun t => others t ∧ t.lsMark n w = .poison ∧
      t.tile n = { next with eccUnc := true, eccWord := w } ∧
      t.ras = { s.ras with tree := s.ras.tree ++ [{ cause := .lsUncorrectable, unit := .tile, index := n, cwAddr := x.cw
                                                    bank := x.bank, detail := BitVec.ofNat 64 w }] }) ∧
    (s.lsMark n w = .good ∨ s.lsMark n w = .poison → Does (.lsScrubRead n .ok) s [.tiles, .lsMarks] fun t => others t ∧
      t.lsMark n w = s.lsMark n w ∧ t.tile n = next) ∧
    (c < 255 → Does (.lsScrubForcedCycle n .ok c) s [] fun _ => True) ∧
    (255 ≤ c → s.tileRuns n = false → exec (.lsScrubForcedCycle n .ok c) s = exec (.lsScrubRead n .ok) s) ∧
    (255 ≤ c → s.lsMark n w = .good → s.tileRuns n = true → Does (.lsScrubForcedCycle n .ok c) s [.tiles, .lsMarks] fun t => others t ∧
      t.lsMark n w = .good ∧ t.tile n = { next with scrubPair := some (w / 2 % 4) }) ∧
    (∀ g p, s.tileRuns n = true → x.st = .run ∨ x.st = .stall → TileQuiet x → x.parityBad = false → x.scrubPair = some p →
      cwIllegal x.kloop.isSome x.cur = false → wSeqOp x.cur < 6 → x.blockOpen x.cur = false → x.unitStall x.cur = false →
      s.wordPairs n x.cur (x.tailc x.cur) = [(g, p)] → Does (.controlWord n {}) s [.tiles] fun t =>
        (∀ m, m ≠ n → t.tile m = s.tile m) ∧
        t.tile n = { x with st := .stall, held := if x.st = .run then some (BitVec.ofNat 256 x.cur) else x.held, bankStalls := min (x.bankStalls + 1) 0xFFFFFFFF, serial := x.serial + 1, tc := x.tc + 1
                            scrubPair := none, part := some { left := [g], made := [], gens := x.gens } })

/-! ## The jointed-body solver (chapter 07) -/

/-- DELTA_PACKET_INGEST: a packet of another STEP, LATH or SLOT, or for a slot without a lath, is DELTA_STEP, and one of a world or an index
that the lath does not have DELTA_INDEX: the tile stops and nothing is written. Any other packet writes its values into its world, later
pairs over earlier ones; RESET unfreezes the world and makes it fresh, END ends its deltas of the step. FACTORISATION_START starts the
group's iterations, but for a lath that a COMMIT about to act replaces, and a frozen world keeps to status FROZEN; ITERATION_BOUNDARY counts one iteration of the group, and the phase ends when
every world's status is fixed; SOLVER_INTEGRATION ends the step of the group's worlds; the phases run while a LAUNCH of the slot
has not been stopped. ADJOINT goes on by the iterations whose boundaries lie in the beat and ends at the cap or at the first boundary at or
after its deadline; of a world that is not VALID it writes zero gradients with status 3. That a command brings the iterations of one beat is the
model's choice (log 32). Worlds of other groups and other slots are as before (R209, R210, R211, R212, R213, R214, R225, R228, R231,
R237, R238, R240). -/
def Obligations.SolverSteps : Prop :=
  ∀ (s : State) (tile slot group world : Nat) (payload : List Flit) (l : Lath) (qbar vbar : List W64) (n : Nat), Clean s →
    let x := s.slot slot
    let hd := (nth 0 payload 0).toNat
    let dw := nfld hd 0 7
    let ps := deltaPairs payload
    let stops := fun (c : Cause) => Does (.deltaPacketIngest tile slot payload) s [.tiles, .ras] fun t =>
      t.tile tile = { s.tile tile with st := .fault, armed := none, waitEnd := none, took := none, part := none, kend := none } ∧ (∀ m, m ≠ tile → t.tile m = s.tile m) ∧
      t.ras = { s.ras with tree := s.ras.tree ++ [{ cause := c, unit := .tile, index := tile, cwAddr := (s.tile tile).cw
                                                    bank := (s.tile tile).bank, tag := 0 }] }
    let stale := nfld hd 48 32 ≠ fld x.step 0 32 ∨ x.lath ≠ some (nfld hd 32 8) ∨ nfld hd 40 8 ≠ slot
    let outside := l.nworld ≤ dw ∨ ps.any (fun p => !l.validIndex p.1) = true
    let ws := l.members group
    let others := fun (t : State) => ∀ k, k ≠ slot → t.slot k = s.slot k
    let outWorlds := fun (t : State) => ∀ w, w ∉ ws → (t.slot slot).world w = x.world w
    let counted : List Piece := [.slots, .tiles, .ras, .freeCtr]
    let written : List Piece := [.slots, .mesh, .freeCtr, .ls, .lsMarks, .inbox, .host] ++ engineParts
    let ready := fun (p : Phase) => s.hang.frozen ≠ some slot ∧ x.solving = true ∧ ws ≠ [] ∧ ∀ w ∈ ws, (x.world w).phase = p
    (s.slotLath slot = none → stops .deltaStep ∧ (Does (.factorisationStart slot group) s [] fun _ => True) ∧
      (Does (.iterationBoundary slot group) s [] fun _ => True) ∧ (Does (.solverIntegration slot group) s [] fun _ => True) ∧
      Does (.adjoint slot world qbar vbar n) s [] fun _ => True) ∧
    (s.slotLath slot = some l →
      (stale → stops .deltaStep) ∧ (¬ stale → outside → stops .deltaIndex) ∧
      (¬ stale → ¬ outside → Does (.deltaPacketIngest tile slot payload) s (if l.fp64 then counted else [.slots]) fun t =>
        others t ∧ (∀ w, w ≠ dw → (t.slot slot).world w = x.world w) ∧
        let v := x.world dw
        ∃ (e : Assoc W64) (fr fs en : Bool), (t.slot slot).world dw = { v with entries := e, frozen := fr, fresh := fs, ended := en } ∧
          fr = (v.frozen && nfld hd 8 1 == 0) ∧ fs = (v.fresh || nfld hd 8 1 == 1) ∧ en = (v.ended || nfld hd 7 1 == 1) ∧
          ∀ j, aget 0 e j = match (ps.filter (fun p => p.1 == j)).getLast? with
            | some p => BitVec.ofNat 64 (if l.fp64 then (cvtElem (.fp .fp32) (.fp .fp64) 0 .rne p.2).v else p.2)
            | none => aget 0 v.entries j) ∧
      (ready .ingest → s.lathHeld x.lath = false → (∀ w ∈ ws, (x.world w).ended = true) →
        (Does (.factorisationStart slot group) s counted fun t => others t ∧ outWorlds t ∧
          ∀ w ∈ ws, ((t.slot slot).world w).phase = .iterating) ∧
        ((∀ w ∈ ws, (x.world w).frozen = true) → Does (.factorisationStart slot group) s [.slots] fun t => others t ∧ outWorlds t ∧
          ∀ w ∈ ws, (t.slot slot).world w = { x.world w with phase := .iterating, status := .frozen, fixed := true })) ∧
      (¬ ready .ingest ∨ s.lathHeld x.lath = true ∨ (∃ w ∈ ws, (x.world w).ended = false) →
        Does (.factorisationStart slot group) s [] fun _ => True) ∧
      (ready .iterating →
        (Does (.iterationBoundary slot group) s counted fun t => others t ∧ outWorlds t ∧
          aget 0 (t.slot slot).groupIters group = aget 0 x.groupIters group + 1 ∧
          (aget 0 x.groupIters group + 1 = l.iterCap → ∀ w ∈ ws, ((t.slot slot).world w).phase = .iterated)) ∧
        ((∀ w ∈ ws, (x.world w).status = .frozen ∧ (x.world w).fixed = true) →
          Does (.iterationBoundary slot group) s [.slots] fun t => others t ∧ outWorlds t ∧
            ∀ w ∈ ws, (t.slot slot).world w = { x.world w with phase := .iterated })) ∧
      (¬ ready .iterating → Does (.iterationBoundary slot group) s [] fun _ => True) ∧
      (ready .iterated → Does (.solverIntegration slot group) s written fun t => others t ∧ outWorlds t ∧
        ∀ w ∈ ws, ((t.slot slot).world w).phase = .done) ∧
      (ready .iterated → (∃ w < l.nworld, w ∉ ws ∧ (x.world w).phase ≠ .done) → (∀ w ∈ ws, (x.world w).status = .frozen) →
        Does (.solverIntegration slot group) s [.slots] fun t => others t ∧ outWorlds t ∧
          ∀ w ∈ ws, (t.slot slot).world w = { x.world w with phase := .done }) ∧
      (¬ ready .iterated → Does (.solverIntegration slot group) s [] fun _ => True) ∧
      (s.hang.frozen = some slot ∨ x.solving = false ∨ l.hasAdj = false ∨ l.nworld ≤ world ∨ (x.world world).phase ≠ .done ∨
        (x.world world).adjRan = true → Does (.adjoint slot world qbar vbar n) s [] fun _ => True) ∧
      (s.hang.frozen ≠ some slot → x.solving = true → l.hasAdj = true → world < l.nworld → (x.world world).phase = .done →
        (x.world world).adjRan = false → Does (.adjoint slot world qbar vbar n) s written fun t =>
          others t ∧ (∀ w, w ≠ world → (t.slot slot).world w = x.world w) ∧
          let y := (t.slot slot).world world
          let it := match (x.world world).adjRun with | some r => r.it | none => 0
          let late := match s.deadline slot l.adjDeadlineOfs with | some d => decide (d.toNat ≤ s.esc.beat.toNat) | none => false
          ∃ ms, t.mesh = s.mesh ++ ms ∧ (∀ m ∈ ms, m.op = 0) ∧
            (y.adjRan = false → ms = [] ∧ (x.world world).valid = true ∧ (y.adjRun.map (fun r => r.it) = some (it + n)) ∧
              (t.slot slot).sumDue = x.sumDue) ∧
            (y.adjRan = true → y.adjRun = none) ∧
            (n ≠ 0 → late = true ∨ (it < l.iterCap ∧ l.iterCap ≤ it + n) → y.adjRan = true) ∧
            ((x.world world).valid = false → y.adjRan = true ∧ y.adjStatus = 3 ∧ y.adjQ = List.replicate l.ndof 0 ∧
              y.adjV = List.replicate l.ndof 0 ∧ ∀ m ∈ ms, ∀ p ∈ deltaPairs m.payload, p.2 = 0)))

/-! ## Training numerics (chapter 08) -/

/-- The Ratchet: from an exponent between MIN_EXP and MAX_EXP a step leaves it there; a step with a non-finite value lowers it by one or
leaves it at the floor, and starts the count anew; GROW_INTERVAL clean steps in a row raise it by one below MAX_EXP (R249).
The update of an agreed scale entry keeps it between T_MIN and T_MAX; a block that saturated gets the next higher scale, as long as
one is allowed, and no zero or idle run (R252). -/
def Obligations.RatchetAndScaleTable : Prop :=
  (∀ (ctrl : W64) (nf : Bool) (e n : Nat),
     let lo := fld ctrl 8 8
     let hi := min 126 (fld ctrl 16 8)
     let grow := max 1 (fld ctrl 24 16)
     let r := ratchetMove ctrl nf e n
     (lo ≤ e → e ≤ hi → lo ≤ r.1 ∧ r.1 ≤ hi) ∧
     (nf = true → lo < e → r.1 = e - 1 ∧ r.2.1 = 0 ∧ r.2.2 = rfSkipped) ∧
     (nf = true → e ≤ lo → r.1 = e ∧ r.2.1 = 0 ∧ r.2.2 = rfSkipped + rfFloor) ∧
     (nf = false → n + 1 < grow → r.1 = e ∧ r.2.1 = n + 1 ∧ r.2.2 = 0) ∧
     (nf = false → grow ≤ n + 1 → e < hi → r.1 = e + 1 ∧ r.2.1 = 0 ∧ r.2.2 = rfGrew)) ∧
  ∀ (ctrl : W64) (sat high : Bool) (b : TEntry), tMin ctrl ≤ tMax ctrl → tMin ctrl ≤ b.t → b.t ≤ tMax ctrl → b.run < 65536 →
    let u := updateEntry ctrl sat high b
    tMin ctrl ≤ u.t ∧ u.t ≤ tMax ctrl ∧ u.run < 65536 ∧
    (sat = true → u.run = 0 ∧ (b.t < tMax ctrl → u.t = b.t + 1)) ∧
    (sat = false → high = true → u.t = b.t ∧ u.run = 0) ∧
    (sat = false → u.t ≤ b.t ∧ b.t - 1 ≤ u.t)

/-- VERDICT_BEAT in RUNNING: the verdict acts once, and the slice's step becomes s + 1. For a context that the step trains, a step without a
non-finite value makes the new weights current, version s + 1, in the other slot; a step with one keeps them; the exponent and its count
move as the Ratchet says (R249, R257, R401).
STEP_RECORD_WRITE of a context that the step ran and whose step is over, a training step with its verdict applied: the newest record is
the header of R263 followed by its layer entries, or by the format entries of a rollout step; HEAD names its place in the ring, and the
context has no step left to record (R22, R262, R263, R264). What makes a step a training step is the model's choice (log 113). -/
def Obligations.VerdictAndStepRecord : Prop :=
  (∀ (s : State) (v : VerdictDown) (c : Nat), Clean s →
     (s.train.verdict = none → Does .verdictBeat s [] fun _ => True) ∧
     (s.train.verdict = some v → s.train.applied = true ∨ s.trainCtxs = [] ∨ s.sliceSt ≠ 2 ∨ s.esc.beat.toNat < v.verdict.toNat →
       Does .verdictBeat s [] fun _ => True) ∧
     (s.train.verdict = some v → s.train.applied = false → s.trainCtxs ≠ [] → s.sliceSt = 2 → v.verdict.toNat ≤ s.esc.beat.toNat →
       Does .verdictBeat s ([.ctxs, .train, .slice, .freeCtr] ++ engineParts) fun t =>
         t.train.applied = true ∧ t.slice.step = v.step + 1 ∧ t.slice = { s.slice with step := t.slice.step } ∧
         (∀ d, d ∉ s.trainCtxs → t.ctx d = s.ctx d) ∧ (∀ d, (t.ctx d).oldTable = if d ∈ s.trainCtxs then none else (s.ctx d).oldTable) ∧
         (s.trainCtxs = [c] →
           (let r := ratchetMove s.train.ratchetCtrl v.nonFinite ((s.ctx c).exp.getD (ratchetCfg s.train.ratchetCtrl).1) (s.ctx c).clean
            (t.ctx c).exp = some r.1 ∧ (t.ctx c).clean = r.2.1) ∧
           (v.nonFinite = true → (t.ctx c).cur = (s.ctx c).cur ∧ (t.ctx c).curVersion = (s.ctx c).curVersion ∧
             (t.ctx c).table = (s.ctx c).table) ∧
           (v.nonFinite = false → (t.ctx c).cur = 1 - (s.ctx c).cur ∧ (t.ctx c).curVersion = v.step + 1 ∧
             (t.ctx c).skimDone = true ∧ (t.ctx c).table.length = (s.ctx c).table.length)))) ∧
  ∀ (s : State) (c : Nat), Clean s →
    let x := s.ctx c
    let step : W64 := match s.train.verdict with | some v => if x.trains then v.step else x.step | none => x.step
    (x.ran = false ∨ s.recordDue c = false → Does (.stepRecordWrite c) s [] fun _ => True) ∧
    (x.trains = true → s.train.applied = false → s.recordDue c = false) ∧
    (x.ran = true → s.recordDue c = true → Does (.stepRecordWrite c) s ([.ctxs, .train, .freeCtr] ++ engineParts) fun t =>
      (∃ bs, t.train.newest = some (step, bs) ∧ bs.take 64 = s.recordHead c x.trains step ∧
        bs.length = 128 + (if x.trains then 16 * x.nlayer else 0)) ∧
      fld t.train.stepRing 32 16 = step.toNat % max 1 (fld s.train.stepRing 0 16) ∧
      fld t.train.stepRing 0 16 = fld s.train.stepRing 0 16 ∧
      t.ctx c = x.endStep ∧ (∀ d, d ≠ c → t.ctx d = s.ctx d) ∧ t.train.ratchetStatus = s.train.ratchetStatus)

/-! ## The Escapement (chapter 09) -/

/-- SYNC_CHECK_PULSE and SYNC_LOAD_PULSE, `rc` reference cycles after the boundary, load or pulse to which ESC_RC_COUNT was counted: while
SYNCED, a check pulse at a count whose low 24 bits are not 0 sets SYNC_SLIP and raises the fault, and any other check pulse changes nothing;
while beats are not counted the count goes on (R266, R268); an armed load acts while REF_OK is 1, and a pulse without one is a check
pulse (R267). -/
def Obligations.SyncPulses : Prop :=
  ∀ (s : State) (rc : Nat), Clean s →
    let n := s.esc.rcCount + BitVec.ofNat 64 rc
    (s.synced = true → fld n 0 24 ≠ 0 → Does (.syncCheckPulse rc) s [.esc, .ras] fun t =>
      t.esc = { s.esc with status := setBit s.esc.status 5 true, unsyncDue := true } ∧
      t.ras = { s.ras with tree := s.ras.tree ++ [{ cause := .syncSlip, unit := .escapement, index := 0 }] }) ∧
    (s.synced = true → fld n 0 24 = 0 → Does (.syncCheckPulse rc) s [] fun _ => True) ∧
    (s.synced = false → Does (.syncCheckPulse rc) s [.esc] fun t => t.esc = { s.esc with rcCount := n }) ∧
    (bitOf s.esc.status 2 = true → bitOf s.esc.status 0 = true → Does (.syncLoadPulse rc) s [.esc] fun t =>
      t.esc.beat = s.esc.syncLoad ∧ t.esc.rcCount = 0 ∧ t.esc.next = 0 ∧ t.synced = true ∧ bitOf t.esc.status 2 = false ∧
      fld t.esc.hsSlew 0 32 = 0 ∧ t.esc.slews = [] ∧ t.esc.beatCfg = s.esc.beatCfg ∧ t.esc.hsStatus = s.esc.hsStatus) ∧
    (¬ (bitOf s.esc.status 2 = true ∧ bitOf s.esc.status 0 = true) →
      exec (.syncLoadPulse rc) s = exec (.syncCheckPulse rc) s)

/-- ARM, DISARM, ESC_BEAT_CHANGE_WRITE and ESC_HS_CFG_WRITE outside the locked states set and clear the armed load, take or refuse the
beat of a change, and begin the role anew; in RUNNING and HALTED they set CFG_LOCKED and nothing else, but for a change of role or port in
HOLDOVER, NO_ROOT or UNREACHED (R267, R269, R275, R294). -/
def Obligations.EscapementWrites : Prop :=
  ∀ (s : State) (v : W64), Clean s →
    (s.outside = false →
      (Does .arm s [.esc] fun t => t.esc = { s.esc with status := setBit s.esc.status 2 true }) ∧
      (Does .disarm s [.esc] fun t => t.esc = { s.esc with status := setBit s.esc.status 2 false }) ∧
      (v = 0 ∨ s.esc.beat.toNat < v.toNat →
        Does (.escBeatChangeWrite v) s [.esc] fun t => t.esc = { s.esc with beatChange := v }) ∧
      (v ≠ 0 → v.toNat ≤ s.esc.beat.toNat → Does (.escBeatChangeWrite v) s [.esc] fun t =>
        t.esc = { s.esc with status := setBit s.esc.status 6 true, beatChange := 0 }) ∧
      (Does (.escHsCfgWrite v) s [.esc] fun t =>
        t.esc.hsCfg = rw s.esc.hsCfg hsCfgMask v ∧ t.esc.freq = 0 ∧ t.esc.owe = 0 ∧ t.esc.lastSlew = 0 ∧
        (t.hsRole = 0 → t.hsState = 0) ∧ (t.hsRole = 1 → t.hsState = 2) ∧ (t.hsRole = 3 → t.hsState = 6) ∧
        (t.hsRole = 2 → t.hsState = 1 ∨ t.hsState = 5) ∧
        t.esc.status = s.esc.status ∧ t.esc.beat = s.esc.beat)) ∧
    (s.outside = true →
      let locked := fun (c : Instr) => Does c s [.esc] fun t => t.esc = { s.esc with status := setBit s.esc.status 7 true }
      let new := rw s.esc.hsCfg hsCfgMask v
      let moves := (fld new 0 2 ≠ s.hsRole ∧ fld new 0 2 ≠ 0) ∨ fld new 2 6 ≠ s.hsPort
      let lost := s.hsState = 4 ∨ s.hsState = 5 ∨ s.hsState = 6
      locked .arm ∧ locked .disarm ∧ locked (.escBeatChangeWrite v) ∧ (¬ (moves ∧ lost) → locked (.escHsCfgWrite v)) ∧
      (moves → lost → Does (.escHsCfgWrite v) s [.esc] fun t =>
        t.esc.hsCfg = new ∧ t.esc.freq = 0 ∧ t.esc.owe = 0 ∧ t.esc.status = s.esc.status ∧ t.esc.beat = s.esc.beat))

/-- The agent's and the root's side of the Hairspring. A request goes out at t1 and the root answers with t2 and t3, each timestamp
16 × (BEAT_RC × beat + c) + f for the cycles c and sixteenths f of the beat at which the frame crosses. A reply enters θ; in LOCKED
with |θ| at most 128 it enters freq and owe and leaves the state, above that OUT_OF_TOL follows, with HAIRSPRING above FAULT_NS. An interval
without a reply adds freq to owe and two of them enter HOLDOVER; each interval, one in NO_ROOT too, sends its message to every port that
is UP. A neighbour that shows that it is not ROOT enters NO_ROOT (by which control block is the model's choice, log 115). A second in HOLDOVER raises HAIRSPRING (R271, R272, R273, R274, R275). -/
def Obligations.HairspringAgent : Prop :=
  ∀ (s : State) (t1 t2 t3 : W64) (port ago : Nat) (c c2 : RcAt), Clean s →
    let time := fun (b : Nat) (c : RcAt) => BitVec.ofNat 64 (16 * (fld s.esc.beatCfg 0 16 * b + c.rc) + c.frac % 16)
    let fault := fun (t : State) => t.ras = { s.ras with tree := s.ras.tree ++ [{ cause := .hairspring, unit := .escapement, index := 0 }] }
    let told := fun (t : State) => ∀ p, t.port p = if p < 31 ∧ (s.port p).st = 3 then
      { s.port p with ctl := (s.port p).ctl ++ [.hairspring [s.esc.beat + 4, 0, BitVec.ofNat 64 t.hsState, BitVec.ofInt 64 s.slewSum]] }
      else s.port p
    (s.hsRole = 2 → s.hsState ≠ 5 → c.rc < s.beatLength s.esc.beat → Does (.hsExchangeRequest c) s [.esc, .ports] fun t =>
      t.esc = { s.esc with t1 := some (time s.esc.beat.toNat c) } ∧
      ∀ p, t.port p = if p = s.hsPort then { s.port p with ctl := (s.port p).ctl ++ [.hairspring []] } else s.port p) ∧
    (s.hsRole = 1 → 31 ≤ port → port < 39 → ago ≤ s.esc.beat.toNat → c.rc < s.beatLength s.esc.beat →
      Does (.hsRootReply port (ago, c2) c) s [.ports] fun t =>
        ∀ p, t.port p = if p = port then { s.port p with ctl := (s.port p).ctl ++
          [.hairspring [time (s.esc.beat.toNat - ago) c2, time s.esc.beat.toNat c]] } else s.port p) ∧
    (s.hsRole = 2 → s.esc.t1 = some t1 → c.rc < s.beatLength s.esc.beat →
      let th := hsTheta t1 t2 t3 (time s.esc.beat.toNat c) s.hsAsym
      (Does (.hsExchangeReply t2 t3 c) s [.esc, .ports, .ras] fun t =>
        t.esc.t1 = none ∧ t.esc.noReply = 0 ∧ fld t.esc.hsStatus 0 32 = twos 32 th ∧ t.esc.beat = s.esc.beat) ∧
      (s.hsState = 2 → th.natAbs ≤ 128 → Does (.hsExchangeReply t2 t3 c) s [.esc, .ports] fun t =>
        t.esc.freq = s.esc.freq + th / 8 ∧ t.esc.owe = s.esc.owe + (th / 2 + t.esc.freq) ∧ t.hsState = 2 ∧
        t.esc.slews = s.esc.slews ∧ told t) ∧
      (s.hsState = 2 → 128 < th.natAbs → s.faultNs * 16 < th.natAbs * 5 →
        Does (.hsExchangeReply t2 t3 c) s [.esc, .ports, .ras] fun t =>
          t.esc.freq = s.esc.freq + th / 8 ∧ t.esc.owe = s.esc.owe + (th / 2 + t.esc.freq) ∧ t.hsState = 3 ∧ fault t ∧ told t)) ∧
    (s.hsRole = 2 → s.hsState ≠ 5 → Does .hsIntervalNoReply s [.esc, .ports] fun t =>
      t.esc.owe = s.esc.owe + s.esc.freq ∧ t.esc.freq = s.esc.freq ∧ t.esc.noReply = s.esc.noReply + 1 ∧ told t ∧
      (1 ≤ s.esc.noReply → t.hsState = 4) ∧ (s.esc.noReply = 0 → t.hsState = s.hsState)) ∧
    (s.hsRole = 2 → s.hsState = 5 → Does .hsIntervalNoReply s [.ports] told) ∧
    (s.hsRole = 2 → Does (.controlBlockReceive s.hsPort (.hsRoot false) true) s [.esc] fun t =>
      t.hsState = 5 ∧ t.esc.t1 = none ∧ t.esc.owe = s.esc.owe ∧ t.esc.hsCfg = s.esc.hsCfg) ∧
    (s.hsRole = 2 → s.hsState = 4 → Does .hsHoldoverTimeout s [.ras] fault)

/-- The follower's side of the Hairspring: a slew message enters the beat lengths and SLEW_SUM and sets the state of the agent while
the sums agree, and is acknowledged with whether the module belongs to a slice outside JOINING; sums that differ, or two intervals without
a message, leave the module UNREACHED, with a BEAT_SLIP fault outside JOINING (R274, R276). An acknowledgement is held by the agent, whose
deferred step goes out for beat b + 4 once no module of the rack reports one (R275, R276). -/
def Obligations.HairspringFollower : Prop :=
  ∀ (s : State) (port : Nat) (target : W64) (d sum : Int) (st : Nat) (slot : Nat) (busy : Bool), Clean s →
    let slip := fun (t : State) => t.ras = (if s.outside then
      { s.ras with tree := s.ras.tree ++ [{ cause := .beatSlip, unit := .escapement, index := 0 }] } else s.ras)
    (s.hsRole = 3 → st < 8 → -(2 ^ 31) ≤ s.slewSum + d → s.slewSum + d < 2 ^ 31 →
      Does (.slewMessage port target d ⟨st, sum⟩) s [.esc, .ports, .ras] fun t =>
        t.esc.slews = (if d = 0 then s.esc.slews else s.esc.slews ++ [(target, d)]) ∧ t.slewSum = s.slewSum + d ∧
        t.hsState = (if sum = s.slewSum + d then st else 6) ∧ t.esc.slewHeard = true ∧ t.esc.missed = 0 ∧ t.esc.beat = s.esc.beat ∧
        t.esc.hsCfg = s.esc.hsCfg ∧ (if sum = s.slewSum + d then t.ras = s.ras else slip t) ∧
        ∀ p, t.port p = if p = port then { s.port p with ctl := (s.port p).ctl ++ [.hairspring [if s.outside then 1 else 0]] }
          else s.port p) ∧
    (s.hsRole = 3 → Does .slewMessageMissing s [.esc, .ras] fun t =>
      t.hsState = 6 ∧ t.esc.slewHeard = false ∧ t.esc.beat = s.esc.beat ∧ slip t) ∧
    (s.hsRole = 2 → s.esc.acquireStep = none ∨ s.outside = true ∨ busy = true ∨ s.hsState ≠ 1 →
      Does (.slewAcknowledgement slot busy) s [.esc] fun t =>
        (∀ k, aget false t.esc.busy k = if k = slot then busy else aget false s.esc.busy k) ∧
        t.esc = { s.esc with busy := t.esc.busy }) ∧
    (∀ e, s.hsRole = 2 → s.esc.acquireStep = some e → e ≠ 0 → s.outside = false → s.hsState = 1 → s.esc.busy = [] ∨ s.esc.busy = [(slot, true)] →
      Does (.slewAcknowledgement slot false) s [.esc, .ports] fun t =>
        t.esc.slews = s.esc.slews ++ [(s.esc.beat + 4, e)] ∧ t.esc.acquireStep = none ∧ t.esc.stepped = true ∧
        t.esc.freq = 0 ∧ t.esc.owe = 0 ∧ t.esc.busy = [] ∧ t.hsState = 1)

/-- Periods: once the period-bound operations of the period have completed, the member sends its marker to the master; the master
holds each marker, and with the last one announces E_(k+1) to every member; a member takes the announcement, or faults when E_k has
already begun (R283, R284, R285). -/
def Obligations.Periods : Prop :=
  ∀ (s : State) (src r : Nat) (k1 e : W64) (lambda late : Nat), Clean s →
    (s.periodP ≠ 0 → s.esc.started = true → s.sliceSt = 2 → s.esc.doneSent = false → s.esc.bound = [] →
      s.recordOwed = false → Does .periodDoneSend s [.esc, .fab] fun t =>
        t.esc = { s.esc with doneSent := true } ∧
        ∃ p : FabPkt, t.fab = { s.fab with switchQ := s.fab.switchQ ++ [(63, p)] } ∧ p.op = .control ∧ p.aop = 10 ∧
          p.dest = s.masterId ∧ (payloadBytes p.payload).take 8 = leBytes 8 s.esc.now.toNat) ∧
    (s.esc.bound ≠ [] ∨ s.recordOwed = true → Does .periodDoneSend s [] fun _ => True) ∧
    (s.rankOf src = some r → s.isMaster = true → s.periodP ≠ 0 → s.esc.started = true → s.esc.markers.contains r = false →
      (s.esc.markers.length + 1 < s.nMembers → Does (.periodDone src s.esc.now) s [.esc, .fab] fun t =>
        t.esc = { s.esc with markers := r :: s.esc.markers } ∧ t.fab.switchQ = s.fab.switchQ ∧
        t.fab.delivered = eraseFirst (fun p => p.op == .control && p.aop == 10 && p.src == src) s.fab.delivered) ∧
      (s.nMembers ≤ s.esc.markers.length + 1 → Does (.periodDone src s.esc.now) s [.esc, .fab] fun t =>
        t.esc = { s.esc with markers := r :: s.esc.markers } ∧
        ∃ pk : Nat → FabPkt, t.fab.switchQ = s.fab.switchQ ++ s.slice.table.map (fun m => (63, pk m.1)) ∧
          ∀ m < 16384, (pk m).op = .control ∧ (pk m).aop = 11 ∧ (pk m).dest = m ∧
            (payloadBytes (pk m).payload).take 16 = leBytes 8 (s.esc.now.toNat + 1) ++
              leBytes 8 (max (s.esc.start.toNat + s.lambda) (s.esc.beat.toNat + s.periodLead)))) ∧
    (s.esc.beat.toNat < e.toNat → Does (.periodAnnounce k1 e lambda late) s [.esc, .fab] fun t =>
      t.esc = { s.esc with announced := some ⟨k1, e, lambda, late⟩, next := e } ∧ t.fab.switchQ = s.fab.switchQ) ∧
    (e.toNat ≤ s.esc.beat.toNat → Does (.periodAnnounce k1 e lambda late) s [.ras, .fab] fun t =>
      t.ras = { s.ras with tree := s.ras.tree ++ [{ cause := .periodAnnounce, unit := .escapement, index := 0 }] } ∧
      t.fab.switchQ = s.fab.switchQ)

/-- The reference: qualifying sets REF_OK; its loss clears REF_OK, raises REF_LOSS and, while beats are counted, enters HOLDOVER; after
64 holdover beats, or once the halt of the slice has completed, beats stop, and throttle levels that waited for a boundary take effect (R289, R290,
R315). -/
def Obligations.Reference : Prop :=
  ∀ s : State, Clean s →
    (bitOf s.esc.status 0 = false → Does .refQualify s [.esc, .power] fun t =>
      t.esc = { s.esc with status := setBit s.esc.status 0 true, refWindows := 4 } ∧
      t.power = { s.power with relocked := true }) ∧
    (bitOf s.esc.status 0 = true → Does .refLoss s [.esc, .power, .ras] fun t =>
      bitOf t.esc.status 0 = false ∧ (s.synced = true → bitOf t.esc.status 4 = true ∧ t.synced = true) ∧
      (s.synced = false → bitOf t.esc.status 4 = bitOf s.esc.status 4) ∧
      t.esc = { s.esc with status := t.esc.status, refWindows := 0, holdover := 0 } ∧
      t.power = { s.power with relocked := false } ∧
      t.ras = { s.ras with tree := s.ras.tree ++ [{ cause := .refLoss, unit := .escapement, index := 0 }] }) ∧
    (let stopped := fun (t : State) => t.synced = false ∧ bitOf t.esc.status 4 = false ∧ t.esc = { s.esc with status := t.esc.status }
     let ends := bitOf s.esc.status 4 = true ∧ (64 ≤ s.esc.holdover ∨ s.sliceSt = 3)
     (ends → (Does .refHoldoverEnd s ([.esc, .stks] ++ engineParts) stopped) ∧
      ((∀ k ∈ s.mem.stks, k.2.pend = none) → Does .refHoldoverEnd s [.esc] stopped)) ∧
     (¬ ends → Does .refHoldoverEnd s [] fun _ => True))

/-- At the end of a period with a lateness above 0, LATE_RUN counts one more, and with lateness 0 it is 0; LATE is set while LATE_RUN has
reached LATE_LIMIT. No fault is raised and no other unit changes (R287). -/
def Obligations.LateRun : Prop :=
  ∀ (s : State) (late : Nat),
    let t := s.periodEnd late
    let run := fun (u : State) => fld u.esc.lateness 32 16
    (0 < late → run t = min (run s + 1) 0xFFFF) ∧ (late = 0 → run t = 0) ∧
    (bitOf t.esc.status 3 = true ↔ s.lateLimit ≤ run t) ∧ fld t.esc.lateness 0 32 = fld s.esc.lateness 0 32 ∧
    (∀ i, i ≠ 3 → i < 64 → bitOf t.esc.status i = bitOf s.esc.status i) ∧
    t.esc = { s.esc with lateness := t.esc.lateness, lateStats := t.esc.lateStats, status := t.esc.status } ∧
    t.ras = s.ras ∧ t.host = s.host ∧ t.tiles = s.tiles ∧ t.mem = s.mem ∧ t.fab = s.fab ∧ t.slice = s.slice

/-! ## The beat boundary (chapter 09) -/

/-- BEAT_BOUNDARY. While no beats are counted it does nothing. Otherwise the beat goes on by one; ESC_RC_COUNT takes the reference cycles
of the beat that has ended, or in holdover the beat is counted as one of holdover, of which the 64th is the last. With nothing due at the boundary nothing else
happens but the choices of the governor and of the clock regions; and the boundary at ESC_PERIOD_ANCHOR starts the first period, number
ESC_PERIOD_FIRST (R268, R281, R283, R290). -/
def Obligations.BeatBoundary : Prop :=
  ∀ (s : State), Clean s →
    let e := s.esc
    let b := e.beat + 1
    let nothingDue := s.cfg.commit = none ∧ s.cfg.armed = [] ∧ e.beatChange = 0 ∧ s.ras.halts = [] ∧ s.nan.trapDue = false ∧
      fld s.hang.status 0 2 ≠ 1 ∧ s.hang.resetDue = false ∧ s.hang.oosDue = false ∧ s.power.stopAtBoundary = false ∧
      e.unsyncDue = false ∧ s.host.landed = [] ∧ s.host.winLanded = [] ∧ (∀ q ∈ s.host.queues, q.2.cmds = []) ∧
      s.slice.joinAt = none ∧ s.slice.rejoin = none ∧ s.hsRole ≠ 2 ∧ s.host.dmaDue = false ∧ s.fab.rate = [] ∧
      (∀ k ∈ s.mem.stks, k.2.pend = none) ∧ (∀ k ∈ s.slots, k.2.sumDue = false) ∧ (∀ v ∈ e.slews, v.1 = b → v.2.natAbs < 2)
    let held := bitOf e.status 4 = true ∧ (64 ≤ e.holdover + 1 ∨ s.sliceSt = 3)
    let counted := fun (t : State) =>
      t.esc.beat = b ∧ t.esc.rcCount = (if bitOf e.status 4 then e.rcCount else e.rcCount + BitVec.ofNat 64 (s.beatLength e.beat)) ∧
      t.esc.holdover = (if bitOf e.status 4 then e.holdover + 1 else e.holdover) ∧
      (∀ v, v ∈ t.esc.slews ↔ v ∈ e.slews ∧ b.toNat < v.1.toNat)
    let governed := fun (t : State) => t.ras = { s.ras with haltEnded := [] } ∧
      t.power = { s.power with pwrStatus := t.power.pwrStatus, lastChange := t.power.lastChange, delta := t.power.delta
                               pendDelta := t.power.pendDelta }
    (s.synced = false → Does .beatBoundary s [] fun _ => True) ∧
    (s.synced = true → nothingDue → held → s.periodP = 0 ∨ s.sliceSt ≠ 2 → Does .beatBoundary s [.esc, .regions, .power, .ras] fun t =>
      t.synced = false ∧ t.esc.beat = b) ∧
    (s.synced = true → nothingDue → ¬ held →
      (s.periodP = 0 ∨ s.sliceSt ≠ 2 → Does .beatBoundary s [.esc, .regions, .power, .ras] fun t => counted t ∧ governed t ∧
        t.esc = { e with beat := b, rcCount := t.esc.rcCount, holdover := t.esc.holdover, slews := t.esc.slews }) ∧
      (s.periodP ≠ 0 → s.sliceSt = 2 → e.started = false → e.anchor = b →
        Does .beatBoundary s [.esc, .regions, .power, .ras] fun t => counted t ∧ governed t ∧
          t.esc.now = e.first ∧ t.esc.start = e.anchor ∧ t.esc.started = true ∧ t.esc.announced = none ∧
          t.esc.bound = [] ∧ t.esc.doneSent = false ∧ t.esc.markers = []))

/-! ## The stacks (chapter 10) and the flag area -/

/-- MEM_LINE_REQUEST at a READY channel, of a request that its requester's order lets arrive: a read joins its class queue, an atomic or
reduce-add the normal one (R299); a write that nothing older for its line waits before, and that finds an entry, enters the
write-combining buffer and is answered, and a read of the line then gives its masked bytes over what the line held; other writes wait
(R302, R305, R307). At a channel that is not READY the request is answered MEM_UNCORRECTABLE, and past the stacks RANGE (R297, R318). One
that its requester's order holds back does nothing (R298). -/
def Obligations.LineRequests : Prop :=
  ∀ (s : State) (tg tl tag a cls : Nat) (m : W64) (d : Line) (op : LineOp), Clean s → a % 64 = 0 → TileTxn s tg tl tag →
    let r : LineReq := { src := .txn tg tl, addr := a, op := op, cls := cls }
    let ch := (stackMap a).1
    let x := s.chan ch
    let q : QReq := { req := r, at_ := x.slot, seq := x.seq }
    let became := fun (t : State) (y : Chan) => t.mem.inbox = s.mem.inbox.erase r ∧ ∀ c, t.chan c = if c = ch then y else s.chan c
    let answered := fun (t : State) (e : Option DropCause) => t.mem.inbox = s.mem.inbox.erase r ∧
      TxnAnswered s t tg tl tag 0 e
    (s.mayArrive r = false → Does (.memLineRequest r) s [] fun _ => True) ∧
    (s.mayArrive r = true → a < Config.stackBytes → x.st = 2 →
      (op = .read → Does (.memLineRequest r) s [.chans, .inbox] fun t =>
        became t (x.enqueue (if cls = 0 then 0 else if cls = 2 then 2 else 1) r)) ∧
      (∀ (aop aw off : Nat) (u v : W64), op = .atomic aop aw off u v →
        Does (.memLineRequest r) s [.chans, .inbox] fun t => became t (x.enqueue 1 r).room) ∧
      (∀ (rf off : Nat) (es : List Byte), op = .reduce rf off es →
        Does (.memLineRequest r) s [.chans, .inbox] fun t => became t (x.enqueue 1 r).room) ∧
      (op = .write m d → x.older a x.seq = false → x.lacks q = false → s.mark a = .good →
        Does (.memLineRequest r) s [.chans, .inbox, .answers, .fab] fun t => answered t none ∧
          (t.readLine ch a).1 = mergeLine (s.readLine ch a).1 d m ∧ ∀ c, c ≠ ch → t.chan c = s.chan c) ∧
      (op = .write m d → x.older a x.seq = true → Does (.memLineRequest r) s [.chans, .inbox] fun t => became t (x.enqueue 2 r)) ∧
      (op = .write m d → x.older a x.seq = false → x.lacks q = true → Does (.memLineRequest r) s [.chans, .inbox] fun t =>
        became t (Chan.room { x with waiting := x.waiting ++ [q], seq := x.seq + 1 }))) ∧
    (s.mayArrive r = true → a < Config.stackBytes → x.st ≠ 2 → Does (.memLineRequest r) s [.inbox, .answers, .fab] fun t =>
      answered t (some .memUncorrectable)) ∧
    (s.mayArrive r = true → Config.stackBytes ≤ a → Does (.memLineRequest r) s [.inbox, .answers, .fab] fun t => answered t (some .range))

/-- The write-combining buffer: the oldest waiting write takes the entry that an eviction freed, and an entry that no write has touched for
WCB_IDLE_RC is queued for eviction (R305, R306, R323). -/
def Obligations.WriteCombining : Prop :=
  ∀ (s : State) (ch line tg tl tag : Nat) (q : QReq) (rest : List QReq) (m : W64) (d : Line) (w : WcbE), Clean s →
    let x := s.chan ch
    (x.waiting = q :: rest → q.req.op = .write m d → q.req.src = .txn tg tl → TileTxn s tg tl tag → x.lacks q = false → x.older q.req.addr q.seq = false →
      Does (.wcbWriteWaitEnd ch) s [.chans, .answers, .fab] fun t =>
        TxnAnswered s t tg tl tag 0 none ∧
        (t.chan ch).waiting.map (·.seq) = rest.map (·.seq) ∧ t.chan ch = ((x.drop q).enter q.req.addr m d).room ∧
        ∀ c, c ≠ ch → t.chan c = s.chan c) ∧
    (x.waiting = [] ∨ (x.waiting = q :: rest ∧ (x.lacks q = true ∨ x.older q.req.addr q.seq = true)) →
      Does (.wcbWriteWaitEnd ch) s [] fun _ => True) ∧
    (x.entry (lineAddr ch line) = some w → fld s.mem.cfg 16 16 ≠ 0 → w.touched + 2 * fld s.mem.cfg 16 16 ≤ x.slot →
      Does (.wcbIdleEvict ch line) s [.chans] fun t =>
        (∃ e ∈ (t.chan ch).writes, e.req.op = .evict ∧ e.req.addr = lineAddr ch line) ∧
        t.chan ch = { x with writes := (t.chan ch).writes, seq := (t.chan ch).seq } ∧
        ∀ c, c ≠ ch → t.chan c = s.chan c)

/-- CHANNEL_LINE_SLOT at a READY channel: a slot that carries no traffic and a slot with nothing to serve pass; a served read of a
line without an error answers its bytes, a buffer entry laid over them; a served eviction writes the entry's bytes to the line and no
other byte of the stacks (R300, R301, R306, R307). -/
def Obligations.LineSlots : Prop :=
  ∀ (s : State) (ch tg tl tag : Nat) (q : QReq) (starved : Bool) (w : WcbE), Clean s →
    (s.chan ch).slot % 100 ≠ 99 → (s.chan ch).st = 2 →
    let x := s.chan ch
    let n := levelSlots (fld (s.stack (ch / 128)).therm 24 3)
    let i := x.slot % 100
    let y := { x.drop q with stats := if starved then addFld x.stats 0 16 1 else x.stats }
    ((slotCarries i n = false ∨ s.pick ch = none) → Does (.channelLineSlot ch .ok) s [.chans] fun t =>
      ∀ c, t.chan c = if c = ch then { s.chan c with slot := (s.chan c).slot + 1 } else s.chan c) ∧
    (slotCarries i n = true → s.pick ch = some (q, starved) → s.mark q.req.addr = .good →
      (q.req.op = .read → q.req.src = .txn tg tl → TileTxn s tg tl tag → Does (.channelLineSlot ch .ok) s [.chans, .answers, .fab] fun t =>
        TxnAnswered s t tg tl tag (s.readLine ch q.req.addr).1 none ∧
        t.chan ch = { y.room with slot := x.slot + 1 } ∧ (t.chan ch).wcb = x.wcb ∧ ∀ c, c ≠ ch → t.chan c = s.chan c) ∧
      (q.req.op = .evict → x.entry q.req.addr = some w →
        Does (.channelLineSlot ch .ok) s [.chans, .memMarks, .bytes, .queues] fun t =>
          (∀ k < 64, Memory.get t.mem.bytes (q.req.addr + k) =
            ((lineBytes (s.readLine ch q.req.addr).1)[k]?).getD 0) ∧
          (∀ x, x < q.req.addr ∨ q.req.addr + 64 ≤ x → Memory.get t.mem.bytes x = Memory.get s.mem.bytes x) ∧
          (t.chan ch).entry q.req.addr = none ∧ (∀ a, t.mark a = s.mark a) ∧ ∀ c, c ≠ ch → t.chan c = s.chan c))

/-- Channel test: TEST_ENTER takes a READY channel to TEST with its queues and its buffer empty, or sets CFG_LOCKED outside JOINING;
TEST_EXIT ends it; GO starts the generator, STOP stops it and the last pass ends it (R319, R320, R321, R323). -/
def Obligations.ChannelTest : Prop :=
  ∀ (s : State) (ch : Nat), Clean s →
    (s.outside = false → (s.chan ch).st = 2 →
      Does (.testEnterChannel ch) s [.chans, .bytes, .memMarks, .queues, .ras, .answers, .tiles, .fab] fun t =>
        (t.chan ch).st = 3 ∧ (t.chan ch).urgent = [] ∧ (t.chan ch).normal = [] ∧ (t.chan ch).writes = [] ∧
        (t.chan ch).waiting = [] ∧ (t.chan ch).wcb = [] ∧ ∀ c, c ≠ ch → t.chan c = s.chan c) ∧
    (s.outside = true → Does (.testEnterChannel ch) s [.memRegs] fun t =>
      t.mem.status = setBit s.mem.status 25 true ∧ t.mem.cfg = s.mem.cfg ∧ t.mem.thermCfg = s.mem.thermCfg) ∧
    ((s.chan ch).st = 3 →
      (Does (.testExitChannel ch) s [.chans] fun t =>
        ∀ c, t.chan c = if c = ch then { s.chan c with st := 2 } else s.chan c) ∧
      (fld (s.chan ch).tgCtrl 1 3 < 6 → fld (s.chan ch).tgCtrl 4 2 ≠ 3 → Does (.tgGo ch) s [.chans] fun t =>
        ∀ c, t.chan c = if c = ch then
          { s.chan c with tgStatus := 1, tgFirst := 0, tgPos := 0, tgGen := (s.chan ch).tgSeed } else s.chan c)) ∧
    (fld (s.chan ch).tgStatus 0 2 = 1 →
      (Does (.tgStop ch) s [.chans] fun t =>
        fld (t.chan ch).tgStatus 0 2 = 3 ∧ t.chan ch = { s.chan ch with tgStatus := (t.chan ch).tgStatus } ∧
        ∀ c, c ≠ ch → t.chan c = s.chan c) ∧
      ((s.chan ch).tgFinished = true → Does (.tgDone ch) s [.chans] fun t =>
        fld (t.chan ch).tgStatus 0 2 = 2 ∧ t.chan ch = { s.chan ch with tgStatus := (t.chan ch).tgStatus } ∧
        ∀ c, c ≠ ch → t.chan c = s.chan c))

/-- A space-0 offset at or above 864 GiB is answered RANGE; every other offset lies in the channel, the line and the byte that the
pseudocode of R297 gives. Units of 256 bytes that follow each other go to the stacks in turn, six of the north edge and six of the south,
and a line lies in one channel; no two lines share a place (R297). -/
def Obligations.StackMap : Prop :=
  (∀ (s : State) (tl tag a : Nat) (op : LineOp) (cls : Nat), Clean s → 0xD800000000 ≤ a →
    s.mayArrive { src := .tile tl tag, addr := a, op := op, cls := cls } = true →
    Does (.memLineRequest { src := .tile tl tag, addr := a, op := op, cls := cls }) s [.inbox, .answers] fun t =>
      t.answers = s.answers ++ [s.answerPkt tl tag [] (some .range)]) ∧
  ∀ o < 0xD800000000,
    let u := o >>> 8
    let c := u % 1536
    let loc := u / 1536 * 256 + o % 256
    (stackMap o).1 = c % 12 * 128 + c / 12 ∧ (stackMap o).2 = loc >>> 6 ∧
    (stackMap o).1 < Config.channels ∧ (stackMap o).2 < Config.linesPerChannel ∧
    lineAddr (stackMap o).1 (stackMap o).2 + loc % 64 = o ∧
    (stackMap (o + 256)).1 / 128 = ((stackMap o).1 / 128 + 1) % 12 ∧
    (((stackMap o).1 / 128 < 6) ↔ ¬ (stackMap (o + 6 * 256)).1 / 128 < 6) ∧
    ∀ p, p / 64 = o / 64 → stackMap p = stackMap o

/-- The throttle levels: their temperatures in units of 0.25 °C, and the traffic slots that each allows in a frame of 100. A slot that the
level of its stack does not allow serves nothing, on every channel of the stack; the scrub slot acts at every level, and the refresh
slots never carry traffic (R314). -/
def Obligations.ThrottleLevels : Prop :=
  (levelSlots 0 = 96 ∧ levelSlots 1 = 72 ∧ levelSlots 2 = 48 ∧ levelSlots 3 = 24 ∧ levelSlots 4 = 0) ∧
  (∀ t, tempLevel t = 0 ↔ t < 4 * 95) ∧ (∀ t, tempLevel t = 1 ↔ 4 * 95 ≤ t ∧ t < 4 * 98) ∧
  (∀ t, tempLevel t = 2 ↔ 4 * 98 ≤ t ∧ t < 4 * 102) ∧ (∀ t, tempLevel t = 3 ↔ 4 * 102 ≤ t ∧ t < 4 * 105) ∧
  (∀ t, tempLevel t = 4 ↔ 4 * 105 ≤ t) ∧
  (∀ l, (List.range 100).countP (fun i => slotCarries i (levelSlots l)) = levelSlots l ∧
    ∀ i ∈ [0, 33, 66, 99], slotCarries i (levelSlots l) = false) ∧
  ∀ (s : State) (ch : Nat), Clean s → (s.chan ch).st = 2 →
    let l := fld (s.stack (ch / 128)).therm 24 3
    ((s.chan ch).slot % 100 ≠ 99 → slotCarries ((s.chan ch).slot % 100) (levelSlots l) = false →
      Does (.channelLineSlot ch .ok) s [.chans] fun t =>
        ∀ c, t.chan c = if c = ch then { s.chan c with slot := (s.chan c).slot + 1 } else s.chan c) ∧
    ((s.chan ch).slot % 100 = 99 → s.mark (lineAddr ch (s.chan ch).scrub) = .good →
      Does (.stackScrubSlot ch .ok) s [.chans, .memMarks] fun t =>
        (t.chan ch).scrub = ((s.chan ch).scrub + 1) % Config.linesPerChannel ∧ ∀ c, c ≠ ch → t.chan c = s.chan c)

/-- STACK_SCRUB_SLOT: the scrubber goes on to its next line; a line with single-bit errors is corrected and written back, one with two errors
in a word is poisoned, as is one that is poisoned already, and the channel's registers say so (R309, R311, R312). A channel that is neither
READY nor in TEST lets the slot pass.
Thermal throttling of a stack whose samples count: a sample that reaches a higher level makes it pending for the next boundary, or
takes it at once while beats are not counted, at 105 degrees (420) with the fault and the protection; while a CRITICAL collective runs a
level below protection is deferred instead; the deferral ends with its time or with the last such collective; a sample that lies, with its
prediction, HYST below the entry of its level moves one level down, during a deferral too (R313, R314, R315, R316, R317). -/
def Obligations.ScrubAndThrottling : Prop :=
  (∀ (s : State) (ch b c : Nat), Clean s →
     let a := lineAddr ch (s.chan ch).scrub
     let next := ((s.chan ch).scrub + 1) % Config.linesPerChannel
     ((s.chan ch).slot % 100 ≠ 99 → Does (.stackScrubSlot ch .ok) s [] fun _ => True) ∧
     ((s.chan ch).slot % 100 = 99 → (s.chan ch).st ≠ 2 → (s.chan ch).st ≠ 3 → Does (.stackScrubSlot ch .ok) s [.chans] fun t =>
       ∀ d, t.chan d = if d = ch then { s.chan d with slot := (s.chan d).slot + 1 } else s.chan d) ∧
     ((s.chan ch).slot % 100 = 99 → (s.chan ch).st = 2 ∨ (s.chan ch).st = 3 →
       let went := fun (t : State) => (t.chan ch).scrub = next ∧ (t.chan ch).slot = (s.chan ch).slot + 1 ∧ ∀ d, d ≠ ch → t.chan d = s.chan d
       (s.mark a = .good → Does (.stackScrubSlot ch .ok) s [.chans] fun t => went t ∧ (t.chan ch).ecc = (s.chan ch).ecc) ∧
       (s.mark a = .single b → Does (.stackScrubSlot ch .ok) s [.chans] fun t => went t ∧
         fld (t.chan ch).ecc 0 16 = min 0xFFFF (fld (s.chan ch).ecc 0 16 + s.singles a) ∧
         ∃ q ∈ (t.chan ch).writes, q.req.op = .writeBack ∧ q.req.addr = a) ∧
       (s.mark a = .double b c ∨ s.mark a = .poison → Does (.stackScrubSlot ch .ok) s [.chans, .memMarks] fun t => went t ∧
         t.mark a = .poison ∧ (∀ x, x % 64 = 0 → x ≠ a → t.mark x = s.mark x) ∧ bitOf (t.chan ch).ecc 17 = true ∧
         fld (t.chan ch).ecc 32 24 = (s.chan ch).scrub % 2 ^ 24))) ∧
  ∀ (s : State) (k temp : Nat), Clean s → k < 12 →
    let x := s.stack k
    let cur := x.pend.getD (fld x.therm 24 3)
    let prev := fld x.therm 0 12
    let pred := if x.sampled then (clampInt 0 0xFFF ((temp : Int) + 4 * ((temp : Int) - prev))).toNat else temp
    let others := fun (t : State) => ∀ j, j ≠ k → t.stack j = s.stack j
    let taken := fun (t : State) (l : Nat) => if s.synced then (t.stack k).pend = some l ∧ fld (t.stack k).therm 24 3 = fld x.therm 24 3
      else (t.stack k).pend = none ∧ fld (t.stack k).therm 24 3 = l
    (x.counting = false → Does (.stackThermalSample k temp) s [] fun _ => True) ∧
    (temp < 4096 → x.counting = true →
      (x.deferLevel = none → cur < tempLevel temp → tempLevel temp < 4 → s.critical = false ∨ fld s.mem.thermCfg 0 16 = 0 →
        Does (.stackThermalSample k temp) s [.stks] fun t => taken t (tempLevel temp) ∧ fld (t.stack k).therm 0 12 = temp ∧
          fld (t.stack k).therm 12 12 = pred ∧ (t.stack k).sampled = true ∧ others t) ∧
      (x.deferLevel = none → cur < tempLevel temp → tempLevel temp < 4 → s.critical = true → fld s.mem.thermCfg 0 16 ≠ 0 →
        Does (.stackThermalSample k temp) s [.stks] fun t =>
          (t.stack k).deferLevel = some (tempLevel temp) ∧ bitOf (t.stack k).therm 27 = true ∧ (t.stack k).pend = x.pend ∧ others t) ∧
      (s.synced = true → x.deferLevel = none → cur < 4 → tempLevel temp = 4 →
        Does (.stackThermalSample k temp) s [.stks, .ras] fun t => (t.stack k).pend = some 4 ∧ (t.stack k).protect = true ∧ others t ∧
          t.ras = { s.ras with tree := s.ras.tree ++ [{ cause := .stackOvertemp, unit := .channel, index := k * 128 }] }) ∧
      (0 < cur → cur < 4 → temp + s.hyst < levelTemp cur → pred + s.hyst < levelTemp cur →
        (∀ d, x.deferLevel = some d → tempLevel temp ≤ d) → Does (.stackThermalSample k temp) s [.stks] fun t =>
          taken t (cur - 1) ∧ (t.stack k).deferLevel = x.deferLevel ∧ others t)) ∧
    (s.synced = true →
      (∀ d, x.deferLevel = some d → Does (.thermDeferExpire k) s [.stks] fun t =>
        (t.stack k).pend = some d ∧ (t.stack k).deferLevel = none ∧ bitOf (t.stack k).therm 27 = false ∧ others t) ∧
      (s.critical = false → Does .thermDeferEnd s [.stks] fun t =>
        ∀ j < 12, (t.stack j).deferLevel = none ∧
          (t.stack j).pend = match (s.stack j).deferLevel with | some d => some d | none => (s.stack j).pend))

/-- Flags: a read gives the eight flags of its line, a write, an atomic and a reduce-add, which saturates and is then counted, take effect on that flag alone,
and each is answered; a flag past the area is answered RANGE (R343, R344, R468, R469). One that its requester's order holds back does
nothing (R195).
FLAG_SCRUB: the scrubber goes on to its next flag, corrects one error and poisons a flag with two (R468). -/
def Obligations.FlagArea : Prop :=
  (∀ (s : State) (tg tl tag n aop : Nat) (act : FlagAct) (v operand compare : W64), Clean s → TileTxn s tg tl tag →
     let src : ReqSrc := .txn tg tl
     let may := fun (a : FlagAct) => s.mayFlag (src, n, a) = true
     let answered := fun (t : State) (a : FlagAct) (d : Line) (e : Option DropCause) =>
       t.host.flagIn = s.host.flagIn.erase (src, n, a) ∧ TxnAnswered s t tg tl tag d e
     (s.mayFlag (src, n, act) = false → Does (.flagOperation src n act) s [] fun _ => True) ∧
     (n < flagCount → may .read → (∀ i < 8, s.flagMark (n / 8 * 8 + i) = .good) →
       Does (.flagOperation src n .read) s [.host, .answers, .fab] fun t =>
         answered t .read (bytesLine ((List.range 8).flatMap (fun i => leBytes 8 (s.flag (n / 8 * 8 + i)).toNat))) none) ∧
     (n < flagCount → s.flagMark n = .good →
       (may (.write v) → Does (.flagOperation src n (.write v)) s [.flags, .host, .answers, .fab] fun t =>
         (∀ k, t.flag k = if k = n then v else s.flag k) ∧ (∀ k, t.flagMark k = s.flagMark k) ∧ answered t (.write v) 0 none) ∧
       (may (.atomic aop operand compare) →
         Does (.flagOperation src n (.atomic aop operand compare)) s [.flags, .host, .answers, .slice, .fab] fun t =>
           (∀ k, t.flag k = if k = n then
             BitVec.ofNat 64 (atomicNew aop 64 (s.flag n).toNat operand.toNat compare.toNat) else s.flag k) ∧
           answered t (.atomic aop operand compare) 0 none) ∧
       (may (.reduceAdd v) → Does (.flagOperation src n (.reduceAdd v)) s [.flags, .host, .answers, .fab] fun t =>
         (∀ k, k ≠ n → t.flag k = s.flag k) ∧
         (t.flag n).toInt = clampInt (-(2 ^ 63)) (2 ^ 63 - 1) ((s.flag n).toInt + v.toInt) ∧
         t.host.flagIn = s.host.flagIn.erase (src, n, .reduceAdd v) ∧ t.answers = s.answers ++ [s.answerPkt tl tag (toFlits (lineBytes 0)) none] ∧
         t.fab = { s.fab with
           txns := s.fab.txns.filter (fun x => x.tag != tg)
           stats0 := if (t.flag n).toInt = (s.flag n).toInt + v.toInt then s.fab.stats0
             else addFld s.fab.stats0 32 16 1 })) ∧
     (flagCount ≤ n → may act → Does (.flagOperation src n act) s [.host, .answers, .fab] fun t => answered t act 0 (some .range))) ∧
  ∀ (s : State) (b c : Nat), Clean s →
    Does (.flagScrub .ok) s [.flags, .host] fun t =>
      t.host.flagScrub = (s.host.flagScrub + 1) % flagCount ∧ t.host.flags = s.host.flags ∧
      (∀ k, k ≠ s.host.flagScrub → t.flagMark k = s.flagMark k) ∧
      (s.flagMark s.host.flagScrub = .single b → t.flagMark s.host.flagScrub = .good) ∧
      (s.flagMark s.host.flagScrub = .double b c → t.flagMark s.host.flagScrub = .poison) ∧
      (s.flagMark s.host.flagScrub = .good → t.flagMark s.host.flagScrub = .good)

/-! ## The fabric (chapter 11) -/

/-- A packet cut into the bodies of its cells and put together again is the same packet, and a cell laid out in its 80 bytes and read again
is the same cell with a CRC that checks, every field at every value that its width admits (R325, R326, R340). -/
def Obligations.CellsCarryThePacket : Prop :=
  (∀ p : FabPkt, HeaderFits p →
    (pktBodies p).length = pktCells p ∧
    let bs := (pktBodies p).flatMap lineBytes
    pktOf (ofLe (bs.take 32)) (bs.drop 32) = p) ∧
  ∀ c : Cell, CellFits c → (cellBytes c).length = 80 ∧ cellCrcOk (cellBytes c) = true ∧ cellOf (cellBytes c) = c

/-- The link layer of an UP port: a codeword's corrected symbols are counted; a cell in sequence is taken, frees what it acknowledges and
completes its packet when the cells that the packet's LEN names are there; an IDLE cell only reports; a cell out of sequence, of a
reserved TYPE, with a bad CRC or of a codeword that cannot be corrected is discarded with one NAK for the expected number; a NAK below
RETRY_LIMIT has the cells from the named one on sent again, and RETRY_LIMIT of them in a row for one number take the port DOWN (R324 to
R329). That cells of a reserved TYPE or VC are discarded so is the model's choice (log 112). -/
def Obligations.LinkRetry : Prop :=
  ∀ (s : State) (p n : Nat) (bytes : List Byte) (errs : List Nat) (b : CtlBlock), Clean s → (s.port p).st = 3 →
    let x := s.port p
    let c := cellOf bytes
    let fine := (∀ e ∈ errs, e ≤ 15) ∧ cellCrcOk bytes = true
    let known := c.type < 4 ∧ (c.type = 1 → c.vc < 6)
    let y := (x.fecCount errs).report c
    let is := fun (t : State) (y : Port) => t.port p = y ∧ ∀ k, k ≠ p → t.port k = s.port k
    let naked := fun (y : Port) => if y.nakSent = some x.rxSeq then y
      else { y with nakSent := some x.rxSeq, sendNak := true, link := addFld y.link 0 16 1 }
    let taken := { y with rxSeq := (x.rxSeq + 1) % 4096, nakSent := none }
    let key := if c.type = 2 then 6 + c.circuit else c.vc
    let bodies := aget [] x.rx key ++ [c.body]
    let bs := bodies.flatMap lineBytes
    (fine → c.nak = false → known → c.type = 0 → Does (.linkCellReceive p bytes errs) s [.ports] fun t => is t y) ∧
    (fine → c.nak = false → known → c.seq = x.rxSeq →
      (c.type = 1 ∨ c.type = 2 → bodies.length < cellsNeeded (bodies.headD 0) →
        Does (.linkCellReceive p bytes errs) s [.ports] fun t => is t { taken with rx := aset [] x.rx key bodies }) ∧
      (c.type = 1 ∨ c.type = 2 → cellsNeeded (bodies.headD 0) ≤ bodies.length →
        Does (.linkCellReceive p bytes errs) s [.ports, .fab] fun t => is t { taken with rx := aset [] x.rx key [] } ∧
          t.fab.switchQ = s.fab.switchQ ++ [(p, pktOf (ofLe (bs.take 32)) (bs.drop 32))]) ∧
      (c.type = 3 → Does (.linkCellReceive p bytes errs) s [.ports, .fab] fun t => is t taken ∧
        t.fab.switchQ = s.fab.switchQ ++ [(p, pktOf (ofLe ((lineBytes c.body).take 32)) ((lineBytes c.body).drop 32))])) ∧
    (fine → c.nak = false → ¬ known ∨ (c.seq ≠ x.rxSeq ∧ c.type ≠ 0) →
      Does (.linkCellReceive p bytes errs) s [.ports] fun t => is t (naked y)) ∧
    (¬ fine → Does (.linkCellReceive p bytes errs) s [.ports] fun t =>
      is t (naked { x.fecCount errs with link := addFld x.link 32 16 1 })) ∧
    (fine → c.nak = true → c.type = 0 → known → x.nakRun = 0 → 1 < s.retryLimit → Does (.linkCellReceive p bytes errs) s [.ports] fun t =>
      is t { y with nakSeq := c.ack, nakRun := 1, link := addFld x.link 16 16 1, resend := ackTx y.retry c.ack }) ∧
    (x.nakRun = 0 → 1 < s.retryLimit → Does (.nak p n) s [.ports] fun t =>
      is t { x with nakSeq := n, nakRun := 1, link := addFld x.link 16 16 1, resend := ackTx x.retry n }) ∧
    (x.nakRun ≠ 0 → x.nakSeq = n → s.retryLimit ≤ x.nakRun + 1 → Does (.nak p n) s [.ports, .fab, .ras] fun t =>
      is t { x.freshLink with st := 0, reason := 4, link := addFld x.link 16 16 1 }) ∧
    (Does (.controlBlockReceive p b false) s [.ports] fun t => is t { x with link := addFld x.link 32 16 1 }) ∧
    (∀ k m, Does (.controlBlockReceive p (.circuitCredit k m) true) s [.ports] fun t =>
      is t { x with cirUsed := (t.port p).cirUsed } ∧
      ∀ j, aget 0 (t.port p).cirUsed j = if j = k then aget 0 x.cirUsed j - m else aget 0 x.cirUsed j)

/-- PORT_CELL_TIME on an UP port sends the first ready item of R331: a cell to be sent again; else nothing while 3,072 cells wait for
their acknowledgement; else a halt; else the cell of the circuit whose slot it is; else the next cell of the packet in flight; else the
first cell of the next packet under a credit of its VC, marked where the port is congested; else an IDLE cell. A new numbered cell is
kept until it is acknowledged, and waiting packets age; a circuit's cell that came on another port gives that port its credit back as it
goes (R325, R328, R330, R331, R356, R357, R359). A DOWN port with ENABLE and a signal trains,
one in IDENT repeats its IDENT, one in TEST sends 85 bits of its pattern on each lane that takes part (R324, R332, R333, R335). -/
def Obligations.PortCellTime : Prop :=
  ∀ (s : State) (p : Nat), Clean s →
    let x := s.port p
    let others := fun (t : State) => ∀ k, k ≠ p → t.port k = s.port k
    let aged := fun (y : Port) => { y with cellTime := x.cellTime + 1, queue := y.queue.map (fun i => { i with age := i.age + 1 }) }
    let rates := fun (t : State) (marks : Nat) =>
      t.fab = { s.fab with ports := t.fab.ports, spent := t.fab.spent, stats1 := addFld s.fab.stats1 32 32 marks } ∧
      ((s.fab.spent.map (·.1)).Pairwise (· < ·) → ∀ m, aget 0 t.fab.spent m =
        if (rtPorts (s.route m)).head? = some p then aget 0 s.fab.spent m - s.rate m else aget 0 s.fab.spent m)
    let sent := fun (t : State) (y : Port) (d : Cell) (marks : Nat) => rates t marks ∧
      t.port p = aged { y with sendNak := false, freed := (t.port p).freed, sent := x.sent ++
        [{ d with ack := x.rxSeq, nak := x.sendNak, credits := tab 6 (fun v => min 255 (aget 0 x.freed v)) }] } ∧
      ∀ v, aget 0 (t.port p).freed v = if v < 6 then aget 0 x.freed v - 255 else aget 0 x.freed v
    let sends := fun (t : State) (y : Port) (d : Cell) (marks : Nat) => others t ∧ sent t y d marks
    let numbered := fun (d : Tx) => { d with cell := { d.cell with seq := x.txSeq } }
    let kept := fun (y : Port) (d : Tx) => { y with txSeq := (x.txSeq + 1) % 4096, retry := x.retry ++ [d] }
    (x.st = 3 →
      (∀ d r, x.resend = d :: r → Does (.portCellTime p) s [.ports, .fab] fun t => sends t { x with resend := r } d.cell 0) ∧
      (x.resend = [] → 3072 ≤ x.retry.length → Does (.portCellTime p) s [.ports, .fab] fun t => sends t x idleCell 0) ∧
      (x.resend = [] → x.retry.length < 3072 →
        (∀ h hs, x.halts = h :: hs → Does (.portCellTime p) s [.ports, .fab] fun t =>
          let d : Tx := { cell := { idleCell with type := 3, seq := x.txSeq, body := (pktBodies h).headD 0 }, pkt := h, last := true }
          sends t (kept { x with halts := hs } d) d.cell 0) ∧
        (x.halts = [] →
          (∀ c cs d r, s.slotOwners p (x.cellTime % 128) = c :: cs → aget 0 x.cirUsed c < 64 →
            let given := fun (t : State) (n : Nat) => ∀ k, k ≠ p → t.port k = if k = n ∧ n ≠ 63
              then { s.port k with ctl := (s.port k).ctl ++ [.circuitCredit d.pkt.circuit 1] } else s.port k
            let gone := fun (t : State) (y : Port) => given t d.pkt.inPort ∧ sent t (kept { y with
              cirFlight := aset [] x.cirFlight c r, cirUsed := aset 0 x.cirUsed c (aget 0 x.cirUsed c + 1) } (numbered d))
              (numbered d).cell 0
            (aget [] x.cirFlight c = d :: r → d.pkt.inPort ≠ p →
              Does (.portCellTime p) s [.ports, .fab] fun t => gone t x) ∧
            (∀ q, aget [] x.cirFlight c = [] → x.cirQueue.find? (fun q => q.circuit == c && (q.inPort != 63 || s.cirOpen p c)) = some q →
              q.inPort ≠ p → mkCells 2 0 c q = d :: r →
              Does (.portCellTime p) s [.ports, .fab] fun t => gone t { x with cirQueue := x.cirQueue.erase q })) ∧
          (s.circuitCell p = none →
            (∀ d r, x.flight = d :: r → aget 0 x.credits d.cell.vc < 256 → Does (.portCellTime p) s [.ports, .fab] fun t =>
              sends t (kept { x with flight := r, credits := aset 0 x.credits d.cell.vc (aget 0 x.credits d.cell.vc + 1) } (numbered d))
                (numbered d).cell 0) ∧
            (∀ d r, x.flight = d :: r → 256 ≤ aget 0 x.credits d.cell.vc →
              Does (.portCellTime p) s [.ports, .fab] fun t => sends t x idleCell 0) ∧
            (x.flight = [] → x.nextItem = none → Does (.portCellTime p) s [.ports, .fab] fun t => sends t x idleCell 0) ∧
            (∀ i, x.flight = [] → x.nextItem = some i →
              let mark := isRequest i.pkt.op = true ∧ (i.pkt.cls = 1 ∨ i.pkt.cls = 2) ∧ s.markCells ≤ x.queued
              let pkt := if mark then { i.pkt with cmark := true } else i.pkt
              Does (.portCellTime p) s [.ports, .fab] fun t => ∃ d r, mkCells 1 i.vc 0 pkt = d :: r ∧
                sends t (kept { x with queue := x.queue.erase i, flight := r
                                       credits := aset 0 x.credits i.vc (aget 0 x.credits i.vc + 1) } (numbered d))
                  (numbered d).cell (if mark then 1 else 0)))))) ∧
    (x.st = 0 → Does (.portCellTime p) s [.ports] fun t => others t ∧
      t.port p = if x.enable = true ∧ x.signal = true then { x.freshLink with st := 1, reason := 0 } else x) ∧
    (x.st = 1 ∨ x.st = 4 → Does (.portCellTime p) s [] fun _ => True) ∧
    (x.st = 2 → Does (.portCellTime p) s [.ports] fun t => others t ∧
      let ids : List CtlBlock := .ident s.moduleId p (fld s.fab.id 14 9) (fld s.fab.id 23 5) :: (if x.matched then [.identOk] else [])
      t.port p = aged (if x.cellTime % 1024 = 0 then { x with ctl := x.ctl ++ ids } else x)) ∧
    (x.st = 5 → bitOf x.prbs 11 = false → Does (.portCellTime p) s [.ports] fun t => others t ∧ t.port p = aged x) ∧
    (x.st = 5 → bitOf x.prbs 11 = true → fld x.prbs 0 3 < 5 → Does (.portCellTime p) s [.ports, .freeCtr] fun t => others t ∧
      t.port p = aged { x with gens := (t.port p).gens, genOut := (t.port p).genOut } ∧ ∀ l,
        let w := (prbsTaps (fld x.prbs 0 3)).1
        let r := aget 0 x.gens l % 2 ^ w
        (l < 8 → bitOf x.prbs (3 + l) = true → r ≠ 0 →
          aget 0 (t.port p).genOut l = (prbsBits w (prbsTaps (fld x.prbs 0 3)).2 85 r).1 ∧
          aget 0 (t.port p).gens l = (prbsBits w (prbsTaps (fld x.prbs 0 3)).2 85 r).2) ∧
        (8 ≤ l ∨ bitOf x.prbs (3 + l) = false → aget 0 (t.port p).genOut l = aget 0 x.genOut l ∧
          aget 0 (t.port p).gens l = aget 0 x.gens l))

/-- FABRIC_PACKET_ROUTE of a request: a packet of this module without a valid entry is dropped NO_ROUTE, one to a module outside the
slice OUT_OF_SLICE, and its drop is counted; otherwise it leaves on one of the entry's ports with HOPS one higher. A packet for this
module from a member of its slice is delivered, unless its step or epoch differs from the slice's; one for another module goes on while
HOPS is below 3, and is dropped with HOP_LIMIT else. Circuit data follows the circuit's entry to its end. What a packet held of its VC's
buffer is freed. A packet whose output port is not UP is dropped LINK_DOWN, which is the model's reading (log 112), and a packet behind
an earlier one of its flow, or behind its VC's drain marker, waits (R330, R347, R349, R351, R352, R355, R357, R367, R380, R569). -/
def Obligations.Routing : Prop :=
  ∀ (s : State) (p : FabPkt) (port : Nat), Clean s → isRequest p.op = true →
    (s.mayRoute port p = false → Does (.fabricPacketRoute port p) s [] fun _ => True) ∧ (s.mayRoute port p = true →
    let e := s.route p.dest
    let left := s.fab.switchQ.erase (port, p)
    let freed := if port = 63 then s.port port
      else { s.port port with freed := aset 0 (s.port port).freed (vcOf p) (aget 0 (s.port port).freed (vcOf p) + pktCells p) }
    let base := fun (k : Nat) => if k = port then freed else s.port k
    let counted := fun (t : State) => fld t.fab.drop2 0 32 = min 0xFFFFFFFF (fld s.fab.drop2 0 32 + 1)
    let routed := { p with cirPort := 63, inPort := port }
    let onward := fun (t : State) => t.fab.switchQ = left ∧ t.fab.delivered = s.fab.delivered ∧ outPort e p ∈ rtPorts e ∧
      t.port (outPort e p) = { base (outPort e p) with
        queue := (s.port (outPort e p)).queue ++ [{ pkt := { routed with hops := p.hops + 1 }, vc := p.hops, age := 0 }] } ∧
      ∀ k, k ≠ outPort e p → t.port k = base k
    let up := (s.port (outPort e p)).st = 3
    let refused := fun (t : State) (c : DropCause) => counted t ∧
      (∃ a : FabPkt, t.fab.switchQ = left ++ [(63, a)] ∧ a.op = .errorReply ∧ a.aop = dropCode c ∧ a.tag = p.tag) ∧ ∀ k, t.port k = base k
    (p.op ≠ .circuitData → port = 63 →
      (p.src = s.moduleId → bitOf e 42 = false → Does (.fabricPacketRoute 63 p) s [.fab] fun t => t.fab.switchQ = left ∧ counted t ∧
        t.fab.delivered = s.fab.delivered ++ [{ routed with op := .errorReply, payload := [], aop := 0 }]) ∧
      (p.src = s.moduleId → bitOf e 42 = true → bitOf e 39 = true ∨ rtPorts e ≠ [] → bitOf e 40 = false →
        Does (.fabricPacketRoute 63 p) s [.fab] fun t => t.fab.switchQ = left ∧ counted t ∧
          t.fab.delivered = s.fab.delivered ++ [{ routed with op := .errorReply, payload := [], aop := 1 }]) ∧
      (bitOf e 42 = true → bitOf e 39 = false → rtPorts e ≠ [] → bitOf e 40 = true →
        (up → Does (.fabricPacketRoute 63 p) s [.fab, .ports] onward) ∧
        (¬ up → p.src = s.moduleId → Does (.fabricPacketRoute 63 p) s [.fab] fun t => t.fab.switchQ = left ∧ counted t ∧
          t.fab.delivered = s.fab.delivered ++ [{ routed with op := .errorReply, payload := [], aop := 6 }]))) ∧
    (p.op ≠ .circuitData → port ≠ 63 →
      (p.dest = s.moduleId → bitOf (s.route s.moduleId) 39 = true → p.slice = BitVec.ofNat 16 (fld s.fab.id 28 16) →
        (s.sliceSt ≠ 2 ∨ p.srcEngine = false ∨
          (p.stepLo = BitVec.ofNat 32 s.slice.step.toNat ∧ p.epoch = BitVec.ofNat 16 s.slice.epoch.toNat) →
          Does (.fabricPacketRoute port p) s [.fab, .ports] fun t =>
            t.fab.switchQ = left ∧ t.fab.delivered = s.fab.delivered ++ [routed] ∧ ∀ k, t.port k = base k) ∧
        (s.sliceSt = 2 → p.srcEngine = true → 0x1000 ≤ p.srcTile → p.srcTile < 0x1040 →
          p.stepLo ≠ BitVec.ofNat 32 s.slice.step.toNat →
          Does (.fabricPacketRoute port p) s [.fab, .ports, .slice, .ras] fun t =>
            t.fab.switchQ = left ∧ t.fab.delivered = s.fab.delivered ∧ ∀ k, t.port k = base k)) ∧
      (p.dest ≠ s.moduleId → bitOf e 42 = true → rtPorts e ≠ [] → bitOf e 40 = true ∨ bitOf e 41 = true →
        (p.hops < 3 → up → Does (.fabricPacketRoute port p) s [.fab, .ports] onward) ∧
        (p.hops < 3 → ¬ up → p.src ≠ s.moduleId → Does (.fabricPacketRoute port p) s [.fab, .ports] fun t => refused t .linkDown) ∧
        (3 ≤ p.hops → p.src ≠ s.moduleId → Does (.fabricPacketRoute port p) s [.fab, .ports] fun t => refused t .hopLimit))) ∧
    (p.op = .circuitData → s.routeCause port p = none → (if port = 63 then bitOf e 39 = false else p.dest ≠ s.moduleId) →
      let credited := fun (t : State) => ∀ k, t.port k = if k = port ∧ port ≠ 63
        then { s.port k with ctl := (s.port k).ctl ++ [.circuitCredit p.circuit (pktCells p)] } else s.port k
      (∀ k, s.cirRoute port p.circuit p.cirPort = some k → bitOf (cirWord s.fab.cir k.1 k.2 0) 1 = false →
        let o := fld (cirWord s.fab.cir k.1 k.2 0) 2 6
        ((s.port o).st = 3 → Does (.fabricPacketRoute port p) s [.fab, .ports] fun t => t.fab.switchQ = left ∧
          t.fab.delivered = s.fab.delivered ∧ ∀ j, t.port j = if j = o
            then { s.port o with cirQueue := (s.port o).cirQueue ++ [{ routed with hops := p.hops + 1 }] } else s.port j) ∧
        ((s.port o).st ≠ 3 → Does (.fabricPacketRoute port p) s [.fab, .ports] fun t => counted t ∧ credited t)) ∧
      (s.cirRoute port p.circuit p.cirPort = none → Does (.fabricPacketRoute port p) s [.fab, .ports] fun t => counted t ∧ credited t) ∧
      (∀ k, s.cirRoute port p.circuit p.cirPort = some k → bitOf (cirWord s.fab.cir k.1 k.2 0) 1 = true →
        bitOf (s.route s.moduleId) 39 = true → p.slice = BitVec.ofNat 16 (fld s.fab.id 28 16) → p.srcEngine = false →
        Does (.fabricPacketRoute port p) s [.fab, .ports] fun t => t.fab.switchQ = left ∧
          t.fab.delivered = s.fab.delivered ++ [routed] ∧ credited t)))

/-- READ, WRITE, ATOMIC, REDUCE_ADD and CIRCUIT_DATA at their destination: an accepted request on stack memory or on a flag is
handed on as its line or flag operations and awaits them, one on a local store enters the mesh toward its tile, and one that is not
accepted is answered with its cause; a checkpoint engine's circuit data goes to this module's checkpoint engine and is acknowledged, and
its read of a slot's header is answered there (R51, R341, R342, R343, R344, R345, R349, R489, R496). -/
def Obligations.RequestsAtDestination : Prop :=
  ∀ (s : State) (p : FabPkt) (c : Instr), Clean s →
    (c = .read p ∧ p.op = .read ∨ c = .write p ∧ p.op = .write ∨ c = .atomic p ∧ p.op = .atomic ∨
      c = .reduceAdd p ∧ p.op = .reduceAdd ∨ c = .circuitData p ∧ p.op = .circuitData) →
    let cause := reqCause p.op (gaSpace p.addr) (gaOff p.addr) p.payload.length p.aw p.rfmt p.aop
    let taken := fun (t : State) (n : Nat) => t.fab.delivered = s.fab.delivered.erase p ∧ t.fab.switchQ = s.fab.switchQ ∧
      t.fab.inReqs = s.fab.inReqs ++ [(p, n, none)]
    let operand := BitVec.ofNat 64 (ofLe ((payloadBytes p.payload).take 8) % 2 ^ (8 * 2 ^ p.aw))
    let compare := BitVec.ofNat 64 (ofLe (((payloadBytes p.payload).drop 8).take 8) % 2 ^ (8 * 2 ^ p.aw))
    (p.srcEngine = false ∨ (p.op ≠ .circuitData ∧ p.op ≠ .read) →
      (∀ d, cause = some d → p.src ≠ s.moduleId → Does c s [.fab] fun t =>
        t.fab.delivered = s.fab.delivered.erase p ∧
        ∃ a : FabPkt, t.fab.switchQ = s.fab.switchQ ++ [(63, a)] ∧ a.op = .errorReply ∧ a.aop = dropCode d ∧ a.tag = p.tag ∧
          (p.src < 2 ^ 14 → a.dest = p.src)) ∧
      (cause = none → gaSpace p.addr = 0 →
        (p.op = .read → Does c s [.fab, .inbox] fun t => taken t 1 ∧
          t.mem.inbox = s.mem.inbox ++ [{ src := .fabric p, addr := gaOff p.addr, op := .read, cls := p.cls }]) ∧
        (p.op = .write ∨ p.op = .circuitData → Does c s [.fab, .inbox] fun t =>
          let rs := writeLines (.fabric p) p.cls (16 * p.payload.length + 1) (gaOff p.addr) (payloadBytes p.payload)
          t.mem.inbox = s.mem.inbox ++ rs ∧ taken t rs.length) ∧
        (p.op = .reduceAdd → Does c s [.fab, .inbox] fun t =>
          let rs := reduceLines (.fabric p) p.cls p.rfmt (16 * p.payload.length + 1) (gaOff p.addr) (payloadBytes p.payload)
          t.mem.inbox = s.mem.inbox ++ rs ∧ taken t rs.length) ∧
        (p.op = .atomic → Does c s [.fab, .inbox] fun t => taken t 1 ∧ t.mem.inbox = s.mem.inbox ++ [{
          src := .fabric p, addr := gaOff p.addr / 64 * 64, op := .atomic p.aop p.aw (gaOff p.addr % 64) operand compare, cls := p.cls }])) ∧
      (cause = none → gaSpace p.addr = 1 → Does c s [.fab, .mesh] fun t => t.fab.delivered = s.fab.delivered.erase p ∧
        t.fab.switchQ = s.fab.switchQ ∧ t.mesh = s.mesh ++ [{
          kind := 0, dest := gaOff p.addr / Config.lsStride, src := gaOff p.addr / Config.lsStride, trigger := p.trigger
          lsAddr := gaOff p.addr % Config.lsStride / 16, cls := p.cls, op := if p.op = .read then 1 else 0
          beatLo := s.esc.beat.toNat % 4096, addr := 0, tag := 0, payload := p.payload, edge := some p
          way := hopsOf (wayIn (gaOff p.addr / Config.lsStride)) }]) ∧
      (cause = none → gaSpace p.addr = 2 →
        (p.op = .read → Does c s [.fab, .host] fun t => taken t 1 ∧
          t.host.flagIn = s.host.flagIn ++ [(.fabric p, gaOff p.addr / 8, .read)]) ∧
        (p.op = .write ∨ p.op = .circuitData → Does c s [.fab, .host] fun t =>
          let fs := flagOps (.fabric p) .write (gaOff p.addr / 8) (payloadBytes p.payload)
          t.host.flagIn = s.host.flagIn ++ fs ∧ taken t fs.length) ∧
        (p.op = .reduceAdd → Does c s [.fab, .host] fun t =>
          let fs := flagOps (.fabric p) .reduceAdd (gaOff p.addr / 8) (payloadBytes p.payload)
          t.host.flagIn = s.host.flagIn ++ fs ∧ taken t fs.length) ∧
        (p.op = .atomic → Does c s [.fab, .host] fun t => taken t 1 ∧
          t.host.flagIn = s.host.flagIn ++ [(.fabric p, gaOff p.addr / 8, .atomic p.aop operand compare)]))) ∧
    (∀ bs, p.op = .read → p.srcEngine = true → p.srcTile = 0x1800 → gaSpace p.addr = 0 → s.headerAt (gaOff p.addr) = some bs →
      s.frozenAs 0x1800 = false → Does c s [.fab] fun t => t.fab.delivered = s.fab.delivered.erase p ∧
        ∃ a : FabPkt, t.fab.switchQ = s.fab.switchQ ++ [(63, a)] ∧ a.op = .readReply ∧ a.tag = p.tag ∧ a.payload = toFlits bs) ∧
    (p.op = .circuitData → p.srcEngine = true → p.srcTile = 0x1800 → s.frozenAs 0x1800 = false → Does c s [.fab, .ras] fun t =>
      t.fab.delivered = s.fab.delivered.erase p ∧
      ∃ a : FabPkt, t.fab.switchQ = s.fab.switchQ ++ [(63, a)] ∧ a.op = .ack ∧ a.tag = p.tag)

/-- Draining and the tables: DRAIN stops injection, the markers go out once every fabric transaction is answered, a peer's marker is returned
once every earlier packet of its VC has left and the write-combining buffers are empty, this module's own free what they held, the packets
that are there when the last one is back are awaited, and the drain ends DRAINED or with DRAIN_FAIL at its limit; RT_APPLY after DRAINED
makes the shadow tables active and resumes, and before it sets only its error bit; RESUME resumes; DROP_REARM clears the drop record (R353,
R354, R366). From a commit's evaluation to its beat, a drain that the commit needs stands: DRAIN, RT_APPLY and RESUME do nothing (R428; the
model's reading, log 118). -/
def Obligations.DrainAndTables : Prop :=
  ∀ (s : State) (p vc : Nat) (beat : W64) (q : Nat × FabPkt), Clean s →
    (s.fabHeld = true → Does .drainFabric s [] (fun _ => True) ∧ Does .rtApply s [] (fun _ => True) ∧ Does .resume s [] fun _ => True) ∧
    let waits := fun (t : State) => s.fab.markersSent = true → t.fab.ports.all (fun x => x.2.markersOut.isEmpty) = true →
      ∀ i ∈ t.fab.switchQ, i.2.op ≠ .drainMarker → asCame i.2 ∈ t.fab.awaited
    (s.fabHeld = false → Does .drainFabric s [.fab] fun t =>
      t.fab = { s.fab with status := setBit (setBit (setBit s.fab.status 2 true) 0 true) 1 false, drainBeat := some s.esc.beat,
                           markersSent := false, awaited := [] }) ∧
    (bitOf s.fab.status 0 = true → s.fab.markersSent = false → s.fab.txns.all (fun t => t.held || t.left != 0) = true →
      Does .drainMarkersSend s [.fab, .ports] fun t =>
        t.fab.markersSent = true ∧ t.fab.switchQ = s.fab.switchQ ∧
        (∀ k < Config.ports, (s.port k).st = 3 → (t.port k).markersOut = List.range 6 ∧
          (t.port k).queue.length = (s.port k).queue.length + 6 ∧
          ∀ v < 6, ∃ i ∈ (t.port k).queue, i.vc = v ∧ i.pkt.op = .drainMarker ∧ i.pkt.aop = v) ∧
        (∀ k, (s.port k).st ≠ 3 → t.port k = s.port k)) ∧
    (s.fab.switchQ.find? (fun q => q.1 == p && q.2.op == .drainMarker && q.2.aop == vc) = none →
      (s.port p).markersOut.contains vc = true → Does (.drainMarker p vc) s [.ports, .fab] fun t =>
        t.port p = { s.port p with markersOut := (s.port p).markersOut.erase vc } ∧ (∀ k, k ≠ p → t.port k = s.port k) ∧
        t.fab.switchQ = s.fab.switchQ ∧ waits t) ∧
    (s.fab.switchQ.find? (fun q => q.1 == p && q.2.op == .drainMarker && q.2.aop == vc) = some q →
      let x := s.port p
      let freed := { x with freed := aset 0 x.freed vc (aget 0 x.freed vc + 1) }
      (q.2.src = s.moduleId → Does (.drainMarker p vc) s [.fab, .ports] fun t => t.fab.switchQ = s.fab.switchQ.erase q ∧
        t.port p = { freed with markersOut := x.markersOut.erase vc } ∧ (∀ k, k ≠ p → t.port k = s.port k) ∧ waits t) ∧
      (q.2.src ≠ s.moduleId → x.st = 3 → s.crossing p vc = false → (before q s.fab.switchQ).any (fun r =>
          r.1 == p && vcOf r.2 == vc && r.2.op != .haltMarker && r.2.op != .circuitData) = false →
        ∃ t, exec (.drainMarker p vc) s = .next t ∧ t.fab.switchQ = s.fab.switchQ.erase q ∧ (∀ c, (t.chan c).wcb = []) ∧
          t.port p = { freed with queue := x.queue ++ [{ pkt := q.2, vc := vc, age := 0 }] } ∧ ∀ k, k ≠ p → t.port k = s.port k) ∧
      (q.2.src ≠ s.moduleId → s.crossing p vc = true → Does (.drainMarker p vc) s [] fun _ => True)) ∧
    (bitOf s.fab.status 0 = true → s.fab.markersSent = true → s.queuesEmpty = true → Does .drained s [.fab] fun t =>
      t.fab = { s.fab with status := setBit (setBit s.fab.status 1 true) 0 false, drainBeat := none }) ∧
    (s.fab.drainBeat = some beat → bitOf s.fab.status 0 = true → beat.toNat + s.drainLimit ≤ s.esc.beat.toNat →
      Does .drainTimeout s [.fab] fun t =>
        t.fab = { s.fab with status := setBit (setBit s.fab.status 4 true) 0 false, drainBeat := none }) ∧
    (s.fabHeld = false → bitOf s.fab.status 1 = false → Does .rtApply s [.fab] fun t =>
      t.fab = { s.fab with status := setBit s.fab.status 3 true }) ∧
    (s.fabHeld = false → bitOf s.fab.status 1 = true → s.cirConflict s.fab.cirs = true → Does .rtApply s [.fab] fun t =>
      t.fab = { s.fab with status := setBit s.fab.status 5 true }) ∧
    (s.fabHeld = false → bitOf s.fab.status 1 = true → s.cirConflict s.fab.cirs = false → Does .rtApply s [.fab] fun t =>
      t.fab.rt = s.fab.rts ∧ t.fab.cir = s.fab.cirs ∧ t.fab.rts = s.fab.rts ∧ bitOf t.fab.status 1 = false ∧
      bitOf t.fab.status 2 = false) ∧
    (s.fabHeld = false → Does .resume s [.fab] fun t =>
      bitOf t.fab.status 0 = false ∧ bitOf t.fab.status 1 = false ∧ bitOf t.fab.status 2 = false ∧ t.fab.drainBeat = none ∧
      t.fab = { s.fab with status := t.fab.status, drainBeat := none, markersSent := false }) ∧
    (Does .dropRearm s [.fab] fun t => t.fab = { s.fab with drop0 := 0, drop1 := 0, drop2 := 0 })

/-- PRBS_PATTERN_RECEIVE at a lane of a port in TEST with CHECK set: a locked lane counts each bit that differs from its polynomial and
goes on from the bit that it expected; the lane's first bits fill its register; a lane that is not locked locks at the 1,024th bit in a
row that follows the polynomial, and its errors count from there (R335, R368). -/
def Obligations.PrbsCheck : Prop :=
  ∀ (s : State) (p lane : Nat) (b : Bool), Clean s → (s.port p).st = 5 → bitOf (s.port p).prbs 12 = true → lane < 8 →
    bitOf (s.port p).prbs (3 + lane) = true → fld (s.port p).prbs 0 3 < 5 →
    let w := (prbsTaps (fld (s.port p).prbs 0 3)).1
    let k := (prbsTaps (fld (s.port p).prbs 0 3)).2
    let c := aget ({} : Checker) (s.port p).checkers lane
    let e := aget (0 : W64) (s.port p).prbsErr lane
    let want := (nth false c.hist (w - 1)) != (nth false c.hist (k - 1))
    let others := fun (t : State) => ∀ j, j ≠ p → t.port j = s.port j
    let lane' := fun (t : State) => aget ({} : Checker) (t.port p).checkers lane
    let err' := fun (t : State) => aget (0 : W64) (t.port p).prbsErr lane
    (c.hist.length < w → Does (.prbsPatternReceive p lane [b]) s [.ports] fun t => others t ∧
      (lane' t).hist = b :: c.hist ∧ fld (err' t) 0 32 = fld e 0 32) ∧
    (c.hist.length = w → bitOf e 32 = true → Does (.prbsPatternReceive p lane [b]) s [.ports] fun t => others t ∧
      (lane' t).hist = (want :: c.hist).take w ∧
      fld (err' t) 0 32 = min 0xFFFFFFFF (fld e 0 32 + (if want = b then 0 else 1)) ∧ bitOf (err' t) 32 = true) ∧
    (c.hist.length = w → bitOf e 32 = false → Does (.prbsPatternReceive p lane [b]) s [.ports] fun t => others t ∧
      lane' t = { hist := (b :: c.hist).take w, agree := if want = b then c.agree + 1 else 0 } ∧
      fld (err' t) 0 32 = (if 1024 ≤ if want = b then c.agree + 1 else 0 then 0 else fld e 0 32) ∧ bitOf (err' t) 32 = decide (1024 ≤ if want = b then c.agree + 1 else 0))

/-- Ports that are not UP: the end of training, the IDENT exchange, the writes of ENABLE, RETRAIN, TEST_ENTER, TEST_EXIT and FAB_P_PEER,
and a signal that comes or goes move the one port as R332 and R333 say, and no other. A port that is disabled leaves an agent whose PORT
it is in NO_ROOT (R275).
A port leaves UP: it is DOWN with nothing queued and no other port changes; every packet queued for it, or begun and not yet
acknowledged whole, is counted as dropped, and outside JOINING the LINK_DOWN fault is raised (R332, R334, R367). -/
def Obligations.PortsAndLinks : Prop :=
  (∀ (s : State) (p m q rack slot : Nat) (v : W64), Clean s → m < 2 ^ 14 → q < 64 → rack < 512 → slot < 32 →
     let x := s.port p
     let got := BitVec.ofNat 64 (m + q * 2 ^ 14 + rack * 2 ^ 20 + slot * 2 ^ 29 + 2 ^ 34)
     let is := fun (t : State) (y : Port) => t.port p = y ∧ ∀ k, k ≠ p → t.port k = s.port k
     let rootless := fun (t : State) => t.esc = if s.hsPort = p ∧ s.hsRole = 2
       then { s.esc with hsStatus := setFld s.esc.hsStatus 32 3 5, t1 := none } else s.esc
     (x.st = 1 →
       (Does (.portTrainingEnd p true) s [.ports] fun t =>
         is t { x.freshLink with st := 2, reason := 0, ctl := x.ctl ++ [.ident s.moduleId p (fld s.fab.id 14 9) (fld s.fab.id 23 5)] }) ∧
       (Does (.portTrainingEnd p false) s [.ports] fun t => is t { x.freshLink with st := 0, reason := 2 })) ∧
     (x.st = 2 →
       (s.moduleId = 0x3FFF ∨ bitOf x.peer 20 = false → Does (.ident p m q rack slot) s [.ports] fun t => is t { x with ident := got }) ∧
       (s.moduleId ≠ 0x3FFF → bitOf x.peer 20 = true →
         (fld x.peer 0 20 = m + q * 2 ^ 14 → x.okGot = false → Does (.ident p m q rack slot) s [.ports] fun t =>
           is t { x with ident := got, matched := true, ctl := x.ctl ++ [.identOk] }) ∧
         (fld x.peer 0 20 = m + q * 2 ^ 14 → x.okGot = true → Does (.ident p m q rack slot) s [.ports] fun t =>
           is t { x.freshLink with ident := got, ctl := x.ctl ++ [.identOk], st := 3, reason := 0 }) ∧
         (fld x.peer 0 20 ≠ m + q * 2 ^ 14 → Does (.ident p m q rack slot) s [.ports, .esc] fun t =>
           is t { x.freshLink with ident := got, st := 4, reason := 3 } ∧ rootless t)) ∧
       (Does (.identOk p) s [.ports] fun t =>
         is t (if x.matched = true ∧ bitOf x.peer 20 = true ∧ s.moduleId ≠ 0x3FFF then { x.freshLink with st := 3, reason := 0 }
         else { x with okGot := true }))) ∧
     (x.st ≠ 2 → (Does (.ident p m q rack slot) s [] fun _ => True) ∧ Does (.identOk p) s [] fun _ => True) ∧
     (x.st ≠ 3 → Does (.enable p) s [.ports, .esc] fun t =>
       is t { x.freshLink with st := 0, reason := 5, enable := false } ∧ rootless t) ∧
     (x.st = 0 ∨ x.st = 4 →
       (Does (.retrain p) s [.ports] fun t => is t { x.freshLink with st := 1, reason := 0 }) ∧
       (Does (.testEnterPort p) s [.ports] fun t => is t { x.freshLink with st := 5, reason := 0, checkers := [], gens := [], genOut := []
                                                                            prbsErr := (t.port p).prbsErr } ∧
         ∀ l, aget (0 : W64) (t.port p).prbsErr l = setBit (aget 0 x.prbsErr l) 32 false)) ∧
     (x.st ≠ 0 → x.st ≠ 4 → Does (.retrain p) s [] fun _ => True) ∧
     (x.st ≠ 0 → x.st ≠ 4 → x.st ≠ 3 ∨ s.outside = true →
       Does (.testEnterPort p) s [.fab] fun t => t.fab = { s.fab with status := setBit s.fab.status 6 true }) ∧
     (x.st = 5 → Does (.testExitPort p) s [.ports] fun t => is t { x.freshLink with st := 1, reason := 0 }) ∧
     (x.st = 4 → Does (.fabPPeerWrite p v) s [.ports] fun t =>
       is t { x.freshLink with st := 1, reason := 0, peer := rw x.peer (maskOf 0 21) v }) ∧
     (x.st = 0 → Does (.fabPPeerWrite p v) s [.ports] fun t => is t { x with peer := rw x.peer (maskOf 0 21) v, matched := false }) ∧
     (x.st = 2 → s.outside = false → bitOf v 20 = false → Does (.fabPPeerWrite p v) s [.ports] fun t =>
       is t { x with peer := rw x.peer (maskOf 0 21) v, matched := false }) ∧
     (s.outside = true → x.st ≠ 0 → x.st ≠ 4 → Does (.fabPPeerWrite p v) s [.fab] fun t =>
       t.fab = { s.fab with status := setBit s.fab.status 6 true }) ∧
     (Does (.signalPresent p) s [.ports] fun t => is t (if x.st = 0 ∧ x.enable = true
       then { x.freshLink with st := 1, reason := 0, signal := true } else { x with signal := true })) ∧
     (x.st ≠ 3 → Does (.noSignal p) s [.ports] fun t => is t (if x.st = 2
       then { x.freshLink with st := 0, reason := 1, signal := false } else { x with signal := false }))) ∧
  ∀ (s : State) (p : Nat), Clean s → (s.port p).st = 3 →
    let x := s.port p
    let begun := (x.retry ++ x.flight ++ x.cirFlight.flatMap (fun e => e.2)).filter (fun c => c.last)
    let lost := begun.length + x.halts.length + x.queue.length + x.cirQueue.length
    let down := fun (t : State) (y : Port) => t.port p = y ∧ (∀ k, k ≠ p → t.port k = s.port k) ∧
      fld t.fab.drop2 0 32 = min 0xFFFFFFFF (fld s.fab.drop2 0 32 + lost) ∧
      (lost = 0 → t.fab.delivered = s.fab.delivered ∧ t.fab.switchQ = s.fab.switchQ) ∧
      t.ras = if s.outside then
        { s.ras with tree := s.ras.tree ++ [{ cause := .linkDown, unit := .port, index := p }] } else s.ras
    (Does (.linkDown p) s [.ports, .fab, .ras] fun t => down t { x.freshLink with st := 0 }) ∧
    (Does (.noSignal p) s [.ports, .fab, .ras] fun t => down t { x.freshLink with st := 0, reason := 1, signal := false }) ∧
    (Does (.enable p) s [.ports, .fab, .ras, .esc] fun t => down t { x.freshLink with st := 0, reason := 5, enable := false } ∧
      (s.hsPort ≠ p → t.esc = s.esc))

/-- EDGE_TAG_GRANT: the first waiting transaction that may go takes a tag that none outstanding holds. One of the fabric carries the beat,
step, epoch and slice of the present and comes to the switch; while injection is stopped none goes, and in a replay one toward another
module is answered at the edge. A tile's request of this module's own memory goes on as its line operations. Where every tag is held it
waits, and TAG_STALLS counts that wait once. One whose module's rate allows no further cell does not go, nor one behind an earlier one of
its tile, class and module, or behind a write of its tile to its line (R196, R340, R347, R348, R353, R360, R518).
READ_REPLY, ACK and ERROR_REPLY retire the transaction of their tag and answer the tile that waits for it; an echoed mark cuts the
rate toward the destination, at most once in CUT_GAP beats; a transaction that times out is answered TIMEOUT, raises FABRIC_TIMEOUT and
keeps its tag until its late answer, which is discarded; the index 63 of the fault of a transaction with the own memory is the model's
(log 112) (R341, R348, R349, R359, R360, R367). -/
def Obligations.TagsAndAnswers : Prop :=
  (∀ (s : State) (w : EdgeReq), Clean s →
     s.fab.nextTag < Config.txnTags → (∀ x ∈ s.fab.txns, x.tag < Config.txnTags) →
     let granted := fun (t : State) (tag : Nat) => (∀ x ∈ s.fab.txns, x.tag ≠ tag) ∧
       let p : FabPkt := { w.pkt with tag := tag, beat := s.esc.beat.toNat % 2 ^ 24, stepLo := BitVec.ofNat 32 s.slice.step.toNat
                                      epoch := BitVec.ofNat 16 s.slice.epoch.toNat, slice := BitVec.ofNat 16 (fld s.fab.id 28 16) }
       t.fab.waiting = s.fab.waiting.erase w ∧ t.fab.txns = s.fab.txns ++ [{ tag := tag, pkt := p, src := w.src, beat := s.esc.beat }]
     (State.firstGo s [] s.fab.waiting = some w → s.fab.txns.length < Config.txnTags →
       (s.memReq w = false → s.hang.replaying = none ∨ w.pkt.dest = s.moduleId → Does .edgeTagGrant s [.fab] fun t =>
         ∃ tag < Config.txnTags, granted t tag ∧ ∃ p, t.fab.switchQ = s.fab.switchQ ++ [(63, p)] ∧ p.tag = tag ∧ p.addr = w.pkt.addr ∧
           p.op = w.pkt.op ∧ p.payload = w.pkt.payload) ∧
       (s.memReq w = false → s.hang.replaying.isSome = true → w.pkt.dest ≠ s.moduleId → isRequest w.pkt.op = true →
         w.pkt.src = s.moduleId → Does .edgeTagGrant s [.fab] fun t => ∃ tag < Config.txnTags, granted t tag ∧ t.fab.switchQ = s.fab.switchQ ∧
           ∃ a, t.fab.delivered = s.fab.delivered ++ [a] ∧ a.op = .errorReply ∧ a.aop = 1 ∧ a.tag = tag) ∧
       (s.memReq w = true → w.pkt.op = .read → gaSpace w.pkt.addr = 0 → Does .edgeTagGrant s [.fab, .inbox] fun t =>
         ∃ tag < Config.txnTags, (∀ x ∈ s.fab.txns, x.tag ≠ tag) ∧ t.fab.waiting = s.fab.waiting.erase w ∧
           t.fab.txns = s.fab.txns ++ [{ tag := tag, pkt := { w.pkt with tag := tag }, src := w.src, beat := s.esc.beat, left := 1 }] ∧
           t.mem.inbox = s.mem.inbox ++ [{ src := .txn tag w.pkt.srcTile, addr := gaOff w.pkt.addr, op := .read, cls := w.pkt.cls }])) ∧
     (State.firstGo s [] s.fab.waiting = some w → Config.txnTags ≤ s.fab.txns.length →
       (w.stalled = true → Does .edgeTagGrant s [] fun _ => True) ∧
       (w.stalled = false → Does .edgeTagGrant s [.fab] fun t =>
         t.fab = { s.fab with waiting := s.fab.waiting.map (fun x => if x = w then { x with stalled := true } else x)
                              stats0 := addFld s.fab.stats0 0 16 1 })) ∧
     (s.memReq w = false →
       (∀ before after, s.fab.waiting = before ++ w :: after → bitOf s.fab.status 2 = false →
         (∀ q ∈ before, q.pkt.srcTile ≠ w.pkt.srcTile) →
         (∀ x ∈ s.fab.txns, x.pkt.srcTile ≠ w.pkt.srcTile) → s.overRate w.pkt = false → s.mayGo before w = true) ∧
       (∀ before, s.overRate w.pkt = true ∨ bitOf s.fab.status 2 = true → s.mayGo before w = false) ∧
       (∀ before q, q ∈ before → q.pkt.srcTile = w.pkt.srcTile → q.pkt.srcEngine = w.pkt.srcEngine → q.pkt.cls = w.pkt.cls →
         q.pkt.dest = w.pkt.dest → s.mayGo before w = false)) ∧
     (s.memReq w = true → ∀ before, s.mayGo before w = true ↔ ∀ q ∈ before, s.memReq q = true → q.pkt.srcTile ≠ w.pkt.srcTile) ∧
     (State.firstGo s [] s.fab.waiting = none → Does .edgeTagGrant s [] fun _ => True)) ∧
  ∀ (s : State) (p : FabPkt) (x : Txn) (tl tag : Nat) (c : Instr) (e : Option DropCause), Clean s →
    (c = .readReply p ∧ p.op = .readReply ∧ e = none ∨ c = .ack p ∧ p.op = .ack ∧ e = none ∨
      c = .errorReply p ∧ p.op = .errorReply ∧ e = some (causeOf p.aop)) →
    (s.fab.txns.find? (fun t => t.tag == p.tag) = some x → x.src = .tile tl tag → p.echo = false →
      (x.held = false → Does c s [.fab, .answers] fun t =>
        t.answers = s.answers ++ [s.answerPkt tl tag
          (if p.op = .readReply then toFlits (lineBytes (bytesLine ((payloadBytes p.payload).take 64))) else []) e] ∧
        t.fab.txns = s.fab.txns.erase x ∧ t.fab.delivered = s.fab.delivered.erase p ∧ t.fab.rate = s.fab.rate) ∧
      (x.held = true → Does c s [.fab] fun t => t.fab.txns = s.fab.txns.erase x ∧ t.fab.delivered = s.fab.delivered.erase p)) ∧
    (s.fab.txns.find? (fun t => t.tag == p.tag) = some x → x.src = .tile tl tag → p.echo = true → x.held = false →
      (s.gapPassed x.pkt.dest = true → Does c s [.fab, .answers] fun t =>
        t.rate x.pkt.dest = max s.rateMin (s.rate x.pkt.dest - s.rate x.pkt.dest / 2 ^ s.cutShift) ∧
        (∀ m, m ≠ x.pkt.dest → t.rate m = s.rate m) ∧ afind t.fab.lastCut x.pkt.dest = some s.esc.beat.toNat) ∧
      (s.gapPassed x.pkt.dest = false → Does c s [.fab, .answers] fun t => t.fab.rate = s.fab.rate)) ∧
    (s.fab.txns.find? (fun t => t.tag == p.tag) = none → Does c s [.fab] fun t =>
      t.fab = { s.fab with delivered := s.fab.delivered.erase p }) ∧
    (∀ n, s.fab.txns.find? (fun t => t.tag == n && !t.held) = some x → x.src = .tile tl tag →
      x.beat.toNat + s.txnTimeout ≤ s.esc.beat.toNat → Does (.txnTimeout n) s [.fab, .ras, .answers] fun t =>
        t.answers = s.answers ++ [s.answerPkt tl tag [] (some .timeout)] ∧
        fld t.fab.drop2 0 32 = min 0xFFFFFFFF (fld s.fab.drop2 0 32 + 1) ∧
        fld t.fab.stats0 16 16 = min 0xFFFF (fld s.fab.stats0 16 16 + 1) ∧
        t.fab.txns = s.fab.txns.map (fun y => if y = x then { y with held := true } else y) ∧
        ∃ f, t.ras = { s.ras with tree := s.ras.tree ++ [f] } ∧ f.cause = .fabricTimeout ∧ f.unit = .port ∧ f.detail = x.pkt.addr ∧
          (x.left ≠ 0 → f.index = 63) ∧ (x.left = 0 → f.index = outPort (s.route x.pkt.dest) x.pkt))

/-! ## Slices and collectives (chapter 12) -/

/-- JOIN, LEAVE and JOIN_REPORT_SEND: JOIN in NONE or HALTED reads the table and enters JOINING with its rank and master, or sets
TABLE_BAD for a table that R370 refuses; elsewhere, and in a module that is OUT_OF_SERVICE, it sets CFG_LOCKED and does nothing else. LEAVE
leaves JOINING and HALTED. Both drop what the exchanges of the run before held, which is the model's reading (log 118). In JOINING a report
that is due reads the table anew, as log 118 says, and goes to the master (R369, R370, R371, R372, R373, R523). -/
def Obligations.JoinAndLeave : Prop :=
  ∀ (s u : State) (bs : List Byte) (e : Option DropCause), Clean s →
    let n := if s.nMembers ≤ 8224 then s.nMembers else 0
    let tbl := (chunks 8 n bs).map (fun b => tableEntry (BitVec.ofNat 64 (ofLe b)))
    let master := if s.namedMaster ≠ 0x3FFF then s.namedMaster else (tbl.map (·.1)).foldl min 0x3FFF
    (s.sliceSt = 0 ∨ s.sliceSt = 3 → s.outOfService = false → s.rdMem (gaOff s.slice.tableBase) (8 * n) = (bs, e, u) →
      (e = none → u.tableOk tbl = true → Does .join s ([.slice] ++ engineParts) fun t =>
        t.sliceSt = 1 ∧ t.slice.table = tbl ∧ t.masterId = master ∧ t.isMaster = (master == s.moduleId) ∧
        tbl[t.rank]? = some s.ownEntry ∧ t.slice.joinBeat = s.esc.beat ∧ t.slice.cfg = s.slice.cfg ∧ t.slice.counts = [] ∧
        t.slice.verdicts = [] ∧ t.slice.reports = [] ∧ t.slice.early = []) ∧
      (e ≠ none ∨ u.tableOk tbl = false → Does .join s ([.slice] ++ engineParts) fun t =>
        t.slice = { s.slice with status := setBit s.slice.status 31 true })) ∧
    (s.sliceSt = 1 ∨ s.sliceSt = 2 ∨ s.outOfService = true → Does .join s [.slice] fun t =>
      t.slice = { s.slice with status := setBit s.slice.status 44 true }) ∧
    (s.sliceSt = 1 ∨ s.sliceSt = 3 → Does .leave s [.slice] fun t => t.sliceSt = 0 ∧
      t.slice = { s.slice.forget with status := t.slice.status } ∧ t.slice.reports = [] ∧ t.slice.joinAt = none) ∧
    (s.sliceSt = 0 ∨ s.sliceSt = 2 → Does .leave s [.slice] fun t =>
      t.slice = { s.slice with status := setBit s.slice.status 44 true }) ∧
    (s.sliceSt = 1 → (s.slice.lastReport = none → s.slice.joinBeat.toNat < s.esc.beat.toNat) →
      s.slice.lastReport.all (fun b => decide (b.toNat + s.joinRetry ≤ s.esc.beat.toNat)) = true →
      s.rdMem (gaOff s.slice.tableBase) (8 * n) = (bs, e, u) →
      let r := s.readTable.2
      (e = none → u.tableOk tbl = true → r.slice.table = tbl ∧ r.masterId = master ∧ tbl[r.rank]? = some s.ownEntry) ∧
      (e ≠ none ∨ u.tableOk tbl = false → r.slice = { s.slice with status := setBit s.slice.status 31 true }) ∧
      Does .joinReportSend s ([.slice] ++ engineParts) fun t =>
        t.slice = { r.slice with lastReport := some s.esc.beat } ∧
        ∃ p : FabPkt, t.fab = { r.fab with switchQ := r.fab.switchQ ++ [(63, p)] } ∧ p.op = .control ∧ p.aop = 0 ∧
          p.dest = r.masterId ∧ payloadBytes p.payload = reportBytes (r.ownReport none))

/-- The join exchange: the master holds each member's report and, with the last of them in agreement and the anchor still ahead, sends
JOIN_GO for beat J to every member, once; a member in JOINING takes J and its step; a mismatch is recorded (R374, R375, R376). -/
def Obligations.JoinExchange : Prop :=
  ∀ (s : State) (src rank item count bitmap : Nat) (r : Report) (j step : W64), Clean s →
    (s.rankOf src = some rank → s.sliceSt = 1 → s.isMaster = true → s.slice.joinAt = none → s.slice.joinGo = false →
      s.failing (s.ownReport none) r s.esc.beat false = 0 → (∀ p ∈ s.slice.reports, p.1 ≠ rank →
        s.failing (s.ownReport none) p.2.1 p.2.2.2 false = 0) →
      let reps := s.slice.reports.filter (fun p => p.1 != rank) ++ [(rank, (r, true, s.esc.beat))]
      (reps.length ≠ s.nMembers → Does (.joinReport src r) s [.slice, .fab] fun t =>
        t.slice = { s.slice with reports := reps } ∧ t.fab.switchQ = s.fab.switchQ) ∧
      (reps.length = s.nMembers → s.esc.beat.toNat + s.periodLead < s.esc.anchor.toNat →
        Does (.joinReport src r) s [.slice, .fab] fun t =>
          t.slice = { s.slice with reports := reps, joinGo := true } ∧
          ∃ pk : Nat → FabPkt, t.fab.switchQ = s.fab.switchQ ++ s.slice.table.map (fun m => (63, pk m.1)) ∧
            ∀ m < 16384, (pk m).op = .control ∧ (pk m).aop = 1 ∧ (pk m).dest = m ∧
              (payloadBytes (pk m).payload).take 8 = leBytes 8 (s.esc.beat.toNat + s.periodLead))) ∧
    (s.slice.joinGo = true ∨ s.slice.joinAt ≠ none → Does (.joinReport src r) s [.fab] fun t => t.fab.switchQ = s.fab.switchQ) ∧
    (s.sliceSt = 1 → Does (.joinGo j step) s [.slice, .fab] fun t =>
      t.slice = { s.slice with joinAt := some j, step := step } ∧ t.fab.switchQ = s.fab.switchQ) ∧
    (Does (.joinMismatch rank item count bitmap) s [.slice, .fab] fun t =>
      fld t.slice.mismatch 0 14 = rank % 2 ^ 14 ∧ fld t.slice.mismatch 14 4 = item % 16 ∧ fld t.slice.mismatch 18 14 = count % 2 ^ 14 ∧
      fld t.slice.mismatch 32 32 = s.esc.beat.toNat % 2 ^ 32 ∧ fld t.slice.status 32 9 = bitmap % 2 ^ 9 ∧ t.sliceSt = s.sliceSt ∧
      t.slice = { s.slice with mismatch := t.slice.mismatch, status := t.slice.status })

/-- The commit exchange: the master holds the reports of a commit and, with one of every rank for a commit of its own, decides COMMIT_GO or
COMMIT_STOP for every member, a report that names another beat failing item TIME; a report missing at the deadline stops the commit
COMMIT_LATE, and a report that comes after it changes nothing; a member takes the decision, and with MISMATCH its slice is to enter JOINING
from that beat. Which report of a rank counts for a commit, and that a late one changes nothing, are the model's (log 115, log 118)
(R374, R377, R378, R427). -/
def Obligations.CommitExchange : Prop :=
  ∀ (s : State) (src rank outcome item : Nat) (r : Report) (b : W64), Clean s →
    (s.rankOf src = some rank → s.sliceSt = 2 → s.isMaster = true → s.slice.lateCommits.contains r.anchor = false →
      s.esc.beat.toNat < r.anchor.toNat →
      let reps := s.slice.commitReports.filter (fun p => !(p.1 == rank && p.2.1.anchor == r.anchor)) ++ [(rank, r, s.esc.beat)]
      let u : State := { s with slice := { s.slice with commitReports := reps } }
      let full := u.ownCommits.find? (fun b => (u.commitHeld b).length == s.nMembers)
      let toAll := fun (t : State) (code : Nat) (head : List Byte) => t.slice.commitReports = reps.filter (fun p => !(u.commitHeld b).contains p) ∧
        ∃ pk : Nat → FabPkt, t.fab.switchQ = s.fab.switchQ ++ s.slice.table.map (fun m => (63, pk m.1)) ∧
          ∀ m < 16384, (pk m).op = .control ∧ (pk m).aop = code ∧ (pk m).dest = m ∧ (payloadBytes (pk m).payload).take head.length = head
      (∀ k p, u.commitOf b k = some p → p ∈ reps ∧ p.1 = k ∧ (p.2.1.anchor = b ∨ p.2.1.anchor ∉ u.ownCommits)) ∧
      ((u.commitHeld b).any (fun p => p.2.1.anchor != b) = true → ∃ o, u.commitOutcome b (u.commitHeld b) = some o ∧ o.1 = stMismatch) ∧
      (full = none → Does (.commitReport src r) s [.slice, .fab] fun t =>
        t.slice = { s.slice with commitReports := reps } ∧ t.fab.switchQ = s.fab.switchQ) ∧
      (full = some b → u.commitOutcome b (u.commitHeld b) = none → Does (.commitReport src r) s [.slice, .fab] fun t =>
        toAll t 4 (leBytes 8 b.toNat)) ∧
      (∀ o, full = some b → u.commitOutcome b (u.commitHeld b) = some o → o.1 ≠ stMismatch →
        Does (.commitReport src r) s [.slice, .fab] fun t => toAll t 5 (leBytes 1 o.1 ++ [0#8] ++ leBytes 2 o.2.1)) ∧
      (∀ o, full = some b → u.commitOutcome b (u.commitHeld b) = some o → o.1 = stMismatch →
        Does (.commitReport src r) s [.slice, .fab] fun t => ∃ ms, t.fab.switchQ = s.fab.switchQ ++ ms ∧
          (∀ k < s.nMembers, ∃ p ∈ ms, p.2.op = .control ∧ p.2.aop = 2 ∧ (payloadBytes p.2.payload).take 2 = leBytes 2 o.2.1) ∧
          ∀ m ∈ s.slice.table, ∃ p ∈ ms, p.2.op = .control ∧ p.2.aop = 5 ∧ (payloadBytes p.2.payload).head? = some 23)) ∧
    (s.slice.lateCommits.contains r.anchor = true ∨
        (r.anchor.toNat ≤ s.esc.beat.toNat ∧ s.ownCommits.any (fun b => decide (s.esc.beat.toNat < b.toNat)) = false) →
      Does (.commitReport src r) s [.fab] fun t => t.fab.switchQ = s.fab.switchQ) ∧
    (s.sliceSt = 2 → s.isMaster = true → s.slice.commitReports = [(rank, r, b)] →
      r.anchor.toNat ≤ s.esc.beat.toNat + s.periodLead → Does .commitDecisionDeadline s [.slice, .fab] fun t =>
        t.slice = { s.slice with commitReports := [], lateCommits :=
          r.anchor :: s.slice.lateCommits.filter (fun x => decide (s.esc.beat.toNat < x.toNat)) } ∧
        ∃ pk : Nat → FabPkt, t.fab.switchQ = s.fab.switchQ ++ s.slice.table.map (fun m => (63, pk m.1)) ∧
          ∀ m < 16384, (pk m).op = .control ∧ (pk m).aop = 5 ∧ (pk m).dest = m ∧ (payloadBytes (pk m).payload).head? = some 22) ∧
    (Does (.commitGo b) s [.cfg, .fab] fun t =>
      t.cfg = { s.cfg with armed := s.cfg.armed.map (fun a => if a.beat = b then { a with goAhead := true } else a) } ∧
      t.fab.switchQ = s.fab.switchQ) ∧
    (∀ a : Armed, s.cfg.armed = [a] → a.goAhead = false → a.stop = none → Does (.commitStop outcome rank item) s [.cfg, .slice, .fab] fun t =>
      t.cfg = { s.cfg with armed := [{ a with stop := some outcome }] } ∧ t.fab.switchQ = s.fab.switchQ ∧
      (outcome = 23 → t.slice = { s.slice with mismatch := t.slice.mismatch, rejoin := some a.beat } ∧
        fld t.slice.mismatch 0 14 = rank % 2 ^ 14 ∧ fld t.slice.mismatch 14 4 = item % 16) ∧
      (outcome ≠ 23 → t.slice = s.slice))

/-- The collectives of a channel: SHARD_GATHER sends the own shard as circuit data to every member of the domain, first its header and then
the rest, whose last packet carries the trigger, and ends when every shard has arrived and its requests are answered (R403); COUNT_SUM sends the count of valid worlds to the master, and
COUNT_DOWN ends it with the slice-wide count, which gives the loss seed (R243, R395); SEQ_EXCHANGE ends once every round's data has
arrived, its flags 0 again (R408). -/
def Obligations.Collectives : Prop :=
  ∀ (s : State) (c : Nat) (r : CollRun), Clean s → s.collRun c = some r → r.ending = none → s.frozenAs (0x1000 + c) = false →
    let alone := s.slice.queued.find? (fun p => p.1 == c) = none
    (r.kind = 0 → r.phase ≠ 0 → r.left = 0 → (s.layerMap r.context r.layer).isSome = true → s.gathered r = true → alone →
      Does (.shardGather c) s [.slice, .esc, .queues, .hang] fun t => CollEnded s t c r) ∧
    (r.kind = 0 → r.phase ≠ 0 → r.left ≠ 0 ∨ s.gathered r = false → Does (.shardGather c) s [] fun _ => True) ∧
    (∀ m k, r.kind = 0 → r.phase = 0 → r.left = 0 → s.layerMap r.context r.layer = some m → s.ownShard m = some k → 64 < k.slotBytes →
      Does (.shardGather c) s ([.slice] ++ engineParts) fun t =>
        let n := (k.slotBytes - 64 + 255) / 256
        ∃ ws, t.fab.waiting = s.fab.waiting ++ ws ∧
          ws.map (fun w => (w.pkt.dest, gaOff w.pkt.addr, w.pkt.trigger)) = (s.domainRanks s.ownDomain).flatMap (fun q =>
            (s.moduleOf q, gaOff (mkGa 0 0 k.header), 0) :: tab n (fun j =>
              (s.moduleOf q, gaOff (k.dest + BitVec.ofNat 64 (256 * j)), if j + 1 = n then k.trigger else 0))) ∧
          (∀ w ∈ ws, w.pkt.op = .circuitData ∧ w.pkt.cls = 3 ∧ w.pkt.circuit = k.circuit ∧ w.pkt.srcTile = 0x1000 + c ∧
            w.src = .engine (0x1000 + c)) ∧
          ∃ r', t.collRun c = some r' ∧ r'.left = ws.length ∧ r'.phase = 1) ∧
    (r.kind = 3 → r.phase = 0 → Does (.countSum c) s [.slice, .fab] fun t =>
      (∃ r', t.collRun c = some r' ∧ r'.phase = 1 ∧ r'.progress = s.esc.beat) ∧
      ∃ p : FabPkt, t.fab = { s.fab with switchQ := s.fab.switchQ ++ [(63, p)] } ∧ p.op = .control ∧ p.aop = 6 ∧ p.dest = s.masterId ∧
        payloadBytes p.payload = leBytes 8 r.step.toNat ++ leBytes 8 r.context ++ leBytes 8 (s.validWorlds r.context) ++ leBytes 8 0) ∧
    (∀ n, r.phase = 1 → s.slice.running.find? (fun p => p.2.kind == 3 && p.2.context == r.context && p.2.step == r.step && p.2.phase == 1
        && p.2.ending.isNone) = some (c, r) → alone →
      Does (.countDown r.step r.context n) s ([.slice, .esc, .hang, .ctxs] ++ engineParts) fun t =>
        CollEnded s t c r ∧ (t.ctx r.context).validWorlds = n.toNat % 2 ^ 32 ∧
        (t.ctx r.context).seed = some (lossSeed (s.ratchetExp r.context) (n.toNat % 2 ^ 32)) ∧
        ∀ d, d ≠ r.context → t.ctx d = s.ctx d) ∧
    (∀ m, r.kind = 4 → 2 ≤ r.phase → r.left = 0 → s.ctxMap r.context = some m →
      (∀ p ∈ m.rounds, s.flagMark p.2.2.2 = .good ∧ s.flag p.2.2.2 ≠ 0) → alone →
      Does (.seqExchange c) s [.slice, .esc, .queues, .hang, .flags] fun t =>
        CollEnded s t c r ∧ (∀ p ∈ m.rounds, t.flag p.2.2.2 = 0) ∧
        ∀ n, (∀ p ∈ m.rounds, p.2.2.2 ≠ n) → t.flag n = s.flag n)

/-- The reductions of a layer. Once its streams are answered, a member increments the DOM flag of every shard's owner, and an owner, once
its sums are answered, the TOT flags of the owners of its model group: its own flags at once, another member's by an ATOMIC ADD that it
waits for (R389, R391, R392). With the TOT flag complete the conversion writes the gradients, clears the buffers' flags, triggers the
optimiser's tiles and ends the collective (R393); SKIM_MAX ends with the agreed table in place, and at once for a context whose Skim pass
is over (R254, R400). -/
def Obligations.Reductions : Prop :=
  ∀ (s : State) (c : Nat) (r : CollRun) (m : Config.LayerMap), Clean s → s.collRun c = some r → r.ending = none →
    s.frozenAs (0x1000 + c) = false → r.left = 0 → s.domSize ≠ 0 →
    let alone := s.slice.queued.find? (fun p => p.1 == c) = none
    let own := s.chanOf 1 r.context r.layer = some (c, r)
    let base := s.ownDomain * s.domSize
    let os := s.owners r.context s.ownPos
    let asked := fun (t : State) (n : Nat) => ∃ ws, t.fab.waiting = s.fab.waiting ++ ws ∧ ws.length = n ∧
      (∀ w ∈ ws, w.pkt.op = .atomic ∧ w.pkt.aop = 3 ∧ w.pkt.aw = 3 ∧ w.pkt.payload = [1] ∧ w.src = .engine (0x1000 + c)) ∧
      ∃ r', t.collRun c = some r' ∧ r'.left = n ∧ r'.progress = s.esc.beat ∧ r'.phase = r.phase + 1
    (s.layerMap r.context r.layer = some m → r.kind = 1 → r.phase = 1 →
      (∀ k, s.ownShard m = some k → s.flagMark k.domFlag = .good) →
      Does (.reduceScatter c) s [.slice, .flags, .fab] fun t =>
        asked t ((List.range m.shards.length).filter (fun j => base + j != s.rank)).length ∧
        (∀ k, s.ownShard m = some k → t.flag k.domFlag = s.flag k.domFlag + 1) ∧
        ∀ n, (∀ k, s.ownShard m = some k → n ≠ k.domFlag) → t.flag n = s.flag n) ∧
    (∀ k, s.layerMap r.context r.layer = some m → own → s.ownShard m = some k → s.flagMark k.totFlag = .good →
      (r.phase = 3 → Does (.reduceScatterGroupStage r.context r.layer) s [.slice, .flags, .fab] fun t =>
        asked t (os.filter (fun q => q != s.rank)).length ∧
        t.flag k.totFlag = s.flag k.totFlag + BitVec.ofNat 64 (os.count s.rank) ∧ ∀ n, n ≠ k.totFlag → t.flag n = s.flag n) ∧
      (r.phase = 4 → os.length ≤ (s.flag k.totFlag).toNat → alone →
        Does (.reduceScatterConvert r.context r.layer) s ([.slice, .esc, .hang, .flags, .mesh, .ctxs, .freeCtr] ++ engineParts) fun t =>
          CollEnded s t c r ∧ t.flag k.domFlag = 0 ∧ t.flag k.totFlag = 0 ∧
          t.mesh.take s.mesh.length = s.mesh ∧
          (t.mesh.drop s.mesh.length).map (fun p => (p.dest, p.trigger)) = k.optimiser.map (fun o => (o.1, o.2.2)) ∧
          (afind (t.ctx r.context).owned r.layer).isSome = true ∧ ∀ d, d ≠ r.context → t.ctx d = s.ctx d)) ∧
    (s.layerMap r.context r.layer = some m → r.kind = 2 → r.phase = 6 → s.flagMark m.sumFlag = .good →
      s.domSize ≤ (s.flag m.sumFlag).toNat → alone →
      Does (.skimMax c) s ([.slice, .esc, .hang, .flags, .ctxs] ++ engineParts) fun t =>
        CollEnded s t c r ∧ t.flag m.sumFlag = 0 ∧ (t.ctx r.context).skimRan = true ∧
        (t.ctx r.context).oldTable = some ((s.ctx r.context).oldTable.getD (s.ctx r.context).table) ∧
        ∀ d, d ≠ r.context → t.ctx d = s.ctx d) ∧
    (r.kind = 2 → r.phase = 0 → (s.ctx r.context).skimDone = true → alone →
      Does (.skimMax c) s [.slice, .esc, .queues, .hang] fun t => CollEnded s t c r)

/-- COUNT_UP and the verdict: the master holds each count of a step and, with the last, sends the exact sum to every member (R395); a member
whose step is complete sends its VERDICT_UP once, with an entry of every context that the step ran, and not while a SAVE of that step still
copies (R253, R396, R490); the master announces the verdict of members that agree, or raises SCALE_TABLE (R397), naming a member that
differs from it, which is the model's reading (log 118); a member takes a verdict of its step that comes in time, or raises VERDICT_LATE, and
one of a step that it does not run changes nothing (R257, R282, R397). -/
def Obligations.VerdictExchange : Prop :=
  ∀ (s : State) (src rank ctx : Nat) (step count : W64) (v : VerdictUp) (d : VerdictDown), Clean s →
    let mineToo := s.sliceSt = 2 ∧ s.slice.verdictSent = true ∧ d.step = s.slice.step ∧ s.trainCtxs ≠ []
    (s.rankOf src = some rank → s.isMaster = true → s.outside = true →
      let held := s.slice.counts.filter (fun p => p.2.1 != ctx || (p.1 == step && p.2.2.1 != rank)) ++ [(step, ctx, rank, count)]
      let mine := held.filter (fun p => p.2.1 == ctx)
      (mine.length ≠ s.nMembers → Does (.countUp src step ctx count) s [.slice, .fab] fun t =>
        t.slice = { s.slice with counts := held } ∧ t.fab.switchQ = s.fab.switchQ) ∧
      (mine.length = s.nMembers → Does (.countUp src step ctx count) s [.slice, .fab] fun t =>
        t.slice = { s.slice with counts := held.filter (fun p => p.2.1 != ctx) } ∧
        ∃ pk : Nat → FabPkt, t.fab.switchQ = s.fab.switchQ ++ s.slice.table.map (fun m => (63, pk m.1)) ∧
          ∀ m < 16384, (pk m).op = .control ∧ (pk m).aop = 7 ∧ (pk m).dest = m ∧
            ((payloadBytes (pk m).payload).drop 16).take 8 =
              leBytes 8 ((mine.map (fun p => p.2.2.2.toNat)).foldl (· + ·) 0 % 2 ^ 64))) ∧
    (s.sliceSt = 2 → s.slice.verdictSent = false → s.slice.finalDone = true → s.slice.finalWait = [] → s.saveHolds = false →
      s.trainCtxs ≠ [] → s.ranCtxs.length ≤ 7 → (∀ f ∈ s.stepFlags, s.flagMark f = .good ∧ s.domSize ≤ (s.flag f).toNat) →
      let es := s.verdictEntries
      (∀ i : Nat, (s.ranCtxs[i]?).map (fun c => leBytes 1 c ++ leBytes 3 0 ++ leBytes 4 (s.ctx c).tableCrc.toNat) = (s.verdictEntries.1[i]?).map (fun l => l.take 8)) ∧
      Does .verdictUpSend s ([.slice, .flags] ++ engineParts) fun t =>
        t.slice = { s.slice with verdictSent := true } ∧ (∀ f ∈ s.stepFlags, t.flag f = 0) ∧
        (∀ f, f ∉ s.stepFlags → t.flag f = s.flag f) ∧
        ∃ p : FabPkt, t.fab = { es.2.2.fab with switchQ := es.2.2.fab.switchQ ++ [(63, p)] } ∧ p.op = .control ∧ p.aop = 8 ∧
          p.dest = s.masterId ∧ (payloadBytes p.payload).take (16 + 32 * s.ranCtxs.length) = leBytes 8 s.slice.step.toNat ++
            leBytes 1 (if es.2.1 then 1 else 0) ++ leBytes 1 s.ranCtxs.length ++ leBytes 2 0 ++
            leBytes 4 s.tableCrcAll.toNat ++ es.1.flatten) ∧
    (s.saveHolds = true ∨ s.trainCtxs = [] → Does .verdictUpSend s [] fun _ => True) ∧
    (s.rankOf src = some rank → s.sliceSt = 2 → s.isMaster = true →
      let held := s.slice.verdicts.filter (fun p => p.2.step == v.step) |>.filter (fun p => p.1 != rank)
      let all := held ++ [(rank, v)]
      let vs := (List.range s.nMembers).filterMap (fun k => (all.find? (fun p => p.1 == k)).map (·.2))
      let agree := crcDiffers vs = [] ∧ ∀ a ∈ vs, ∀ b ∈ vs, a.crcAll = b.crcAll
      (all.length ≠ s.nMembers → Does (.verdictUp src v) s [.slice, .fab] fun t =>
        t.slice = { s.slice with verdicts := all } ∧ t.fab.switchQ = s.fab.switchQ) ∧
      (all.length = s.nMembers → agree → ((vs.flatMap (fun v => v.contexts.map (·.context))).eraseDups).length ≤ 29 →
        Does (.verdictUp src v) s [.slice, .fab] fun t => t.slice = { s.slice with verdicts := [] } ∧
        ∃ pk : Nat → FabPkt, t.fab.switchQ = s.fab.switchQ ++ s.slice.table.map (fun m => (63, pk m.1)) ∧
          ∀ m < 16384, (pk m).op = .control ∧ (pk m).aop = 9 ∧ (pk m).dest = m ∧
            (payloadBytes (pk m).payload).take 17 = leBytes 8 v.step.toNat ++
              leBytes 8 (max (s.esc.start.toNat + fld s.slice.collCfg 16 16) (s.esc.beat.toNat + s.periodLead)) ++
              leBytes 1 (if vs.any (·.nonFinite) then 1 else 0)) ∧
      (all.length = s.nMembers → ¬ agree → Does (.verdictUp src v) s [.slice, .fab, .ras] fun t => t.fab.switchQ = s.fab.switchQ ∧
        t.slice.verdicts = [] ∧ bitOf t.slice.collFault 0 = true ∧
        (bitOf s.slice.collFault 0 = false → fld t.slice.collFault 11 14 = s.differing all % 2 ^ 14) ∧
        t.ras = { s.ras with tree := s.ras.tree ++ [{ cause := .scaleTable, unit := .collective, index := 63 }] })) ∧
    (s.sliceSt ≠ 2 ∨ s.slice.verdictSent = false ∨ d.step ≠ s.slice.step ∨ s.trainCtxs = [] →
      Does (.verdictDown d) s [.fab] fun t => t.fab.switchQ = s.fab.switchQ) ∧
    (mineToo → s.esc.beat.toNat < d.verdict.toNat → Does (.verdictDown d) s [.train, .fab] fun t =>
      t.train = { s.train with verdict := some d, applied := false } ∧ t.fab.switchQ = s.fab.switchQ) ∧
    (mineToo → d.verdict.toNat ≤ s.esc.beat.toNat → Does (.verdictDown d) s [.slice, .ras, .fab] fun t =>
      t.ras = { s.ras with tree := s.ras.tree ++ [{ cause := .verdictLate, unit := .collective, index := 63 }] } ∧
      bitOf t.slice.collFault 0 = true ∧ t.sliceSt = 2)

/-! ## Configuration images and control-store access (chapters 03, 13) -/

/-- The CW_LD registers, as the writes that have landed leave them. GO and READ latch TARGET and DATA and read PENDING; while beats are
counted the access acts at the next boundary, else at once. A write goes to the shadow bank, its parity with it, or to the active
bank when forced on a tile in HALTED or FAULT; any other write to the active bank answers ACTIVE_BANK_LOCKED, one to the shadow bank of a
tile that an armed COMMIT targets SHADOW_COMMITTED, and an INDEX above 271 BAD_TARGET, and they write nothing; a write to a shadow bank
discards a staging; a read copies the target into DATA. RESULT and BEAT_LO are set. While an access is pending there is no other (R112,
R115, R116, R117, R424). That the DATA bits above an entry's 16 read 0 is the model's choice (log 110). -/
def Obligations.ControlStoreAccess : Prop :=
  ∀ (s : State), Clean s →
    let k := s.cwLatched
    let n := fld k.target 0 20
    let b := fld k.target 20 1
    let i := fld k.target 21 9
    let x := s.tile n
    let c := x.bankOf b
    let stopped := x.st = .halted ∨ x.st = .fault
    let word := k.data3 ++ k.data2 ++ k.data1 ++ k.data0
    let result := fun (t : State) (r : Nat) => fld t.cwld.status 0 3 = r ∧ fld t.cwld.status 32 32 = s.esc.beat.toNat % 2 ^ 32
    let held := fun (t : State) => t.cwld = { s.cwld with status := t.cwld.status }
    let written := fun (t : State) => held t ∧ result t 2 ∧ (∀ m, m ≠ n → t.tile m = s.tile m) ∧
      let d := (t.tile n).bankOf b
      t.tile n = x.setBank b d ∧ d.sr = c.sr ∧
        (∀ j, aget 0 d.words j = if i < 256 ∧ j = i then word else aget 0 c.words j) ∧
        (∀ j, aget 0 d.parity j = if i < 256 ∧ j = i then wordParity word.toNat else aget 0 c.parity j) ∧
        (∀ j, aget 0 d.entries j = if 256 ≤ i ∧ j = i - 256 then BitVec.ofNat 16 k.data0.toNat else aget 0 c.entries j)
    let pending := fld s.cwld.status 0 3 = 1
    let landing := fun (v : W64) => ({ path := .bar0, offset := 0x20028, value := v, target := k.target
                                       data := [k.data0, k.data1, k.data2, k.data3] } : Landed)
    let acts := fun (c : Instr) (v : W64) (parts : List Piece) (post : State → Prop) =>
      (post (s.actLanded (landing v)) ∧ Frame parts s (s.actLanded (landing v))) ∧ (¬ pending → s.synced = false → Does c s parts post)
    (∀ p ∈ [(Instr.cwLdWrite, (1 : W64)), (.cwLdForcedWrite, 3), (.cwLdRead, 4)],
      (pending → Does p.1 s [] fun _ => True) ∧
      (¬ pending → s.synced = true → Does p.1 s [.cwld, .landed] fun t => t.host.landed = s.host.landed ++ [landing p.2] ∧
        held t ∧ result t 1)) ∧
    (271 < i → acts .cwLdWrite 1 [.cwld] (fun t => held t ∧ result t 5) ∧
      acts .cwLdForcedWrite 3 [.cwld] (fun t => held t ∧ result t 5) ∧ acts .cwLdRead 4 [.cwld] (fun t => held t ∧ result t 5)) ∧
    (i ≤ 271 → b ≠ x.bank → s.shadowCommitted n = false → s.loadSt = 5 → s.commitPast = false →
      let u := s.actLanded (landing 1)
      result u 2 ∧ u.cfg.staging = none ∧ u.loadSt = 0 ∧ fld u.cfg.loadStatus 3 5 = 15) ∧
    (i ≤ 271 → s.shadowUndef n = false →
      (b ≠ x.bank → s.shadowCommitted n = false → s.loadSt < 4 ∨ s.commitPast = true →
        acts .cwLdWrite 1 [.cwld, .tiles] written ∧ acts .cwLdForcedWrite 3 [.cwld, .tiles] written) ∧
      (b ≠ x.bank → s.shadowCommitted n = true → acts .cwLdWrite 1 [.cwld] (fun t => held t ∧ result t 4) ∧
        acts .cwLdForcedWrite 3 [.cwld] fun t => held t ∧ result t 4) ∧
      (b = x.bank → acts .cwLdWrite 1 [.cwld] fun t => held t ∧ result t 3) ∧
      (b = x.bank → stopped → acts .cwLdForcedWrite 3 [.cwld, .tiles] written) ∧
      (b = x.bank → ¬ stopped → acts .cwLdForcedWrite 3 [.cwld] fun t => held t ∧ result t 3) ∧
      (acts .cwLdRead 4 [.cwld] fun t => result t 2 ∧ t.cwld.target = s.cwld.target ∧
        (i < 256 → t.cwld.data3 ++ t.cwld.data2 ++ t.cwld.data1 ++ t.cwld.data0 = aget 0 c.words i) ∧
        (256 ≤ i → t.cwld.data0 = (aget 0 c.entries (i - 256)).setWidth 64 ∧ t.cwld.data1 = 0 ∧ t.cwld.data2 = 0 ∧ t.cwld.data3 = 0)))

/-- GO, DISCARD and POLICY: while a load runs or a COMMIT is armed, GO and DISCARD answer LOAD_BUSY and change nothing else; GO starts in
FETCH from the flash or in VERIFY, DISCARD drops what is staged with RESULT STAGE_DISCARDED and acts on nothing in IDLE; POLICY is set
(R419, R420, R425). -/
def Obligations.LoadControl : Prop :=
  ∀ (s : State), Clean s →
    let result := fun (t : State) (st r : Nat) => t.loadSt = st ∧ fld t.cfg.loadStatus 3 5 = r
    let kept := fun (t : State) => t.cfg = { s.cfg with loadStatus := t.cfg.loadStatus }
    let drops := [Piece.cfg, .mesh, .freeCtr] ++ engineParts
    ((1 ≤ s.loadSt ∧ s.loadSt ≤ 4) ∨ s.cfg.armed ≠ [] ∨ s.cfg.commit ≠ none →
      (Does .go s [.cfg] fun t => kept t ∧ result t s.loadSt 16) ∧ (Does .discard s [.cfg] fun t => kept t ∧ result t s.loadSt 16)) ∧
    (s.cfg.armed = [] → s.cfg.commit = none →
      (s.loadSt = 0 → (Does .go s [.cfg] fun t => kept t ∧
          result t (if bitOf s.cfg.loadSrc 0 then 1 else 2) (fld s.cfg.loadStatus 3 5) ∧
          fld t.cfg.loadStatus 32 32 = s.esc.beat.toNat % 2 ^ 32) ∧
        Does .discard s [] fun _ => True) ∧
      (∀ g, s.loadSt = 5 → s.cfg.staging = some g →
        (Does .go s drops fun t => t.cfg.staging = none ∧ t.cfg.stagedDigest = 0 ∧ t.cfg.activeDigest = s.cfg.activeDigest ∧
          result t (if bitOf s.cfg.loadSrc 0 then 1 else 2) 15) ∧
        Does .discard s drops fun t => t.cfg.staging = none ∧ t.cfg.stagedDigest = 0 ∧ t.cfg.activeDigest = s.cfg.activeDigest ∧
          result t 0 15)) ∧
    (Does .policy s [.cfg] fun t => t.cfg = { s.cfg with secure := setBit s.cfg.secure 0 true })

/-- The load: FETCH_DONE brings the image from the flash to CFG_LOAD_ADDR or fails with FLASH_ERROR; VERIFY_DONE takes the digest and checks the
signature on the same bytes;
VALIDATE_DONE ends the load with the first failing check, of which a wrong MAGIC is the first, or begins DISTRIBUTE with the load
packets in the mesh; DISTRIBUTE_DONE ends with the staging, or with RESULT 14 where the bytes changed during the load. The load packet
that is the next of its record writes its words, with their parity, into the shadow bank of its tile; another one waits (R411, R420,
R421, R423, R426). -/
def Obligations.LoadStates : Prop :=
  ∀ (s u : State) (bs : List Byte), Clean s →
    let result := fun (t : State) (st r : Nat) => t.loadSt = st ∧ fld t.cfg.loadStatus 3 5 = r
    let old := fld s.cfg.loadStatus 3 5
    (s.loadSt = 1 →
      (Does (.loadFetchDone false) s [.cfg] fun t => result t 0 13 ∧ t.cfg = { s.cfg with loadStatus := t.cfg.loadStatus }) ∧
      Does (.loadFetchDone true) s ([.cfg] ++ engineParts) fun t => result t 2 old ∧ t.cfg = { s.cfg with loadStatus := t.cfg.loadStatus }) ∧
    (s.imageBytes = (bs, u) →
      (s.loadSt = 2 → Does .loadVerifyDone s ([.cfg] ++ engineParts) fun t => result t 3 old ∧ t.cfg.verifyDigest = digestOf bs ∧
        t.cfg.verifySig = u.signatureIs bs ∧ t.cfg.staging = s.cfg.staging) ∧
      (s.loadSt = 3 → leAt bs 0 4 ≠ 0x4D494550 → Does .loadValidateDone s ([.cfg] ++ engineParts) fun t =>
        result t 0 2 ∧ fld t.cfg.loadStatus 8 12 = 0 ∧ t.cfg = { s.cfg with loadStatus := t.cfg.loadStatus }) ∧
      (∀ r i, s.loadSt = 3 → u.imageFail bs = some (r, i) → r < 32 → i < 4096 → Does .loadValidateDone s ([.cfg] ++ engineParts) fun t =>
        result t 0 r ∧ fld t.cfg.loadStatus 8 12 = i ∧ t.cfg = { s.cfg with loadStatus := t.cfg.loadStatus }) ∧
      (s.loadSt = 3 → u.imageFail bs = none → Does .loadValidateDone s ([.cfg, .mesh] ++ engineParts) fun t =>
        result t 4 old ∧ t.cfg.verifyDigest = s.cfg.verifyDigest ∧ (t.cfg.staging.map (fun g => g.digest)) = some (digestOf bs) ∧
        ∃ ps, t.mesh = s.mesh ++ ps ∧ ∀ p ∈ ps, p.op = 6 ∧ p.cls = 2 ∧ p.trigger = 0 ∧ p.beatLo = s.esc.beat.toNat % 4096) ∧
      (s.loadSt = 4 → digestOf bs ≠ s.cfg.verifyDigest →
        Does .loadDistributeDone s ([.cfg, .mesh, .freeCtr] ++ engineParts) fun t =>
        result t 0 14 ∧ t.cfg.staging = none ∧ t.cfg.stagedDigest = 0) ∧
      (s.loadSt = 4 → digestOf bs = s.cfg.verifyDigest → Does .loadDistributeDone s ([.cfg, .mesh] ++ engineParts) fun t =>
        result t 5 old ∧ t.mesh = s.mesh.filter (fun p => p.op != 6) ∧ (∃ g, t.cfg.staging = some g ∧ t.cfg.stagedDigest = g.identity ∧ g.digest = digestOf bs) ∧
        t.cfg.activeDigest = s.cfg.activeDigest)) ∧
    (∀ (p : MeshPkt) (x y first : Nat) (lo hi : Flit), p.op = 6 → x < 1024 → y < 1024 → first < 256 → p.payload = [lo, hi] →
      p.addr.toNat = x + x * 2 ^ 16 + y * 2 ^ 32 + y * 2 ^ 48 → p.tag = 1 + 2 ^ 16 + first * 2 ^ 48 →
      s.mesh.find? (fun q => q.op == 6 && loadPattern q == loadPattern p) = some p →
      Does (.loadPacket p) s [.tiles, .mesh] fun t =>
        let n := y * 1024 + x
        let c := (s.tile n).bankOf (1 - (s.tile n).bank)
        t.mesh = s.mesh.erase p ∧ (∀ m, m ≠ n → t.tile m = s.tile m) ∧
        ∃ d : CsBank, t.tile n = (s.tile n).setBank (1 - (s.tile n).bank) d ∧ d.sr = c.sr ∧ d.entries = c.entries ∧
          (∀ j, aget 0 d.words j = if j = first then hi ++ lo else aget 0 c.words j) ∧
          ∀ j, aget 0 d.parity j = if j = first then wordParity (hi ++ lo).toNat else aget 0 c.parity j) ∧
    (∀ p, p.op ≠ 6 ∨ s.mesh.find? (fun q => q.op == 6 && loadPattern q == loadPattern p) ≠ some p →
      Does (.loadPacket p) s [] fun _ => True)

/-- The command COMMIT arms the staged image: it is listed for the beat of its arm, two beats on at the earliest, COMMIT_ARMED is set, and in
RUNNING its report goes to the master; while another commit stands between its evaluation and its beat it completes with COMMIT_PENDING.
STACK_RETIMING_END makes every channel READY that trained (R377, R427, R428, R434). -/
def Obligations.CommitArms : Prop :=
  ∀ (s : State) (q i : Nat) (c : Cmd) (arm : W64), Clean s → s.frozenAs 0x1C00 = false →
    (s.cmd q i = some c → cmdOp c.raw = 7 → c.st = .dispatched → c.arm = some arm → c.replay = false →
      (s.cfg.commit ≠ none → Does (.commit q i) s [.queues, .hang, .esc] fun t => Completed s t q c 24 0) ∧
      (s.cfg.commit = none → s.sliceSt ≠ 2 → Does (.commit q i) s [.cfg, .queues] fun t =>
        t.cmd q i = some { c with st := .acting } ∧ bitOf t.cfg.loadStatus 20 = true ∧
        t.cfg = { s.cfg with
          loadStatus := t.cfg.loadStatus
          armed := s.cfg.armed ++ [{ q := q, index := i, reported := false
                                     beat := if arm.toNat ≤ s.esc.beat.toNat + 1 then s.esc.beat + 2 else arm }] }) ∧
      (s.cfg.commit = none → s.sliceSt = 2 → Does (.commit q i) s [.cfg, .queues, .fab] fun t =>
        t.cmd q i = some { c with st := .acting } ∧ bitOf t.cfg.loadStatus 20 = true ∧
        t.cfg.armed = s.cfg.armed ++ [{ q := q, index := i, reported := true
                                        beat := if arm.toNat ≤ s.esc.beat.toNat + 1 then s.esc.beat + 2 else arm }] ∧
        ∃ p : FabPkt, t.fab = { s.fab with switchQ := s.fab.switchQ ++ [(63, p)] } ∧ p.op = .control ∧ p.aop = 3 ∧ p.dest = s.masterId)) ∧
    (s.cfg.retiming = true → Does .stackRetimingEnd s [.chans, .cfg] fun t => t.cfg = { s.cfg with retiming := false } ∧
      ∀ k, t.chan k = if k < 1536 ∧ (s.chan k).st = 1 then { s.chan k with st := 2 } else s.chan k) ∧
    (s.cfg.retiming = false → Does .stackRetimingEnd s [] fun _ => True)

/-! ## Host link, queues and registers (chapters 14, 17) -/

/-- Queues: a doorbell lands like every register write and, as it acts, takes a TAIL within SIZE of OLDEST, else sets OVERRUN; Q_CFG enables a DISABLED queue from index 0, disables one with
nothing in flight, and sets BUSY where it cannot; UNBLOCK ends BLOCKED; a fetch takes the command of the slot of the next index before
TAIL, and one that
an ABORT has aborted completes with ABORTED; a failed fetch stops the queue. The next command of a queue dispatches with its arm beat
fixed and the tag that it was given, late ones for the next boundary and counted, a COPY with its engine; or it completes with
BAD_COMMAND, NOT_BOUND, HALTED or BAD_ARM; a command bound to the slice waits outside RUNNING and HALTED, and a period's command until its
period is announced (R278, R279, R282, R288, R447, R448, R449, R450, R452 to R457, R480). -/
def Obligations.QueuesAndDispatch : Prop :=
  ∀ (s : State) (q tag : Nat) (tail : W32) (v : W64) (line : Line), Clean s →
    let x := s.queue q
    let only := fun (t : State) => ∀ p, p ≠ q → t.queue p = s.queue p
    let ends := [Piece.queues, .hang, .esc]
    let rung := fun (t : State) => only t ∧ t.queue q =
      if (tail.toNat + 2 ^ 32 - x.oldest) % 2 ^ 32 ≤ x.size then { x with tail := tail } else { x with overrun := true }
    let bell : Landed := { path := .bar0, offset := 0x400000 + 8 * q, value := tail.setWidth 64 }
    (q < Config.queues → rung (s.actLanded bell) ∧ Frame [.queues] s (s.actLanded bell) ∧
      (s.synced = false → Does (.qDoorbell q tail) s [.queues] rung) ∧
      (s.synced = true → Does (.qDoorbell q tail) s [.landed] fun t => t.host.landed = s.host.landed ++ [bell])) ∧
    (Does (.unblock q) s [.queues] fun t => only t ∧ t.queue q = if x.st = 2 then { x with st := 1 } else x) ∧
    (x.st = 0 → bitOf v 0 = true → Does (.enableQueue q v) s [.queues] fun t => only t ∧
      t.queue q = { x with st := 1, cfg := (t.queue q).cfg, tail := 0, oldest := 0, fetched := 0, cmds := [], recorded := [], doomed := [] } ∧
      bitOf (t.queue q).cfg 0 = true ∧ fld (t.queue q).cfg 1 5 = fld v 1 5) ∧
    (x.st ≠ 0 → bitOf v 0 = false → bitOf v 6 = false → fld v 1 5 = fld x.cfg 1 5 →
      let empty := x.cmds = [] ∧ ∀ r ∈ s.host.held, r.q ≠ q
      (empty → Does (.enableQueue q v) s [.queues] fun t => only t ∧ t.queue q = { x with st := 0, cfg := setBit x.cfg 0 false }) ∧
      (¬ empty → Does (.enableQueue q v) s [.queues] fun t => only t ∧ t.queue q = { x with busy := true })) ∧
    (x.st ≠ 0 → bitOf v 0 = true → bitOf v 6 = false → fld v 1 5 ≠ fld x.cfg 1 5 →
      Does (.enableQueue q v) s [.queues] fun t => only t ∧ t.queue q = { x with busy := true }) ∧
    (x.st = 1 → s.dmaOk = true → s.outOfService = false → s.frozenAs 0x1C00 = false → x.mayFetch = true →
      let from_ := fun (t : State) => t.host.fetches = s.host.fetches ++ [x.sq + BitVec.ofNat 64 (64 * (x.fetched % x.size))]
      let c : Cmd := { index := x.fetched, raw := line }
      ((x.cmds.filter (fun c => c.st == .fetched)).length < 16 →
        (x.doomed.contains x.fetched = false → Does (.commandFetch q line) s [.queues, .host] fun t => only t ∧ from_ t ∧
          t.queue q = { x with fetched := (x.fetched + 1) % 2 ^ 32, cmds := x.cmds ++ [c], doomed := (t.queue q).doomed } ∧
          ∀ k, k ∈ (t.queue q).doomed ↔ k ∈ x.doomed) ∧
        (x.doomed.contains x.fetched = true → s.cmd q x.fetched = none → Does (.commandFetch q line) s (.host :: ends) fun t =>
          Completed s t q c 1 0 ∧ from_ t ∧ (t.queue q).fetched = (x.fetched + 1) % 2 ^ 32)) ∧
      (Does (.fetchError q) s [.queues, .host] fun t => only t ∧ t.queue q = { x with st := 3 } ∧ from_ t ∧
        bitOf t.host.status 4 = true)) ∧
    (x.st ≠ 1 ∨ s.dmaOk = false ∨ s.outOfService = true ∨ s.frozenAs 0x1C00 = true ∨ x.mayFetch = false →
      (Does (.commandFetch q line) s [] fun _ => True) ∧ Does (.fetchError q) s [] fun _ => True) ∧
    (∀ c : Cmd, x.st = 1 → s.suspect q = false → s.frozenAs 0x1C00 = false → x.next = some c → s.cmd q c.index = some c → x.inOrder c = true →
      c.replay = false →
      let op := cmdOp c.raw
      let a := cmdFld c.raw 8 8
      let engine := op = 1 ∨ op = 4 ∨ op = 5 ∨ op = 6
      let bound := op = 1 ∨ op = 5 ∨ op = 6
      let slot := s.launchFor q c.raw
      (badCommand c.raw = true → Does (.commandDispatch q tag) s ends fun t => Completed s t q c 7 0) ∧
      (badCommand c.raw = false →
        (op = 1 → slot = none → Does (.commandDispatch q tag) s ends fun t => Completed s t q c 10 0) ∧
        (bound → (op = 1 → slot ≠ none) → s.sliceSt = 3 → Does (.commandDispatch q tag) s ends fun t => Completed s t q c 4 0) ∧
        (bound → (op = 1 → slot ≠ none) → s.sliceSt < 2 → Does (.commandDispatch q tag) s [] fun _ => True) ∧
        ((op = 1 → slot ≠ none) → (bound → s.sliceSt = 2) →
          (s.armIs c.raw = .bad → Does (.commandDispatch q tag) s ends fun t => Completed s t q c 8 0) ∧
          (s.armIs c.raw = .waits → op ≠ 8 → Does (.commandDispatch q tag) s [] fun _ => True) ∧
          (∀ b late, s.armIs c.raw = .acts b late → (engine → tag < 65536 ∧ afind s.host.tags tag = none ∧ s.cfg.retiming = false) →
            (op = 1 → slot.map s.slotTaken = some false) → (op = 4 → s.copyEngine c.raw ≠ none) → (op = 6 → s.ckTaken = false) →
            Does (.commandDispatch q tag) s [.queues, .esc, .host] fun t => only t ∧
              (∃ d, t.cmd q c.index = some d ∧
                d = { c with st := .dispatched, arm := some b, tag := if engine then some tag else none, late := late
                             progress := s.esc.beat, waits := d.waits, lines := d.lines } ∧
                (op ≠ 9 → d.waits = [] ∧ d.lines = [])) ∧
              t.esc = (if late then { s.esc with lateStats := addFld s.esc.lateStats 48 16 1 } else s.esc) ∧
              (engine → afind t.host.tags tag = some (q, c.index, cmdFld c.raw 16 2, BitVec.ofNat 64 (cmdFld c.raw 24 8))) ∧
              (∀ g, g ≠ tag ∨ ¬ engine → afind t.host.tags g = afind s.host.tags g) ∧
              (op ≠ 4 → t.host.copies = s.host.copies) ∧
              (∀ e, op = 4 → s.copyEngine c.raw = some e → ∃ r, afind t.host.copies e = some r ∧ r.q = q ∧ r.index = c.index ∧ r.off = 0 ∧
                r.src.toNat = cmdFld c.raw 16 8 ∧ r.dst.toNat = cmdFld c.raw 24 8 ∧ r.bytes = cmdFld c.raw 32 8))) ∧
        (cmdFld c.raw 2 1 = 0 → s.armIs c.raw = if a = 0 then .acts (s.esc.beat + 1) false
          else if a ≤ s.esc.beat.toNat then .acts (s.esc.beat + 1) true else .acts (BitVec.ofNat 64 a) false) ∧
        (2 ≤ cmdFld c.raw 2 1 ∨ (cmdFld c.raw 2 1 = 1 ∧ s.periodP = 0) → s.armIs c.raw = .bad) ∧
        (cmdFld c.raw 2 1 = 1 → s.periodP ≠ 0 → s.esc.started = true →
          let b := s.esc.start.toNat + a / 2 ^ 48
          (a % 2 ^ 48 = s.esc.now.toNat → s.armIs c.raw =
            if b ≤ s.esc.beat.toNat then .acts (s.esc.beat + 1) true else .acts (BitVec.ofNat 64 b) false) ∧
          (s.esc.now.toNat < a % 2 ^ 48 → s.esc.announced = none → s.armIs c.raw = .waits))))

/-- WAIT_FLAG, SET_FLAG, FENCE, STATUS and ABORT at or after their arm beat. A WAIT_FLAG compares the flag under its mask once a beat and
completes with the value, or with TIMEOUT once TIMEOUT beats have passed since the first comparison, or with BAD_ADDRESS; a SET_FLAG of the
module's own flag completes with the value before, and the flag takes the new one, while another module's goes there as an ATOMIC; a
FENCE completes when what it waits for has, and until then has the entries of its lines evicted; a STATUS writes one mirror and then its
record with the mirror's SEQ; an ABORT of a waiting command completes that with ABORTED and itself with the count 1, and one whose target
has completed with NOT_ABORTED_COMPLETE (R282, R306, R441, R457, R458, R459, R461, R462, R467). -/
def Obligations.FlagAndControlCommands : Prop :=
  ∀ (s : State) (q i : Nat) (c : Cmd) (b first : W64), Clean s → s.frozenAs 0x1C00 = false →
    s.cmd q i = some c → c.replay = false → c.arm = some b → b.toNat ≤ s.esc.beat.toNat →
    let ends := [Piece.queues, .hang, .esc]
    let off := cmdFld c.raw 16 8
    let v := s.flag (off / 8)
    let m := BitVec.ofNat 64 (cmdFld c.raw 32 8)
    let l := (v &&& m).toNat
    let r := (BitVec.ofNat 64 (cmdFld c.raw 24 8) &&& m).toNat
    let cond := cmdFld c.raw 40 1
    let holds := if cond = 0 then l = r else if cond = 1 then l ≠ r else if cond = 2 then r ≤ l else l < r
    let timeout := cmdFld c.raw 48 8
    let past := timeout ≠ 0 ∧ (c.firstEval.getD s.esc.beat).toNat + timeout ≤ s.esc.beat.toNat
    (cmdOp c.raw = 2 → c.st ≠ .fetched → c.lastEval ≠ some s.esc.beat →
      (0x800000 ≤ off → Does (.waitFlag q i) s ends fun t => Completed s t q c 9 0) ∧
      (off < 0x800000 → s.flagMark (off / 8) = .good →
        (holds → Does (.waitFlag q i) s ends fun t => Completed s t q c 0 (BitVec.ofNat 128 v.toNat)) ∧
        (¬ holds → past → Does (.waitFlag q i) s ends fun t => Completed s t q c 6 (BitVec.ofNat 128 v.toNat)) ∧
        (¬ holds → ¬ past → Does (.waitFlag q i) s [.queues] fun t => (∀ p, p ≠ q → t.queue p = s.queue p) ∧
          t.cmd q i = some { c with st := .acting, firstEval := some (c.firstEval.getD s.esc.beat), lastEval := some s.esc.beat
                                    value := v }))) ∧
    (cmdOp c.raw = 2 → c.firstEval = some first → timeout ≠ 0 → first.toNat + timeout ≤ s.esc.beat.toNat →
      c.lastEval = some s.esc.beat →
      Does (.waitFlagTimeout q i) s ends fun t => Completed s t q c 6 (BitVec.ofNat 128 c.value.toNat)) ∧
    (cmdOp c.raw = 3 → c.st ≠ .fetched → c.sent = false →
      let ga := BitVec.ofNat 64 off
      let n := gaOff ga
      (gaModule ga = s.moduleId → 0x800000 ≤ n → cmdFld c.raw 32 1 ≠ 2 → Does (.setFlag q i) s ends fun t => Completed s t q c 9 0) ∧
      (gaModule ga = s.moduleId → n < 0x800000 → s.flagMark (n / 8) = .good → cmdFld c.raw 32 1 ≠ 2 →
        Does (.setFlag q i) s ([.flags, .slice] ++ ends) fun t => Completed s t q c 0 (BitVec.ofNat 128 (s.flag (n / 8)).toNat) ∧
        t.slice = { s.slice with running := t.slice.running } ∧
        ∀ k, t.flag k = if k = n / 8 then
          BitVec.ofNat 64 (atomicNew (cmdFld c.raw 32 1) 64 (s.flag (n / 8)).toNat (BitVec.ofNat 64 (cmdFld c.raw 24 8)).toNat 0)
          else s.flag k) ∧
      (gaModule ga ≠ s.moduleId → cmdFld c.raw 32 1 ≠ 2 → bitOf (s.route (gaModule ga)) 42 = true → bitOf (s.route (gaModule ga)) 40 = true →
        Does (.setFlag q i) s [.queues, .fab] fun t => t.cmd q i = some { c with st := .acting, sent := true } ∧
          ∃ w, t.fab.waiting = s.fab.waiting ++ [w] ∧ w.src = .engine (0x1C00 + 2 ^ 16 * (q + 8192 * i)) ∧ w.pkt.op = .atomic ∧
            w.pkt.cls = 0 ∧ w.pkt.addr = ga ∧ w.pkt.aop = cmdFld c.raw 32 1 ∧ w.pkt.aw = 3 ∧ w.pkt.srcTile = 0x1C00)) ∧
    (cmdOp c.raw = 9 → c.st ≠ .fetched →
      let held := (∃ w ∈ c.waits, s.cmd w.1 w.2 ≠ none) ∨ ∃ l ∈ c.lines, ∃ w ∈ (s.chan l.1).wcb, w.addr = l.2
      (¬ held → Does (.fence q i) s ends fun t => Completed s t q c 0 0) ∧
      (held → Does (.fence q i) s [.queues, .chans] fun t => t.cmd q i = some { c with st := .acting } ∧
        t.host.out = s.host.out ∧ t.host.held = s.host.held ∧
        ∀ l ∈ c.lines, (∃ w ∈ (s.chan l.1).wcb, w.addr = l.2) →
          ∃ e ∈ (t.chan l.1).writes, e.req.op = .evict ∧ e.req.addr = l.2)) ∧
    (cmdOp c.raw = 10 → c.st ≠ .fetched → s.mirrorNow = true → s.train.newest.all (fun r => decide (r.2.length ≤ 4096)) = true →
      Does (.status q i) s ([.host] ++ ends) fun t =>
      t.host.mirrorSeq = s.host.mirrorSeq + 1 ∧ t.cmd q i = none ∧
      ∃ w1 w2 w3 r1 r2, t.host.out = s.host.out ++ [w1, w2, w3, r1, r2] ∧
        w1 = { addr := s.host.mirrorAddr, bytes := leBytes 8 (s.host.mirrorSeq + 1).toNat } ∧
        w3 = { addr := s.host.mirrorAddr + 0x1FF8, bytes := leBytes 8 (s.host.mirrorSeq + 1).toNat } ∧
        w2.addr = s.host.mirrorAddr + 8 ∧ (r1.bytes.drop 8).take 8 = leBytes 8 (s.host.mirrorSeq + 1).toNat) ∧
    (cmdOp c.raw = 10 → s.mirrorNow = false → Does (.status q i) s [] fun _ => True) ∧
    (cmdOp c.raw = 8 → c.st = .dispatched → cmdFld c.raw 24 1 = 0 → s.ras.haltEnded = [] →
      let tq := cmdFld c.raw 16 2
      let ti := cmdFld c.raw 20 4
      s.suspect tq = false →
      (tq ≠ q → (s.queue tq).st = 0 → s.cmd tq ti = none →
        Does (.abort q i) s ends fun t => Completed s t q c 2 0) ∧
      (∀ d, tq ≠ q → s.cmd tq ti = some d → cmdOp d.raw = 3 → d.replay = false → s.launchSlot tq ti = none → s.finished tq ti = none →
        Does (.abort q i) s ends fun t => t.cmd tq ti = none ∧ t.cmd q i = none ∧
          (s.dmaOk = false → t.host.held.drop s.host.held.length =
            [{ q := tq, index := ti, opcode := 3, status := 1, user := cmdFld d.raw 4 2, notConv := 0, abandoned := 0, diverged := 0
               beat := s.esc.beat, body := 0, tag := d.tag },
             { q := q, index := i, opcode := 8, status := 1, user := cmdFld c.raw 4 2, notConv := 0, abandoned := 0, diverged := 0
               beat := s.esc.beat, body := 1, tag := c.tag }])))

/-- LAUNCH, LAUNCH_COMPLETE and COPY. A LAUNCH at its arm beat occupies the slot of its queue with its step, tag and launch beat, is bound to
the period where the image marks it, and marks its context; no tile outside its mapping changes. Its record, with the four sums and the
counts of worlds, follows its last tile, the count packets of its tag and its solver phases, and its sums enter the step's. A COPY engine
copies a line of a local store to another place, asks another module for a line while fewer than 8 are outstanding, and completes when
all bytes are copied, or at an error, which leaves the destination outside the failing line and those above it as it was; the record of a
launch bears the beat of its last tile's halt (R58, R60, R213, R262, R282, R283, R372, R428, R453, R457, R460, R463, R465, R467). -/
def Obligations.LaunchesAndCopies : Prop :=
  ∀ (s : State) (q i k e tag : Nat) (c : Cmd) (b : W64) (l : Launch) (r : CopyRun), Clean s →
    let ends := [Piece.queues, .hang, .esc]
    (s.cmd q i = some c → cmdOp c.raw = 1 → c.st = .dispatched → c.arm = some b → c.tag = some tag → s.boundFor q b = some k →
      (s.slot k).launch = none → s.lathHeld (s.slot k).lath = false → s.cfg.retiming = false → s.sliceHolds c = false →
      let entry := cmdFld c.raw 16 2
      let step := if BitVec.ofNat 64 (cmdFld c.raw 24 8) = BitVec.allOnes 64 then s.slice.step else BitVec.ofNat 64 (cmdFld c.raw 24 8)
      let kept := fun (t : State) (l : Launch) => l.q = q ∧ l.index = i ∧ l.entry = entry ∧ l.armBeat = b ∧ l.tag = tag ∧ l.status = 0 ∧
        l.left = l.tiles ∧ (∀ n, n ∉ l.tiles → t.tile n = s.tile n) ∧ ∀ j, j ≠ k → t.slot j = s.slot j
      (b.toNat ≤ s.esc.beat.toNat → s.launchSlot q i = none →
        Does (.launch q i) s [.slots, .queues, .ctxs, .train, .esc, .tiles, .regions, .ls, .lsMarks, .ras] fun t =>
          (∃ l : Launch, (t.slot k).launch = some l ∧ kept t l ∧ l.step = step ∧
            (l.tiles = [] → l.doneBeat = some s.esc.beat)) ∧ (t.slot k).step = step ∧
          (t.ctx (s.slot k).context).ran = true ∧ (t.ctx (s.slot k).context).step = step ∧
          (∀ d, d ≠ (s.slot k).context → t.ctx d = s.ctx d) ∧ t.train = { s.train with curCtx := (s.slot k).context } ∧
          t.esc = (if s.cfg.active.periodOps.contains (.launch k entry) then { s.esc with bound := s.esc.bound ++ [(q, i)] } else s.esc) ∧
          t.cmd q i = some { c with st := .acting }) ∧
      (s.esc.beat.toNat < b.toNat → Does (.launch q i) s [.slots, .tiles, .regions, .ls, .lsMarks, .ras] fun t =>
        ∃ l : Launch, (t.slot k).launch = some l ∧ kept t l)) ∧
    ((s.slot k).launch = some l → l.left = [] → l.doneBeat = some b → (∀ p ∈ s.mesh, p.kind ≠ 3 ∨ p.tag ≠ l.tag) →
      l.status ≠ 0 ∨ s.solverEnded k = true → s.cmd l.q l.index = some c → c.replay = false →
      let n := fun (v : WStat) => if (s.slot k).lath.isSome then
        min ((s.slot k).worlds.filter (fun p => p.2.fixed && p.2.status == v)).length 255 else 0
      Does (.launchComplete k) s ([.slots, .ctxs, .train] ++ ends) fun t =>
        Completed s t l.q c l.status (BitVec.ofNat 128 (l.sat + l.flush * 2 ^ 32 + l.replay * 2 ^ 64 + l.nan * 2 ^ 96))
          (n .notConverged) (n .abandoned) (n .diverged) b ∧
        t.slot k = { s.slot k with launch := none } ∧ (∀ j, j ≠ k → t.slot j = s.slot j) ∧
        t.esc = { s.esc with bound := s.esc.bound.erase (l.q, l.index) } ∧ (∀ d, d ≠ (s.slot k).context → t.ctx d = s.ctx d) ∧
        (l.status ≠ 0 → t.train = s.train ∧ t.ctxs = s.ctxs) ∧
        (l.status = 0 → t.train = { s.train with
          sat := min (s.train.sat + l.sat) 0xFFFFFFFF, flush := min (s.train.flush + l.flush) 0xFFFFFFFF
          replay := min (s.train.replay + l.replay) 0xFFFFFFFF, nan := min (s.train.nan + l.nan) 0xFFFFFFFF })) ∧
    ((s.slot k).launch = some l → l.left ≠ [] → Does (.launchComplete k) s [] fun _ => True) ∧
    (afind s.host.copies e = some r → s.frozenAs (0x800 + e) = false → s.cmd r.q r.index = some c →
      c.replay = false → c.st ≠ .fetched → c.arm = some b → b.toNat ≤ s.esc.beat.toNat → s.cfg.retiming = false →
      (∀ v, r.lines = [] → r.ending = some v → r.err = none → v ≠ 0 → Does (.copy e) s ([.host] ++ ends) fun t => Completed s t r.q c v 0 ∧
        afind t.host.copies e = none) ∧
      (∀ o d, r.lines = [] → r.ending = none → r.err = some (o, d) →
        let failed := fun (t : State) => Completed s t r.q c 11 (BitVec.ofNat 128 (o + dropCode d * 2 ^ 64)) ∧ afind t.host.copies e = none
        (gaModule r.dst ≠ s.moduleId → Does (.copy e) s ([.host] ++ ends) failed) ∧
        (∀ m d, r.dst = mkGa 1 s.moduleId (m * Config.lsStride + 64 * d) → m < Config.tiles → 64 * d + r.bytes ≤ Config.lsBytes →
          o % 64 = 0 → Does (.copy e) s ([.host, .ls, .lsMarks, .freeCtr] ++ ends) fun t => failed t ∧
            let base := m * Config.lsStride + 64 * d
            ∀ x, x < base + o ∨ base + r.bytes ≤ x → Memory.get t.ls x = Memory.get s.ls x)) ∧
      (r.lines = [] → r.ending = none → r.err = none → r.bytes ≤ r.off → Does (.copy e) s ([.host] ++ ends) fun t =>
        Completed s t r.q c 0 (BitVec.ofNat 128 r.bytes) ∧ afind t.host.copies e = none) ∧
      (r.ending = none → r.err = none → r.off < r.bytes → gaModule (r.src + BitVec.ofNat 64 r.off) ≠ s.moduleId →
        (r.lines.length < 8 → Does (.copy e) s [.host, .queues, .fab] fun t =>
          afind t.host.copies e = some { r with off := r.off + 64, lines := r.lines ++ [(r.off, .reading)] } ∧
          ∃ w, t.fab.waiting = s.fab.waiting ++ [w] ∧ w.src = .engine (0x800 + e + 2 ^ 16 * (r.off / 64)) ∧ w.pkt.op = .read ∧
            w.pkt.addr = r.src + BitVec.ofNat 64 r.off ∧ w.pkt.cls = (if r.cls = 3 then 1 else r.cls)) ∧
        (8 ≤ r.lines.length → Does (.copy e) s [.queues] fun t => t.cmd r.q r.index = some { c with st := .acting })) ∧
      (∀ n a m d, r.ending = none → r.err = none → r.lines = [] → r.off = 0 → 64 ≤ r.bytes →
        r.src = mkGa 1 s.moduleId (n * Config.lsStride + 64 * a) →
        r.dst = mkGa 1 s.moduleId (m * Config.lsStride + 64 * d) → n < Config.tiles → m < Config.tiles → a < 768 → d < 768 →
        (∀ j < 8, s.lsMark n (8 * a + j) = .good) → Does (.copy e) s [.queues, .host, .ls, .lsMarks] fun t =>
          (∀ j < 64, Memory.get t.ls (m * Config.lsStride + 64 * d + j) = Memory.get s.ls (n * Config.lsStride + 64 * a + j)) ∧
          (∀ x, (∀ j < 64, x ≠ m * Config.lsStride + 64 * d + j) → Memory.get t.ls x = Memory.get s.ls x) ∧
          afind t.host.copies e = some { r with off := 64, progress := s.esc.beat }))

/-- The host link and the registers. In Detect.Quiet the host port does nothing. Else PERST and a change of Bus Master Enable or of the D
state set what the module may send and the link's state, and the held records are due once DMA is allowed again; the failed accesses set
their bits of HOST_STATUS, a read among them returning all ones or completing as an Unsupported Request, by free values where the command does
not say what is read (log 119); a mirror is written when its beat comes, but not in a replay. A register write lands and waits for the boundary while beats are
counted, or acts; a write of GO or READ latches TARGET and DATA; a BAR0 write that is not aligned is dropped with BAD_ACCESS; a read
returns the register, and only BAR0 and window reads clear an RC field. The window writes a flag at the boundary and sets WIN_ERR for an
access that it does not allow. The SMBus sideband writes and reads by blocks (R12, R13, R117, R280, R441, R442, R443, R444, R445, R470,
R518, R529, R531, R532, R541, R553). -/
def Obligations.HostLinkAndRegisters : Prop :=
  ∀ (s : State) (o : Nat) (v : W64) (busMaster d0 : Bool) (data : List Byte), Clean s →
    let landed := fun (p : Path) (o : Nat) (t : State) =>
      t.host = { s.host with landed := s.host.landed ++ [{ path := p, offset := o, value := v }] }
    let read := fun (p : Path) (o : Nat) (t : State) => t.host.reads = s.host.reads ++ [{ path := p, offset := o, value := s.reg3 o }]
    (s.host.link = .detectQuiet → ∀ c ∈ [Instr.perst, .dmaHoldChange busMaster d0, .bar0BadAccess, .barReadTimeout,
      .registerWrite .bar0 o v, .rcFieldRead .bar0 o, .windowAccess true o data.length data, .windowAccess false o 8 []],
      Does c s [] fun _ => True) ∧
    (s.host.link ≠ .detectQuiet →
      (Does (.dmaHoldChange busMaster d0) s [.host] fun t => t.host = { s.host with
        busMaster := busMaster, d0 := d0, link := if d0 then .l0 else .l1
        dmaDue := s.host.dmaDue || (!(s.host.busMaster && s.host.d0) && busMaster && d0) }) ∧
      (Does .perst s [.host] fun t => t.host = { s.host with busMaster := false, d0 := true, link := .l0 }) ∧
      (Does .bar0BadAccess s [.host, .freeCtr] fun t =>
        t.host = { s.host with status := setBit s.host.status 2 true, reads := t.host.reads } ∧
        (t.host.reads = s.host.reads ∨ ∃ r, t.host.reads = s.host.reads ++ [r] ∧ r.path = .bar0 ∧ r.unsupported = true)) ∧
      (Does .barReadTimeout s [.host, .freeCtr] fun t =>
        t.host = { s.host with status := setBit s.host.status 1 true, reads := t.host.reads } ∧
        ∃ r, t.host.reads = s.host.reads ++ [r] ∧ (r.path = .bar0 ∨ r.path = .window) ∧ r.value = BitVec.allOnes 64) ∧
      (o % 8 ≠ 0 → Does (.rcFieldRead .bar0 o) s [.host] fun t =>
        t.host = { s.host with status := setBit s.host.status 2 true, reads := t.host.reads } ∧
        ∃ r, t.host.reads = s.host.reads ++ [r] ∧ r.path = .bar0 ∧ r.offset = o ∧ r.unsupported = true) ∧
      (o % 8 = 0 → o < 0x10000000 → o ≠ 0x20028 → s.synced = true → Does (.registerWrite .bar0 o v) s [.landed] (landed .bar0 o)) ∧
      (bitOf v 0 = true ∨ bitOf v 2 = true → fld s.cwld.status 0 3 ≠ 1 → s.synced = true →
        Does (.registerWrite .bar0 0x20028 v) s [.landed, .cwld] fun t =>
          let k := s.cwLatched
          t.host.landed = s.host.landed ++ [{ path := .bar0, offset := 0x20028, value := v, target := k.target
                                              data := [k.data0, k.data1, k.data2, k.data3] }] ∧
          t.cwld = { s.cwld with status := t.cwld.status } ∧ fld t.cwld.status 0 3 = 1) ∧
      (fld s.cwld.status 0 3 = 1 → Does (.registerWrite .bar0 0x20028 v) s [] fun _ => True) ∧
      (o % 8 ≠ 0 → Does (.registerWrite .bar0 o v) s [.host] fun t => t.host = { s.host with status := setBit s.host.status 2 true }) ∧
      (s.synced = false → Does (.registerWrite .bar0 0x20008 v) s [.cwld] fun t => t.cwld = { s.cwld with data0 := v }) ∧
      (s.synced = false → Does (.registerWrite .bar0 0x50040 v) s [.esc] fun t =>
        t.esc = if s.outside then { s.esc with status := setBit s.esc.status 7 true } else { s.esc with anchor := v }) ∧
      (Does (.rcFieldRead .bar0 0x50070) s [.host, .esc] fun t => read .bar0 0x50070 t ∧ t.esc = { s.esc with lateStats := 0 }) ∧
      (Does (.rcFieldRead .bar0 0x50000) s [.host] fun t => read .bar0 0x50000 t ∧ s.reg3 0x50000 = s.esc.beat) ∧
      (fld s.host.winCfg 0 6 = 2 → fld s.host.winCfg 16 28 = 0 → data.length = 8 → o % 8 = 0 → o < 0x800000 → s.synced = true →
        Does (.windowAccess true o 8 data) s [.host] fun t =>
          t.host = { s.host with winLanded := s.host.winLanded ++ [(o / 8, BitVec.ofNat 64 (ofLe data))] }) ∧
      (fld s.host.winCfg 0 6 = 0 → 2 ^ 44 ≤ fld s.host.winCfg 16 28 * 2 ^ 16 + o → Does (.windowAccess true o data.length data) s [.host] fun t =>
        t.host = { s.host with status := setBit s.host.status 3 true }) ∧
      (fld s.host.winCfg 0 6 = 2 → data.length ≠ 8 → Does (.windowAccess true o data.length data) s [.host] fun t =>
        t.host = { s.host with status := setBit s.host.status 3 true })) ∧
    (bitOf s.host.mirrorCfg 16 = true → s.mirrorNow = true → s.synced = true → s.esc.beat.toNat % s.mirrorInterval = 0 →
      Does .statusMirrorWrite s [.host, .queues] fun t => t.host.mirrorSeq = s.host.mirrorSeq + 1 ∧
        t.host.out.length = s.host.out.length + 3) ∧
    (Does (.rcFieldRead .ring 0x50070) s [.host] fun t => read .ring 0x50070 t) ∧
    (data.length = 12 → ofLe (data.take 4) = 0x230038 → BitVec.ofNat 64 (ofLe (data.drop 4)) = v → s.synced = true →
      Does (.smbusBlockWrite data) s [.landed] (landed .smbus 0x230038)) ∧
    (data.length ≠ 12 → Does (.smbusBlockWrite data) s [] fun _ => True) ∧
    (data.length = 4 → ofLe (data.take 4) = 0x230038 → Does (.smbusBlockRead data) s [.host] (read .smbus 0x230038)) ∧
    (data.length ≠ 4 → Does (.smbusBlockRead data) s [] fun _ => True)

/-! ## Faults, slice halts, the NaN watch and checkpoints (chapters 04, 15) -/

/-- FAULT_ARRIVAL, RAS_CTRL.HALT, RAS_CTRL.REARM and HALT_MARKER. The first fault since REARM is recorded with its beat; a later one counts in
LATER_FAULTS, and of the faults of one beat that with the lowest UNIT and then INDEX is kept. In RUNNING a fault halts the module at the
next boundary and sends a HALT_MARKER to every other member; elsewhere it halts nothing. A RAS HALT is the fault HOST_HALT. REARM clears
the record. A member's marker sets a halt at the boundary that it names, or at the next. In a replay a fault enters the suspect's report entry
only (R362, R478, R481, R482, R501, R518). -/
def Obligations.FaultsAndHalts : Prop :=
  ∀ (s : State) (f : FaultRec) (src cause : Nat) (b : W64), Clean s →
    (∀ q, s.hang.replaying = some q → Does (.faultArrival f) s [.ras, .hang] fun t =>
      t.ras = { s.ras with tree := s.ras.tree.erase f } ∧ t.hang = { s.hang with suspects := s.hang.suspects.map (fun x =>
        if x.q = q ∧ x.cause = 0 then { x with cause := causeCode f.cause } else x) }) ∧
    (s.hang.replaying = none →
    let r := s.ras
    let first := bitOf r.fault0 0 = false
    let lower := bitOf r.fault0 0 = true ∧ r.fault1 = s.esc.beat ∧
      faultKey f.unit f.index < fld r.fault0 9 4 * 2 ^ 20 + fld r.fault0 13 20
    let later := fun (t : State) => fld t.ras.status 11 16 = min (fld r.status 11 16 + 1) 0xFFFF
    let rest := fun (t : State) => t.ras = { r with
      tree := r.tree.erase f, fault0 := t.ras.fault0, fault1 := t.ras.fault1, fault2 := t.ras.fault2, fault3 := t.ras.fault3
      status := t.ras.status, halts := t.ras.halts }
    let quiet := s.sliceSt ≠ 2 ∨ r.halts.any (fun h => h.own) = true
    (quiet → first → Does (.faultArrival f) s [.ras] fun t => rest t ∧ Recorded s t f ∧ t.ras.halts = r.halts ∧
      fld t.ras.status 11 16 = fld r.status 11 16) ∧
    (quiet → lower → Does (.faultArrival f) s [.ras] fun t => rest t ∧ Recorded s t f ∧ t.ras.halts = r.halts ∧ later t) ∧
    (quiet → ¬ first → ¬ lower → Does (.faultArrival f) s [.ras] fun t => rest t ∧ t.ras.halts = r.halts ∧ later t ∧
      t.ras.fault0 = r.fault0 ∧ t.ras.fault1 = r.fault1 ∧ t.ras.fault2 = r.fault2 ∧ t.ras.fault3 = r.fault3) ∧
    (s.sliceSt = 2 → r.halts.any (fun h => h.own) = false → first → Does (.faultArrival f) s [.ras, .fab] fun t => rest t ∧
      Recorded s t f ∧
      t.ras.halts = r.halts ++ [{ beat := s.esc.beat + 1, cause := causeCode f.cause, src := s.moduleId, own := true }] ∧
      ∃ pk : Nat → FabPkt,
        t.fab = { s.fab with switchQ := s.fab.switchQ ++
          (s.slice.table.filter (fun m => m.1 != s.moduleId)).map (fun m => (63, pk m.1)) } ∧
        ∀ m < 16384, (pk m).op = .haltMarker ∧ (pk m).dest = m ∧
          (pk m).payload = [BitVec.ofNat 128 (causeCode f.cause + (s.esc.beat + 1).toNat * 2 ^ 64)]) ∧
    (quiet → first → Does .haltRas s [.ras] fun t => Recorded s t { cause := .hostHalt, unit := .host, index := 0 } ∧
      fld t.ras.fault0 1 8 = 64) ∧
    (Does .rearmRas s [.ras, .slice] fun t =>
      t.ras = { r with fault0 := 0, fault1 := 0, fault2 := 0, fault3 := 0, halt := 0, status := t.ras.status } ∧
      fld t.ras.status 0 27 = 0 ∧ fld t.ras.status 27 37 = fld r.status 27 37 ∧ t.slice = { s.slice with collFault := 0 }) ∧
    (s.sliceSt = 2 → (s.rankOf src).isSome = true → Does (.haltMarker src cause b) s [.ras, .fab] fun t =>
      t.ras = { r with halts := r.halts ++ [{ beat := if b.toNat ≤ s.esc.beat.toNat then s.esc.beat + 1 else b
                                              cause := cause % 256, src := src, own := false }] } ∧
      t.fab.switchQ = s.fab.switchQ) ∧
    (s.sliceSt ≠ 2 ∨ s.rankOf src = none → Does (.haltMarker src cause b) s [.fab] fun t => t.fab.switchQ = s.fab.switchQ))

/-- The NaN watch: while no record is held a notice is collected from the beat of the first; two beats after it the watch records the
notice of the lowest beat and then TILE_ID with its operation, and under TRAP raises NAN_TRAP; while a record is held notices count in
LATER; REARM clears the watch (R146, R147, R148, R150). -/
def Obligations.NanWatch : Prop :=
  ∀ (s : State) (n : NanNotice) (b : W64) (l : List NanNotice) (o : NanNotice → Nat × Nat × Nat × W64), Clean s →
    (bitOf s.nan.rec0 0 = true → Does (.nanNotice n) s [.nan, .ras] fun t =>
      t.ras = { s.ras with notices := s.ras.notices.erase n } ∧ t.nan = { s.nan with later := t.nan.later } ∧
      fld t.nan.later 0 32 = min (fld s.nan.later 0 32 + 1) 0xFFFFFFFF) ∧
    (bitOf s.nan.rec0 0 = false → Does (.nanNotice n) s [.nan, .ras] fun t =>
      t.ras = { s.ras with notices := s.ras.notices.erase n } ∧
      t.nan = { s.nan with collect := some ((s.nan.collect.map (·.1)).getD s.esc.beat, ((s.nan.collect.map (·.2)).getD []) ++ [n]) }) ∧
    (s.nan.collect = some (b, l) → l ≠ [] → b.toNat + 2 ≤ s.esc.beat.toNat → (∀ m ∈ l, afind s.host.tags m.tag = some (o m)) →
      let holds := fun (t : State) => ∃ m ∈ l,
        (∀ k ∈ l, m.beat.toNat < k.beat.toNat ∨ (m.beat = k.beat ∧ m.tile ≤ k.tile)) ∧
        bitOf t.nan.rec0 0 = true ∧ fld t.nan.rec0 2 13 = (o m).1 % 8192 ∧ fld t.nan.rec0 15 20 = m.tile % 2 ^ 20 ∧
        fld t.nan.rec0 35 8 = m.cw % 256 ∧ fld t.nan.rec0 43 1 = m.bank % 2 ∧ fld t.nan.rec1 0 32 = (o m).2.1 % 2 ^ 32 ∧
        fld t.nan.rec1 32 16 = (o m).2.2.1 % 65536 ∧ fld t.nan.rec1 48 16 = m.tag % 65536 ∧ t.nan.beat = m.beat ∧
        t.nan.step = (o m).2.2.2 ∧ t.nan.later = 0 ∧ t.nan.collect = none ∧ t.nan.ctrl = s.nan.ctrl
      (bitOf s.nan.ctrl 0 = false → Does .nanWatchRecord s [.nan] holds) ∧
      (bitOf s.nan.ctrl 0 = true → s.hang.replaying = none → s.sliceSt = 2 → s.ras.halts = [] →
        Does .nanWatchRecord s [.nan, .ras, .fab] fun t => holds t ∧ t.nan.trapDue = true ∧
          t.ras.halts = [{ beat := s.esc.beat + 1, cause := 16, src := s.moduleId, own := true }])) ∧
    (Does .rearm s [.nan] fun t =>
      t.nan = { s.nan with rec0 := 0, rec1 := 0, beat := 0, step := 0, later := 0, collect := none })

/-- CHECKPOINT: a SAVE of another step ends with CKPT_STEP_MISMATCH, and one whose slice does not fit the group size, in any tier, with
CKPT_LAYOUT; a tier-1 SAVE writes the snapshot of the present ranges and the state block into the slot that does not hold the newest one,
which PREV then names no longer, and ends OK once every peer's segment is there and its own are answered: the slot's header then records
its completion, with the parity of the segments, and it becomes the newest copy of tier 1; a tier-2 transfer copies the tier-1 slot, 64 KiB
at a time, or fails with CKPT_IO_ERROR. A RESTORE of another step, one from a slot of another image or of another mapping, one that two or
more members lack, and one that no tier serves is refused; one from the own slot writes the ranges and the state block back, or meets an
error of its ECC, which is a free value (log 118) (R485, R488, R489, R490, R491, R492, R495, R496, R497, R498, R501, R502). -/
def Obligations.Checkpoints : Prop :=
  ∀ (s u : State) (r : CkRun) (c : Cmd) (snap : List (Nat × List Byte)) (vals : List W64) (x : CkSlot) (j : Nat), Clean s →
    s.frozenAs 0x1800 = false → s.ras.run = some r → r.ending = none → s.cmd r.q r.index = some c → c.replay = false →
    let flag := if r.op = 0 then r.slot else if r.rebuilt then 1 else 0
    let ended := fun (t : State) (moved status : Nat) => t.ras.run = none ∧ Completed s t r.q c status
      (BitVec.ofNat 128 (r.step.toNat + r.tier * 2 ^ 64 + flag * 2 ^ 72 + (moved + 1023) / 1024 * 2 ^ 96))
    let ends := [Piece.ras, .queues, .hang, .esc]
    let k := oldSlot s.ras.tier1
    let cleared : State := { s with ras := { s.ras with
      ckptPrev := aset 0 s.ras.ckptPrev 1 (setFld (aget 0 s.ras.ckptPrev 1) 48 2 0),
      pieces := s.ras.pieces.filter (fun p => decide (r.step.toNat % 2 ^ 32 ≤ p.stepLo.toNat)), tier1 := aput s.ras.tier1 k {} } }
    (r.op = 0 → r.tier = 1 → r.stage = 0 → r.step ≠ s.slice.step → Does .checkpointSave s ends fun t => ended t r.moved 32) ∧
    (r.op = 0 → 1 ≤ r.tier → r.tier ≤ 3 → r.stage = 0 → (r.tier = 1 → r.step = s.slice.step) → s.layoutOk = false →
      Does .checkpointSave s ends fun t => ended t r.moved 33) ∧
    (r.op = 0 → r.tier = 1 → r.stage = 0 → r.step = s.slice.step → s.layoutOk = true → cleared.takeSnap = (snap, vals, none, u) →
      Does .checkpointSave s (.freeCtr :: engineParts) fun t =>
        let y : CkSlot := { step := r.step, image := s.cfg.activeDigest, mapDigest := s.mapDigest, snap := snap, state := vals }
        aget {} t.ras.tier1 k = y ∧ (∀ j, j ≠ k → aget {} t.ras.tier1 j = aget {} s.ras.tier1 j) ∧
        bitOf (aget 0 t.ras.ckptPrev 1) 48 = false ∧ t.ras.pieces = cleared.ras.pieces ∧
        t.ras.run = some { r with slot := k, stage := 1, moved := r.moved + y.bytes.length
                                  progress := if r.moved / 65536 < (r.moved + y.bytes.length) / 65536 then s.esc.beat else r.progress }) ∧
    (r.op = 0 → r.tier = 1 → r.stage = 1 → s.groupSize = 0 → Does .checkpointSave s [.ras] fun t =>
      t.ras = { s.ras with run := some { r with stage := 2 } }) ∧
    (r.op = 0 → r.tier = 1 → 2 ≤ r.stage → aget {} s.ras.tier1 r.slot = x →
      (r.out = [] → s.parityWhole x.bytes.length = true → Does .checkpointSave s ends fun t => ended t r.moved 0 ∧
        aget {} t.ras.tier1 r.slot = { x with complete := true, parity := s.groupSize != 0, block := s.parityBlock } ∧
        fld (aget 0 t.ras.ckptNew 1) 0 48 = x.step.toNat % 2 ^ 48 ∧ bitOf (aget 0 t.ras.ckptNew 1) 48 = true ∧
        aget 0 t.ras.ckptPrev 1 = aget 0 s.ras.ckptNew 1) ∧
      (r.out ≠ [] ∨ s.parityWhole x.bytes.length = false → Does .checkpointSave s [] fun _ => True)) ∧
    (r.op = 0 → r.tier = 2 → r.stage = 1 → fld s.power.flashCtrl 6 2 ≠ 1 →
      (Does (.checkpointFlashTransferDone false) s ends fun t => ended t r.moved 36 ∧ t.ras.tier2 = s.ras.tier2) ∧
      (slotOf s.ras.tier1 r.step = some j → aget {} s.ras.tier1 j = x →
        (r.moved + 65536 < x.size → Does .checkpointSave s [.ras] fun t =>
          t.ras = { s.ras with run := some { r with moved := r.moved + 65536, progress := s.esc.beat } }) ∧
        Does (.checkpointFlashTransferDone true) s ends fun t =>
          ended t (max r.moved x.size) 0 ∧ aget {} t.ras.tier2 r.slot = x ∧
          ∀ j, j ≠ r.slot → aget {} t.ras.tier2 j = aget {} s.ras.tier2 j)) ∧
    (r.op = 1 → r.tier = 1 → r.stage = 0 → r.step ≠ s.slice.step → Does .checkpointRestore s ends fun t => ended t r.moved 32) ∧
    (r.op = 1 → r.tier = 1 → r.stage = 1 → r.out = [] →
      let own := slotOf s.ras.tier1 r.step
      let lack := (s.lacking r).length + (if own = none then 1 else 0)
      (lack = 0 → own = some j → Does .checkpointRestore s [.ras] fun t =>
        t.ras = { s.ras with run := some { r with slot := j, stage := 3 } }) ∧
      (2 ≤ lack → lack ≤ s.peers.length → Does .checkpointRestore s ends fun t => ended t r.moved 35) ∧
      (lack = s.peers.length + 1 → r.top ≤ 1 → Does .checkpointRestore s ends fun t => ended t r.moved 34) ∧
      (lack = s.peers.length + 1 → 2 ≤ r.top → Does .checkpointRestore s [.ras] fun t =>
        t.ras = { s.ras with run := some { r with tier := 2, stage := 0, got := [] } })) ∧
    (r.op = 1 → r.tier = 1 → r.stage = 3 → r.out = [] → aget {} s.ras.tier1 r.slot = x →
      let bad := bitOf (Config.freeValue s.freeCtr) 0
      (x.image ≠ s.cfg.activeDigest → Does .checkpointRestore s (.freeCtr :: ends) fun t => ended t r.moved 38) ∧
      (x.image = s.cfg.activeDigest → x.mapDigest ≠ s.mapDigest → Does .checkpointRestore s (.freeCtr :: ends) fun t => ended t r.moved 25) ∧
      (x.image = s.cfg.activeDigest → x.mapDigest = s.mapDigest →
        bad = false ∨ Does .checkpointRestore s (.freeCtr :: ends) fun t => ended t r.moved 36) ∧
      (∀ step period rst sst : W64, x.image = s.cfg.activeDigest → x.mapDigest = s.mapDigest → x.snap = [] →
        x.state = [step, period, rst, sst, 0] → s.ctxs = [] → s.cfg.active.mapLayers = [] → s.cfg.active.mapCtxs = [] →
        bad = true ∨ Does .checkpointRestore s ([.slice, .train, .freeCtr] ++ ends) fun t =>
          ended t (r.moved + 4096) 0 ∧ t.slice = { s.slice with step := step } ∧ t.esc.now = period ∧
          t.train = { s.train with ratchetStatus := rst, scaleStatus := sst }))

/-! ## Hangs, dumps and resets (chapter 16) -/

/-- A hang is declared of a busy unit whose progress beat is at or before b - WD_BEATS while none is handled or has been in the beat: the
registers name the unit and its oldest command, and ENGINE_HANG is raised. The dump reads location after location into 16-byte entries, all
ones where a read fails, a unit's status word among them, of which an idle unit that has never been busy counts from beat 0 and whose location
is free, both the model's (log 5, log 120); its end calls for the reset. A replay runs a suspect's command from the fetched copy with its ABS
arm, and one that is still live without a record, which the queue goes on with afterwards, as log 120 says; its end gives the verdict 0, the
watchdog's end the verdict 1. The verdicts end the handling, block the queue of a GUILTY suspect and copy the buffer to
flash. A read of DUMP_DATA advances OFFSET; ADMIT ends OUT_OF_SERVICE after a COLD reset (R502, R503, R504, R505, R506, R507, R508, R510, R511,
R517, R518, R519, R521, R523). -/
def Obligations.HangHandling : Prop :=
  ∀ (s : State) (e q i : Nat) (p : W64), Clean s →
    let h := s.hang
    let handles := fld h.status 0 2
    (s.replayReady = true ↔ ((handles = 2 ∧ bitOf h.resetStatus 3 = false) ∨ handles = 3) ∧ h.replaying = none ∧
      h.replayBeat.toNat < s.esc.beat.toNat) ∧
    (handles ≠ 0 ∨ h.endedAt = some s.esc.beat ∨ s.synced = false ∨ s.unitRun e = none → Does (.hangDeclared e) s [] fun _ => True) ∧
    (handles = 0 → h.endedAt ≠ some s.esc.beat → s.synced = true → s.unitRun e = some (q, i, p) →
      (s.esc.beat.toNat < p.toNat + max 64 (fld h.wdCfg 0 32) → Does (.hangDeclared e) s [] fun _ => True) ∧
      (p.toNat + max 64 (fld h.wdCfg 0 32) ≤ s.esc.beat.toNat → Does (.hangDeclared e) s [.hang, .ras] fun t =>
        fld t.hang.status 0 2 = 1 ∧ fld t.hang.info 0 16 = e % 65536 ∧ fld t.hang.info 16 13 = q % 8192 ∧
        fld t.hang.info 32 32 = i % 2 ^ 32 ∧ t.hang.beat = s.esc.beat ∧
        t.hang.suspects = (s.suspectQueues e).map s.suspectOf ∧ fld t.hang.status 5 8 = min 255 (s.suspectQueues e).length ∧
        t.ras = { s.ras with tree := s.ras.tree ++ [{ cause := .engineHang, unit := .engine, index := e }] })) ∧
    (∀ (o k : Nat) (r : List DumpLoc) (ok : Bool), h.todo = { section_ := k, src := .reg o } :: r → h.dumping = true →
      Does (.dumpEntryRead ok) s [.hang] fun t => t.hang = { h with todo := r, entries := h.entries + 1, buffer := t.hang.buffer } ∧
        BufferHas s t (0x1000 + 16 * h.entries) (leBytes 6 o ++ leBytes 1 k ++ leBytes 1 (if ok then 0 else 1) ++
          leBytes 8 (if ok then (s.regAt o).toNat else 2 ^ 64 - 1))) ∧
    (∀ (o k : Nat) (r : List DumpLoc) (ok : Bool), h.todo = { section_ := k, src := .tileReg o } :: r → h.dumping = true →
      Does (.dumpEntryRead ok) s [.hang] fun t => t.hang = { h with todo := r, entries := h.entries + 1, buffer := t.hang.buffer } ∧
        BufferHas s t (0x1000 + 16 * h.entries) (leBytes 6 (o + 2 ^ 47) ++ leBytes 1 k ++ leBytes 1 (if ok then 0 else 1) ++
          leBytes 8 (if ok then (s.reg3 o).toNat else 2 ^ 64 - 1))) ∧
    (∀ (r : List DumpLoc), h.todo = { section_ := 1, src := .unit e } :: r → h.dumping = true →
      Does (.dumpEntryRead true) s [.hang, .freeCtr] fun t => t.hang = { h with todo := r, entries := h.entries + 1, buffer := t.hang.buffer } ∧
        let age := fun (b : W64) => min 0x3FFFF (s.esc.beat.toNat - b.toNat) * 2 ^ 46
        let w := match s.unitRun e with
          | some u => 1 + u.1 % 8192 * 2 + u.2.1 % 2 ^ 32 * 2 ^ 14 + age u.2.2
          | none => age (aget 0 h.last e)
        BufferHas s t (0x1000 + 16 * h.entries) (leBytes 6 ((Config.freeValue s.freeCtr).toNat % 2 ^ 48) ++ leBytes 1 1 ++ leBytes 1 0 ++ leBytes 8 w)) ∧
    (h.todo = [] → h.dumping = true → Does .dumpEnd s [.hang] fun t =>
      t.hang = { h with dumping := false, resetDue := true, buffer := t.hang.buffer } ∧
      (∀ j, j < 8 → Memory.get t.hang.buffer j = nth 0 (leBytes 8 h.beat.toNat) j) ∧
      ∀ j, 64 ≤ j → Memory.get t.hang.buffer j = Memory.get h.buffer j) ∧
    (Does .dumpDataRead s [.hang, .host] fun t => t.hang = { h with dumpAddr := t.hang.dumpAddr } ∧
      fld t.hang.dumpAddr 3 16 = (fld h.dumpAddr 3 16 + 1) % 65536 ∧
      t.host.reads = s.host.reads ++ [{ path := .bar0, offset := 0x240048, value := s.dumpData }]) ∧
    (∀ (x : Suspect) (c : Cmd), h.suspects = [x] → s.replayReady = true → x.replayed = false →
      (x.cmds = [c] → cmdOp c.raw = 2 → s.cmd x.q c.index = none → c.tag = none →
        Does .replayStart s [.hang, .queues] fun t =>
          fld t.hang.status 0 2 = 3 ∧ t.hang.replaying = some x.q ∧ t.hang.replayBeat = s.esc.beat ∧
          (∀ k, k ≠ x.q → t.queue k = s.queue k) ∧
          t.cmd x.q c.index = some { index := c.index, raw := c.raw, st := .dispatched, replay := true, progress := s.esc.beat
                                     arm := some (BitVec.ofNat 64 (max (if cmdFld c.raw 2 1 = 0 then cmdFld c.raw 8 8 else 0)
                                       s.esc.beat.toNat))
                                     waits := c.waits, lines := c.lines }) ∧
      (∀ d, x.cmds = [c] → cmdOp c.raw = 2 → s.cmd x.q c.index = some d → c.tag = none →
        Does .replayStart s [.hang, .queues] fun t =>
          t.hang.replaying = some x.q ∧ (∀ k, k ≠ x.q → t.queue k = s.queue k) ∧
          (∃ d', t.cmd x.q c.index = some d' ∧ d'.raw = c.raw ∧ d'.st = .dispatched ∧ d'.replay = true) ∧
          ∃ y, t.hang.suspects = [y] ∧ y = { x with resume := x.resume ++ [{ index := c.index, raw := c.raw }] }) ∧
      (x.cmds = [c] → cmdOp c.raw = 5 ∨ cmdOp c.raw = 6 → Does .replayStart s [.hang] fun t =>
        t.hang = { h with status := setFld h.status 0 2 3
                          suspects := [{ x with replayed := true, verdict := 3, endIdx := x.first, endBeat := s.esc.beat }] })) ∧
    (∀ (x : Suspect), h.suspects = [x] → h.replaying = some x.q →
      (s.replayLeft x.q = [] → Does .replayEnd s [.hang, .queues, .ctxs, .train] fun t => (∀ k, k ≠ x.q → t.queue k = s.queue k) ∧
        (∀ d, d ∈ (t.queue x.q).cmds ↔ d ∈ (s.queue x.q).cmds ∨ d ∈ x.resume) ∧ t.hang.replaying = none ∧ t.hang.replayBeat = s.esc.beat ∧ ∃ y, t.hang.suspects = [y] ∧ y.q = x.q ∧ y.replayed = true ∧
          y.verdict = 0 ∧ y.endBeat = s.esc.beat ∧ y.endIdx = (match x.cmds.getLast? with | some c => c.index | none => x.first)) ∧
      (∀ c, s.replayLeft x.q = [c] → cmdOp c.raw = 2 → c.tag = none →
        (s.esc.beat.toNat < h.replayBeat.toNat + max 1 (fld h.wdCfg 32 16) → Does .replayWdExpiry s [] fun _ => True) ∧
        (h.replayBeat.toNat + max 1 (fld h.wdCfg 32 16) ≤ s.esc.beat.toNat → Does .replayWdExpiry s [.hang, .queues, .ctxs, .train] fun t =>
          t.hang.replaying = none ∧ (∀ k, k ≠ x.q → t.queue k = s.queue k) ∧
          (∀ d, d ∈ (t.queue x.q).cmds ↔ (d ∈ (s.queue x.q).cmds ∧ d.replay = false) ∨ d ∈ x.resume) ∧
          ∃ y, t.hang.suspects = [y] ∧ y.q = x.q ∧ y.replayed = true ∧ y.verdict = 1 ∧ y.endIdx = c.index))) ∧
    (∀ (x : Suspect), h.suspects = [x] → x.replayed = true → x.verdict = 1 → s.replayReady = true → Does .hangVerdicts s [.hang, .queues, .flash] fun t =>
        fld t.hang.status 0 2 = 0 ∧ bitOf t.hang.status 2 = true ∧ fld t.hang.status 13 8 = 1 ∧ fld t.hang.status 21 8 = 0 ∧
        t.hang.suspects = [] ∧ (∀ j, j < 16 → Memory.get t.hang.buffer (0x40 + j) =
          nth 0 (leBytes 2 x.q ++ leBytes 1 1 ++ leBytes 1 x.cause ++ leBytes 4 x.first ++ leBytes 4 x.endIdx ++ leBytes 2 x.partner
            ++ leBytes 2 0) j) ∧ (∀ k, k ≠ x.q → t.queue k = s.queue k) ∧
        t.queue x.q = (if (s.queue x.q).st = 1 then { s.queue x.q with st := 2 } else s.queue x.q) ∧
        t.flash = { s.flash with dumps := t.flash.dumps } ∧ afind t.flash.dumps h.dumpSlot = some t.hang.buffer) ∧
    (bitOf h.status 3 = true → h.coldSince = true → Does .admitModule s [.hang, .flash] fun t =>
      bitOf t.hang.status 3 = false ∧ t.flash = { s.flash with outOfService := false } ∧
      t.hang = { h with coldSince := false, status := t.hang.status }) ∧
    (bitOf h.status 3 = false ∨ h.coldSince = false → Does .admitModule s [] fun _ => True)

/-- Reset requests. In RUNNING every domain but COLD is refused with RESULT 2; WARM and COLD are refused with RESULT 3 while a stack is at
90.0 °C or more, and an INDEX that names nothing with RESULT 4. A reset of ENGINE completes the engine's command with ENGINE_RESET; one
of TILE_ARRAY leaves of every tile its two banks; one of PORT retrains the port; one of CHANNEL discards its buffer, counted in DISCARDED,
and trains it. WARM keeps the stacks' contents, time, the fault record and POLICY, and clears tiles, local stores, flags, queues,
contexts and slots; COLD keeps the flash and begins as after reset.
RESET_COMPLETE clears PENDING with RESULT 1 (R511, R512, R513, R526, R528, R553, R554). -/
def Obligations.Resets : Prop :=
  ∀ (s : State) (k : Nat), Clean s →
    let same := fun (t : State) => t.hang = { s.hang with resetStatus := t.hang.resetStatus }
    let cool := ∀ j, j < 12 → fld (s.stack j).therm 0 12 < 360
    let refused := fun (t : State) (d i r : Nat) => same t ∧ ResetNoted t d i (bitOf s.hang.resetStatus 3) r
    (s.sliceSt = 2 → (Does (.engine k) s [.hang] fun t => refused t 0 k 2) ∧ (Does .tileArray s [.hang] fun t => refused t 1 0 2) ∧
      (Does (.port k) s [.hang] fun t => refused t 2 k 2) ∧ (Does (.channel k) s [.hang] fun t => refused t 3 k 2) ∧
      Does .warm s [.hang] fun t => refused t 4 0 2) ∧
    (∀ j, j < 12 → 360 ≤ fld (s.stack j).therm 0 12 → (s.sliceSt ≠ 2 → Does .warm s [.hang] fun t => refused t 4 0 3) ∧
      Does .cold s [.hang] fun t => refused t 5 0 3) ∧
    (s.sliceSt ≠ 2 →
      (k < 0x800 → Does (.engine k) s [.hang] fun t => refused t 0 k 4) ∧
      (39 ≤ k → Does (.port k) s [.hang] fun t => refused t 2 k 4) ∧ (1536 ≤ k → Does (.channel k) s [.hang] fun t => refused t 3 k 4) ∧
      (∀ (r : CopyRun) (c : Cmd), k < 16 → afind s.host.copies k = some r → s.cmd r.q r.index = some c → c.st = .acting → c.replay = false →
        cmdOp c.raw = 4 → Does (.engine (0x800 + k)) s [.hang, .queues, .host, .inbox, .chans, .fab, .esc] fun t =>
          Completed s t r.q c 12 0 ∧ (∀ j, afind t.host.copies j = if j = k then none else afind s.host.copies j) ∧
          t.hang = { s.hang with resetStatus := t.hang.resetStatus, last := t.hang.last } ∧
          (∀ j, j ≠ 0x800 + k → afind t.hang.last j = afind s.hang.last j) ∧ ResetNoted t 0 (0x800 + k) true 0) ∧
      (k < 16 → afind s.host.copies k = none → Does (.engine (0x800 + k)) s [.hang] fun t => same t ∧ ResetNoted t 0 (0x800 + k) true 0) ∧
      (s.slots = [] → s.loadSt ≠ 4 →
        Does .tileArray s [.tiles, .mesh, .answers, .regions, .hang, .inbox, .chans, .host, .fab] fun t =>
          (∀ n, t.tile n = { cs0 := (s.tile n).cs0, cs1 := (s.tile n).cs1, bank := (s.tile n).bank }) ∧
          t.mesh = [] ∧ t.answers = [] ∧ same t ∧ ResetNoted t 1 0 true 0) ∧
      (k < 39 → s.fab.txns = [] → (s.port k).st ≠ 3 → Does (.port k) s [.ports, .hang] fun t =>
        (∀ j, j ≠ k → t.port j = s.port j) ∧ (t.port k).st = (if (s.port k).enable ∧ (s.port k).signal then 1 else 0) ∧
        (t.port k).ident = 0 ∧ (t.port k).fec = 0 ∧ (t.port k).link = 0 ∧ (t.port k).reason = 0 ∧ (t.port k).peer = (s.port k).peer ∧
        (t.port k).retry = [] ∧ (t.port k).queue = [] ∧ same t ∧ ResetNoted t 2 k true 0) ∧
      (k < 1536 → (s.chan k).st ≠ 2 → (s.chan k).all = [] → Does (.channel k) s [.chans, .hang] fun t =>
        (∀ j, j ≠ k → t.chan j = s.chan j) ∧
        t.chan k = { s.chan k with st := 1, urgent := [], normal := [], writes := [], waiting := [], wcb := [], pressure := false } ∧
        t.hang = { s.hang with resetStatus := t.hang.resetStatus, buffer := t.hang.buffer } ∧ ResetNoted t 3 k true 0 ∧
        fld t.hang.resetStatus 32 16 = min 0xFFFF (s.heldLines k).length) ∧
      (cool → s.mem.chans = [] → ∃ t, exec .warm s = .next t ∧ t.pending = s.pending ∧ Clean t ∧
        (∀ a, Memory.get t.mem.bytes a = Memory.get s.mem.bytes a) ∧ t.mem.marks = s.mem.marks ∧ t.esc = { s.esc with bound := [], markers := [], doneSent := false } ∧
        t.flash = s.flash ∧ t.cfg = { secure := s.cfg.secure } ∧ t.host.link = s.host.link ∧ t.host.winCfg = s.host.winCfg ∧ t.host.queues = [] ∧
        t.host.flags = [] ∧ (∀ a, Memory.get t.ls a = 0) ∧ (∀ n, t.tile n = {}) ∧ t.ctxs = [] ∧ t.slots = [] ∧
        t.ras.fault0 = s.ras.fault0 ∧ t.ras.fault1 = s.ras.fault1 ∧ t.ras.halt = s.ras.halt ∧
        fld t.ras.status 2 25 = fld s.ras.status 2 25 ∧ ResetNoted t 4 0 true 0)) ∧
    (cool → s.mem.chans = [] → ∃ t, exec .cold s = .next t ∧ t.pending = s.pending ∧ Clean t ∧ t.flash = s.flash ∧
      (∀ a, Memory.get t.mem.bytes a = 0) ∧ (∀ a, Memory.get t.ls a = 0) ∧ (∀ n, t.tile n = {}) ∧ t.esc = State.reset.esc ∧
      t.cfg = State.reset.cfg ∧ t.host.link = .detectQuiet ∧ t.slice = State.reset.slice ∧ t.ras.fault0 = 0 ∧ t.ras.status = State.reset.ras.status ∧ t.host.queues = [] ∧
      bitOf t.hang.status 3 = s.flash.outOfService ∧ ResetNoted t 5 0 true 0) ∧
    (bitOf s.hang.resetStatus 3 = true → fld s.hang.resetStatus 0 3 ≤ 3 → Does .resetComplete s [.hang, .chans] fun t =>
      t.hang = { s.hang with resetStatus := t.hang.resetStatus, replayBeat := s.esc.beat } ∧
      bitOf t.hang.resetStatus 3 = false ∧ fld t.hang.resetStatus 4 3 = 1 ∧
      ∀ j, t.chan j = if fld s.hang.resetStatus 0 3 = 3 ∧ j = fld s.hang.resetStatus 8 16 ∧ (s.chan j).st = 1
        then { s.chan j with st := 2 } else s.chan j) ∧
    (bitOf s.hang.resetStatus 3 = false → Does .resetComplete s [] fun _ => True)

/-! ## Power, coolant and start-up (chapter 18) -/

/-- A power sample enters the average A of the newest 100, the peak and CROWN_UPTIME, and while no beats are counted an A above CAP_W
lowers the tile clock by 100 MHz. A die at 110 °C or more raises DIE_OVERTEMP; an input below 40.0 V, or PWR_EN low, raises POWER_RAIL
and stops the main converter at a boundary, an input above 58.0 V at once; 40.0 V to 42.0 V sets INPUT_WARN; a rail outside its limits
raises POWER_RAIL; an inlet above 45 °C or a flow below 9 L/min raises COOLANT, an inlet from 40 °C to 45 °C sets COOLANT_WARN; a
region in RUN whose PLL loses lock raises PLL_UNLOCK (R476, R531, R542, R543, R544, R546, R549, R551, R564). The numbers of the sensors
are the model's free values (log 5). -/
def Obligations.PowerAndEnvironment : Prop :=
  ∀ (s : State) (n m : Nat), Clean s →
    let p := s.power
    let raised := fun (t : State) (f : FaultRec) => t.ras = { s.ras with tree := s.ras.tree ++ [f] }
    let envOnly := fun (t : State) => t.power = { p with env := t.power.env }
    let v := min n 0x1FFFF
    let shows := fun (t : State) (warn : Nat) => envOnly t ∧ fld t.power.env 36 17 = v ∧ fld t.power.env 54 1 = warn ∧
      fld t.power.env 0 36 = fld p.env 0 36
    let samples := (n :: p.samples).take 100
    let a := samples.foldl (· + ·) 0 / samples.length
    (p.pendDelta = none → a < 65536 →
      (s.synced = true → Does (.powerSample n m) s [.power] fun t =>
        t.power = { p with samples := samples, nowUs := m, uptime := p.uptime + BitVec.ofNat 64 (50 * (m - p.nowUs)), pwrStatus := t.power.pwrStatus } ∧
        fld t.power.pwrStatus 0 16 = a ∧ fld t.power.pwrStatus 48 16 = max (fld p.pwrStatus 48 16) (min n 0xFFFF) ∧
        fld t.power.pwrStatus 16 32 = fld p.pwrStatus 16 32) ∧
      (s.synced = false → min 7500 (max 3000 (fld p.pwrCfg 0 16)) < a → 1000 ≤ m - p.lastChange → 700 < fld p.pwrStatus 16 12 →
        Does (.powerSample n m) s [.power] fun t =>
          fld t.power.pwrStatus 0 16 = a ∧ fld t.power.pwrStatus 16 12 = fld p.pwrStatus 16 12 - 100 ∧
          fld t.power.pwrStatus 32 16 = min (fld p.pwrStatus 32 16 + 1) 0xFFFF ∧ t.power.lastChange = m ∧ t.power.env = p.env)) ∧
    (n < 440 → Does (.dieTempSample n) s [.power] fun t => envOnly t ∧ fld t.power.env 24 12 = n ∧ fld t.power.env 0 24 = fld p.env 0 24 ∧
      fld t.power.env 36 28 = fld p.env 36 28) ∧
    (440 ≤ n → Does (.dieTempSample n) s [.power, .ras, .freeCtr] fun t => envOnly t ∧ fld t.power.env 24 12 = min n 0xFFF ∧
      raised t { cause := .dieOvertemp, unit := .sensor, index := (Config.freeValue s.freeCtr).toNat % 2 ^ 20 }) ∧
    (n < 40000 → p.mainOn = true → Does (.inputUndervoltage n) s [.power, .ras] fun t => t.power = { p with env := t.power.env, stopAtBoundary := true } ∧
      fld t.power.env 36 17 = n ∧ raised t { cause := .powerRail, unit := .rail, index := 0, detail := BitVec.ofNat 64 n }) ∧
    (40000 ≤ n ∨ p.mainOn = false → Does (.inputUndervoltage n) s [.power] fun t =>
      shows t (if 40000 ≤ n ∧ n < 42000 ∧ p.mainOn then 1 else 0)) ∧
    (58000 < n → p.mainOn = true → Does (.inputOvervoltage n) s [.power, .ras, .regions, .chans, .ports, .host] fun t =>
      t.power = { p with env := t.power.env, mainOn := false, powerGood := false, stopAtBoundary := false } ∧ t.host.busMaster = false ∧ t.host.link = .detectQuiet ∧
      t.mem.chans = [] ∧ raised t { cause := .powerRail, unit := .rail, index := 0, detail := BitVec.ofNat 64 n }) ∧
    (n ≤ 58000 ∨ p.mainOn = false → Does (.inputOvervoltage n) s [.power] fun t =>
      shows t (if 40000 ≤ n ∧ n < 42000 ∧ p.mainOn then 1 else 0)) ∧
    (Does (.inputWarn n) s [.power] fun t => shows t (if 40000 ≤ n ∧ n < 42000 ∧ p.mainOn then 1 else 0)) ∧
    (Does (.pwrEn true) s [.power] fun t => t.power = { p with pwrEnPin := true }) ∧
    (p.mainOn = true → s.synced = true → Does (.pwrEn false) s [.power, .ras] fun t =>
      t.power = { p with pwrEnPin := false, stopAtBoundary := true } ∧
      raised t { cause := .powerRail, unit := .rail, index := 0, detail := BitVec.ofNat 64 (fld p.env 36 17) }) ∧
    (p.mainOn = false → Does (.pwrEn false) s [.power] fun t => t.power = { p with pwrEnPin := false }) ∧
    (Does (.powerRail n m) s [.ras] fun t => raised t { cause := .powerRail, unit := .rail, index := n, detail := BitVec.ofNat 64 m }) ∧
    (n ≤ 180 → 900 ≤ m → m < 4096 → Does (.coolant n m) s [.power] fun t => envOnly t ∧ fld t.power.env 0 12 = n ∧ fld t.power.env 12 12 = m ∧
      fld t.power.env 53 1 = if 160 ≤ n then 1 else 0) ∧
    (180 < n ∨ m < 900 → Does (.coolant n m) s [.power, .ras, .freeCtr] fun t => envOnly t ∧ fld t.power.env 0 12 = min n 0xFFF ∧
      fld t.power.env 12 12 = min m 0xFFF ∧
      raised t { cause := .coolant, unit := .sensor, index := (Config.freeValue s.freeCtr).toNat % 2 ^ 20 }) ∧
    (Does (.coolantWarn n) s [.power] fun t => envOnly t ∧ fld t.power.env 0 12 = min n 0xFFF ∧
      fld t.power.env 53 1 = if 160 ≤ n ∧ n ≤ 180 then 1 else 0) ∧
    (n < 256 → (s.region n).st = 0 → Does (.pllUnlock n) s [.regions, .ras] fun t =>
      t.region n = { s.region n with lock := false } ∧ (∀ r, r ≠ n → t.region r = s.region r) ∧
      raised t { cause := .pllUnlock, unit := .region, index := n }) ∧
    (256 ≤ n ∨ (s.region n).st ≠ 0 → Does (.pllUnlock n) s [] fun _ => True)

/-- Start-up stages end in order: a failure with a FAIL code of its stage stops start-up with POWER_GOOD low; the ROM stage goes on to
FW_VERIFY, which starts the valid slot with the higher version, A when both are equal; CALIB gives POLICY its start-up value; COOLANT
and MAIN_POWER wait for their conditions, and the converter's start leaves every channel training; STACKS makes them READY and clears
every line where POWER_GOOD is low, and a failure of it leaves the training channels in FAULT; DIES clears every local store, tile and flag;
FABRIC trains each port with ENABLE and a signal; PCIE drives POWER_GOOD high, and the host port leaves Detect.Quiet. COLD_START begins
from reset with what flash keeps. A key is installed or removed unless POLICY is set, the slot does not fit or an operation runs, and
reaches flash at its end (R552, R553, R555, R556, R558). -/
def Obligations.StartUpAndKeys : Prop :=
  ∀ (s : State) (ok : Bool) (code : Nat), Clean s →
    let p := s.power
    let n := fld p.boot 0 4
    let running := fld p.boot 4 8 = 0
    let moves := fun (t : State) (k : Nat) => fld t.power.boot 0 4 = k ∧ fld t.power.boot 4 8 = 0 ∧
      t.power = { p with boot := t.power.boot, powerGood := t.power.powerGood, mainOn := t.power.mainOn }
    let same := fun (t : State) => t.power.powerGood = p.powerGood ∧ t.power.mainOn = p.mainOn
    let slot := fld p.keyCtrl 0 2
    let held := (afind s.flash.keys slot).isSome
    let keyed := fun (t : State) (r : Nat) => t.power = { p with keyCtrl := t.power.keyCtrl, keyRun := t.power.keyRun } ∧
      fld t.power.keyCtrl 4 3 = r ∧ fld t.power.keyCtrl 0 4 = fld p.keyCtrl 0 4
    (¬ running ∨ 9 ≤ n → Does (.bootStageComplete ok code) s [] fun _ => True) ∧
    (running → n < 9 → code ∈ stageFails n → Does (.bootStageComplete false code) s (if n = 5 then [.power, .chans] else [.power]) fun t =>
      fld t.power.boot 4 8 = code ∧ fld t.power.boot 0 4 = n ∧ t.power = { p with boot := t.power.boot, powerGood := false } ∧
      (n = 5 → ∀ c, t.chan c = if (s.chan c).st = 1 then { s.chan c with st := 5 } else s.chan c)) ∧
    (running → n = 0 → Does (.bootStageComplete true code) s [.power] fun t => moves t 1 ∧ same t) ∧
    (running → n = 1 → (∀ i, s.fwChoice = some i → i < 2 → Does (.bootStageComplete true code) s [.power] fun t => moves t 2 ∧ same t ∧
        fld t.power.boot 12 1 = i ∧ fld t.power.boot 32 32 = (s.fwSlot i).2 % 2 ^ 32) ∧
      (s.fwChoice = none → Does (.bootStageComplete true code) s [.power] fun t => fld t.power.boot 4 8 = 1 ∧ fld t.power.boot 0 4 = 1)) ∧
    (running → n = 2 → Does (.bootStageComplete true code) s [.power, .cfg] fun t => moves t 3 ∧ same t ∧
      t.cfg = { s.cfg with secure := t.cfg.secure } ∧ bitOf t.cfg.secure 0 = s.flash.policyRecord) ∧
    (running → n = 3 → (900 ≤ fld p.env 12 12 ∧ fld p.env 0 12 ≤ 180 → Does (.bootStageComplete true code) s [.power] fun t => moves t 4 ∧ same t) ∧
      (fld p.env 12 12 < 900 ∨ 180 < fld p.env 0 12 → Does (.bootStageComplete true code) s [] fun _ => True)) ∧
    (running → n = 4 → (p.pwrEnPin = true ∧ 42000 ≤ fld p.env 36 17 → Does (.bootStageComplete true code) s [.power, .chans] fun t =>
        moves t 5 ∧ t.power.mainOn = true ∧ t.power.powerGood = p.powerGood ∧ ∀ c, c < 1536 → (t.chan c).st = 1) ∧
      (p.pwrEnPin = false ∨ fld p.env 36 17 < 42000 → Does (.bootStageComplete true code) s [] fun _ => True)) ∧
    (running → n = 5 → Does (.bootStageComplete true code) s ([.power, .chans, .stks] ++ if p.powerGood then [] else [.bytes, .memMarks]) fun t =>
      moves t 6 ∧ same t ∧ (∀ k, t.stack k = if k < 12 then { s.stack k with counting := true } else s.stack k) ∧ (∀ c, t.chan c = if (s.chan c).st = 1 then { s.chan c with st := 2 } else s.chan c) ∧
      (p.powerGood = false → t.mem.marks = [] ∧ ∀ a, Memory.get t.mem.bytes a = 0)) ∧
    (running → n = 6 → Does (.bootStageComplete true code) s [.power, .tiles, .ls, .lsMarks, .flags] fun t => moves t 7 ∧ same t ∧
      (∀ k, t.tile k = {}) ∧ (∀ a, Memory.get t.ls a = 0) ∧ t.lsMarks = [] ∧ t.host.flags = [] ∧ t.host.flagMarks = []) ∧
    (running → n = 7 → Does (.bootStageComplete true code) s [.power, .ports] fun t => moves t (if p.powerGood then 9 else 8) ∧ same t ∧
      ∀ k, (t.port k).st = if k < Config.ports ∧ (s.port k).st = 0 ∧ (s.port k).enable ∧ (s.port k).signal then 1 else (s.port k).st) ∧
    (running → n = 8 → Does (.bootStageComplete true code) s [.power, .host] fun t => moves t 9 ∧ t.power.powerGood = true ∧
      t.power.mainOn = p.mainOn ∧ t.host = { s.host with link := .l0 }) ∧
    (∃ t, exec .coldStart s = .next t ∧ t.pending = s.pending ∧ Clean t ∧ t.flash = s.flash ∧ fld t.power.boot 0 12 = 0 ∧
      t.power.pwrEnPin = true ∧ t.power.powerGood = false ∧ (∀ a, Memory.get t.mem.bytes a = 0) ∧ (∀ k, t.tile k = {}) ∧
      t.esc = State.reset.esc ∧ t.cfg = State.reset.cfg ∧ t.host.link = .detectQuiet ∧ t.host.queues = []) ∧
    (p.keyRun ≠ none → (Does .install s [.power] fun t => keyed t 6 ∧ t.power.keyRun = p.keyRun) ∧
      Does .remove s [.power] fun t => keyed t 6 ∧ t.power.keyRun = p.keyRun) ∧
    (p.keyRun = none → bitOf s.cfg.secure 0 = true → (Does .install s [.power] fun t => keyed t 2 ∧ t.power.keyRun = none) ∧
      Does .remove s [.power] fun t => keyed t 2 ∧ t.power.keyRun = none) ∧
    (p.keyRun = none → bitOf s.cfg.secure 0 = false →
      (held → (Does .install s [.power] fun t => keyed t 3 ∧ t.power.keyRun = none) ∧
        Does .remove s [.power] fun t => keyed t 0 ∧ t.power.keyRun = some (slot, [])) ∧
      (¬ held → (Does .remove s [.power] fun t => keyed t 5 ∧ t.power.keyRun = none) ∧
        ∀ (bs : List Byte) (u : State), s.rdMem (gaOff p.keyAddr) 64 = (bs, none, u) → s.ownMem p.keyAddr = true →
          (smOnCurve (ofBe (bs.take 32)) (ofBe (bs.drop 32)) = true → Does .install s ([.power] ++ engineParts) fun t =>
            keyed t 0 ∧ t.power.keyRun = some (slot, bs)) ∧
          (smOnCurve (ofBe (bs.take 32)) (ofBe (bs.drop 32)) = false → Does .install s ([.power] ++ engineParts) fun t =>
            keyed t 4 ∧ t.power.keyRun = none))) ∧
    (∀ (k : Nat) (bs : List Byte), p.keyRun = some (k, bs) → Does .keyOperationDone s [.power, .cfg, .flash] fun t =>
      keyed t 1 ∧ t.power.keyRun = none ∧ t.flash = { s.flash with keys := t.flash.keys } ∧
      (∀ j, afind t.flash.keys j = if j = k then (if bs = [] then none else some bs) else afind s.flash.keys j) ∧
      t.cfg = { s.cfg with secure := t.cfg.secure })

/-- ATTESTATION_GO latches the report on the state at the boundary, and is ignored while one is BUSY; the report ends DONE with its 320 bytes
written, FAILED where it has no place in the module's memory or cannot be written there. A certificate of a reserved INDEX, or one without a place, ends FAILED, any
other DONE with its LENGTH. A copy to the running firmware slot or to a slot above 17, and one from outside the module's memory, ends
FAILED; any other copy empties its slot and, at its end, writes it, or ends FAILED where its source cannot be read (R559, R560, R561). That a reserved INDEX or slot ends
FAILED is the model's choice (log 72). -/
def Obligations.AttestationAndFlash : Prop :=
  ∀ (s u v : State) (e e2 : Option DropCause), Clean s →
    let p := s.power
    let att := fun (t : State) (st : Nat) => fld t.power.attCtrl 1 2 = st ∧ t.power = { p with attCtrl := t.power.attCtrl, attReport := t.power.attReport }
    let cert := fun (t : State) (st len : Nat) => fld t.power.certCtrl 3 2 = st ∧ fld t.power.certCtrl 16 16 = len ∧
      t.power = { p with certCtrl := t.power.certCtrl }
    let flash := fun (t : State) (st : Nat) => fld t.power.flashCtrl 6 2 = st ∧ fld t.power.flashCtrl 0 5 = fld p.flashCtrl 0 5 ∧
      t.power = { p with flashCtrl := t.power.flashCtrl, flashAfter := t.power.flashAfter, flashRun := t.power.flashRun }
    let empties := fun (t : State) (j : Nat) => t.flash = { s.flash with images := t.flash.images, firmware := t.flash.firmware
                                                                         fwValid := if j < 16 then s.flash.fwValid else s.flash.fwValid.erase (j - 16) }
    let slots := fun (t : State) (j : Nat) (x : Option (List Byte)) =>
      (∀ i, afind t.flash.images i = if i = j ∧ j < 16 then x else afind s.flash.images i) ∧
      ∀ i, afind t.flash.firmware i = if i = j - 16 ∧ 16 ≤ j then x else afind s.flash.firmware i
    let k := fld p.flashCtrl 0 5
    (fld p.attCtrl 1 2 = 1 → Does .attestationGo s [] fun _ => True) ∧
    (fld p.attCtrl 1 2 ≠ 1 → Does .attestationGo s [.power] fun t => att t 1 ∧ t.power.attReport = some s.attBytes) ∧
    (p.attReport = none → Does .attestationReportDone s [] fun _ => True) ∧
    (∀ bs, p.attReport = some bs →
      let signed := bs ++ leBytes 32 (Config.identitySign bs).1.toNat ++ leBytes 32 (Config.identitySign bs).2.toNat
      (s.ownMem p.attAddr = false → Does .attestationReportDone s [.power] fun t => att t 3 ∧ t.power.attReport = none) ∧
      (s.ownMem p.attAddr = true → s.wrMem (gaOff p.attAddr) signed = (e, u) → Does .attestationReportDone s ([.power] ++ engineParts) fun t =>
        att t (if e = none then 2 else 3) ∧ t.power.attReport = none)) ∧
    (fld p.certCtrl 0 2 = 3 ∨ s.ownMem p.attAddr = false → Does .certificateGo s [.power] fun t => cert t 3 0) ∧
    (fld p.certCtrl 0 2 ≠ 3 → s.ownMem p.attAddr = true → s.wrMem (gaOff p.attAddr) (Config.certificate (fld p.certCtrl 0 2)) = (e, u) →
      Does .certificateGo s ([.power] ++ engineParts) fun t =>
        cert t (if e = none then 2 else 3) (if e = none then (Config.certificate (fld p.certCtrl 0 2)).length % 65536 else 0)) ∧
    (fld p.flashCtrl 6 2 = 1 → Does .flashCopyGo s [] fun _ => True) ∧
    (∀ n, fld p.flashCtrl 6 2 ≠ 1 → s.flashLen k p.flashSrc = (n, e, u) →
      let no := 17 < k ∨ (16 ≤ k ∧ k - 16 = fld p.boot 12 1) ∨ e ≠ none ∨ s.ownMem p.flashSrc = false ∨ 2 ^ 31 < n
      let reads := if k < 16 then engineParts else []
      (no → Does .flashCopyGo s ([.power] ++ reads) fun t => flash t 3 ∧ t.power.flashAfter = p.flashAfter ∧
        t.power.flashRun = p.flashRun) ∧
      (¬ no → s.ras.run = none → Does .flashCopyGo s ([.power, .flash] ++ reads) fun t => flash t 1 ∧ t.power.flashAfter = none ∧
        t.power.flashRun = some (k, p.flashSrc) ∧ empties t k ∧ slots t k none)) ∧
    (fld p.flashCtrl 6 2 ≠ 1 ∨ p.flashRun = none → Does .flashCopyDone s [] fun _ => True) ∧
    (∀ (j n : Nat) (src : W64) (bs : List Byte), fld p.flashCtrl 6 2 = 1 → p.flashRun = some (j, src) → s.ras.run = none →
      s.flashLen j src = (n, e, u) → u.rdMem (gaOff src) n = (bs, e2, v) →
      Does .flashCopyDone s ([.power, .flash] ++ engineParts) fun t => t.power.flashAfter = none ∧ t.power.flashRun = none ∧
        (e = none → e2 = none → flash t 2 ∧ t.flash = { s.flash with images := t.flash.images, firmware := t.flash.firmware } ∧
          slots t j (some bs)) ∧
        (e ≠ none ∨ e2 ≠ none → flash t 3 ∧ t.flash = s.flash))

end
end

