-- ==== Sys2Proof/Laws/Bits.lean ====
section
/-! SUPPORT. Laws of the fields of packed registers (R14): what a field reads after a field was set, and little-endian bytes. -/

namespace Sys2Proof.Machine

/-- Bit i of a register with a field replaced. -/
theorem testBit_setFld (w : W64) (lo len v i : Nat) (h : lo + len ≤ 64) :
    (setFld w lo len v).toNat.testBit i =
      if lo ≤ i ∧ i < lo + len then v.testBit (i - lo) else w.toNat.testBit i := by
  have hw : w.toNat < 2 ^ 64 := w.isLt
  by_cases hi : 64 ≤ i
  · have h1 : (setFld w lo len v).toNat < 2 ^ i := Nat.lt_of_lt_of_le (setFld w lo len v).isLt (Nat.pow_le_pow_right (by decide) hi)
    have h2 : w.toNat < 2 ^ i := Nat.lt_of_lt_of_le hw (Nat.pow_le_pow_right (by decide) hi)
    rw [Nat.testBit_lt_two_pow h1, Nat.testBit_lt_two_pow h2, if_neg (by omega)]
  · have e : w.toNat % 2 ^ lo + (v % 2 ^ len) * 2 ^ lo + (w.toNat >>> (lo + len)) * 2 ^ (lo + len) =
        2 ^ (lo + len) * (w.toNat >>> (lo + len)) + (2 ^ lo * (v % 2 ^ len) + w.toNat % 2 ^ lo) := by
      rw [Nat.mul_comm (v % 2 ^ len), Nat.mul_comm (w.toNat >>> (lo + len))]; omega
    have hlow : w.toNat % 2 ^ lo < 2 ^ lo := Nat.mod_lt _ (Nat.two_pow_pos lo)
    have hv : v % 2 ^ len < 2 ^ len := Nat.mod_lt _ (Nat.two_pow_pos len)
    have hmid : 2 ^ lo * (v % 2 ^ len) + w.toNat % 2 ^ lo < 2 ^ (lo + len) := by
      calc 2 ^ lo * (v % 2 ^ len) + w.toNat % 2 ^ lo < 2 ^ lo * (v % 2 ^ len) + 2 ^ lo := by omega
        _ = 2 ^ lo * (v % 2 ^ len + 1) := by rw [Nat.mul_add, Nat.mul_one]
        _ ≤ 2 ^ lo * 2 ^ len := Nat.mul_le_mul_left _ hv
        _ = 2 ^ (lo + len) := (Nat.pow_add 2 lo len).symm
    simp only [setFld, BitVec.toNat_ofNat, Nat.testBit_mod_two_pow, e]
    rw [Nat.testBit_two_pow_mul_add _ hmid, Nat.testBit_two_pow_mul_add _ hlow]
    have hi' : i < 64 := by omega
    by_cases c1 : i < lo
    · have c2 : i < lo + len := by omega
      have c3 : ¬ (lo ≤ i) := by omega
      simp [hi', c1, c2, c3]
    · by_cases c2 : i < lo + len
      · have c3 : lo ≤ i := by omega
        have c4 : i - lo < len := by omega
        simp [hi', c1, c2, c3, c4]
      · have : lo + len + (i - (lo + len)) = i := by omega
        simp [hi', c2, this]

theorem testBit_fld (w : W64) (lo len i : Nat) : (fld w lo len).testBit i = (decide (i < len) && w.toNat.testBit (lo + i)) := by
  simp [fld]

/-- A field reads what was written into it, cut to its width. -/
@[simp] theorem fld_setFld (w : W64) (lo len v : Nat) (h : lo + len ≤ 64) : fld (setFld w lo len v) lo len = v % 2 ^ len := by
  apply Nat.eq_of_testBit_eq
  intro i
  rw [testBit_fld, testBit_setFld _ _ _ _ _ h, Nat.testBit_mod_two_pow]
  by_cases hi : i < len
  · rw [if_pos (by omega)]; simp [hi]
  · simp [hi]

/-- A field reads what it held when another field was written. -/
theorem fld_setFld_ne (w : W64) (lo len v lo' len' : Nat) (h : lo + len ≤ 64) (h' : lo' + len' ≤ lo ∨ lo + len ≤ lo') :
    fld (setFld w lo len v) lo' len' = fld w lo' len' := by
  apply Nat.eq_of_testBit_eq
  intro i
  rw [testBit_fld, testBit_setFld _ _ _ _ _ h, testBit_fld]
  by_cases hi : i < len'
  · rw [if_neg (by omega)]
  · simp [hi]

/-- A field lies below 2 to its width. -/
theorem fld_lt (w : W64) (lo len : Nat) : fld w lo len < 2 ^ len := Nat.mod_lt _ (Nat.two_pow_pos len)

/-- A bit reads what was written into it. -/
@[simp] theorem bitOf_setBit (w : W64) (i : Nat) (b : Bool) (h : i < 64) : bitOf (setBit w i b) i = b := by
  cases b <;> simp [bitOf, setBit, fld_setFld _ _ _ _ (show i + 1 ≤ 64 by omega)]

/-- A bit reads what it held when another bit was written. -/
theorem bitOf_setBit_ne (w : W64) (i j : Nat) (b : Bool) (h : i < 64) (hij : i ≠ j) : bitOf (setBit w i b) j = bitOf w j := by
  simp only [bitOf, setBit]
  rw [fld_setFld_ne _ _ _ _ _ _ (by omega) (by omega)]

/-- A field without bit i reads what it held when the bit was written. -/
theorem fld_setBit_ne (w : W64) (i lo len : Nat) (b : Bool) (h : i < 64) (h' : lo + len ≤ i ∨ i < lo) :
    fld (setBit w i b) lo len = fld w lo len := by
  simp only [setBit]
  rw [fld_setFld_ne _ _ _ _ _ _ (by omega) (by omega)]

/-- A bit outside a field reads what it held when the field was written. -/
theorem bitOf_setFld_ne (w : W64) (lo len v j : Nat) (h : lo + len ≤ 64) (hj : j < lo ∨ lo + len ≤ j) :
    bitOf (setFld w lo len v) j = bitOf w j := by
  simp only [bitOf]
  rw [fld_setFld_ne _ _ _ _ _ _ h (by omega)]

/-- `n` bytes have length `n`. -/
@[simp] theorem leBytes_length (n v : Nat) : (leBytes n v).length = n := by
  induction n generalizing v with
  | zero => rfl
  | succ n ih => simp [leBytes, ih]

/-- The bytes of a value, read back, give its value modulo 2 to the number of bits (R14). -/
theorem ofLe_leBytes (n v : Nat) : ofLe (leBytes n v) = v % 2 ^ (8 * n) := by
  induction n generalizing v with
  | zero => simp [leBytes, ofLe, Nat.mod_one]
  | succ n ih =>
    simp only [leBytes, ofLe, ih, BitVec.toNat_ofNat]
    have h : 2 ^ (8 * (n + 1)) = 2 ^ 8 * 2 ^ (8 * n) := by rw [← Nat.pow_add]; congr 1; omega
    rw [h, Nat.mod_mul, Nat.shiftRight_eq_div_pow]
    norm_num

end Sys2Proof.Machine
end

