-- ==== Sys2Proof/Laws/Store.lean ====
section
/-! SUPPORT. Laws of the sparse maps and of byte memories: a read after a write, and that every memory operation keeps the canonical
form. The read laws hold of any list, sorted or not. -/

namespace Sys2Proof.Machine

variable {α : Type}

@[simp] theorem aget_nil (d : α) (k : Nat) : aget d [] k = d := rfl
@[simp] theorem afind_nil (k : Nat) : afind ([] : Assoc α) k = none := rfl

theorem aget_eq_afind (d : α) (m : Assoc α) (k : Nat) : aget d m k = (afind m k).getD d := by
  induction m with
  | nil => rfl
  | cons p r ih => by_cases h : p.1 = k <;> simp [aget, afind, h, ih]

theorem afind_adel (m : Assoc α) (k j : Nat) : afind (adel m k) j = if j = k then none else afind m j := by
  induction m with
  | nil => simp [adel]
  | cons p r ih =>
    simp only [adel, List.filter_cons] at *
    by_cases h : p.1 = k <;> by_cases h' : p.1 = j <;> by_cases h'' : j = k <;> simp_all [afind]

theorem afind_ains (m : Assoc α) (k j : Nat) (v : α) (hk : afind m k = none) :
    afind (ains m k v) j = if j = k then some v else afind m j := by
  induction m with
  | nil => by_cases h : k = j <;> simp [ains, afind, h, eq_comm]
  | cons p r ih =>
    by_cases hp : p.1 = k
    · simp [afind, hp] at hk
    · simp only [afind, hp, if_false] at hk
      by_cases hlt : k < p.1
      · by_cases hj : j = k
        · subst hj; simp [ains, afind, hlt]
        · have : ¬ k = j := fun e => hj e.symm
          simp [ains, afind, hlt, hj, this]
      · by_cases hpj : p.1 = j
        · have : ¬ j = k := fun e => hp (hpj.trans e)
          subst hpj; simp [ains, hlt, afind, this]
        · simp [ains, afind, hlt, hpj, ih hk]

@[simp] theorem afind_aput (m : Assoc α) (k j : Nat) (v : α) :
    afind (aput m k v) j = if j = k then some v else afind m j := by
  by_cases h : j = k <;> simp [aput, afind_ains, afind_adel, h]

@[simp] theorem aget_aput (d : α) (m : Assoc α) (k j : Nat) (v : α) :
    aget d (aput m k v) j = if j = k then v else aget d m j := by
  by_cases h : j = k <;> simp [aget_eq_afind, h]

@[simp] theorem aget_aset [DecidableEq α] (d : α) (m : Assoc α) (k j : Nat) (v : α) :
    aget d (aset d m k v) j = if j = k then v else aget d m j := by
  by_cases hv : v = d
  · by_cases h : j = k <;> simp [aset, hv, h, aget_eq_afind, afind_adel]
  · simp [aset, hv]

theorem aget_amap [DecidableEq α] (d : α) (f : α → α) (m : Assoc α) (k : Nat) :
    aget (f d) (amap (f d) f m) k = f (aget d m k) := by
  induction m with
  | nil => rfl
  | cons p r ih =>
    simp only [amap, List.foldr_cons] at *
    by_cases h : p.1 = k
    · subst h; simp [aget]
    · have : ¬ k = p.1 := fun e => h e.symm
      simp [aget, h, this, ih]

/-- A byte read after a write. -/
@[simp] theorem Memory.get_put (m : Memory) (a x : Nat) (b : Byte) :
    (Memory.put m a b).get x = if x = a then b else m.get x := aget_aset _ _ _ _ _

/-- A byte read after a list of writes, the newest first. -/
theorem Memory.get_apply (m : Memory) (w : List Host.Cell) (x : Nat) :
    (Memory.apply m w).get x = (afind w x).getD (m.get x) := by
  induction w with
  | nil => rfl
  | cons p r ih =>
    simp only [Memory.apply, List.foldr_cons] at *
    by_cases h : p.1 = x
    · subst h; simp [afind]
    · have : ¬ x = p.1 := fun e => h e.symm
      simp [afind, h, this, ih]

/-! ## The canonical form -/

theorem Memory.wfFrom_mono {lo lo' : Nat} {m : Memory} (h : Memory.wfFrom lo m = true) (hl : lo' ≤ lo) :
    Memory.wfFrom lo' m = true := by
  cases m with
  | nil => rfl
  | cons p r =>
    simp only [Memory.wfFrom, Bool.and_eq_true, decide_eq_true_eq] at *
    exact ⟨⟨Nat.le_trans hl h.1.1, h.1.2⟩, h.2⟩

theorem Memory.wfFrom_adel {lo : Nat} {m : Memory} (h : Memory.wfFrom lo m = true) (k : Nat) :
    Memory.wfFrom lo (adel m k) = true := by
  induction m generalizing lo with
  | nil => rfl
  | cons p r ih =>
    simp only [Memory.wfFrom, Bool.and_eq_true, decide_eq_true_eq] at h
    by_cases hp : p.1 = k
    · simpa [adel, List.filter_cons, hp] using Memory.wfFrom_mono (ih h.2) (by omega)
    · have := ih h.2
      simp only [adel] at this
      simp [adel, hp, Memory.wfFrom, h.1.1, h.1.2, this]

theorem Memory.wfFrom_ains {lo k : Nat} {m : Memory} {b : Byte} (h : Memory.wfFrom lo m = true) (hk : afind m k = none)
    (hb : b ≠ 0#8) (hl : lo ≤ k) : Memory.wfFrom lo (ains m k b) = true := by
  induction m generalizing lo with
  | nil => simp [ains, Memory.wfFrom, hl, hb]
  | cons p r ih =>
    simp only [Memory.wfFrom, Bool.and_eq_true, decide_eq_true_eq] at h
    by_cases hp : p.1 = k
    · simp [afind, hp] at hk
    · simp only [afind, hp, if_false] at hk
      by_cases hlt : k < p.1
      · simp only [ains, hlt, if_true, Memory.wfFrom, Bool.and_eq_true, decide_eq_true_eq]
        exact ⟨⟨hl, by simpa using hb⟩, ⟨⟨hlt, h.1.2⟩, h.2⟩⟩
      · simp only [ains, hlt, if_false, Memory.wfFrom, Bool.and_eq_true, decide_eq_true_eq]
        exact ⟨⟨h.1.1, h.1.2⟩, ih h.2 hk (by omega)⟩

/-- A write of one byte keeps the canonical form. -/
theorem Memory.wf_put {m : Memory} (h : m.wf = true) (a : Nat) (b : Byte) : (Memory.put m a b).wf = true := by
  unfold Memory.put aset
  split
  · exact Memory.wfFrom_adel h a
  · exact Memory.wfFrom_ains (Memory.wfFrom_adel h a) (by simp [afind_adel]) ‹_› (Nat.zero_le a)

/-- A list of writes keeps the canonical form. -/
theorem Memory.wf_apply {m : Memory} (h : m.wf = true) (w : List Host.Cell) : (Memory.apply m w).wf = true := by
  induction w with
  | nil => exact h
  | cons p r ih => exact Memory.wf_put ih p.1 p.2

/-- Canonical memories that read alike from `lo` up are equal data. -/
theorem Memory.wfFrom_get_lt {lo : Nat} {m : Memory} (h : Memory.wfFrom lo m = true) {x : Nat} (hx : x < lo) : m.get x = 0#8 := by
  induction m generalizing lo with
  | nil => rfl
  | cons p r ih =>
    simp only [Memory.wfFrom, Bool.and_eq_true, decide_eq_true_eq] at h
    have hp : ¬ p.1 = x := by omega
    simp only [Memory.get, aget, hp, if_false]
    exact ih h.2 (by omega)

/-- Equal memories are equal data: two canonical memories that read alike at every address are the same list. -/
theorem Memory.wf_ext {m n : Memory} (hm : m.wf = true) (hn : n.wf = true) (h : ∀ x, m.get x = n.get x) : m = n := by
  have key : ∀ (m n : Memory) (lo lo' : Nat), Memory.wfFrom lo m = true → Memory.wfFrom lo' n = true →
      (∀ x, m.get x = n.get x) → m = n := by
    intro m
    induction m with
    | nil =>
      intro n lo lo' _ hn h
      cases n with
      | nil => rfl
      | cons q r =>
        simp only [Memory.wfFrom, Bool.and_eq_true, decide_eq_true_eq] at hn
        have := h q.1
        simp only [Memory.get, aget, if_true] at this
        exact absurd this.symm (by simpa using hn.1.2)
    | cons p r ih =>
      intro n lo lo' hm hn h
      simp only [Memory.wfFrom, Bool.and_eq_true, decide_eq_true_eq] at hm
      cases n with
      | nil =>
        have := h p.1
        simp only [Memory.get, aget, if_true] at this
        exact absurd this (by simpa using hm.1.2)
      | cons q t =>
        simp only [Memory.wfFrom, Bool.and_eq_true, decide_eq_true_eq] at hn
        have hp := h p.1
        have hq := h q.1
        have hpq : p.1 = q.1 := by
          rcases Nat.lt_trichotomy p.1 q.1 with hlt | he | hgt
          · have h1 : Memory.get (q :: t) p.1 = 0#8 :=
              Memory.wfFrom_get_lt (lo := q.1) (by simp [Memory.wfFrom, hn.1.2, hn.2]) hlt
            rw [h1] at hp
            simp only [Memory.get, aget, if_true] at hp
            exact absurd hp (by simpa using hm.1.2)
          · exact he
          · have h1 : Memory.get (p :: r) q.1 = 0#8 :=
              Memory.wfFrom_get_lt (lo := p.1) (by simp [Memory.wfFrom, hm.1.2, hm.2]) hgt
            rw [h1] at hq
            simp only [Memory.get, aget, if_true] at hq
            exact absurd hq.symm (by simpa using hn.1.2)
        have hv : p.2 = q.2 := by simpa [Memory.get, aget, hpq] using hp
        have hr : r = t := by
          refine ih t (p.1 + 1) (q.1 + 1) hm.2 hn.2 fun x => ?_
          by_cases hx : x < p.1 + 1
          · rw [Memory.wfFrom_get_lt hm.2 hx, Memory.wfFrom_get_lt hn.2 (by omega)]
          · have := h x
            have hx' : ¬ p.1 = x := by omega
            have hx'' : ¬ q.1 = x := by omega
            simpa [Memory.get, aget, hx', hx''] using this
        rw [hr, Prod.ext hpq hv]
  exact key m n 0 0 hm hn h

end Sys2Proof.Machine
end

