-- ==== Sys2Proof/Laws/State.lean ====
section
/-! SUPPORT. One lemma per field per update: what each named update leaves unchanged, true by rfl, and what it writes. -/

namespace Sys2Proof.Machine

variable (s : State)

/-! ### State.setTile -/

@[simp] theorem State.setTile_pending (t : Nat) (x : Tile) : (s.setTile t x).pending = s.pending := rfl
@[simp] theorem State.setTile_tileDef (t : Nat) (x : Tile) : (s.setTile t x).tileDef = s.tileDef := rfl
@[simp] theorem State.setTile_regions (t : Nat) (x : Tile) : (s.setTile t x).regions = s.regions := rfl
@[simp] theorem State.setTile_ls (t : Nat) (x : Tile) : (s.setTile t x).ls = s.ls := rfl
@[simp] theorem State.setTile_lsMarks (t : Nat) (x : Tile) : (s.setTile t x).lsMarks = s.lsMarks := rfl
@[simp] theorem State.setTile_lsLog (t : Nat) (x : Tile) : (s.setTile t x).lsLog = s.lsLog := rfl
@[simp] theorem State.setTile_memLog (t : Nat) (x : Tile) : (s.setTile t x).memLog = s.memLog := rfl
@[simp] theorem State.setTile_lsWipe (t : Nat) (x : Tile) : (s.setTile t x).lsWipe = s.lsWipe := rfl
@[simp] theorem State.setTile_memWipe (t : Nat) (x : Tile) : (s.setTile t x).memWipe = s.memWipe := rfl
@[simp] theorem State.setTile_mesh (t : Nat) (x : Tile) : (s.setTile t x).mesh = s.mesh := rfl
@[simp] theorem State.setTile_meshTc (t : Nat) (x : Tile) : (s.setTile t x).meshTc = s.meshTc := rfl
@[simp] theorem State.setTile_answers (t : Nat) (x : Tile) : (s.setTile t x).answers = s.answers := rfl
@[simp] theorem State.setTile_cwld (t : Nat) (x : Tile) : (s.setTile t x).cwld = s.cwld := rfl
@[simp] theorem State.setTile_nan (t : Nat) (x : Tile) : (s.setTile t x).nan = s.nan := rfl
@[simp] theorem State.setTile_solvCtrl (t : Nat) (x : Tile) : (s.setTile t x).solvCtrl = s.solvCtrl := rfl
@[simp] theorem State.setTile_laths (t : Nat) (x : Tile) : (s.setTile t x).laths = s.laths := rfl
@[simp] theorem State.setTile_slots (t : Nat) (x : Tile) : (s.setTile t x).slots = s.slots := rfl
@[simp] theorem State.setTile_ctxs (t : Nat) (x : Tile) : (s.setTile t x).ctxs = s.ctxs := rfl
@[simp] theorem State.setTile_train (t : Nat) (x : Tile) : (s.setTile t x).train = s.train := rfl
@[simp] theorem State.setTile_esc (t : Nat) (x : Tile) : (s.setTile t x).esc = s.esc := rfl
@[simp] theorem State.setTile_mem (t : Nat) (x : Tile) : (s.setTile t x).mem = s.mem := rfl
@[simp] theorem State.setTile_fab (t : Nat) (x : Tile) : (s.setTile t x).fab = s.fab := rfl
@[simp] theorem State.setTile_slice (t : Nat) (x : Tile) : (s.setTile t x).slice = s.slice := rfl
@[simp] theorem State.setTile_cfg (t : Nat) (x : Tile) : (s.setTile t x).cfg = s.cfg := rfl
@[simp] theorem State.setTile_host (t : Nat) (x : Tile) : (s.setTile t x).host = s.host := rfl
@[simp] theorem State.setTile_ras (t : Nat) (x : Tile) : (s.setTile t x).ras = s.ras := rfl
@[simp] theorem State.setTile_hang (t : Nat) (x : Tile) : (s.setTile t x).hang = s.hang := rfl
@[simp] theorem State.setTile_power (t : Nat) (x : Tile) : (s.setTile t x).power = s.power := rfl
@[simp] theorem State.setTile_flash (t : Nat) (x : Tile) : (s.setTile t x).flash = s.flash := rfl
@[simp] theorem State.setTile_freeCtr (t : Nat) (x : Tile) : (s.setTile t x).freeCtr = s.freeCtr := rfl
@[simp] theorem State.setTile_region_at (t : Nat) (x : Tile) (ix : Nat) : (s.setTile t x).region ix = s.region ix := by unfold State.region; rfl
@[simp] theorem State.setTile_chan_at (t : Nat) (x : Tile) (ix : Nat) : (s.setTile t x).chan ix = s.chan ix := by unfold State.chan; rfl
@[simp] theorem State.setTile_stack_at (t : Nat) (x : Tile) (ix : Nat) : (s.setTile t x).stack ix = s.stack ix := by unfold State.stack; rfl
@[simp] theorem State.setTile_port_at (t : Nat) (x : Tile) (ix : Nat) : (s.setTile t x).port ix = s.port ix := by unfold State.port; rfl
@[simp] theorem State.setTile_queue_at (t : Nat) (x : Tile) (ix : Nat) : (s.setTile t x).queue ix = s.queue ix := by unfold State.queue; rfl
@[simp] theorem State.setTile_slot_at (t : Nat) (x : Tile) (ix : Nat) : (s.setTile t x).slot ix = s.slot ix := by unfold State.slot; rfl
@[simp] theorem State.setTile_ctx_at (t : Nat) (x : Tile) (ix : Nat) : (s.setTile t x).ctx ix = s.ctx ix := by unfold State.ctx; rfl
@[simp] theorem State.setTile_lsByte_at (t : Nat) (x : Tile) (ix iy : Nat) : (s.setTile t x).lsByte ix iy = s.lsByte ix iy := by unfold State.lsByte; rfl
@[simp] theorem State.setTile_memByte_at (t : Nat) (x : Tile) (ix : Nat) : (s.setTile t x).memByte ix = s.memByte ix := by unfold State.memByte; rfl
@[simp] theorem State.setTile_lsMark_at (t : Nat) (x : Tile) (ix iy : Nat) : (s.setTile t x).lsMark ix iy = s.lsMark ix iy := by unfold State.lsMark; rfl

/-! ### State.updTile -/

@[simp] theorem State.updTile_pending (t : Nat) (f : Tile → Tile) : (s.updTile t f).pending = s.pending := rfl
@[simp] theorem State.updTile_tileDef (t : Nat) (f : Tile → Tile) : (s.updTile t f).tileDef = s.tileDef := rfl
@[simp] theorem State.updTile_regions (t : Nat) (f : Tile → Tile) : (s.updTile t f).regions = s.regions := rfl
@[simp] theorem State.updTile_ls (t : Nat) (f : Tile → Tile) : (s.updTile t f).ls = s.ls := rfl
@[simp] theorem State.updTile_lsMarks (t : Nat) (f : Tile → Tile) : (s.updTile t f).lsMarks = s.lsMarks := rfl
@[simp] theorem State.updTile_lsLog (t : Nat) (f : Tile → Tile) : (s.updTile t f).lsLog = s.lsLog := rfl
@[simp] theorem State.updTile_memLog (t : Nat) (f : Tile → Tile) : (s.updTile t f).memLog = s.memLog := rfl
@[simp] theorem State.updTile_lsWipe (t : Nat) (f : Tile → Tile) : (s.updTile t f).lsWipe = s.lsWipe := rfl
@[simp] theorem State.updTile_memWipe (t : Nat) (f : Tile → Tile) : (s.updTile t f).memWipe = s.memWipe := rfl
@[simp] theorem State.updTile_mesh (t : Nat) (f : Tile → Tile) : (s.updTile t f).mesh = s.mesh := rfl
@[simp] theorem State.updTile_meshTc (t : Nat) (f : Tile → Tile) : (s.updTile t f).meshTc = s.meshTc := rfl
@[simp] theorem State.updTile_answers (t : Nat) (f : Tile → Tile) : (s.updTile t f).answers = s.answers := rfl
@[simp] theorem State.updTile_cwld (t : Nat) (f : Tile → Tile) : (s.updTile t f).cwld = s.cwld := rfl
@[simp] theorem State.updTile_nan (t : Nat) (f : Tile → Tile) : (s.updTile t f).nan = s.nan := rfl
@[simp] theorem State.updTile_solvCtrl (t : Nat) (f : Tile → Tile) : (s.updTile t f).solvCtrl = s.solvCtrl := rfl
@[simp] theorem State.updTile_laths (t : Nat) (f : Tile → Tile) : (s.updTile t f).laths = s.laths := rfl
@[simp] theorem State.updTile_slots (t : Nat) (f : Tile → Tile) : (s.updTile t f).slots = s.slots := rfl
@[simp] theorem State.updTile_ctxs (t : Nat) (f : Tile → Tile) : (s.updTile t f).ctxs = s.ctxs := rfl
@[simp] theorem State.updTile_train (t : Nat) (f : Tile → Tile) : (s.updTile t f).train = s.train := rfl
@[simp] theorem State.updTile_esc (t : Nat) (f : Tile → Tile) : (s.updTile t f).esc = s.esc := rfl
@[simp] theorem State.updTile_mem (t : Nat) (f : Tile → Tile) : (s.updTile t f).mem = s.mem := rfl
@[simp] theorem State.updTile_fab (t : Nat) (f : Tile → Tile) : (s.updTile t f).fab = s.fab := rfl
@[simp] theorem State.updTile_slice (t : Nat) (f : Tile → Tile) : (s.updTile t f).slice = s.slice := rfl
@[simp] theorem State.updTile_cfg (t : Nat) (f : Tile → Tile) : (s.updTile t f).cfg = s.cfg := rfl
@[simp] theorem State.updTile_host (t : Nat) (f : Tile → Tile) : (s.updTile t f).host = s.host := rfl
@[simp] theorem State.updTile_ras (t : Nat) (f : Tile → Tile) : (s.updTile t f).ras = s.ras := rfl
@[simp] theorem State.updTile_hang (t : Nat) (f : Tile → Tile) : (s.updTile t f).hang = s.hang := rfl
@[simp] theorem State.updTile_power (t : Nat) (f : Tile → Tile) : (s.updTile t f).power = s.power := rfl
@[simp] theorem State.updTile_flash (t : Nat) (f : Tile → Tile) : (s.updTile t f).flash = s.flash := rfl
@[simp] theorem State.updTile_freeCtr (t : Nat) (f : Tile → Tile) : (s.updTile t f).freeCtr = s.freeCtr := rfl
@[simp] theorem State.updTile_region_at (t : Nat) (f : Tile → Tile) (ix : Nat) : (s.updTile t f).region ix = s.region ix := by unfold State.region; rfl
@[simp] theorem State.updTile_chan_at (t : Nat) (f : Tile → Tile) (ix : Nat) : (s.updTile t f).chan ix = s.chan ix := by unfold State.chan; rfl
@[simp] theorem State.updTile_stack_at (t : Nat) (f : Tile → Tile) (ix : Nat) : (s.updTile t f).stack ix = s.stack ix := by unfold State.stack; rfl
@[simp] theorem State.updTile_port_at (t : Nat) (f : Tile → Tile) (ix : Nat) : (s.updTile t f).port ix = s.port ix := by unfold State.port; rfl
@[simp] theorem State.updTile_queue_at (t : Nat) (f : Tile → Tile) (ix : Nat) : (s.updTile t f).queue ix = s.queue ix := by unfold State.queue; rfl
@[simp] theorem State.updTile_slot_at (t : Nat) (f : Tile → Tile) (ix : Nat) : (s.updTile t f).slot ix = s.slot ix := by unfold State.slot; rfl
@[simp] theorem State.updTile_ctx_at (t : Nat) (f : Tile → Tile) (ix : Nat) : (s.updTile t f).ctx ix = s.ctx ix := by unfold State.ctx; rfl
@[simp] theorem State.updTile_lsByte_at (t : Nat) (f : Tile → Tile) (ix iy : Nat) : (s.updTile t f).lsByte ix iy = s.lsByte ix iy := by unfold State.lsByte; rfl
@[simp] theorem State.updTile_memByte_at (t : Nat) (f : Tile → Tile) (ix : Nat) : (s.updTile t f).memByte ix = s.memByte ix := by unfold State.memByte; rfl
@[simp] theorem State.updTile_lsMark_at (t : Nat) (f : Tile → Tile) (ix iy : Nat) : (s.updTile t f).lsMark ix iy = s.lsMark ix iy := by unfold State.lsMark; rfl

/-! ### State.mapTiles -/

@[simp] theorem State.mapTiles_pending (f : Tile → Tile) : (s.mapTiles f).pending = s.pending := rfl
@[simp] theorem State.mapTiles_regions (f : Tile → Tile) : (s.mapTiles f).regions = s.regions := rfl
@[simp] theorem State.mapTiles_ls (f : Tile → Tile) : (s.mapTiles f).ls = s.ls := rfl
@[simp] theorem State.mapTiles_lsMarks (f : Tile → Tile) : (s.mapTiles f).lsMarks = s.lsMarks := rfl
@[simp] theorem State.mapTiles_lsLog (f : Tile → Tile) : (s.mapTiles f).lsLog = s.lsLog := rfl
@[simp] theorem State.mapTiles_memLog (f : Tile → Tile) : (s.mapTiles f).memLog = s.memLog := rfl
@[simp] theorem State.mapTiles_lsWipe (f : Tile → Tile) : (s.mapTiles f).lsWipe = s.lsWipe := rfl
@[simp] theorem State.mapTiles_memWipe (f : Tile → Tile) : (s.mapTiles f).memWipe = s.memWipe := rfl
@[simp] theorem State.mapTiles_mesh (f : Tile → Tile) : (s.mapTiles f).mesh = s.mesh := rfl
@[simp] theorem State.mapTiles_meshTc (f : Tile → Tile) : (s.mapTiles f).meshTc = s.meshTc := rfl
@[simp] theorem State.mapTiles_answers (f : Tile → Tile) : (s.mapTiles f).answers = s.answers := rfl
@[simp] theorem State.mapTiles_cwld (f : Tile → Tile) : (s.mapTiles f).cwld = s.cwld := rfl
@[simp] theorem State.mapTiles_nan (f : Tile → Tile) : (s.mapTiles f).nan = s.nan := rfl
@[simp] theorem State.mapTiles_solvCtrl (f : Tile → Tile) : (s.mapTiles f).solvCtrl = s.solvCtrl := rfl
@[simp] theorem State.mapTiles_laths (f : Tile → Tile) : (s.mapTiles f).laths = s.laths := rfl
@[simp] theorem State.mapTiles_slots (f : Tile → Tile) : (s.mapTiles f).slots = s.slots := rfl
@[simp] theorem State.mapTiles_ctxs (f : Tile → Tile) : (s.mapTiles f).ctxs = s.ctxs := rfl
@[simp] theorem State.mapTiles_train (f : Tile → Tile) : (s.mapTiles f).train = s.train := rfl
@[simp] theorem State.mapTiles_esc (f : Tile → Tile) : (s.mapTiles f).esc = s.esc := rfl
@[simp] theorem State.mapTiles_mem (f : Tile → Tile) : (s.mapTiles f).mem = s.mem := rfl
@[simp] theorem State.mapTiles_fab (f : Tile → Tile) : (s.mapTiles f).fab = s.fab := rfl
@[simp] theorem State.mapTiles_slice (f : Tile → Tile) : (s.mapTiles f).slice = s.slice := rfl
@[simp] theorem State.mapTiles_cfg (f : Tile → Tile) : (s.mapTiles f).cfg = s.cfg := rfl
@[simp] theorem State.mapTiles_host (f : Tile → Tile) : (s.mapTiles f).host = s.host := rfl
@[simp] theorem State.mapTiles_ras (f : Tile → Tile) : (s.mapTiles f).ras = s.ras := rfl
@[simp] theorem State.mapTiles_hang (f : Tile → Tile) : (s.mapTiles f).hang = s.hang := rfl
@[simp] theorem State.mapTiles_power (f : Tile → Tile) : (s.mapTiles f).power = s.power := rfl
@[simp] theorem State.mapTiles_flash (f : Tile → Tile) : (s.mapTiles f).flash = s.flash := rfl
@[simp] theorem State.mapTiles_freeCtr (f : Tile → Tile) : (s.mapTiles f).freeCtr = s.freeCtr := rfl
@[simp] theorem State.mapTiles_region_at (f : Tile → Tile) (ix : Nat) : (s.mapTiles f).region ix = s.region ix := by unfold State.region; rfl
@[simp] theorem State.mapTiles_chan_at (f : Tile → Tile) (ix : Nat) : (s.mapTiles f).chan ix = s.chan ix := by unfold State.chan; rfl
@[simp] theorem State.mapTiles_stack_at (f : Tile → Tile) (ix : Nat) : (s.mapTiles f).stack ix = s.stack ix := by unfold State.stack; rfl
@[simp] theorem State.mapTiles_port_at (f : Tile → Tile) (ix : Nat) : (s.mapTiles f).port ix = s.port ix := by unfold State.port; rfl
@[simp] theorem State.mapTiles_queue_at (f : Tile → Tile) (ix : Nat) : (s.mapTiles f).queue ix = s.queue ix := by unfold State.queue; rfl
@[simp] theorem State.mapTiles_slot_at (f : Tile → Tile) (ix : Nat) : (s.mapTiles f).slot ix = s.slot ix := by unfold State.slot; rfl
@[simp] theorem State.mapTiles_ctx_at (f : Tile → Tile) (ix : Nat) : (s.mapTiles f).ctx ix = s.ctx ix := by unfold State.ctx; rfl
@[simp] theorem State.mapTiles_lsByte_at (f : Tile → Tile) (ix iy : Nat) : (s.mapTiles f).lsByte ix iy = s.lsByte ix iy := by unfold State.lsByte; rfl
@[simp] theorem State.mapTiles_memByte_at (f : Tile → Tile) (ix : Nat) : (s.mapTiles f).memByte ix = s.memByte ix := by unfold State.memByte; rfl
@[simp] theorem State.mapTiles_lsMark_at (f : Tile → Tile) (ix iy : Nat) : (s.mapTiles f).lsMark ix iy = s.lsMark ix iy := by unfold State.lsMark; rfl

/-! ### State.updRegion -/

@[simp] theorem State.updRegion_pending (r : Nat) (f : Region → Region) : (s.updRegion r f).pending = s.pending := rfl
@[simp] theorem State.updRegion_tiles (r : Nat) (f : Region → Region) : (s.updRegion r f).tiles = s.tiles := rfl
@[simp] theorem State.updRegion_tileDef (r : Nat) (f : Region → Region) : (s.updRegion r f).tileDef = s.tileDef := rfl
@[simp] theorem State.updRegion_ls (r : Nat) (f : Region → Region) : (s.updRegion r f).ls = s.ls := rfl
@[simp] theorem State.updRegion_lsMarks (r : Nat) (f : Region → Region) : (s.updRegion r f).lsMarks = s.lsMarks := rfl
@[simp] theorem State.updRegion_lsLog (r : Nat) (f : Region → Region) : (s.updRegion r f).lsLog = s.lsLog := rfl
@[simp] theorem State.updRegion_memLog (r : Nat) (f : Region → Region) : (s.updRegion r f).memLog = s.memLog := rfl
@[simp] theorem State.updRegion_lsWipe (r : Nat) (f : Region → Region) : (s.updRegion r f).lsWipe = s.lsWipe := rfl
@[simp] theorem State.updRegion_memWipe (r : Nat) (f : Region → Region) : (s.updRegion r f).memWipe = s.memWipe := rfl
@[simp] theorem State.updRegion_mesh (r : Nat) (f : Region → Region) : (s.updRegion r f).mesh = s.mesh := rfl
@[simp] theorem State.updRegion_meshTc (r : Nat) (f : Region → Region) : (s.updRegion r f).meshTc = s.meshTc := rfl
@[simp] theorem State.updRegion_answers (r : Nat) (f : Region → Region) : (s.updRegion r f).answers = s.answers := rfl
@[simp] theorem State.updRegion_cwld (r : Nat) (f : Region → Region) : (s.updRegion r f).cwld = s.cwld := rfl
@[simp] theorem State.updRegion_nan (r : Nat) (f : Region → Region) : (s.updRegion r f).nan = s.nan := rfl
@[simp] theorem State.updRegion_solvCtrl (r : Nat) (f : Region → Region) : (s.updRegion r f).solvCtrl = s.solvCtrl := rfl
@[simp] theorem State.updRegion_laths (r : Nat) (f : Region → Region) : (s.updRegion r f).laths = s.laths := rfl
@[simp] theorem State.updRegion_slots (r : Nat) (f : Region → Region) : (s.updRegion r f).slots = s.slots := rfl
@[simp] theorem State.updRegion_ctxs (r : Nat) (f : Region → Region) : (s.updRegion r f).ctxs = s.ctxs := rfl
@[simp] theorem State.updRegion_train (r : Nat) (f : Region → Region) : (s.updRegion r f).train = s.train := rfl
@[simp] theorem State.updRegion_esc (r : Nat) (f : Region → Region) : (s.updRegion r f).esc = s.esc := rfl
@[simp] theorem State.updRegion_mem (r : Nat) (f : Region → Region) : (s.updRegion r f).mem = s.mem := rfl
@[simp] theorem State.updRegion_fab (r : Nat) (f : Region → Region) : (s.updRegion r f).fab = s.fab := rfl
@[simp] theorem State.updRegion_slice (r : Nat) (f : Region → Region) : (s.updRegion r f).slice = s.slice := rfl
@[simp] theorem State.updRegion_cfg (r : Nat) (f : Region → Region) : (s.updRegion r f).cfg = s.cfg := rfl
@[simp] theorem State.updRegion_host (r : Nat) (f : Region → Region) : (s.updRegion r f).host = s.host := rfl
@[simp] theorem State.updRegion_ras (r : Nat) (f : Region → Region) : (s.updRegion r f).ras = s.ras := rfl
@[simp] theorem State.updRegion_hang (r : Nat) (f : Region → Region) : (s.updRegion r f).hang = s.hang := rfl
@[simp] theorem State.updRegion_power (r : Nat) (f : Region → Region) : (s.updRegion r f).power = s.power := rfl
@[simp] theorem State.updRegion_flash (r : Nat) (f : Region → Region) : (s.updRegion r f).flash = s.flash := rfl
@[simp] theorem State.updRegion_freeCtr (r : Nat) (f : Region → Region) : (s.updRegion r f).freeCtr = s.freeCtr := rfl
@[simp] theorem State.updRegion_tile_at (r : Nat) (f : Region → Region) (ix : Nat) : (s.updRegion r f).tile ix = s.tile ix := by unfold State.tile; rfl
@[simp] theorem State.updRegion_chan_at (r : Nat) (f : Region → Region) (ix : Nat) : (s.updRegion r f).chan ix = s.chan ix := by unfold State.chan; rfl
@[simp] theorem State.updRegion_stack_at (r : Nat) (f : Region → Region) (ix : Nat) : (s.updRegion r f).stack ix = s.stack ix := by unfold State.stack; rfl
@[simp] theorem State.updRegion_port_at (r : Nat) (f : Region → Region) (ix : Nat) : (s.updRegion r f).port ix = s.port ix := by unfold State.port; rfl
@[simp] theorem State.updRegion_queue_at (r : Nat) (f : Region → Region) (ix : Nat) : (s.updRegion r f).queue ix = s.queue ix := by unfold State.queue; rfl
@[simp] theorem State.updRegion_slot_at (r : Nat) (f : Region → Region) (ix : Nat) : (s.updRegion r f).slot ix = s.slot ix := by unfold State.slot; rfl
@[simp] theorem State.updRegion_ctx_at (r : Nat) (f : Region → Region) (ix : Nat) : (s.updRegion r f).ctx ix = s.ctx ix := by unfold State.ctx; rfl
@[simp] theorem State.updRegion_lsByte_at (r : Nat) (f : Region → Region) (ix iy : Nat) : (s.updRegion r f).lsByte ix iy = s.lsByte ix iy := by unfold State.lsByte; rfl
@[simp] theorem State.updRegion_memByte_at (r : Nat) (f : Region → Region) (ix : Nat) : (s.updRegion r f).memByte ix = s.memByte ix := by unfold State.memByte; rfl
@[simp] theorem State.updRegion_lsMark_at (r : Nat) (f : Region → Region) (ix iy : Nat) : (s.updRegion r f).lsMark ix iy = s.lsMark ix iy := by unfold State.lsMark; rfl

/-! ### State.updChan -/

@[simp] theorem State.updChan_pending (c : Nat) (f : Chan → Chan) : (s.updChan c f).pending = s.pending := rfl
@[simp] theorem State.updChan_tiles (c : Nat) (f : Chan → Chan) : (s.updChan c f).tiles = s.tiles := rfl
@[simp] theorem State.updChan_tileDef (c : Nat) (f : Chan → Chan) : (s.updChan c f).tileDef = s.tileDef := rfl
@[simp] theorem State.updChan_regions (c : Nat) (f : Chan → Chan) : (s.updChan c f).regions = s.regions := rfl
@[simp] theorem State.updChan_ls (c : Nat) (f : Chan → Chan) : (s.updChan c f).ls = s.ls := rfl
@[simp] theorem State.updChan_lsMarks (c : Nat) (f : Chan → Chan) : (s.updChan c f).lsMarks = s.lsMarks := rfl
@[simp] theorem State.updChan_lsLog (c : Nat) (f : Chan → Chan) : (s.updChan c f).lsLog = s.lsLog := rfl
@[simp] theorem State.updChan_memLog (c : Nat) (f : Chan → Chan) : (s.updChan c f).memLog = s.memLog := rfl
@[simp] theorem State.updChan_lsWipe (c : Nat) (f : Chan → Chan) : (s.updChan c f).lsWipe = s.lsWipe := rfl
@[simp] theorem State.updChan_memWipe (c : Nat) (f : Chan → Chan) : (s.updChan c f).memWipe = s.memWipe := rfl
@[simp] theorem State.updChan_mesh (c : Nat) (f : Chan → Chan) : (s.updChan c f).mesh = s.mesh := rfl
@[simp] theorem State.updChan_meshTc (c : Nat) (f : Chan → Chan) : (s.updChan c f).meshTc = s.meshTc := rfl
@[simp] theorem State.updChan_answers (c : Nat) (f : Chan → Chan) : (s.updChan c f).answers = s.answers := rfl
@[simp] theorem State.updChan_cwld (c : Nat) (f : Chan → Chan) : (s.updChan c f).cwld = s.cwld := rfl
@[simp] theorem State.updChan_nan (c : Nat) (f : Chan → Chan) : (s.updChan c f).nan = s.nan := rfl
@[simp] theorem State.updChan_solvCtrl (c : Nat) (f : Chan → Chan) : (s.updChan c f).solvCtrl = s.solvCtrl := rfl
@[simp] theorem State.updChan_laths (c : Nat) (f : Chan → Chan) : (s.updChan c f).laths = s.laths := rfl
@[simp] theorem State.updChan_slots (c : Nat) (f : Chan → Chan) : (s.updChan c f).slots = s.slots := rfl
@[simp] theorem State.updChan_ctxs (c : Nat) (f : Chan → Chan) : (s.updChan c f).ctxs = s.ctxs := rfl
@[simp] theorem State.updChan_train (c : Nat) (f : Chan → Chan) : (s.updChan c f).train = s.train := rfl
@[simp] theorem State.updChan_esc (c : Nat) (f : Chan → Chan) : (s.updChan c f).esc = s.esc := rfl
@[simp] theorem State.updChan_fab (c : Nat) (f : Chan → Chan) : (s.updChan c f).fab = s.fab := rfl
@[simp] theorem State.updChan_slice (c : Nat) (f : Chan → Chan) : (s.updChan c f).slice = s.slice := rfl
@[simp] theorem State.updChan_cfg (c : Nat) (f : Chan → Chan) : (s.updChan c f).cfg = s.cfg := rfl
@[simp] theorem State.updChan_host (c : Nat) (f : Chan → Chan) : (s.updChan c f).host = s.host := rfl
@[simp] theorem State.updChan_ras (c : Nat) (f : Chan → Chan) : (s.updChan c f).ras = s.ras := rfl
@[simp] theorem State.updChan_hang (c : Nat) (f : Chan → Chan) : (s.updChan c f).hang = s.hang := rfl
@[simp] theorem State.updChan_power (c : Nat) (f : Chan → Chan) : (s.updChan c f).power = s.power := rfl
@[simp] theorem State.updChan_flash (c : Nat) (f : Chan → Chan) : (s.updChan c f).flash = s.flash := rfl
@[simp] theorem State.updChan_freeCtr (c : Nat) (f : Chan → Chan) : (s.updChan c f).freeCtr = s.freeCtr := rfl
@[simp] theorem State.updChan_mem_cfg (c : Nat) (f : Chan → Chan) : (s.updChan c f).mem.cfg = s.mem.cfg := rfl
@[simp] theorem State.updChan_mem_thermCfg (c : Nat) (f : Chan → Chan) : (s.updChan c f).mem.thermCfg = s.mem.thermCfg := rfl
@[simp] theorem State.updChan_mem_status (c : Nat) (f : Chan → Chan) : (s.updChan c f).mem.status = s.mem.status := rfl
@[simp] theorem State.updChan_mem_stks (c : Nat) (f : Chan → Chan) : (s.updChan c f).mem.stks = s.mem.stks := rfl
@[simp] theorem State.updChan_mem_bytes (c : Nat) (f : Chan → Chan) : (s.updChan c f).mem.bytes = s.mem.bytes := rfl
@[simp] theorem State.updChan_mem_marks (c : Nat) (f : Chan → Chan) : (s.updChan c f).mem.marks = s.mem.marks := rfl
@[simp] theorem State.updChan_mem_inbox (c : Nat) (f : Chan → Chan) : (s.updChan c f).mem.inbox = s.mem.inbox := rfl
@[simp] theorem State.updChan_tile_at (c : Nat) (f : Chan → Chan) (ix : Nat) : (s.updChan c f).tile ix = s.tile ix := by unfold State.tile; rfl
@[simp] theorem State.updChan_region_at (c : Nat) (f : Chan → Chan) (ix : Nat) : (s.updChan c f).region ix = s.region ix := by unfold State.region; rfl
@[simp] theorem State.updChan_stack_at (c : Nat) (f : Chan → Chan) (ix : Nat) : (s.updChan c f).stack ix = s.stack ix := by unfold State.stack; rfl
@[simp] theorem State.updChan_port_at (c : Nat) (f : Chan → Chan) (ix : Nat) : (s.updChan c f).port ix = s.port ix := by unfold State.port; rfl
@[simp] theorem State.updChan_queue_at (c : Nat) (f : Chan → Chan) (ix : Nat) : (s.updChan c f).queue ix = s.queue ix := by unfold State.queue; rfl
@[simp] theorem State.updChan_slot_at (c : Nat) (f : Chan → Chan) (ix : Nat) : (s.updChan c f).slot ix = s.slot ix := by unfold State.slot; rfl
@[simp] theorem State.updChan_ctx_at (c : Nat) (f : Chan → Chan) (ix : Nat) : (s.updChan c f).ctx ix = s.ctx ix := by unfold State.ctx; rfl
@[simp] theorem State.updChan_lsByte_at (c : Nat) (f : Chan → Chan) (ix iy : Nat) : (s.updChan c f).lsByte ix iy = s.lsByte ix iy := by unfold State.lsByte; rfl
@[simp] theorem State.updChan_memByte_at (c : Nat) (f : Chan → Chan) (ix : Nat) : (s.updChan c f).memByte ix = s.memByte ix := by unfold State.memByte; rfl
@[simp] theorem State.updChan_lsMark_at (c : Nat) (f : Chan → Chan) (ix iy : Nat) : (s.updChan c f).lsMark ix iy = s.lsMark ix iy := by unfold State.lsMark; rfl

/-! ### State.updStack -/

@[simp] theorem State.updStack_pending (k : Nat) (f : Stack → Stack) : (s.updStack k f).pending = s.pending := rfl
@[simp] theorem State.updStack_tiles (k : Nat) (f : Stack → Stack) : (s.updStack k f).tiles = s.tiles := rfl
@[simp] theorem State.updStack_tileDef (k : Nat) (f : Stack → Stack) : (s.updStack k f).tileDef = s.tileDef := rfl
@[simp] theorem State.updStack_regions (k : Nat) (f : Stack → Stack) : (s.updStack k f).regions = s.regions := rfl
@[simp] theorem State.updStack_ls (k : Nat) (f : Stack → Stack) : (s.updStack k f).ls = s.ls := rfl
@[simp] theorem State.updStack_lsMarks (k : Nat) (f : Stack → Stack) : (s.updStack k f).lsMarks = s.lsMarks := rfl
@[simp] theorem State.updStack_lsLog (k : Nat) (f : Stack → Stack) : (s.updStack k f).lsLog = s.lsLog := rfl
@[simp] theorem State.updStack_memLog (k : Nat) (f : Stack → Stack) : (s.updStack k f).memLog = s.memLog := rfl
@[simp] theorem State.updStack_lsWipe (k : Nat) (f : Stack → Stack) : (s.updStack k f).lsWipe = s.lsWipe := rfl
@[simp] theorem State.updStack_memWipe (k : Nat) (f : Stack → Stack) : (s.updStack k f).memWipe = s.memWipe := rfl
@[simp] theorem State.updStack_mesh (k : Nat) (f : Stack → Stack) : (s.updStack k f).mesh = s.mesh := rfl
@[simp] theorem State.updStack_meshTc (k : Nat) (f : Stack → Stack) : (s.updStack k f).meshTc = s.meshTc := rfl
@[simp] theorem State.updStack_answers (k : Nat) (f : Stack → Stack) : (s.updStack k f).answers = s.answers := rfl
@[simp] theorem State.updStack_cwld (k : Nat) (f : Stack → Stack) : (s.updStack k f).cwld = s.cwld := rfl
@[simp] theorem State.updStack_nan (k : Nat) (f : Stack → Stack) : (s.updStack k f).nan = s.nan := rfl
@[simp] theorem State.updStack_solvCtrl (k : Nat) (f : Stack → Stack) : (s.updStack k f).solvCtrl = s.solvCtrl := rfl
@[simp] theorem State.updStack_laths (k : Nat) (f : Stack → Stack) : (s.updStack k f).laths = s.laths := rfl
@[simp] theorem State.updStack_slots (k : Nat) (f : Stack → Stack) : (s.updStack k f).slots = s.slots := rfl
@[simp] theorem State.updStack_ctxs (k : Nat) (f : Stack → Stack) : (s.updStack k f).ctxs = s.ctxs := rfl
@[simp] theorem State.updStack_train (k : Nat) (f : Stack → Stack) : (s.updStack k f).train = s.train := rfl
@[simp] theorem State.updStack_esc (k : Nat) (f : Stack → Stack) : (s.updStack k f).esc = s.esc := rfl
@[simp] theorem State.updStack_fab (k : Nat) (f : Stack → Stack) : (s.updStack k f).fab = s.fab := rfl
@[simp] theorem State.updStack_slice (k : Nat) (f : Stack → Stack) : (s.updStack k f).slice = s.slice := rfl
@[simp] theorem State.updStack_cfg (k : Nat) (f : Stack → Stack) : (s.updStack k f).cfg = s.cfg := rfl
@[simp] theorem State.updStack_host (k : Nat) (f : Stack → Stack) : (s.updStack k f).host = s.host := rfl
@[simp] theorem State.updStack_ras (k : Nat) (f : Stack → Stack) : (s.updStack k f).ras = s.ras := rfl
@[simp] theorem State.updStack_hang (k : Nat) (f : Stack → Stack) : (s.updStack k f).hang = s.hang := rfl
@[simp] theorem State.updStack_power (k : Nat) (f : Stack → Stack) : (s.updStack k f).power = s.power := rfl
@[simp] theorem State.updStack_flash (k : Nat) (f : Stack → Stack) : (s.updStack k f).flash = s.flash := rfl
@[simp] theorem State.updStack_freeCtr (k : Nat) (f : Stack → Stack) : (s.updStack k f).freeCtr = s.freeCtr := rfl
@[simp] theorem State.updStack_mem_cfg (k : Nat) (f : Stack → Stack) : (s.updStack k f).mem.cfg = s.mem.cfg := rfl
@[simp] theorem State.updStack_mem_thermCfg (k : Nat) (f : Stack → Stack) : (s.updStack k f).mem.thermCfg = s.mem.thermCfg := rfl
@[simp] theorem State.updStack_mem_status (k : Nat) (f : Stack → Stack) : (s.updStack k f).mem.status = s.mem.status := rfl
@[simp] theorem State.updStack_mem_chans (k : Nat) (f : Stack → Stack) : (s.updStack k f).mem.chans = s.mem.chans := rfl
@[simp] theorem State.updStack_mem_bytes (k : Nat) (f : Stack → Stack) : (s.updStack k f).mem.bytes = s.mem.bytes := rfl
@[simp] theorem State.updStack_mem_marks (k : Nat) (f : Stack → Stack) : (s.updStack k f).mem.marks = s.mem.marks := rfl
@[simp] theorem State.updStack_mem_inbox (k : Nat) (f : Stack → Stack) : (s.updStack k f).mem.inbox = s.mem.inbox := rfl
@[simp] theorem State.updStack_tile_at (k : Nat) (f : Stack → Stack) (ix : Nat) : (s.updStack k f).tile ix = s.tile ix := by unfold State.tile; rfl
@[simp] theorem State.updStack_region_at (k : Nat) (f : Stack → Stack) (ix : Nat) : (s.updStack k f).region ix = s.region ix := by unfold State.region; rfl
@[simp] theorem State.updStack_chan_at (k : Nat) (f : Stack → Stack) (ix : Nat) : (s.updStack k f).chan ix = s.chan ix := by unfold State.chan; rfl
@[simp] theorem State.updStack_port_at (k : Nat) (f : Stack → Stack) (ix : Nat) : (s.updStack k f).port ix = s.port ix := by unfold State.port; rfl
@[simp] theorem State.updStack_queue_at (k : Nat) (f : Stack → Stack) (ix : Nat) : (s.updStack k f).queue ix = s.queue ix := by unfold State.queue; rfl
@[simp] theorem State.updStack_slot_at (k : Nat) (f : Stack → Stack) (ix : Nat) : (s.updStack k f).slot ix = s.slot ix := by unfold State.slot; rfl
@[simp] theorem State.updStack_ctx_at (k : Nat) (f : Stack → Stack) (ix : Nat) : (s.updStack k f).ctx ix = s.ctx ix := by unfold State.ctx; rfl
@[simp] theorem State.updStack_lsByte_at (k : Nat) (f : Stack → Stack) (ix iy : Nat) : (s.updStack k f).lsByte ix iy = s.lsByte ix iy := by unfold State.lsByte; rfl
@[simp] theorem State.updStack_memByte_at (k : Nat) (f : Stack → Stack) (ix : Nat) : (s.updStack k f).memByte ix = s.memByte ix := by unfold State.memByte; rfl
@[simp] theorem State.updStack_lsMark_at (k : Nat) (f : Stack → Stack) (ix iy : Nat) : (s.updStack k f).lsMark ix iy = s.lsMark ix iy := by unfold State.lsMark; rfl

/-! ### State.updPort -/

@[simp] theorem State.updPort_pending (p : Nat) (f : Port → Port) : (s.updPort p f).pending = s.pending := rfl
@[simp] theorem State.updPort_tiles (p : Nat) (f : Port → Port) : (s.updPort p f).tiles = s.tiles := rfl
@[simp] theorem State.updPort_tileDef (p : Nat) (f : Port → Port) : (s.updPort p f).tileDef = s.tileDef := rfl
@[simp] theorem State.updPort_regions (p : Nat) (f : Port → Port) : (s.updPort p f).regions = s.regions := rfl
@[simp] theorem State.updPort_ls (p : Nat) (f : Port → Port) : (s.updPort p f).ls = s.ls := rfl
@[simp] theorem State.updPort_lsMarks (p : Nat) (f : Port → Port) : (s.updPort p f).lsMarks = s.lsMarks := rfl
@[simp] theorem State.updPort_lsLog (p : Nat) (f : Port → Port) : (s.updPort p f).lsLog = s.lsLog := rfl
@[simp] theorem State.updPort_memLog (p : Nat) (f : Port → Port) : (s.updPort p f).memLog = s.memLog := rfl
@[simp] theorem State.updPort_lsWipe (p : Nat) (f : Port → Port) : (s.updPort p f).lsWipe = s.lsWipe := rfl
@[simp] theorem State.updPort_memWipe (p : Nat) (f : Port → Port) : (s.updPort p f).memWipe = s.memWipe := rfl
@[simp] theorem State.updPort_mesh (p : Nat) (f : Port → Port) : (s.updPort p f).mesh = s.mesh := rfl
@[simp] theorem State.updPort_meshTc (p : Nat) (f : Port → Port) : (s.updPort p f).meshTc = s.meshTc := rfl
@[simp] theorem State.updPort_answers (p : Nat) (f : Port → Port) : (s.updPort p f).answers = s.answers := rfl
@[simp] theorem State.updPort_cwld (p : Nat) (f : Port → Port) : (s.updPort p f).cwld = s.cwld := rfl
@[simp] theorem State.updPort_nan (p : Nat) (f : Port → Port) : (s.updPort p f).nan = s.nan := rfl
@[simp] theorem State.updPort_solvCtrl (p : Nat) (f : Port → Port) : (s.updPort p f).solvCtrl = s.solvCtrl := rfl
@[simp] theorem State.updPort_laths (p : Nat) (f : Port → Port) : (s.updPort p f).laths = s.laths := rfl
@[simp] theorem State.updPort_slots (p : Nat) (f : Port → Port) : (s.updPort p f).slots = s.slots := rfl
@[simp] theorem State.updPort_ctxs (p : Nat) (f : Port → Port) : (s.updPort p f).ctxs = s.ctxs := rfl
@[simp] theorem State.updPort_train (p : Nat) (f : Port → Port) : (s.updPort p f).train = s.train := rfl
@[simp] theorem State.updPort_esc (p : Nat) (f : Port → Port) : (s.updPort p f).esc = s.esc := rfl
@[simp] theorem State.updPort_mem (p : Nat) (f : Port → Port) : (s.updPort p f).mem = s.mem := rfl
@[simp] theorem State.updPort_slice (p : Nat) (f : Port → Port) : (s.updPort p f).slice = s.slice := rfl
@[simp] theorem State.updPort_cfg (p : Nat) (f : Port → Port) : (s.updPort p f).cfg = s.cfg := rfl
@[simp] theorem State.updPort_host (p : Nat) (f : Port → Port) : (s.updPort p f).host = s.host := rfl
@[simp] theorem State.updPort_ras (p : Nat) (f : Port → Port) : (s.updPort p f).ras = s.ras := rfl
@[simp] theorem State.updPort_hang (p : Nat) (f : Port → Port) : (s.updPort p f).hang = s.hang := rfl
@[simp] theorem State.updPort_power (p : Nat) (f : Port → Port) : (s.updPort p f).power = s.power := rfl
@[simp] theorem State.updPort_flash (p : Nat) (f : Port → Port) : (s.updPort p f).flash = s.flash := rfl
@[simp] theorem State.updPort_freeCtr (p : Nat) (f : Port → Port) : (s.updPort p f).freeCtr = s.freeCtr := rfl
@[simp] theorem State.updPort_fab_id (p : Nat) (f : Port → Port) : (s.updPort p f).fab.id = s.fab.id := rfl
@[simp] theorem State.updPort_fab_status (p : Nat) (f : Port → Port) : (s.updPort p f).fab.status = s.fab.status := rfl
@[simp] theorem State.updPort_fab_ccCfg (p : Nat) (f : Port → Port) : (s.updPort p f).fab.ccCfg = s.fab.ccCfg := rfl
@[simp] theorem State.updPort_fab_txnCfg (p : Nat) (f : Port → Port) : (s.updPort p f).fab.txnCfg = s.fab.txnCfg := rfl
@[simp] theorem State.updPort_fab_drop0 (p : Nat) (f : Port → Port) : (s.updPort p f).fab.drop0 = s.fab.drop0 := rfl
@[simp] theorem State.updPort_fab_drop1 (p : Nat) (f : Port → Port) : (s.updPort p f).fab.drop1 = s.fab.drop1 := rfl
@[simp] theorem State.updPort_fab_drop2 (p : Nat) (f : Port → Port) : (s.updPort p f).fab.drop2 = s.fab.drop2 := rfl
@[simp] theorem State.updPort_fab_stats0 (p : Nat) (f : Port → Port) : (s.updPort p f).fab.stats0 = s.fab.stats0 := rfl
@[simp] theorem State.updPort_fab_stats1 (p : Nat) (f : Port → Port) : (s.updPort p f).fab.stats1 = s.fab.stats1 := rfl
@[simp] theorem State.updPort_fab_rt (p : Nat) (f : Port → Port) : (s.updPort p f).fab.rt = s.fab.rt := rfl
@[simp] theorem State.updPort_fab_rts (p : Nat) (f : Port → Port) : (s.updPort p f).fab.rts = s.fab.rts := rfl
@[simp] theorem State.updPort_fab_rate (p : Nat) (f : Port → Port) : (s.updPort p f).fab.rate = s.fab.rate := rfl
@[simp] theorem State.updPort_fab_lastCut (p : Nat) (f : Port → Port) : (s.updPort p f).fab.lastCut = s.fab.lastCut := rfl
@[simp] theorem State.updPort_fab_spent (p : Nat) (f : Port → Port) : (s.updPort p f).fab.spent = s.fab.spent := rfl
@[simp] theorem State.updPort_fab_cir (p : Nat) (f : Port → Port) : (s.updPort p f).fab.cir = s.fab.cir := rfl
@[simp] theorem State.updPort_fab_cirs (p : Nat) (f : Port → Port) : (s.updPort p f).fab.cirs = s.fab.cirs := rfl
@[simp] theorem State.updPort_fab_switchQ (p : Nat) (f : Port → Port) : (s.updPort p f).fab.switchQ = s.fab.switchQ := rfl
@[simp] theorem State.updPort_fab_delivered (p : Nat) (f : Port → Port) : (s.updPort p f).fab.delivered = s.fab.delivered := rfl
@[simp] theorem State.updPort_fab_waiting (p : Nat) (f : Port → Port) : (s.updPort p f).fab.waiting = s.fab.waiting := rfl
@[simp] theorem State.updPort_fab_awaited (p : Nat) (f : Port → Port) : (s.updPort p f).fab.awaited = s.fab.awaited := rfl
@[simp] theorem State.updPort_fab_txns (p : Nat) (f : Port → Port) : (s.updPort p f).fab.txns = s.fab.txns := rfl
@[simp] theorem State.updPort_fab_nextTag (p : Nat) (f : Port → Port) : (s.updPort p f).fab.nextTag = s.fab.nextTag := rfl
@[simp] theorem State.updPort_fab_drainBeat (p : Nat) (f : Port → Port) : (s.updPort p f).fab.drainBeat = s.fab.drainBeat := rfl
@[simp] theorem State.updPort_fab_markersSent (p : Nat) (f : Port → Port) : (s.updPort p f).fab.markersSent = s.fab.markersSent := rfl
@[simp] theorem State.updPort_fab_inReqs (p : Nat) (f : Port → Port) : (s.updPort p f).fab.inReqs = s.fab.inReqs := rfl
@[simp] theorem State.updPort_tile_at (p : Nat) (f : Port → Port) (ix : Nat) : (s.updPort p f).tile ix = s.tile ix := by unfold State.tile; rfl
@[simp] theorem State.updPort_region_at (p : Nat) (f : Port → Port) (ix : Nat) : (s.updPort p f).region ix = s.region ix := by unfold State.region; rfl
@[simp] theorem State.updPort_chan_at (p : Nat) (f : Port → Port) (ix : Nat) : (s.updPort p f).chan ix = s.chan ix := by unfold State.chan; rfl
@[simp] theorem State.updPort_stack_at (p : Nat) (f : Port → Port) (ix : Nat) : (s.updPort p f).stack ix = s.stack ix := by unfold State.stack; rfl
@[simp] theorem State.updPort_queue_at (p : Nat) (f : Port → Port) (ix : Nat) : (s.updPort p f).queue ix = s.queue ix := by unfold State.queue; rfl
@[simp] theorem State.updPort_slot_at (p : Nat) (f : Port → Port) (ix : Nat) : (s.updPort p f).slot ix = s.slot ix := by unfold State.slot; rfl
@[simp] theorem State.updPort_ctx_at (p : Nat) (f : Port → Port) (ix : Nat) : (s.updPort p f).ctx ix = s.ctx ix := by unfold State.ctx; rfl
@[simp] theorem State.updPort_lsByte_at (p : Nat) (f : Port → Port) (ix iy : Nat) : (s.updPort p f).lsByte ix iy = s.lsByte ix iy := by unfold State.lsByte; rfl
@[simp] theorem State.updPort_memByte_at (p : Nat) (f : Port → Port) (ix : Nat) : (s.updPort p f).memByte ix = s.memByte ix := by unfold State.memByte; rfl
@[simp] theorem State.updPort_lsMark_at (p : Nat) (f : Port → Port) (ix iy : Nat) : (s.updPort p f).lsMark ix iy = s.lsMark ix iy := by unfold State.lsMark; rfl

/-! ### State.updQueue -/

@[simp] theorem State.updQueue_pending (q : Nat) (f : Queue → Queue) : (s.updQueue q f).pending = s.pending := rfl
@[simp] theorem State.updQueue_tiles (q : Nat) (f : Queue → Queue) : (s.updQueue q f).tiles = s.tiles := rfl
@[simp] theorem State.updQueue_tileDef (q : Nat) (f : Queue → Queue) : (s.updQueue q f).tileDef = s.tileDef := rfl
@[simp] theorem State.updQueue_regions (q : Nat) (f : Queue → Queue) : (s.updQueue q f).regions = s.regions := rfl
@[simp] theorem State.updQueue_ls (q : Nat) (f : Queue → Queue) : (s.updQueue q f).ls = s.ls := rfl
@[simp] theorem State.updQueue_lsMarks (q : Nat) (f : Queue → Queue) : (s.updQueue q f).lsMarks = s.lsMarks := rfl
@[simp] theorem State.updQueue_lsLog (q : Nat) (f : Queue → Queue) : (s.updQueue q f).lsLog = s.lsLog := rfl
@[simp] theorem State.updQueue_memLog (q : Nat) (f : Queue → Queue) : (s.updQueue q f).memLog = s.memLog := rfl
@[simp] theorem State.updQueue_lsWipe (q : Nat) (f : Queue → Queue) : (s.updQueue q f).lsWipe = s.lsWipe := rfl
@[simp] theorem State.updQueue_memWipe (q : Nat) (f : Queue → Queue) : (s.updQueue q f).memWipe = s.memWipe := rfl
@[simp] theorem State.updQueue_mesh (q : Nat) (f : Queue → Queue) : (s.updQueue q f).mesh = s.mesh := rfl
@[simp] theorem State.updQueue_meshTc (q : Nat) (f : Queue → Queue) : (s.updQueue q f).meshTc = s.meshTc := rfl
@[simp] theorem State.updQueue_answers (q : Nat) (f : Queue → Queue) : (s.updQueue q f).answers = s.answers := rfl
@[simp] theorem State.updQueue_cwld (q : Nat) (f : Queue → Queue) : (s.updQueue q f).cwld = s.cwld := rfl
@[simp] theorem State.updQueue_nan (q : Nat) (f : Queue → Queue) : (s.updQueue q f).nan = s.nan := rfl
@[simp] theorem State.updQueue_solvCtrl (q : Nat) (f : Queue → Queue) : (s.updQueue q f).solvCtrl = s.solvCtrl := rfl
@[simp] theorem State.updQueue_laths (q : Nat) (f : Queue → Queue) : (s.updQueue q f).laths = s.laths := rfl
@[simp] theorem State.updQueue_slots (q : Nat) (f : Queue → Queue) : (s.updQueue q f).slots = s.slots := rfl
@[simp] theorem State.updQueue_ctxs (q : Nat) (f : Queue → Queue) : (s.updQueue q f).ctxs = s.ctxs := rfl
@[simp] theorem State.updQueue_train (q : Nat) (f : Queue → Queue) : (s.updQueue q f).train = s.train := rfl
@[simp] theorem State.updQueue_esc (q : Nat) (f : Queue → Queue) : (s.updQueue q f).esc = s.esc := rfl
@[simp] theorem State.updQueue_mem (q : Nat) (f : Queue → Queue) : (s.updQueue q f).mem = s.mem := rfl
@[simp] theorem State.updQueue_fab (q : Nat) (f : Queue → Queue) : (s.updQueue q f).fab = s.fab := rfl
@[simp] theorem State.updQueue_slice (q : Nat) (f : Queue → Queue) : (s.updQueue q f).slice = s.slice := rfl
@[simp] theorem State.updQueue_cfg (q : Nat) (f : Queue → Queue) : (s.updQueue q f).cfg = s.cfg := rfl
@[simp] theorem State.updQueue_ras (q : Nat) (f : Queue → Queue) : (s.updQueue q f).ras = s.ras := rfl
@[simp] theorem State.updQueue_hang (q : Nat) (f : Queue → Queue) : (s.updQueue q f).hang = s.hang := rfl
@[simp] theorem State.updQueue_power (q : Nat) (f : Queue → Queue) : (s.updQueue q f).power = s.power := rfl
@[simp] theorem State.updQueue_flash (q : Nat) (f : Queue → Queue) : (s.updQueue q f).flash = s.flash := rfl
@[simp] theorem State.updQueue_freeCtr (q : Nat) (f : Queue → Queue) : (s.updQueue q f).freeCtr = s.freeCtr := rfl
@[simp] theorem State.updQueue_host_winCfg (q : Nat) (f : Queue → Queue) : (s.updQueue q f).host.winCfg = s.host.winCfg := rfl
@[simp] theorem State.updQueue_host_mirrorAddr (q : Nat) (f : Queue → Queue) : (s.updQueue q f).host.mirrorAddr = s.host.mirrorAddr := rfl
@[simp] theorem State.updQueue_host_mirrorCfg (q : Nat) (f : Queue → Queue) : (s.updQueue q f).host.mirrorCfg = s.host.mirrorCfg := rfl
@[simp] theorem State.updQueue_host_status (q : Nat) (f : Queue → Queue) : (s.updQueue q f).host.status = s.host.status := rfl
@[simp] theorem State.updQueue_host_link (q : Nat) (f : Queue → Queue) : (s.updQueue q f).host.link = s.host.link := rfl
@[simp] theorem State.updQueue_host_busMaster (q : Nat) (f : Queue → Queue) : (s.updQueue q f).host.busMaster = s.host.busMaster := rfl
@[simp] theorem State.updQueue_host_d0 (q : Nat) (f : Queue → Queue) : (s.updQueue q f).host.d0 = s.host.d0 := rfl
@[simp] theorem State.updQueue_host_tags (q : Nat) (f : Queue → Queue) : (s.updQueue q f).host.tags = s.host.tags := rfl
@[simp] theorem State.updQueue_host_held (q : Nat) (f : Queue → Queue) : (s.updQueue q f).host.held = s.host.held := rfl
@[simp] theorem State.updQueue_host_dmaDue (q : Nat) (f : Queue → Queue) : (s.updQueue q f).host.dmaDue = s.host.dmaDue := rfl
@[simp] theorem State.updQueue_host_mirrorSeq (q : Nat) (f : Queue → Queue) : (s.updQueue q f).host.mirrorSeq = s.host.mirrorSeq := rfl
@[simp] theorem State.updQueue_host_out (q : Nat) (f : Queue → Queue) : (s.updQueue q f).host.out = s.host.out := rfl
@[simp] theorem State.updQueue_host_reads (q : Nat) (f : Queue → Queue) : (s.updQueue q f).host.reads = s.host.reads := rfl
@[simp] theorem State.updQueue_host_fetches (q : Nat) (f : Queue → Queue) : (s.updQueue q f).host.fetches = s.host.fetches := rfl
@[simp] theorem State.updQueue_host_landed (q : Nat) (f : Queue → Queue) : (s.updQueue q f).host.landed = s.host.landed := rfl
@[simp] theorem State.updQueue_host_winLanded (q : Nat) (f : Queue → Queue) : (s.updQueue q f).host.winLanded = s.host.winLanded := rfl
@[simp] theorem State.updQueue_host_flagIn (q : Nat) (f : Queue → Queue) : (s.updQueue q f).host.flagIn = s.host.flagIn := rfl
@[simp] theorem State.updQueue_host_flags (q : Nat) (f : Queue → Queue) : (s.updQueue q f).host.flags = s.host.flags := rfl
@[simp] theorem State.updQueue_host_flagMarks (q : Nat) (f : Queue → Queue) : (s.updQueue q f).host.flagMarks = s.host.flagMarks := rfl
@[simp] theorem State.updQueue_host_flagScrub (q : Nat) (f : Queue → Queue) : (s.updQueue q f).host.flagScrub = s.host.flagScrub := rfl
@[simp] theorem State.updQueue_host_copies (q : Nat) (f : Queue → Queue) : (s.updQueue q f).host.copies = s.host.copies := rfl
@[simp] theorem State.updQueue_tile_at (q : Nat) (f : Queue → Queue) (ix : Nat) : (s.updQueue q f).tile ix = s.tile ix := by unfold State.tile; rfl
@[simp] theorem State.updQueue_region_at (q : Nat) (f : Queue → Queue) (ix : Nat) : (s.updQueue q f).region ix = s.region ix := by unfold State.region; rfl
@[simp] theorem State.updQueue_chan_at (q : Nat) (f : Queue → Queue) (ix : Nat) : (s.updQueue q f).chan ix = s.chan ix := by unfold State.chan; rfl
@[simp] theorem State.updQueue_stack_at (q : Nat) (f : Queue → Queue) (ix : Nat) : (s.updQueue q f).stack ix = s.stack ix := by unfold State.stack; rfl
@[simp] theorem State.updQueue_port_at (q : Nat) (f : Queue → Queue) (ix : Nat) : (s.updQueue q f).port ix = s.port ix := by unfold State.port; rfl
@[simp] theorem State.updQueue_slot_at (q : Nat) (f : Queue → Queue) (ix : Nat) : (s.updQueue q f).slot ix = s.slot ix := by unfold State.slot; rfl
@[simp] theorem State.updQueue_ctx_at (q : Nat) (f : Queue → Queue) (ix : Nat) : (s.updQueue q f).ctx ix = s.ctx ix := by unfold State.ctx; rfl
@[simp] theorem State.updQueue_lsByte_at (q : Nat) (f : Queue → Queue) (ix iy : Nat) : (s.updQueue q f).lsByte ix iy = s.lsByte ix iy := by unfold State.lsByte; rfl
@[simp] theorem State.updQueue_memByte_at (q : Nat) (f : Queue → Queue) (ix : Nat) : (s.updQueue q f).memByte ix = s.memByte ix := by unfold State.memByte; rfl
@[simp] theorem State.updQueue_lsMark_at (q : Nat) (f : Queue → Queue) (ix iy : Nat) : (s.updQueue q f).lsMark ix iy = s.lsMark ix iy := by unfold State.lsMark; rfl

/-! ### State.updSlot -/

@[simp] theorem State.updSlot_pending (k : Nat) (f : Slot → Slot) : (s.updSlot k f).pending = s.pending := rfl
@[simp] theorem State.updSlot_tiles (k : Nat) (f : Slot → Slot) : (s.updSlot k f).tiles = s.tiles := rfl
@[simp] theorem State.updSlot_tileDef (k : Nat) (f : Slot → Slot) : (s.updSlot k f).tileDef = s.tileDef := rfl
@[simp] theorem State.updSlot_regions (k : Nat) (f : Slot → Slot) : (s.updSlot k f).regions = s.regions := rfl
@[simp] theorem State.updSlot_ls (k : Nat) (f : Slot → Slot) : (s.updSlot k f).ls = s.ls := rfl
@[simp] theorem State.updSlot_lsMarks (k : Nat) (f : Slot → Slot) : (s.updSlot k f).lsMarks = s.lsMarks := rfl
@[simp] theorem State.updSlot_lsLog (k : Nat) (f : Slot → Slot) : (s.updSlot k f).lsLog = s.lsLog := rfl
@[simp] theorem State.updSlot_memLog (k : Nat) (f : Slot → Slot) : (s.updSlot k f).memLog = s.memLog := rfl
@[simp] theorem State.updSlot_lsWipe (k : Nat) (f : Slot → Slot) : (s.updSlot k f).lsWipe = s.lsWipe := rfl
@[simp] theorem State.updSlot_memWipe (k : Nat) (f : Slot → Slot) : (s.updSlot k f).memWipe = s.memWipe := rfl
@[simp] theorem State.updSlot_mesh (k : Nat) (f : Slot → Slot) : (s.updSlot k f).mesh = s.mesh := rfl
@[simp] theorem State.updSlot_meshTc (k : Nat) (f : Slot → Slot) : (s.updSlot k f).meshTc = s.meshTc := rfl
@[simp] theorem State.updSlot_answers (k : Nat) (f : Slot → Slot) : (s.updSlot k f).answers = s.answers := rfl
@[simp] theorem State.updSlot_cwld (k : Nat) (f : Slot → Slot) : (s.updSlot k f).cwld = s.cwld := rfl
@[simp] theorem State.updSlot_nan (k : Nat) (f : Slot → Slot) : (s.updSlot k f).nan = s.nan := rfl
@[simp] theorem State.updSlot_solvCtrl (k : Nat) (f : Slot → Slot) : (s.updSlot k f).solvCtrl = s.solvCtrl := rfl
@[simp] theorem State.updSlot_laths (k : Nat) (f : Slot → Slot) : (s.updSlot k f).laths = s.laths := rfl
@[simp] theorem State.updSlot_ctxs (k : Nat) (f : Slot → Slot) : (s.updSlot k f).ctxs = s.ctxs := rfl
@[simp] theorem State.updSlot_train (k : Nat) (f : Slot → Slot) : (s.updSlot k f).train = s.train := rfl
@[simp] theorem State.updSlot_esc (k : Nat) (f : Slot → Slot) : (s.updSlot k f).esc = s.esc := rfl
@[simp] theorem State.updSlot_mem (k : Nat) (f : Slot → Slot) : (s.updSlot k f).mem = s.mem := rfl
@[simp] theorem State.updSlot_fab (k : Nat) (f : Slot → Slot) : (s.updSlot k f).fab = s.fab := rfl
@[simp] theorem State.updSlot_slice (k : Nat) (f : Slot → Slot) : (s.updSlot k f).slice = s.slice := rfl
@[simp] theorem State.updSlot_cfg (k : Nat) (f : Slot → Slot) : (s.updSlot k f).cfg = s.cfg := rfl
@[simp] theorem State.updSlot_host (k : Nat) (f : Slot → Slot) : (s.updSlot k f).host = s.host := rfl
@[simp] theorem State.updSlot_ras (k : Nat) (f : Slot → Slot) : (s.updSlot k f).ras = s.ras := rfl
@[simp] theorem State.updSlot_hang (k : Nat) (f : Slot → Slot) : (s.updSlot k f).hang = s.hang := rfl
@[simp] theorem State.updSlot_power (k : Nat) (f : Slot → Slot) : (s.updSlot k f).power = s.power := rfl
@[simp] theorem State.updSlot_flash (k : Nat) (f : Slot → Slot) : (s.updSlot k f).flash = s.flash := rfl
@[simp] theorem State.updSlot_freeCtr (k : Nat) (f : Slot → Slot) : (s.updSlot k f).freeCtr = s.freeCtr := rfl
@[simp] theorem State.updSlot_tile_at (k : Nat) (f : Slot → Slot) (ix : Nat) : (s.updSlot k f).tile ix = s.tile ix := by unfold State.tile; rfl
@[simp] theorem State.updSlot_region_at (k : Nat) (f : Slot → Slot) (ix : Nat) : (s.updSlot k f).region ix = s.region ix := by unfold State.region; rfl
@[simp] theorem State.updSlot_chan_at (k : Nat) (f : Slot → Slot) (ix : Nat) : (s.updSlot k f).chan ix = s.chan ix := by unfold State.chan; rfl
@[simp] theorem State.updSlot_stack_at (k : Nat) (f : Slot → Slot) (ix : Nat) : (s.updSlot k f).stack ix = s.stack ix := by unfold State.stack; rfl
@[simp] theorem State.updSlot_port_at (k : Nat) (f : Slot → Slot) (ix : Nat) : (s.updSlot k f).port ix = s.port ix := by unfold State.port; rfl
@[simp] theorem State.updSlot_queue_at (k : Nat) (f : Slot → Slot) (ix : Nat) : (s.updSlot k f).queue ix = s.queue ix := by unfold State.queue; rfl
@[simp] theorem State.updSlot_ctx_at (k : Nat) (f : Slot → Slot) (ix : Nat) : (s.updSlot k f).ctx ix = s.ctx ix := by unfold State.ctx; rfl
@[simp] theorem State.updSlot_lsByte_at (k : Nat) (f : Slot → Slot) (ix iy : Nat) : (s.updSlot k f).lsByte ix iy = s.lsByte ix iy := by unfold State.lsByte; rfl
@[simp] theorem State.updSlot_memByte_at (k : Nat) (f : Slot → Slot) (ix : Nat) : (s.updSlot k f).memByte ix = s.memByte ix := by unfold State.memByte; rfl
@[simp] theorem State.updSlot_lsMark_at (k : Nat) (f : Slot → Slot) (ix iy : Nat) : (s.updSlot k f).lsMark ix iy = s.lsMark ix iy := by unfold State.lsMark; rfl

/-! ### State.updCtx -/

@[simp] theorem State.updCtx_pending (c : Nat) (f : Ctx → Ctx) : (s.updCtx c f).pending = s.pending := rfl
@[simp] theorem State.updCtx_tiles (c : Nat) (f : Ctx → Ctx) : (s.updCtx c f).tiles = s.tiles := rfl
@[simp] theorem State.updCtx_tileDef (c : Nat) (f : Ctx → Ctx) : (s.updCtx c f).tileDef = s.tileDef := rfl
@[simp] theorem State.updCtx_regions (c : Nat) (f : Ctx → Ctx) : (s.updCtx c f).regions = s.regions := rfl
@[simp] theorem State.updCtx_ls (c : Nat) (f : Ctx → Ctx) : (s.updCtx c f).ls = s.ls := rfl
@[simp] theorem State.updCtx_lsMarks (c : Nat) (f : Ctx → Ctx) : (s.updCtx c f).lsMarks = s.lsMarks := rfl
@[simp] theorem State.updCtx_lsLog (c : Nat) (f : Ctx → Ctx) : (s.updCtx c f).lsLog = s.lsLog := rfl
@[simp] theorem State.updCtx_memLog (c : Nat) (f : Ctx → Ctx) : (s.updCtx c f).memLog = s.memLog := rfl
@[simp] theorem State.updCtx_lsWipe (c : Nat) (f : Ctx → Ctx) : (s.updCtx c f).lsWipe = s.lsWipe := rfl
@[simp] theorem State.updCtx_memWipe (c : Nat) (f : Ctx → Ctx) : (s.updCtx c f).memWipe = s.memWipe := rfl
@[simp] theorem State.updCtx_mesh (c : Nat) (f : Ctx → Ctx) : (s.updCtx c f).mesh = s.mesh := rfl
@[simp] theorem State.updCtx_meshTc (c : Nat) (f : Ctx → Ctx) : (s.updCtx c f).meshTc = s.meshTc := rfl
@[simp] theorem State.updCtx_answers (c : Nat) (f : Ctx → Ctx) : (s.updCtx c f).answers = s.answers := rfl
@[simp] theorem State.updCtx_cwld (c : Nat) (f : Ctx → Ctx) : (s.updCtx c f).cwld = s.cwld := rfl
@[simp] theorem State.updCtx_nan (c : Nat) (f : Ctx → Ctx) : (s.updCtx c f).nan = s.nan := rfl
@[simp] theorem State.updCtx_solvCtrl (c : Nat) (f : Ctx → Ctx) : (s.updCtx c f).solvCtrl = s.solvCtrl := rfl
@[simp] theorem State.updCtx_laths (c : Nat) (f : Ctx → Ctx) : (s.updCtx c f).laths = s.laths := rfl
@[simp] theorem State.updCtx_slots (c : Nat) (f : Ctx → Ctx) : (s.updCtx c f).slots = s.slots := rfl
@[simp] theorem State.updCtx_train (c : Nat) (f : Ctx → Ctx) : (s.updCtx c f).train = s.train := rfl
@[simp] theorem State.updCtx_esc (c : Nat) (f : Ctx → Ctx) : (s.updCtx c f).esc = s.esc := rfl
@[simp] theorem State.updCtx_mem (c : Nat) (f : Ctx → Ctx) : (s.updCtx c f).mem = s.mem := rfl
@[simp] theorem State.updCtx_fab (c : Nat) (f : Ctx → Ctx) : (s.updCtx c f).fab = s.fab := rfl
@[simp] theorem State.updCtx_slice (c : Nat) (f : Ctx → Ctx) : (s.updCtx c f).slice = s.slice := rfl
@[simp] theorem State.updCtx_cfg (c : Nat) (f : Ctx → Ctx) : (s.updCtx c f).cfg = s.cfg := rfl
@[simp] theorem State.updCtx_host (c : Nat) (f : Ctx → Ctx) : (s.updCtx c f).host = s.host := rfl
@[simp] theorem State.updCtx_ras (c : Nat) (f : Ctx → Ctx) : (s.updCtx c f).ras = s.ras := rfl
@[simp] theorem State.updCtx_hang (c : Nat) (f : Ctx → Ctx) : (s.updCtx c f).hang = s.hang := rfl
@[simp] theorem State.updCtx_power (c : Nat) (f : Ctx → Ctx) : (s.updCtx c f).power = s.power := rfl
@[simp] theorem State.updCtx_flash (c : Nat) (f : Ctx → Ctx) : (s.updCtx c f).flash = s.flash := rfl
@[simp] theorem State.updCtx_freeCtr (c : Nat) (f : Ctx → Ctx) : (s.updCtx c f).freeCtr = s.freeCtr := rfl
@[simp] theorem State.updCtx_tile_at (c : Nat) (f : Ctx → Ctx) (ix : Nat) : (s.updCtx c f).tile ix = s.tile ix := by unfold State.tile; rfl
@[simp] theorem State.updCtx_region_at (c : Nat) (f : Ctx → Ctx) (ix : Nat) : (s.updCtx c f).region ix = s.region ix := by unfold State.region; rfl
@[simp] theorem State.updCtx_chan_at (c : Nat) (f : Ctx → Ctx) (ix : Nat) : (s.updCtx c f).chan ix = s.chan ix := by unfold State.chan; rfl
@[simp] theorem State.updCtx_stack_at (c : Nat) (f : Ctx → Ctx) (ix : Nat) : (s.updCtx c f).stack ix = s.stack ix := by unfold State.stack; rfl
@[simp] theorem State.updCtx_port_at (c : Nat) (f : Ctx → Ctx) (ix : Nat) : (s.updCtx c f).port ix = s.port ix := by unfold State.port; rfl
@[simp] theorem State.updCtx_queue_at (c : Nat) (f : Ctx → Ctx) (ix : Nat) : (s.updCtx c f).queue ix = s.queue ix := by unfold State.queue; rfl
@[simp] theorem State.updCtx_slot_at (c : Nat) (f : Ctx → Ctx) (ix : Nat) : (s.updCtx c f).slot ix = s.slot ix := by unfold State.slot; rfl
@[simp] theorem State.updCtx_lsByte_at (c : Nat) (f : Ctx → Ctx) (ix iy : Nat) : (s.updCtx c f).lsByte ix iy = s.lsByte ix iy := by unfold State.lsByte; rfl
@[simp] theorem State.updCtx_memByte_at (c : Nat) (f : Ctx → Ctx) (ix : Nat) : (s.updCtx c f).memByte ix = s.memByte ix := by unfold State.memByte; rfl
@[simp] theorem State.updCtx_lsMark_at (c : Nat) (f : Ctx → Ctx) (ix iy : Nat) : (s.updCtx c f).lsMark ix iy = s.lsMark ix iy := by unfold State.lsMark; rfl

/-! ### State.updCmd -/

@[simp] theorem State.updCmd_pending (q i : Nat) (f : Cmd → Cmd) : (s.updCmd q i f).pending = s.pending := rfl
@[simp] theorem State.updCmd_tiles (q i : Nat) (f : Cmd → Cmd) : (s.updCmd q i f).tiles = s.tiles := rfl
@[simp] theorem State.updCmd_tileDef (q i : Nat) (f : Cmd → Cmd) : (s.updCmd q i f).tileDef = s.tileDef := rfl
@[simp] theorem State.updCmd_regions (q i : Nat) (f : Cmd → Cmd) : (s.updCmd q i f).regions = s.regions := rfl
@[simp] theorem State.updCmd_ls (q i : Nat) (f : Cmd → Cmd) : (s.updCmd q i f).ls = s.ls := rfl
@[simp] theorem State.updCmd_lsMarks (q i : Nat) (f : Cmd → Cmd) : (s.updCmd q i f).lsMarks = s.lsMarks := rfl
@[simp] theorem State.updCmd_lsLog (q i : Nat) (f : Cmd → Cmd) : (s.updCmd q i f).lsLog = s.lsLog := rfl
@[simp] theorem State.updCmd_memLog (q i : Nat) (f : Cmd → Cmd) : (s.updCmd q i f).memLog = s.memLog := rfl
@[simp] theorem State.updCmd_lsWipe (q i : Nat) (f : Cmd → Cmd) : (s.updCmd q i f).lsWipe = s.lsWipe := rfl
@[simp] theorem State.updCmd_memWipe (q i : Nat) (f : Cmd → Cmd) : (s.updCmd q i f).memWipe = s.memWipe := rfl
@[simp] theorem State.updCmd_mesh (q i : Nat) (f : Cmd → Cmd) : (s.updCmd q i f).mesh = s.mesh := rfl
@[simp] theorem State.updCmd_meshTc (q i : Nat) (f : Cmd → Cmd) : (s.updCmd q i f).meshTc = s.meshTc := rfl
@[simp] theorem State.updCmd_answers (q i : Nat) (f : Cmd → Cmd) : (s.updCmd q i f).answers = s.answers := rfl
@[simp] theorem State.updCmd_cwld (q i : Nat) (f : Cmd → Cmd) : (s.updCmd q i f).cwld = s.cwld := rfl
@[simp] theorem State.updCmd_nan (q i : Nat) (f : Cmd → Cmd) : (s.updCmd q i f).nan = s.nan := rfl
@[simp] theorem State.updCmd_solvCtrl (q i : Nat) (f : Cmd → Cmd) : (s.updCmd q i f).solvCtrl = s.solvCtrl := rfl
@[simp] theorem State.updCmd_laths (q i : Nat) (f : Cmd → Cmd) : (s.updCmd q i f).laths = s.laths := rfl
@[simp] theorem State.updCmd_slots (q i : Nat) (f : Cmd → Cmd) : (s.updCmd q i f).slots = s.slots := rfl
@[simp] theorem State.updCmd_ctxs (q i : Nat) (f : Cmd → Cmd) : (s.updCmd q i f).ctxs = s.ctxs := rfl
@[simp] theorem State.updCmd_train (q i : Nat) (f : Cmd → Cmd) : (s.updCmd q i f).train = s.train := rfl
@[simp] theorem State.updCmd_esc (q i : Nat) (f : Cmd → Cmd) : (s.updCmd q i f).esc = s.esc := rfl
@[simp] theorem State.updCmd_mem (q i : Nat) (f : Cmd → Cmd) : (s.updCmd q i f).mem = s.mem := rfl
@[simp] theorem State.updCmd_fab (q i : Nat) (f : Cmd → Cmd) : (s.updCmd q i f).fab = s.fab := rfl
@[simp] theorem State.updCmd_slice (q i : Nat) (f : Cmd → Cmd) : (s.updCmd q i f).slice = s.slice := rfl
@[simp] theorem State.updCmd_cfg (q i : Nat) (f : Cmd → Cmd) : (s.updCmd q i f).cfg = s.cfg := rfl
@[simp] theorem State.updCmd_ras (q i : Nat) (f : Cmd → Cmd) : (s.updCmd q i f).ras = s.ras := rfl
@[simp] theorem State.updCmd_hang (q i : Nat) (f : Cmd → Cmd) : (s.updCmd q i f).hang = s.hang := rfl
@[simp] theorem State.updCmd_power (q i : Nat) (f : Cmd → Cmd) : (s.updCmd q i f).power = s.power := rfl
@[simp] theorem State.updCmd_flash (q i : Nat) (f : Cmd → Cmd) : (s.updCmd q i f).flash = s.flash := rfl
@[simp] theorem State.updCmd_freeCtr (q i : Nat) (f : Cmd → Cmd) : (s.updCmd q i f).freeCtr = s.freeCtr := rfl
@[simp] theorem State.updCmd_host_winCfg (q i : Nat) (f : Cmd → Cmd) : (s.updCmd q i f).host.winCfg = s.host.winCfg := rfl
@[simp] theorem State.updCmd_host_mirrorAddr (q i : Nat) (f : Cmd → Cmd) : (s.updCmd q i f).host.mirrorAddr = s.host.mirrorAddr := rfl
@[simp] theorem State.updCmd_host_mirrorCfg (q i : Nat) (f : Cmd → Cmd) : (s.updCmd q i f).host.mirrorCfg = s.host.mirrorCfg := rfl
@[simp] theorem State.updCmd_host_status (q i : Nat) (f : Cmd → Cmd) : (s.updCmd q i f).host.status = s.host.status := rfl
@[simp] theorem State.updCmd_host_link (q i : Nat) (f : Cmd → Cmd) : (s.updCmd q i f).host.link = s.host.link := rfl
@[simp] theorem State.updCmd_host_busMaster (q i : Nat) (f : Cmd → Cmd) : (s.updCmd q i f).host.busMaster = s.host.busMaster := rfl
@[simp] theorem State.updCmd_host_d0 (q i : Nat) (f : Cmd → Cmd) : (s.updCmd q i f).host.d0 = s.host.d0 := rfl
@[simp] theorem State.updCmd_host_tags (q i : Nat) (f : Cmd → Cmd) : (s.updCmd q i f).host.tags = s.host.tags := rfl
@[simp] theorem State.updCmd_host_held (q i : Nat) (f : Cmd → Cmd) : (s.updCmd q i f).host.held = s.host.held := rfl
@[simp] theorem State.updCmd_host_dmaDue (q i : Nat) (f : Cmd → Cmd) : (s.updCmd q i f).host.dmaDue = s.host.dmaDue := rfl
@[simp] theorem State.updCmd_host_mirrorSeq (q i : Nat) (f : Cmd → Cmd) : (s.updCmd q i f).host.mirrorSeq = s.host.mirrorSeq := rfl
@[simp] theorem State.updCmd_host_out (q i : Nat) (f : Cmd → Cmd) : (s.updCmd q i f).host.out = s.host.out := rfl
@[simp] theorem State.updCmd_host_reads (q i : Nat) (f : Cmd → Cmd) : (s.updCmd q i f).host.reads = s.host.reads := rfl
@[simp] theorem State.updCmd_host_fetches (q i : Nat) (f : Cmd → Cmd) : (s.updCmd q i f).host.fetches = s.host.fetches := rfl
@[simp] theorem State.updCmd_host_landed (q i : Nat) (f : Cmd → Cmd) : (s.updCmd q i f).host.landed = s.host.landed := rfl
@[simp] theorem State.updCmd_host_winLanded (q i : Nat) (f : Cmd → Cmd) : (s.updCmd q i f).host.winLanded = s.host.winLanded := rfl
@[simp] theorem State.updCmd_host_flagIn (q i : Nat) (f : Cmd → Cmd) : (s.updCmd q i f).host.flagIn = s.host.flagIn := rfl
@[simp] theorem State.updCmd_host_flags (q i : Nat) (f : Cmd → Cmd) : (s.updCmd q i f).host.flags = s.host.flags := rfl
@[simp] theorem State.updCmd_host_flagMarks (q i : Nat) (f : Cmd → Cmd) : (s.updCmd q i f).host.flagMarks = s.host.flagMarks := rfl
@[simp] theorem State.updCmd_host_flagScrub (q i : Nat) (f : Cmd → Cmd) : (s.updCmd q i f).host.flagScrub = s.host.flagScrub := rfl
@[simp] theorem State.updCmd_host_copies (q i : Nat) (f : Cmd → Cmd) : (s.updCmd q i f).host.copies = s.host.copies := rfl
@[simp] theorem State.updCmd_tile_at (q i : Nat) (f : Cmd → Cmd) (ix : Nat) : (s.updCmd q i f).tile ix = s.tile ix := by unfold State.tile; rfl
@[simp] theorem State.updCmd_region_at (q i : Nat) (f : Cmd → Cmd) (ix : Nat) : (s.updCmd q i f).region ix = s.region ix := by unfold State.region; rfl
@[simp] theorem State.updCmd_chan_at (q i : Nat) (f : Cmd → Cmd) (ix : Nat) : (s.updCmd q i f).chan ix = s.chan ix := by unfold State.chan; rfl
@[simp] theorem State.updCmd_stack_at (q i : Nat) (f : Cmd → Cmd) (ix : Nat) : (s.updCmd q i f).stack ix = s.stack ix := by unfold State.stack; rfl
@[simp] theorem State.updCmd_port_at (q i : Nat) (f : Cmd → Cmd) (ix : Nat) : (s.updCmd q i f).port ix = s.port ix := by unfold State.port; rfl
@[simp] theorem State.updCmd_slot_at (q i : Nat) (f : Cmd → Cmd) (ix : Nat) : (s.updCmd q i f).slot ix = s.slot ix := by unfold State.slot; rfl
@[simp] theorem State.updCmd_ctx_at (q i : Nat) (f : Cmd → Cmd) (ix : Nat) : (s.updCmd q i f).ctx ix = s.ctx ix := by unfold State.ctx; rfl
@[simp] theorem State.updCmd_lsByte_at (q i : Nat) (f : Cmd → Cmd) (ix iy : Nat) : (s.updCmd q i f).lsByte ix iy = s.lsByte ix iy := by unfold State.lsByte; rfl
@[simp] theorem State.updCmd_memByte_at (q i : Nat) (f : Cmd → Cmd) (ix : Nat) : (s.updCmd q i f).memByte ix = s.memByte ix := by unfold State.memByte; rfl
@[simp] theorem State.updCmd_lsMark_at (q i : Nat) (f : Cmd → Cmd) (ix iy : Nat) : (s.updCmd q i f).lsMark ix iy = s.lsMark ix iy := by unfold State.lsMark; rfl

/-! ### State.putLs -/

@[simp] theorem State.putLs_pending (t o : Nat) (b : Byte) : (s.putLs t o b).pending = s.pending := rfl
@[simp] theorem State.putLs_tiles (t o : Nat) (b : Byte) : (s.putLs t o b).tiles = s.tiles := rfl
@[simp] theorem State.putLs_tileDef (t o : Nat) (b : Byte) : (s.putLs t o b).tileDef = s.tileDef := rfl
@[simp] theorem State.putLs_regions (t o : Nat) (b : Byte) : (s.putLs t o b).regions = s.regions := rfl
@[simp] theorem State.putLs_ls (t o : Nat) (b : Byte) : (s.putLs t o b).ls = s.ls := rfl
@[simp] theorem State.putLs_lsMarks (t o : Nat) (b : Byte) : (s.putLs t o b).lsMarks = s.lsMarks := rfl
@[simp] theorem State.putLs_memLog (t o : Nat) (b : Byte) : (s.putLs t o b).memLog = s.memLog := rfl
@[simp] theorem State.putLs_lsWipe (t o : Nat) (b : Byte) : (s.putLs t o b).lsWipe = s.lsWipe := rfl
@[simp] theorem State.putLs_memWipe (t o : Nat) (b : Byte) : (s.putLs t o b).memWipe = s.memWipe := rfl
@[simp] theorem State.putLs_mesh (t o : Nat) (b : Byte) : (s.putLs t o b).mesh = s.mesh := rfl
@[simp] theorem State.putLs_meshTc (t o : Nat) (b : Byte) : (s.putLs t o b).meshTc = s.meshTc := rfl
@[simp] theorem State.putLs_answers (t o : Nat) (b : Byte) : (s.putLs t o b).answers = s.answers := rfl
@[simp] theorem State.putLs_cwld (t o : Nat) (b : Byte) : (s.putLs t o b).cwld = s.cwld := rfl
@[simp] theorem State.putLs_nan (t o : Nat) (b : Byte) : (s.putLs t o b).nan = s.nan := rfl
@[simp] theorem State.putLs_solvCtrl (t o : Nat) (b : Byte) : (s.putLs t o b).solvCtrl = s.solvCtrl := rfl
@[simp] theorem State.putLs_laths (t o : Nat) (b : Byte) : (s.putLs t o b).laths = s.laths := rfl
@[simp] theorem State.putLs_slots (t o : Nat) (b : Byte) : (s.putLs t o b).slots = s.slots := rfl
@[simp] theorem State.putLs_ctxs (t o : Nat) (b : Byte) : (s.putLs t o b).ctxs = s.ctxs := rfl
@[simp] theorem State.putLs_train (t o : Nat) (b : Byte) : (s.putLs t o b).train = s.train := rfl
@[simp] theorem State.putLs_esc (t o : Nat) (b : Byte) : (s.putLs t o b).esc = s.esc := rfl
@[simp] theorem State.putLs_mem (t o : Nat) (b : Byte) : (s.putLs t o b).mem = s.mem := rfl
@[simp] theorem State.putLs_fab (t o : Nat) (b : Byte) : (s.putLs t o b).fab = s.fab := rfl
@[simp] theorem State.putLs_slice (t o : Nat) (b : Byte) : (s.putLs t o b).slice = s.slice := rfl
@[simp] theorem State.putLs_cfg (t o : Nat) (b : Byte) : (s.putLs t o b).cfg = s.cfg := rfl
@[simp] theorem State.putLs_host (t o : Nat) (b : Byte) : (s.putLs t o b).host = s.host := rfl
@[simp] theorem State.putLs_ras (t o : Nat) (b : Byte) : (s.putLs t o b).ras = s.ras := rfl
@[simp] theorem State.putLs_hang (t o : Nat) (b : Byte) : (s.putLs t o b).hang = s.hang := rfl
@[simp] theorem State.putLs_power (t o : Nat) (b : Byte) : (s.putLs t o b).power = s.power := rfl
@[simp] theorem State.putLs_flash (t o : Nat) (b : Byte) : (s.putLs t o b).flash = s.flash := rfl
@[simp] theorem State.putLs_freeCtr (t o : Nat) (b : Byte) : (s.putLs t o b).freeCtr = s.freeCtr := rfl
@[simp] theorem State.putLs_tile_at (t o : Nat) (b : Byte) (ix : Nat) : (s.putLs t o b).tile ix = s.tile ix := by unfold State.tile; rfl
@[simp] theorem State.putLs_region_at (t o : Nat) (b : Byte) (ix : Nat) : (s.putLs t o b).region ix = s.region ix := by unfold State.region; rfl
@[simp] theorem State.putLs_chan_at (t o : Nat) (b : Byte) (ix : Nat) : (s.putLs t o b).chan ix = s.chan ix := by unfold State.chan; rfl
@[simp] theorem State.putLs_stack_at (t o : Nat) (b : Byte) (ix : Nat) : (s.putLs t o b).stack ix = s.stack ix := by unfold State.stack; rfl
@[simp] theorem State.putLs_port_at (t o : Nat) (b : Byte) (ix : Nat) : (s.putLs t o b).port ix = s.port ix := by unfold State.port; rfl
@[simp] theorem State.putLs_queue_at (t o : Nat) (b : Byte) (ix : Nat) : (s.putLs t o b).queue ix = s.queue ix := by unfold State.queue; rfl
@[simp] theorem State.putLs_slot_at (t o : Nat) (b : Byte) (ix : Nat) : (s.putLs t o b).slot ix = s.slot ix := by unfold State.slot; rfl
@[simp] theorem State.putLs_ctx_at (t o : Nat) (b : Byte) (ix : Nat) : (s.putLs t o b).ctx ix = s.ctx ix := by unfold State.ctx; rfl
@[simp] theorem State.putLs_memByte_at (t o : Nat) (b : Byte) (ix : Nat) : (s.putLs t o b).memByte ix = s.memByte ix := by unfold State.memByte; rfl
@[simp] theorem State.putLs_lsMark_at (t o : Nat) (b : Byte) (ix iy : Nat) : (s.putLs t o b).lsMark ix iy = s.lsMark ix iy := by unfold State.lsMark; rfl

/-! ### State.putMem -/

@[simp] theorem State.putMem_pending (a : Nat) (b : Byte) : (s.putMem a b).pending = s.pending := rfl
@[simp] theorem State.putMem_tiles (a : Nat) (b : Byte) : (s.putMem a b).tiles = s.tiles := rfl
@[simp] theorem State.putMem_tileDef (a : Nat) (b : Byte) : (s.putMem a b).tileDef = s.tileDef := rfl
@[simp] theorem State.putMem_regions (a : Nat) (b : Byte) : (s.putMem a b).regions = s.regions := rfl
@[simp] theorem State.putMem_ls (a : Nat) (b : Byte) : (s.putMem a b).ls = s.ls := rfl
@[simp] theorem State.putMem_lsMarks (a : Nat) (b : Byte) : (s.putMem a b).lsMarks = s.lsMarks := rfl
@[simp] theorem State.putMem_lsLog (a : Nat) (b : Byte) : (s.putMem a b).lsLog = s.lsLog := rfl
@[simp] theorem State.putMem_lsWipe (a : Nat) (b : Byte) : (s.putMem a b).lsWipe = s.lsWipe := rfl
@[simp] theorem State.putMem_memWipe (a : Nat) (b : Byte) : (s.putMem a b).memWipe = s.memWipe := rfl
@[simp] theorem State.putMem_mesh (a : Nat) (b : Byte) : (s.putMem a b).mesh = s.mesh := rfl
@[simp] theorem State.putMem_meshTc (a : Nat) (b : Byte) : (s.putMem a b).meshTc = s.meshTc := rfl
@[simp] theorem State.putMem_answers (a : Nat) (b : Byte) : (s.putMem a b).answers = s.answers := rfl
@[simp] theorem State.putMem_cwld (a : Nat) (b : Byte) : (s.putMem a b).cwld = s.cwld := rfl
@[simp] theorem State.putMem_nan (a : Nat) (b : Byte) : (s.putMem a b).nan = s.nan := rfl
@[simp] theorem State.putMem_solvCtrl (a : Nat) (b : Byte) : (s.putMem a b).solvCtrl = s.solvCtrl := rfl
@[simp] theorem State.putMem_laths (a : Nat) (b : Byte) : (s.putMem a b).laths = s.laths := rfl
@[simp] theorem State.putMem_slots (a : Nat) (b : Byte) : (s.putMem a b).slots = s.slots := rfl
@[simp] theorem State.putMem_ctxs (a : Nat) (b : Byte) : (s.putMem a b).ctxs = s.ctxs := rfl
@[simp] theorem State.putMem_train (a : Nat) (b : Byte) : (s.putMem a b).train = s.train := rfl
@[simp] theorem State.putMem_esc (a : Nat) (b : Byte) : (s.putMem a b).esc = s.esc := rfl
@[simp] theorem State.putMem_mem (a : Nat) (b : Byte) : (s.putMem a b).mem = s.mem := rfl
@[simp] theorem State.putMem_fab (a : Nat) (b : Byte) : (s.putMem a b).fab = s.fab := rfl
@[simp] theorem State.putMem_slice (a : Nat) (b : Byte) : (s.putMem a b).slice = s.slice := rfl
@[simp] theorem State.putMem_cfg (a : Nat) (b : Byte) : (s.putMem a b).cfg = s.cfg := rfl
@[simp] theorem State.putMem_host (a : Nat) (b : Byte) : (s.putMem a b).host = s.host := rfl
@[simp] theorem State.putMem_ras (a : Nat) (b : Byte) : (s.putMem a b).ras = s.ras := rfl
@[simp] theorem State.putMem_hang (a : Nat) (b : Byte) : (s.putMem a b).hang = s.hang := rfl
@[simp] theorem State.putMem_power (a : Nat) (b : Byte) : (s.putMem a b).power = s.power := rfl
@[simp] theorem State.putMem_flash (a : Nat) (b : Byte) : (s.putMem a b).flash = s.flash := rfl
@[simp] theorem State.putMem_freeCtr (a : Nat) (b : Byte) : (s.putMem a b).freeCtr = s.freeCtr := rfl
@[simp] theorem State.putMem_tile_at (a : Nat) (b : Byte) (ix : Nat) : (s.putMem a b).tile ix = s.tile ix := by unfold State.tile; rfl
@[simp] theorem State.putMem_region_at (a : Nat) (b : Byte) (ix : Nat) : (s.putMem a b).region ix = s.region ix := by unfold State.region; rfl
@[simp] theorem State.putMem_chan_at (a : Nat) (b : Byte) (ix : Nat) : (s.putMem a b).chan ix = s.chan ix := by unfold State.chan; rfl
@[simp] theorem State.putMem_stack_at (a : Nat) (b : Byte) (ix : Nat) : (s.putMem a b).stack ix = s.stack ix := by unfold State.stack; rfl
@[simp] theorem State.putMem_port_at (a : Nat) (b : Byte) (ix : Nat) : (s.putMem a b).port ix = s.port ix := by unfold State.port; rfl
@[simp] theorem State.putMem_queue_at (a : Nat) (b : Byte) (ix : Nat) : (s.putMem a b).queue ix = s.queue ix := by unfold State.queue; rfl
@[simp] theorem State.putMem_slot_at (a : Nat) (b : Byte) (ix : Nat) : (s.putMem a b).slot ix = s.slot ix := by unfold State.slot; rfl
@[simp] theorem State.putMem_ctx_at (a : Nat) (b : Byte) (ix : Nat) : (s.putMem a b).ctx ix = s.ctx ix := by unfold State.ctx; rfl
@[simp] theorem State.putMem_lsByte_at (a : Nat) (b : Byte) (ix iy : Nat) : (s.putMem a b).lsByte ix iy = s.lsByte ix iy := by unfold State.lsByte; rfl
@[simp] theorem State.putMem_lsMark_at (a : Nat) (b : Byte) (ix iy : Nat) : (s.putMem a b).lsMark ix iy = s.lsMark ix iy := by unfold State.lsMark; rfl

/-! ### State.setLsMark -/

@[simp] theorem State.setLsMark_pending (t w : Nat) (m : Mark) : (s.setLsMark t w m).pending = s.pending := rfl
@[simp] theorem State.setLsMark_tiles (t w : Nat) (m : Mark) : (s.setLsMark t w m).tiles = s.tiles := rfl
@[simp] theorem State.setLsMark_tileDef (t w : Nat) (m : Mark) : (s.setLsMark t w m).tileDef = s.tileDef := rfl
@[simp] theorem State.setLsMark_regions (t w : Nat) (m : Mark) : (s.setLsMark t w m).regions = s.regions := rfl
@[simp] theorem State.setLsMark_ls (t w : Nat) (m : Mark) : (s.setLsMark t w m).ls = s.ls := rfl
@[simp] theorem State.setLsMark_lsLog (t w : Nat) (m : Mark) : (s.setLsMark t w m).lsLog = s.lsLog := rfl
@[simp] theorem State.setLsMark_memLog (t w : Nat) (m : Mark) : (s.setLsMark t w m).memLog = s.memLog := rfl
@[simp] theorem State.setLsMark_lsWipe (t w : Nat) (m : Mark) : (s.setLsMark t w m).lsWipe = s.lsWipe := rfl
@[simp] theorem State.setLsMark_memWipe (t w : Nat) (m : Mark) : (s.setLsMark t w m).memWipe = s.memWipe := rfl
@[simp] theorem State.setLsMark_mesh (t w : Nat) (m : Mark) : (s.setLsMark t w m).mesh = s.mesh := rfl
@[simp] theorem State.setLsMark_meshTc (t w : Nat) (m : Mark) : (s.setLsMark t w m).meshTc = s.meshTc := rfl
@[simp] theorem State.setLsMark_answers (t w : Nat) (m : Mark) : (s.setLsMark t w m).answers = s.answers := rfl
@[simp] theorem State.setLsMark_cwld (t w : Nat) (m : Mark) : (s.setLsMark t w m).cwld = s.cwld := rfl
@[simp] theorem State.setLsMark_nan (t w : Nat) (m : Mark) : (s.setLsMark t w m).nan = s.nan := rfl
@[simp] theorem State.setLsMark_solvCtrl (t w : Nat) (m : Mark) : (s.setLsMark t w m).solvCtrl = s.solvCtrl := rfl
@[simp] theorem State.setLsMark_laths (t w : Nat) (m : Mark) : (s.setLsMark t w m).laths = s.laths := rfl
@[simp] theorem State.setLsMark_slots (t w : Nat) (m : Mark) : (s.setLsMark t w m).slots = s.slots := rfl
@[simp] theorem State.setLsMark_ctxs (t w : Nat) (m : Mark) : (s.setLsMark t w m).ctxs = s.ctxs := rfl
@[simp] theorem State.setLsMark_train (t w : Nat) (m : Mark) : (s.setLsMark t w m).train = s.train := rfl
@[simp] theorem State.setLsMark_esc (t w : Nat) (m : Mark) : (s.setLsMark t w m).esc = s.esc := rfl
@[simp] theorem State.setLsMark_mem (t w : Nat) (m : Mark) : (s.setLsMark t w m).mem = s.mem := rfl
@[simp] theorem State.setLsMark_fab (t w : Nat) (m : Mark) : (s.setLsMark t w m).fab = s.fab := rfl
@[simp] theorem State.setLsMark_slice (t w : Nat) (m : Mark) : (s.setLsMark t w m).slice = s.slice := rfl
@[simp] theorem State.setLsMark_cfg (t w : Nat) (m : Mark) : (s.setLsMark t w m).cfg = s.cfg := rfl
@[simp] theorem State.setLsMark_host (t w : Nat) (m : Mark) : (s.setLsMark t w m).host = s.host := rfl
@[simp] theorem State.setLsMark_ras (t w : Nat) (m : Mark) : (s.setLsMark t w m).ras = s.ras := rfl
@[simp] theorem State.setLsMark_hang (t w : Nat) (m : Mark) : (s.setLsMark t w m).hang = s.hang := rfl
@[simp] theorem State.setLsMark_power (t w : Nat) (m : Mark) : (s.setLsMark t w m).power = s.power := rfl
@[simp] theorem State.setLsMark_flash (t w : Nat) (m : Mark) : (s.setLsMark t w m).flash = s.flash := rfl
@[simp] theorem State.setLsMark_freeCtr (t w : Nat) (m : Mark) : (s.setLsMark t w m).freeCtr = s.freeCtr := rfl
@[simp] theorem State.setLsMark_tile_at (t w : Nat) (m : Mark) (ix : Nat) : (s.setLsMark t w m).tile ix = s.tile ix := by unfold State.tile; rfl
@[simp] theorem State.setLsMark_region_at (t w : Nat) (m : Mark) (ix : Nat) : (s.setLsMark t w m).region ix = s.region ix := by unfold State.region; rfl
@[simp] theorem State.setLsMark_chan_at (t w : Nat) (m : Mark) (ix : Nat) : (s.setLsMark t w m).chan ix = s.chan ix := by unfold State.chan; rfl
@[simp] theorem State.setLsMark_stack_at (t w : Nat) (m : Mark) (ix : Nat) : (s.setLsMark t w m).stack ix = s.stack ix := by unfold State.stack; rfl
@[simp] theorem State.setLsMark_port_at (t w : Nat) (m : Mark) (ix : Nat) : (s.setLsMark t w m).port ix = s.port ix := by unfold State.port; rfl
@[simp] theorem State.setLsMark_queue_at (t w : Nat) (m : Mark) (ix : Nat) : (s.setLsMark t w m).queue ix = s.queue ix := by unfold State.queue; rfl
@[simp] theorem State.setLsMark_slot_at (t w : Nat) (m : Mark) (ix : Nat) : (s.setLsMark t w m).slot ix = s.slot ix := by unfold State.slot; rfl
@[simp] theorem State.setLsMark_ctx_at (t w : Nat) (m : Mark) (ix : Nat) : (s.setLsMark t w m).ctx ix = s.ctx ix := by unfold State.ctx; rfl
@[simp] theorem State.setLsMark_lsByte_at (t w : Nat) (m : Mark) (ix iy : Nat) : (s.setLsMark t w m).lsByte ix iy = s.lsByte ix iy := by unfold State.lsByte; rfl
@[simp] theorem State.setLsMark_memByte_at (t w : Nat) (m : Mark) (ix : Nat) : (s.setLsMark t w m).memByte ix = s.memByte ix := by unfold State.memByte; rfl

/-! ### State.setMark -/

@[simp] theorem State.setMark_pending (a : Nat) (m : Mark) : (s.setMark a m).pending = s.pending := rfl
@[simp] theorem State.setMark_tiles (a : Nat) (m : Mark) : (s.setMark a m).tiles = s.tiles := rfl
@[simp] theorem State.setMark_tileDef (a : Nat) (m : Mark) : (s.setMark a m).tileDef = s.tileDef := rfl
@[simp] theorem State.setMark_regions (a : Nat) (m : Mark) : (s.setMark a m).regions = s.regions := rfl
@[simp] theorem State.setMark_ls (a : Nat) (m : Mark) : (s.setMark a m).ls = s.ls := rfl
@[simp] theorem State.setMark_lsMarks (a : Nat) (m : Mark) : (s.setMark a m).lsMarks = s.lsMarks := rfl
@[simp] theorem State.setMark_lsLog (a : Nat) (m : Mark) : (s.setMark a m).lsLog = s.lsLog := rfl
@[simp] theorem State.setMark_memLog (a : Nat) (m : Mark) : (s.setMark a m).memLog = s.memLog := rfl
@[simp] theorem State.setMark_lsWipe (a : Nat) (m : Mark) : (s.setMark a m).lsWipe = s.lsWipe := rfl
@[simp] theorem State.setMark_memWipe (a : Nat) (m : Mark) : (s.setMark a m).memWipe = s.memWipe := rfl
@[simp] theorem State.setMark_mesh (a : Nat) (m : Mark) : (s.setMark a m).mesh = s.mesh := rfl
@[simp] theorem State.setMark_meshTc (a : Nat) (m : Mark) : (s.setMark a m).meshTc = s.meshTc := rfl
@[simp] theorem State.setMark_answers (a : Nat) (m : Mark) : (s.setMark a m).answers = s.answers := rfl
@[simp] theorem State.setMark_cwld (a : Nat) (m : Mark) : (s.setMark a m).cwld = s.cwld := rfl
@[simp] theorem State.setMark_nan (a : Nat) (m : Mark) : (s.setMark a m).nan = s.nan := rfl
@[simp] theorem State.setMark_solvCtrl (a : Nat) (m : Mark) : (s.setMark a m).solvCtrl = s.solvCtrl := rfl
@[simp] theorem State.setMark_laths (a : Nat) (m : Mark) : (s.setMark a m).laths = s.laths := rfl
@[simp] theorem State.setMark_slots (a : Nat) (m : Mark) : (s.setMark a m).slots = s.slots := rfl
@[simp] theorem State.setMark_ctxs (a : Nat) (m : Mark) : (s.setMark a m).ctxs = s.ctxs := rfl
@[simp] theorem State.setMark_train (a : Nat) (m : Mark) : (s.setMark a m).train = s.train := rfl
@[simp] theorem State.setMark_esc (a : Nat) (m : Mark) : (s.setMark a m).esc = s.esc := rfl
@[simp] theorem State.setMark_fab (a : Nat) (m : Mark) : (s.setMark a m).fab = s.fab := rfl
@[simp] theorem State.setMark_slice (a : Nat) (m : Mark) : (s.setMark a m).slice = s.slice := rfl
@[simp] theorem State.setMark_cfg (a : Nat) (m : Mark) : (s.setMark a m).cfg = s.cfg := rfl
@[simp] theorem State.setMark_host (a : Nat) (m : Mark) : (s.setMark a m).host = s.host := rfl
@[simp] theorem State.setMark_ras (a : Nat) (m : Mark) : (s.setMark a m).ras = s.ras := rfl
@[simp] theorem State.setMark_hang (a : Nat) (m : Mark) : (s.setMark a m).hang = s.hang := rfl
@[simp] theorem State.setMark_power (a : Nat) (m : Mark) : (s.setMark a m).power = s.power := rfl
@[simp] theorem State.setMark_flash (a : Nat) (m : Mark) : (s.setMark a m).flash = s.flash := rfl
@[simp] theorem State.setMark_freeCtr (a : Nat) (m : Mark) : (s.setMark a m).freeCtr = s.freeCtr := rfl
@[simp] theorem State.setMark_mem_cfg (a : Nat) (m : Mark) : (s.setMark a m).mem.cfg = s.mem.cfg := rfl
@[simp] theorem State.setMark_mem_thermCfg (a : Nat) (m : Mark) : (s.setMark a m).mem.thermCfg = s.mem.thermCfg := rfl
@[simp] theorem State.setMark_mem_status (a : Nat) (m : Mark) : (s.setMark a m).mem.status = s.mem.status := rfl
@[simp] theorem State.setMark_mem_stks (a : Nat) (m : Mark) : (s.setMark a m).mem.stks = s.mem.stks := rfl
@[simp] theorem State.setMark_mem_chans (a : Nat) (m : Mark) : (s.setMark a m).mem.chans = s.mem.chans := rfl
@[simp] theorem State.setMark_mem_bytes (a : Nat) (m : Mark) : (s.setMark a m).mem.bytes = s.mem.bytes := rfl
@[simp] theorem State.setMark_mem_inbox (a : Nat) (m : Mark) : (s.setMark a m).mem.inbox = s.mem.inbox := rfl
@[simp] theorem State.setMark_tile_at (a : Nat) (m : Mark) (ix : Nat) : (s.setMark a m).tile ix = s.tile ix := by unfold State.tile; rfl
@[simp] theorem State.setMark_region_at (a : Nat) (m : Mark) (ix : Nat) : (s.setMark a m).region ix = s.region ix := by unfold State.region; rfl
@[simp] theorem State.setMark_chan_at (a : Nat) (m : Mark) (ix : Nat) : (s.setMark a m).chan ix = s.chan ix := by unfold State.chan; rfl
@[simp] theorem State.setMark_stack_at (a : Nat) (m : Mark) (ix : Nat) : (s.setMark a m).stack ix = s.stack ix := by unfold State.stack; rfl
@[simp] theorem State.setMark_port_at (a : Nat) (m : Mark) (ix : Nat) : (s.setMark a m).port ix = s.port ix := by unfold State.port; rfl
@[simp] theorem State.setMark_queue_at (a : Nat) (m : Mark) (ix : Nat) : (s.setMark a m).queue ix = s.queue ix := by unfold State.queue; rfl
@[simp] theorem State.setMark_slot_at (a : Nat) (m : Mark) (ix : Nat) : (s.setMark a m).slot ix = s.slot ix := by unfold State.slot; rfl
@[simp] theorem State.setMark_ctx_at (a : Nat) (m : Mark) (ix : Nat) : (s.setMark a m).ctx ix = s.ctx ix := by unfold State.ctx; rfl
@[simp] theorem State.setMark_lsByte_at (a : Nat) (m : Mark) (ix iy : Nat) : (s.setMark a m).lsByte ix iy = s.lsByte ix iy := by unfold State.lsByte; rfl
@[simp] theorem State.setMark_memByte_at (a : Nat) (m : Mark) (ix : Nat) : (s.setMark a m).memByte ix = s.memByte ix := by unfold State.memByte; rfl
@[simp] theorem State.setMark_lsMark_at (a : Nat) (m : Mark) (ix iy : Nat) : (s.setMark a m).lsMark ix iy = s.lsMark ix iy := by unfold State.lsMark; rfl

/-! ### State.setFlagMark -/

@[simp] theorem State.setFlagMark_pending (a : Nat) (m : Mark) : (s.setFlagMark a m).pending = s.pending := rfl
@[simp] theorem State.setFlagMark_tiles (a : Nat) (m : Mark) : (s.setFlagMark a m).tiles = s.tiles := rfl
@[simp] theorem State.setFlagMark_tileDef (a : Nat) (m : Mark) : (s.setFlagMark a m).tileDef = s.tileDef := rfl
@[simp] theorem State.setFlagMark_regions (a : Nat) (m : Mark) : (s.setFlagMark a m).regions = s.regions := rfl
@[simp] theorem State.setFlagMark_ls (a : Nat) (m : Mark) : (s.setFlagMark a m).ls = s.ls := rfl
@[simp] theorem State.setFlagMark_lsMarks (a : Nat) (m : Mark) : (s.setFlagMark a m).lsMarks = s.lsMarks := rfl
@[simp] theorem State.setFlagMark_lsLog (a : Nat) (m : Mark) : (s.setFlagMark a m).lsLog = s.lsLog := rfl
@[simp] theorem State.setFlagMark_memLog (a : Nat) (m : Mark) : (s.setFlagMark a m).memLog = s.memLog := rfl
@[simp] theorem State.setFlagMark_lsWipe (a : Nat) (m : Mark) : (s.setFlagMark a m).lsWipe = s.lsWipe := rfl
@[simp] theorem State.setFlagMark_memWipe (a : Nat) (m : Mark) : (s.setFlagMark a m).memWipe = s.memWipe := rfl
@[simp] theorem State.setFlagMark_mesh (a : Nat) (m : Mark) : (s.setFlagMark a m).mesh = s.mesh := rfl
@[simp] theorem State.setFlagMark_meshTc (a : Nat) (m : Mark) : (s.setFlagMark a m).meshTc = s.meshTc := rfl
@[simp] theorem State.setFlagMark_answers (a : Nat) (m : Mark) : (s.setFlagMark a m).answers = s.answers := rfl
@[simp] theorem State.setFlagMark_cwld (a : Nat) (m : Mark) : (s.setFlagMark a m).cwld = s.cwld := rfl
@[simp] theorem State.setFlagMark_nan (a : Nat) (m : Mark) : (s.setFlagMark a m).nan = s.nan := rfl
@[simp] theorem State.setFlagMark_solvCtrl (a : Nat) (m : Mark) : (s.setFlagMark a m).solvCtrl = s.solvCtrl := rfl
@[simp] theorem State.setFlagMark_laths (a : Nat) (m : Mark) : (s.setFlagMark a m).laths = s.laths := rfl
@[simp] theorem State.setFlagMark_slots (a : Nat) (m : Mark) : (s.setFlagMark a m).slots = s.slots := rfl
@[simp] theorem State.setFlagMark_ctxs (a : Nat) (m : Mark) : (s.setFlagMark a m).ctxs = s.ctxs := rfl
@[simp] theorem State.setFlagMark_train (a : Nat) (m : Mark) : (s.setFlagMark a m).train = s.train := rfl
@[simp] theorem State.setFlagMark_esc (a : Nat) (m : Mark) : (s.setFlagMark a m).esc = s.esc := rfl
@[simp] theorem State.setFlagMark_mem (a : Nat) (m : Mark) : (s.setFlagMark a m).mem = s.mem := rfl
@[simp] theorem State.setFlagMark_fab (a : Nat) (m : Mark) : (s.setFlagMark a m).fab = s.fab := rfl
@[simp] theorem State.setFlagMark_slice (a : Nat) (m : Mark) : (s.setFlagMark a m).slice = s.slice := rfl
@[simp] theorem State.setFlagMark_cfg (a : Nat) (m : Mark) : (s.setFlagMark a m).cfg = s.cfg := rfl
@[simp] theorem State.setFlagMark_ras (a : Nat) (m : Mark) : (s.setFlagMark a m).ras = s.ras := rfl
@[simp] theorem State.setFlagMark_hang (a : Nat) (m : Mark) : (s.setFlagMark a m).hang = s.hang := rfl
@[simp] theorem State.setFlagMark_power (a : Nat) (m : Mark) : (s.setFlagMark a m).power = s.power := rfl
@[simp] theorem State.setFlagMark_flash (a : Nat) (m : Mark) : (s.setFlagMark a m).flash = s.flash := rfl
@[simp] theorem State.setFlagMark_freeCtr (a : Nat) (m : Mark) : (s.setFlagMark a m).freeCtr = s.freeCtr := rfl
@[simp] theorem State.setFlagMark_host_winCfg (a : Nat) (m : Mark) : (s.setFlagMark a m).host.winCfg = s.host.winCfg := rfl
@[simp] theorem State.setFlagMark_host_mirrorAddr (a : Nat) (m : Mark) : (s.setFlagMark a m).host.mirrorAddr = s.host.mirrorAddr := rfl
@[simp] theorem State.setFlagMark_host_mirrorCfg (a : Nat) (m : Mark) : (s.setFlagMark a m).host.mirrorCfg = s.host.mirrorCfg := rfl
@[simp] theorem State.setFlagMark_host_status (a : Nat) (m : Mark) : (s.setFlagMark a m).host.status = s.host.status := rfl
@[simp] theorem State.setFlagMark_host_link (a : Nat) (m : Mark) : (s.setFlagMark a m).host.link = s.host.link := rfl
@[simp] theorem State.setFlagMark_host_busMaster (a : Nat) (m : Mark) : (s.setFlagMark a m).host.busMaster = s.host.busMaster := rfl
@[simp] theorem State.setFlagMark_host_d0 (a : Nat) (m : Mark) : (s.setFlagMark a m).host.d0 = s.host.d0 := rfl
@[simp] theorem State.setFlagMark_host_queues (a : Nat) (m : Mark) : (s.setFlagMark a m).host.queues = s.host.queues := rfl
@[simp] theorem State.setFlagMark_host_tags (a : Nat) (m : Mark) : (s.setFlagMark a m).host.tags = s.host.tags := rfl
@[simp] theorem State.setFlagMark_host_held (a : Nat) (m : Mark) : (s.setFlagMark a m).host.held = s.host.held := rfl
@[simp] theorem State.setFlagMark_host_dmaDue (a : Nat) (m : Mark) : (s.setFlagMark a m).host.dmaDue = s.host.dmaDue := rfl
@[simp] theorem State.setFlagMark_host_mirrorSeq (a : Nat) (m : Mark) : (s.setFlagMark a m).host.mirrorSeq = s.host.mirrorSeq := rfl
@[simp] theorem State.setFlagMark_host_out (a : Nat) (m : Mark) : (s.setFlagMark a m).host.out = s.host.out := rfl
@[simp] theorem State.setFlagMark_host_reads (a : Nat) (m : Mark) : (s.setFlagMark a m).host.reads = s.host.reads := rfl
@[simp] theorem State.setFlagMark_host_fetches (a : Nat) (m : Mark) : (s.setFlagMark a m).host.fetches = s.host.fetches := rfl
@[simp] theorem State.setFlagMark_host_landed (a : Nat) (m : Mark) : (s.setFlagMark a m).host.landed = s.host.landed := rfl
@[simp] theorem State.setFlagMark_host_winLanded (a : Nat) (m : Mark) : (s.setFlagMark a m).host.winLanded = s.host.winLanded := rfl
@[simp] theorem State.setFlagMark_host_flagIn (a : Nat) (m : Mark) : (s.setFlagMark a m).host.flagIn = s.host.flagIn := rfl
@[simp] theorem State.setFlagMark_host_flags (a : Nat) (m : Mark) : (s.setFlagMark a m).host.flags = s.host.flags := rfl
@[simp] theorem State.setFlagMark_host_flagScrub (a : Nat) (m : Mark) : (s.setFlagMark a m).host.flagScrub = s.host.flagScrub := rfl
@[simp] theorem State.setFlagMark_host_copies (a : Nat) (m : Mark) : (s.setFlagMark a m).host.copies = s.host.copies := rfl
@[simp] theorem State.setFlagMark_tile_at (a : Nat) (m : Mark) (ix : Nat) : (s.setFlagMark a m).tile ix = s.tile ix := by unfold State.tile; rfl
@[simp] theorem State.setFlagMark_region_at (a : Nat) (m : Mark) (ix : Nat) : (s.setFlagMark a m).region ix = s.region ix := by unfold State.region; rfl
@[simp] theorem State.setFlagMark_chan_at (a : Nat) (m : Mark) (ix : Nat) : (s.setFlagMark a m).chan ix = s.chan ix := by unfold State.chan; rfl
@[simp] theorem State.setFlagMark_stack_at (a : Nat) (m : Mark) (ix : Nat) : (s.setFlagMark a m).stack ix = s.stack ix := by unfold State.stack; rfl
@[simp] theorem State.setFlagMark_port_at (a : Nat) (m : Mark) (ix : Nat) : (s.setFlagMark a m).port ix = s.port ix := by unfold State.port; rfl
@[simp] theorem State.setFlagMark_queue_at (a : Nat) (m : Mark) (ix : Nat) : (s.setFlagMark a m).queue ix = s.queue ix := by unfold State.queue; rfl
@[simp] theorem State.setFlagMark_slot_at (a : Nat) (m : Mark) (ix : Nat) : (s.setFlagMark a m).slot ix = s.slot ix := by unfold State.slot; rfl
@[simp] theorem State.setFlagMark_ctx_at (a : Nat) (m : Mark) (ix : Nat) : (s.setFlagMark a m).ctx ix = s.ctx ix := by unfold State.ctx; rfl
@[simp] theorem State.setFlagMark_lsByte_at (a : Nat) (m : Mark) (ix iy : Nat) : (s.setFlagMark a m).lsByte ix iy = s.lsByte ix iy := by unfold State.lsByte; rfl
@[simp] theorem State.setFlagMark_memByte_at (a : Nat) (m : Mark) (ix : Nat) : (s.setFlagMark a m).memByte ix = s.memByte ix := by unfold State.memByte; rfl
@[simp] theorem State.setFlagMark_lsMark_at (a : Nat) (m : Mark) (ix iy : Nat) : (s.setFlagMark a m).lsMark ix iy = s.lsMark ix iy := by unfold State.lsMark; rfl

/-! ### State.raise -/

@[simp] theorem State.raise_pending (f : FaultRec) : (s.raise f).pending = s.pending := rfl
@[simp] theorem State.raise_tiles (f : FaultRec) : (s.raise f).tiles = s.tiles := rfl
@[simp] theorem State.raise_tileDef (f : FaultRec) : (s.raise f).tileDef = s.tileDef := rfl
@[simp] theorem State.raise_regions (f : FaultRec) : (s.raise f).regions = s.regions := rfl
@[simp] theorem State.raise_ls (f : FaultRec) : (s.raise f).ls = s.ls := rfl
@[simp] theorem State.raise_lsMarks (f : FaultRec) : (s.raise f).lsMarks = s.lsMarks := rfl
@[simp] theorem State.raise_lsLog (f : FaultRec) : (s.raise f).lsLog = s.lsLog := rfl
@[simp] theorem State.raise_memLog (f : FaultRec) : (s.raise f).memLog = s.memLog := rfl
@[simp] theorem State.raise_lsWipe (f : FaultRec) : (s.raise f).lsWipe = s.lsWipe := rfl
@[simp] theorem State.raise_memWipe (f : FaultRec) : (s.raise f).memWipe = s.memWipe := rfl
@[simp] theorem State.raise_mesh (f : FaultRec) : (s.raise f).mesh = s.mesh := rfl
@[simp] theorem State.raise_meshTc (f : FaultRec) : (s.raise f).meshTc = s.meshTc := rfl
@[simp] theorem State.raise_answers (f : FaultRec) : (s.raise f).answers = s.answers := rfl
@[simp] theorem State.raise_cwld (f : FaultRec) : (s.raise f).cwld = s.cwld := rfl
@[simp] theorem State.raise_nan (f : FaultRec) : (s.raise f).nan = s.nan := rfl
@[simp] theorem State.raise_solvCtrl (f : FaultRec) : (s.raise f).solvCtrl = s.solvCtrl := rfl
@[simp] theorem State.raise_laths (f : FaultRec) : (s.raise f).laths = s.laths := rfl
@[simp] theorem State.raise_slots (f : FaultRec) : (s.raise f).slots = s.slots := rfl
@[simp] theorem State.raise_ctxs (f : FaultRec) : (s.raise f).ctxs = s.ctxs := rfl
@[simp] theorem State.raise_train (f : FaultRec) : (s.raise f).train = s.train := rfl
@[simp] theorem State.raise_esc (f : FaultRec) : (s.raise f).esc = s.esc := rfl
@[simp] theorem State.raise_mem (f : FaultRec) : (s.raise f).mem = s.mem := rfl
@[simp] theorem State.raise_fab (f : FaultRec) : (s.raise f).fab = s.fab := rfl
@[simp] theorem State.raise_slice (f : FaultRec) : (s.raise f).slice = s.slice := rfl
@[simp] theorem State.raise_cfg (f : FaultRec) : (s.raise f).cfg = s.cfg := rfl
@[simp] theorem State.raise_host (f : FaultRec) : (s.raise f).host = s.host := rfl
@[simp] theorem State.raise_hang (f : FaultRec) : (s.raise f).hang = s.hang := rfl
@[simp] theorem State.raise_power (f : FaultRec) : (s.raise f).power = s.power := rfl
@[simp] theorem State.raise_flash (f : FaultRec) : (s.raise f).flash = s.flash := rfl
@[simp] theorem State.raise_freeCtr (f : FaultRec) : (s.raise f).freeCtr = s.freeCtr := rfl
@[simp] theorem State.raise_tile_at (f : FaultRec) (ix : Nat) : (s.raise f).tile ix = s.tile ix := by unfold State.tile; rfl
@[simp] theorem State.raise_region_at (f : FaultRec) (ix : Nat) : (s.raise f).region ix = s.region ix := by unfold State.region; rfl
@[simp] theorem State.raise_chan_at (f : FaultRec) (ix : Nat) : (s.raise f).chan ix = s.chan ix := by unfold State.chan; rfl
@[simp] theorem State.raise_stack_at (f : FaultRec) (ix : Nat) : (s.raise f).stack ix = s.stack ix := by unfold State.stack; rfl
@[simp] theorem State.raise_port_at (f : FaultRec) (ix : Nat) : (s.raise f).port ix = s.port ix := by unfold State.port; rfl
@[simp] theorem State.raise_queue_at (f : FaultRec) (ix : Nat) : (s.raise f).queue ix = s.queue ix := by unfold State.queue; rfl
@[simp] theorem State.raise_slot_at (f : FaultRec) (ix : Nat) : (s.raise f).slot ix = s.slot ix := by unfold State.slot; rfl
@[simp] theorem State.raise_ctx_at (f : FaultRec) (ix : Nat) : (s.raise f).ctx ix = s.ctx ix := by unfold State.ctx; rfl
@[simp] theorem State.raise_lsByte_at (f : FaultRec) (ix iy : Nat) : (s.raise f).lsByte ix iy = s.lsByte ix iy := by unfold State.lsByte; rfl
@[simp] theorem State.raise_memByte_at (f : FaultRec) (ix : Nat) : (s.raise f).memByte ix = s.memByte ix := by unfold State.memByte; rfl
@[simp] theorem State.raise_lsMark_at (f : FaultRec) (ix iy : Nat) : (s.raise f).lsMark ix iy = s.lsMark ix iy := by unfold State.lsMark; rfl

/-! ### State.fault -/

@[simp] theorem State.fault_pending (c : Cause) (u : FaultUnit) (i : Nat) (d : W64) : (s.fault c u i d).pending = s.pending := rfl
@[simp] theorem State.fault_tiles (c : Cause) (u : FaultUnit) (i : Nat) (d : W64) : (s.fault c u i d).tiles = s.tiles := rfl
@[simp] theorem State.fault_tileDef (c : Cause) (u : FaultUnit) (i : Nat) (d : W64) : (s.fault c u i d).tileDef = s.tileDef := rfl
@[simp] theorem State.fault_regions (c : Cause) (u : FaultUnit) (i : Nat) (d : W64) : (s.fault c u i d).regions = s.regions := rfl
@[simp] theorem State.fault_ls (c : Cause) (u : FaultUnit) (i : Nat) (d : W64) : (s.fault c u i d).ls = s.ls := rfl
@[simp] theorem State.fault_lsMarks (c : Cause) (u : FaultUnit) (i : Nat) (d : W64) : (s.fault c u i d).lsMarks = s.lsMarks := rfl
@[simp] theorem State.fault_lsLog (c : Cause) (u : FaultUnit) (i : Nat) (d : W64) : (s.fault c u i d).lsLog = s.lsLog := rfl
@[simp] theorem State.fault_memLog (c : Cause) (u : FaultUnit) (i : Nat) (d : W64) : (s.fault c u i d).memLog = s.memLog := rfl
@[simp] theorem State.fault_lsWipe (c : Cause) (u : FaultUnit) (i : Nat) (d : W64) : (s.fault c u i d).lsWipe = s.lsWipe := rfl
@[simp] theorem State.fault_memWipe (c : Cause) (u : FaultUnit) (i : Nat) (d : W64) : (s.fault c u i d).memWipe = s.memWipe := rfl
@[simp] theorem State.fault_mesh (c : Cause) (u : FaultUnit) (i : Nat) (d : W64) : (s.fault c u i d).mesh = s.mesh := rfl
@[simp] theorem State.fault_meshTc (c : Cause) (u : FaultUnit) (i : Nat) (d : W64) : (s.fault c u i d).meshTc = s.meshTc := rfl
@[simp] theorem State.fault_answers (c : Cause) (u : FaultUnit) (i : Nat) (d : W64) : (s.fault c u i d).answers = s.answers := rfl
@[simp] theorem State.fault_cwld (c : Cause) (u : FaultUnit) (i : Nat) (d : W64) : (s.fault c u i d).cwld = s.cwld := rfl
@[simp] theorem State.fault_nan (c : Cause) (u : FaultUnit) (i : Nat) (d : W64) : (s.fault c u i d).nan = s.nan := rfl
@[simp] theorem State.fault_solvCtrl (c : Cause) (u : FaultUnit) (i : Nat) (d : W64) : (s.fault c u i d).solvCtrl = s.solvCtrl := rfl
@[simp] theorem State.fault_laths (c : Cause) (u : FaultUnit) (i : Nat) (d : W64) : (s.fault c u i d).laths = s.laths := rfl
@[simp] theorem State.fault_slots (c : Cause) (u : FaultUnit) (i : Nat) (d : W64) : (s.fault c u i d).slots = s.slots := rfl
@[simp] theorem State.fault_ctxs (c : Cause) (u : FaultUnit) (i : Nat) (d : W64) : (s.fault c u i d).ctxs = s.ctxs := rfl
@[simp] theorem State.fault_train (c : Cause) (u : FaultUnit) (i : Nat) (d : W64) : (s.fault c u i d).train = s.train := rfl
@[simp] theorem State.fault_esc (c : Cause) (u : FaultUnit) (i : Nat) (d : W64) : (s.fault c u i d).esc = s.esc := rfl
@[simp] theorem State.fault_mem (c : Cause) (u : FaultUnit) (i : Nat) (d : W64) : (s.fault c u i d).mem = s.mem := rfl
@[simp] theorem State.fault_fab (c : Cause) (u : FaultUnit) (i : Nat) (d : W64) : (s.fault c u i d).fab = s.fab := rfl
@[simp] theorem State.fault_slice (c : Cause) (u : FaultUnit) (i : Nat) (d : W64) : (s.fault c u i d).slice = s.slice := rfl
@[simp] theorem State.fault_cfg (c : Cause) (u : FaultUnit) (i : Nat) (d : W64) : (s.fault c u i d).cfg = s.cfg := rfl
@[simp] theorem State.fault_host (c : Cause) (u : FaultUnit) (i : Nat) (d : W64) : (s.fault c u i d).host = s.host := rfl
@[simp] theorem State.fault_hang (c : Cause) (u : FaultUnit) (i : Nat) (d : W64) : (s.fault c u i d).hang = s.hang := rfl
@[simp] theorem State.fault_power (c : Cause) (u : FaultUnit) (i : Nat) (d : W64) : (s.fault c u i d).power = s.power := rfl
@[simp] theorem State.fault_flash (c : Cause) (u : FaultUnit) (i : Nat) (d : W64) : (s.fault c u i d).flash = s.flash := rfl
@[simp] theorem State.fault_freeCtr (c : Cause) (u : FaultUnit) (i : Nat) (d : W64) : (s.fault c u i d).freeCtr = s.freeCtr := rfl
@[simp] theorem State.fault_tile_at (c : Cause) (u : FaultUnit) (i : Nat) (d : W64) (ix : Nat) : (s.fault c u i d).tile ix = s.tile ix := by unfold State.tile; rfl
@[simp] theorem State.fault_region_at (c : Cause) (u : FaultUnit) (i : Nat) (d : W64) (ix : Nat) : (s.fault c u i d).region ix = s.region ix := by unfold State.region; rfl
@[simp] theorem State.fault_chan_at (c : Cause) (u : FaultUnit) (i : Nat) (d : W64) (ix : Nat) : (s.fault c u i d).chan ix = s.chan ix := by unfold State.chan; rfl
@[simp] theorem State.fault_stack_at (c : Cause) (u : FaultUnit) (i : Nat) (d : W64) (ix : Nat) : (s.fault c u i d).stack ix = s.stack ix := by unfold State.stack; rfl
@[simp] theorem State.fault_port_at (c : Cause) (u : FaultUnit) (i : Nat) (d : W64) (ix : Nat) : (s.fault c u i d).port ix = s.port ix := by unfold State.port; rfl
@[simp] theorem State.fault_queue_at (c : Cause) (u : FaultUnit) (i : Nat) (d : W64) (ix : Nat) : (s.fault c u i d).queue ix = s.queue ix := by unfold State.queue; rfl
@[simp] theorem State.fault_slot_at (c : Cause) (u : FaultUnit) (i : Nat) (d : W64) (ix : Nat) : (s.fault c u i d).slot ix = s.slot ix := by unfold State.slot; rfl
@[simp] theorem State.fault_ctx_at (c : Cause) (u : FaultUnit) (i : Nat) (d : W64) (ix : Nat) : (s.fault c u i d).ctx ix = s.ctx ix := by unfold State.ctx; rfl
@[simp] theorem State.fault_lsByte_at (c : Cause) (u : FaultUnit) (i : Nat) (d : W64) (ix iy : Nat) : (s.fault c u i d).lsByte ix iy = s.lsByte ix iy := by unfold State.lsByte; rfl
@[simp] theorem State.fault_memByte_at (c : Cause) (u : FaultUnit) (i : Nat) (d : W64) (ix : Nat) : (s.fault c u i d).memByte ix = s.memByte ix := by unfold State.memByte; rfl
@[simp] theorem State.fault_lsMark_at (c : Cause) (u : FaultUnit) (i : Nat) (d : W64) (ix iy : Nat) : (s.fault c u i d).lsMark ix iy = s.lsMark ix iy := by unfold State.lsMark; rfl

/-! ### State.toChannels -/

@[simp] theorem State.toChannels_pending (rs : List LineReq) : (s.toChannels rs).pending = s.pending := rfl
@[simp] theorem State.toChannels_tiles (rs : List LineReq) : (s.toChannels rs).tiles = s.tiles := rfl
@[simp] theorem State.toChannels_tileDef (rs : List LineReq) : (s.toChannels rs).tileDef = s.tileDef := rfl
@[simp] theorem State.toChannels_regions (rs : List LineReq) : (s.toChannels rs).regions = s.regions := rfl
@[simp] theorem State.toChannels_ls (rs : List LineReq) : (s.toChannels rs).ls = s.ls := rfl
@[simp] theorem State.toChannels_lsMarks (rs : List LineReq) : (s.toChannels rs).lsMarks = s.lsMarks := rfl
@[simp] theorem State.toChannels_lsLog (rs : List LineReq) : (s.toChannels rs).lsLog = s.lsLog := rfl
@[simp] theorem State.toChannels_memLog (rs : List LineReq) : (s.toChannels rs).memLog = s.memLog := rfl
@[simp] theorem State.toChannels_lsWipe (rs : List LineReq) : (s.toChannels rs).lsWipe = s.lsWipe := rfl
@[simp] theorem State.toChannels_memWipe (rs : List LineReq) : (s.toChannels rs).memWipe = s.memWipe := rfl
@[simp] theorem State.toChannels_mesh (rs : List LineReq) : (s.toChannels rs).mesh = s.mesh := rfl
@[simp] theorem State.toChannels_meshTc (rs : List LineReq) : (s.toChannels rs).meshTc = s.meshTc := rfl
@[simp] theorem State.toChannels_answers (rs : List LineReq) : (s.toChannels rs).answers = s.answers := rfl
@[simp] theorem State.toChannels_cwld (rs : List LineReq) : (s.toChannels rs).cwld = s.cwld := rfl
@[simp] theorem State.toChannels_nan (rs : List LineReq) : (s.toChannels rs).nan = s.nan := rfl
@[simp] theorem State.toChannels_solvCtrl (rs : List LineReq) : (s.toChannels rs).solvCtrl = s.solvCtrl := rfl
@[simp] theorem State.toChannels_laths (rs : List LineReq) : (s.toChannels rs).laths = s.laths := rfl
@[simp] theorem State.toChannels_slots (rs : List LineReq) : (s.toChannels rs).slots = s.slots := rfl
@[simp] theorem State.toChannels_ctxs (rs : List LineReq) : (s.toChannels rs).ctxs = s.ctxs := rfl
@[simp] theorem State.toChannels_train (rs : List LineReq) : (s.toChannels rs).train = s.train := rfl
@[simp] theorem State.toChannels_esc (rs : List LineReq) : (s.toChannels rs).esc = s.esc := rfl
@[simp] theorem State.toChannels_fab (rs : List LineReq) : (s.toChannels rs).fab = s.fab := rfl
@[simp] theorem State.toChannels_slice (rs : List LineReq) : (s.toChannels rs).slice = s.slice := rfl
@[simp] theorem State.toChannels_cfg (rs : List LineReq) : (s.toChannels rs).cfg = s.cfg := rfl
@[simp] theorem State.toChannels_host (rs : List LineReq) : (s.toChannels rs).host = s.host := rfl
@[simp] theorem State.toChannels_ras (rs : List LineReq) : (s.toChannels rs).ras = s.ras := rfl
@[simp] theorem State.toChannels_hang (rs : List LineReq) : (s.toChannels rs).hang = s.hang := rfl
@[simp] theorem State.toChannels_power (rs : List LineReq) : (s.toChannels rs).power = s.power := rfl
@[simp] theorem State.toChannels_flash (rs : List LineReq) : (s.toChannels rs).flash = s.flash := rfl
@[simp] theorem State.toChannels_freeCtr (rs : List LineReq) : (s.toChannels rs).freeCtr = s.freeCtr := rfl
@[simp] theorem State.toChannels_mem_cfg (rs : List LineReq) : (s.toChannels rs).mem.cfg = s.mem.cfg := rfl
@[simp] theorem State.toChannels_mem_thermCfg (rs : List LineReq) : (s.toChannels rs).mem.thermCfg = s.mem.thermCfg := rfl
@[simp] theorem State.toChannels_mem_status (rs : List LineReq) : (s.toChannels rs).mem.status = s.mem.status := rfl
@[simp] theorem State.toChannels_mem_stks (rs : List LineReq) : (s.toChannels rs).mem.stks = s.mem.stks := rfl
@[simp] theorem State.toChannels_mem_chans (rs : List LineReq) : (s.toChannels rs).mem.chans = s.mem.chans := rfl
@[simp] theorem State.toChannels_mem_bytes (rs : List LineReq) : (s.toChannels rs).mem.bytes = s.mem.bytes := rfl
@[simp] theorem State.toChannels_mem_marks (rs : List LineReq) : (s.toChannels rs).mem.marks = s.mem.marks := rfl
@[simp] theorem State.toChannels_tile_at (rs : List LineReq) (ix : Nat) : (s.toChannels rs).tile ix = s.tile ix := by unfold State.tile; rfl
@[simp] theorem State.toChannels_region_at (rs : List LineReq) (ix : Nat) : (s.toChannels rs).region ix = s.region ix := by unfold State.region; rfl
@[simp] theorem State.toChannels_chan_at (rs : List LineReq) (ix : Nat) : (s.toChannels rs).chan ix = s.chan ix := by unfold State.chan; rfl
@[simp] theorem State.toChannels_stack_at (rs : List LineReq) (ix : Nat) : (s.toChannels rs).stack ix = s.stack ix := by unfold State.stack; rfl
@[simp] theorem State.toChannels_port_at (rs : List LineReq) (ix : Nat) : (s.toChannels rs).port ix = s.port ix := by unfold State.port; rfl
@[simp] theorem State.toChannels_queue_at (rs : List LineReq) (ix : Nat) : (s.toChannels rs).queue ix = s.queue ix := by unfold State.queue; rfl
@[simp] theorem State.toChannels_slot_at (rs : List LineReq) (ix : Nat) : (s.toChannels rs).slot ix = s.slot ix := by unfold State.slot; rfl
@[simp] theorem State.toChannels_ctx_at (rs : List LineReq) (ix : Nat) : (s.toChannels rs).ctx ix = s.ctx ix := by unfold State.ctx; rfl
@[simp] theorem State.toChannels_lsByte_at (rs : List LineReq) (ix iy : Nat) : (s.toChannels rs).lsByte ix iy = s.lsByte ix iy := by unfold State.lsByte; rfl
@[simp] theorem State.toChannels_memByte_at (rs : List LineReq) (ix : Nat) : (s.toChannels rs).memByte ix = s.memByte ix := by unfold State.memByte; rfl
@[simp] theorem State.toChannels_lsMark_at (rs : List LineReq) (ix iy : Nat) : (s.toChannels rs).lsMark ix iy = s.lsMark ix iy := by unfold State.lsMark; rfl

/-! ### State.toFlags -/

@[simp] theorem State.toFlags_pending (fs : List (ReqSrc × Nat × FlagAct)) : (s.toFlags fs).pending = s.pending := rfl
@[simp] theorem State.toFlags_tiles (fs : List (ReqSrc × Nat × FlagAct)) : (s.toFlags fs).tiles = s.tiles := rfl
@[simp] theorem State.toFlags_tileDef (fs : List (ReqSrc × Nat × FlagAct)) : (s.toFlags fs).tileDef = s.tileDef := rfl
@[simp] theorem State.toFlags_regions (fs : List (ReqSrc × Nat × FlagAct)) : (s.toFlags fs).regions = s.regions := rfl
@[simp] theorem State.toFlags_ls (fs : List (ReqSrc × Nat × FlagAct)) : (s.toFlags fs).ls = s.ls := rfl
@[simp] theorem State.toFlags_lsMarks (fs : List (ReqSrc × Nat × FlagAct)) : (s.toFlags fs).lsMarks = s.lsMarks := rfl
@[simp] theorem State.toFlags_lsLog (fs : List (ReqSrc × Nat × FlagAct)) : (s.toFlags fs).lsLog = s.lsLog := rfl
@[simp] theorem State.toFlags_memLog (fs : List (ReqSrc × Nat × FlagAct)) : (s.toFlags fs).memLog = s.memLog := rfl
@[simp] theorem State.toFlags_lsWipe (fs : List (ReqSrc × Nat × FlagAct)) : (s.toFlags fs).lsWipe = s.lsWipe := rfl
@[simp] theorem State.toFlags_memWipe (fs : List (ReqSrc × Nat × FlagAct)) : (s.toFlags fs).memWipe = s.memWipe := rfl
@[simp] theorem State.toFlags_mesh (fs : List (ReqSrc × Nat × FlagAct)) : (s.toFlags fs).mesh = s.mesh := rfl
@[simp] theorem State.toFlags_meshTc (fs : List (ReqSrc × Nat × FlagAct)) : (s.toFlags fs).meshTc = s.meshTc := rfl
@[simp] theorem State.toFlags_answers (fs : List (ReqSrc × Nat × FlagAct)) : (s.toFlags fs).answers = s.answers := rfl
@[simp] theorem State.toFlags_cwld (fs : List (ReqSrc × Nat × FlagAct)) : (s.toFlags fs).cwld = s.cwld := rfl
@[simp] theorem State.toFlags_nan (fs : List (ReqSrc × Nat × FlagAct)) : (s.toFlags fs).nan = s.nan := rfl
@[simp] theorem State.toFlags_solvCtrl (fs : List (ReqSrc × Nat × FlagAct)) : (s.toFlags fs).solvCtrl = s.solvCtrl := rfl
@[simp] theorem State.toFlags_laths (fs : List (ReqSrc × Nat × FlagAct)) : (s.toFlags fs).laths = s.laths := rfl
@[simp] theorem State.toFlags_slots (fs : List (ReqSrc × Nat × FlagAct)) : (s.toFlags fs).slots = s.slots := rfl
@[simp] theorem State.toFlags_ctxs (fs : List (ReqSrc × Nat × FlagAct)) : (s.toFlags fs).ctxs = s.ctxs := rfl
@[simp] theorem State.toFlags_train (fs : List (ReqSrc × Nat × FlagAct)) : (s.toFlags fs).train = s.train := rfl
@[simp] theorem State.toFlags_esc (fs : List (ReqSrc × Nat × FlagAct)) : (s.toFlags fs).esc = s.esc := rfl
@[simp] theorem State.toFlags_mem (fs : List (ReqSrc × Nat × FlagAct)) : (s.toFlags fs).mem = s.mem := rfl
@[simp] theorem State.toFlags_fab (fs : List (ReqSrc × Nat × FlagAct)) : (s.toFlags fs).fab = s.fab := rfl
@[simp] theorem State.toFlags_slice (fs : List (ReqSrc × Nat × FlagAct)) : (s.toFlags fs).slice = s.slice := rfl
@[simp] theorem State.toFlags_cfg (fs : List (ReqSrc × Nat × FlagAct)) : (s.toFlags fs).cfg = s.cfg := rfl
@[simp] theorem State.toFlags_ras (fs : List (ReqSrc × Nat × FlagAct)) : (s.toFlags fs).ras = s.ras := rfl
@[simp] theorem State.toFlags_hang (fs : List (ReqSrc × Nat × FlagAct)) : (s.toFlags fs).hang = s.hang := rfl
@[simp] theorem State.toFlags_power (fs : List (ReqSrc × Nat × FlagAct)) : (s.toFlags fs).power = s.power := rfl
@[simp] theorem State.toFlags_flash (fs : List (ReqSrc × Nat × FlagAct)) : (s.toFlags fs).flash = s.flash := rfl
@[simp] theorem State.toFlags_freeCtr (fs : List (ReqSrc × Nat × FlagAct)) : (s.toFlags fs).freeCtr = s.freeCtr := rfl
@[simp] theorem State.toFlags_host_winCfg (fs : List (ReqSrc × Nat × FlagAct)) : (s.toFlags fs).host.winCfg = s.host.winCfg := rfl
@[simp] theorem State.toFlags_host_mirrorAddr (fs : List (ReqSrc × Nat × FlagAct)) : (s.toFlags fs).host.mirrorAddr = s.host.mirrorAddr := rfl
@[simp] theorem State.toFlags_host_mirrorCfg (fs : List (ReqSrc × Nat × FlagAct)) : (s.toFlags fs).host.mirrorCfg = s.host.mirrorCfg := rfl
@[simp] theorem State.toFlags_host_status (fs : List (ReqSrc × Nat × FlagAct)) : (s.toFlags fs).host.status = s.host.status := rfl
@[simp] theorem State.toFlags_host_link (fs : List (ReqSrc × Nat × FlagAct)) : (s.toFlags fs).host.link = s.host.link := rfl
@[simp] theorem State.toFlags_host_busMaster (fs : List (ReqSrc × Nat × FlagAct)) : (s.toFlags fs).host.busMaster = s.host.busMaster := rfl
@[simp] theorem State.toFlags_host_d0 (fs : List (ReqSrc × Nat × FlagAct)) : (s.toFlags fs).host.d0 = s.host.d0 := rfl
@[simp] theorem State.toFlags_host_queues (fs : List (ReqSrc × Nat × FlagAct)) : (s.toFlags fs).host.queues = s.host.queues := rfl
@[simp] theorem State.toFlags_host_tags (fs : List (ReqSrc × Nat × FlagAct)) : (s.toFlags fs).host.tags = s.host.tags := rfl
@[simp] theorem State.toFlags_host_held (fs : List (ReqSrc × Nat × FlagAct)) : (s.toFlags fs).host.held = s.host.held := rfl
@[simp] theorem State.toFlags_host_dmaDue (fs : List (ReqSrc × Nat × FlagAct)) : (s.toFlags fs).host.dmaDue = s.host.dmaDue := rfl
@[simp] theorem State.toFlags_host_mirrorSeq (fs : List (ReqSrc × Nat × FlagAct)) : (s.toFlags fs).host.mirrorSeq = s.host.mirrorSeq := rfl
@[simp] theorem State.toFlags_host_out (fs : List (ReqSrc × Nat × FlagAct)) : (s.toFlags fs).host.out = s.host.out := rfl
@[simp] theorem State.toFlags_host_reads (fs : List (ReqSrc × Nat × FlagAct)) : (s.toFlags fs).host.reads = s.host.reads := rfl
@[simp] theorem State.toFlags_host_fetches (fs : List (ReqSrc × Nat × FlagAct)) : (s.toFlags fs).host.fetches = s.host.fetches := rfl
@[simp] theorem State.toFlags_host_landed (fs : List (ReqSrc × Nat × FlagAct)) : (s.toFlags fs).host.landed = s.host.landed := rfl
@[simp] theorem State.toFlags_host_winLanded (fs : List (ReqSrc × Nat × FlagAct)) : (s.toFlags fs).host.winLanded = s.host.winLanded := rfl
@[simp] theorem State.toFlags_host_flags (fs : List (ReqSrc × Nat × FlagAct)) : (s.toFlags fs).host.flags = s.host.flags := rfl
@[simp] theorem State.toFlags_host_flagMarks (fs : List (ReqSrc × Nat × FlagAct)) : (s.toFlags fs).host.flagMarks = s.host.flagMarks := rfl
@[simp] theorem State.toFlags_host_flagScrub (fs : List (ReqSrc × Nat × FlagAct)) : (s.toFlags fs).host.flagScrub = s.host.flagScrub := rfl
@[simp] theorem State.toFlags_host_copies (fs : List (ReqSrc × Nat × FlagAct)) : (s.toFlags fs).host.copies = s.host.copies := rfl
@[simp] theorem State.toFlags_tile_at (fs : List (ReqSrc × Nat × FlagAct)) (ix : Nat) : (s.toFlags fs).tile ix = s.tile ix := by unfold State.tile; rfl
@[simp] theorem State.toFlags_region_at (fs : List (ReqSrc × Nat × FlagAct)) (ix : Nat) : (s.toFlags fs).region ix = s.region ix := by unfold State.region; rfl
@[simp] theorem State.toFlags_chan_at (fs : List (ReqSrc × Nat × FlagAct)) (ix : Nat) : (s.toFlags fs).chan ix = s.chan ix := by unfold State.chan; rfl
@[simp] theorem State.toFlags_stack_at (fs : List (ReqSrc × Nat × FlagAct)) (ix : Nat) : (s.toFlags fs).stack ix = s.stack ix := by unfold State.stack; rfl
@[simp] theorem State.toFlags_port_at (fs : List (ReqSrc × Nat × FlagAct)) (ix : Nat) : (s.toFlags fs).port ix = s.port ix := by unfold State.port; rfl
@[simp] theorem State.toFlags_queue_at (fs : List (ReqSrc × Nat × FlagAct)) (ix : Nat) : (s.toFlags fs).queue ix = s.queue ix := by unfold State.queue; rfl
@[simp] theorem State.toFlags_slot_at (fs : List (ReqSrc × Nat × FlagAct)) (ix : Nat) : (s.toFlags fs).slot ix = s.slot ix := by unfold State.slot; rfl
@[simp] theorem State.toFlags_ctx_at (fs : List (ReqSrc × Nat × FlagAct)) (ix : Nat) : (s.toFlags fs).ctx ix = s.ctx ix := by unfold State.ctx; rfl
@[simp] theorem State.toFlags_lsByte_at (fs : List (ReqSrc × Nat × FlagAct)) (ix iy : Nat) : (s.toFlags fs).lsByte ix iy = s.lsByte ix iy := by unfold State.lsByte; rfl
@[simp] theorem State.toFlags_memByte_at (fs : List (ReqSrc × Nat × FlagAct)) (ix : Nat) : (s.toFlags fs).memByte ix = s.memByte ix := by unfold State.memByte; rfl
@[simp] theorem State.toFlags_lsMark_at (fs : List (ReqSrc × Nat × FlagAct)) (ix iy : Nat) : (s.toFlags fs).lsMark ix iy = s.lsMark ix iy := by unfold State.lsMark; rfl

/-! ### State.toEdge -/

@[simp] theorem State.toEdge_pending (p : FabPkt) (src : ReqSrc) : (s.toEdge p src).pending = s.pending := rfl
@[simp] theorem State.toEdge_tiles (p : FabPkt) (src : ReqSrc) : (s.toEdge p src).tiles = s.tiles := rfl
@[simp] theorem State.toEdge_tileDef (p : FabPkt) (src : ReqSrc) : (s.toEdge p src).tileDef = s.tileDef := rfl
@[simp] theorem State.toEdge_regions (p : FabPkt) (src : ReqSrc) : (s.toEdge p src).regions = s.regions := rfl
@[simp] theorem State.toEdge_ls (p : FabPkt) (src : ReqSrc) : (s.toEdge p src).ls = s.ls := rfl
@[simp] theorem State.toEdge_lsMarks (p : FabPkt) (src : ReqSrc) : (s.toEdge p src).lsMarks = s.lsMarks := rfl
@[simp] theorem State.toEdge_lsLog (p : FabPkt) (src : ReqSrc) : (s.toEdge p src).lsLog = s.lsLog := rfl
@[simp] theorem State.toEdge_memLog (p : FabPkt) (src : ReqSrc) : (s.toEdge p src).memLog = s.memLog := rfl
@[simp] theorem State.toEdge_lsWipe (p : FabPkt) (src : ReqSrc) : (s.toEdge p src).lsWipe = s.lsWipe := rfl
@[simp] theorem State.toEdge_memWipe (p : FabPkt) (src : ReqSrc) : (s.toEdge p src).memWipe = s.memWipe := rfl
@[simp] theorem State.toEdge_mesh (p : FabPkt) (src : ReqSrc) : (s.toEdge p src).mesh = s.mesh := rfl
@[simp] theorem State.toEdge_meshTc (p : FabPkt) (src : ReqSrc) : (s.toEdge p src).meshTc = s.meshTc := rfl
@[simp] theorem State.toEdge_answers (p : FabPkt) (src : ReqSrc) : (s.toEdge p src).answers = s.answers := rfl
@[simp] theorem State.toEdge_cwld (p : FabPkt) (src : ReqSrc) : (s.toEdge p src).cwld = s.cwld := rfl
@[simp] theorem State.toEdge_nan (p : FabPkt) (src : ReqSrc) : (s.toEdge p src).nan = s.nan := rfl
@[simp] theorem State.toEdge_solvCtrl (p : FabPkt) (src : ReqSrc) : (s.toEdge p src).solvCtrl = s.solvCtrl := rfl
@[simp] theorem State.toEdge_laths (p : FabPkt) (src : ReqSrc) : (s.toEdge p src).laths = s.laths := rfl
@[simp] theorem State.toEdge_slots (p : FabPkt) (src : ReqSrc) : (s.toEdge p src).slots = s.slots := rfl
@[simp] theorem State.toEdge_ctxs (p : FabPkt) (src : ReqSrc) : (s.toEdge p src).ctxs = s.ctxs := rfl
@[simp] theorem State.toEdge_train (p : FabPkt) (src : ReqSrc) : (s.toEdge p src).train = s.train := rfl
@[simp] theorem State.toEdge_esc (p : FabPkt) (src : ReqSrc) : (s.toEdge p src).esc = s.esc := rfl
@[simp] theorem State.toEdge_mem (p : FabPkt) (src : ReqSrc) : (s.toEdge p src).mem = s.mem := rfl
@[simp] theorem State.toEdge_slice (p : FabPkt) (src : ReqSrc) : (s.toEdge p src).slice = s.slice := rfl
@[simp] theorem State.toEdge_cfg (p : FabPkt) (src : ReqSrc) : (s.toEdge p src).cfg = s.cfg := rfl
@[simp] theorem State.toEdge_host (p : FabPkt) (src : ReqSrc) : (s.toEdge p src).host = s.host := rfl
@[simp] theorem State.toEdge_ras (p : FabPkt) (src : ReqSrc) : (s.toEdge p src).ras = s.ras := rfl
@[simp] theorem State.toEdge_hang (p : FabPkt) (src : ReqSrc) : (s.toEdge p src).hang = s.hang := rfl
@[simp] theorem State.toEdge_power (p : FabPkt) (src : ReqSrc) : (s.toEdge p src).power = s.power := rfl
@[simp] theorem State.toEdge_flash (p : FabPkt) (src : ReqSrc) : (s.toEdge p src).flash = s.flash := rfl
@[simp] theorem State.toEdge_freeCtr (p : FabPkt) (src : ReqSrc) : (s.toEdge p src).freeCtr = s.freeCtr := rfl
@[simp] theorem State.toEdge_fab_id (p : FabPkt) (src : ReqSrc) : (s.toEdge p src).fab.id = s.fab.id := rfl
@[simp] theorem State.toEdge_fab_status (p : FabPkt) (src : ReqSrc) : (s.toEdge p src).fab.status = s.fab.status := rfl
@[simp] theorem State.toEdge_fab_ccCfg (p : FabPkt) (src : ReqSrc) : (s.toEdge p src).fab.ccCfg = s.fab.ccCfg := rfl
@[simp] theorem State.toEdge_fab_txnCfg (p : FabPkt) (src : ReqSrc) : (s.toEdge p src).fab.txnCfg = s.fab.txnCfg := rfl
@[simp] theorem State.toEdge_fab_drop0 (p : FabPkt) (src : ReqSrc) : (s.toEdge p src).fab.drop0 = s.fab.drop0 := rfl
@[simp] theorem State.toEdge_fab_drop1 (p : FabPkt) (src : ReqSrc) : (s.toEdge p src).fab.drop1 = s.fab.drop1 := rfl
@[simp] theorem State.toEdge_fab_drop2 (p : FabPkt) (src : ReqSrc) : (s.toEdge p src).fab.drop2 = s.fab.drop2 := rfl
@[simp] theorem State.toEdge_fab_stats1 (p : FabPkt) (src : ReqSrc) : (s.toEdge p src).fab.stats1 = s.fab.stats1 := rfl
@[simp] theorem State.toEdge_fab_ports (p : FabPkt) (src : ReqSrc) : (s.toEdge p src).fab.ports = s.fab.ports := rfl
@[simp] theorem State.toEdge_fab_rt (p : FabPkt) (src : ReqSrc) : (s.toEdge p src).fab.rt = s.fab.rt := rfl
@[simp] theorem State.toEdge_fab_rts (p : FabPkt) (src : ReqSrc) : (s.toEdge p src).fab.rts = s.fab.rts := rfl
@[simp] theorem State.toEdge_fab_rate (p : FabPkt) (src : ReqSrc) : (s.toEdge p src).fab.rate = s.fab.rate := rfl
@[simp] theorem State.toEdge_fab_lastCut (p : FabPkt) (src : ReqSrc) : (s.toEdge p src).fab.lastCut = s.fab.lastCut := rfl
@[simp] theorem State.toEdge_fab_spent (p : FabPkt) (src : ReqSrc) : (s.toEdge p src).fab.spent = s.fab.spent := rfl
@[simp] theorem State.toEdge_fab_cir (p : FabPkt) (src : ReqSrc) : (s.toEdge p src).fab.cir = s.fab.cir := rfl
@[simp] theorem State.toEdge_fab_cirs (p : FabPkt) (src : ReqSrc) : (s.toEdge p src).fab.cirs = s.fab.cirs := rfl
@[simp] theorem State.toEdge_fab_switchQ (p : FabPkt) (src : ReqSrc) : (s.toEdge p src).fab.switchQ = s.fab.switchQ := rfl
@[simp] theorem State.toEdge_fab_delivered (p : FabPkt) (src : ReqSrc) : (s.toEdge p src).fab.delivered = s.fab.delivered := rfl
@[simp] theorem State.toEdge_fab_awaited (p : FabPkt) (src : ReqSrc) : (s.toEdge p src).fab.awaited = s.fab.awaited := rfl
@[simp] theorem State.toEdge_fab_txns (p : FabPkt) (src : ReqSrc) : (s.toEdge p src).fab.txns = s.fab.txns := rfl
@[simp] theorem State.toEdge_fab_nextTag (p : FabPkt) (src : ReqSrc) : (s.toEdge p src).fab.nextTag = s.fab.nextTag := rfl
@[simp] theorem State.toEdge_fab_drainBeat (p : FabPkt) (src : ReqSrc) : (s.toEdge p src).fab.drainBeat = s.fab.drainBeat := rfl
@[simp] theorem State.toEdge_fab_markersSent (p : FabPkt) (src : ReqSrc) : (s.toEdge p src).fab.markersSent = s.fab.markersSent := rfl
@[simp] theorem State.toEdge_fab_inReqs (p : FabPkt) (src : ReqSrc) : (s.toEdge p src).fab.inReqs = s.fab.inReqs := rfl
@[simp] theorem State.toEdge_tile_at (p : FabPkt) (src : ReqSrc) (ix : Nat) : (s.toEdge p src).tile ix = s.tile ix := by unfold State.tile; rfl
@[simp] theorem State.toEdge_region_at (p : FabPkt) (src : ReqSrc) (ix : Nat) : (s.toEdge p src).region ix = s.region ix := by unfold State.region; rfl
@[simp] theorem State.toEdge_chan_at (p : FabPkt) (src : ReqSrc) (ix : Nat) : (s.toEdge p src).chan ix = s.chan ix := by unfold State.chan; rfl
@[simp] theorem State.toEdge_stack_at (p : FabPkt) (src : ReqSrc) (ix : Nat) : (s.toEdge p src).stack ix = s.stack ix := by unfold State.stack; rfl
@[simp] theorem State.toEdge_port_at (p : FabPkt) (src : ReqSrc) (ix : Nat) : (s.toEdge p src).port ix = s.port ix := by unfold State.port; rfl
@[simp] theorem State.toEdge_queue_at (p : FabPkt) (src : ReqSrc) (ix : Nat) : (s.toEdge p src).queue ix = s.queue ix := by unfold State.queue; rfl
@[simp] theorem State.toEdge_slot_at (p : FabPkt) (src : ReqSrc) (ix : Nat) : (s.toEdge p src).slot ix = s.slot ix := by unfold State.slot; rfl
@[simp] theorem State.toEdge_ctx_at (p : FabPkt) (src : ReqSrc) (ix : Nat) : (s.toEdge p src).ctx ix = s.ctx ix := by unfold State.ctx; rfl
@[simp] theorem State.toEdge_lsByte_at (p : FabPkt) (src : ReqSrc) (ix iy : Nat) : (s.toEdge p src).lsByte ix iy = s.lsByte ix iy := by unfold State.lsByte; rfl
@[simp] theorem State.toEdge_memByte_at (p : FabPkt) (src : ReqSrc) (ix : Nat) : (s.toEdge p src).memByte ix = s.memByte ix := by unfold State.memByte; rfl
@[simp] theorem State.toEdge_lsMark_at (p : FabPkt) (src : ReqSrc) (ix iy : Nat) : (s.toEdge p src).lsMark ix iy = s.lsMark ix iy := by unfold State.lsMark; rfl

/-! ### State.answer -/

@[simp] theorem State.answer_pending (t tag : Nat) (data : List Flit) (err : Option DropCause) (lost : List Nat) : (s.answer t tag data err lost).pending = s.pending := rfl
@[simp] theorem State.answer_tiles (t tag : Nat) (data : List Flit) (err : Option DropCause) (lost : List Nat) : (s.answer t tag data err lost).tiles = s.tiles := rfl
@[simp] theorem State.answer_tileDef (t tag : Nat) (data : List Flit) (err : Option DropCause) (lost : List Nat) : (s.answer t tag data err lost).tileDef = s.tileDef := rfl
@[simp] theorem State.answer_regions (t tag : Nat) (data : List Flit) (err : Option DropCause) (lost : List Nat) : (s.answer t tag data err lost).regions = s.regions := rfl
@[simp] theorem State.answer_ls (t tag : Nat) (data : List Flit) (err : Option DropCause) (lost : List Nat) : (s.answer t tag data err lost).ls = s.ls := rfl
@[simp] theorem State.answer_lsMarks (t tag : Nat) (data : List Flit) (err : Option DropCause) (lost : List Nat) : (s.answer t tag data err lost).lsMarks = s.lsMarks := rfl
@[simp] theorem State.answer_lsLog (t tag : Nat) (data : List Flit) (err : Option DropCause) (lost : List Nat) : (s.answer t tag data err lost).lsLog = s.lsLog := rfl
@[simp] theorem State.answer_memLog (t tag : Nat) (data : List Flit) (err : Option DropCause) (lost : List Nat) : (s.answer t tag data err lost).memLog = s.memLog := rfl
@[simp] theorem State.answer_lsWipe (t tag : Nat) (data : List Flit) (err : Option DropCause) (lost : List Nat) : (s.answer t tag data err lost).lsWipe = s.lsWipe := rfl
@[simp] theorem State.answer_memWipe (t tag : Nat) (data : List Flit) (err : Option DropCause) (lost : List Nat) : (s.answer t tag data err lost).memWipe = s.memWipe := rfl
@[simp] theorem State.answer_mesh (t tag : Nat) (data : List Flit) (err : Option DropCause) (lost : List Nat) : (s.answer t tag data err lost).mesh = s.mesh := rfl
@[simp] theorem State.answer_meshTc (t tag : Nat) (data : List Flit) (err : Option DropCause) (lost : List Nat) : (s.answer t tag data err lost).meshTc = s.meshTc := rfl
@[simp] theorem State.answer_cwld (t tag : Nat) (data : List Flit) (err : Option DropCause) (lost : List Nat) : (s.answer t tag data err lost).cwld = s.cwld := rfl
@[simp] theorem State.answer_nan (t tag : Nat) (data : List Flit) (err : Option DropCause) (lost : List Nat) : (s.answer t tag data err lost).nan = s.nan := rfl
@[simp] theorem State.answer_solvCtrl (t tag : Nat) (data : List Flit) (err : Option DropCause) (lost : List Nat) : (s.answer t tag data err lost).solvCtrl = s.solvCtrl := rfl
@[simp] theorem State.answer_laths (t tag : Nat) (data : List Flit) (err : Option DropCause) (lost : List Nat) : (s.answer t tag data err lost).laths = s.laths := rfl
@[simp] theorem State.answer_slots (t tag : Nat) (data : List Flit) (err : Option DropCause) (lost : List Nat) : (s.answer t tag data err lost).slots = s.slots := rfl
@[simp] theorem State.answer_ctxs (t tag : Nat) (data : List Flit) (err : Option DropCause) (lost : List Nat) : (s.answer t tag data err lost).ctxs = s.ctxs := rfl
@[simp] theorem State.answer_train (t tag : Nat) (data : List Flit) (err : Option DropCause) (lost : List Nat) : (s.answer t tag data err lost).train = s.train := rfl
@[simp] theorem State.answer_esc (t tag : Nat) (data : List Flit) (err : Option DropCause) (lost : List Nat) : (s.answer t tag data err lost).esc = s.esc := rfl
@[simp] theorem State.answer_mem (t tag : Nat) (data : List Flit) (err : Option DropCause) (lost : List Nat) : (s.answer t tag data err lost).mem = s.mem := rfl
@[simp] theorem State.answer_fab (t tag : Nat) (data : List Flit) (err : Option DropCause) (lost : List Nat) : (s.answer t tag data err lost).fab = s.fab := rfl
@[simp] theorem State.answer_slice (t tag : Nat) (data : List Flit) (err : Option DropCause) (lost : List Nat) : (s.answer t tag data err lost).slice = s.slice := rfl
@[simp] theorem State.answer_cfg (t tag : Nat) (data : List Flit) (err : Option DropCause) (lost : List Nat) : (s.answer t tag data err lost).cfg = s.cfg := rfl
@[simp] theorem State.answer_host (t tag : Nat) (data : List Flit) (err : Option DropCause) (lost : List Nat) : (s.answer t tag data err lost).host = s.host := rfl
@[simp] theorem State.answer_ras (t tag : Nat) (data : List Flit) (err : Option DropCause) (lost : List Nat) : (s.answer t tag data err lost).ras = s.ras := rfl
@[simp] theorem State.answer_hang (t tag : Nat) (data : List Flit) (err : Option DropCause) (lost : List Nat) : (s.answer t tag data err lost).hang = s.hang := rfl
@[simp] theorem State.answer_power (t tag : Nat) (data : List Flit) (err : Option DropCause) (lost : List Nat) : (s.answer t tag data err lost).power = s.power := rfl
@[simp] theorem State.answer_flash (t tag : Nat) (data : List Flit) (err : Option DropCause) (lost : List Nat) : (s.answer t tag data err lost).flash = s.flash := rfl
@[simp] theorem State.answer_freeCtr (t tag : Nat) (data : List Flit) (err : Option DropCause) (lost : List Nat) : (s.answer t tag data err lost).freeCtr = s.freeCtr := rfl
@[simp] theorem State.answer_tile_at (t tag : Nat) (data : List Flit) (err : Option DropCause) (lost : List Nat) (ix : Nat) : (s.answer t tag data err lost).tile ix = s.tile ix := by unfold State.tile; rfl
@[simp] theorem State.answer_region_at (t tag : Nat) (data : List Flit) (err : Option DropCause) (lost : List Nat) (ix : Nat) : (s.answer t tag data err lost).region ix = s.region ix := by unfold State.region; rfl
@[simp] theorem State.answer_chan_at (t tag : Nat) (data : List Flit) (err : Option DropCause) (lost : List Nat) (ix : Nat) : (s.answer t tag data err lost).chan ix = s.chan ix := by unfold State.chan; rfl
@[simp] theorem State.answer_stack_at (t tag : Nat) (data : List Flit) (err : Option DropCause) (lost : List Nat) (ix : Nat) : (s.answer t tag data err lost).stack ix = s.stack ix := by unfold State.stack; rfl
@[simp] theorem State.answer_port_at (t tag : Nat) (data : List Flit) (err : Option DropCause) (lost : List Nat) (ix : Nat) : (s.answer t tag data err lost).port ix = s.port ix := by unfold State.port; rfl
@[simp] theorem State.answer_queue_at (t tag : Nat) (data : List Flit) (err : Option DropCause) (lost : List Nat) (ix : Nat) : (s.answer t tag data err lost).queue ix = s.queue ix := by unfold State.queue; rfl
@[simp] theorem State.answer_slot_at (t tag : Nat) (data : List Flit) (err : Option DropCause) (lost : List Nat) (ix : Nat) : (s.answer t tag data err lost).slot ix = s.slot ix := by unfold State.slot; rfl
@[simp] theorem State.answer_ctx_at (t tag : Nat) (data : List Flit) (err : Option DropCause) (lost : List Nat) (ix : Nat) : (s.answer t tag data err lost).ctx ix = s.ctx ix := by unfold State.ctx; rfl
@[simp] theorem State.answer_lsByte_at (t tag : Nat) (data : List Flit) (err : Option DropCause) (lost : List Nat) (ix iy : Nat) : (s.answer t tag data err lost).lsByte ix iy = s.lsByte ix iy := by unfold State.lsByte; rfl
@[simp] theorem State.answer_memByte_at (t tag : Nat) (data : List Flit) (err : Option DropCause) (lost : List Nat) (ix : Nat) : (s.answer t tag data err lost).memByte ix = s.memByte ix := by unfold State.memByte; rfl
@[simp] theorem State.answer_lsMark_at (t tag : Nat) (data : List Flit) (err : Option DropCause) (lost : List Nat) (ix iy : Nat) : (s.answer t tag data err lost).lsMark ix iy = s.lsMark ix iy := by unfold State.lsMark; rfl

/-! ### State.toSwitch -/

@[simp] theorem State.toSwitch_pending (p : FabPkt) : (s.toSwitch p).pending = s.pending := rfl
@[simp] theorem State.toSwitch_tiles (p : FabPkt) : (s.toSwitch p).tiles = s.tiles := rfl
@[simp] theorem State.toSwitch_tileDef (p : FabPkt) : (s.toSwitch p).tileDef = s.tileDef := rfl
@[simp] theorem State.toSwitch_regions (p : FabPkt) : (s.toSwitch p).regions = s.regions := rfl
@[simp] theorem State.toSwitch_ls (p : FabPkt) : (s.toSwitch p).ls = s.ls := rfl
@[simp] theorem State.toSwitch_lsMarks (p : FabPkt) : (s.toSwitch p).lsMarks = s.lsMarks := rfl
@[simp] theorem State.toSwitch_lsLog (p : FabPkt) : (s.toSwitch p).lsLog = s.lsLog := rfl
@[simp] theorem State.toSwitch_memLog (p : FabPkt) : (s.toSwitch p).memLog = s.memLog := rfl
@[simp] theorem State.toSwitch_lsWipe (p : FabPkt) : (s.toSwitch p).lsWipe = s.lsWipe := rfl
@[simp] theorem State.toSwitch_memWipe (p : FabPkt) : (s.toSwitch p).memWipe = s.memWipe := rfl
@[simp] theorem State.toSwitch_mesh (p : FabPkt) : (s.toSwitch p).mesh = s.mesh := rfl
@[simp] theorem State.toSwitch_meshTc (p : FabPkt) : (s.toSwitch p).meshTc = s.meshTc := rfl
@[simp] theorem State.toSwitch_answers (p : FabPkt) : (s.toSwitch p).answers = s.answers := rfl
@[simp] theorem State.toSwitch_cwld (p : FabPkt) : (s.toSwitch p).cwld = s.cwld := rfl
@[simp] theorem State.toSwitch_nan (p : FabPkt) : (s.toSwitch p).nan = s.nan := rfl
@[simp] theorem State.toSwitch_solvCtrl (p : FabPkt) : (s.toSwitch p).solvCtrl = s.solvCtrl := rfl
@[simp] theorem State.toSwitch_laths (p : FabPkt) : (s.toSwitch p).laths = s.laths := rfl
@[simp] theorem State.toSwitch_slots (p : FabPkt) : (s.toSwitch p).slots = s.slots := rfl
@[simp] theorem State.toSwitch_ctxs (p : FabPkt) : (s.toSwitch p).ctxs = s.ctxs := rfl
@[simp] theorem State.toSwitch_train (p : FabPkt) : (s.toSwitch p).train = s.train := rfl
@[simp] theorem State.toSwitch_esc (p : FabPkt) : (s.toSwitch p).esc = s.esc := rfl
@[simp] theorem State.toSwitch_mem (p : FabPkt) : (s.toSwitch p).mem = s.mem := rfl
@[simp] theorem State.toSwitch_slice (p : FabPkt) : (s.toSwitch p).slice = s.slice := rfl
@[simp] theorem State.toSwitch_cfg (p : FabPkt) : (s.toSwitch p).cfg = s.cfg := rfl
@[simp] theorem State.toSwitch_host (p : FabPkt) : (s.toSwitch p).host = s.host := rfl
@[simp] theorem State.toSwitch_ras (p : FabPkt) : (s.toSwitch p).ras = s.ras := rfl
@[simp] theorem State.toSwitch_hang (p : FabPkt) : (s.toSwitch p).hang = s.hang := rfl
@[simp] theorem State.toSwitch_power (p : FabPkt) : (s.toSwitch p).power = s.power := rfl
@[simp] theorem State.toSwitch_flash (p : FabPkt) : (s.toSwitch p).flash = s.flash := rfl
@[simp] theorem State.toSwitch_freeCtr (p : FabPkt) : (s.toSwitch p).freeCtr = s.freeCtr := rfl
@[simp] theorem State.toSwitch_fab_id (p : FabPkt) : (s.toSwitch p).fab.id = s.fab.id := rfl
@[simp] theorem State.toSwitch_fab_status (p : FabPkt) : (s.toSwitch p).fab.status = s.fab.status := rfl
@[simp] theorem State.toSwitch_fab_ccCfg (p : FabPkt) : (s.toSwitch p).fab.ccCfg = s.fab.ccCfg := rfl
@[simp] theorem State.toSwitch_fab_txnCfg (p : FabPkt) : (s.toSwitch p).fab.txnCfg = s.fab.txnCfg := rfl
@[simp] theorem State.toSwitch_fab_drop0 (p : FabPkt) : (s.toSwitch p).fab.drop0 = s.fab.drop0 := rfl
@[simp] theorem State.toSwitch_fab_drop1 (p : FabPkt) : (s.toSwitch p).fab.drop1 = s.fab.drop1 := rfl
@[simp] theorem State.toSwitch_fab_drop2 (p : FabPkt) : (s.toSwitch p).fab.drop2 = s.fab.drop2 := rfl
@[simp] theorem State.toSwitch_fab_stats0 (p : FabPkt) : (s.toSwitch p).fab.stats0 = s.fab.stats0 := rfl
@[simp] theorem State.toSwitch_fab_stats1 (p : FabPkt) : (s.toSwitch p).fab.stats1 = s.fab.stats1 := rfl
@[simp] theorem State.toSwitch_fab_ports (p : FabPkt) : (s.toSwitch p).fab.ports = s.fab.ports := rfl
@[simp] theorem State.toSwitch_fab_rt (p : FabPkt) : (s.toSwitch p).fab.rt = s.fab.rt := rfl
@[simp] theorem State.toSwitch_fab_rts (p : FabPkt) : (s.toSwitch p).fab.rts = s.fab.rts := rfl
@[simp] theorem State.toSwitch_fab_rate (p : FabPkt) : (s.toSwitch p).fab.rate = s.fab.rate := rfl
@[simp] theorem State.toSwitch_fab_lastCut (p : FabPkt) : (s.toSwitch p).fab.lastCut = s.fab.lastCut := rfl
@[simp] theorem State.toSwitch_fab_spent (p : FabPkt) : (s.toSwitch p).fab.spent = s.fab.spent := rfl
@[simp] theorem State.toSwitch_fab_cir (p : FabPkt) : (s.toSwitch p).fab.cir = s.fab.cir := rfl
@[simp] theorem State.toSwitch_fab_cirs (p : FabPkt) : (s.toSwitch p).fab.cirs = s.fab.cirs := rfl
@[simp] theorem State.toSwitch_fab_delivered (p : FabPkt) : (s.toSwitch p).fab.delivered = s.fab.delivered := rfl
@[simp] theorem State.toSwitch_fab_waiting (p : FabPkt) : (s.toSwitch p).fab.waiting = s.fab.waiting := rfl
@[simp] theorem State.toSwitch_fab_awaited (p : FabPkt) : (s.toSwitch p).fab.awaited = s.fab.awaited := rfl
@[simp] theorem State.toSwitch_fab_txns (p : FabPkt) : (s.toSwitch p).fab.txns = s.fab.txns := rfl
@[simp] theorem State.toSwitch_fab_nextTag (p : FabPkt) : (s.toSwitch p).fab.nextTag = s.fab.nextTag := rfl
@[simp] theorem State.toSwitch_fab_drainBeat (p : FabPkt) : (s.toSwitch p).fab.drainBeat = s.fab.drainBeat := rfl
@[simp] theorem State.toSwitch_fab_markersSent (p : FabPkt) : (s.toSwitch p).fab.markersSent = s.fab.markersSent := rfl
@[simp] theorem State.toSwitch_fab_inReqs (p : FabPkt) : (s.toSwitch p).fab.inReqs = s.fab.inReqs := rfl
@[simp] theorem State.toSwitch_tile_at (p : FabPkt) (ix : Nat) : (s.toSwitch p).tile ix = s.tile ix := by unfold State.tile; rfl
@[simp] theorem State.toSwitch_region_at (p : FabPkt) (ix : Nat) : (s.toSwitch p).region ix = s.region ix := by unfold State.region; rfl
@[simp] theorem State.toSwitch_chan_at (p : FabPkt) (ix : Nat) : (s.toSwitch p).chan ix = s.chan ix := by unfold State.chan; rfl
@[simp] theorem State.toSwitch_stack_at (p : FabPkt) (ix : Nat) : (s.toSwitch p).stack ix = s.stack ix := by unfold State.stack; rfl
@[simp] theorem State.toSwitch_port_at (p : FabPkt) (ix : Nat) : (s.toSwitch p).port ix = s.port ix := by unfold State.port; rfl
@[simp] theorem State.toSwitch_queue_at (p : FabPkt) (ix : Nat) : (s.toSwitch p).queue ix = s.queue ix := by unfold State.queue; rfl
@[simp] theorem State.toSwitch_slot_at (p : FabPkt) (ix : Nat) : (s.toSwitch p).slot ix = s.slot ix := by unfold State.slot; rfl
@[simp] theorem State.toSwitch_ctx_at (p : FabPkt) (ix : Nat) : (s.toSwitch p).ctx ix = s.ctx ix := by unfold State.ctx; rfl
@[simp] theorem State.toSwitch_lsByte_at (p : FabPkt) (ix iy : Nat) : (s.toSwitch p).lsByte ix iy = s.lsByte ix iy := by unfold State.lsByte; rfl
@[simp] theorem State.toSwitch_memByte_at (p : FabPkt) (ix : Nat) : (s.toSwitch p).memByte ix = s.memByte ix := by unfold State.memByte; rfl
@[simp] theorem State.toSwitch_lsMark_at (p : FabPkt) (ix iy : Nat) : (s.toSwitch p).lsMark ix iy = s.lsMark ix iy := by unfold State.lsMark; rfl

/-! ### State.sendControl -/

@[simp] theorem State.sendControl_pending (d k : Nat) (bs : List Byte) : (s.sendControl d k bs).pending = s.pending := rfl
@[simp] theorem State.sendControl_tiles (d k : Nat) (bs : List Byte) : (s.sendControl d k bs).tiles = s.tiles := rfl
@[simp] theorem State.sendControl_tileDef (d k : Nat) (bs : List Byte) : (s.sendControl d k bs).tileDef = s.tileDef := rfl
@[simp] theorem State.sendControl_regions (d k : Nat) (bs : List Byte) : (s.sendControl d k bs).regions = s.regions := rfl
@[simp] theorem State.sendControl_ls (d k : Nat) (bs : List Byte) : (s.sendControl d k bs).ls = s.ls := rfl
@[simp] theorem State.sendControl_lsMarks (d k : Nat) (bs : List Byte) : (s.sendControl d k bs).lsMarks = s.lsMarks := rfl
@[simp] theorem State.sendControl_lsLog (d k : Nat) (bs : List Byte) : (s.sendControl d k bs).lsLog = s.lsLog := rfl
@[simp] theorem State.sendControl_memLog (d k : Nat) (bs : List Byte) : (s.sendControl d k bs).memLog = s.memLog := rfl
@[simp] theorem State.sendControl_lsWipe (d k : Nat) (bs : List Byte) : (s.sendControl d k bs).lsWipe = s.lsWipe := rfl
@[simp] theorem State.sendControl_memWipe (d k : Nat) (bs : List Byte) : (s.sendControl d k bs).memWipe = s.memWipe := rfl
@[simp] theorem State.sendControl_mesh (d k : Nat) (bs : List Byte) : (s.sendControl d k bs).mesh = s.mesh := rfl
@[simp] theorem State.sendControl_meshTc (d k : Nat) (bs : List Byte) : (s.sendControl d k bs).meshTc = s.meshTc := rfl
@[simp] theorem State.sendControl_answers (d k : Nat) (bs : List Byte) : (s.sendControl d k bs).answers = s.answers := rfl
@[simp] theorem State.sendControl_cwld (d k : Nat) (bs : List Byte) : (s.sendControl d k bs).cwld = s.cwld := rfl
@[simp] theorem State.sendControl_nan (d k : Nat) (bs : List Byte) : (s.sendControl d k bs).nan = s.nan := rfl
@[simp] theorem State.sendControl_solvCtrl (d k : Nat) (bs : List Byte) : (s.sendControl d k bs).solvCtrl = s.solvCtrl := rfl
@[simp] theorem State.sendControl_laths (d k : Nat) (bs : List Byte) : (s.sendControl d k bs).laths = s.laths := rfl
@[simp] theorem State.sendControl_slots (d k : Nat) (bs : List Byte) : (s.sendControl d k bs).slots = s.slots := rfl
@[simp] theorem State.sendControl_ctxs (d k : Nat) (bs : List Byte) : (s.sendControl d k bs).ctxs = s.ctxs := rfl
@[simp] theorem State.sendControl_train (d k : Nat) (bs : List Byte) : (s.sendControl d k bs).train = s.train := rfl
@[simp] theorem State.sendControl_esc (d k : Nat) (bs : List Byte) : (s.sendControl d k bs).esc = s.esc := rfl
@[simp] theorem State.sendControl_mem (d k : Nat) (bs : List Byte) : (s.sendControl d k bs).mem = s.mem := rfl
@[simp] theorem State.sendControl_slice (d k : Nat) (bs : List Byte) : (s.sendControl d k bs).slice = s.slice := rfl
@[simp] theorem State.sendControl_cfg (d k : Nat) (bs : List Byte) : (s.sendControl d k bs).cfg = s.cfg := rfl
@[simp] theorem State.sendControl_host (d k : Nat) (bs : List Byte) : (s.sendControl d k bs).host = s.host := rfl
@[simp] theorem State.sendControl_ras (d k : Nat) (bs : List Byte) : (s.sendControl d k bs).ras = s.ras := rfl
@[simp] theorem State.sendControl_hang (d k : Nat) (bs : List Byte) : (s.sendControl d k bs).hang = s.hang := rfl
@[simp] theorem State.sendControl_power (d k : Nat) (bs : List Byte) : (s.sendControl d k bs).power = s.power := rfl
@[simp] theorem State.sendControl_flash (d k : Nat) (bs : List Byte) : (s.sendControl d k bs).flash = s.flash := rfl
@[simp] theorem State.sendControl_freeCtr (d k : Nat) (bs : List Byte) : (s.sendControl d k bs).freeCtr = s.freeCtr := rfl
@[simp] theorem State.sendControl_fab_id (d k : Nat) (bs : List Byte) : (s.sendControl d k bs).fab.id = s.fab.id := rfl
@[simp] theorem State.sendControl_fab_status (d k : Nat) (bs : List Byte) : (s.sendControl d k bs).fab.status = s.fab.status := rfl
@[simp] theorem State.sendControl_fab_ccCfg (d k : Nat) (bs : List Byte) : (s.sendControl d k bs).fab.ccCfg = s.fab.ccCfg := rfl
@[simp] theorem State.sendControl_fab_txnCfg (d k : Nat) (bs : List Byte) : (s.sendControl d k bs).fab.txnCfg = s.fab.txnCfg := rfl
@[simp] theorem State.sendControl_fab_drop0 (d k : Nat) (bs : List Byte) : (s.sendControl d k bs).fab.drop0 = s.fab.drop0 := rfl
@[simp] theorem State.sendControl_fab_drop1 (d k : Nat) (bs : List Byte) : (s.sendControl d k bs).fab.drop1 = s.fab.drop1 := rfl
@[simp] theorem State.sendControl_fab_drop2 (d k : Nat) (bs : List Byte) : (s.sendControl d k bs).fab.drop2 = s.fab.drop2 := rfl
@[simp] theorem State.sendControl_fab_stats0 (d k : Nat) (bs : List Byte) : (s.sendControl d k bs).fab.stats0 = s.fab.stats0 := rfl
@[simp] theorem State.sendControl_fab_stats1 (d k : Nat) (bs : List Byte) : (s.sendControl d k bs).fab.stats1 = s.fab.stats1 := rfl
@[simp] theorem State.sendControl_fab_ports (d k : Nat) (bs : List Byte) : (s.sendControl d k bs).fab.ports = s.fab.ports := rfl
@[simp] theorem State.sendControl_fab_rt (d k : Nat) (bs : List Byte) : (s.sendControl d k bs).fab.rt = s.fab.rt := rfl
@[simp] theorem State.sendControl_fab_rts (d k : Nat) (bs : List Byte) : (s.sendControl d k bs).fab.rts = s.fab.rts := rfl
@[simp] theorem State.sendControl_fab_rate (d k : Nat) (bs : List Byte) : (s.sendControl d k bs).fab.rate = s.fab.rate := rfl
@[simp] theorem State.sendControl_fab_lastCut (d k : Nat) (bs : List Byte) : (s.sendControl d k bs).fab.lastCut = s.fab.lastCut := rfl
@[simp] theorem State.sendControl_fab_spent (d k : Nat) (bs : List Byte) : (s.sendControl d k bs).fab.spent = s.fab.spent := rfl
@[simp] theorem State.sendControl_fab_cir (d k : Nat) (bs : List Byte) : (s.sendControl d k bs).fab.cir = s.fab.cir := rfl
@[simp] theorem State.sendControl_fab_cirs (d k : Nat) (bs : List Byte) : (s.sendControl d k bs).fab.cirs = s.fab.cirs := rfl
@[simp] theorem State.sendControl_fab_delivered (d k : Nat) (bs : List Byte) : (s.sendControl d k bs).fab.delivered = s.fab.delivered := rfl
@[simp] theorem State.sendControl_fab_waiting (d k : Nat) (bs : List Byte) : (s.sendControl d k bs).fab.waiting = s.fab.waiting := rfl
@[simp] theorem State.sendControl_fab_awaited (d k : Nat) (bs : List Byte) : (s.sendControl d k bs).fab.awaited = s.fab.awaited := rfl
@[simp] theorem State.sendControl_fab_txns (d k : Nat) (bs : List Byte) : (s.sendControl d k bs).fab.txns = s.fab.txns := rfl
@[simp] theorem State.sendControl_fab_nextTag (d k : Nat) (bs : List Byte) : (s.sendControl d k bs).fab.nextTag = s.fab.nextTag := rfl
@[simp] theorem State.sendControl_fab_drainBeat (d k : Nat) (bs : List Byte) : (s.sendControl d k bs).fab.drainBeat = s.fab.drainBeat := rfl
@[simp] theorem State.sendControl_fab_markersSent (d k : Nat) (bs : List Byte) : (s.sendControl d k bs).fab.markersSent = s.fab.markersSent := rfl
@[simp] theorem State.sendControl_fab_inReqs (d k : Nat) (bs : List Byte) : (s.sendControl d k bs).fab.inReqs = s.fab.inReqs := rfl
@[simp] theorem State.sendControl_tile_at (d k : Nat) (bs : List Byte) (ix : Nat) : (s.sendControl d k bs).tile ix = s.tile ix := by unfold State.tile; rfl
@[simp] theorem State.sendControl_region_at (d k : Nat) (bs : List Byte) (ix : Nat) : (s.sendControl d k bs).region ix = s.region ix := by unfold State.region; rfl
@[simp] theorem State.sendControl_chan_at (d k : Nat) (bs : List Byte) (ix : Nat) : (s.sendControl d k bs).chan ix = s.chan ix := by unfold State.chan; rfl
@[simp] theorem State.sendControl_stack_at (d k : Nat) (bs : List Byte) (ix : Nat) : (s.sendControl d k bs).stack ix = s.stack ix := by unfold State.stack; rfl
@[simp] theorem State.sendControl_port_at (d k : Nat) (bs : List Byte) (ix : Nat) : (s.sendControl d k bs).port ix = s.port ix := by unfold State.port; rfl
@[simp] theorem State.sendControl_queue_at (d k : Nat) (bs : List Byte) (ix : Nat) : (s.sendControl d k bs).queue ix = s.queue ix := by unfold State.queue; rfl
@[simp] theorem State.sendControl_slot_at (d k : Nat) (bs : List Byte) (ix : Nat) : (s.sendControl d k bs).slot ix = s.slot ix := by unfold State.slot; rfl
@[simp] theorem State.sendControl_ctx_at (d k : Nat) (bs : List Byte) (ix : Nat) : (s.sendControl d k bs).ctx ix = s.ctx ix := by unfold State.ctx; rfl
@[simp] theorem State.sendControl_lsByte_at (d k : Nat) (bs : List Byte) (ix iy : Nat) : (s.sendControl d k bs).lsByte ix iy = s.lsByte ix iy := by unfold State.lsByte; rfl
@[simp] theorem State.sendControl_memByte_at (d k : Nat) (bs : List Byte) (ix : Nat) : (s.sendControl d k bs).memByte ix = s.memByte ix := by unfold State.memByte; rfl
@[simp] theorem State.sendControl_lsMark_at (d k : Nat) (bs : List Byte) (ix iy : Nat) : (s.sendControl d k bs).lsMark ix iy = s.lsMark ix iy := by unfold State.lsMark; rfl

/-! ### State.consume -/

@[simp] theorem State.consume_pending (p : FabPkt) : (s.consume p).pending = s.pending := rfl
@[simp] theorem State.consume_tiles (p : FabPkt) : (s.consume p).tiles = s.tiles := rfl
@[simp] theorem State.consume_tileDef (p : FabPkt) : (s.consume p).tileDef = s.tileDef := rfl
@[simp] theorem State.consume_regions (p : FabPkt) : (s.consume p).regions = s.regions := rfl
@[simp] theorem State.consume_ls (p : FabPkt) : (s.consume p).ls = s.ls := rfl
@[simp] theorem State.consume_lsMarks (p : FabPkt) : (s.consume p).lsMarks = s.lsMarks := rfl
@[simp] theorem State.consume_lsLog (p : FabPkt) : (s.consume p).lsLog = s.lsLog := rfl
@[simp] theorem State.consume_memLog (p : FabPkt) : (s.consume p).memLog = s.memLog := rfl
@[simp] theorem State.consume_lsWipe (p : FabPkt) : (s.consume p).lsWipe = s.lsWipe := rfl
@[simp] theorem State.consume_memWipe (p : FabPkt) : (s.consume p).memWipe = s.memWipe := rfl
@[simp] theorem State.consume_mesh (p : FabPkt) : (s.consume p).mesh = s.mesh := rfl
@[simp] theorem State.consume_meshTc (p : FabPkt) : (s.consume p).meshTc = s.meshTc := rfl
@[simp] theorem State.consume_answers (p : FabPkt) : (s.consume p).answers = s.answers := rfl
@[simp] theorem State.consume_cwld (p : FabPkt) : (s.consume p).cwld = s.cwld := rfl
@[simp] theorem State.consume_nan (p : FabPkt) : (s.consume p).nan = s.nan := rfl
@[simp] theorem State.consume_solvCtrl (p : FabPkt) : (s.consume p).solvCtrl = s.solvCtrl := rfl
@[simp] theorem State.consume_laths (p : FabPkt) : (s.consume p).laths = s.laths := rfl
@[simp] theorem State.consume_slots (p : FabPkt) : (s.consume p).slots = s.slots := rfl
@[simp] theorem State.consume_ctxs (p : FabPkt) : (s.consume p).ctxs = s.ctxs := rfl
@[simp] theorem State.consume_train (p : FabPkt) : (s.consume p).train = s.train := rfl
@[simp] theorem State.consume_esc (p : FabPkt) : (s.consume p).esc = s.esc := rfl
@[simp] theorem State.consume_mem (p : FabPkt) : (s.consume p).mem = s.mem := rfl
@[simp] theorem State.consume_slice (p : FabPkt) : (s.consume p).slice = s.slice := rfl
@[simp] theorem State.consume_cfg (p : FabPkt) : (s.consume p).cfg = s.cfg := rfl
@[simp] theorem State.consume_host (p : FabPkt) : (s.consume p).host = s.host := rfl
@[simp] theorem State.consume_ras (p : FabPkt) : (s.consume p).ras = s.ras := rfl
@[simp] theorem State.consume_hang (p : FabPkt) : (s.consume p).hang = s.hang := rfl
@[simp] theorem State.consume_power (p : FabPkt) : (s.consume p).power = s.power := rfl
@[simp] theorem State.consume_flash (p : FabPkt) : (s.consume p).flash = s.flash := rfl
@[simp] theorem State.consume_freeCtr (p : FabPkt) : (s.consume p).freeCtr = s.freeCtr := rfl
@[simp] theorem State.consume_fab_id (p : FabPkt) : (s.consume p).fab.id = s.fab.id := rfl
@[simp] theorem State.consume_fab_status (p : FabPkt) : (s.consume p).fab.status = s.fab.status := rfl
@[simp] theorem State.consume_fab_ccCfg (p : FabPkt) : (s.consume p).fab.ccCfg = s.fab.ccCfg := rfl
@[simp] theorem State.consume_fab_txnCfg (p : FabPkt) : (s.consume p).fab.txnCfg = s.fab.txnCfg := rfl
@[simp] theorem State.consume_fab_drop0 (p : FabPkt) : (s.consume p).fab.drop0 = s.fab.drop0 := rfl
@[simp] theorem State.consume_fab_drop1 (p : FabPkt) : (s.consume p).fab.drop1 = s.fab.drop1 := rfl
@[simp] theorem State.consume_fab_drop2 (p : FabPkt) : (s.consume p).fab.drop2 = s.fab.drop2 := rfl
@[simp] theorem State.consume_fab_stats0 (p : FabPkt) : (s.consume p).fab.stats0 = s.fab.stats0 := rfl
@[simp] theorem State.consume_fab_stats1 (p : FabPkt) : (s.consume p).fab.stats1 = s.fab.stats1 := rfl
@[simp] theorem State.consume_fab_ports (p : FabPkt) : (s.consume p).fab.ports = s.fab.ports := rfl
@[simp] theorem State.consume_fab_rt (p : FabPkt) : (s.consume p).fab.rt = s.fab.rt := rfl
@[simp] theorem State.consume_fab_rts (p : FabPkt) : (s.consume p).fab.rts = s.fab.rts := rfl
@[simp] theorem State.consume_fab_rate (p : FabPkt) : (s.consume p).fab.rate = s.fab.rate := rfl
@[simp] theorem State.consume_fab_lastCut (p : FabPkt) : (s.consume p).fab.lastCut = s.fab.lastCut := rfl
@[simp] theorem State.consume_fab_spent (p : FabPkt) : (s.consume p).fab.spent = s.fab.spent := rfl
@[simp] theorem State.consume_fab_cir (p : FabPkt) : (s.consume p).fab.cir = s.fab.cir := rfl
@[simp] theorem State.consume_fab_cirs (p : FabPkt) : (s.consume p).fab.cirs = s.fab.cirs := rfl
@[simp] theorem State.consume_fab_switchQ (p : FabPkt) : (s.consume p).fab.switchQ = s.fab.switchQ := rfl
@[simp] theorem State.consume_fab_waiting (p : FabPkt) : (s.consume p).fab.waiting = s.fab.waiting := rfl
@[simp] theorem State.consume_fab_awaited (p : FabPkt) : (s.consume p).fab.awaited = s.fab.awaited := rfl
@[simp] theorem State.consume_fab_txns (p : FabPkt) : (s.consume p).fab.txns = s.fab.txns := rfl
@[simp] theorem State.consume_fab_nextTag (p : FabPkt) : (s.consume p).fab.nextTag = s.fab.nextTag := rfl
@[simp] theorem State.consume_fab_drainBeat (p : FabPkt) : (s.consume p).fab.drainBeat = s.fab.drainBeat := rfl
@[simp] theorem State.consume_fab_markersSent (p : FabPkt) : (s.consume p).fab.markersSent = s.fab.markersSent := rfl
@[simp] theorem State.consume_fab_inReqs (p : FabPkt) : (s.consume p).fab.inReqs = s.fab.inReqs := rfl
@[simp] theorem State.consume_tile_at (p : FabPkt) (ix : Nat) : (s.consume p).tile ix = s.tile ix := by unfold State.tile; rfl
@[simp] theorem State.consume_region_at (p : FabPkt) (ix : Nat) : (s.consume p).region ix = s.region ix := by unfold State.region; rfl
@[simp] theorem State.consume_chan_at (p : FabPkt) (ix : Nat) : (s.consume p).chan ix = s.chan ix := by unfold State.chan; rfl
@[simp] theorem State.consume_stack_at (p : FabPkt) (ix : Nat) : (s.consume p).stack ix = s.stack ix := by unfold State.stack; rfl
@[simp] theorem State.consume_port_at (p : FabPkt) (ix : Nat) : (s.consume p).port ix = s.port ix := by unfold State.port; rfl
@[simp] theorem State.consume_queue_at (p : FabPkt) (ix : Nat) : (s.consume p).queue ix = s.queue ix := by unfold State.queue; rfl
@[simp] theorem State.consume_slot_at (p : FabPkt) (ix : Nat) : (s.consume p).slot ix = s.slot ix := by unfold State.slot; rfl
@[simp] theorem State.consume_ctx_at (p : FabPkt) (ix : Nat) : (s.consume p).ctx ix = s.ctx ix := by unfold State.ctx; rfl
@[simp] theorem State.consume_lsByte_at (p : FabPkt) (ix iy : Nat) : (s.consume p).lsByte ix iy = s.lsByte ix iy := by unfold State.lsByte; rfl
@[simp] theorem State.consume_memByte_at (p : FabPkt) (ix : Nat) : (s.consume p).memByte ix = s.memByte ix := by unfold State.memByte; rfl
@[simp] theorem State.consume_lsMark_at (p : FabPkt) (ix iy : Nat) : (s.consume p).lsMark ix iy = s.lsMark ix iy := by unfold State.lsMark; rfl

/-! ### State.consumeControl -/

@[simp] theorem State.consumeControl_pending (j k : Nat) : (s.consumeControl j k).pending = s.pending := rfl
@[simp] theorem State.consumeControl_tiles (j k : Nat) : (s.consumeControl j k).tiles = s.tiles := rfl
@[simp] theorem State.consumeControl_tileDef (j k : Nat) : (s.consumeControl j k).tileDef = s.tileDef := rfl
@[simp] theorem State.consumeControl_regions (j k : Nat) : (s.consumeControl j k).regions = s.regions := rfl
@[simp] theorem State.consumeControl_ls (j k : Nat) : (s.consumeControl j k).ls = s.ls := rfl
@[simp] theorem State.consumeControl_lsMarks (j k : Nat) : (s.consumeControl j k).lsMarks = s.lsMarks := rfl
@[simp] theorem State.consumeControl_lsLog (j k : Nat) : (s.consumeControl j k).lsLog = s.lsLog := rfl
@[simp] theorem State.consumeControl_memLog (j k : Nat) : (s.consumeControl j k).memLog = s.memLog := rfl
@[simp] theorem State.consumeControl_lsWipe (j k : Nat) : (s.consumeControl j k).lsWipe = s.lsWipe := rfl
@[simp] theorem State.consumeControl_memWipe (j k : Nat) : (s.consumeControl j k).memWipe = s.memWipe := rfl
@[simp] theorem State.consumeControl_mesh (j k : Nat) : (s.consumeControl j k).mesh = s.mesh := rfl
@[simp] theorem State.consumeControl_meshTc (j k : Nat) : (s.consumeControl j k).meshTc = s.meshTc := rfl
@[simp] theorem State.consumeControl_answers (j k : Nat) : (s.consumeControl j k).answers = s.answers := rfl
@[simp] theorem State.consumeControl_cwld (j k : Nat) : (s.consumeControl j k).cwld = s.cwld := rfl
@[simp] theorem State.consumeControl_nan (j k : Nat) : (s.consumeControl j k).nan = s.nan := rfl
@[simp] theorem State.consumeControl_solvCtrl (j k : Nat) : (s.consumeControl j k).solvCtrl = s.solvCtrl := rfl
@[simp] theorem State.consumeControl_laths (j k : Nat) : (s.consumeControl j k).laths = s.laths := rfl
@[simp] theorem State.consumeControl_slots (j k : Nat) : (s.consumeControl j k).slots = s.slots := rfl
@[simp] theorem State.consumeControl_ctxs (j k : Nat) : (s.consumeControl j k).ctxs = s.ctxs := rfl
@[simp] theorem State.consumeControl_train (j k : Nat) : (s.consumeControl j k).train = s.train := rfl
@[simp] theorem State.consumeControl_esc (j k : Nat) : (s.consumeControl j k).esc = s.esc := rfl
@[simp] theorem State.consumeControl_mem (j k : Nat) : (s.consumeControl j k).mem = s.mem := rfl
@[simp] theorem State.consumeControl_slice (j k : Nat) : (s.consumeControl j k).slice = s.slice := rfl
@[simp] theorem State.consumeControl_cfg (j k : Nat) : (s.consumeControl j k).cfg = s.cfg := rfl
@[simp] theorem State.consumeControl_host (j k : Nat) : (s.consumeControl j k).host = s.host := rfl
@[simp] theorem State.consumeControl_ras (j k : Nat) : (s.consumeControl j k).ras = s.ras := rfl
@[simp] theorem State.consumeControl_hang (j k : Nat) : (s.consumeControl j k).hang = s.hang := rfl
@[simp] theorem State.consumeControl_power (j k : Nat) : (s.consumeControl j k).power = s.power := rfl
@[simp] theorem State.consumeControl_flash (j k : Nat) : (s.consumeControl j k).flash = s.flash := rfl
@[simp] theorem State.consumeControl_freeCtr (j k : Nat) : (s.consumeControl j k).freeCtr = s.freeCtr := rfl
@[simp] theorem State.consumeControl_fab_id (j k : Nat) : (s.consumeControl j k).fab.id = s.fab.id := rfl
@[simp] theorem State.consumeControl_fab_status (j k : Nat) : (s.consumeControl j k).fab.status = s.fab.status := rfl
@[simp] theorem State.consumeControl_fab_ccCfg (j k : Nat) : (s.consumeControl j k).fab.ccCfg = s.fab.ccCfg := rfl
@[simp] theorem State.consumeControl_fab_txnCfg (j k : Nat) : (s.consumeControl j k).fab.txnCfg = s.fab.txnCfg := rfl
@[simp] theorem State.consumeControl_fab_drop0 (j k : Nat) : (s.consumeControl j k).fab.drop0 = s.fab.drop0 := rfl
@[simp] theorem State.consumeControl_fab_drop1 (j k : Nat) : (s.consumeControl j k).fab.drop1 = s.fab.drop1 := rfl
@[simp] theorem State.consumeControl_fab_drop2 (j k : Nat) : (s.consumeControl j k).fab.drop2 = s.fab.drop2 := rfl
@[simp] theorem State.consumeControl_fab_stats0 (j k : Nat) : (s.consumeControl j k).fab.stats0 = s.fab.stats0 := rfl
@[simp] theorem State.consumeControl_fab_stats1 (j k : Nat) : (s.consumeControl j k).fab.stats1 = s.fab.stats1 := rfl
@[simp] theorem State.consumeControl_fab_ports (j k : Nat) : (s.consumeControl j k).fab.ports = s.fab.ports := rfl
@[simp] theorem State.consumeControl_fab_rt (j k : Nat) : (s.consumeControl j k).fab.rt = s.fab.rt := rfl
@[simp] theorem State.consumeControl_fab_rts (j k : Nat) : (s.consumeControl j k).fab.rts = s.fab.rts := rfl
@[simp] theorem State.consumeControl_fab_rate (j k : Nat) : (s.consumeControl j k).fab.rate = s.fab.rate := rfl
@[simp] theorem State.consumeControl_fab_lastCut (j k : Nat) : (s.consumeControl j k).fab.lastCut = s.fab.lastCut := rfl
@[simp] theorem State.consumeControl_fab_spent (j k : Nat) : (s.consumeControl j k).fab.spent = s.fab.spent := rfl
@[simp] theorem State.consumeControl_fab_cir (j k : Nat) : (s.consumeControl j k).fab.cir = s.fab.cir := rfl
@[simp] theorem State.consumeControl_fab_cirs (j k : Nat) : (s.consumeControl j k).fab.cirs = s.fab.cirs := rfl
@[simp] theorem State.consumeControl_fab_switchQ (j k : Nat) : (s.consumeControl j k).fab.switchQ = s.fab.switchQ := rfl
@[simp] theorem State.consumeControl_fab_waiting (j k : Nat) : (s.consumeControl j k).fab.waiting = s.fab.waiting := rfl
@[simp] theorem State.consumeControl_fab_awaited (j k : Nat) : (s.consumeControl j k).fab.awaited = s.fab.awaited := rfl
@[simp] theorem State.consumeControl_fab_txns (j k : Nat) : (s.consumeControl j k).fab.txns = s.fab.txns := rfl
@[simp] theorem State.consumeControl_fab_nextTag (j k : Nat) : (s.consumeControl j k).fab.nextTag = s.fab.nextTag := rfl
@[simp] theorem State.consumeControl_fab_drainBeat (j k : Nat) : (s.consumeControl j k).fab.drainBeat = s.fab.drainBeat := rfl
@[simp] theorem State.consumeControl_fab_markersSent (j k : Nat) : (s.consumeControl j k).fab.markersSent = s.fab.markersSent := rfl
@[simp] theorem State.consumeControl_fab_inReqs (j k : Nat) : (s.consumeControl j k).fab.inReqs = s.fab.inReqs := rfl
@[simp] theorem State.consumeControl_tile_at (j k : Nat) (ix : Nat) : (s.consumeControl j k).tile ix = s.tile ix := by unfold State.tile; rfl
@[simp] theorem State.consumeControl_region_at (j k : Nat) (ix : Nat) : (s.consumeControl j k).region ix = s.region ix := by unfold State.region; rfl
@[simp] theorem State.consumeControl_chan_at (j k : Nat) (ix : Nat) : (s.consumeControl j k).chan ix = s.chan ix := by unfold State.chan; rfl
@[simp] theorem State.consumeControl_stack_at (j k : Nat) (ix : Nat) : (s.consumeControl j k).stack ix = s.stack ix := by unfold State.stack; rfl
@[simp] theorem State.consumeControl_port_at (j k : Nat) (ix : Nat) : (s.consumeControl j k).port ix = s.port ix := by unfold State.port; rfl
@[simp] theorem State.consumeControl_queue_at (j k : Nat) (ix : Nat) : (s.consumeControl j k).queue ix = s.queue ix := by unfold State.queue; rfl
@[simp] theorem State.consumeControl_slot_at (j k : Nat) (ix : Nat) : (s.consumeControl j k).slot ix = s.slot ix := by unfold State.slot; rfl
@[simp] theorem State.consumeControl_ctx_at (j k : Nat) (ix : Nat) : (s.consumeControl j k).ctx ix = s.ctx ix := by unfold State.ctx; rfl
@[simp] theorem State.consumeControl_lsByte_at (j k : Nat) (ix iy : Nat) : (s.consumeControl j k).lsByte ix iy = s.lsByte ix iy := by unfold State.lsByte; rfl
@[simp] theorem State.consumeControl_memByte_at (j k : Nat) (ix : Nat) : (s.consumeControl j k).memByte ix = s.memByte ix := by unfold State.memByte; rfl
@[simp] theorem State.consumeControl_lsMark_at (j k : Nat) (ix iy : Nat) : (s.consumeControl j k).lsMark ix iy = s.lsMark ix iy := by unfold State.lsMark; rfl

/-! ### State.hostWrite -/

@[simp] theorem State.hostWrite_pending (a : W64) (bs : List Byte) : (s.hostWrite a bs).pending = s.pending := rfl
@[simp] theorem State.hostWrite_tiles (a : W64) (bs : List Byte) : (s.hostWrite a bs).tiles = s.tiles := rfl
@[simp] theorem State.hostWrite_tileDef (a : W64) (bs : List Byte) : (s.hostWrite a bs).tileDef = s.tileDef := rfl
@[simp] theorem State.hostWrite_regions (a : W64) (bs : List Byte) : (s.hostWrite a bs).regions = s.regions := rfl
@[simp] theorem State.hostWrite_ls (a : W64) (bs : List Byte) : (s.hostWrite a bs).ls = s.ls := rfl
@[simp] theorem State.hostWrite_lsMarks (a : W64) (bs : List Byte) : (s.hostWrite a bs).lsMarks = s.lsMarks := rfl
@[simp] theorem State.hostWrite_lsLog (a : W64) (bs : List Byte) : (s.hostWrite a bs).lsLog = s.lsLog := rfl
@[simp] theorem State.hostWrite_memLog (a : W64) (bs : List Byte) : (s.hostWrite a bs).memLog = s.memLog := rfl
@[simp] theorem State.hostWrite_lsWipe (a : W64) (bs : List Byte) : (s.hostWrite a bs).lsWipe = s.lsWipe := rfl
@[simp] theorem State.hostWrite_memWipe (a : W64) (bs : List Byte) : (s.hostWrite a bs).memWipe = s.memWipe := rfl
@[simp] theorem State.hostWrite_mesh (a : W64) (bs : List Byte) : (s.hostWrite a bs).mesh = s.mesh := rfl
@[simp] theorem State.hostWrite_meshTc (a : W64) (bs : List Byte) : (s.hostWrite a bs).meshTc = s.meshTc := rfl
@[simp] theorem State.hostWrite_answers (a : W64) (bs : List Byte) : (s.hostWrite a bs).answers = s.answers := rfl
@[simp] theorem State.hostWrite_cwld (a : W64) (bs : List Byte) : (s.hostWrite a bs).cwld = s.cwld := rfl
@[simp] theorem State.hostWrite_nan (a : W64) (bs : List Byte) : (s.hostWrite a bs).nan = s.nan := rfl
@[simp] theorem State.hostWrite_solvCtrl (a : W64) (bs : List Byte) : (s.hostWrite a bs).solvCtrl = s.solvCtrl := rfl
@[simp] theorem State.hostWrite_laths (a : W64) (bs : List Byte) : (s.hostWrite a bs).laths = s.laths := rfl
@[simp] theorem State.hostWrite_slots (a : W64) (bs : List Byte) : (s.hostWrite a bs).slots = s.slots := rfl
@[simp] theorem State.hostWrite_ctxs (a : W64) (bs : List Byte) : (s.hostWrite a bs).ctxs = s.ctxs := rfl
@[simp] theorem State.hostWrite_train (a : W64) (bs : List Byte) : (s.hostWrite a bs).train = s.train := rfl
@[simp] theorem State.hostWrite_esc (a : W64) (bs : List Byte) : (s.hostWrite a bs).esc = s.esc := rfl
@[simp] theorem State.hostWrite_mem (a : W64) (bs : List Byte) : (s.hostWrite a bs).mem = s.mem := rfl
@[simp] theorem State.hostWrite_fab (a : W64) (bs : List Byte) : (s.hostWrite a bs).fab = s.fab := rfl
@[simp] theorem State.hostWrite_slice (a : W64) (bs : List Byte) : (s.hostWrite a bs).slice = s.slice := rfl
@[simp] theorem State.hostWrite_cfg (a : W64) (bs : List Byte) : (s.hostWrite a bs).cfg = s.cfg := rfl
@[simp] theorem State.hostWrite_ras (a : W64) (bs : List Byte) : (s.hostWrite a bs).ras = s.ras := rfl
@[simp] theorem State.hostWrite_hang (a : W64) (bs : List Byte) : (s.hostWrite a bs).hang = s.hang := rfl
@[simp] theorem State.hostWrite_power (a : W64) (bs : List Byte) : (s.hostWrite a bs).power = s.power := rfl
@[simp] theorem State.hostWrite_flash (a : W64) (bs : List Byte) : (s.hostWrite a bs).flash = s.flash := rfl
@[simp] theorem State.hostWrite_freeCtr (a : W64) (bs : List Byte) : (s.hostWrite a bs).freeCtr = s.freeCtr := rfl
@[simp] theorem State.hostWrite_host_winCfg (a : W64) (bs : List Byte) : (s.hostWrite a bs).host.winCfg = s.host.winCfg := rfl
@[simp] theorem State.hostWrite_host_mirrorAddr (a : W64) (bs : List Byte) : (s.hostWrite a bs).host.mirrorAddr = s.host.mirrorAddr := rfl
@[simp] theorem State.hostWrite_host_mirrorCfg (a : W64) (bs : List Byte) : (s.hostWrite a bs).host.mirrorCfg = s.host.mirrorCfg := rfl
@[simp] theorem State.hostWrite_host_status (a : W64) (bs : List Byte) : (s.hostWrite a bs).host.status = s.host.status := rfl
@[simp] theorem State.hostWrite_host_link (a : W64) (bs : List Byte) : (s.hostWrite a bs).host.link = s.host.link := rfl
@[simp] theorem State.hostWrite_host_busMaster (a : W64) (bs : List Byte) : (s.hostWrite a bs).host.busMaster = s.host.busMaster := rfl
@[simp] theorem State.hostWrite_host_d0 (a : W64) (bs : List Byte) : (s.hostWrite a bs).host.d0 = s.host.d0 := rfl
@[simp] theorem State.hostWrite_host_queues (a : W64) (bs : List Byte) : (s.hostWrite a bs).host.queues = s.host.queues := rfl
@[simp] theorem State.hostWrite_host_tags (a : W64) (bs : List Byte) : (s.hostWrite a bs).host.tags = s.host.tags := rfl
@[simp] theorem State.hostWrite_host_held (a : W64) (bs : List Byte) : (s.hostWrite a bs).host.held = s.host.held := rfl
@[simp] theorem State.hostWrite_host_dmaDue (a : W64) (bs : List Byte) : (s.hostWrite a bs).host.dmaDue = s.host.dmaDue := rfl
@[simp] theorem State.hostWrite_host_mirrorSeq (a : W64) (bs : List Byte) : (s.hostWrite a bs).host.mirrorSeq = s.host.mirrorSeq := rfl
@[simp] theorem State.hostWrite_host_reads (a : W64) (bs : List Byte) : (s.hostWrite a bs).host.reads = s.host.reads := rfl
@[simp] theorem State.hostWrite_host_fetches (a : W64) (bs : List Byte) : (s.hostWrite a bs).host.fetches = s.host.fetches := rfl
@[simp] theorem State.hostWrite_host_landed (a : W64) (bs : List Byte) : (s.hostWrite a bs).host.landed = s.host.landed := rfl
@[simp] theorem State.hostWrite_host_winLanded (a : W64) (bs : List Byte) : (s.hostWrite a bs).host.winLanded = s.host.winLanded := rfl
@[simp] theorem State.hostWrite_host_flagIn (a : W64) (bs : List Byte) : (s.hostWrite a bs).host.flagIn = s.host.flagIn := rfl
@[simp] theorem State.hostWrite_host_flags (a : W64) (bs : List Byte) : (s.hostWrite a bs).host.flags = s.host.flags := rfl
@[simp] theorem State.hostWrite_host_flagMarks (a : W64) (bs : List Byte) : (s.hostWrite a bs).host.flagMarks = s.host.flagMarks := rfl
@[simp] theorem State.hostWrite_host_flagScrub (a : W64) (bs : List Byte) : (s.hostWrite a bs).host.flagScrub = s.host.flagScrub := rfl
@[simp] theorem State.hostWrite_host_copies (a : W64) (bs : List Byte) : (s.hostWrite a bs).host.copies = s.host.copies := rfl
@[simp] theorem State.hostWrite_tile_at (a : W64) (bs : List Byte) (ix : Nat) : (s.hostWrite a bs).tile ix = s.tile ix := by unfold State.tile; rfl
@[simp] theorem State.hostWrite_region_at (a : W64) (bs : List Byte) (ix : Nat) : (s.hostWrite a bs).region ix = s.region ix := by unfold State.region; rfl
@[simp] theorem State.hostWrite_chan_at (a : W64) (bs : List Byte) (ix : Nat) : (s.hostWrite a bs).chan ix = s.chan ix := by unfold State.chan; rfl
@[simp] theorem State.hostWrite_stack_at (a : W64) (bs : List Byte) (ix : Nat) : (s.hostWrite a bs).stack ix = s.stack ix := by unfold State.stack; rfl
@[simp] theorem State.hostWrite_port_at (a : W64) (bs : List Byte) (ix : Nat) : (s.hostWrite a bs).port ix = s.port ix := by unfold State.port; rfl
@[simp] theorem State.hostWrite_queue_at (a : W64) (bs : List Byte) (ix : Nat) : (s.hostWrite a bs).queue ix = s.queue ix := by unfold State.queue; rfl
@[simp] theorem State.hostWrite_slot_at (a : W64) (bs : List Byte) (ix : Nat) : (s.hostWrite a bs).slot ix = s.slot ix := by unfold State.slot; rfl
@[simp] theorem State.hostWrite_ctx_at (a : W64) (bs : List Byte) (ix : Nat) : (s.hostWrite a bs).ctx ix = s.ctx ix := by unfold State.ctx; rfl
@[simp] theorem State.hostWrite_lsByte_at (a : W64) (bs : List Byte) (ix iy : Nat) : (s.hostWrite a bs).lsByte ix iy = s.lsByte ix iy := by unfold State.lsByte; rfl
@[simp] theorem State.hostWrite_memByte_at (a : W64) (bs : List Byte) (ix : Nat) : (s.hostWrite a bs).memByte ix = s.memByte ix := by unfold State.memByte; rfl
@[simp] theorem State.hostWrite_lsMark_at (a : W64) (bs : List Byte) (ix iy : Nat) : (s.hostWrite a bs).lsMark ix iy = s.lsMark ix iy := by unfold State.lsMark; rfl

/-! ### State.updHost -/

@[simp] theorem State.updHost_pending (f : HostIf → HostIf) : (s.updHost f).pending = s.pending := rfl
@[simp] theorem State.updHost_tiles (f : HostIf → HostIf) : (s.updHost f).tiles = s.tiles := rfl
@[simp] theorem State.updHost_tileDef (f : HostIf → HostIf) : (s.updHost f).tileDef = s.tileDef := rfl
@[simp] theorem State.updHost_regions (f : HostIf → HostIf) : (s.updHost f).regions = s.regions := rfl
@[simp] theorem State.updHost_ls (f : HostIf → HostIf) : (s.updHost f).ls = s.ls := rfl
@[simp] theorem State.updHost_lsMarks (f : HostIf → HostIf) : (s.updHost f).lsMarks = s.lsMarks := rfl
@[simp] theorem State.updHost_lsLog (f : HostIf → HostIf) : (s.updHost f).lsLog = s.lsLog := rfl
@[simp] theorem State.updHost_memLog (f : HostIf → HostIf) : (s.updHost f).memLog = s.memLog := rfl
@[simp] theorem State.updHost_lsWipe (f : HostIf → HostIf) : (s.updHost f).lsWipe = s.lsWipe := rfl
@[simp] theorem State.updHost_memWipe (f : HostIf → HostIf) : (s.updHost f).memWipe = s.memWipe := rfl
@[simp] theorem State.updHost_mesh (f : HostIf → HostIf) : (s.updHost f).mesh = s.mesh := rfl
@[simp] theorem State.updHost_meshTc (f : HostIf → HostIf) : (s.updHost f).meshTc = s.meshTc := rfl
@[simp] theorem State.updHost_answers (f : HostIf → HostIf) : (s.updHost f).answers = s.answers := rfl
@[simp] theorem State.updHost_cwld (f : HostIf → HostIf) : (s.updHost f).cwld = s.cwld := rfl
@[simp] theorem State.updHost_nan (f : HostIf → HostIf) : (s.updHost f).nan = s.nan := rfl
@[simp] theorem State.updHost_solvCtrl (f : HostIf → HostIf) : (s.updHost f).solvCtrl = s.solvCtrl := rfl
@[simp] theorem State.updHost_laths (f : HostIf → HostIf) : (s.updHost f).laths = s.laths := rfl
@[simp] theorem State.updHost_slots (f : HostIf → HostIf) : (s.updHost f).slots = s.slots := rfl
@[simp] theorem State.updHost_ctxs (f : HostIf → HostIf) : (s.updHost f).ctxs = s.ctxs := rfl
@[simp] theorem State.updHost_train (f : HostIf → HostIf) : (s.updHost f).train = s.train := rfl
@[simp] theorem State.updHost_esc (f : HostIf → HostIf) : (s.updHost f).esc = s.esc := rfl
@[simp] theorem State.updHost_mem (f : HostIf → HostIf) : (s.updHost f).mem = s.mem := rfl
@[simp] theorem State.updHost_fab (f : HostIf → HostIf) : (s.updHost f).fab = s.fab := rfl
@[simp] theorem State.updHost_slice (f : HostIf → HostIf) : (s.updHost f).slice = s.slice := rfl
@[simp] theorem State.updHost_cfg (f : HostIf → HostIf) : (s.updHost f).cfg = s.cfg := rfl
@[simp] theorem State.updHost_ras (f : HostIf → HostIf) : (s.updHost f).ras = s.ras := rfl
@[simp] theorem State.updHost_hang (f : HostIf → HostIf) : (s.updHost f).hang = s.hang := rfl
@[simp] theorem State.updHost_power (f : HostIf → HostIf) : (s.updHost f).power = s.power := rfl
@[simp] theorem State.updHost_flash (f : HostIf → HostIf) : (s.updHost f).flash = s.flash := rfl
@[simp] theorem State.updHost_freeCtr (f : HostIf → HostIf) : (s.updHost f).freeCtr = s.freeCtr := rfl
@[simp] theorem State.updHost_tile_at (f : HostIf → HostIf) (ix : Nat) : (s.updHost f).tile ix = s.tile ix := by unfold State.tile; rfl
@[simp] theorem State.updHost_region_at (f : HostIf → HostIf) (ix : Nat) : (s.updHost f).region ix = s.region ix := by unfold State.region; rfl
@[simp] theorem State.updHost_chan_at (f : HostIf → HostIf) (ix : Nat) : (s.updHost f).chan ix = s.chan ix := by unfold State.chan; rfl
@[simp] theorem State.updHost_stack_at (f : HostIf → HostIf) (ix : Nat) : (s.updHost f).stack ix = s.stack ix := by unfold State.stack; rfl
@[simp] theorem State.updHost_port_at (f : HostIf → HostIf) (ix : Nat) : (s.updHost f).port ix = s.port ix := by unfold State.port; rfl
@[simp] theorem State.updHost_slot_at (f : HostIf → HostIf) (ix : Nat) : (s.updHost f).slot ix = s.slot ix := by unfold State.slot; rfl
@[simp] theorem State.updHost_ctx_at (f : HostIf → HostIf) (ix : Nat) : (s.updHost f).ctx ix = s.ctx ix := by unfold State.ctx; rfl
@[simp] theorem State.updHost_lsByte_at (f : HostIf → HostIf) (ix iy : Nat) : (s.updHost f).lsByte ix iy = s.lsByte ix iy := by unfold State.lsByte; rfl
@[simp] theorem State.updHost_memByte_at (f : HostIf → HostIf) (ix : Nat) : (s.updHost f).memByte ix = s.memByte ix := by unfold State.memByte; rfl
@[simp] theorem State.updHost_lsMark_at (f : HostIf → HostIf) (ix iy : Nat) : (s.updHost f).lsMark ix iy = s.lsMark ix iy := by unfold State.lsMark; rfl

/-! ### State.hostBit -/

@[simp] theorem State.hostBit_pending (i : Nat) : (s.hostBit i).pending = s.pending := rfl
@[simp] theorem State.hostBit_tiles (i : Nat) : (s.hostBit i).tiles = s.tiles := rfl
@[simp] theorem State.hostBit_tileDef (i : Nat) : (s.hostBit i).tileDef = s.tileDef := rfl
@[simp] theorem State.hostBit_regions (i : Nat) : (s.hostBit i).regions = s.regions := rfl
@[simp] theorem State.hostBit_ls (i : Nat) : (s.hostBit i).ls = s.ls := rfl
@[simp] theorem State.hostBit_lsMarks (i : Nat) : (s.hostBit i).lsMarks = s.lsMarks := rfl
@[simp] theorem State.hostBit_lsLog (i : Nat) : (s.hostBit i).lsLog = s.lsLog := rfl
@[simp] theorem State.hostBit_memLog (i : Nat) : (s.hostBit i).memLog = s.memLog := rfl
@[simp] theorem State.hostBit_lsWipe (i : Nat) : (s.hostBit i).lsWipe = s.lsWipe := rfl
@[simp] theorem State.hostBit_memWipe (i : Nat) : (s.hostBit i).memWipe = s.memWipe := rfl
@[simp] theorem State.hostBit_mesh (i : Nat) : (s.hostBit i).mesh = s.mesh := rfl
@[simp] theorem State.hostBit_meshTc (i : Nat) : (s.hostBit i).meshTc = s.meshTc := rfl
@[simp] theorem State.hostBit_answers (i : Nat) : (s.hostBit i).answers = s.answers := rfl
@[simp] theorem State.hostBit_cwld (i : Nat) : (s.hostBit i).cwld = s.cwld := rfl
@[simp] theorem State.hostBit_nan (i : Nat) : (s.hostBit i).nan = s.nan := rfl
@[simp] theorem State.hostBit_solvCtrl (i : Nat) : (s.hostBit i).solvCtrl = s.solvCtrl := rfl
@[simp] theorem State.hostBit_laths (i : Nat) : (s.hostBit i).laths = s.laths := rfl
@[simp] theorem State.hostBit_slots (i : Nat) : (s.hostBit i).slots = s.slots := rfl
@[simp] theorem State.hostBit_ctxs (i : Nat) : (s.hostBit i).ctxs = s.ctxs := rfl
@[simp] theorem State.hostBit_train (i : Nat) : (s.hostBit i).train = s.train := rfl
@[simp] theorem State.hostBit_esc (i : Nat) : (s.hostBit i).esc = s.esc := rfl
@[simp] theorem State.hostBit_mem (i : Nat) : (s.hostBit i).mem = s.mem := rfl
@[simp] theorem State.hostBit_fab (i : Nat) : (s.hostBit i).fab = s.fab := rfl
@[simp] theorem State.hostBit_slice (i : Nat) : (s.hostBit i).slice = s.slice := rfl
@[simp] theorem State.hostBit_cfg (i : Nat) : (s.hostBit i).cfg = s.cfg := rfl
@[simp] theorem State.hostBit_ras (i : Nat) : (s.hostBit i).ras = s.ras := rfl
@[simp] theorem State.hostBit_hang (i : Nat) : (s.hostBit i).hang = s.hang := rfl
@[simp] theorem State.hostBit_power (i : Nat) : (s.hostBit i).power = s.power := rfl
@[simp] theorem State.hostBit_flash (i : Nat) : (s.hostBit i).flash = s.flash := rfl
@[simp] theorem State.hostBit_freeCtr (i : Nat) : (s.hostBit i).freeCtr = s.freeCtr := rfl
@[simp] theorem State.hostBit_host_winCfg (i : Nat) : (s.hostBit i).host.winCfg = s.host.winCfg := rfl
@[simp] theorem State.hostBit_host_mirrorAddr (i : Nat) : (s.hostBit i).host.mirrorAddr = s.host.mirrorAddr := rfl
@[simp] theorem State.hostBit_host_mirrorCfg (i : Nat) : (s.hostBit i).host.mirrorCfg = s.host.mirrorCfg := rfl
@[simp] theorem State.hostBit_host_link (i : Nat) : (s.hostBit i).host.link = s.host.link := rfl
@[simp] theorem State.hostBit_host_busMaster (i : Nat) : (s.hostBit i).host.busMaster = s.host.busMaster := rfl
@[simp] theorem State.hostBit_host_d0 (i : Nat) : (s.hostBit i).host.d0 = s.host.d0 := rfl
@[simp] theorem State.hostBit_host_queues (i : Nat) : (s.hostBit i).host.queues = s.host.queues := rfl
@[simp] theorem State.hostBit_host_tags (i : Nat) : (s.hostBit i).host.tags = s.host.tags := rfl
@[simp] theorem State.hostBit_host_held (i : Nat) : (s.hostBit i).host.held = s.host.held := rfl
@[simp] theorem State.hostBit_host_dmaDue (i : Nat) : (s.hostBit i).host.dmaDue = s.host.dmaDue := rfl
@[simp] theorem State.hostBit_host_mirrorSeq (i : Nat) : (s.hostBit i).host.mirrorSeq = s.host.mirrorSeq := rfl
@[simp] theorem State.hostBit_host_out (i : Nat) : (s.hostBit i).host.out = s.host.out := rfl
@[simp] theorem State.hostBit_host_reads (i : Nat) : (s.hostBit i).host.reads = s.host.reads := rfl
@[simp] theorem State.hostBit_host_fetches (i : Nat) : (s.hostBit i).host.fetches = s.host.fetches := rfl
@[simp] theorem State.hostBit_host_landed (i : Nat) : (s.hostBit i).host.landed = s.host.landed := rfl
@[simp] theorem State.hostBit_host_winLanded (i : Nat) : (s.hostBit i).host.winLanded = s.host.winLanded := rfl
@[simp] theorem State.hostBit_host_flagIn (i : Nat) : (s.hostBit i).host.flagIn = s.host.flagIn := rfl
@[simp] theorem State.hostBit_host_flags (i : Nat) : (s.hostBit i).host.flags = s.host.flags := rfl
@[simp] theorem State.hostBit_host_flagMarks (i : Nat) : (s.hostBit i).host.flagMarks = s.host.flagMarks := rfl
@[simp] theorem State.hostBit_host_flagScrub (i : Nat) : (s.hostBit i).host.flagScrub = s.host.flagScrub := rfl
@[simp] theorem State.hostBit_host_copies (i : Nat) : (s.hostBit i).host.copies = s.host.copies := rfl
@[simp] theorem State.hostBit_tile_at (i : Nat) (ix : Nat) : (s.hostBit i).tile ix = s.tile ix := by unfold State.tile; rfl
@[simp] theorem State.hostBit_region_at (i : Nat) (ix : Nat) : (s.hostBit i).region ix = s.region ix := by unfold State.region; rfl
@[simp] theorem State.hostBit_chan_at (i : Nat) (ix : Nat) : (s.hostBit i).chan ix = s.chan ix := by unfold State.chan; rfl
@[simp] theorem State.hostBit_stack_at (i : Nat) (ix : Nat) : (s.hostBit i).stack ix = s.stack ix := by unfold State.stack; rfl
@[simp] theorem State.hostBit_port_at (i : Nat) (ix : Nat) : (s.hostBit i).port ix = s.port ix := by unfold State.port; rfl
@[simp] theorem State.hostBit_queue_at (i : Nat) (ix : Nat) : (s.hostBit i).queue ix = s.queue ix := by unfold State.queue; rfl
@[simp] theorem State.hostBit_slot_at (i : Nat) (ix : Nat) : (s.hostBit i).slot ix = s.slot ix := by unfold State.slot; rfl
@[simp] theorem State.hostBit_ctx_at (i : Nat) (ix : Nat) : (s.hostBit i).ctx ix = s.ctx ix := by unfold State.ctx; rfl
@[simp] theorem State.hostBit_lsByte_at (i : Nat) (ix iy : Nat) : (s.hostBit i).lsByte ix iy = s.lsByte ix iy := by unfold State.lsByte; rfl
@[simp] theorem State.hostBit_memByte_at (i : Nat) (ix : Nat) : (s.hostBit i).memByte ix = s.memByte ix := by unfold State.memByte; rfl
@[simp] theorem State.hostBit_lsMark_at (i : Nat) (ix iy : Nat) : (s.hostBit i).lsMark ix iy = s.lsMark ix iy := by unfold State.lsMark; rfl

/-! ### State.readOut -/

@[simp] theorem State.readOut_pending (r : ReadOut) : (s.readOut r).pending = s.pending := rfl
@[simp] theorem State.readOut_tiles (r : ReadOut) : (s.readOut r).tiles = s.tiles := rfl
@[simp] theorem State.readOut_tileDef (r : ReadOut) : (s.readOut r).tileDef = s.tileDef := rfl
@[simp] theorem State.readOut_regions (r : ReadOut) : (s.readOut r).regions = s.regions := rfl
@[simp] theorem State.readOut_ls (r : ReadOut) : (s.readOut r).ls = s.ls := rfl
@[simp] theorem State.readOut_lsMarks (r : ReadOut) : (s.readOut r).lsMarks = s.lsMarks := rfl
@[simp] theorem State.readOut_lsLog (r : ReadOut) : (s.readOut r).lsLog = s.lsLog := rfl
@[simp] theorem State.readOut_memLog (r : ReadOut) : (s.readOut r).memLog = s.memLog := rfl
@[simp] theorem State.readOut_lsWipe (r : ReadOut) : (s.readOut r).lsWipe = s.lsWipe := rfl
@[simp] theorem State.readOut_memWipe (r : ReadOut) : (s.readOut r).memWipe = s.memWipe := rfl
@[simp] theorem State.readOut_mesh (r : ReadOut) : (s.readOut r).mesh = s.mesh := rfl
@[simp] theorem State.readOut_meshTc (r : ReadOut) : (s.readOut r).meshTc = s.meshTc := rfl
@[simp] theorem State.readOut_answers (r : ReadOut) : (s.readOut r).answers = s.answers := rfl
@[simp] theorem State.readOut_cwld (r : ReadOut) : (s.readOut r).cwld = s.cwld := rfl
@[simp] theorem State.readOut_nan (r : ReadOut) : (s.readOut r).nan = s.nan := rfl
@[simp] theorem State.readOut_solvCtrl (r : ReadOut) : (s.readOut r).solvCtrl = s.solvCtrl := rfl
@[simp] theorem State.readOut_laths (r : ReadOut) : (s.readOut r).laths = s.laths := rfl
@[simp] theorem State.readOut_slots (r : ReadOut) : (s.readOut r).slots = s.slots := rfl
@[simp] theorem State.readOut_ctxs (r : ReadOut) : (s.readOut r).ctxs = s.ctxs := rfl
@[simp] theorem State.readOut_train (r : ReadOut) : (s.readOut r).train = s.train := rfl
@[simp] theorem State.readOut_esc (r : ReadOut) : (s.readOut r).esc = s.esc := rfl
@[simp] theorem State.readOut_mem (r : ReadOut) : (s.readOut r).mem = s.mem := rfl
@[simp] theorem State.readOut_fab (r : ReadOut) : (s.readOut r).fab = s.fab := rfl
@[simp] theorem State.readOut_slice (r : ReadOut) : (s.readOut r).slice = s.slice := rfl
@[simp] theorem State.readOut_cfg (r : ReadOut) : (s.readOut r).cfg = s.cfg := rfl
@[simp] theorem State.readOut_ras (r : ReadOut) : (s.readOut r).ras = s.ras := rfl
@[simp] theorem State.readOut_hang (r : ReadOut) : (s.readOut r).hang = s.hang := rfl
@[simp] theorem State.readOut_power (r : ReadOut) : (s.readOut r).power = s.power := rfl
@[simp] theorem State.readOut_flash (r : ReadOut) : (s.readOut r).flash = s.flash := rfl
@[simp] theorem State.readOut_freeCtr (r : ReadOut) : (s.readOut r).freeCtr = s.freeCtr := rfl
@[simp] theorem State.readOut_host_winCfg (r : ReadOut) : (s.readOut r).host.winCfg = s.host.winCfg := rfl
@[simp] theorem State.readOut_host_mirrorAddr (r : ReadOut) : (s.readOut r).host.mirrorAddr = s.host.mirrorAddr := rfl
@[simp] theorem State.readOut_host_mirrorCfg (r : ReadOut) : (s.readOut r).host.mirrorCfg = s.host.mirrorCfg := rfl
@[simp] theorem State.readOut_host_status (r : ReadOut) : (s.readOut r).host.status = s.host.status := rfl
@[simp] theorem State.readOut_host_link (r : ReadOut) : (s.readOut r).host.link = s.host.link := rfl
@[simp] theorem State.readOut_host_busMaster (r : ReadOut) : (s.readOut r).host.busMaster = s.host.busMaster := rfl
@[simp] theorem State.readOut_host_d0 (r : ReadOut) : (s.readOut r).host.d0 = s.host.d0 := rfl
@[simp] theorem State.readOut_host_queues (r : ReadOut) : (s.readOut r).host.queues = s.host.queues := rfl
@[simp] theorem State.readOut_host_tags (r : ReadOut) : (s.readOut r).host.tags = s.host.tags := rfl
@[simp] theorem State.readOut_host_held (r : ReadOut) : (s.readOut r).host.held = s.host.held := rfl
@[simp] theorem State.readOut_host_dmaDue (r : ReadOut) : (s.readOut r).host.dmaDue = s.host.dmaDue := rfl
@[simp] theorem State.readOut_host_mirrorSeq (r : ReadOut) : (s.readOut r).host.mirrorSeq = s.host.mirrorSeq := rfl
@[simp] theorem State.readOut_host_out (r : ReadOut) : (s.readOut r).host.out = s.host.out := rfl
@[simp] theorem State.readOut_host_fetches (r : ReadOut) : (s.readOut r).host.fetches = s.host.fetches := rfl
@[simp] theorem State.readOut_host_landed (r : ReadOut) : (s.readOut r).host.landed = s.host.landed := rfl
@[simp] theorem State.readOut_host_winLanded (r : ReadOut) : (s.readOut r).host.winLanded = s.host.winLanded := rfl
@[simp] theorem State.readOut_host_flagIn (r : ReadOut) : (s.readOut r).host.flagIn = s.host.flagIn := rfl
@[simp] theorem State.readOut_host_flags (r : ReadOut) : (s.readOut r).host.flags = s.host.flags := rfl
@[simp] theorem State.readOut_host_flagMarks (r : ReadOut) : (s.readOut r).host.flagMarks = s.host.flagMarks := rfl
@[simp] theorem State.readOut_host_flagScrub (r : ReadOut) : (s.readOut r).host.flagScrub = s.host.flagScrub := rfl
@[simp] theorem State.readOut_host_copies (r : ReadOut) : (s.readOut r).host.copies = s.host.copies := rfl
@[simp] theorem State.readOut_tile_at (r : ReadOut) (ix : Nat) : (s.readOut r).tile ix = s.tile ix := by unfold State.tile; rfl
@[simp] theorem State.readOut_region_at (r : ReadOut) (ix : Nat) : (s.readOut r).region ix = s.region ix := by unfold State.region; rfl
@[simp] theorem State.readOut_chan_at (r : ReadOut) (ix : Nat) : (s.readOut r).chan ix = s.chan ix := by unfold State.chan; rfl
@[simp] theorem State.readOut_stack_at (r : ReadOut) (ix : Nat) : (s.readOut r).stack ix = s.stack ix := by unfold State.stack; rfl
@[simp] theorem State.readOut_port_at (r : ReadOut) (ix : Nat) : (s.readOut r).port ix = s.port ix := by unfold State.port; rfl
@[simp] theorem State.readOut_queue_at (r : ReadOut) (ix : Nat) : (s.readOut r).queue ix = s.queue ix := by unfold State.queue; rfl
@[simp] theorem State.readOut_slot_at (r : ReadOut) (ix : Nat) : (s.readOut r).slot ix = s.slot ix := by unfold State.slot; rfl
@[simp] theorem State.readOut_ctx_at (r : ReadOut) (ix : Nat) : (s.readOut r).ctx ix = s.ctx ix := by unfold State.ctx; rfl
@[simp] theorem State.readOut_lsByte_at (r : ReadOut) (ix iy : Nat) : (s.readOut r).lsByte ix iy = s.lsByte ix iy := by unfold State.lsByte; rfl
@[simp] theorem State.readOut_memByte_at (r : ReadOut) (ix : Nat) : (s.readOut r).memByte ix = s.memByte ix := by unfold State.memByte; rfl
@[simp] theorem State.readOut_lsMark_at (r : ReadOut) (ix iy : Nat) : (s.readOut r).lsMark ix iy = s.lsMark ix iy := by unfold State.lsMark; rfl

/-! ### State.setSliceSt -/

@[simp] theorem State.setSliceSt_pending (v : Nat) : (s.setSliceSt v).pending = s.pending := rfl
@[simp] theorem State.setSliceSt_tiles (v : Nat) : (s.setSliceSt v).tiles = s.tiles := rfl
@[simp] theorem State.setSliceSt_tileDef (v : Nat) : (s.setSliceSt v).tileDef = s.tileDef := rfl
@[simp] theorem State.setSliceSt_regions (v : Nat) : (s.setSliceSt v).regions = s.regions := rfl
@[simp] theorem State.setSliceSt_ls (v : Nat) : (s.setSliceSt v).ls = s.ls := rfl
@[simp] theorem State.setSliceSt_lsMarks (v : Nat) : (s.setSliceSt v).lsMarks = s.lsMarks := rfl
@[simp] theorem State.setSliceSt_lsLog (v : Nat) : (s.setSliceSt v).lsLog = s.lsLog := rfl
@[simp] theorem State.setSliceSt_memLog (v : Nat) : (s.setSliceSt v).memLog = s.memLog := rfl
@[simp] theorem State.setSliceSt_lsWipe (v : Nat) : (s.setSliceSt v).lsWipe = s.lsWipe := rfl
@[simp] theorem State.setSliceSt_memWipe (v : Nat) : (s.setSliceSt v).memWipe = s.memWipe := rfl
@[simp] theorem State.setSliceSt_mesh (v : Nat) : (s.setSliceSt v).mesh = s.mesh := rfl
@[simp] theorem State.setSliceSt_meshTc (v : Nat) : (s.setSliceSt v).meshTc = s.meshTc := rfl
@[simp] theorem State.setSliceSt_answers (v : Nat) : (s.setSliceSt v).answers = s.answers := rfl
@[simp] theorem State.setSliceSt_cwld (v : Nat) : (s.setSliceSt v).cwld = s.cwld := rfl
@[simp] theorem State.setSliceSt_nan (v : Nat) : (s.setSliceSt v).nan = s.nan := rfl
@[simp] theorem State.setSliceSt_solvCtrl (v : Nat) : (s.setSliceSt v).solvCtrl = s.solvCtrl := rfl
@[simp] theorem State.setSliceSt_laths (v : Nat) : (s.setSliceSt v).laths = s.laths := rfl
@[simp] theorem State.setSliceSt_slots (v : Nat) : (s.setSliceSt v).slots = s.slots := rfl
@[simp] theorem State.setSliceSt_ctxs (v : Nat) : (s.setSliceSt v).ctxs = s.ctxs := rfl
@[simp] theorem State.setSliceSt_train (v : Nat) : (s.setSliceSt v).train = s.train := rfl
@[simp] theorem State.setSliceSt_esc (v : Nat) : (s.setSliceSt v).esc = s.esc := rfl
@[simp] theorem State.setSliceSt_mem (v : Nat) : (s.setSliceSt v).mem = s.mem := rfl
@[simp] theorem State.setSliceSt_fab (v : Nat) : (s.setSliceSt v).fab = s.fab := rfl
@[simp] theorem State.setSliceSt_cfg (v : Nat) : (s.setSliceSt v).cfg = s.cfg := rfl
@[simp] theorem State.setSliceSt_host (v : Nat) : (s.setSliceSt v).host = s.host := rfl
@[simp] theorem State.setSliceSt_ras (v : Nat) : (s.setSliceSt v).ras = s.ras := rfl
@[simp] theorem State.setSliceSt_hang (v : Nat) : (s.setSliceSt v).hang = s.hang := rfl
@[simp] theorem State.setSliceSt_power (v : Nat) : (s.setSliceSt v).power = s.power := rfl
@[simp] theorem State.setSliceSt_flash (v : Nat) : (s.setSliceSt v).flash = s.flash := rfl
@[simp] theorem State.setSliceSt_freeCtr (v : Nat) : (s.setSliceSt v).freeCtr = s.freeCtr := rfl
@[simp] theorem State.setSliceSt_tile_at (v : Nat) (ix : Nat) : (s.setSliceSt v).tile ix = s.tile ix := by unfold State.tile; rfl
@[simp] theorem State.setSliceSt_region_at (v : Nat) (ix : Nat) : (s.setSliceSt v).region ix = s.region ix := by unfold State.region; rfl
@[simp] theorem State.setSliceSt_chan_at (v : Nat) (ix : Nat) : (s.setSliceSt v).chan ix = s.chan ix := by unfold State.chan; rfl
@[simp] theorem State.setSliceSt_stack_at (v : Nat) (ix : Nat) : (s.setSliceSt v).stack ix = s.stack ix := by unfold State.stack; rfl
@[simp] theorem State.setSliceSt_port_at (v : Nat) (ix : Nat) : (s.setSliceSt v).port ix = s.port ix := by unfold State.port; rfl
@[simp] theorem State.setSliceSt_queue_at (v : Nat) (ix : Nat) : (s.setSliceSt v).queue ix = s.queue ix := by unfold State.queue; rfl
@[simp] theorem State.setSliceSt_slot_at (v : Nat) (ix : Nat) : (s.setSliceSt v).slot ix = s.slot ix := by unfold State.slot; rfl
@[simp] theorem State.setSliceSt_ctx_at (v : Nat) (ix : Nat) : (s.setSliceSt v).ctx ix = s.ctx ix := by unfold State.ctx; rfl
@[simp] theorem State.setSliceSt_lsByte_at (v : Nat) (ix iy : Nat) : (s.setSliceSt v).lsByte ix iy = s.lsByte ix iy := by unfold State.lsByte; rfl
@[simp] theorem State.setSliceSt_memByte_at (v : Nat) (ix : Nat) : (s.setSliceSt v).memByte ix = s.memByte ix := by unfold State.memByte; rfl
@[simp] theorem State.setSliceSt_lsMark_at (v : Nat) (ix iy : Nat) : (s.setSliceSt v).lsMark ix iy = s.lsMark ix iy := by unfold State.lsMark; rfl

/-! ### State.updEsc -/

@[simp] theorem State.updEsc_pending (f : Esc → Esc) : (s.updEsc f).pending = s.pending := rfl
@[simp] theorem State.updEsc_tiles (f : Esc → Esc) : (s.updEsc f).tiles = s.tiles := rfl
@[simp] theorem State.updEsc_tileDef (f : Esc → Esc) : (s.updEsc f).tileDef = s.tileDef := rfl
@[simp] theorem State.updEsc_regions (f : Esc → Esc) : (s.updEsc f).regions = s.regions := rfl
@[simp] theorem State.updEsc_ls (f : Esc → Esc) : (s.updEsc f).ls = s.ls := rfl
@[simp] theorem State.updEsc_lsMarks (f : Esc → Esc) : (s.updEsc f).lsMarks = s.lsMarks := rfl
@[simp] theorem State.updEsc_lsLog (f : Esc → Esc) : (s.updEsc f).lsLog = s.lsLog := rfl
@[simp] theorem State.updEsc_memLog (f : Esc → Esc) : (s.updEsc f).memLog = s.memLog := rfl
@[simp] theorem State.updEsc_lsWipe (f : Esc → Esc) : (s.updEsc f).lsWipe = s.lsWipe := rfl
@[simp] theorem State.updEsc_memWipe (f : Esc → Esc) : (s.updEsc f).memWipe = s.memWipe := rfl
@[simp] theorem State.updEsc_mesh (f : Esc → Esc) : (s.updEsc f).mesh = s.mesh := rfl
@[simp] theorem State.updEsc_meshTc (f : Esc → Esc) : (s.updEsc f).meshTc = s.meshTc := rfl
@[simp] theorem State.updEsc_answers (f : Esc → Esc) : (s.updEsc f).answers = s.answers := rfl
@[simp] theorem State.updEsc_cwld (f : Esc → Esc) : (s.updEsc f).cwld = s.cwld := rfl
@[simp] theorem State.updEsc_nan (f : Esc → Esc) : (s.updEsc f).nan = s.nan := rfl
@[simp] theorem State.updEsc_solvCtrl (f : Esc → Esc) : (s.updEsc f).solvCtrl = s.solvCtrl := rfl
@[simp] theorem State.updEsc_laths (f : Esc → Esc) : (s.updEsc f).laths = s.laths := rfl
@[simp] theorem State.updEsc_slots (f : Esc → Esc) : (s.updEsc f).slots = s.slots := rfl
@[simp] theorem State.updEsc_ctxs (f : Esc → Esc) : (s.updEsc f).ctxs = s.ctxs := rfl
@[simp] theorem State.updEsc_train (f : Esc → Esc) : (s.updEsc f).train = s.train := rfl
@[simp] theorem State.updEsc_mem (f : Esc → Esc) : (s.updEsc f).mem = s.mem := rfl
@[simp] theorem State.updEsc_fab (f : Esc → Esc) : (s.updEsc f).fab = s.fab := rfl
@[simp] theorem State.updEsc_slice (f : Esc → Esc) : (s.updEsc f).slice = s.slice := rfl
@[simp] theorem State.updEsc_cfg (f : Esc → Esc) : (s.updEsc f).cfg = s.cfg := rfl
@[simp] theorem State.updEsc_host (f : Esc → Esc) : (s.updEsc f).host = s.host := rfl
@[simp] theorem State.updEsc_ras (f : Esc → Esc) : (s.updEsc f).ras = s.ras := rfl
@[simp] theorem State.updEsc_hang (f : Esc → Esc) : (s.updEsc f).hang = s.hang := rfl
@[simp] theorem State.updEsc_power (f : Esc → Esc) : (s.updEsc f).power = s.power := rfl
@[simp] theorem State.updEsc_flash (f : Esc → Esc) : (s.updEsc f).flash = s.flash := rfl
@[simp] theorem State.updEsc_freeCtr (f : Esc → Esc) : (s.updEsc f).freeCtr = s.freeCtr := rfl
@[simp] theorem State.updEsc_tile_at (f : Esc → Esc) (ix : Nat) : (s.updEsc f).tile ix = s.tile ix := by unfold State.tile; rfl
@[simp] theorem State.updEsc_region_at (f : Esc → Esc) (ix : Nat) : (s.updEsc f).region ix = s.region ix := by unfold State.region; rfl
@[simp] theorem State.updEsc_chan_at (f : Esc → Esc) (ix : Nat) : (s.updEsc f).chan ix = s.chan ix := by unfold State.chan; rfl
@[simp] theorem State.updEsc_stack_at (f : Esc → Esc) (ix : Nat) : (s.updEsc f).stack ix = s.stack ix := by unfold State.stack; rfl
@[simp] theorem State.updEsc_port_at (f : Esc → Esc) (ix : Nat) : (s.updEsc f).port ix = s.port ix := by unfold State.port; rfl
@[simp] theorem State.updEsc_queue_at (f : Esc → Esc) (ix : Nat) : (s.updEsc f).queue ix = s.queue ix := by unfold State.queue; rfl
@[simp] theorem State.updEsc_slot_at (f : Esc → Esc) (ix : Nat) : (s.updEsc f).slot ix = s.slot ix := by unfold State.slot; rfl
@[simp] theorem State.updEsc_ctx_at (f : Esc → Esc) (ix : Nat) : (s.updEsc f).ctx ix = s.ctx ix := by unfold State.ctx; rfl
@[simp] theorem State.updEsc_lsByte_at (f : Esc → Esc) (ix iy : Nat) : (s.updEsc f).lsByte ix iy = s.lsByte ix iy := by unfold State.lsByte; rfl
@[simp] theorem State.updEsc_memByte_at (f : Esc → Esc) (ix : Nat) : (s.updEsc f).memByte ix = s.memByte ix := by unfold State.memByte; rfl
@[simp] theorem State.updEsc_lsMark_at (f : Esc → Esc) (ix iy : Nat) : (s.updEsc f).lsMark ix iy = s.lsMark ix iy := by unfold State.lsMark; rfl

/-! ### State.escBit -/

@[simp] theorem State.escBit_pending (i : Nat) (b : Bool) : (s.escBit i b).pending = s.pending := rfl
@[simp] theorem State.escBit_tiles (i : Nat) (b : Bool) : (s.escBit i b).tiles = s.tiles := rfl
@[simp] theorem State.escBit_tileDef (i : Nat) (b : Bool) : (s.escBit i b).tileDef = s.tileDef := rfl
@[simp] theorem State.escBit_regions (i : Nat) (b : Bool) : (s.escBit i b).regions = s.regions := rfl
@[simp] theorem State.escBit_ls (i : Nat) (b : Bool) : (s.escBit i b).ls = s.ls := rfl
@[simp] theorem State.escBit_lsMarks (i : Nat) (b : Bool) : (s.escBit i b).lsMarks = s.lsMarks := rfl
@[simp] theorem State.escBit_lsLog (i : Nat) (b : Bool) : (s.escBit i b).lsLog = s.lsLog := rfl
@[simp] theorem State.escBit_memLog (i : Nat) (b : Bool) : (s.escBit i b).memLog = s.memLog := rfl
@[simp] theorem State.escBit_lsWipe (i : Nat) (b : Bool) : (s.escBit i b).lsWipe = s.lsWipe := rfl
@[simp] theorem State.escBit_memWipe (i : Nat) (b : Bool) : (s.escBit i b).memWipe = s.memWipe := rfl
@[simp] theorem State.escBit_mesh (i : Nat) (b : Bool) : (s.escBit i b).mesh = s.mesh := rfl
@[simp] theorem State.escBit_meshTc (i : Nat) (b : Bool) : (s.escBit i b).meshTc = s.meshTc := rfl
@[simp] theorem State.escBit_answers (i : Nat) (b : Bool) : (s.escBit i b).answers = s.answers := rfl
@[simp] theorem State.escBit_cwld (i : Nat) (b : Bool) : (s.escBit i b).cwld = s.cwld := rfl
@[simp] theorem State.escBit_nan (i : Nat) (b : Bool) : (s.escBit i b).nan = s.nan := rfl
@[simp] theorem State.escBit_solvCtrl (i : Nat) (b : Bool) : (s.escBit i b).solvCtrl = s.solvCtrl := rfl
@[simp] theorem State.escBit_laths (i : Nat) (b : Bool) : (s.escBit i b).laths = s.laths := rfl
@[simp] theorem State.escBit_slots (i : Nat) (b : Bool) : (s.escBit i b).slots = s.slots := rfl
@[simp] theorem State.escBit_ctxs (i : Nat) (b : Bool) : (s.escBit i b).ctxs = s.ctxs := rfl
@[simp] theorem State.escBit_train (i : Nat) (b : Bool) : (s.escBit i b).train = s.train := rfl
@[simp] theorem State.escBit_mem (i : Nat) (b : Bool) : (s.escBit i b).mem = s.mem := rfl
@[simp] theorem State.escBit_fab (i : Nat) (b : Bool) : (s.escBit i b).fab = s.fab := rfl
@[simp] theorem State.escBit_slice (i : Nat) (b : Bool) : (s.escBit i b).slice = s.slice := rfl
@[simp] theorem State.escBit_cfg (i : Nat) (b : Bool) : (s.escBit i b).cfg = s.cfg := rfl
@[simp] theorem State.escBit_host (i : Nat) (b : Bool) : (s.escBit i b).host = s.host := rfl
@[simp] theorem State.escBit_ras (i : Nat) (b : Bool) : (s.escBit i b).ras = s.ras := rfl
@[simp] theorem State.escBit_hang (i : Nat) (b : Bool) : (s.escBit i b).hang = s.hang := rfl
@[simp] theorem State.escBit_power (i : Nat) (b : Bool) : (s.escBit i b).power = s.power := rfl
@[simp] theorem State.escBit_flash (i : Nat) (b : Bool) : (s.escBit i b).flash = s.flash := rfl
@[simp] theorem State.escBit_freeCtr (i : Nat) (b : Bool) : (s.escBit i b).freeCtr = s.freeCtr := rfl
@[simp] theorem State.escBit_tile_at (i : Nat) (b : Bool) (ix : Nat) : (s.escBit i b).tile ix = s.tile ix := by unfold State.tile; rfl
@[simp] theorem State.escBit_region_at (i : Nat) (b : Bool) (ix : Nat) : (s.escBit i b).region ix = s.region ix := by unfold State.region; rfl
@[simp] theorem State.escBit_chan_at (i : Nat) (b : Bool) (ix : Nat) : (s.escBit i b).chan ix = s.chan ix := by unfold State.chan; rfl
@[simp] theorem State.escBit_stack_at (i : Nat) (b : Bool) (ix : Nat) : (s.escBit i b).stack ix = s.stack ix := by unfold State.stack; rfl
@[simp] theorem State.escBit_port_at (i : Nat) (b : Bool) (ix : Nat) : (s.escBit i b).port ix = s.port ix := by unfold State.port; rfl
@[simp] theorem State.escBit_queue_at (i : Nat) (b : Bool) (ix : Nat) : (s.escBit i b).queue ix = s.queue ix := by unfold State.queue; rfl
@[simp] theorem State.escBit_slot_at (i : Nat) (b : Bool) (ix : Nat) : (s.escBit i b).slot ix = s.slot ix := by unfold State.slot; rfl
@[simp] theorem State.escBit_ctx_at (i : Nat) (b : Bool) (ix : Nat) : (s.escBit i b).ctx ix = s.ctx ix := by unfold State.ctx; rfl
@[simp] theorem State.escBit_lsByte_at (i : Nat) (b : Bool) (ix iy : Nat) : (s.escBit i b).lsByte ix iy = s.lsByte ix iy := by unfold State.lsByte; rfl
@[simp] theorem State.escBit_memByte_at (i : Nat) (b : Bool) (ix : Nat) : (s.escBit i b).memByte ix = s.memByte ix := by unfold State.memByte; rfl
@[simp] theorem State.escBit_lsMark_at (i : Nat) (b : Bool) (ix iy : Nat) : (s.escBit i b).lsMark ix iy = s.lsMark ix iy := by unfold State.lsMark; rfl

/-! ### State.escLocked -/

@[simp] theorem State.escLocked_pending : (s.escLocked).pending = s.pending := rfl
@[simp] theorem State.escLocked_tiles : (s.escLocked).tiles = s.tiles := rfl
@[simp] theorem State.escLocked_tileDef : (s.escLocked).tileDef = s.tileDef := rfl
@[simp] theorem State.escLocked_regions : (s.escLocked).regions = s.regions := rfl
@[simp] theorem State.escLocked_ls : (s.escLocked).ls = s.ls := rfl
@[simp] theorem State.escLocked_lsMarks : (s.escLocked).lsMarks = s.lsMarks := rfl
@[simp] theorem State.escLocked_lsLog : (s.escLocked).lsLog = s.lsLog := rfl
@[simp] theorem State.escLocked_memLog : (s.escLocked).memLog = s.memLog := rfl
@[simp] theorem State.escLocked_lsWipe : (s.escLocked).lsWipe = s.lsWipe := rfl
@[simp] theorem State.escLocked_memWipe : (s.escLocked).memWipe = s.memWipe := rfl
@[simp] theorem State.escLocked_mesh : (s.escLocked).mesh = s.mesh := rfl
@[simp] theorem State.escLocked_meshTc : (s.escLocked).meshTc = s.meshTc := rfl
@[simp] theorem State.escLocked_answers : (s.escLocked).answers = s.answers := rfl
@[simp] theorem State.escLocked_cwld : (s.escLocked).cwld = s.cwld := rfl
@[simp] theorem State.escLocked_nan : (s.escLocked).nan = s.nan := rfl
@[simp] theorem State.escLocked_solvCtrl : (s.escLocked).solvCtrl = s.solvCtrl := rfl
@[simp] theorem State.escLocked_laths : (s.escLocked).laths = s.laths := rfl
@[simp] theorem State.escLocked_slots : (s.escLocked).slots = s.slots := rfl
@[simp] theorem State.escLocked_ctxs : (s.escLocked).ctxs = s.ctxs := rfl
@[simp] theorem State.escLocked_train : (s.escLocked).train = s.train := rfl
@[simp] theorem State.escLocked_mem : (s.escLocked).mem = s.mem := rfl
@[simp] theorem State.escLocked_fab : (s.escLocked).fab = s.fab := rfl
@[simp] theorem State.escLocked_slice : (s.escLocked).slice = s.slice := rfl
@[simp] theorem State.escLocked_cfg : (s.escLocked).cfg = s.cfg := rfl
@[simp] theorem State.escLocked_host : (s.escLocked).host = s.host := rfl
@[simp] theorem State.escLocked_ras : (s.escLocked).ras = s.ras := rfl
@[simp] theorem State.escLocked_hang : (s.escLocked).hang = s.hang := rfl
@[simp] theorem State.escLocked_power : (s.escLocked).power = s.power := rfl
@[simp] theorem State.escLocked_flash : (s.escLocked).flash = s.flash := rfl
@[simp] theorem State.escLocked_freeCtr : (s.escLocked).freeCtr = s.freeCtr := rfl
@[simp] theorem State.escLocked_tile_at (ix : Nat) : (s.escLocked).tile ix = s.tile ix := by unfold State.tile; rfl
@[simp] theorem State.escLocked_region_at (ix : Nat) : (s.escLocked).region ix = s.region ix := by unfold State.region; rfl
@[simp] theorem State.escLocked_chan_at (ix : Nat) : (s.escLocked).chan ix = s.chan ix := by unfold State.chan; rfl
@[simp] theorem State.escLocked_stack_at (ix : Nat) : (s.escLocked).stack ix = s.stack ix := by unfold State.stack; rfl
@[simp] theorem State.escLocked_port_at (ix : Nat) : (s.escLocked).port ix = s.port ix := by unfold State.port; rfl
@[simp] theorem State.escLocked_queue_at (ix : Nat) : (s.escLocked).queue ix = s.queue ix := by unfold State.queue; rfl
@[simp] theorem State.escLocked_slot_at (ix : Nat) : (s.escLocked).slot ix = s.slot ix := by unfold State.slot; rfl
@[simp] theorem State.escLocked_ctx_at (ix : Nat) : (s.escLocked).ctx ix = s.ctx ix := by unfold State.ctx; rfl
@[simp] theorem State.escLocked_lsByte_at (ix iy : Nat) : (s.escLocked).lsByte ix iy = s.lsByte ix iy := by unfold State.lsByte; rfl
@[simp] theorem State.escLocked_memByte_at (ix : Nat) : (s.escLocked).memByte ix = s.memByte ix := by unfold State.memByte; rfl
@[simp] theorem State.escLocked_lsMark_at (ix iy : Nat) : (s.escLocked).lsMark ix iy = s.lsMark ix iy := by unfold State.lsMark; rfl

/-! ### State.hsFrame -/

@[simp] theorem State.hsFrame_pending (p : Nat) (l : List W64) : (s.hsFrame p l).pending = s.pending := rfl
@[simp] theorem State.hsFrame_tiles (p : Nat) (l : List W64) : (s.hsFrame p l).tiles = s.tiles := rfl
@[simp] theorem State.hsFrame_tileDef (p : Nat) (l : List W64) : (s.hsFrame p l).tileDef = s.tileDef := rfl
@[simp] theorem State.hsFrame_regions (p : Nat) (l : List W64) : (s.hsFrame p l).regions = s.regions := rfl
@[simp] theorem State.hsFrame_ls (p : Nat) (l : List W64) : (s.hsFrame p l).ls = s.ls := rfl
@[simp] theorem State.hsFrame_lsMarks (p : Nat) (l : List W64) : (s.hsFrame p l).lsMarks = s.lsMarks := rfl
@[simp] theorem State.hsFrame_lsLog (p : Nat) (l : List W64) : (s.hsFrame p l).lsLog = s.lsLog := rfl
@[simp] theorem State.hsFrame_memLog (p : Nat) (l : List W64) : (s.hsFrame p l).memLog = s.memLog := rfl
@[simp] theorem State.hsFrame_lsWipe (p : Nat) (l : List W64) : (s.hsFrame p l).lsWipe = s.lsWipe := rfl
@[simp] theorem State.hsFrame_memWipe (p : Nat) (l : List W64) : (s.hsFrame p l).memWipe = s.memWipe := rfl
@[simp] theorem State.hsFrame_mesh (p : Nat) (l : List W64) : (s.hsFrame p l).mesh = s.mesh := rfl
@[simp] theorem State.hsFrame_meshTc (p : Nat) (l : List W64) : (s.hsFrame p l).meshTc = s.meshTc := rfl
@[simp] theorem State.hsFrame_answers (p : Nat) (l : List W64) : (s.hsFrame p l).answers = s.answers := rfl
@[simp] theorem State.hsFrame_cwld (p : Nat) (l : List W64) : (s.hsFrame p l).cwld = s.cwld := rfl
@[simp] theorem State.hsFrame_nan (p : Nat) (l : List W64) : (s.hsFrame p l).nan = s.nan := rfl
@[simp] theorem State.hsFrame_solvCtrl (p : Nat) (l : List W64) : (s.hsFrame p l).solvCtrl = s.solvCtrl := rfl
@[simp] theorem State.hsFrame_laths (p : Nat) (l : List W64) : (s.hsFrame p l).laths = s.laths := rfl
@[simp] theorem State.hsFrame_slots (p : Nat) (l : List W64) : (s.hsFrame p l).slots = s.slots := rfl
@[simp] theorem State.hsFrame_ctxs (p : Nat) (l : List W64) : (s.hsFrame p l).ctxs = s.ctxs := rfl
@[simp] theorem State.hsFrame_train (p : Nat) (l : List W64) : (s.hsFrame p l).train = s.train := rfl
@[simp] theorem State.hsFrame_esc (p : Nat) (l : List W64) : (s.hsFrame p l).esc = s.esc := rfl
@[simp] theorem State.hsFrame_mem (p : Nat) (l : List W64) : (s.hsFrame p l).mem = s.mem := rfl
@[simp] theorem State.hsFrame_slice (p : Nat) (l : List W64) : (s.hsFrame p l).slice = s.slice := rfl
@[simp] theorem State.hsFrame_cfg (p : Nat) (l : List W64) : (s.hsFrame p l).cfg = s.cfg := rfl
@[simp] theorem State.hsFrame_host (p : Nat) (l : List W64) : (s.hsFrame p l).host = s.host := rfl
@[simp] theorem State.hsFrame_ras (p : Nat) (l : List W64) : (s.hsFrame p l).ras = s.ras := rfl
@[simp] theorem State.hsFrame_hang (p : Nat) (l : List W64) : (s.hsFrame p l).hang = s.hang := rfl
@[simp] theorem State.hsFrame_power (p : Nat) (l : List W64) : (s.hsFrame p l).power = s.power := rfl
@[simp] theorem State.hsFrame_flash (p : Nat) (l : List W64) : (s.hsFrame p l).flash = s.flash := rfl
@[simp] theorem State.hsFrame_freeCtr (p : Nat) (l : List W64) : (s.hsFrame p l).freeCtr = s.freeCtr := rfl
@[simp] theorem State.hsFrame_fab_id (p : Nat) (l : List W64) : (s.hsFrame p l).fab.id = s.fab.id := rfl
@[simp] theorem State.hsFrame_fab_status (p : Nat) (l : List W64) : (s.hsFrame p l).fab.status = s.fab.status := rfl
@[simp] theorem State.hsFrame_fab_ccCfg (p : Nat) (l : List W64) : (s.hsFrame p l).fab.ccCfg = s.fab.ccCfg := rfl
@[simp] theorem State.hsFrame_fab_txnCfg (p : Nat) (l : List W64) : (s.hsFrame p l).fab.txnCfg = s.fab.txnCfg := rfl
@[simp] theorem State.hsFrame_fab_drop0 (p : Nat) (l : List W64) : (s.hsFrame p l).fab.drop0 = s.fab.drop0 := rfl
@[simp] theorem State.hsFrame_fab_drop1 (p : Nat) (l : List W64) : (s.hsFrame p l).fab.drop1 = s.fab.drop1 := rfl
@[simp] theorem State.hsFrame_fab_drop2 (p : Nat) (l : List W64) : (s.hsFrame p l).fab.drop2 = s.fab.drop2 := rfl
@[simp] theorem State.hsFrame_fab_stats0 (p : Nat) (l : List W64) : (s.hsFrame p l).fab.stats0 = s.fab.stats0 := rfl
@[simp] theorem State.hsFrame_fab_stats1 (p : Nat) (l : List W64) : (s.hsFrame p l).fab.stats1 = s.fab.stats1 := rfl
@[simp] theorem State.hsFrame_fab_rt (p : Nat) (l : List W64) : (s.hsFrame p l).fab.rt = s.fab.rt := rfl
@[simp] theorem State.hsFrame_fab_rts (p : Nat) (l : List W64) : (s.hsFrame p l).fab.rts = s.fab.rts := rfl
@[simp] theorem State.hsFrame_fab_rate (p : Nat) (l : List W64) : (s.hsFrame p l).fab.rate = s.fab.rate := rfl
@[simp] theorem State.hsFrame_fab_lastCut (p : Nat) (l : List W64) : (s.hsFrame p l).fab.lastCut = s.fab.lastCut := rfl
@[simp] theorem State.hsFrame_fab_spent (p : Nat) (l : List W64) : (s.hsFrame p l).fab.spent = s.fab.spent := rfl
@[simp] theorem State.hsFrame_fab_cir (p : Nat) (l : List W64) : (s.hsFrame p l).fab.cir = s.fab.cir := rfl
@[simp] theorem State.hsFrame_fab_cirs (p : Nat) (l : List W64) : (s.hsFrame p l).fab.cirs = s.fab.cirs := rfl
@[simp] theorem State.hsFrame_fab_switchQ (p : Nat) (l : List W64) : (s.hsFrame p l).fab.switchQ = s.fab.switchQ := rfl
@[simp] theorem State.hsFrame_fab_delivered (p : Nat) (l : List W64) : (s.hsFrame p l).fab.delivered = s.fab.delivered := rfl
@[simp] theorem State.hsFrame_fab_waiting (p : Nat) (l : List W64) : (s.hsFrame p l).fab.waiting = s.fab.waiting := rfl
@[simp] theorem State.hsFrame_fab_awaited (p : Nat) (l : List W64) : (s.hsFrame p l).fab.awaited = s.fab.awaited := rfl
@[simp] theorem State.hsFrame_fab_txns (p : Nat) (l : List W64) : (s.hsFrame p l).fab.txns = s.fab.txns := rfl
@[simp] theorem State.hsFrame_fab_nextTag (p : Nat) (l : List W64) : (s.hsFrame p l).fab.nextTag = s.fab.nextTag := rfl
@[simp] theorem State.hsFrame_fab_drainBeat (p : Nat) (l : List W64) : (s.hsFrame p l).fab.drainBeat = s.fab.drainBeat := rfl
@[simp] theorem State.hsFrame_fab_markersSent (p : Nat) (l : List W64) : (s.hsFrame p l).fab.markersSent = s.fab.markersSent := rfl
@[simp] theorem State.hsFrame_fab_inReqs (p : Nat) (l : List W64) : (s.hsFrame p l).fab.inReqs = s.fab.inReqs := rfl
@[simp] theorem State.hsFrame_tile_at (p : Nat) (l : List W64) (ix : Nat) : (s.hsFrame p l).tile ix = s.tile ix := by unfold State.tile; rfl
@[simp] theorem State.hsFrame_region_at (p : Nat) (l : List W64) (ix : Nat) : (s.hsFrame p l).region ix = s.region ix := by unfold State.region; rfl
@[simp] theorem State.hsFrame_chan_at (p : Nat) (l : List W64) (ix : Nat) : (s.hsFrame p l).chan ix = s.chan ix := by unfold State.chan; rfl
@[simp] theorem State.hsFrame_stack_at (p : Nat) (l : List W64) (ix : Nat) : (s.hsFrame p l).stack ix = s.stack ix := by unfold State.stack; rfl
@[simp] theorem State.hsFrame_queue_at (p : Nat) (l : List W64) (ix : Nat) : (s.hsFrame p l).queue ix = s.queue ix := by unfold State.queue; rfl
@[simp] theorem State.hsFrame_slot_at (p : Nat) (l : List W64) (ix : Nat) : (s.hsFrame p l).slot ix = s.slot ix := by unfold State.slot; rfl
@[simp] theorem State.hsFrame_ctx_at (p : Nat) (l : List W64) (ix : Nat) : (s.hsFrame p l).ctx ix = s.ctx ix := by unfold State.ctx; rfl
@[simp] theorem State.hsFrame_lsByte_at (p : Nat) (l : List W64) (ix iy : Nat) : (s.hsFrame p l).lsByte ix iy = s.lsByte ix iy := by unfold State.lsByte; rfl
@[simp] theorem State.hsFrame_memByte_at (p : Nat) (l : List W64) (ix : Nat) : (s.hsFrame p l).memByte ix = s.memByte ix := by unfold State.memByte; rfl
@[simp] theorem State.hsFrame_lsMark_at (p : Nat) (l : List W64) (ix iy : Nat) : (s.hsFrame p l).lsMark ix iy = s.lsMark ix iy := by unfold State.lsMark; rfl

/-! ### State.applySlew -/

@[simp] theorem State.applySlew_pending (v : W64) (d : Int) : (s.applySlew v d).pending = s.pending := rfl
@[simp] theorem State.applySlew_tiles (v : W64) (d : Int) : (s.applySlew v d).tiles = s.tiles := rfl
@[simp] theorem State.applySlew_tileDef (v : W64) (d : Int) : (s.applySlew v d).tileDef = s.tileDef := rfl
@[simp] theorem State.applySlew_regions (v : W64) (d : Int) : (s.applySlew v d).regions = s.regions := rfl
@[simp] theorem State.applySlew_ls (v : W64) (d : Int) : (s.applySlew v d).ls = s.ls := rfl
@[simp] theorem State.applySlew_lsMarks (v : W64) (d : Int) : (s.applySlew v d).lsMarks = s.lsMarks := rfl
@[simp] theorem State.applySlew_lsLog (v : W64) (d : Int) : (s.applySlew v d).lsLog = s.lsLog := rfl
@[simp] theorem State.applySlew_memLog (v : W64) (d : Int) : (s.applySlew v d).memLog = s.memLog := rfl
@[simp] theorem State.applySlew_lsWipe (v : W64) (d : Int) : (s.applySlew v d).lsWipe = s.lsWipe := rfl
@[simp] theorem State.applySlew_memWipe (v : W64) (d : Int) : (s.applySlew v d).memWipe = s.memWipe := rfl
@[simp] theorem State.applySlew_mesh (v : W64) (d : Int) : (s.applySlew v d).mesh = s.mesh := rfl
@[simp] theorem State.applySlew_meshTc (v : W64) (d : Int) : (s.applySlew v d).meshTc = s.meshTc := rfl
@[simp] theorem State.applySlew_answers (v : W64) (d : Int) : (s.applySlew v d).answers = s.answers := rfl
@[simp] theorem State.applySlew_cwld (v : W64) (d : Int) : (s.applySlew v d).cwld = s.cwld := rfl
@[simp] theorem State.applySlew_nan (v : W64) (d : Int) : (s.applySlew v d).nan = s.nan := rfl
@[simp] theorem State.applySlew_solvCtrl (v : W64) (d : Int) : (s.applySlew v d).solvCtrl = s.solvCtrl := rfl
@[simp] theorem State.applySlew_laths (v : W64) (d : Int) : (s.applySlew v d).laths = s.laths := rfl
@[simp] theorem State.applySlew_slots (v : W64) (d : Int) : (s.applySlew v d).slots = s.slots := rfl
@[simp] theorem State.applySlew_ctxs (v : W64) (d : Int) : (s.applySlew v d).ctxs = s.ctxs := rfl
@[simp] theorem State.applySlew_train (v : W64) (d : Int) : (s.applySlew v d).train = s.train := rfl
@[simp] theorem State.applySlew_mem (v : W64) (d : Int) : (s.applySlew v d).mem = s.mem := rfl
@[simp] theorem State.applySlew_fab (v : W64) (d : Int) : (s.applySlew v d).fab = s.fab := rfl
@[simp] theorem State.applySlew_slice (v : W64) (d : Int) : (s.applySlew v d).slice = s.slice := rfl
@[simp] theorem State.applySlew_cfg (v : W64) (d : Int) : (s.applySlew v d).cfg = s.cfg := rfl
@[simp] theorem State.applySlew_host (v : W64) (d : Int) : (s.applySlew v d).host = s.host := rfl
@[simp] theorem State.applySlew_ras (v : W64) (d : Int) : (s.applySlew v d).ras = s.ras := rfl
@[simp] theorem State.applySlew_hang (v : W64) (d : Int) : (s.applySlew v d).hang = s.hang := rfl
@[simp] theorem State.applySlew_power (v : W64) (d : Int) : (s.applySlew v d).power = s.power := rfl
@[simp] theorem State.applySlew_flash (v : W64) (d : Int) : (s.applySlew v d).flash = s.flash := rfl
@[simp] theorem State.applySlew_freeCtr (v : W64) (d : Int) : (s.applySlew v d).freeCtr = s.freeCtr := rfl
@[simp] theorem State.applySlew_tile_at (v : W64) (d : Int) (ix : Nat) : (s.applySlew v d).tile ix = s.tile ix := by unfold State.tile; rfl
@[simp] theorem State.applySlew_region_at (v : W64) (d : Int) (ix : Nat) : (s.applySlew v d).region ix = s.region ix := by unfold State.region; rfl
@[simp] theorem State.applySlew_chan_at (v : W64) (d : Int) (ix : Nat) : (s.applySlew v d).chan ix = s.chan ix := by unfold State.chan; rfl
@[simp] theorem State.applySlew_stack_at (v : W64) (d : Int) (ix : Nat) : (s.applySlew v d).stack ix = s.stack ix := by unfold State.stack; rfl
@[simp] theorem State.applySlew_port_at (v : W64) (d : Int) (ix : Nat) : (s.applySlew v d).port ix = s.port ix := by unfold State.port; rfl
@[simp] theorem State.applySlew_queue_at (v : W64) (d : Int) (ix : Nat) : (s.applySlew v d).queue ix = s.queue ix := by unfold State.queue; rfl
@[simp] theorem State.applySlew_slot_at (v : W64) (d : Int) (ix : Nat) : (s.applySlew v d).slot ix = s.slot ix := by unfold State.slot; rfl
@[simp] theorem State.applySlew_ctx_at (v : W64) (d : Int) (ix : Nat) : (s.applySlew v d).ctx ix = s.ctx ix := by unfold State.ctx; rfl
@[simp] theorem State.applySlew_lsByte_at (v : W64) (d : Int) (ix iy : Nat) : (s.applySlew v d).lsByte ix iy = s.lsByte ix iy := by unfold State.lsByte; rfl
@[simp] theorem State.applySlew_memByte_at (v : W64) (d : Int) (ix : Nat) : (s.applySlew v d).memByte ix = s.memByte ix := by unfold State.memByte; rfl
@[simp] theorem State.applySlew_lsMark_at (v : W64) (d : Int) (ix iy : Nat) : (s.applySlew v d).lsMark ix iy = s.lsMark ix iy := by unfold State.lsMark; rfl

/-! ### State.updHang -/

@[simp] theorem State.updHang_pending (f : Hang → Hang) : (s.updHang f).pending = s.pending := rfl
@[simp] theorem State.updHang_tiles (f : Hang → Hang) : (s.updHang f).tiles = s.tiles := rfl
@[simp] theorem State.updHang_tileDef (f : Hang → Hang) : (s.updHang f).tileDef = s.tileDef := rfl
@[simp] theorem State.updHang_regions (f : Hang → Hang) : (s.updHang f).regions = s.regions := rfl
@[simp] theorem State.updHang_ls (f : Hang → Hang) : (s.updHang f).ls = s.ls := rfl
@[simp] theorem State.updHang_lsMarks (f : Hang → Hang) : (s.updHang f).lsMarks = s.lsMarks := rfl
@[simp] theorem State.updHang_lsLog (f : Hang → Hang) : (s.updHang f).lsLog = s.lsLog := rfl
@[simp] theorem State.updHang_memLog (f : Hang → Hang) : (s.updHang f).memLog = s.memLog := rfl
@[simp] theorem State.updHang_lsWipe (f : Hang → Hang) : (s.updHang f).lsWipe = s.lsWipe := rfl
@[simp] theorem State.updHang_memWipe (f : Hang → Hang) : (s.updHang f).memWipe = s.memWipe := rfl
@[simp] theorem State.updHang_mesh (f : Hang → Hang) : (s.updHang f).mesh = s.mesh := rfl
@[simp] theorem State.updHang_meshTc (f : Hang → Hang) : (s.updHang f).meshTc = s.meshTc := rfl
@[simp] theorem State.updHang_answers (f : Hang → Hang) : (s.updHang f).answers = s.answers := rfl
@[simp] theorem State.updHang_cwld (f : Hang → Hang) : (s.updHang f).cwld = s.cwld := rfl
@[simp] theorem State.updHang_nan (f : Hang → Hang) : (s.updHang f).nan = s.nan := rfl
@[simp] theorem State.updHang_solvCtrl (f : Hang → Hang) : (s.updHang f).solvCtrl = s.solvCtrl := rfl
@[simp] theorem State.updHang_laths (f : Hang → Hang) : (s.updHang f).laths = s.laths := rfl
@[simp] theorem State.updHang_slots (f : Hang → Hang) : (s.updHang f).slots = s.slots := rfl
@[simp] theorem State.updHang_ctxs (f : Hang → Hang) : (s.updHang f).ctxs = s.ctxs := rfl
@[simp] theorem State.updHang_train (f : Hang → Hang) : (s.updHang f).train = s.train := rfl
@[simp] theorem State.updHang_esc (f : Hang → Hang) : (s.updHang f).esc = s.esc := rfl
@[simp] theorem State.updHang_mem (f : Hang → Hang) : (s.updHang f).mem = s.mem := rfl
@[simp] theorem State.updHang_fab (f : Hang → Hang) : (s.updHang f).fab = s.fab := rfl
@[simp] theorem State.updHang_slice (f : Hang → Hang) : (s.updHang f).slice = s.slice := rfl
@[simp] theorem State.updHang_cfg (f : Hang → Hang) : (s.updHang f).cfg = s.cfg := rfl
@[simp] theorem State.updHang_host (f : Hang → Hang) : (s.updHang f).host = s.host := rfl
@[simp] theorem State.updHang_ras (f : Hang → Hang) : (s.updHang f).ras = s.ras := rfl
@[simp] theorem State.updHang_power (f : Hang → Hang) : (s.updHang f).power = s.power := rfl
@[simp] theorem State.updHang_flash (f : Hang → Hang) : (s.updHang f).flash = s.flash := rfl
@[simp] theorem State.updHang_freeCtr (f : Hang → Hang) : (s.updHang f).freeCtr = s.freeCtr := rfl
@[simp] theorem State.updHang_tile_at (f : Hang → Hang) (ix : Nat) : (s.updHang f).tile ix = s.tile ix := by unfold State.tile; rfl
@[simp] theorem State.updHang_region_at (f : Hang → Hang) (ix : Nat) : (s.updHang f).region ix = s.region ix := by unfold State.region; rfl
@[simp] theorem State.updHang_chan_at (f : Hang → Hang) (ix : Nat) : (s.updHang f).chan ix = s.chan ix := by unfold State.chan; rfl
@[simp] theorem State.updHang_stack_at (f : Hang → Hang) (ix : Nat) : (s.updHang f).stack ix = s.stack ix := by unfold State.stack; rfl
@[simp] theorem State.updHang_port_at (f : Hang → Hang) (ix : Nat) : (s.updHang f).port ix = s.port ix := by unfold State.port; rfl
@[simp] theorem State.updHang_queue_at (f : Hang → Hang) (ix : Nat) : (s.updHang f).queue ix = s.queue ix := by unfold State.queue; rfl
@[simp] theorem State.updHang_slot_at (f : Hang → Hang) (ix : Nat) : (s.updHang f).slot ix = s.slot ix := by unfold State.slot; rfl
@[simp] theorem State.updHang_ctx_at (f : Hang → Hang) (ix : Nat) : (s.updHang f).ctx ix = s.ctx ix := by unfold State.ctx; rfl
@[simp] theorem State.updHang_lsByte_at (f : Hang → Hang) (ix iy : Nat) : (s.updHang f).lsByte ix iy = s.lsByte ix iy := by unfold State.lsByte; rfl
@[simp] theorem State.updHang_memByte_at (f : Hang → Hang) (ix : Nat) : (s.updHang f).memByte ix = s.memByte ix := by unfold State.memByte; rfl
@[simp] theorem State.updHang_lsMark_at (f : Hang → Hang) (ix iy : Nat) : (s.updHang f).lsMark ix iy = s.lsMark ix iy := by unfold State.lsMark; rfl

/-! ### State.updCfg -/

@[simp] theorem State.updCfg_pending (f : Cfg → Cfg) : (s.updCfg f).pending = s.pending := rfl
@[simp] theorem State.updCfg_tiles (f : Cfg → Cfg) : (s.updCfg f).tiles = s.tiles := rfl
@[simp] theorem State.updCfg_tileDef (f : Cfg → Cfg) : (s.updCfg f).tileDef = s.tileDef := rfl
@[simp] theorem State.updCfg_regions (f : Cfg → Cfg) : (s.updCfg f).regions = s.regions := rfl
@[simp] theorem State.updCfg_ls (f : Cfg → Cfg) : (s.updCfg f).ls = s.ls := rfl
@[simp] theorem State.updCfg_lsMarks (f : Cfg → Cfg) : (s.updCfg f).lsMarks = s.lsMarks := rfl
@[simp] theorem State.updCfg_lsLog (f : Cfg → Cfg) : (s.updCfg f).lsLog = s.lsLog := rfl
@[simp] theorem State.updCfg_memLog (f : Cfg → Cfg) : (s.updCfg f).memLog = s.memLog := rfl
@[simp] theorem State.updCfg_lsWipe (f : Cfg → Cfg) : (s.updCfg f).lsWipe = s.lsWipe := rfl
@[simp] theorem State.updCfg_memWipe (f : Cfg → Cfg) : (s.updCfg f).memWipe = s.memWipe := rfl
@[simp] theorem State.updCfg_mesh (f : Cfg → Cfg) : (s.updCfg f).mesh = s.mesh := rfl
@[simp] theorem State.updCfg_meshTc (f : Cfg → Cfg) : (s.updCfg f).meshTc = s.meshTc := rfl
@[simp] theorem State.updCfg_answers (f : Cfg → Cfg) : (s.updCfg f).answers = s.answers := rfl
@[simp] theorem State.updCfg_cwld (f : Cfg → Cfg) : (s.updCfg f).cwld = s.cwld := rfl
@[simp] theorem State.updCfg_nan (f : Cfg → Cfg) : (s.updCfg f).nan = s.nan := rfl
@[simp] theorem State.updCfg_solvCtrl (f : Cfg → Cfg) : (s.updCfg f).solvCtrl = s.solvCtrl := rfl
@[simp] theorem State.updCfg_laths (f : Cfg → Cfg) : (s.updCfg f).laths = s.laths := rfl
@[simp] theorem State.updCfg_slots (f : Cfg → Cfg) : (s.updCfg f).slots = s.slots := rfl
@[simp] theorem State.updCfg_ctxs (f : Cfg → Cfg) : (s.updCfg f).ctxs = s.ctxs := rfl
@[simp] theorem State.updCfg_train (f : Cfg → Cfg) : (s.updCfg f).train = s.train := rfl
@[simp] theorem State.updCfg_esc (f : Cfg → Cfg) : (s.updCfg f).esc = s.esc := rfl
@[simp] theorem State.updCfg_mem (f : Cfg → Cfg) : (s.updCfg f).mem = s.mem := rfl
@[simp] theorem State.updCfg_fab (f : Cfg → Cfg) : (s.updCfg f).fab = s.fab := rfl
@[simp] theorem State.updCfg_slice (f : Cfg → Cfg) : (s.updCfg f).slice = s.slice := rfl
@[simp] theorem State.updCfg_host (f : Cfg → Cfg) : (s.updCfg f).host = s.host := rfl
@[simp] theorem State.updCfg_ras (f : Cfg → Cfg) : (s.updCfg f).ras = s.ras := rfl
@[simp] theorem State.updCfg_hang (f : Cfg → Cfg) : (s.updCfg f).hang = s.hang := rfl
@[simp] theorem State.updCfg_power (f : Cfg → Cfg) : (s.updCfg f).power = s.power := rfl
@[simp] theorem State.updCfg_flash (f : Cfg → Cfg) : (s.updCfg f).flash = s.flash := rfl
@[simp] theorem State.updCfg_freeCtr (f : Cfg → Cfg) : (s.updCfg f).freeCtr = s.freeCtr := rfl
@[simp] theorem State.updCfg_tile_at (f : Cfg → Cfg) (ix : Nat) : (s.updCfg f).tile ix = s.tile ix := by unfold State.tile; rfl
@[simp] theorem State.updCfg_region_at (f : Cfg → Cfg) (ix : Nat) : (s.updCfg f).region ix = s.region ix := by unfold State.region; rfl
@[simp] theorem State.updCfg_chan_at (f : Cfg → Cfg) (ix : Nat) : (s.updCfg f).chan ix = s.chan ix := by unfold State.chan; rfl
@[simp] theorem State.updCfg_stack_at (f : Cfg → Cfg) (ix : Nat) : (s.updCfg f).stack ix = s.stack ix := by unfold State.stack; rfl
@[simp] theorem State.updCfg_port_at (f : Cfg → Cfg) (ix : Nat) : (s.updCfg f).port ix = s.port ix := by unfold State.port; rfl
@[simp] theorem State.updCfg_queue_at (f : Cfg → Cfg) (ix : Nat) : (s.updCfg f).queue ix = s.queue ix := by unfold State.queue; rfl
@[simp] theorem State.updCfg_slot_at (f : Cfg → Cfg) (ix : Nat) : (s.updCfg f).slot ix = s.slot ix := by unfold State.slot; rfl
@[simp] theorem State.updCfg_ctx_at (f : Cfg → Cfg) (ix : Nat) : (s.updCfg f).ctx ix = s.ctx ix := by unfold State.ctx; rfl
@[simp] theorem State.updCfg_lsByte_at (f : Cfg → Cfg) (ix iy : Nat) : (s.updCfg f).lsByte ix iy = s.lsByte ix iy := by unfold State.lsByte; rfl
@[simp] theorem State.updCfg_memByte_at (f : Cfg → Cfg) (ix : Nat) : (s.updCfg f).memByte ix = s.memByte ix := by unfold State.memByte; rfl
@[simp] theorem State.updCfg_lsMark_at (f : Cfg → Cfg) (ix iy : Nat) : (s.updCfg f).lsMark ix iy = s.lsMark ix iy := by unfold State.lsMark; rfl

/-! ### State.updPower -/

@[simp] theorem State.updPower_pending (f : Power → Power) : (s.updPower f).pending = s.pending := rfl
@[simp] theorem State.updPower_tiles (f : Power → Power) : (s.updPower f).tiles = s.tiles := rfl
@[simp] theorem State.updPower_tileDef (f : Power → Power) : (s.updPower f).tileDef = s.tileDef := rfl
@[simp] theorem State.updPower_regions (f : Power → Power) : (s.updPower f).regions = s.regions := rfl
@[simp] theorem State.updPower_ls (f : Power → Power) : (s.updPower f).ls = s.ls := rfl
@[simp] theorem State.updPower_lsMarks (f : Power → Power) : (s.updPower f).lsMarks = s.lsMarks := rfl
@[simp] theorem State.updPower_lsLog (f : Power → Power) : (s.updPower f).lsLog = s.lsLog := rfl
@[simp] theorem State.updPower_memLog (f : Power → Power) : (s.updPower f).memLog = s.memLog := rfl
@[simp] theorem State.updPower_lsWipe (f : Power → Power) : (s.updPower f).lsWipe = s.lsWipe := rfl
@[simp] theorem State.updPower_memWipe (f : Power → Power) : (s.updPower f).memWipe = s.memWipe := rfl
@[simp] theorem State.updPower_mesh (f : Power → Power) : (s.updPower f).mesh = s.mesh := rfl
@[simp] theorem State.updPower_meshTc (f : Power → Power) : (s.updPower f).meshTc = s.meshTc := rfl
@[simp] theorem State.updPower_answers (f : Power → Power) : (s.updPower f).answers = s.answers := rfl
@[simp] theorem State.updPower_cwld (f : Power → Power) : (s.updPower f).cwld = s.cwld := rfl
@[simp] theorem State.updPower_nan (f : Power → Power) : (s.updPower f).nan = s.nan := rfl
@[simp] theorem State.updPower_solvCtrl (f : Power → Power) : (s.updPower f).solvCtrl = s.solvCtrl := rfl
@[simp] theorem State.updPower_laths (f : Power → Power) : (s.updPower f).laths = s.laths := rfl
@[simp] theorem State.updPower_slots (f : Power → Power) : (s.updPower f).slots = s.slots := rfl
@[simp] theorem State.updPower_ctxs (f : Power → Power) : (s.updPower f).ctxs = s.ctxs := rfl
@[simp] theorem State.updPower_train (f : Power → Power) : (s.updPower f).train = s.train := rfl
@[simp] theorem State.updPower_esc (f : Power → Power) : (s.updPower f).esc = s.esc := rfl
@[simp] theorem State.updPower_mem (f : Power → Power) : (s.updPower f).mem = s.mem := rfl
@[simp] theorem State.updPower_fab (f : Power → Power) : (s.updPower f).fab = s.fab := rfl
@[simp] theorem State.updPower_slice (f : Power → Power) : (s.updPower f).slice = s.slice := rfl
@[simp] theorem State.updPower_cfg (f : Power → Power) : (s.updPower f).cfg = s.cfg := rfl
@[simp] theorem State.updPower_host (f : Power → Power) : (s.updPower f).host = s.host := rfl
@[simp] theorem State.updPower_ras (f : Power → Power) : (s.updPower f).ras = s.ras := rfl
@[simp] theorem State.updPower_hang (f : Power → Power) : (s.updPower f).hang = s.hang := rfl
@[simp] theorem State.updPower_flash (f : Power → Power) : (s.updPower f).flash = s.flash := rfl
@[simp] theorem State.updPower_freeCtr (f : Power → Power) : (s.updPower f).freeCtr = s.freeCtr := rfl
@[simp] theorem State.updPower_tile_at (f : Power → Power) (ix : Nat) : (s.updPower f).tile ix = s.tile ix := by unfold State.tile; rfl
@[simp] theorem State.updPower_region_at (f : Power → Power) (ix : Nat) : (s.updPower f).region ix = s.region ix := by unfold State.region; rfl
@[simp] theorem State.updPower_chan_at (f : Power → Power) (ix : Nat) : (s.updPower f).chan ix = s.chan ix := by unfold State.chan; rfl
@[simp] theorem State.updPower_stack_at (f : Power → Power) (ix : Nat) : (s.updPower f).stack ix = s.stack ix := by unfold State.stack; rfl
@[simp] theorem State.updPower_port_at (f : Power → Power) (ix : Nat) : (s.updPower f).port ix = s.port ix := by unfold State.port; rfl
@[simp] theorem State.updPower_queue_at (f : Power → Power) (ix : Nat) : (s.updPower f).queue ix = s.queue ix := by unfold State.queue; rfl
@[simp] theorem State.updPower_slot_at (f : Power → Power) (ix : Nat) : (s.updPower f).slot ix = s.slot ix := by unfold State.slot; rfl
@[simp] theorem State.updPower_ctx_at (f : Power → Power) (ix : Nat) : (s.updPower f).ctx ix = s.ctx ix := by unfold State.ctx; rfl
@[simp] theorem State.updPower_lsByte_at (f : Power → Power) (ix iy : Nat) : (s.updPower f).lsByte ix iy = s.lsByte ix iy := by unfold State.lsByte; rfl
@[simp] theorem State.updPower_memByte_at (f : Power → Power) (ix : Nat) : (s.updPower f).memByte ix = s.memByte ix := by unfold State.memByte; rfl
@[simp] theorem State.updPower_lsMark_at (f : Power → Power) (ix iy : Nat) : (s.updPower f).lsMark ix iy = s.lsMark ix iy := by unfold State.lsMark; rfl

/-! ### State.setEnv -/

@[simp] theorem State.setEnv_pending (i j v : Nat) : (s.setEnv i j v).pending = s.pending := rfl
@[simp] theorem State.setEnv_tiles (i j v : Nat) : (s.setEnv i j v).tiles = s.tiles := rfl
@[simp] theorem State.setEnv_tileDef (i j v : Nat) : (s.setEnv i j v).tileDef = s.tileDef := rfl
@[simp] theorem State.setEnv_regions (i j v : Nat) : (s.setEnv i j v).regions = s.regions := rfl
@[simp] theorem State.setEnv_ls (i j v : Nat) : (s.setEnv i j v).ls = s.ls := rfl
@[simp] theorem State.setEnv_lsMarks (i j v : Nat) : (s.setEnv i j v).lsMarks = s.lsMarks := rfl
@[simp] theorem State.setEnv_lsLog (i j v : Nat) : (s.setEnv i j v).lsLog = s.lsLog := rfl
@[simp] theorem State.setEnv_memLog (i j v : Nat) : (s.setEnv i j v).memLog = s.memLog := rfl
@[simp] theorem State.setEnv_lsWipe (i j v : Nat) : (s.setEnv i j v).lsWipe = s.lsWipe := rfl
@[simp] theorem State.setEnv_memWipe (i j v : Nat) : (s.setEnv i j v).memWipe = s.memWipe := rfl
@[simp] theorem State.setEnv_mesh (i j v : Nat) : (s.setEnv i j v).mesh = s.mesh := rfl
@[simp] theorem State.setEnv_meshTc (i j v : Nat) : (s.setEnv i j v).meshTc = s.meshTc := rfl
@[simp] theorem State.setEnv_answers (i j v : Nat) : (s.setEnv i j v).answers = s.answers := rfl
@[simp] theorem State.setEnv_cwld (i j v : Nat) : (s.setEnv i j v).cwld = s.cwld := rfl
@[simp] theorem State.setEnv_nan (i j v : Nat) : (s.setEnv i j v).nan = s.nan := rfl
@[simp] theorem State.setEnv_solvCtrl (i j v : Nat) : (s.setEnv i j v).solvCtrl = s.solvCtrl := rfl
@[simp] theorem State.setEnv_laths (i j v : Nat) : (s.setEnv i j v).laths = s.laths := rfl
@[simp] theorem State.setEnv_slots (i j v : Nat) : (s.setEnv i j v).slots = s.slots := rfl
@[simp] theorem State.setEnv_ctxs (i j v : Nat) : (s.setEnv i j v).ctxs = s.ctxs := rfl
@[simp] theorem State.setEnv_train (i j v : Nat) : (s.setEnv i j v).train = s.train := rfl
@[simp] theorem State.setEnv_esc (i j v : Nat) : (s.setEnv i j v).esc = s.esc := rfl
@[simp] theorem State.setEnv_mem (i j v : Nat) : (s.setEnv i j v).mem = s.mem := rfl
@[simp] theorem State.setEnv_fab (i j v : Nat) : (s.setEnv i j v).fab = s.fab := rfl
@[simp] theorem State.setEnv_slice (i j v : Nat) : (s.setEnv i j v).slice = s.slice := rfl
@[simp] theorem State.setEnv_cfg (i j v : Nat) : (s.setEnv i j v).cfg = s.cfg := rfl
@[simp] theorem State.setEnv_host (i j v : Nat) : (s.setEnv i j v).host = s.host := rfl
@[simp] theorem State.setEnv_ras (i j v : Nat) : (s.setEnv i j v).ras = s.ras := rfl
@[simp] theorem State.setEnv_hang (i j v : Nat) : (s.setEnv i j v).hang = s.hang := rfl
@[simp] theorem State.setEnv_flash (i j v : Nat) : (s.setEnv i j v).flash = s.flash := rfl
@[simp] theorem State.setEnv_freeCtr (i j v : Nat) : (s.setEnv i j v).freeCtr = s.freeCtr := rfl
@[simp] theorem State.setEnv_tile_at (i j v : Nat) (ix : Nat) : (s.setEnv i j v).tile ix = s.tile ix := by unfold State.tile; rfl
@[simp] theorem State.setEnv_region_at (i j v : Nat) (ix : Nat) : (s.setEnv i j v).region ix = s.region ix := by unfold State.region; rfl
@[simp] theorem State.setEnv_chan_at (i j v : Nat) (ix : Nat) : (s.setEnv i j v).chan ix = s.chan ix := by unfold State.chan; rfl
@[simp] theorem State.setEnv_stack_at (i j v : Nat) (ix : Nat) : (s.setEnv i j v).stack ix = s.stack ix := by unfold State.stack; rfl
@[simp] theorem State.setEnv_port_at (i j v : Nat) (ix : Nat) : (s.setEnv i j v).port ix = s.port ix := by unfold State.port; rfl
@[simp] theorem State.setEnv_queue_at (i j v : Nat) (ix : Nat) : (s.setEnv i j v).queue ix = s.queue ix := by unfold State.queue; rfl
@[simp] theorem State.setEnv_slot_at (i j v : Nat) (ix : Nat) : (s.setEnv i j v).slot ix = s.slot ix := by unfold State.slot; rfl
@[simp] theorem State.setEnv_ctx_at (i j v : Nat) (ix : Nat) : (s.setEnv i j v).ctx ix = s.ctx ix := by unfold State.ctx; rfl
@[simp] theorem State.setEnv_lsByte_at (i j v : Nat) (ix iy : Nat) : (s.setEnv i j v).lsByte ix iy = s.lsByte ix iy := by unfold State.lsByte; rfl
@[simp] theorem State.setEnv_memByte_at (i j v : Nat) (ix : Nat) : (s.setEnv i j v).memByte ix = s.memByte ix := by unfold State.memByte; rfl
@[simp] theorem State.setEnv_lsMark_at (i j v : Nat) (ix iy : Nat) : (s.setEnv i j v).lsMark ix iy = s.lsMark ix iy := by unfold State.lsMark; rfl

/-! ### State.updRas -/

@[simp] theorem State.updRas_pending (f : Ras → Ras) : (s.updRas f).pending = s.pending := rfl
@[simp] theorem State.updRas_tiles (f : Ras → Ras) : (s.updRas f).tiles = s.tiles := rfl
@[simp] theorem State.updRas_tileDef (f : Ras → Ras) : (s.updRas f).tileDef = s.tileDef := rfl
@[simp] theorem State.updRas_regions (f : Ras → Ras) : (s.updRas f).regions = s.regions := rfl
@[simp] theorem State.updRas_ls (f : Ras → Ras) : (s.updRas f).ls = s.ls := rfl
@[simp] theorem State.updRas_lsMarks (f : Ras → Ras) : (s.updRas f).lsMarks = s.lsMarks := rfl
@[simp] theorem State.updRas_lsLog (f : Ras → Ras) : (s.updRas f).lsLog = s.lsLog := rfl
@[simp] theorem State.updRas_memLog (f : Ras → Ras) : (s.updRas f).memLog = s.memLog := rfl
@[simp] theorem State.updRas_lsWipe (f : Ras → Ras) : (s.updRas f).lsWipe = s.lsWipe := rfl
@[simp] theorem State.updRas_memWipe (f : Ras → Ras) : (s.updRas f).memWipe = s.memWipe := rfl
@[simp] theorem State.updRas_mesh (f : Ras → Ras) : (s.updRas f).mesh = s.mesh := rfl
@[simp] theorem State.updRas_meshTc (f : Ras → Ras) : (s.updRas f).meshTc = s.meshTc := rfl
@[simp] theorem State.updRas_answers (f : Ras → Ras) : (s.updRas f).answers = s.answers := rfl
@[simp] theorem State.updRas_cwld (f : Ras → Ras) : (s.updRas f).cwld = s.cwld := rfl
@[simp] theorem State.updRas_nan (f : Ras → Ras) : (s.updRas f).nan = s.nan := rfl
@[simp] theorem State.updRas_solvCtrl (f : Ras → Ras) : (s.updRas f).solvCtrl = s.solvCtrl := rfl
@[simp] theorem State.updRas_laths (f : Ras → Ras) : (s.updRas f).laths = s.laths := rfl
@[simp] theorem State.updRas_slots (f : Ras → Ras) : (s.updRas f).slots = s.slots := rfl
@[simp] theorem State.updRas_ctxs (f : Ras → Ras) : (s.updRas f).ctxs = s.ctxs := rfl
@[simp] theorem State.updRas_train (f : Ras → Ras) : (s.updRas f).train = s.train := rfl
@[simp] theorem State.updRas_esc (f : Ras → Ras) : (s.updRas f).esc = s.esc := rfl
@[simp] theorem State.updRas_mem (f : Ras → Ras) : (s.updRas f).mem = s.mem := rfl
@[simp] theorem State.updRas_fab (f : Ras → Ras) : (s.updRas f).fab = s.fab := rfl
@[simp] theorem State.updRas_slice (f : Ras → Ras) : (s.updRas f).slice = s.slice := rfl
@[simp] theorem State.updRas_cfg (f : Ras → Ras) : (s.updRas f).cfg = s.cfg := rfl
@[simp] theorem State.updRas_host (f : Ras → Ras) : (s.updRas f).host = s.host := rfl
@[simp] theorem State.updRas_hang (f : Ras → Ras) : (s.updRas f).hang = s.hang := rfl
@[simp] theorem State.updRas_power (f : Ras → Ras) : (s.updRas f).power = s.power := rfl
@[simp] theorem State.updRas_flash (f : Ras → Ras) : (s.updRas f).flash = s.flash := rfl
@[simp] theorem State.updRas_freeCtr (f : Ras → Ras) : (s.updRas f).freeCtr = s.freeCtr := rfl
@[simp] theorem State.updRas_tile_at (f : Ras → Ras) (ix : Nat) : (s.updRas f).tile ix = s.tile ix := by unfold State.tile; rfl
@[simp] theorem State.updRas_region_at (f : Ras → Ras) (ix : Nat) : (s.updRas f).region ix = s.region ix := by unfold State.region; rfl
@[simp] theorem State.updRas_chan_at (f : Ras → Ras) (ix : Nat) : (s.updRas f).chan ix = s.chan ix := by unfold State.chan; rfl
@[simp] theorem State.updRas_stack_at (f : Ras → Ras) (ix : Nat) : (s.updRas f).stack ix = s.stack ix := by unfold State.stack; rfl
@[simp] theorem State.updRas_port_at (f : Ras → Ras) (ix : Nat) : (s.updRas f).port ix = s.port ix := by unfold State.port; rfl
@[simp] theorem State.updRas_queue_at (f : Ras → Ras) (ix : Nat) : (s.updRas f).queue ix = s.queue ix := by unfold State.queue; rfl
@[simp] theorem State.updRas_slot_at (f : Ras → Ras) (ix : Nat) : (s.updRas f).slot ix = s.slot ix := by unfold State.slot; rfl
@[simp] theorem State.updRas_ctx_at (f : Ras → Ras) (ix : Nat) : (s.updRas f).ctx ix = s.ctx ix := by unfold State.ctx; rfl
@[simp] theorem State.updRas_lsByte_at (f : Ras → Ras) (ix iy : Nat) : (s.updRas f).lsByte ix iy = s.lsByte ix iy := by unfold State.lsByte; rfl
@[simp] theorem State.updRas_memByte_at (f : Ras → Ras) (ix : Nat) : (s.updRas f).memByte ix = s.memByte ix := by unfold State.memByte; rfl
@[simp] theorem State.updRas_lsMark_at (f : Ras → Ras) (ix iy : Nat) : (s.updRas f).lsMark ix iy = s.lsMark ix iy := by unfold State.lsMark; rfl

/-! ### State.updCk -/

@[simp] theorem State.updCk_pending (f : CkRun → CkRun) : (s.updCk f).pending = s.pending := rfl
@[simp] theorem State.updCk_tiles (f : CkRun → CkRun) : (s.updCk f).tiles = s.tiles := rfl
@[simp] theorem State.updCk_tileDef (f : CkRun → CkRun) : (s.updCk f).tileDef = s.tileDef := rfl
@[simp] theorem State.updCk_regions (f : CkRun → CkRun) : (s.updCk f).regions = s.regions := rfl
@[simp] theorem State.updCk_ls (f : CkRun → CkRun) : (s.updCk f).ls = s.ls := rfl
@[simp] theorem State.updCk_lsMarks (f : CkRun → CkRun) : (s.updCk f).lsMarks = s.lsMarks := rfl
@[simp] theorem State.updCk_lsLog (f : CkRun → CkRun) : (s.updCk f).lsLog = s.lsLog := rfl
@[simp] theorem State.updCk_memLog (f : CkRun → CkRun) : (s.updCk f).memLog = s.memLog := rfl
@[simp] theorem State.updCk_lsWipe (f : CkRun → CkRun) : (s.updCk f).lsWipe = s.lsWipe := rfl
@[simp] theorem State.updCk_memWipe (f : CkRun → CkRun) : (s.updCk f).memWipe = s.memWipe := rfl
@[simp] theorem State.updCk_mesh (f : CkRun → CkRun) : (s.updCk f).mesh = s.mesh := rfl
@[simp] theorem State.updCk_meshTc (f : CkRun → CkRun) : (s.updCk f).meshTc = s.meshTc := rfl
@[simp] theorem State.updCk_answers (f : CkRun → CkRun) : (s.updCk f).answers = s.answers := rfl
@[simp] theorem State.updCk_cwld (f : CkRun → CkRun) : (s.updCk f).cwld = s.cwld := rfl
@[simp] theorem State.updCk_nan (f : CkRun → CkRun) : (s.updCk f).nan = s.nan := rfl
@[simp] theorem State.updCk_solvCtrl (f : CkRun → CkRun) : (s.updCk f).solvCtrl = s.solvCtrl := rfl
@[simp] theorem State.updCk_laths (f : CkRun → CkRun) : (s.updCk f).laths = s.laths := rfl
@[simp] theorem State.updCk_slots (f : CkRun → CkRun) : (s.updCk f).slots = s.slots := rfl
@[simp] theorem State.updCk_ctxs (f : CkRun → CkRun) : (s.updCk f).ctxs = s.ctxs := rfl
@[simp] theorem State.updCk_train (f : CkRun → CkRun) : (s.updCk f).train = s.train := rfl
@[simp] theorem State.updCk_esc (f : CkRun → CkRun) : (s.updCk f).esc = s.esc := rfl
@[simp] theorem State.updCk_mem (f : CkRun → CkRun) : (s.updCk f).mem = s.mem := rfl
@[simp] theorem State.updCk_fab (f : CkRun → CkRun) : (s.updCk f).fab = s.fab := rfl
@[simp] theorem State.updCk_slice (f : CkRun → CkRun) : (s.updCk f).slice = s.slice := rfl
@[simp] theorem State.updCk_cfg (f : CkRun → CkRun) : (s.updCk f).cfg = s.cfg := rfl
@[simp] theorem State.updCk_host (f : CkRun → CkRun) : (s.updCk f).host = s.host := rfl
@[simp] theorem State.updCk_hang (f : CkRun → CkRun) : (s.updCk f).hang = s.hang := rfl
@[simp] theorem State.updCk_power (f : CkRun → CkRun) : (s.updCk f).power = s.power := rfl
@[simp] theorem State.updCk_flash (f : CkRun → CkRun) : (s.updCk f).flash = s.flash := rfl
@[simp] theorem State.updCk_freeCtr (f : CkRun → CkRun) : (s.updCk f).freeCtr = s.freeCtr := rfl
@[simp] theorem State.updCk_tile_at (f : CkRun → CkRun) (ix : Nat) : (s.updCk f).tile ix = s.tile ix := by unfold State.tile; rfl
@[simp] theorem State.updCk_region_at (f : CkRun → CkRun) (ix : Nat) : (s.updCk f).region ix = s.region ix := by unfold State.region; rfl
@[simp] theorem State.updCk_chan_at (f : CkRun → CkRun) (ix : Nat) : (s.updCk f).chan ix = s.chan ix := by unfold State.chan; rfl
@[simp] theorem State.updCk_stack_at (f : CkRun → CkRun) (ix : Nat) : (s.updCk f).stack ix = s.stack ix := by unfold State.stack; rfl
@[simp] theorem State.updCk_port_at (f : CkRun → CkRun) (ix : Nat) : (s.updCk f).port ix = s.port ix := by unfold State.port; rfl
@[simp] theorem State.updCk_queue_at (f : CkRun → CkRun) (ix : Nat) : (s.updCk f).queue ix = s.queue ix := by unfold State.queue; rfl
@[simp] theorem State.updCk_slot_at (f : CkRun → CkRun) (ix : Nat) : (s.updCk f).slot ix = s.slot ix := by unfold State.slot; rfl
@[simp] theorem State.updCk_ctx_at (f : CkRun → CkRun) (ix : Nat) : (s.updCk f).ctx ix = s.ctx ix := by unfold State.ctx; rfl
@[simp] theorem State.updCk_lsByte_at (f : CkRun → CkRun) (ix iy : Nat) : (s.updCk f).lsByte ix iy = s.lsByte ix iy := by unfold State.lsByte; rfl
@[simp] theorem State.updCk_memByte_at (f : CkRun → CkRun) (ix : Nat) : (s.updCk f).memByte ix = s.memByte ix := by unfold State.memByte; rfl
@[simp] theorem State.updCk_lsMark_at (f : CkRun → CkRun) (ix iy : Nat) : (s.updCk f).lsMark ix iy = s.lsMark ix iy := by unfold State.lsMark; rfl

/-! ### State.setHs -/

@[simp] theorem State.setHs_eq (v : Nat) : s.setHs v = s.updEsc (fun e => { e with hsStatus := setFld e.hsStatus 32 3 v }) := rfl

/-! ### What an update writes -/

@[simp] theorem State.tile_setTile (t u : Nat) (x : Tile) : (s.setTile t x).tile u = if u = t then x else s.tile u :=
  aget_aset _ _ _ _ _

@[simp] theorem State.tile_updTile (t u : Nat) (f : Tile → Tile) :
    (s.updTile t f).tile u = if u = t then f (s.tile t) else s.tile u := aget_aset _ _ _ _ _

@[simp] theorem State.tile_mapTiles (t : Nat) (f : Tile → Tile) : (s.mapTiles f).tile t = f (s.tile t) := aget_amap _ _ _ _

@[simp] theorem State.region_updRegion (r u : Nat) (f : Region → Region) :
    (s.updRegion r f).region u = if u = r then f (s.region r) else s.region u := aget_aset _ _ _ _ _

@[simp] theorem State.chan_updChan (c u : Nat) (f : Chan → Chan) :
    (s.updChan c f).chan u = if u = c then f (s.chan c) else s.chan u := aget_aset _ _ _ _ _

@[simp] theorem State.stack_updStack (k u : Nat) (f : Stack → Stack) :
    (s.updStack k f).stack u = if u = k then f (s.stack k) else s.stack u := aget_aset _ _ _ _ _

@[simp] theorem State.port_updPort (p u : Nat) (f : Port → Port) :
    (s.updPort p f).port u = if u = p then f (s.port p) else s.port u := aget_aset _ _ _ _ _

@[simp] theorem State.queue_updQueue (q u : Nat) (f : Queue → Queue) :
    (s.updQueue q f).queue u = if u = q then f (s.queue q) else s.queue u := aget_aset _ _ _ _ _

@[simp] theorem State.slot_updSlot (k u : Nat) (f : Slot → Slot) :
    (s.updSlot k f).slot u = if u = k then f (s.slot k) else s.slot u := aget_aset _ _ _ _ _

@[simp] theorem State.ctx_updCtx (c u : Nat) (f : Ctx → Ctx) :
    (s.updCtx c f).ctx u = if u = c then f (s.ctx c) else s.ctx u := aget_aset _ _ _ _ _

@[simp] theorem State.lsMark_setLsMark (t w u v : Nat) (m : Mark) :
    (s.setLsMark t w m).lsMark u v = if u * 8192 + v = t * 8192 + w then m else s.lsMark u v := aget_aset _ _ _ _ _

@[simp] theorem State.raise_tree (f : FaultRec) : (s.raise f).ras.tree = s.ras.tree ++ [f] := rfl
@[simp] theorem State.putLs_lsLog (t o : Nat) (b : Byte) : (s.putLs t o b).lsLog = (t * Config.lsStride + o, b) :: s.lsLog := rfl
@[simp] theorem State.putMem_memLog (a : Nat) (b : Byte) : (s.putMem a b).memLog = (a, b) :: s.memLog := rfl

/-- A local-store byte read after one was written. -/
@[simp] theorem State.lsByte_putLs (t o u v : Nat) (b : Byte) :
    (s.putLs t o b).lsByte u v = if t * Config.lsStride + o = u * Config.lsStride + v then b else s.lsByte u v := by
  by_cases h : t * Config.lsStride + o = u * Config.lsStride + v
  · simp [State.lsByte, State.putLs, afind, h]
  · simp only [State.lsByte, State.putLs, afind, h, if_false]; rfl

/-- A stack byte read after one was written. -/
@[simp] theorem State.memByte_putMem (a u : Nat) (b : Byte) :
    (s.putMem a b).memByte u = if a = u then b else s.memByte u := by
  by_cases h : a = u
  · simp [State.memByte, State.putMem, afind, h]
  · simp only [State.memByte, State.putMem, afind, h, if_false]; rfl

end Sys2Proof.Machine
end

