-- ==== Sys2Proof/Laws/Ops.lean ====
section
/-! SUPPORT. The end of a command (done): what its next state holds, that it keeps the invariant whatever the command did, and how a
completion with its frame is shown. -/

namespace Sys2Proof.Machine

variable (s t : State)

@[simp] theorem endOf_tiles : (endOf s t).tiles = t.tiles := rfl
@[simp] theorem endOf_tileDef : (endOf s t).tileDef = t.tileDef := rfl
@[simp] theorem endOf_regions : (endOf s t).regions = t.regions := rfl
@[simp] theorem endOf_lsMarks : (endOf s t).lsMarks = t.lsMarks := rfl
@[simp] theorem endOf_mesh : (endOf s t).mesh = t.mesh := rfl
@[simp] theorem endOf_meshTc : (endOf s t).meshTc = t.meshTc := rfl
@[simp] theorem endOf_answers : (endOf s t).answers = t.answers := rfl
@[simp] theorem endOf_cwld : (endOf s t).cwld = t.cwld := rfl
@[simp] theorem endOf_nan : (endOf s t).nan = t.nan := rfl
@[simp] theorem endOf_solvCtrl : (endOf s t).solvCtrl = t.solvCtrl := rfl
@[simp] theorem endOf_laths : (endOf s t).laths = t.laths := rfl
@[simp] theorem endOf_slots : (endOf s t).slots = t.slots := rfl
@[simp] theorem endOf_ctxs : (endOf s t).ctxs = t.ctxs := rfl
@[simp] theorem endOf_train : (endOf s t).train = t.train := rfl
@[simp] theorem endOf_esc : (endOf s t).esc = t.esc := rfl
@[simp] theorem endOf_fab : (endOf s t).fab = t.fab := rfl
@[simp] theorem endOf_slice : (endOf s t).slice = t.slice := rfl
@[simp] theorem endOf_cfg : (endOf s t).cfg = t.cfg := rfl
@[simp] theorem endOf_host : (endOf s t).host = t.host := rfl
@[simp] theorem endOf_ras : (endOf s t).ras = t.ras := rfl
@[simp] theorem endOf_hang : (endOf s t).hang = t.hang := rfl
@[simp] theorem endOf_power : (endOf s t).power = t.power := rfl
@[simp] theorem endOf_flash : (endOf s t).flash = t.flash := rfl
@[simp] theorem endOf_freeCtr : (endOf s t).freeCtr = t.freeCtr := rfl
@[simp] theorem endOf_mem_cfg : (endOf s t).mem.cfg = t.mem.cfg := rfl
@[simp] theorem endOf_mem_thermCfg : (endOf s t).mem.thermCfg = t.mem.thermCfg := rfl
@[simp] theorem endOf_mem_status : (endOf s t).mem.status = t.mem.status := rfl
@[simp] theorem endOf_mem_stks : (endOf s t).mem.stks = t.mem.stks := rfl
@[simp] theorem endOf_mem_chans : (endOf s t).mem.chans = t.mem.chans := rfl
@[simp] theorem endOf_mem_marks : (endOf s t).mem.marks = t.mem.marks := rfl
@[simp] theorem endOf_mem_inbox : (endOf s t).mem.inbox = t.mem.inbox := rfl
@[simp] theorem endOf_pending : (endOf s t).pending = s.pending := rfl
@[simp] theorem endOf_lsLog : (endOf s t).lsLog = [] := rfl
@[simp] theorem endOf_memLog : (endOf s t).memLog = [] := rfl
@[simp] theorem endOf_lsWipe : (endOf s t).lsWipe = false := rfl
@[simp] theorem endOf_memWipe : (endOf s t).memWipe = false := rfl
@[simp] theorem endOf_tile (n : Nat) : (endOf s t).tile n = t.tile n := rfl
@[simp] theorem endOf_region (n : Nat) : (endOf s t).region n = t.region n := rfl
@[simp] theorem endOf_chan (n : Nat) : (endOf s t).chan n = t.chan n := rfl
@[simp] theorem endOf_stack (n : Nat) : (endOf s t).stack n = t.stack n := rfl
@[simp] theorem endOf_port (n : Nat) : (endOf s t).port n = t.port n := rfl
@[simp] theorem endOf_queue (n : Nat) : (endOf s t).queue n = t.queue n := rfl
@[simp] theorem endOf_slot (n : Nat) : (endOf s t).slot n = t.slot n := rfl
@[simp] theorem endOf_ctx (n : Nat) : (endOf s t).ctx n = t.ctx n := rfl

/-- No write of a command in progress is left after it. -/
@[simp] theorem endOf_clean : Clean (endOf s t) := ⟨rfl, rfl, rfl, rfl⟩

/-- A local-store byte after the command, read from the memory alone. -/
theorem endOf_get_ls (h : t.ls = s.ls) (k o : Nat) :
    Memory.get (endOf s t).ls (k * Config.lsStride + o) = t.lsByte k o := by
  have : (endOf s t).ls = Memory.apply (if t.lsWipe then [] else s.ls) t.lsLog := rfl
  rw [this, Memory.get_apply, State.lsByte, h]
  split <;> rfl

/-- A stack byte after the command, read from the memory alone. -/
theorem endOf_get_bytes (h : t.mem.bytes = s.mem.bytes) (a : Nat) : Memory.get (endOf s t).mem.bytes a = t.memByte a := by
  have : (endOf s t).mem.bytes = Memory.apply (if t.memWipe then [] else s.mem.bytes) t.memLog := rfl
  rw [this, Memory.get_apply, State.memByte, h]
  split <;> rfl

/-- A command that writes no local store leaves every byte of them. -/
theorem endOf_ls (h1 : t.lsLog = []) (h2 : t.lsWipe = false) : (endOf s t).ls = s.ls := by simp [endOf, h1, h2, Memory.apply]

/-- A command that writes no stack leaves every byte of them. -/
theorem endOf_bytes (h1 : t.memLog = []) (h2 : t.memWipe = false) : (endOf s t).mem.bytes = s.mem.bytes := by
  simp [endOf, h1, h2, Memory.apply]

/-- Whatever a command does, its end keeps the canonical form of both memories. -/
theorem endOf_inv (h : Inv s) : Inv (endOf s t) := by
  refine ⟨?_, ?_, endOf_clean s t⟩
  · have : (endOf s t).ls = Memory.apply (if t.lsWipe then [] else s.ls) t.lsLog := rfl
    rw [this]; refine Memory.wf_apply ?_ _; split
    · rfl
    · exact h.1
  · have : (endOf s t).mem.bytes = Memory.apply (if t.memWipe then [] else s.mem.bytes) t.memLog := rfl
    rw [this]; refine Memory.wf_apply ?_ _; split
    · rfl
    · exact h.2.1

variable {s t}

/-- A command whose meaning ends with `t`, which holds no write, does what `t` differs in. -/
theorem Does.of_done {c : Instr} {changed : List Piece} {post : State → Prop} (h : exec c s = done s t) (hc : Clean t)
    (hp : post (endOf s t))
    (hf : ∀ p, p ∉ changed → p ≠ .ls → p ≠ .bytes → p.same s t) : Does c s changed post := by
  refine ⟨endOf s t, h, hp, rfl, endOf_clean s t, fun p hp' => ?_⟩
  by_cases h1 : p = .ls
  · subst h1; intro a; rw [endOf_ls s t hc.1 hc.2.2.1]
  · by_cases h2 : p = .bytes
    · subst h2; intro a; rw [endOf_bytes s t hc.2.1 hc.2.2.2]
    · have := hf p hp' h1 h2
      cases p <;> first | exact this | exact absurd rfl h1 | exact absurd rfl h2

end Sys2Proof.Machine
end

