-- ==== Sys2Proof/Tests/Slice0.lean ====
section
/-! SUPPORT. The model's own tests: an ill-formed command for each check of WellFormed, a few commands on small states with results
taken from the manual, and for every statement of the certificates a state and operands that meet the hypotheses of each of its
clauses together. -/


namespace Sys2Proof.Tests
open Sys2Proof Sys2Proof.Machine

-- one theorem after another: the checker has a bound on its memory, of which every further thread takes a part
set_option Elab.async false
set_option linter.unusedVariables false
set_option maxRecDepth 10000
set_option synthInstance.maxSize 1000

/-! ## Small states -/

/-- One element of a list of witnesses. -/
def pick {α : Type} (l : List α) (k : Nat) : List α := (l.drop k).take 1

def zpk : FabPkt := { op := .read, cls := 0, cmark := false, echo := false, dest := 0, src := 0, srcTile := 0, srcEngine := false, tag := 0, trigger := 0, aop := 0, aw := 0, rfmt := 0, hops := 0, circuit := 0, beat := 0, slice := 0, addr := 0, stepLo := 0, epoch := 0, payload := [] }
abbrev z := State.reset
def wd (l : List (Nat × Nat)) : W256 := BitVec.ofNat 256 (l.foldl (fun a p => a + p.2 * 2 ^ p.1) 0)
/-- region 0 in RUN, tile 0 with the word `w` at address 3 -/
def r0 : State := { z with regions := [(0, { st := 0, lock := true, wakes := 0, fromOff := false })] }
def tl (w : W256) (f : Tile → Tile) : State :=
  r0.setTile 0 (f { st := .run, cw := 3, cs0 := CsBank.writes { entries := [(0, 0x105), (1, 0x107), (2, 0x007)] } [(w, 3)] })
def mp : MeshPkt := { kind := 0, dest := 0, src := 1, trigger := 0, lsAddr := 4, cls := 1, op := 0, beatLo := 0, addr := 0, tag := 9, payload := [0x1122, 0xFFFF] }
def wi : WordId := { serial := 0, cw := 0, bank := 0, beat := 0, tag := 0 }
def ansK (err : Option DropCause) (l : List Nat) : MeshPkt := { kind := 0, dest := 0, src := 0, trigger := 0, lsAddr := 0, cls := 1, op := 2, beatLo := 0, addr := 0, tag := 4, payload := [0x01020304,0x5,0x6,0x7], err := err, lost := l }
def esc (f : Esc → Esc) : State := { z with esc := f z.esc }
def esc' (s : State) (f : Esc → Esc) : State := { s with esc := f s.esc }
def sl (f : Slice → Slice) (s : State) : State := { s with slice := f s.slice }
def fb (f : Fab → Fab) (s : State) : State := { s with fab := f s.fab }
def hs (f : HostIf → HostIf) (s : State) : State := { s with host := f s.host }
def pw (f : Power → Power) (s : State) : State := { s with power := f s.power }
def hg (f : Hang → Hang) (s : State) : State := { s with hang := f s.hang }
def rs (f : Ras → Ras) (s : State) : State := { s with ras := f s.ras }
def me (f : Mem → Mem) (s : State) : State := { s with mem := f s.mem }
def cf (f : Cfg → Cfg) (s : State) : State := { s with cfg := f s.cfg }
def tr (f : Train → Train) (s : State) : State := { s with train := f s.train }
/-- slice state set: 0 idle/unconfigured 1 JOINING 2 RUNNING 3 HALTED -/
def sst (n : Nat) (s : State) : State := sl (fun x => { x with status := setFld x.status 0 2 n }) s
def syn (s : State) : State := esc' s (fun e => { e with status := setBit e.status 1 true })
def chans (l : List (Nat × Chan)) (s : State) : State := me (fun m => {m with chans := l}) s
def rdy : Chan := { st := 2 }
def b8 (v : Nat) : List Byte := leBytes 8 v
def putB (a : Nat) (bs : List Byte) (s : State) : State := me (fun m => {m with bytes := bs.zipIdx.foldl (fun x p => Memory.put x (a + p.2) p.1) m.bytes}) s
def ports (l : List (Nat × Port)) (s : State) : State := fb (fun f => {f with ports := l}) s
def cl (seq : Nat) : Cell := { type := 1, vc := 2, seq := seq, circuit := 0, body := 0x55AA, ack := 0, nak := false, credits := [] }
def up : Port := { st := 3, signal := true }
def lsb (m : Mark) : State := {tl (wd [(0,7)]) (fun x => {x with scrub := 6143}) with lsMarks := if m = Mark.good then [] else [(6143, m)]}
def ll : Launch := { q := 1, index := 2, entry := 0, step := 9, armBeat := 0, tag := 7, tiles := [0], left := [0] }
def sol (l : Lath) (w0 w1 : World) (f : Slot → Slot) : State := { z with laths := [(7,l)], slots := [(4, f {lath := some 7, step := 9, worlds := [(0,w0),(1,w1)], launch := some ll})] }
def lq : Lath := {id := 7, nworld := 2, ndof := 2, parent := [0,1], joints := [], rows := [], hasAdj := true}
def dp (world step lath slot rs en count : Nat) (pairs : List (Nat × Nat)) : List Flit :=
  [BitVec.ofNat 128 (world + en*2^7 + rs*2^8 + count*2^16 + lath*2^32 + slot*2^40 + step*2^48),
   BitVec.ofNat 128 (pairs.zipIdx.foldl (fun a p => a + p.1.1 * 2^(16*p.2)) 0),
     BitVec.ofNat 128 (pairs.zipIdx.foldl (fun a p => a + p.1.2 * 2^(32*p.2)) 0), 0]
def rq (a : Nat) (op : LineOp) : LineReq := { src := .txn 7 1, addr := a, op := op, cls := 1 }
def tx (s : State) : State := fb (fun f => {f with txns := [{tag := 7, pkt := zpk, src := .tile 1 9, beat := 0, left := 1}]}) s
def wcbe (a : Nat) : WcbE := { addr := a, mask := 0xF, data := 0x11223344, touched := 0 }
def ib (r : LineReq) (s : State) : State := me (fun m => {m with inbox := [r]}) s
def flIn (s : State) (n : Nat) (a : FlagAct) : State := hs (fun h => {h with flagIn := [(.txn 7 1, n, a)]}) s
def ftx (p : FabPkt) (tag : Nat) (src : ReqSrc) : Txn := { tag := tag, pkt := p, src := src, beat := 3 }
def qp : FabPkt := {zpk with dest := 7, op := .write, payload := [1,2,3]}
def hp : FabPkt := {zpk with op := .haltMarker}
def txc (n : Nat) (l : Bool) : Tx := { cell := cl n, pkt := {zpk with dest := 7}, last := l }
def qcir : FabPkt := {zpk with dest := 7, op := .circuitData, circuit := 3, cls := 3, inPort := 5, payload := [1,2,3,4,5,6,7,8,9]}
def shard : Config.ShardMap := { stream := 0, blocks := [], dom := 0, total := 0, maxBuf := 0, domFlag := 3, totFlag := 4, grad := 0, slot0 := 0, slot1 := 0, slotBytes := 300, maxima := 0, seeded := 0, summary := 0, summaryBytes := 0, optimiser := [(5,0x100,2),(6,0x200,3)], circuit := 9, header := 0, dest := 0, trigger := 0 }
def lmap : Config.LayerMap := { context := 0, layer := 2, sumFlag := 8, shards := [shard] }
def cmap : Config.CtxMap := { context := 0, domains := [], losses := 0, nonFinite := 0, seeds := 0, rollout := [], seqQ := 0, rounds := [(0,1,2,11),(0,1,2,12)] }
def run0 : CollRun := { q := 1, index := 5, kind := 0, context := 0, layer := 2, critical := false, final := false, step := 9, tag := 3 }
def arm0 : Armed := { q := 1, index := 2, beat := 50, reported := true }
def mtt (n : Nat) : State := sl (fun x => {x with table := [(4,0,0),(9,0,1)].take n, cfg := setFld (setFld x.cfg 0 14 n) 14 6 n, status := setBit (setFld x.status 16 14 4) 30 true}) (esc (fun e => {e with beat := 20, anchor := 100, start := 7}))
def le (n v : Nat) : List Byte := leBytes n v
def img (magic : Nat) (sig : Nat) : List Byte :=
  le 4 magic ++ le 2 1 ++ le 1 0 ++ le 1 sig ++ le 2 0 ++ le 2 1 ++ le 4 0 ++ le 8 448 ++ List.replicate 232 0 ++
  (le 2 9 ++ le 6 0 ++ le 8 320 ++ le 8 0 ++ le 8 0) ++ List.replicate 160 0
def ld (st : Nat) (s : State) : State := cf (fun c => {c with loadStatus := setFld c.loadStatus 0 3 st}) s
def stg : Staged := { digest := 1, identity := 2, patch := false, signed := false, epoch := 0, seed := 0, items := {}, targets := [5] }
def lpk : MeshPkt := { kind := 0, dest := 0, src := 1, trigger := 0, lsAddr := 4, cls := 2, op := 6, beatLo := 0, addr := BitVec.ofNat 64 (5 + 5*2^16+3*2^32+3*2^48), tag := 1 + 2^16 + 7*2^48, payload := [0x1122, 0xFFFF] }
def mkLine (l : List (Nat × Nat)) : Line := BitVec.ofNat 512 (l.foldl (fun a p => a + p.2 * 2 ^ (8*p.1)) 0)
def cmd1 (l : List (Nat × Nat)) (f : Cmd → Cmd) : Cmd := f {index := 2, raw := mkLine l}
def dma (s : State) : State := hs (fun h => {h with busMaster := true, d0 := true}) s
def q1 (f : Queue → Queue) (s : State) : State := hs (fun h => {h with queues := [(1, f {st := 1, cfg := 9, tail := 4, fetched := 3, oldest := 2}),(3,{st := 1})]}) s
def bt (n : Nat) (s : State) : State := esc' s (fun e => {e with beat := BitVec.ofNat 64 n})
def d3 : Cmd := {index := 5, raw := mkLine [(0,3)], st := .dispatched, arm := some 70}
def ff : FaultRec := { cause := .laneFault, unit := .tile, index := 3, cwAddr := 5, bank := 1, tag := 6, laneMask := 0xF0, laterWords := 0, laneCauses := 3, detail := 77 }
def nn : NanNotice := {beat := 7, tile := 5, cw := 3, bank := 1, tag := 4}
def c6 : Cmd := cmd1 [(0,6)] (fun c => {c with st := .acting})
def c0 : Cmd := cmd1 [(0,2),(8,30)] (fun c => {c with st := .dispatched})
def sus0 : Suspect := {q := 1, first := 2, cmds := [c0]}
def c5 : Cmd := {c0 with index := 7}
def sus2 : Suspect := {sus0 with resume := [{index := 1, raw := 5}]}
def kg : List Byte := (beBytes 32 0x32C4AE2C1F1981195F9904466A39C9948FE30BBFF2660BE1715A4589334C74C7) ++
  (beBytes 32 0xBC3736A2F4F6779C59BDCEE36B692153D0A9877CC62A474002DF32E52139F0A0)
def ky (bs : List Byte) : State := chans [(513,rdy)] (putB 0x1000 bs (pw (fun p => {p with keyAddr := mkGa 0 0x3FFF 0x1000}) z))
def bo (n : Nat) (f : Power → Power) : State := pw (fun p => f {p with boot := setFld p.boot 0 4 n}) z
def im : List Byte := List.replicate 16 7 ++ leBytes 8 64 ++ List.replicate 40 3

/-! ## The hypotheses of every statement are met -/

/-- States and operands for the hypotheses of SequencerAndCounters. -/
def wit_SequencerAndCounters : List (State × Nat) :=
[(tl (wd [(0,0),(168,1),(170,1),(175,0xFFFF)]) (fun x => {x with cnts := [(1,5)]}),0),
 (tl (wd [(0,2),(3,1),(5,200),(168,1),(170,2),(175,0)]) (fun x => x),0),
 (tl (wd [(0,2),(3,1),(5,200),(168,1),(170,2),(175,9)]) (fun x => x),0),
 (tl (wd [(0,3),(3,1),(5,200),(168,2),(170,3),(173,1)]) (fun x => {x with cnts := [(1,5)], replyOf := [(2,1)]}),0),
 (tl (wd [(0,4),(3,1),(5,200),(168,2),(170,4)]) (fun x => {x with cmps := [(1,{rel := 2, b := 5})]}),0),
 (tl (wd [(0,5),(3,1),(5,200),(168,2),(170,5)]) (fun x => {x with cnts := [(2,3)]}),0),
 (tl (wd [(0,1),(5,255),(168,2),(170,5)]) (fun x => {x with cnts := [(2,20)]}),0),
 (tl (wd [(0,0)]) (fun x => {x with cw := 3, bankStalls := 0xFFFFFFFFF}),0)]

/-- Every clause of SequencerAndCounters has a state and operands that meet all its hypotheses together. -/
theorem witness_SequencerAndCounters :
  (∃ w0 ∈ pick wit_SequencerAndCounters 0,
 let s := w0.1;
 let n := w0.2;
 (Clean s) ∧
 let x := s.tile n
 let w := x.cur
 (s.tileRuns n = true) ∧ (x.st = .run) ∧ (x.waitEnd = none) ∧ (TileQuiet x) ∧ (x.scrubPair = none) ∧ (x.parityBad = false) ∧
   (nfld w 13 155 = 0) ∧ (nfld w 191 65 = 0) ∧ (wSeqOp w ≤ 5) ∧ (wCntOp w ≤ 5)) := by
  dsimp only [TileTxn, TileQuiet, Completed, HeaderFits, CollEnded, Recorded, faultKey, BufferHas, ResetNoted, Clean]
  and_intros <;> decide +kernel

/-- States and operands for the hypotheses of VectorIntegerLanes. -/
def wit_VectorIntegerLanes : List (State × Nat) :=
(([0,1,2].flatMap fun lw => [4,6,10,11,12,13,14].flatMap fun v => [0,1].map fun tc =>
 (tl (wd [(104,v),(110,3),(114,1),(118,2),(122,lw),
   (133,tc)]) (fun x => {x with vregs := [(1,0x80FF7F01_12345678_FFFFFFFF_00000001),(2,0x7F01FF80_FFFFFFFF_00000001_0000FF00),(3,0x1111)], cnts := [(1,3)]}),0)))

/-- Every clause of VectorIntegerLanes has a state and operands that meet all its hypotheses together. -/
theorem witness_VectorIntegerLanes :
  (∃ w0 ∈ pick wit_VectorIntegerLanes 0,
 let s := w0.1;
 let n := w0.2;
 (Clean s) ∧
 let x := s.tile n
 let w := x.cur
 (s.tileRuns n = true) ∧ (x.st = .run) ∧ (x.waitEnd = none) ∧ (TileQuiet x) ∧ (x.scrubPair = none) ∧ (x.parityBad = false) ∧
   (x.vecFree ≤ x.tc) ∧ (∀ r ∈ x.vready, r.2 ≤ x.tc) ∧ (∀ r ∈ x.gatherLeft, r.2 = 0) ∧ ((x.cset 0).sat < 2 ^ 32) ∧
   ((x.cset 0).flush < 2 ^ 32) ∧ ((x.cset 0).replay < 2 ^ 32) ∧ ((x.cset 0).nan < 2 ^ 32) ∧ (nfld w 0 104 = 0) ∧ (nfld w 124 9 = 0) ∧
   (nfld w 135 121 = 0) ∧ (wLw w ≤ 2) ∧ ([4, 6, 10, 11, 12, 13, 14].contains (wVop w) = true)) := by
  dsimp only [TileTxn, TileQuiet, Completed, HeaderFits, CollEnded, Recorded, faultKey, BufferHas, ResetNoted, Clean]
  and_intros <;> decide +kernel

/-- States and operands for the hypotheses of WaitsEnd. -/
def wit_WaitsEnd : List (State × Nat) :=
[(tl (wd [(0,6),(5,77)]) (fun x => {x with st := .waitBeat, armed := some 0}),0),
 (tl (wd [(0,6),(5,77),(222,3)]) (fun x => {x with st := .waitEither, armed := some 0}),0),
 (tl (wd [(0,6),(5,77),(3,2)]) (fun x => {x with st := .waitCounter}),0),
 (tl (wd [(0,6),(5,77),(222,1)]) (fun x => {x with st := .waitTrigger, trig := [1,2]}),0),
 (tl (wd [(0,6),(5,77),(222,1)]) (fun x => {x with st := .waitEither, armed := some 5, trig := [2,1]}),0),
 (tl (wd [(0,6),(5,77),(222,2)]) (fun x => {x with st := .waitTrigger, trig := [2], sets := [(0,{tag := 5, bound := true})]}),0),
 (tl (wd [(0,6),(5,77),(222,1)]) (fun x => {x with st := .waitTrigger, trig := [3,1,1]}),0)]

/-- Every clause of WaitsEnd has a state and operands that meet all its hypotheses together. -/
theorem witness_WaitsEnd :
  (∃ w0 ∈ pick wit_WaitsEnd 0,
 let s := w0.1;
 let n := w0.2;
 (Clean s) ∧ (s.tileRuns n = true) ∧
 let x := s.tile n
 let w := x.cur
 let plain := TileQuiet x ∧ x.scrubPair = none ∧ nfld w 16 188 = 0 ∧ nfld w 237 19 = 0 ∧ wSeqOp w = 6
 let b := x.armed.getD 0
 (x.st = .waitBeat ∨ x.st = .waitEither) ∧ (x.armed = some b) ∧ (b.toNat ≤ s.esc.beat.toNat) ∧ (plain)) ∧
  (∃ w0 ∈ pick wit_WaitsEnd 2,
 let s := w0.1;
 let n := w0.2;
 (Clean s) ∧ (s.tileRuns n = true) ∧
 let x := s.tile n
 let w := x.cur
 let plain := TileQuiet x ∧ x.scrubPair = none ∧ nfld w 16 188 = 0 ∧ nfld w 237 19 = 0 ∧ wSeqOp w = 6
 (x.st = .waitCounter) ∧ (x.counter (wSeqSel w) = 0) ∧ (x.took = none) ∧ (plain)) ∧
  (∃ w0 ∈ pick wit_WaitsEnd 3,
 let s := w0.1;
 let n := w0.2;
 (Clean s) ∧ (s.tileRuns n = true) ∧
 let x := s.tile n
 let w := x.cur
 let plain := TileQuiet x ∧ x.scrubPair = none ∧ nfld w 16 188 = 0 ∧ nfld w 237 19 = 0 ∧ wSeqOp w = 6
 (∃ v6 ∈ ([(1,[],[2]),(2,[],[1]),(2,[],[]),(1,[3],[1])] : List (Nat × List Nat × List Nat)),
 let i := v6.1;
 let before := v6.2.1;
 let after := v6.2.2;
 (x.st = .waitTrigger ∨ (x.st = .waitEither ∧ x.armed.all (fun b => decide (s.esc.beat.toNat < b.toNat)) = true)) ∧ (x.took = none) ∧
   (x.trig = before ++ i :: after) ∧ (nfld (wTrigMask w) (i - 1) 1 = 1) ∧ (∀ j ∈ before, nfld (wTrigMask w) (j - 1) 1 = 0) ∧
   (nfld (x.entry i).toNat 8 1 = 1) ∧ (plain))) ∧
  (∃ w0 ∈ pick wit_WaitsEnd 5,
 let s := w0.1;
 let n := w0.2;
 (Clean s) ∧ (s.tileRuns n = true) ∧
 let x := s.tile n
 let w := x.cur
 (∃ v5 ∈ ([(1,[],[2]),(2,[],[1]),(2,[],[]),(1,[3],[1])] : List (Nat × List Nat × List Nat)),
 let i := v5.1;
 let before := v5.2.1;
 let after := v5.2.2;
 (x.st = .waitTrigger ∨ (x.st = .waitEither ∧ x.armed.all (fun b => decide (s.esc.beat.toNat < b.toNat)) = true)) ∧ (x.took = none) ∧
   (x.trig = before ++ i :: after) ∧ (nfld (wTrigMask w) (i - 1) 1 = 1) ∧ (∀ j ∈ before, nfld (wTrigMask w) (j - 1) 1 = 0) ∧
   (nfld (x.entry i).toNat 8 1 = 0))) := by
  dsimp only [TileTxn, TileQuiet, Completed, HeaderFits, CollEnded, Recorded, faultKey, BufferHas, ResetNoted, Clean]
  and_intros <;> decide +kernel

/-- States and operands for the hypotheses of HaltsAndCounterSets. -/
def wit_HaltsAndCounterSets : List (State × Nat × Nat × Nat × Launch) :=
(let l : Launch := { q := 1, index := 2, entry := 0, step := 3, armBeat := 0, tag := 7, tiles := [0,1], left := [0,1] }
 let l2 : Launch := { l with left := [0] }
 let s1 := fun (l : Launch) (f : Tile → Tile) => { ({ tl (wd [(0,7)]) (fun x => f {x with slot := some 4, sets := [(0,{tag := 7, bound := true, sat := 5, nan := 0xFFFFFFFE}),(2,{tag := 7, bound := true})]}) with slots := [(4,({launch := some l} : Slot))] } : State) with cfg := { z.cfg with active := { z.cfg.active with countTrees := [(4, 0, [(0, 6)])] } } }
 let pk : MeshPkt := {mp with kind := 3, op := 5, tag := 7, payload := [0xFFFFFFFF_00000001_00000002_00000003]}
 let s2 : State := {s1 l id with mesh := [mp, pk]}
 let s3 : State := {s1 l (fun x => {x with sets := []}) with mesh := [pk, mp]}
 [({s1 l id with mesh := [{pk with tag := 7, dest := 1}]},1,4,5,l),
   ({s1 l id with mesh := [{pk with tag := 7}], cfg := z.cfg, slots := [(4,({launch := some l} : Slot))]}.setTile 0 {},0,4,5,l),
   (s1 l id,0,4,5,l),(s1 l2 id,0,4,5,l2),(s1 l (fun x => {x with st := .stall}),0,4,5,l),
   (s1 l (fun x => {x with st := .waitBeat, armed := some 9, gens := [(2,{pkt := some {addr := 0, cls := 0, op := 0, flits := [], ctrl := none}})]}),0,4,5,l),
  (s1 l (fun x => {x with st := .fault}),0,4,5,l),(s2,0,4,5,l),(s3,0,4,5,l),({s1 l id with mesh := [pk]},0,4,5,l),
    ({s1 l (fun x => {x with st := .run}) with mesh := [pk]},0,4,5,l)])

/-- Every clause of HaltsAndCounterSets has a state and operands that meet all its hypotheses together. -/
theorem witness_HaltsAndCounterSets :
  (∃ w0 ∈ pick wit_HaltsAndCounterSets 2,
 let s := w0.1;
 let n := w0.2.1;
 let k := w0.2.2.1;
 let p := w0.2.2.2.1;
 let l := w0.2.2.2.2;
 (Clean s) ∧
 let x := s.tile n
 (TileQuiet x) ∧ (x.slot = some k) ∧ ((s.slot k).launch = some l) ∧ (l.left.contains n = true) ∧
   (∀ c ∈ x.sets, c.2.bound = true → afind (s.countTree c.2.tag) n = some (p + 1)) ∧ (s.tileRuns n = true) ∧
   (x.st = .run ∨ x.st = .stall) ∧ (x.cur = 7) ∧ (x.idle = true) ∧ (x.parityBad = false) ∧ (x.blkX = 0) ∧ (x.g16 = none) ∧
   (x.g64 = none) ∧ (x.waitEnd = none) ∧ (x.kloop = none) ∧ (x.scrubPair = none) ∧ (∀ g ∈ x.gens, g.2.pkt = none)) ∧
  (∃ w0 ∈ pick wit_HaltsAndCounterSets 2,
 let s := w0.1;
 let n := w0.2.1;
 let k := w0.2.2.1;
 let p := w0.2.2.2.1;
 let l := w0.2.2.2.2;
 (Clean s) ∧
 let x := s.tile n
 (TileQuiet x) ∧ (x.slot = some k) ∧ ((s.slot k).launch = some l) ∧ (l.left.contains n = true) ∧
   (∀ c ∈ x.sets, c.2.bound = true → afind (s.countTree c.2.tag) n = some (p + 1)) ∧ (x.st ≠ .halted) ∧ (x.st ≠ .fault) ∧
   (x.g16 = none) ∧ (x.g64 = none)) ∧
  (∃ w0 ∈ pick wit_HaltsAndCounterSets 2,
 let s := w0.1;
 let n := w0.2.1;
 (Clean s) ∧
 let x := s.tile n
 (x.st ≠ .halted) ∧ (x.st ≠ .fault)) ∧
  (∃ w0 ∈ pick wit_HaltsAndCounterSets 0,
 let s := w0.1;
 let n := w0.2.1;
 (Clean s) ∧
 let x := s.tile n
 (x.st = .halted ∨ x.st = .fault)) ∧
  (∃ w0 ∈ pick wit_HaltsAndCounterSets 0,
 let s := w0.1;
 let n := w0.2.1;
 (Clean s) ∧
 let x := s.tile n
 (∃ v3 ∈ [(0,7),(1,5)],
 let set := v3.1;
 ((x.cset (set % 4)).bound = false))) ∧
  (∃ w0 ∈ pick wit_HaltsAndCounterSets 2,
 let s := w0.1;
 let n := w0.2.1;
 (Clean s) ∧
 let x := s.tile n
 (∃ v3 ∈ [(0,7),(1,5)],
 let set := v3.1;
 ((x.cset (set % 4)).bound = true))) ∧
  (∃ w0 ∈ pick wit_HaltsAndCounterSets 9,
 let s := w0.1;
 let n := w0.2.1;
 (Clean s) ∧
 let x := s.tile n
 (∃ v3 ∈ s.mesh.flatMap (fun q => q.payload.map (fun f => (q, f))),
 let q := v3.1;
 let f := v3.2;
 (q.kind = 3) ∧ (q.dest = n) ∧ (q.payload = [f]) ∧ (q.way = []) ∧ (s.nextOfPath q = true) ∧ (s.tileFrozen n = false) ∧
 let m := q.addr.toNat % 4
 let c := x.cset m
 (c.bound = true) ∧ (c.tag = q.tag))) ∧
  (∃ w0 ∈ pick wit_HaltsAndCounterSets 8,
 let s := w0.1;
 let n := w0.2.1;
 let p := w0.2.2.2.1;
 (Clean s) ∧
 let x := s.tile n
 (∃ v3 ∈ s.mesh.flatMap (fun q => q.payload.map (fun f => (q, f))),
 let q := v3.1;
 let f := v3.2;
 (q.kind = 3) ∧ (q.dest = n) ∧ (q.payload = [f]) ∧ (q.way = []) ∧ (s.nextOfPath q = true) ∧ (s.tileFrozen n = false) ∧
 let m := q.addr.toNat % 4
 let c := x.cset m
 (c.bound = false ∨ c.tag ≠ q.tag) ∧ (afind (s.countTree q.tag) n = some (p + 1)))) ∧
  (∃ w0 ∈ pick wit_HaltsAndCounterSets 0,
 let s := w0.1;
 let n := w0.2.1;
 (Clean s) ∧
 let x := s.tile n
 (∃ v3 ∈ s.mesh.flatMap (fun q => q.payload.map (fun f => (q, f))),
 let q := v3.1;
 let f := v3.2;
 (q.kind = 3) ∧ (q.dest = n) ∧ (q.payload = [f]) ∧ (q.way = []) ∧ (s.nextOfPath q = true) ∧ (s.tileFrozen n = false) ∧
 let m := q.addr.toNat % 4
 let c := x.cset m
 (c.bound = false ∨ c.tag ≠ q.tag) ∧ (afind (s.countTree q.tag) n = none) ∧ (s.slots.map (·.1)).Pairwise (· < ·))) := by
  dsimp only [TileTxn, TileQuiet, Completed, HeaderFits, CollEnded, Recorded, faultKey, BufferHas, ResetNoted, Clean]
  and_intros <;> decide +kernel

/-- States and operands for the hypotheses of TileStarts. -/
def wit_TileStarts : List (State × Nat × Nat × Nat × Launch) :=
(let l : Launch := { q := 1, index := 2, entry := 0, step := 3, armBeat := 5, tag := 7, tiles := [0,1], left := [0,1] }
 let s1 := fun (r : Region) (f : Tile → Tile) => { (tl (wd [(0,7)]) (fun x => f {x with st := .halted, cnts := [(1,4)], trig := [3]})) with slots := [(4,({launch := some l} : Slot))], regions := [(0,r)] }
 ([0,1,2,3].map fun st => (s1 {st := st, lock := false, wakes := 0xFFFF, fromOff := true} id,0,4,0,l)) ++
 [(s1 {st := 0, lock := true, wakes := 0, fromOff := true} (fun x => {x with cs0 := {}}),0,4,0,l),
   (s1 {st := 0, lock := true, wakes := 0, fromOff := true} (fun x => {x with st := .run}),0,4,0,l),
   (s1 {st := 3, lock := false, wakes := 1, fromOff := true} (fun x => {x with startPend := true}),0,4,0,l)])

/-- Every clause of TileStarts has a state and operands that meet all its hypotheses together. -/
theorem witness_TileStarts :
  (∃ w0 ∈ pick wit_TileStarts 0,
 let s := w0.1;
 let n := w0.2.1;
 let slot := w0.2.2.1;
 let l := w0.2.2.2.2;
 (Clean s) ∧
 let x := s.tile n
 ((s.slot slot).launch = some l) ∧ (l.tiles.contains n = true) ∧ (x.st = .halted) ∧ (x.bindDue = []) ∧
   (nfld (x.entry 0).toNat 8 1 = 1)) ∧
  (∃ w0 ∈ pick wit_TileStarts 4,
 let s := w0.1;
 let n := w0.2.1;
 let slot := w0.2.2.1;
 let l := w0.2.2.2.2;
 (Clean s) ∧
 let x := s.tile n
 ((s.slot slot).launch = some l) ∧ (l.tiles.contains n = true) ∧ (x.st = .halted) ∧ (x.bindDue = []) ∧
   (nfld (x.entry 0).toNat 8 1 = 0)) ∧
  (∃ w0 ∈ pick wit_TileStarts 5,
 let s := w0.1;
 let n := w0.2.1;
 let slot := w0.2.2.1;
 let l := w0.2.2.2.2;
 (Clean s) ∧
 let x := s.tile n
 ((s.slot slot).launch = some l) ∧ (l.tiles.contains n = true) ∧ (x.st ≠ .halted) ∧ (x.st ≠ .fault)) ∧
  (∃ w0 ∈ pick wit_TileStarts 3,
 let s := w0.1;
 let region := w0.2.2.2.1;
 (Clean s) ∧ (s.tileDef.startPend = false) ∧ ((s.region region).st = 3)) := by
  dsimp only [TileTxn, TileQuiet, Completed, HeaderFits, CollEnded, Recorded, faultKey, BufferHas, ResetNoted, Clean]
  and_intros <;> decide +kernel

/-- States and operands for the hypotheses of PacketsAndAnswers. -/
def wit_PacketsAndAnswers : List (State × Nat) :=
(let b := fun (f : Tile → Tile) => tl (wd [(0,7)]) f
 let pt : MeshPkt := {mp with trigger := 2}
 let pr : MeshPkt := {mp with op := 1}
 let a : MeshPkt := ansK none []
 [({b id with mesh := [mp], ls := [(3,1)]},0),({b id with mesh := [mp, {mp with tag := 10}]},0),
   ({b (fun x => {x with hdrs := 1}) with mesh := [pt]},0),
   ({b (fun x => {x with trig := List.replicate 16 1}) with mesh := [pt]},0),
  ({b id with mesh := [pr], ls := [(64,1),(70,9)]},0),
    ({b (fun x => {x with reqs := [{tag := 4, ag := 2, kind := .gather 3 4 [(0,0),(1,4)], word := wi}], gatherLeft := [(3,2)]}) with answers := [a]},0),({b (fun x => {x with reqs := [{tag := 4, ag := 2, kind := .scatter 3, word := wi}]}) with answers := [a]},0),({b (fun x => {x with reqs := [{tag := 4, ag := 2, kind := .deposit 64, word := wi}]}) with answers := [{a with lost := [1]}]},0),({b id with mesh := [pt]},0),
  ({b (fun x => {x with reqs := [{tag := 4, ag := 2, kind := .deposit 64, word := wi}], replyOf := [(1,2)], cnts := [(1,3)]}) with answers := [a]},0),
  ({b (fun x => {x with reqs := [{tag := 4, ag := 2, kind := .deposit 64, word := wi}], replyOf := [(1,3)], cnts := [(1,3)]}) with answers := [a]},0),
  (b (fun x => {x with drain := some {gen := 1, lanes := 1, out := [{gap := 1, flit := 5}], cset := 2}, gens := [(1,{base := 32, owned := true})]}),0),(b (fun x => {x with st := .halted, drain := some {gen := 1, lanes := 1, out := [{gap := 1, flit := 5}], cset := 2}, gens := [(1,{base := 32, owned := true})]}),0),(b (fun x => {x with drain := some {gen := 1, lanes := 1, out := [{gap := 1, flit := 5},{gap := 1, flit := 5}], cset := 2}, gens := [(1,{base := 32, owned := true})]}),0)])

/-- Every clause of PacketsAndAnswers has a state and operands that meet all its hypotheses together. -/
theorem witness_PacketsAndAnswers :
  (∃ w0 ∈ pick wit_PacketsAndAnswers 0,
 let s := w0.1;
 let n := w0.2;
 (Clean s) ∧
 let x := s.tile n
 (∃ v3 ∈ s.mesh.flatMap (fun p => [(p, false), (p, true)]),
 let p := v3.1;
 (p.kind = 0) ∧ (p.dest = n) ∧ (p.op ≠ 6) ∧ (p.way = []) ∧ (s.nextOfPath p = true) ∧ (s.tileFrozen n = false) ∧ (p.op ≠ 1) ∧
   (p.trigger = 0 ∨ x.hdrs ≠ 0 ∨ x.trig.length < 16))) ∧
  (∃ w0 ∈ pick wit_PacketsAndAnswers 3,
 let s := w0.1;
 let n := w0.2;
 (Clean s) ∧
 let x := s.tile n
 (∃ v3 ∈ s.mesh.flatMap (fun p => [(p, false), (p, true)]),
 let p := v3.1;
 (p.kind = 0) ∧ (p.dest = n) ∧ (p.op ≠ 6) ∧ (p.way = []) ∧ (s.nextOfPath p = true) ∧ (s.tileFrozen n = false) ∧ (p.op ≠ 1) ∧
   (p.trigger ≠ 0) ∧ (x.hdrs = 0) ∧ (16 ≤ x.trig.length))) ∧
  (∃ w0 ∈ pick wit_PacketsAndAnswers 4,
 let s := w0.1;
 let n := w0.2;
 (Clean s) ∧ (∃ v2 ∈ s.mesh.flatMap (fun p => [(p, false), (p, true)]),
 let p := v2.1;
 (p.kind = 0) ∧ (p.dest = n) ∧ (p.op ≠ 6) ∧ (p.way = []) ∧ (s.nextOfPath p = true) ∧ (s.tileFrozen n = false) ∧ (p.op = 1) ∧
   (p.trigger = 0) ∧ (p.edge = none) ∧ (∀ i < 8, s.lsMark n (2 * p.lsAddr + i) = .good))) ∧
  (∃ w0 ∈ pick wit_PacketsAndAnswers 1,
 let s := w0.1;
 (Clean s) ∧ (∃ v2 ∈ s.mesh.flatMap (fun p => [(p, false), (p, true)]),
 let p := v2.1;
 (p.way ≠ [] ∨ s.nextOfPath p = false ∨ s.tileFrozen p.dest = true))) ∧
  (∃ w0 ∈ pick wit_PacketsAndAnswers 8,
 let s := w0.1;
 let n := w0.2;
 (Clean s) ∧
 let x := s.tile n
 (x.trig.length + x.hdrs < 16) ∧ (s.tileFrozen n = false) ∧
   (x.hdrs < (s.mesh.filter (fun p => p.dest == n && (p.headAt || p.headIn))).length)) ∧
  (∃ w0 ∈ pick wit_PacketsAndAnswers 3,
 let s := w0.1;
 let n := w0.2;
 (Clean s) ∧
 let x := s.tile n
 (16 ≤ x.trig.length + x.hdrs)) ∧
  (∃ w0 ∈ pick wit_PacketsAndAnswers 7,
 let s := w0.1;
 let n := w0.2;
 (Clean s) ∧
 let x := s.tile n
 (∃ v3 ∈ s.answers.flatMap (fun a => x.reqs.map (fun r => (a, r))),
 let a := v3.1;
 let r := v3.2;
 (s.answers.contains a = true) ∧ (a.way = []) ∧ (s.nextAnswer a = true) ∧ (a.dest = n) ∧ (s.tileFrozen n = false) ∧
   (x.reqs.find? (fun q => q.tag == a.tag) = some r) ∧ (x.replyOf.map (·.1)).Pairwise (· < ·) ∧ (∃ v11 ∈ [64],
 let addr := v11;
 (r.kind = .deposit addr) ∧ (a.payload.length = 4)))) ∧
  (∃ w0 ∈ pick wit_PacketsAndAnswers 5,
 let s := w0.1;
 let n := w0.2;
 (Clean s) ∧
 let x := s.tile n
 (∃ v3 ∈ s.answers.flatMap (fun a => x.reqs.map (fun r => (a, r))),
 let a := v3.1;
 let r := v3.2;
 (s.answers.contains a = true) ∧ (a.way = []) ∧ (s.nextAnswer a = true) ∧ (a.dest = n) ∧ (s.tileFrozen n = false) ∧
   (x.reqs.find? (fun q => q.tag == a.tag) = some r) ∧ (x.replyOf.map (·.1)).Pairwise (· < ·) ∧
 let whole := a.err = none ∧ a.lost = []
 (∃ v12 ∈ [(3,4,([(0,0),(1,4)] : List (Nat × Nat)))],
 let vd := v12.1;
 let wd := v12.2.1;
 let els := v12.2.2;
 (r.kind = .gather vd wd els) ∧ (whole)))) ∧
  (∃ w0 ∈ pick wit_PacketsAndAnswers 6,
 let s := w0.1;
 let n := w0.2;
 (Clean s) ∧
 let x := s.tile n
 (∃ v3 ∈ s.answers.flatMap (fun a => x.reqs.map (fun r => (a, r))),
 let a := v3.1;
 let r := v3.2;
 (s.answers.contains a = true) ∧ (a.way = []) ∧ (s.nextAnswer a = true) ∧ (a.dest = n) ∧ (s.tileFrozen n = false) ∧
   (x.reqs.find? (fun q => q.tag == a.tag) = some r) ∧ (x.replyOf.map (·.1)).Pairwise (· < ·) ∧ (∃ v11 ∈ [3],
 let e := v11;
 (r.kind = .scatter e) ∧ (a.err = none)))) ∧
  (∃ w0 ∈ pick wit_PacketsAndAnswers 13,
 let s := w0.1;
 let n := w0.2;
 (Clean s) ∧
 let x := s.tile n
 (∃ v3 ∈ x.drain.toList,
 let d := v3;
 (x.drain = some d) ∧ (2 ≤ d.out.length))) ∧
  (∃ w0 ∈ pick wit_PacketsAndAnswers 11,
 let s := w0.1;
 let n := w0.2;
 (Clean s) ∧
 let x := s.tile n
 (∃ v3 ∈ x.drain.toList,
 let d := v3;
 (x.drain = some d) ∧ (d.out.length ≤ 1) ∧ (((s.tileCycle n {}).tile n).drain = none))) ∧
  (∃ w0 ∈ pick wit_PacketsAndAnswers 12,
 let s := w0.1;
 let n := w0.2;
 (Clean s) ∧
 let x := s.tile n
 let taking := x.st = .halted ∨ x.st = .fault
 (∃ v4 ∈ x.drain.toList,
 let d := v4;
 (x.drain = some d) ∧
 let f := (d.out.map (fun o => o.flit)).headD 0
 (d.out = [{ gap := 1, flit := f }]) ∧ (d.next ≤ x.tc) ∧ (taking) ∧ ((s.region (regionOf n)).st = 0) ∧
   (TileQuiet { x with drain := none }) ∧ (x.scrubPair = none) ∧ ((x.cset d.cset).sat < 2 ^ 32) ∧ ((x.cset d.cset).flush < 2 ^ 32) ∧
   ((x.cset d.cset).replay < 2 ^ 32) ∧ ((x.cset d.cset).nan < 2 ^ 32) ∧
 let a := agAddr (x.gen d.gen) d.lanes
 (dGl (x.gen d.gen).desc = false) ∧ (a.toNat < Config.lsBytes) ∧ (a.toNat % 16 = 0))) := by
  dsimp only [TileTxn, TileQuiet, Completed, HeaderFits, CollEnded, Recorded, faultKey, BufferHas, ResetNoted, Clean]
  and_intros <;> decide +kernel

/-- States and operands for the hypotheses of LocalStoreErrors. -/
def wit_LocalStoreErrors : List (State × Nat × Nat × Nat × Nat × Nat × Nat) :=
[(z,0,0,0,3,4,255),(z,0,0,0,3,4,254),(tl (wd [(0,0),(16,3),(20,8)]) (fun x => {x with scrubPair := some 0}),0,0,0,3,4,255),
  ((tl (wd [(0,7)]) (fun x => {x with scrub := 0})),0,0,0,3,4,255),
 (lsb .good,0,6143,6143,3,4,255),(lsb (.single 3),0,6143,6143,3,4,255),(lsb (.double 3 4),0,6143,6143,3,4,255),
   (lsb .poison,0,6143,6143,3,4,255)]

/-- Every clause of LocalStoreErrors has a state and operands that meet all its hypotheses together. -/
theorem witness_LocalStoreErrors :
  (∃ w0 ∈ pick wit_LocalStoreErrors 5,
 let s := w0.1;
 let n := w0.2.1;
 let v := w0.2.2.1;
 let w := w0.2.2.2.1;
 let b := w0.2.2.2.2.1;
 (Clean s) ∧ ((s.tile n).scrub = w) ∧ (s.lsMark n v = .single b)) ∧
  (∃ w0 ∈ pick wit_LocalStoreErrors 0,
 let s := w0.1;
 let n := w0.2.1;
 let v := w0.2.2.1;
 let w := w0.2.2.2.1;
 let b := w0.2.2.2.2.1;
 let b2 := w0.2.2.2.2.2.1;
 (Clean s) ∧ ((s.tile n).scrub = w) ∧ (s.lsMark n v = .good ∨ s.lsMark n v = .poison ∨ s.lsMark n v = .double b b2)) ∧
  (∃ w0 ∈ pick wit_LocalStoreErrors 5,
 let s := w0.1;
 let n := w0.2.1;
 let w := w0.2.2.2.1;
 let b := w0.2.2.2.2.1;
 (Clean s) ∧ ((s.tile n).scrub = w) ∧ (s.lsMark n w = .single b)) ∧
  (∃ w0 ∈ pick wit_LocalStoreErrors 6,
 let s := w0.1;
 let n := w0.2.1;
 let w := w0.2.2.2.1;
 let b := w0.2.2.2.2.1;
 let b2 := w0.2.2.2.2.2.1;
 (Clean s) ∧ ((s.tile n).scrub = w) ∧ (s.lsMark n w = .double b b2)) ∧
  (∃ w0 ∈ pick wit_LocalStoreErrors 0,
 let s := w0.1;
 let n := w0.2.1;
 let w := w0.2.2.2.1;
 (Clean s) ∧ ((s.tile n).scrub = w) ∧ (s.lsMark n w = .good ∨ s.lsMark n w = .poison)) ∧
  (∃ w0 ∈ pick wit_LocalStoreErrors 1,
 let s := w0.1;
 let n := w0.2.1;
 let w := w0.2.2.2.1;
 let c := w0.2.2.2.2.2.2;
 (Clean s) ∧ ((s.tile n).scrub = w) ∧ (c < 255)) ∧
  (∃ w0 ∈ pick wit_LocalStoreErrors 0,
 let s := w0.1;
 let n := w0.2.1;
 let w := w0.2.2.2.1;
 let c := w0.2.2.2.2.2.2;
 (Clean s) ∧ ((s.tile n).scrub = w) ∧ (255 ≤ c) ∧ (s.tileRuns n = false)) ∧
  (∃ w0 ∈ pick wit_LocalStoreErrors 2,
 let s := w0.1;
 let n := w0.2.1;
 let w := w0.2.2.2.1;
 let c := w0.2.2.2.2.2.2;
 (Clean s) ∧ ((s.tile n).scrub = w) ∧ (255 ≤ c) ∧ (s.lsMark n w = .good) ∧ (s.tileRuns n = true)) ∧
  (∃ w0 ∈ pick wit_LocalStoreErrors 2,
 let s := w0.1;
 let n := w0.2.1;
 let w := w0.2.2.2.1;
 (Clean s) ∧ ((s.tile n).scrub = w) ∧
 let x := s.tile n
 (∃ v4 ∈ (s.wordPairs n x.cur (x.tailc x.cur)),
 let g := v4.1;
 let p := v4.2;
 (s.tileRuns n = true) ∧ (x.st = .run ∨ x.st = .stall) ∧ (TileQuiet x) ∧ (x.parityBad = false) ∧ (x.scrubPair = some p) ∧
   (cwIllegal x.kloop.isSome x.cur = false) ∧ (wSeqOp x.cur < 6) ∧ (x.blockOpen x.cur = false) ∧ (x.unitStall x.cur = false) ∧
   (s.wordPairs n x.cur (x.tailc x.cur) = [(g, p)]))) := by
  dsimp only [TileTxn, TileQuiet, Completed, HeaderFits, CollEnded, Recorded, faultKey, BufferHas, ResetNoted, Clean]
  and_intros <;> decide +kernel

/-- States and operands for the hypotheses of SolverSteps. -/
def wit_SolverSteps : List (State × Nat × Nat × Nat × Nat × List Flit × Lath × List W64 × List W64 × Nat) :=
(let p1 := dp 0 9 7 4 0 0 2 [(0x4000,5),(0x4000,6)]
 let b := fun (s : State) (p : List Flit) => (s,0,4,0,1,p,lq,([] : List W64),([] : List W64),0)
 let fz : World := {frozen := true, ended := true}
 let it : World := {phase := .iterating, status := .frozen, fixed := true}
 let l8 : Lath := {lq with nworld := 9}
 let b8' := fun (s : State) (p : List Flit) => (s,0,4,0,1,p,l8,([] : List W64),([] : List W64),0)
 let fd : World := {phase := .iterated, status := .frozen, fixed := true}
 [b z p1, b (sol lq {} {} id) p1, b (sol lq {} {} id) (dp 0 8 7 4 0 0 2 [(0x4000,5)]),
   b (sol lq {} {} id) (dp 5 9 7 4 0 0 1 [(0x4000,5)]),
  b (sol lq {frozen := true} {} id) (dp 0 9 7 4 1 1 1 [(0x4001,5)]),
  b (sol lq fz fz (fun x => {x with launch := some ll})) p1, b (sol lq {} fz (fun x => {x with launch := some ll})) p1,
    b (sol lq {ended := true} fz (fun x => {x with launch := some ll})) p1,
    b (sol lq it it (fun x => {x with launch := some ll, groupIters := [(0,3)]})) p1,
    b (sol lq {it with status := .notConverged, fixed := false, q := [0,0], v := [0,0]} it (fun x => {x with launch := some ll, groupIters := [(0,lq.iterCap - 1)]})) p1,
  b (sol lq {it with status := .notConverged, fixed := false, q := [0,0], v := [0,0]} it (fun x => {x with launch := some ll})) p1,
  b8' { sol l8 fd fd id with slots := [(4, {lath := some 7, step := 9, worlds := (List.range 8).map (fun i => (i,fd)), launch := some ll})] } p1, b (sol lq {phase := .done} {phase := .done} id) p1, b (sol lq {phase := .done} {phase := .done, status := .converged} id) p1,
  b (sol lq {phase := .done, status := .converged} {phase := .done, status := .diverged, adjRan := false} id) p1,
  b (sol lq {phase := .done} {phase := .done, adjRan := true} id) p1,
    (sol {lq with iterCap := 3} {phase := .done} {phase := .done, status := .converged, fixed := true} id,0,4,0,1,p1,{lq with iterCap := 3},[],[],2), (sol {lq with iterCap := 3} {phase := .done} {phase := .done, status := .converged, fixed := true} id,0,4,0,1,p1,{lq with iterCap := 3},[],[],5), (sol {lq with iterCap := 3} {phase := .done} {phase := .done, status := .converged, fixed := true, adjRun := some {it := 2}} id,0,4,0,1,p1,{lq with iterCap := 3},[],[],1), (esc' (sol {lq with iterCap := 9, adjDeadlineOfs := 5} {phase := .done} {phase := .done, status := .converged, fixed := true} id) (fun e => {e with beat := 6}),0,4,0,1,p1,{lq with iterCap := 9, adjDeadlineOfs := 5},[],[],1), (sol {lq with iterCap := 3, rows := [(0,0)], adjTol := 0xFFFFFFFFFFFFFFFF} {phase := .done} {phase := .done, status := .converged, fixed := true} id,0,4,0,1,p1,{lq with iterCap := 3, rows := [(0,0)], adjTol := 0xFFFFFFFFFFFFFFFF},[],[],1)].map id ++ [])

/-- Every clause of SolverSteps has a state and operands that meet all its hypotheses together. -/
theorem witness_SolverSteps :
  (∃ w0 ∈ pick wit_SolverSteps 0,
 let s := w0.1;
 let slot := w0.2.2.1;
 (Clean s) ∧ (s.slotLath slot = none)) ∧
  (∃ w0 ∈ pick wit_SolverSteps 2,
 let s := w0.1;
 let slot := w0.2.2.1;
 let payload := w0.2.2.2.2.2.1;
 let l := w0.2.2.2.2.2.2.1;
 (Clean s) ∧
 let x := s.slot slot
 let hd := (nth 0 payload 0).toNat
 let stale := nfld hd 48 32 ≠ fld x.step 0 32 ∨ x.lath ≠ some (nfld hd 32 8) ∨ nfld hd 40 8 ≠ slot
 (s.slotLath slot = some l) ∧ (stale)) ∧
  (∃ w0 ∈ pick wit_SolverSteps 3,
 let s := w0.1;
 let slot := w0.2.2.1;
 let payload := w0.2.2.2.2.2.1;
 let l := w0.2.2.2.2.2.2.1;
 (Clean s) ∧
 let x := s.slot slot
 let hd := (nth 0 payload 0).toNat
 let dw := nfld hd 0 7
 let ps := deltaPairs payload
 let stale := nfld hd 48 32 ≠ fld x.step 0 32 ∨ x.lath ≠ some (nfld hd 32 8) ∨ nfld hd 40 8 ≠ slot
 let outside := l.nworld ≤ dw ∨ ps.any (fun p => !l.validIndex p.1) = true
 (s.slotLath slot = some l) ∧ (¬ stale) ∧ (outside)) ∧
  (∃ w0 ∈ pick wit_SolverSteps 1,
 let s := w0.1;
 let slot := w0.2.2.1;
 let payload := w0.2.2.2.2.2.1;
 let l := w0.2.2.2.2.2.2.1;
 (Clean s) ∧
 let x := s.slot slot
 let hd := (nth 0 payload 0).toNat
 let dw := nfld hd 0 7
 let ps := deltaPairs payload
 let stale := nfld hd 48 32 ≠ fld x.step 0 32 ∨ x.lath ≠ some (nfld hd 32 8) ∨ nfld hd 40 8 ≠ slot
 let outside := l.nworld ≤ dw ∨ ps.any (fun p => !l.validIndex p.1) = true
 (s.slotLath slot = some l) ∧ (¬ stale) ∧ (¬ outside)) ∧
  (∃ w0 ∈ pick wit_SolverSteps 5,
 let s := w0.1;
 let slot := w0.2.2.1;
 let group := w0.2.2.2.1;
 let l := w0.2.2.2.2.2.2.1;
 (Clean s) ∧
 let x := s.slot slot
 let ws := l.members group
 let ready := fun (p : Phase) => s.hang.frozen ≠ some slot ∧ x.solving = true ∧ ws ≠ [] ∧ ∀ w ∈ ws, (x.world w).phase = p
 (s.slotLath slot = some l) ∧ (ready .ingest) ∧ (s.lathHeld x.lath = false) ∧ (∀ w ∈ ws, (x.world w).ended = true) ∧
   (∀ w ∈ ws, (x.world w).frozen = true)) ∧
  (∃ w0 ∈ pick wit_SolverSteps 1,
 let s := w0.1;
 let slot := w0.2.2.1;
 let group := w0.2.2.2.1;
 let l := w0.2.2.2.2.2.2.1;
 (Clean s) ∧
 let x := s.slot slot
 let ws := l.members group
 let ready := fun (p : Phase) => s.hang.frozen ≠ some slot ∧ x.solving = true ∧ ws ≠ [] ∧ ∀ w ∈ ws, (x.world w).phase = p
 (s.slotLath slot = some l) ∧ (¬ ready .ingest ∨ s.lathHeld x.lath = true ∨ (∃ w ∈ ws, (x.world w).ended = false))) ∧
  (∃ w0 ∈ pick wit_SolverSteps 8,
 let s := w0.1;
 let slot := w0.2.2.1;
 let group := w0.2.2.2.1;
 let l := w0.2.2.2.2.2.2.1;
 (Clean s) ∧
 let x := s.slot slot
 let ws := l.members group
 let ready := fun (p : Phase) => s.hang.frozen ≠ some slot ∧ x.solving = true ∧ ws ≠ [] ∧ ∀ w ∈ ws, (x.world w).phase = p
 (s.slotLath slot = some l) ∧ (ready .iterating) ∧ (∀ w ∈ ws, (x.world w).status = .frozen ∧ (x.world w).fixed = true)) ∧
  (∃ w0 ∈ pick wit_SolverSteps 1,
 let s := w0.1;
 let slot := w0.2.2.1;
 let group := w0.2.2.2.1;
 let l := w0.2.2.2.2.2.2.1;
 (Clean s) ∧
 let x := s.slot slot
 let ws := l.members group
 let ready := fun (p : Phase) => s.hang.frozen ≠ some slot ∧ x.solving = true ∧ ws ≠ [] ∧ ∀ w ∈ ws, (x.world w).phase = p
 (s.slotLath slot = some l) ∧ (¬ ready .iterating)) ∧
  (∃ w0 ∈ pick wit_SolverSteps 11,
 let s := w0.1;
 let slot := w0.2.2.1;
 let group := w0.2.2.2.1;
 let l := w0.2.2.2.2.2.2.1;
 (Clean s) ∧
 let x := s.slot slot
 let ws := l.members group
 let ready := fun (p : Phase) => s.hang.frozen ≠ some slot ∧ x.solving = true ∧ ws ≠ [] ∧ ∀ w ∈ ws, (x.world w).phase = p
 (s.slotLath slot = some l) ∧ (ready .iterated) ∧ (∃ w < l.nworld, w ∉ ws ∧ (x.world w).phase ≠ .done) ∧
   (∀ w ∈ ws, (x.world w).status = .frozen)) ∧
  (∃ w0 ∈ pick wit_SolverSteps 1,
 let s := w0.1;
 let slot := w0.2.2.1;
 let group := w0.2.2.2.1;
 let l := w0.2.2.2.2.2.2.1;
 (Clean s) ∧
 let x := s.slot slot
 let ws := l.members group
 let ready := fun (p : Phase) => s.hang.frozen ≠ some slot ∧ x.solving = true ∧ ws ≠ [] ∧ ∀ w ∈ ws, (x.world w).phase = p
 (s.slotLath slot = some l) ∧ (¬ ready .iterated)) ∧
  (∃ w0 ∈ pick wit_SolverSteps 1,
 let s := w0.1;
 let slot := w0.2.2.1;
 let world := w0.2.2.2.2.1;
 let l := w0.2.2.2.2.2.2.1;
 (Clean s) ∧
 let x := s.slot slot
 (s.slotLath slot = some l) ∧
   (s.hang.frozen = some slot ∨ x.solving = false ∨ l.hasAdj = false ∨ l.nworld ≤ world ∨ (x.world world).phase ≠ .done ∨ (x.world world).adjRan = true)) ∧
  (∃ w0 ∈ pick wit_SolverSteps 12,
 let s := w0.1;
 let slot := w0.2.2.1;
 let world := w0.2.2.2.2.1;
 let l := w0.2.2.2.2.2.2.1;
 (Clean s) ∧
 let x := s.slot slot
 (s.slotLath slot = some l) ∧ (s.hang.frozen ≠ some slot) ∧ (x.solving = true) ∧ (l.hasAdj = true) ∧ (world < l.nworld) ∧
   ((x.world world).phase = .done) ∧ ((x.world world).adjRan = false)) := by
  dsimp only [TileTxn, TileQuiet, Completed, HeaderFits, CollEnded, Recorded, faultKey, BufferHas, ResetNoted, Clean]
  and_intros <;> decide +kernel

/-- States and operands for the hypotheses of Ratchet (a part of RatchetAndScaleTable). -/
def wit_Ratchet : List (W64 × Bool × Nat × Nat) :=
[(0x18000F#64 + 0x7D00000000,true,20,3),(0x7D018000F#64,true,0,3),(0x7D018000F#64,false,20,3),(0x7D018000F#64,false,20,1999),
  (0x300640000F#64,true,30,0),(0x300640A00F#64,false,12,47),(0x300640A00F#64,true,10,47),(0x300640A00F#64,true,11,47),
  (0x300640A00F#64,false,12,7)]

/-- Every clause of Ratchet (a part of RatchetAndScaleTable) has a state and operands that meet all its hypotheses together. -/
theorem witness_Ratchet :
  (∃ w0 ∈ pick wit_Ratchet 0,
 let ctrl := w0.1;
 let e := w0.2.2.1;
 let lo := fld ctrl 8 8
 let hi := min 126 (fld ctrl 16 8)
 (lo ≤ e) ∧ (e ≤ hi)) ∧
  (∃ w0 ∈ pick wit_Ratchet 0,
 let ctrl := w0.1;
 let nf := w0.2.1;
 let e := w0.2.2.1;
 let lo := fld ctrl 8 8
 (nf = true) ∧ (lo < e)) ∧
  (∃ w0 ∈ pick wit_Ratchet 1,
 let ctrl := w0.1;
 let nf := w0.2.1;
 let e := w0.2.2.1;
 let lo := fld ctrl 8 8
 (nf = true) ∧ (e ≤ lo)) ∧
  (∃ w0 ∈ pick wit_Ratchet 2,
 let ctrl := w0.1;
 let nf := w0.2.1;
 let n := w0.2.2.2;
 let grow := max 1 (fld ctrl 24 16)
 (nf = false) ∧ (n + 1 < grow)) ∧
  (∃ w0 ∈ pick wit_Ratchet 3,
 let ctrl := w0.1;
 let nf := w0.2.1;
 let e := w0.2.2.1;
 let n := w0.2.2.2;
 let hi := min 126 (fld ctrl 16 8)
 let grow := max 1 (fld ctrl 24 16)
 (nf = false) ∧ (grow ≤ n + 1) ∧ (e < hi)) := by
  dsimp only [TileTxn, TileQuiet, Completed, HeaderFits, CollEnded, Recorded, faultKey, BufferHas, ResetNoted, Clean]
  and_intros <;> decide +kernel

/-- States and operands for the hypotheses of ScaleTableEntry (a part of RatchetAndScaleTable). -/
def wit_ScaleTableEntry : List (W64 × Bool × Bool × TEntry) :=
([true,false].flatMap fun a => [true,false].flatMap fun h => [(-120 : Int),0,99,100].flatMap fun t => [0,199,5,65535].map fun r => (0x64_8800_C8EC#64,a,h,({t := t, run := r} : TEntry)))

/-- Every clause of ScaleTableEntry (a part of RatchetAndScaleTable) has a state and operands that meet all its hypotheses together. -/
theorem witness_ScaleTableEntry :
  (∃ w0 ∈ pick wit_ScaleTableEntry 0,
 let ctrl := w0.1;
 let sat := w0.2.1;
 let b := w0.2.2.2;
 (tMin ctrl ≤ tMax ctrl) ∧ (tMin ctrl ≤ b.t) ∧ (b.t ≤ tMax ctrl) ∧ (b.run < 65536) ∧ (sat = true) ∧ (b.t < tMax ctrl)) ∧
  (∃ w0 ∈ pick wit_ScaleTableEntry 32,
 let ctrl := w0.1;
 let sat := w0.2.1;
 let high := w0.2.2.1;
 let b := w0.2.2.2;
 (tMin ctrl ≤ tMax ctrl) ∧ (tMin ctrl ≤ b.t) ∧ (b.t ≤ tMax ctrl) ∧ (b.run < 65536) ∧ (sat = false) ∧ (high = true)) := by
  dsimp only [TileTxn, TileQuiet, Completed, HeaderFits, CollEnded, Recorded, faultKey, BufferHas, ResetNoted, Clean]
  and_intros <;> decide +kernel

/-- States and operands for the hypotheses of VerdictBeat (a part of VerdictAndStepRecord). -/
def wit_VerdictBeat : List (State × VerdictDown × Nat) :=
(let v : VerdictDown := {step := 9, verdict := 30, nonFinite := false, losses := []}
 let s := fun (v : VerdictDown) => sst 2 (esc' (tr (fun x => {x with verdict := some v}) {z with ctxs := [(0,{nlayer := 1, ran := true, trains := true, step := 9, layers := [{}], table := [{}]}),(3,{nlayer := 1})]}) (fun e => {e with beat := 40}))
 [(z, v, 0), (tr (fun x => {x with applied := true}) (s v), v, 0),(s v, v, 0),
   (s {v with nonFinite := true},{v with nonFinite := true},0)])

/-- Every clause of VerdictBeat (a part of VerdictAndStepRecord) has a state and operands that meet all its hypotheses together. -/
theorem witness_VerdictBeat :
  (∃ w0 ∈ pick wit_VerdictBeat 0,
 let s := w0.1;
 (Clean s) ∧ (s.train.verdict = none)) ∧
  (∃ w0 ∈ pick wit_VerdictBeat 1,
 let s := w0.1;
 let v := w0.2.1;
 (Clean s) ∧ (s.train.verdict = some v) ∧
   (s.train.applied = true ∨ s.trainCtxs = [] ∨ s.sliceSt ≠ 2 ∨ s.esc.beat.toNat < v.verdict.toNat)) ∧
  (∃ w0 ∈ pick wit_VerdictBeat 2,
 let s := w0.1;
 let v := w0.2.1;
 (Clean s) ∧ (s.train.verdict = some v) ∧ (s.train.applied = false) ∧ (s.trainCtxs ≠ []) ∧ (s.sliceSt = 2) ∧
   (v.verdict.toNat ≤ s.esc.beat.toNat)) := by
  dsimp only [TileTxn, TileQuiet, Completed, HeaderFits, CollEnded, Recorded, faultKey, BufferHas, ResetNoted, Clean]
  and_intros <;> decide +kernel

/-- States and operands for the hypotheses of StepRecord (a part of VerdictAndStepRecord). -/
def wit_StepRecord : List (State × Nat) :=
(let v : VerdictDown := {step := 9, verdict := 30, nonFinite := false, losses := []}
 let s := fun (v : VerdictDown) (a : Bool) => sst 2 (esc' (tr (fun x => {x with verdict := some v, applied := a}) {z with ctxs := [(0,{nlayer := 1, ran := true, trains := true, step := 9, layers := [{}], table := [{}]}),(3,{nlayer := 1})]}) (fun e => {e with beat := 40}))
 [(z,0),(s v true,0),(s v false,0),({z with ctxs := [(0,{nlayer := 1, ran := true, step := 9})]},0),(chans [(0,rdy)] (s v true),0)])

/-- Every clause of StepRecord (a part of VerdictAndStepRecord) has a state and operands that meet all its hypotheses together. -/
theorem witness_StepRecord :
  (∃ w0 ∈ pick wit_StepRecord 0,
 let s := w0.1;
 let c := w0.2;
 (Clean s) ∧
 let x := s.ctx c
 (x.ran = false ∨ s.recordDue c = false)) ∧
  (∃ w0 ∈ pick wit_StepRecord 2,
 let s := w0.1;
 let c := w0.2;
 (Clean s) ∧
 let x := s.ctx c
 (x.trains = true) ∧ (s.train.applied = false)) ∧
  (∃ w0 ∈ pick wit_StepRecord 1,
 let s := w0.1;
 let c := w0.2;
 (Clean s) ∧
 let x := s.ctx c
 (x.ran = true) ∧ (s.recordDue c = true)) := by
  dsimp only [TileTxn, TileQuiet, Completed, HeaderFits, CollEnded, Recorded, faultKey, BufferHas, ResetNoted, Clean]
  and_intros <;> decide +kernel

/-- States and operands for the hypotheses of SyncPulses. -/
def wit_SyncPulses : List (State × Nat) :=
[(syn z,5),(syn z,2^24),(z,3),
  (esc (fun e => {e with status := 5, syncLoad := 77, hsSlew := 0x100000005, rcCount := 9, next := 4}),7)]

/-- Every clause of SyncPulses has a state and operands that meet all its hypotheses together. -/
theorem witness_SyncPulses :
  (∃ w0 ∈ pick wit_SyncPulses 0,
 let s := w0.1;
 let rc := w0.2;
 (Clean s) ∧
 let n := s.esc.rcCount + BitVec.ofNat 64 rc
 (s.synced = true) ∧ (fld n 0 24 ≠ 0)) ∧
  (∃ w0 ∈ pick wit_SyncPulses 1,
 let s := w0.1;
 let rc := w0.2;
 (Clean s) ∧
 let n := s.esc.rcCount + BitVec.ofNat 64 rc
 (s.synced = true) ∧ (fld n 0 24 = 0)) ∧
  (∃ w0 ∈ pick wit_SyncPulses 2,
 let s := w0.1;
 (Clean s) ∧ (s.synced = false)) ∧
  (∃ w0 ∈ pick wit_SyncPulses 3,
 let s := w0.1;
 (Clean s) ∧ (bitOf s.esc.status 2 = true) ∧ (bitOf s.esc.status 0 = true)) ∧
  (∃ w0 ∈ pick wit_SyncPulses 0,
 let s := w0.1;
 (Clean s) ∧ (¬ (bitOf s.esc.status 2 = true ∧ bitOf s.esc.status 0 = true))) := by
  dsimp only [TileTxn, TileQuiet, Completed, HeaderFits, CollEnded, Recorded, faultKey, BufferHas, ResetNoted, Clean]
  and_intros <;> decide +kernel

/-- States and operands for the hypotheses of EscapementWrites. -/
def wit_EscapementWrites : List (State × W64) :=
[(z,0),(z,7),(esc (fun e => {e with beat := 9}),9),(z,1),(esc (fun e => {e with freq := 4, owe := 5, lastSlew := 8}),1),(z,2),(z,3),
  (z,0x102),(sst 2 z,3),(sst 3 z,0),
  (sst 2 (esc (fun e => {e with hsCfg := setFld e.hsCfg 0 2 2, hsStatus := setFld e.hsStatus 32 3 4})),3),
  (sst 2 (esc (fun e => {e with hsCfg := setFld e.hsCfg 0 2 2, hsStatus := setFld e.hsStatus 32 3 4})),2)]

/-- Every clause of EscapementWrites has a state and operands that meet all its hypotheses together. -/
theorem witness_EscapementWrites :
  (∃ w0 ∈ pick wit_EscapementWrites 0,
 let s := w0.1;
 let v := w0.2;
 (Clean s) ∧ (s.outside = false) ∧ (v = 0 ∨ s.esc.beat.toNat < v.toNat)) ∧
  (∃ w0 ∈ pick wit_EscapementWrites 2,
 let s := w0.1;
 let v := w0.2;
 (Clean s) ∧ (s.outside = false) ∧ (v ≠ 0) ∧ (v.toNat ≤ s.esc.beat.toNat)) ∧
  (∃ w0 ∈ pick wit_EscapementWrites 8,
 let s := w0.1;
 let v := w0.2;
 (Clean s) ∧ (s.outside = true) ∧
 let new := rw s.esc.hsCfg hsCfgMask v
 let moves := (fld new 0 2 ≠ s.hsRole ∧ fld new 0 2 ≠ 0) ∨ fld new 2 6 ≠ s.hsPort
 let lost := s.hsState = 4 ∨ s.hsState = 5 ∨ s.hsState = 6
 (¬ (moves ∧ lost))) ∧
  (∃ w0 ∈ pick wit_EscapementWrites 10,
 let s := w0.1;
 let v := w0.2;
 (Clean s) ∧ (s.outside = true) ∧
 let new := rw s.esc.hsCfg hsCfgMask v
 let moves := (fld new 0 2 ≠ s.hsRole ∧ fld new 0 2 ≠ 0) ∨ fld new 2 6 ≠ s.hsPort
 let lost := s.hsState = 4 ∨ s.hsState = 5 ∨ s.hsState = 6
 (moves) ∧ (lost)) := by
  dsimp only [TileTxn, TileQuiet, Completed, HeaderFits, CollEnded, Recorded, faultKey, BufferHas, ResetNoted, Clean]
  and_intros <;> decide +kernel

/-- States and operands for the hypotheses of HairspringAgent. -/
def wit_HairspringAgent : List (State × W64 × W64 × W64 × Nat × Nat × RcAt × RcAt) :=
(let a := fun (r st : Nat) => fb (fun f => {f with ports := [(0,{st := 3}),(5,{st := 3}),(31,{st := 3})]}) (esc (fun e => {e with hsCfg := setFld e.hsCfg 0 2 r, hsStatus := setFld e.hsStatus 32 3 st, t1 := some 100, freq := 3, owe := 2}))
 [(a 2 1,100,0,0,0,0,⟨5,3⟩,⟨7,9⟩),(a 2 2,100,105,108,0,0,⟨7,1⟩,⟨0,0⟩),(a 2 2,100,228,228,31,2,⟨9,3⟩,⟨1,1⟩),
   (a 2 2,100,80,81,31,0,⟨5,5⟩,⟨5,5⟩),(a 2 2,100,1000,2000,31,0,⟨5,5⟩,⟨5,5⟩),(a 2 5,100,0,0,0,0,⟨0,0⟩,⟨0,0⟩),
   (a 2 4,100,0,0,0,0,⟨0,0⟩,⟨0,0⟩),(a 1 2,0,5,6,31,0,⟨5,6⟩,⟨7,8⟩),(a 1 2,0,5,6,38,1,⟨2,3⟩,⟨4,5⟩),
   (esc' (a 1 2) (fun e => {e with beat := 9}),0,5,6,38,1,⟨2,3⟩,⟨4,5⟩),
   (esc' (a 2 2) (fun e => {e with noReply := 1}),1,1,1,1,1,⟨1,1⟩,⟨1,1⟩)])

/-- Every clause of HairspringAgent has a state and operands that meet all its hypotheses together. -/
theorem witness_HairspringAgent :
  (∃ w0 ∈ pick wit_HairspringAgent 0,
 let s := w0.1;
 let c := w0.2.2.2.2.2.2.1;
 (Clean s) ∧ (s.hsRole = 2) ∧ (s.hsState ≠ 5) ∧ (c.rc < s.beatLength s.esc.beat)) ∧
  (∃ w0 ∈ pick wit_HairspringAgent 7,
 let s := w0.1;
 let port := w0.2.2.2.2.1;
 let ago := w0.2.2.2.2.2.1;
 let c := w0.2.2.2.2.2.2.1;
 (Clean s) ∧ (s.hsRole = 1) ∧ (31 ≤ port) ∧ (port < 39) ∧ (ago ≤ s.esc.beat.toNat) ∧ (c.rc < s.beatLength s.esc.beat)) ∧
  (∃ w0 ∈ pick wit_HairspringAgent 1,
 let s := w0.1;
 let t1 := w0.2.1;
 let t2 := w0.2.2.1;
 let t3 := w0.2.2.2.1;
 let c := w0.2.2.2.2.2.2.1;
 (Clean s) ∧
 let time := fun (b : Nat) (c : RcAt) => BitVec.ofNat 64 (16 * (fld s.esc.beatCfg 0 16 * b + c.rc) + c.frac % 16)
 (s.hsRole = 2) ∧ (s.esc.t1 = some t1) ∧ (c.rc < s.beatLength s.esc.beat) ∧
 let th := hsTheta t1 t2 t3 (time s.esc.beat.toNat c) s.hsAsym
 (s.hsState = 2) ∧ (th.natAbs ≤ 128)) ∧
  (∃ w0 ∈ pick wit_HairspringAgent 4,
 let s := w0.1;
 let t1 := w0.2.1;
 let t2 := w0.2.2.1;
 let t3 := w0.2.2.2.1;
 let c := w0.2.2.2.2.2.2.1;
 (Clean s) ∧
 let time := fun (b : Nat) (c : RcAt) => BitVec.ofNat 64 (16 * (fld s.esc.beatCfg 0 16 * b + c.rc) + c.frac % 16)
 (s.hsRole = 2) ∧ (s.esc.t1 = some t1) ∧ (c.rc < s.beatLength s.esc.beat) ∧
 let th := hsTheta t1 t2 t3 (time s.esc.beat.toNat c) s.hsAsym
 (s.hsState = 2) ∧ (128 < th.natAbs) ∧ (s.faultNs * 16 < th.natAbs * 5)) ∧
  (∃ w0 ∈ pick wit_HairspringAgent 5,
 let s := w0.1;
 (Clean s) ∧ (s.hsRole = 2) ∧ (s.hsState = 5)) ∧
  (∃ w0 ∈ pick wit_HairspringAgent 6,
 let s := w0.1;
 (Clean s) ∧ (s.hsRole = 2) ∧ (s.hsState = 4)) := by
  dsimp only [TileTxn, TileQuiet, Completed, HeaderFits, CollEnded, Recorded, faultKey, BufferHas, ResetNoted, Clean]
  and_intros <;> decide +kernel

/-- States and operands for the hypotheses of HairspringFollower. -/
def wit_HairspringFollower : List (State × Nat × W64 × Int × Int × Nat × Nat × Bool) :=
(let a := fun (r st : Nat) => esc (fun e => {e with hsCfg := setFld e.hsCfg 0 2 r, hsStatus := setFld e.hsStatus 32 3 st, missed := 1, hsSlew := 0xFFFFFFFF})
 [(a 3 2,0,50,-1,-2,2,0,true),(a 3 6,5,50,1,0,7,0,true),(a 3 6,5,50,1,7,7,0,true),(sst 2 (a 3 2),0,0,5,9,4,1,false),
   (a 2 2,0,0,1,0,1,3,true),(a 2 2,0,0,1,0,1,3,false),(a 2 1,0,0,1,0,1,3,false),
   (esc' (a 2 1) (fun e => {e with busy := [(3,true)], acquireStep := some 5}),0,0,1,0,1,3,false)])

/-- Every clause of HairspringFollower has a state and operands that meet all its hypotheses together. -/
theorem witness_HairspringFollower :
  (∃ w0 ∈ pick wit_HairspringFollower 0,
 let s := w0.1;
 let d := w0.2.2.2.1;
 let st := w0.2.2.2.2.2.1;
 (Clean s) ∧ (s.hsRole = 3) ∧ (st < 8) ∧ (-(2 ^ 31) ≤ s.slewSum + d) ∧ (s.slewSum + d < 2 ^ 31)) ∧
  (∃ w0 ∈ pick wit_HairspringFollower 4,
 let s := w0.1;
 let busy := w0.2.2.2.2.2.2.2;
 (Clean s) ∧ (s.hsRole = 2) ∧ (s.esc.acquireStep = none ∨ s.outside = true ∨ busy = true ∨ s.hsState ≠ 1)) ∧
  (∃ w0 ∈ pick wit_HairspringFollower 7,
 let s := w0.1;
 let slot := w0.2.2.2.2.2.2.1;
 (Clean s) ∧ (∃ v2 ∈ s.esc.acquireStep.toList,
 let e := v2;
 (s.hsRole = 2) ∧ (s.esc.acquireStep = some e) ∧ (e ≠ 0) ∧ (s.outside = false) ∧ (s.hsState = 1) ∧
   (s.esc.busy = [] ∨ s.esc.busy = [(slot, true)]))) := by
  dsimp only [TileTxn, TileQuiet, Completed, HeaderFits, CollEnded, Recorded, faultKey, BufferHas, ResetNoted, Clean]
  and_intros <;> decide +kernel

/-- States and operands for the hypotheses of Periods. -/
def wit_Periods : List (State × Nat × Nat × W64 × W64 × Nat × Nat) :=
(let a := sst 2 (sl (fun x => {x with table := [(4,0,0),(9,0,1)], cfg := setFld x.cfg 0 14 2, status := setBit (setFld x.status 16 14 4) 30 true}) (esc (fun e => {e with periodCfg := setFld e.periodCfg 0 16 128, started := true, start := 5, now := 3, beat := 20, lateness := setFld 0 48 16 128})))
 [(a,4,0,1,2,3,4),(esc' a (fun e => {e with bound := [(1,2)]}),4,0,1,2,3,4),
   (esc' a (fun e => {e with markers := [0]}),9,1,4,21,128,0),(a,4,0,4,20,128,0),
   (esc' a (fun e => {e with doneSent := true, markers := [0,1]}),4,0,4,20,128,0)])

/-- Every clause of Periods has a state and operands that meet all its hypotheses together. -/
theorem witness_Periods :
  (∃ w0 ∈ pick wit_Periods 0,
 let s := w0.1;
 (Clean s) ∧ (s.periodP ≠ 0) ∧ (s.esc.started = true) ∧ (s.sliceSt = 2) ∧ (s.esc.doneSent = false) ∧ (s.esc.bound = []) ∧
   (s.recordOwed = false)) ∧
  (∃ w0 ∈ pick wit_Periods 1,
 let s := w0.1;
 (Clean s) ∧ (s.esc.bound ≠ [] ∨ s.recordOwed = true)) ∧
  (∃ w0 ∈ pick wit_Periods 0,
 let s := w0.1;
 let src := w0.2.1;
 let r := w0.2.2.1;
 (Clean s) ∧ (s.rankOf src = some r) ∧ (s.isMaster = true) ∧ (s.periodP ≠ 0) ∧ (s.esc.started = true) ∧
   (s.esc.markers.contains r = false) ∧ (s.esc.markers.length + 1 < s.nMembers)) ∧
  (∃ w0 ∈ pick wit_Periods 2,
 let s := w0.1;
 let src := w0.2.1;
 let r := w0.2.2.1;
 (Clean s) ∧ (s.rankOf src = some r) ∧ (s.isMaster = true) ∧ (s.periodP ≠ 0) ∧ (s.esc.started = true) ∧
   (s.esc.markers.contains r = false) ∧ (s.nMembers ≤ s.esc.markers.length + 1)) ∧
  (∃ w0 ∈ pick wit_Periods 2,
 let s := w0.1;
 let e := w0.2.2.2.2.1;
 (Clean s) ∧ (s.esc.beat.toNat < e.toNat)) ∧
  (∃ w0 ∈ pick wit_Periods 0,
 let s := w0.1;
 let e := w0.2.2.2.2.1;
 (Clean s) ∧ (e.toNat ≤ s.esc.beat.toNat)) := by
  dsimp only [TileTxn, TileQuiet, Completed, HeaderFits, CollEnded, Recorded, faultKey, BufferHas, ResetNoted, Clean]
  and_intros <;> decide +kernel

/-- States and operands for the hypotheses of Reference. -/
def wit_Reference : List (State) :=
[z, syn (esc (fun e => {e with status := 16, holdover := 3})), sst 3 (syn (esc (fun e => {e with status := 16, holdover := 3}))),
  sst 1 (syn (esc (fun e => {e with status := 16, holdover := 3}))), esc (fun e => {e with status := 1}),
  syn (esc (fun e => {e with status := 1, holdover := 3})), syn (esc (fun e => {e with status := 16, holdover := 64})),
  syn (sst 2 (esc (fun e => {e with status := 16, holdover := 64})))]

/-- Every clause of Reference has a state and operands that meet all its hypotheses together. -/
theorem witness_Reference :
  (∃ w0 ∈ pick wit_Reference 0,
 let s := w0;
 (Clean s) ∧ (bitOf s.esc.status 0 = false)) ∧
  (∃ w0 ∈ pick wit_Reference 4,
 let s := w0;
 (Clean s) ∧ (bitOf s.esc.status 0 = true)) ∧
  (∃ w0 ∈ pick wit_Reference 2,
 let s := w0;
 (Clean s) ∧
 let ends := bitOf s.esc.status 4 = true ∧ (64 ≤ s.esc.holdover ∨ s.sliceSt = 3)
 (ends) ∧ (∀ k ∈ s.mem.stks, k.2.pend = none)) ∧
  (∃ w0 ∈ pick wit_Reference 0,
 let s := w0;
 (Clean s) ∧
 let ends := bitOf s.esc.status 4 = true ∧ (64 ≤ s.esc.holdover ∨ s.sliceSt = 3)
 (¬ ends)) := by
  dsimp only [TileTxn, TileQuiet, Completed, HeaderFits, CollEnded, Recorded, faultKey, BufferHas, ResetNoted, Clean]
  and_intros <;> decide +kernel

/-- States and operands for the hypotheses of LineRequests. -/
def wit_LineRequests : List (State × Nat × Nat × Nat × Nat × Nat × W64 × Line × LineOp) :=
(let s := chans [(0,{rdy with slot := 5}),
  (768,{rdy with wcb := [wcbe 1536]})] (me (fun m => {m with inbox := [rq 0 .read], bytes := [(1536, 7),(1537,8),(1540,9)]}) z)
 let f := fun (s : State) (a cls : Nat) (op : LineOp) => (tx s,7,1,9,a,cls,(0x3 : W64),(0xAABB : Line),op)
 [f (ib (rq 0 (.reduce 1 2 [1,2])) s) 0 1 (.reduce 1 2 [1,2]), f s 0 1 (.write 0x3 0xAABB),
   f (ib (rq 1536 (.write 0x3 0xAABB)) s) 1536 1 (.write 0x3 0xAABB),
   f (ib (rq 0 (.write 0x3 0xAABB)) (chans [(0,{rdy with normal := [{req := rq 0 .read, at_ := 0, seq := 0}], seq := 1})] z)) 0 1 (.write 0x3 0xAABB),  f (ib (rq 0 (.write 0x3 0xAABB)) (chans [(0,{rdy with wcb := (List.range 32).map (fun i => wcbe (64*i+64)), seq := 1})] z)) 0 1 (.write 0x3 0xAABB), f (ib (rq 0 (.atomic 1 2 0 5 6)) s) 0 1 (.atomic 1 2 0 5 6), f (ib (rq 64 .read) s) 64 1 .read, f (ib (rq 256 .read) s) 256 1 .read, f (ib (rq 0xD800000000 .read) s) 0xD800000000 1 .read, f (chans [((stackMap 0).1,rdy)] z) 0 1 (.atomic 1 2 0 5 6), f s 0 0 .read, f s 0 1 .read, f s 0 2 .read, f s 0 3 .read, f s 0 1 (.atomic 1 2 0 5 6), f s (1536) 1 .read, f s 256 1 .read, f s 0xD800000000 1 .read, f (chans [(768,{rdy with wcb := [wcbe 1536]})] s) 1536 1 .read, f s 64 1 .read])

/-- Every clause of LineRequests has a state and operands that meet all its hypotheses together. -/
theorem witness_LineRequests :
  (∃ w0 ∈ pick wit_LineRequests 1,
 let s := w0.1;
 let tg := w0.2.1;
 let tl := w0.2.2.1;
 let tag := w0.2.2.2.1;
 let a := w0.2.2.2.2.1;
 let cls := w0.2.2.2.2.2.1;
 let op := w0.2.2.2.2.2.2.2.2;
 (Clean s) ∧ (a % 64 = 0) ∧ (TileTxn s tg tl tag) ∧
 let r : LineReq := { src := .txn tg tl, addr := a, op := op, cls := cls }
 (s.mayArrive r = false)) ∧
  (∃ w0 ∈ pick wit_LineRequests 6,
 let s := w0.1;
 let tg := w0.2.1;
 let tl := w0.2.2.1;
 let tag := w0.2.2.2.1;
 let a := w0.2.2.2.2.1;
 let cls := w0.2.2.2.2.2.1;
 let op := w0.2.2.2.2.2.2.2.2;
 (Clean s) ∧ (a % 64 = 0) ∧ (TileTxn s tg tl tag) ∧
 let r : LineReq := { src := .txn tg tl, addr := a, op := op, cls := cls }
 let ch := (stackMap a).1
 let x := s.chan ch
 (s.mayArrive r = true) ∧ (a < Config.stackBytes) ∧ (x.st = 2) ∧ (op = .read)) ∧
  (∃ w0 ∈ pick wit_LineRequests 5,
 let s := w0.1;
 let tg := w0.2.1;
 let tl := w0.2.2.1;
 let tag := w0.2.2.2.1;
 let a := w0.2.2.2.2.1;
 let cls := w0.2.2.2.2.2.1;
 let op := w0.2.2.2.2.2.2.2.2;
 (Clean s) ∧ (a % 64 = 0) ∧ (TileTxn s tg tl tag) ∧
 let r : LineReq := { src := .txn tg tl, addr := a, op := op, cls := cls }
 let ch := (stackMap a).1
 let x := s.chan ch
 (s.mayArrive r = true) ∧ (a < Config.stackBytes) ∧ (x.st = 2) ∧ (∃ v10 ∈ [(1,2,0,(5 : W64),(6 : W64))],
 let aop := v10.1;
 let aw := v10.2.1;
 let off := v10.2.2.1;
 let u := v10.2.2.2.1;
 let v := v10.2.2.2.2;
 (op = .atomic aop aw off u v))) ∧
  (∃ w0 ∈ pick wit_LineRequests 0,
 let s := w0.1;
 let tg := w0.2.1;
 let tl := w0.2.2.1;
 let tag := w0.2.2.2.1;
 let a := w0.2.2.2.2.1;
 let cls := w0.2.2.2.2.2.1;
 let op := w0.2.2.2.2.2.2.2.2;
 (Clean s) ∧ (a % 64 = 0) ∧ (TileTxn s tg tl tag) ∧
 let r : LineReq := { src := .txn tg tl, addr := a, op := op, cls := cls }
 let ch := (stackMap a).1
 let x := s.chan ch
 (s.mayArrive r = true) ∧ (a < Config.stackBytes) ∧ (x.st = 2) ∧ (∃ v10 ∈ [(1,2,([1,2] : List Byte))],
 let rf := v10.1;
 let off := v10.2.1;
 let es := v10.2.2;
 (op = .reduce rf off es))) ∧
  (∃ w0 ∈ pick wit_LineRequests 2,
 let s := w0.1;
 let tg := w0.2.1;
 let tl := w0.2.2.1;
 let tag := w0.2.2.2.1;
 let a := w0.2.2.2.2.1;
 let cls := w0.2.2.2.2.2.1;
 let m := w0.2.2.2.2.2.2.1;
 let d := w0.2.2.2.2.2.2.2.1;
 let op := w0.2.2.2.2.2.2.2.2;
 (Clean s) ∧ (a % 64 = 0) ∧ (TileTxn s tg tl tag) ∧
 let r : LineReq := { src := .txn tg tl, addr := a, op := op, cls := cls }
 let ch := (stackMap a).1
 let x := s.chan ch
 let q : QReq := { req := r, at_ := x.slot, seq := x.seq }
 (s.mayArrive r = true) ∧ (a < Config.stackBytes) ∧ (x.st = 2) ∧ (op = .write m d) ∧ (x.older a x.seq = false) ∧
   (x.lacks q = false) ∧ (s.mark a = .good)) ∧
  (∃ w0 ∈ pick wit_LineRequests 3,
 let s := w0.1;
 let tg := w0.2.1;
 let tl := w0.2.2.1;
 let tag := w0.2.2.2.1;
 let a := w0.2.2.2.2.1;
 let cls := w0.2.2.2.2.2.1;
 let m := w0.2.2.2.2.2.2.1;
 let d := w0.2.2.2.2.2.2.2.1;
 let op := w0.2.2.2.2.2.2.2.2;
 (Clean s) ∧ (a % 64 = 0) ∧ (TileTxn s tg tl tag) ∧
 let r : LineReq := { src := .txn tg tl, addr := a, op := op, cls := cls }
 let ch := (stackMap a).1
 let x := s.chan ch
 (s.mayArrive r = true) ∧ (a < Config.stackBytes) ∧ (x.st = 2) ∧ (op = .write m d) ∧ (x.older a x.seq = true)) ∧
  (∃ w0 ∈ pick wit_LineRequests 4,
 let s := w0.1;
 let tg := w0.2.1;
 let tl := w0.2.2.1;
 let tag := w0.2.2.2.1;
 let a := w0.2.2.2.2.1;
 let cls := w0.2.2.2.2.2.1;
 let m := w0.2.2.2.2.2.2.1;
 let d := w0.2.2.2.2.2.2.2.1;
 let op := w0.2.2.2.2.2.2.2.2;
 (Clean s) ∧ (a % 64 = 0) ∧ (TileTxn s tg tl tag) ∧
 let r : LineReq := { src := .txn tg tl, addr := a, op := op, cls := cls }
 let ch := (stackMap a).1
 let x := s.chan ch
 let q : QReq := { req := r, at_ := x.slot, seq := x.seq }
 (s.mayArrive r = true) ∧ (a < Config.stackBytes) ∧ (x.st = 2) ∧ (op = .write m d) ∧ (x.older a x.seq = false) ∧
   (x.lacks q = true)) ∧
  (∃ w0 ∈ pick wit_LineRequests 7,
 let s := w0.1;
 let tg := w0.2.1;
 let tl := w0.2.2.1;
 let tag := w0.2.2.2.1;
 let a := w0.2.2.2.2.1;
 let cls := w0.2.2.2.2.2.1;
 let op := w0.2.2.2.2.2.2.2.2;
 (Clean s) ∧ (a % 64 = 0) ∧ (TileTxn s tg tl tag) ∧
 let r : LineReq := { src := .txn tg tl, addr := a, op := op, cls := cls }
 let ch := (stackMap a).1
 let x := s.chan ch
 (s.mayArrive r = true) ∧ (a < Config.stackBytes) ∧ (x.st ≠ 2)) ∧
  (∃ w0 ∈ pick wit_LineRequests 8,
 let s := w0.1;
 let tg := w0.2.1;
 let tl := w0.2.2.1;
 let tag := w0.2.2.2.1;
 let a := w0.2.2.2.2.1;
 let cls := w0.2.2.2.2.2.1;
 let op := w0.2.2.2.2.2.2.2.2;
 (Clean s) ∧ (a % 64 = 0) ∧ (TileTxn s tg tl tag) ∧
 let r : LineReq := { src := .txn tg tl, addr := a, op := op, cls := cls }
 (s.mayArrive r = true) ∧ (Config.stackBytes ≤ a)) := by
  dsimp only [TileTxn, TileQuiet, Completed, HeaderFits, CollEnded, Recorded, faultKey, BufferHas, ResetNoted, Clean]
  and_intros <;> decide +kernel

/-- States and operands for the hypotheses of WriteCombining. -/
def wit_WriteCombining : List (State × Nat × Nat × Nat × Nat × Nat × QReq × List QReq × W64 × Line × WcbE) :=
(let q : QReq := { req := rq 64 (.write 0x3 0xAABB), at_ := 0, seq := 4 }
 let e : List WcbE := [wcbe 0, wcbe 128]
 [(tx (chans [(0,{rdy with waiting := [q], wcb := [wcbe 0], seq := 5})] z),0,0,7,1,9,q,[],0x3,0xAABB,wcbe 0),
  (tx (chans [(0,{rdy with waiting := [q,{q with seq := 5}], seq := 6})] z),0,0,7,1,9,q,[{q with seq := 5}],0x3,0xAABB,wcbe 0),
  (tx (chans [(0,{rdy with wcb := [wcbe 0, wcbe 64], slot := 800, seq := 6})] (me (fun m => {m with cfg := setFld m.cfg 16 16 400}) z)),0,1,7,1,9,q,[],0x3,0xAABB,wcbe 64)])

/-- Every clause of WriteCombining has a state and operands that meet all its hypotheses together. -/
theorem witness_WriteCombining :
  (∃ w0 ∈ pick wit_WriteCombining 0,
 let s := w0.1;
 let ch := w0.2.1;
 let tg := w0.2.2.2.1;
 let tl := w0.2.2.2.2.1;
 let tag := w0.2.2.2.2.2.1;
 let q := w0.2.2.2.2.2.2.1;
 let rest := w0.2.2.2.2.2.2.2.1;
 let m := w0.2.2.2.2.2.2.2.2.1;
 let d := w0.2.2.2.2.2.2.2.2.2.1;
 (Clean s) ∧
 let x := s.chan ch
 (x.waiting = q :: rest) ∧ (q.req.op = .write m d) ∧ (q.req.src = .txn tg tl) ∧ (TileTxn s tg tl tag) ∧ (x.lacks q = false) ∧
   (x.older q.req.addr q.seq = false)) ∧
  (∃ w0 ∈ pick wit_WriteCombining 2,
 let s := w0.1;
 let ch := w0.2.1;
 let q := w0.2.2.2.2.2.2.1;
 let rest := w0.2.2.2.2.2.2.2.1;
 (Clean s) ∧
 let x := s.chan ch
 (x.waiting = [] ∨ (x.waiting = q :: rest ∧ (x.lacks q = true ∨ x.older q.req.addr q.seq = true)))) ∧
  (∃ w0 ∈ pick wit_WriteCombining 2,
 let s := w0.1;
 let ch := w0.2.1;
 let line := w0.2.2.1;
 let w := w0.2.2.2.2.2.2.2.2.2.2;
 (Clean s) ∧
 let x := s.chan ch
 (x.entry (lineAddr ch line) = some w) ∧ (fld s.mem.cfg 16 16 ≠ 0) ∧ (w.touched + 2 * fld s.mem.cfg 16 16 ≤ x.slot)) := by
  dsimp only [TileTxn, TileQuiet, Completed, HeaderFits, CollEnded, Recorded, faultKey, BufferHas, ResetNoted, Clean]
  and_intros <;> decide +kernel

/-- States and operands for the hypotheses of LineSlots. -/
def wit_LineSlots : List (State × Nat × Nat × Nat × Nat × QReq × Bool × WcbE) :=
(let q : QReq := { req := rq 64 .read, at_ := 0, seq := 4 }
 let w : QReq := { req := {rq 64 .evict with cls := 2}, at_ := 0, seq := 4 }
 let b := me (fun m => {m with bytes := [(64,1),(70,9),(127,3)]}) z
 [(tx (chans [(0,{rdy with slot := 0})] z),0,7,1,9,q,false,wcbe 0),(tx (chans [(0,{rdy with slot := 5})] z),0,7,1,9,q,false,wcbe 0),
  (tx (chans [(0,{rdy with slot := 5, normal := [q]})] b),0,7,1,9,q,false,wcbe 64),
    (tx (chans [(0,{rdy with slot := 98, urgent := [q], wcb := [wcbe 64]})] b),0,7,1,9,q,false,wcbe 64),
  (tx (chans [(0,{rdy with slot := 98, writes := [w], wcb := [wcbe 0, wcbe 64]})] b),0,7,1,9,w,false,wcbe 64),
    (tx (chans [(0,{rdy with slot := 66, normal := [q]})] b),0,7,1,9,q,true,wcbe 64),
  (tx (chans [(0,{rdy with slot := 35, normal := [q]})] (me (fun m => {m with stks := [(0,{therm := setFld 0 24 3 3})]}) b)),0,7,1,9,q,false,wcbe 64)] ++
  [(tx (chans [(0,{rdy with slot := 5, normal := [{q with at_ := 0}], urgent := [{q with seq := 3, at_ := 4, req := rq 128 .read}]})] b),0,7,1,9,{q with seq := 3, at_ := 4, req := rq 128 .read},false,wcbe 64)])

/-- Every clause of LineSlots has a state and operands that meet all its hypotheses together. -/
theorem witness_LineSlots :
  (∃ w0 ∈ pick wit_LineSlots 0,
 let s := w0.1;
 let ch := w0.2.1;
 (Clean s) ∧ ((s.chan ch).slot % 100 ≠ 99) ∧ ((s.chan ch).st = 2) ∧
 let x := s.chan ch
 let n := levelSlots (fld (s.stack (ch / 128)).therm 24 3)
 let i := x.slot % 100
 (slotCarries i n = false ∨ s.pick ch = none)) ∧
  (∃ w0 ∈ pick wit_LineSlots 2,
 let s := w0.1;
 let ch := w0.2.1;
 let tg := w0.2.2.1;
 let tl := w0.2.2.2.1;
 let tag := w0.2.2.2.2.1;
 let q := w0.2.2.2.2.2.1;
 let starved := w0.2.2.2.2.2.2.1;
 (Clean s) ∧ ((s.chan ch).slot % 100 ≠ 99) ∧ ((s.chan ch).st = 2) ∧
 let x := s.chan ch
 let n := levelSlots (fld (s.stack (ch / 128)).therm 24 3)
 let i := x.slot % 100
 (slotCarries i n = true) ∧ (s.pick ch = some (q, starved)) ∧ (s.mark q.req.addr = .good) ∧ (q.req.op = .read) ∧
   (q.req.src = .txn tg tl) ∧ (TileTxn s tg tl tag)) ∧
  (∃ w0 ∈ pick wit_LineSlots 4,
 let s := w0.1;
 let ch := w0.2.1;
 let q := w0.2.2.2.2.2.1;
 let starved := w0.2.2.2.2.2.2.1;
 let w := w0.2.2.2.2.2.2.2;
 (Clean s) ∧ ((s.chan ch).slot % 100 ≠ 99) ∧ ((s.chan ch).st = 2) ∧
 let x := s.chan ch
 let n := levelSlots (fld (s.stack (ch / 128)).therm 24 3)
 let i := x.slot % 100
 (slotCarries i n = true) ∧ (s.pick ch = some (q, starved)) ∧ (s.mark q.req.addr = .good) ∧ (q.req.op = .evict) ∧
   (x.entry q.req.addr = some w)) := by
  dsimp only [TileTxn, TileQuiet, Completed, HeaderFits, CollEnded, Recorded, faultKey, BufferHas, ResetNoted, Clean]
  and_intros <;> decide +kernel

/-- States and operands for the hypotheses of StackScrub (a part of ScrubAndThrottling). -/
def wit_StackScrub : List (State × Nat × Nat × Nat) :=
(let s := fun (m : Mark) (x : Chan) => chans [(0,x)] (me (fun y => {y with marks := if m = .good then [] else [(lineAddr 0 x.scrub / 8 + 2, m)]}) z)
 let x : Chan := {rdy with slot := 99, scrub := 9437183, ecc := 0xFFFF}
 [(z,0,3,4),(s .good {x with st := 1},0,3,4),(s .poison x,0,3,4),(s .good x,0,3,4),(s (.single 3) x,0,3,4),(s (.double 3 4) x,0,3,4),
   (s (.single 3) {x with scrub := 5, ecc := 2},0,3,4),(s (.double 3 4) {x with scrub := 5, ecc := 2},0,3,4)])

/-- Every clause of StackScrub (a part of ScrubAndThrottling) has a state and operands that meet all its hypotheses together. -/
theorem witness_StackScrub :
  (∃ w0 ∈ pick wit_StackScrub 0,
 let s := w0.1;
 let ch := w0.2.1;
 (Clean s) ∧ ((s.chan ch).slot % 100 ≠ 99)) ∧
  (∃ w0 ∈ pick wit_StackScrub 1,
 let s := w0.1;
 let ch := w0.2.1;
 (Clean s) ∧ ((s.chan ch).slot % 100 = 99) ∧ ((s.chan ch).st ≠ 2) ∧ ((s.chan ch).st ≠ 3)) ∧
  (∃ w0 ∈ pick wit_StackScrub 3,
 let s := w0.1;
 let ch := w0.2.1;
 (Clean s) ∧
 let a := lineAddr ch (s.chan ch).scrub
 ((s.chan ch).slot % 100 = 99) ∧ ((s.chan ch).st = 2 ∨ (s.chan ch).st = 3) ∧ (s.mark a = .good)) ∧
  (∃ w0 ∈ pick wit_StackScrub 4,
 let s := w0.1;
 let ch := w0.2.1;
 let b := w0.2.2.1;
 (Clean s) ∧
 let a := lineAddr ch (s.chan ch).scrub
 ((s.chan ch).slot % 100 = 99) ∧ ((s.chan ch).st = 2 ∨ (s.chan ch).st = 3) ∧ (s.mark a = .single b)) ∧
  (∃ w0 ∈ pick wit_StackScrub 2,
 let s := w0.1;
 let ch := w0.2.1;
 let b := w0.2.2.1;
 let c := w0.2.2.2;
 (Clean s) ∧
 let a := lineAddr ch (s.chan ch).scrub
 ((s.chan ch).slot % 100 = 99) ∧ ((s.chan ch).st = 2 ∨ (s.chan ch).st = 3) ∧ (s.mark a = .double b c ∨ s.mark a = .poison)) := by
  dsimp only [TileTxn, TileQuiet, Completed, HeaderFits, CollEnded, Recorded, faultKey, BufferHas, ResetNoted, Clean]
  and_intros <;> decide +kernel

/-- States and operands for the hypotheses of ThermalThrottling (a part of ScrubAndThrottling). -/
def wit_ThermalThrottling : List (State × Nat × Nat) :=
(let s := syn (me (fun m => {m with stks := (List.range 12).map (fun k => (k,{counting := true}))}) z)
 let c := sl (fun x => {x with running := [(0,{q := 0, index := 0, kind := 0, context := 0, layer := 0, critical := true, final := false, step := 0, tag := 0})]}) s
 let t := me (fun m => {m with thermCfg := setFld m.thermCfg 0 16 5})
 [(z,3,380),(s,3,380),(me (fun m => {m with stks := [(3,{counting := true, sampled := true, therm := 300 + 2 * 2^24})]}) s,3,300),
   (me (fun m => {m with stks := [(3,{counting := true, sampled := true, deferLevel := some 2, therm := 300 + 1 * 2^24})]}) s,3,300),
   (s,3,392),(s,3,408),(s,3,420),(s,11,4095),(t c,3,400),(c,3,400),
   (me (fun m => {m with stks := [(3,{deferLevel := some 2, therm := setBit 0 27 true}),(5,{deferLevel := some 3}),(6,{pend := some 1})]}) s,3,300),
  (me (fun m => {m with stks := [(3,{deferLevel := some 2, therm := setBit 0 27 true})]}) c,3,300)])

/-- Every clause of ThermalThrottling (a part of ScrubAndThrottling) has a state and operands that meet all its hypotheses together. -/
theorem witness_ThermalThrottling :
  (∃ w0 ∈ pick wit_ThermalThrottling 0,
 let s := w0.1;
 let k := w0.2.1;
 (Clean s) ∧ (k < 12) ∧
 let x := s.stack k
 (x.counting = false)) ∧
  (∃ w0 ∈ pick wit_ThermalThrottling 1,
 let s := w0.1;
 let k := w0.2.1;
 let temp := w0.2.2;
 (Clean s) ∧ (k < 12) ∧
 let x := s.stack k
 let cur := x.pend.getD (fld x.therm 24 3)
 (temp < 4096) ∧ (x.counting = true) ∧ (x.deferLevel = none) ∧ (cur < tempLevel temp) ∧ (tempLevel temp < 4) ∧
   (s.critical = false ∨ fld s.mem.thermCfg 0 16 = 0)) ∧
  (∃ w0 ∈ pick wit_ThermalThrottling 8,
 let s := w0.1;
 let k := w0.2.1;
 let temp := w0.2.2;
 (Clean s) ∧ (k < 12) ∧
 let x := s.stack k
 let cur := x.pend.getD (fld x.therm 24 3)
 (temp < 4096) ∧ (x.counting = true) ∧ (x.deferLevel = none) ∧ (cur < tempLevel temp) ∧ (tempLevel temp < 4) ∧ (s.critical = true) ∧
   (fld s.mem.thermCfg 0 16 ≠ 0)) ∧
  (∃ w0 ∈ pick wit_ThermalThrottling 6,
 let s := w0.1;
 let k := w0.2.1;
 let temp := w0.2.2;
 (Clean s) ∧ (k < 12) ∧
 let x := s.stack k
 let cur := x.pend.getD (fld x.therm 24 3)
 (temp < 4096) ∧ (x.counting = true) ∧ (s.synced = true) ∧ (x.deferLevel = none) ∧ (cur < 4) ∧ (tempLevel temp = 4)) ∧
  (∃ w0 ∈ pick wit_ThermalThrottling 2,
 let s := w0.1;
 let k := w0.2.1;
 let temp := w0.2.2;
 (Clean s) ∧ (k < 12) ∧
 let x := s.stack k
 let cur := x.pend.getD (fld x.therm 24 3)
 let prev := fld x.therm 0 12
 let pred := if x.sampled then (clampInt 0 0xFFF ((temp : Int) + 4 * ((temp : Int) - prev))).toNat else temp
 (temp < 4096) ∧ (x.counting = true) ∧ (0 < cur) ∧ (cur < 4) ∧ (temp + s.hyst < levelTemp cur) ∧ (pred + s.hyst < levelTemp cur) ∧
   (∀ d, x.deferLevel = some d → tempLevel temp ≤ d)) ∧
  (∃ w0 ∈ pick wit_ThermalThrottling 3,
 let s := w0.1;
 let k := w0.2.1;
 (Clean s) ∧ (k < 12) ∧
 let x := s.stack k
 (s.synced = true) ∧ (∃ v5 ∈ (s.stack k).deferLevel.toList,
 let d := v5;
 (x.deferLevel = some d))) ∧
  (∃ w0 ∈ pick wit_ThermalThrottling 1,
 let s := w0.1;
 let k := w0.2.1;
 (Clean s) ∧ (k < 12) ∧ (s.synced = true) ∧ (s.critical = false)) := by
  dsimp only [TileTxn, TileQuiet, Completed, HeaderFits, CollEnded, Recorded, faultKey, BufferHas, ResetNoted, Clean]
  and_intros <;> decide +kernel

/-- States and operands for the hypotheses of ChannelTest. -/
def wit_ChannelTest : List (State × Nat) :=
(let q : QReq := { req := rq 64 .read, at_ := 0, seq := 4 }
 let w : QReq := { req := {rq 64 .evict with cls := 2}, at_ := 0, seq := 4 }
 [(chans [(0,{rdy with normal := [q], writes := [w], wcb := [wcbe 64, wcbe 0]})] z,0),(sst 2 (chans [(0,rdy)] z),0),
   (chans [(0,{rdy with st := 3})] z,0),(chans [(0,{rdy with st := 3, tgStatus := 1})] z,0),
   (chans [(0,{rdy with st := 3, tgStatus := 1, tgRange := 0, tgPos := 1000000000})] z,0)])

/-- Every clause of ChannelTest has a state and operands that meet all its hypotheses together. -/
theorem witness_ChannelTest :
  (∃ w0 ∈ pick wit_ChannelTest 0,
 let s := w0.1;
 let ch := w0.2;
 (Clean s) ∧ (s.outside = false) ∧ ((s.chan ch).st = 2)) ∧
  (∃ w0 ∈ pick wit_ChannelTest 1,
 let s := w0.1;
 (Clean s) ∧ (s.outside = true)) ∧
  (∃ w0 ∈ pick wit_ChannelTest 2,
 let s := w0.1;
 let ch := w0.2;
 (Clean s) ∧ ((s.chan ch).st = 3) ∧ (fld (s.chan ch).tgCtrl 1 3 < 6) ∧ (fld (s.chan ch).tgCtrl 4 2 ≠ 3)) ∧
  (∃ w0 ∈ pick wit_ChannelTest 3,
 let s := w0.1;
 let ch := w0.2;
 (Clean s) ∧ (fld (s.chan ch).tgStatus 0 2 = 1) ∧ ((s.chan ch).tgFinished = true)) := by
  dsimp only [TileTxn, TileQuiet, Completed, HeaderFits, CollEnded, Recorded, faultKey, BufferHas, ResetNoted, Clean]
  and_intros <;> decide +kernel

/-- States and operands for the hypotheses of FlagOperations (a part of FlagArea). -/
def wit_FlagOperations : List (State × Nat × Nat × Nat × Nat × Nat × FlagAct × W64 × W64 × W64) :=
(let s := hs (fun h => {h with flags := [(3,0x7FFFFFFFFFFFFFFF),(4,5)], flagIn := [(.txn 7 1, 3, .write 7)]}) z
 [(tx (s),7,1,9,3,0,.read,0,0,0),(tx (flIn s 4 .read),7,1,9,4,1,.read,0,0,0),(tx (flIn s 4 (.write 77)),7,1,9,4,1,.read,77,0,0),
   (tx (flIn s 4 (.atomic 1 2 3)),7,1,9,4,1,.read,77,2,3),(tx (flIn s 3 (.atomic 6 9 5)),7,1,9,3,6,.read,77,9,5),
   (tx (flIn s 4 (.reduceAdd 2)),7,1,9,4,6,.read,2,9,5),
   (tx (flIn s 3 (.reduceAdd 0x7FFFFFFFFFFFFFFF)),7,1,9,3,6,.read,0x7FFFFFFFFFFFFFFF,9,5),
   (tx (flIn s flagCount (.reduceAdd 2)),7,1,9,flagCount,6,.reduceAdd 2,2,9,5)])

/-- Every clause of FlagOperations (a part of FlagArea) has a state and operands that meet all its hypotheses together. -/
theorem witness_FlagOperations :
  (∃ w0 ∈ pick wit_FlagOperations 0,
 let s := w0.1;
 let tg := w0.2.1;
 let tl := w0.2.2.1;
 let tag := w0.2.2.2.1;
 let n := w0.2.2.2.2.1;
 let act := w0.2.2.2.2.2.2.1;
 (Clean s) ∧ (TileTxn s tg tl tag) ∧
 let src : ReqSrc := .txn tg tl
 (s.mayFlag (src, n, act) = false)) ∧
  (∃ w0 ∈ pick wit_FlagOperations 1,
 let s := w0.1;
 let tg := w0.2.1;
 let tl := w0.2.2.1;
 let tag := w0.2.2.2.1;
 let n := w0.2.2.2.2.1;
 (Clean s) ∧ (TileTxn s tg tl tag) ∧
 let src : ReqSrc := .txn tg tl
 let may := fun (a : FlagAct) => s.mayFlag (src, n, a) = true
 (n < flagCount) ∧ (may .read) ∧ (∀ i < 8, s.flagMark (n / 8 * 8 + i) = .good)) ∧
  (∃ w0 ∈ pick wit_FlagOperations 2,
 let s := w0.1;
 let tg := w0.2.1;
 let tl := w0.2.2.1;
 let tag := w0.2.2.2.1;
 let n := w0.2.2.2.2.1;
 let v := w0.2.2.2.2.2.2.2.1;
 (Clean s) ∧ (TileTxn s tg tl tag) ∧
 let src : ReqSrc := .txn tg tl
 let may := fun (a : FlagAct) => s.mayFlag (src, n, a) = true
 (n < flagCount) ∧ (s.flagMark n = .good) ∧ (may (.write v))) ∧
  (∃ w0 ∈ pick wit_FlagOperations 3,
 let s := w0.1;
 let tg := w0.2.1;
 let tl := w0.2.2.1;
 let tag := w0.2.2.2.1;
 let n := w0.2.2.2.2.1;
 let aop := w0.2.2.2.2.2.1;
 let operand := w0.2.2.2.2.2.2.2.2.1;
 let compare := w0.2.2.2.2.2.2.2.2.2;
 (Clean s) ∧ (TileTxn s tg tl tag) ∧
 let src : ReqSrc := .txn tg tl
 let may := fun (a : FlagAct) => s.mayFlag (src, n, a) = true
 (n < flagCount) ∧ (s.flagMark n = .good) ∧ (may (.atomic aop operand compare))) ∧
  (∃ w0 ∈ pick wit_FlagOperations 5,
 let s := w0.1;
 let tg := w0.2.1;
 let tl := w0.2.2.1;
 let tag := w0.2.2.2.1;
 let n := w0.2.2.2.2.1;
 let v := w0.2.2.2.2.2.2.2.1;
 (Clean s) ∧ (TileTxn s tg tl tag) ∧
 let src : ReqSrc := .txn tg tl
 let may := fun (a : FlagAct) => s.mayFlag (src, n, a) = true
 (n < flagCount) ∧ (s.flagMark n = .good) ∧ (may (.reduceAdd v))) ∧
  (∃ w0 ∈ pick wit_FlagOperations 7,
 let s := w0.1;
 let tg := w0.2.1;
 let tl := w0.2.2.1;
 let tag := w0.2.2.2.1;
 let n := w0.2.2.2.2.1;
 let act := w0.2.2.2.2.2.2.1;
 (Clean s) ∧ (TileTxn s tg tl tag) ∧
 let src : ReqSrc := .txn tg tl
 let may := fun (a : FlagAct) => s.mayFlag (src, n, a) = true
 (flagCount ≤ n) ∧ (may act)) := by
  dsimp only [TileTxn, TileQuiet, Completed, HeaderFits, CollEnded, Recorded, faultKey, BufferHas, ResetNoted, Clean]
  and_intros <;> decide +kernel

/-- States and operands for the hypotheses of FlagScrub (a part of FlagArea). -/
def wit_FlagScrub : List (State × Nat × Nat) :=
(let s := fun (m : Mark) => hs (fun h => {h with flagScrub := 3, flags := [(3,5)], flagMarks := if m = .good then [(7,.poison)] else [(3,m),(7,.poison)]}) z
 [(s .good,1,2),(s (.single 1),1,2),(s (.double 1 2),1,2),(s .poison,1,2),
   (hs (fun h => {h with flagScrub := flagCount - 1}) z,1,2)])

/-- Every clause of FlagScrub (a part of FlagArea) has a state and operands that meet all its hypotheses together. -/
theorem witness_FlagScrub :
  (∃ w0 ∈ pick wit_FlagScrub 0,
 let s := w0.1;
 (Clean s)) := by
  dsimp only [TileTxn, TileQuiet, Completed, HeaderFits, CollEnded, Recorded, faultKey, BufferHas, ResetNoted, Clean]
  and_intros <;> decide +kernel

/-- States and operands for the hypotheses of PortStates (a part of PortsAndLinks). -/
def wit_PortStates : List (State × Nat × Nat × Nat × Nat × Nat × W64) :=
(let b := fun (x : Port) => ports [(2,x),(3,{up with rxSeq := 4})] (fb (fun f => {f with id := 4}) z)
 ([0,1,2,4,5].flatMap fun st => [true,false].map fun e => (b {st := st, enable := e, signal := true, rxSeq := 5, prbsErr := [(1,0x100000005)]},2,7,3,511,31,(0x1FFFFF : W64))) ++
 [(b {st := 2, peer := setBit (BitVec.ofNat 64 (7 + 3*2^14)) 20 true},2,7,3,511,31,0),
   (b {st := 2, okGot := true, peer := setBit (BitVec.ofNat 64 (7 + 3*2^14)) 20 true},2,7,3,5,0,0),
   (b {st := 2, okGot := true, peer := setBit (BitVec.ofNat 64 (7 + 4*2^14)) 20 true},2,7,3,5,0,0),
  (b {st := 2, matched := true},2,7,3,5,0,0),(sst 2 (b {st := 3}),2,7,3,5,0,0),(sst 3 (b {st := 1}),2,7,3,5,0,0),
    (b {st := 0, enable := false},2,16383,63,5,0,9),(b {st := 0, signal := false},38,1,1,5,0,9),
  (esc' (b {st := 4}) (fun e => {e with hsCfg := setFld (setFld 0 0 2 2) 2 6 2}),2,7,3,5,0,0)])

/-- Every clause of PortStates (a part of PortsAndLinks) has a state and operands that meet all its hypotheses together. -/
theorem witness_PortStates :
  (∃ w0 ∈ pick wit_PortStates 2,
 let s := w0.1;
 let p := w0.2.1;
 let m := w0.2.2.1;
 let q := w0.2.2.2.1;
 let rack := w0.2.2.2.2.1;
 let slot := w0.2.2.2.2.2.1;
 (Clean s) ∧ (m < 2 ^ 14) ∧ (q < 64) ∧ (rack < 512) ∧ (slot < 32) ∧
 let x := s.port p
 (x.st = 1)) ∧
  (∃ w0 ∈ pick wit_PortStates 4,
 let s := w0.1;
 let p := w0.2.1;
 let m := w0.2.2.1;
 let q := w0.2.2.2.1;
 let rack := w0.2.2.2.2.1;
 let slot := w0.2.2.2.2.2.1;
 (Clean s) ∧ (m < 2 ^ 14) ∧ (q < 64) ∧ (rack < 512) ∧ (slot < 32) ∧
 let x := s.port p
 (x.st = 2) ∧ (s.moduleId = 0x3FFF ∨ bitOf x.peer 20 = false)) ∧
  (∃ w0 ∈ pick wit_PortStates 10,
 let s := w0.1;
 let p := w0.2.1;
 let m := w0.2.2.1;
 let q := w0.2.2.2.1;
 let rack := w0.2.2.2.2.1;
 let slot := w0.2.2.2.2.2.1;
 (Clean s) ∧ (m < 2 ^ 14) ∧ (q < 64) ∧ (rack < 512) ∧ (slot < 32) ∧
 let x := s.port p
 (x.st = 2) ∧ (s.moduleId ≠ 0x3FFF) ∧ (bitOf x.peer 20 = true) ∧ (fld x.peer 0 20 = m + q * 2 ^ 14) ∧ (x.okGot = false)) ∧
  (∃ w0 ∈ pick wit_PortStates 11,
 let s := w0.1;
 let p := w0.2.1;
 let m := w0.2.2.1;
 let q := w0.2.2.2.1;
 let rack := w0.2.2.2.2.1;
 let slot := w0.2.2.2.2.2.1;
 (Clean s) ∧ (m < 2 ^ 14) ∧ (q < 64) ∧ (rack < 512) ∧ (slot < 32) ∧
 let x := s.port p
 (x.st = 2) ∧ (s.moduleId ≠ 0x3FFF) ∧ (bitOf x.peer 20 = true) ∧ (fld x.peer 0 20 = m + q * 2 ^ 14) ∧ (x.okGot = true)) ∧
  (∃ w0 ∈ pick wit_PortStates 12,
 let s := w0.1;
 let p := w0.2.1;
 let m := w0.2.2.1;
 let q := w0.2.2.2.1;
 let rack := w0.2.2.2.2.1;
 let slot := w0.2.2.2.2.2.1;
 (Clean s) ∧ (m < 2 ^ 14) ∧ (q < 64) ∧ (rack < 512) ∧ (slot < 32) ∧
 let x := s.port p
 (x.st = 2) ∧ (s.moduleId ≠ 0x3FFF) ∧ (bitOf x.peer 20 = true) ∧ (fld x.peer 0 20 ≠ m + q * 2 ^ 14)) ∧
  (∃ w0 ∈ pick wit_PortStates 0,
 let s := w0.1;
 let p := w0.2.1;
 let m := w0.2.2.1;
 let q := w0.2.2.2.1;
 let rack := w0.2.2.2.2.1;
 let slot := w0.2.2.2.2.2.1;
 (Clean s) ∧ (m < 2 ^ 14) ∧ (q < 64) ∧ (rack < 512) ∧ (slot < 32) ∧
 let x := s.port p
 (x.st ≠ 2)) ∧
  (∃ w0 ∈ pick wit_PortStates 0,
 let s := w0.1;
 let p := w0.2.1;
 let m := w0.2.2.1;
 let q := w0.2.2.2.1;
 let rack := w0.2.2.2.2.1;
 let slot := w0.2.2.2.2.2.1;
 (Clean s) ∧ (m < 2 ^ 14) ∧ (q < 64) ∧ (rack < 512) ∧ (slot < 32) ∧
 let x := s.port p
 (x.st ≠ 3)) ∧
  (∃ w0 ∈ pick wit_PortStates 0,
 let s := w0.1;
 let p := w0.2.1;
 let m := w0.2.2.1;
 let q := w0.2.2.2.1;
 let rack := w0.2.2.2.2.1;
 let slot := w0.2.2.2.2.2.1;
 (Clean s) ∧ (m < 2 ^ 14) ∧ (q < 64) ∧ (rack < 512) ∧ (slot < 32) ∧
 let x := s.port p
 (x.st = 0 ∨ x.st = 4)) ∧
  (∃ w0 ∈ pick wit_PortStates 2,
 let s := w0.1;
 let p := w0.2.1;
 let m := w0.2.2.1;
 let q := w0.2.2.2.1;
 let rack := w0.2.2.2.2.1;
 let slot := w0.2.2.2.2.2.1;
 (Clean s) ∧ (m < 2 ^ 14) ∧ (q < 64) ∧ (rack < 512) ∧ (slot < 32) ∧
 let x := s.port p
 (x.st ≠ 0) ∧ (x.st ≠ 4) ∧ (x.st ≠ 3 ∨ s.outside = true)) ∧
  (∃ w0 ∈ pick wit_PortStates 8,
 let s := w0.1;
 let p := w0.2.1;
 let m := w0.2.2.1;
 let q := w0.2.2.2.1;
 let rack := w0.2.2.2.2.1;
 let slot := w0.2.2.2.2.2.1;
 (Clean s) ∧ (m < 2 ^ 14) ∧ (q < 64) ∧ (rack < 512) ∧ (slot < 32) ∧
 let x := s.port p
 (x.st = 5)) ∧
  (∃ w0 ∈ pick wit_PortStates 6,
 let s := w0.1;
 let p := w0.2.1;
 let m := w0.2.2.1;
 let q := w0.2.2.2.1;
 let rack := w0.2.2.2.2.1;
 let slot := w0.2.2.2.2.2.1;
 (Clean s) ∧ (m < 2 ^ 14) ∧ (q < 64) ∧ (rack < 512) ∧ (slot < 32) ∧
 let x := s.port p
 (x.st = 4)) ∧
  (∃ w0 ∈ pick wit_PortStates 0,
 let s := w0.1;
 let p := w0.2.1;
 let m := w0.2.2.1;
 let q := w0.2.2.2.1;
 let rack := w0.2.2.2.2.1;
 let slot := w0.2.2.2.2.2.1;
 (Clean s) ∧ (m < 2 ^ 14) ∧ (q < 64) ∧ (rack < 512) ∧ (slot < 32) ∧
 let x := s.port p
 (x.st = 0)) ∧
  (∃ w0 ∈ pick wit_PortStates 10,
 let s := w0.1;
 let p := w0.2.1;
 let m := w0.2.2.1;
 let q := w0.2.2.2.1;
 let rack := w0.2.2.2.2.1;
 let slot := w0.2.2.2.2.2.1;
 let v := w0.2.2.2.2.2.2;
 (Clean s) ∧ (m < 2 ^ 14) ∧ (q < 64) ∧ (rack < 512) ∧ (slot < 32) ∧
 let x := s.port p
 (x.st = 2) ∧ (s.outside = false) ∧ (bitOf v 20 = false)) ∧
  (∃ w0 ∈ pick wit_PortStates 14,
 let s := w0.1;
 let p := w0.2.1;
 let m := w0.2.2.1;
 let q := w0.2.2.2.1;
 let rack := w0.2.2.2.2.1;
 let slot := w0.2.2.2.2.2.1;
 (Clean s) ∧ (m < 2 ^ 14) ∧ (q < 64) ∧ (rack < 512) ∧ (slot < 32) ∧
 let x := s.port p
 (s.outside = true) ∧ (x.st ≠ 0) ∧ (x.st ≠ 4)) := by
  dsimp only [TileTxn, TileQuiet, Completed, HeaderFits, CollEnded, Recorded, faultKey, BufferHas, ResetNoted, Clean]
  and_intros <;> decide +kernel

/-- States and operands for the hypotheses of LinkDown (a part of PortsAndLinks). -/
def wit_LinkDown : List (State × Nat) :=
(let q : FabPkt := {zpk with dest := 7}
 let b := ports [(2,{up with queue := [{pkt := q, vc := 1, age := 0}], retry := [txc 3 true, txc 4 false], flight := [txc 5 true], credits := [(2,3)], halts := [hp]}),(3,{up with rxSeq := 4})] z
 [(b,2),(sst 2 b,2),(sst 3 b,2),(ports [(2,up)] z,2)])

/-- Every clause of LinkDown (a part of PortsAndLinks) has a state and operands that meet all its hypotheses together. -/
theorem witness_LinkDown :
  (∃ w0 ∈ pick wit_LinkDown 0,
 let s := w0.1;
 let p := w0.2;
 (Clean s) ∧ ((s.port p).st = 3)) := by
  dsimp only [TileTxn, TileQuiet, Completed, HeaderFits, CollEnded, Recorded, faultKey, BufferHas, ResetNoted, Clean]
  and_intros <;> decide +kernel

/-- States and operands for the hypotheses of LinkRetry. -/
def wit_LinkRetry : List (State × Nat × Nat × List Byte × List Nat × CtlBlock) :=
(let b := fun (x : Port) => ports [(2,x),(3,{up with rxSeq := 4})] z
 let bd : Line := (pktBodies {qp with payload := [1,2,3,4,5,6,7]}).headD 0
 let bd1 : Line := (pktBodies {qp with payload := [1,2]}).headD 0
 let r := fun (x : Port) (c : Cell) (e : List Nat) => (b x,2,4,cellBytes {c with credits := [0,3,0,0,0,255]},e,CtlBlock.training)
 [r {up with rxSeq := 4095, nakSent := some 4095, rx := [(2,[bd])], retry := [txc 3 true, txc 4 false, txc 5 true]} {cl 4095 with ack := 4} [0,3],
  r {up with rxSeq := 4095} {cl 4095 with body := bd} [], r {up with rxSeq := 4095} {cl 4095 with body := bd1} [],
    r {up with rxSeq := 5} {cl 5 with type := 3, body := bd1} [],
  r {up with rxSeq := 5} {cl 5 with type := 2, circuit := 9, body := bd1} [], r {up with rxSeq := 5, nakSent := some 5} (cl 6) [],
    r {up with rxSeq := 5} (cl 6) [], r {up with rxSeq := 6} {cl 6 with type := 9} [],
  r {up with rxSeq := 6} {cl 6 with vc := 7} [], r {up with rxSeq := 6} (cl 6) [16],
    r {up with rxSeq := 6, cirUsed := [(1,3),(2,9)]} {cl 6 with type := 0} [2,15],
  r {up with rxSeq := 6, retry := [txc 3 true, txc 4 false, txc 5 true]} {cl 0 with type := 0, nak := true, ack := 4} [],
  r {up with nakRun := 2, nakSeq := 4} (cl 6) [], r {up with nakRun := 7, nakSeq := 4} (cl 6) [],
    r {up with link := 0xFFFF00000000} (cl 6) [16]])

/-- Every clause of LinkRetry has a state and operands that meet all its hypotheses together. -/
theorem witness_LinkRetry :
  (∃ w0 ∈ pick wit_LinkRetry 10,
 let s := w0.1;
 let p := w0.2.1;
 let bytes := w0.2.2.2.1;
 let errs := w0.2.2.2.2.1;
 (Clean s) ∧ ((s.port p).st = 3) ∧
 let c := cellOf bytes
 let fine := (∀ e ∈ errs, e ≤ 15) ∧ cellCrcOk bytes = true
 let known := c.type < 4 ∧ (c.type = 1 → c.vc < 6)
 (fine) ∧ (c.nak = false) ∧ (known) ∧ (c.type = 0)) ∧
  (∃ w0 ∈ pick wit_LinkRetry 0,
 let s := w0.1;
 let p := w0.2.1;
 let bytes := w0.2.2.2.1;
 let errs := w0.2.2.2.2.1;
 (Clean s) ∧ ((s.port p).st = 3) ∧
 let x := s.port p
 let c := cellOf bytes
 let fine := (∀ e ∈ errs, e ≤ 15) ∧ cellCrcOk bytes = true
 let known := c.type < 4 ∧ (c.type = 1 → c.vc < 6)
 let key := if c.type = 2 then 6 + c.circuit else c.vc
 let bodies := aget [] x.rx key ++ [c.body]
 (fine) ∧ (c.nak = false) ∧ (known) ∧ (c.seq = x.rxSeq) ∧ (c.type = 1 ∨ c.type = 2) ∧
   (bodies.length < cellsNeeded (bodies.headD 0))) ∧
  (∃ w0 ∈ pick wit_LinkRetry 2,
 let s := w0.1;
 let p := w0.2.1;
 let bytes := w0.2.2.2.1;
 let errs := w0.2.2.2.2.1;
 (Clean s) ∧ ((s.port p).st = 3) ∧
 let x := s.port p
 let c := cellOf bytes
 let fine := (∀ e ∈ errs, e ≤ 15) ∧ cellCrcOk bytes = true
 let known := c.type < 4 ∧ (c.type = 1 → c.vc < 6)
 let key := if c.type = 2 then 6 + c.circuit else c.vc
 let bodies := aget [] x.rx key ++ [c.body]
 (fine) ∧ (c.nak = false) ∧ (known) ∧ (c.seq = x.rxSeq) ∧ (c.type = 1 ∨ c.type = 2) ∧
   (cellsNeeded (bodies.headD 0) ≤ bodies.length)) ∧
  (∃ w0 ∈ pick wit_LinkRetry 3,
 let s := w0.1;
 let p := w0.2.1;
 let bytes := w0.2.2.2.1;
 let errs := w0.2.2.2.2.1;
 (Clean s) ∧ ((s.port p).st = 3) ∧
 let x := s.port p
 let c := cellOf bytes
 let fine := (∀ e ∈ errs, e ≤ 15) ∧ cellCrcOk bytes = true
 let known := c.type < 4 ∧ (c.type = 1 → c.vc < 6)
 (fine) ∧ (c.nak = false) ∧ (known) ∧ (c.seq = x.rxSeq) ∧ (c.type = 3)) ∧
  (∃ w0 ∈ pick wit_LinkRetry 5,
 let s := w0.1;
 let p := w0.2.1;
 let bytes := w0.2.2.2.1;
 let errs := w0.2.2.2.2.1;
 (Clean s) ∧ ((s.port p).st = 3) ∧
 let x := s.port p
 let c := cellOf bytes
 let fine := (∀ e ∈ errs, e ≤ 15) ∧ cellCrcOk bytes = true
 let known := c.type < 4 ∧ (c.type = 1 → c.vc < 6)
 (fine) ∧ (c.nak = false) ∧ (¬ known ∨ (c.seq ≠ x.rxSeq ∧ c.type ≠ 0))) ∧
  (∃ w0 ∈ pick wit_LinkRetry 9,
 let s := w0.1;
 let p := w0.2.1;
 let bytes := w0.2.2.2.1;
 let errs := w0.2.2.2.2.1;
 (Clean s) ∧ ((s.port p).st = 3) ∧
 let fine := (∀ e ∈ errs, e ≤ 15) ∧ cellCrcOk bytes = true
 (¬ fine)) ∧
  (∃ w0 ∈ pick wit_LinkRetry 11,
 let s := w0.1;
 let p := w0.2.1;
 let bytes := w0.2.2.2.1;
 let errs := w0.2.2.2.2.1;
 (Clean s) ∧ ((s.port p).st = 3) ∧
 let x := s.port p
 let c := cellOf bytes
 let fine := (∀ e ∈ errs, e ≤ 15) ∧ cellCrcOk bytes = true
 let known := c.type < 4 ∧ (c.type = 1 → c.vc < 6)
 (fine) ∧ (c.nak = true) ∧ (c.type = 0) ∧ (known) ∧ (x.nakRun = 0) ∧ (1 < s.retryLimit)) ∧
  (∃ w0 ∈ pick wit_LinkRetry 0,
 let s := w0.1;
 let p := w0.2.1;
 (Clean s) ∧ ((s.port p).st = 3) ∧
 let x := s.port p
 (x.nakRun = 0) ∧ (1 < s.retryLimit)) ∧
  (∃ w0 ∈ pick wit_LinkRetry 13,
 let s := w0.1;
 let p := w0.2.1;
 let n := w0.2.2.1;
 (Clean s) ∧ ((s.port p).st = 3) ∧
 let x := s.port p
 (x.nakRun ≠ 0) ∧ (x.nakSeq = n) ∧ (s.retryLimit ≤ x.nakRun + 1)) := by
  dsimp only [TileTxn, TileQuiet, Completed, HeaderFits, CollEnded, Recorded, faultKey, BufferHas, ResetNoted, Clean]
  and_intros <;> decide +kernel

/-- States and operands for the hypotheses of PortCellTime. -/
def wit_PortCellTime : List (State × Nat) :=
(let b := fun (x : Port) => ports [(2,x),(3,{up with rxSeq := 4})] (fb (fun f => {f with spent := [(3,4096),(9,17)]}) z)
 let it : PortItem := {pkt := qp, vc := 1, age := 0}
 [(b {up with resend := [txc 3 true, txc 4 false], retry := [txc 3 true, txc 4 false], freed := [(1,300),(5,2),(7,9)]},2),
   (b {up with resend := [txc 3 true], sendNak := true},2),(b {up with retry := List.replicate 3072 (txc 4 false)},2),
  (b {up with halts := [hp], txSeq := 4095},2),(b up,2),(b {up with queue := [it], txSeq := 4095},2),
    (b {up with queue := [{it with pkt := {qp with cls := 1}}] ++ List.replicate 20 it, cellTime := 5},2),
  (b {up with queue := [it], credits := [(1,256)]},2),(b {up with flight := [txc 4 false, txc 5 true]},2),
    (b {up with flight := [txc 4 false, txc 5 true], credits := [(2,256)]},2),
  (fb (fun f => {f with ccCfg := setFld f.ccCfg 0 8 1}) (b {up with queue := List.replicate 3 {it with pkt := {qp with cls := 1}}}),2),
  (fb (fun f => {f with cir := [(2060,1 + 2*2^2 + 3*2^8),(2061,0xFFFF)]}) (b {up with cirFlight := [(3,[txc 4 false, txc 5 true])], cellTime := 5}),2),(fb (fun f => {f with cir := [(2060,1 + 2*2^2 + 3*2^8),(2061,0xFFFF)]}) (b {up with cirQueue := [qcir], cellTime := 5}),2),(b {st := 0, signal := true},2),(b {st := 0},2),(b {st := 1},2),(b {st := 4},2),(b {st := 2, matched := true},2),(b {st := 2, cellTime := 5},2),(b {st := 5},2),(b {st := 5, prbs := 0x0FF8},2),(b {st := 5, prbs := 0x0BF9, gens := [(0,5),(1,77),(2,130)]},2)])

/-- Every clause of PortCellTime has a state and operands that meet all its hypotheses together. -/
theorem witness_PortCellTime :
  (∃ w0 ∈ pick wit_PortCellTime 0,
 let s := w0.1;
 let p := w0.2;
 (Clean s) ∧
 let x := s.port p
 (x.st = 3) ∧ (∃ v4 ∈ ([(x.resend.head?, x.resend.drop 1),(x.flight.head?,
   x.flight.drop 1)].filterMap (fun y => y.1.map (fun d => (d, y.2)))),
 let d := v4.1;
 let r := v4.2;
 (x.resend = d :: r))) ∧
  (∃ w0 ∈ pick wit_PortCellTime 2,
 let s := w0.1;
 let p := w0.2;
 (Clean s) ∧
 let x := s.port p
 (x.st = 3) ∧ (x.resend = []) ∧ (3072 ≤ x.retry.length)) ∧
  (∃ w0 ∈ pick wit_PortCellTime 3,
 let s := w0.1;
 let p := w0.2;
 (Clean s) ∧
 let x := s.port p
 (x.st = 3) ∧ (x.resend = []) ∧ (x.retry.length < 3072) ∧ (∃ v6 ∈ (x.halts.head?.toList.map (fun d => (d, x.halts.drop 1))),
 let h := v6.1;
 let hs := v6.2;
 (x.halts = h :: hs))) ∧
  (∃ w0 ∈ pick wit_PortCellTime 11,
 let s := w0.1;
 let p := w0.2;
 (Clean s) ∧
 let x := s.port p
 (x.st = 3) ∧ (x.resend = []) ∧ (x.retry.length < 3072) ∧ (x.halts = []) ∧
   (∃ v7 ∈ (if aget [] x.cirFlight ((s.slotOwners p (x.cellTime % 128)).head?.getD 0) = [] then x.cirQueue.flatMap (fun q => (mkCells 2 0 ((s.slotOwners p (x.cellTime % 128)).head?.getD 0) q).head?.toList.map (fun d => ((s.slotOwners p (x.cellTime % 128)).head?.getD 0, (s.slotOwners p (x.cellTime % 128)).drop 1, d, (mkCells 2 0 ((s.slotOwners p (x.cellTime % 128)).head?.getD 0) q).drop 1))) else []) ++ ((s.slotOwners p (x.cellTime % 128)).head?.toList.flatMap (fun c => (aget [] x.cirFlight c).head?.toList.map (fun d => (c, (s.slotOwners p (x.cellTime % 128)).drop 1, d, (aget [] x.cirFlight c).drop 1)))),
 let c := v7.1;
 let cs := v7.2.1;
 let d := v7.2.2.1;
 let r := v7.2.2.2;
 (s.slotOwners p (x.cellTime % 128) = c :: cs) ∧ (aget 0 x.cirUsed c < 64) ∧ (aget [] x.cirFlight c = d :: r) ∧
   (d.pkt.inPort ≠ p))) ∧
  (∃ w0 ∈ pick wit_PortCellTime 12,
 let s := w0.1;
 let p := w0.2;
 (Clean s) ∧
 let x := s.port p
 (x.st = 3) ∧ (x.resend = []) ∧ (x.retry.length < 3072) ∧ (x.halts = []) ∧
   (∃ v7 ∈ (if aget [] x.cirFlight ((s.slotOwners p (x.cellTime % 128)).head?.getD 0) = [] then x.cirQueue.flatMap (fun q => (mkCells 2 0 ((s.slotOwners p (x.cellTime % 128)).head?.getD 0) q).head?.toList.map (fun d => ((s.slotOwners p (x.cellTime % 128)).head?.getD 0, (s.slotOwners p (x.cellTime % 128)).drop 1, d, (mkCells 2 0 ((s.slotOwners p (x.cellTime % 128)).head?.getD 0) q).drop 1))) else []) ++ ((s.slotOwners p (x.cellTime % 128)).head?.toList.flatMap (fun c => (aget [] x.cirFlight c).head?.toList.map (fun d => (c, (s.slotOwners p (x.cellTime % 128)).drop 1, d, (aget [] x.cirFlight c).drop 1)))),
 let c := v7.1;
 let cs := v7.2.1;
 let d := v7.2.2.1;
 let r := v7.2.2.2;
 (s.slotOwners p (x.cellTime % 128) = c :: cs) ∧ (aget 0 x.cirUsed c < 64) ∧ (∃ v10 ∈ x.cirQueue,
 let q := v10;
 (aget [] x.cirFlight c = []) ∧ (x.cirQueue.find? (fun q => q.circuit == c && (q.inPort != 63 || s.cirOpen p c)) = some q) ∧
   (q.inPort ≠ p) ∧ (mkCells 2 0 c q = d :: r)))) ∧
  (∃ w0 ∈ pick wit_PortCellTime 8,
 let s := w0.1;
 let p := w0.2;
 (Clean s) ∧
 let x := s.port p
 (x.st = 3) ∧ (x.resend = []) ∧ (x.retry.length < 3072) ∧ (x.halts = []) ∧ (s.circuitCell p = none) ∧
   (∃ v8 ∈ ([(x.resend.head?, x.resend.drop 1),(x.flight.head?, x.flight.drop 1)].filterMap (fun y => y.1.map (fun d => (d, y.2)))),
 let d := v8.1;
 let r := v8.2;
 (x.flight = d :: r) ∧ (aget 0 x.credits d.cell.vc < 256))) ∧
  (∃ w0 ∈ pick wit_PortCellTime 9,
 let s := w0.1;
 let p := w0.2;
 (Clean s) ∧
 let x := s.port p
 (x.st = 3) ∧ (x.resend = []) ∧ (x.retry.length < 3072) ∧ (x.halts = []) ∧ (s.circuitCell p = none) ∧
   (∃ v8 ∈ ([(x.resend.head?, x.resend.drop 1),(x.flight.head?, x.flight.drop 1)].filterMap (fun y => y.1.map (fun d => (d, y.2)))),
 let d := v8.1;
 let r := v8.2;
 (x.flight = d :: r) ∧ (256 ≤ aget 0 x.credits d.cell.vc))) ∧
  (∃ w0 ∈ pick wit_PortCellTime 4,
 let s := w0.1;
 let p := w0.2;
 (Clean s) ∧
 let x := s.port p
 (x.st = 3) ∧ (x.resend = []) ∧ (x.retry.length < 3072) ∧ (x.halts = []) ∧ (s.circuitCell p = none) ∧ (x.flight = []) ∧
   (x.nextItem = none)) ∧
  (∃ w0 ∈ pick wit_PortCellTime 5,
 let s := w0.1;
 let p := w0.2;
 (Clean s) ∧
 let x := s.port p
 (x.st = 3) ∧ (x.resend = []) ∧ (x.retry.length < 3072) ∧ (x.halts = []) ∧ (s.circuitCell p = none) ∧ (∃ v8 ∈ x.nextItem.toList,
 let i := v8;
 (x.flight = []) ∧ (x.nextItem = some i))) ∧
  (∃ w0 ∈ pick wit_PortCellTime 13,
 let s := w0.1;
 let p := w0.2;
 (Clean s) ∧
 let x := s.port p
 (x.st = 0)) ∧
  (∃ w0 ∈ pick wit_PortCellTime 15,
 let s := w0.1;
 let p := w0.2;
 (Clean s) ∧
 let x := s.port p
 (x.st = 1 ∨ x.st = 4)) ∧
  (∃ w0 ∈ pick wit_PortCellTime 17,
 let s := w0.1;
 let p := w0.2;
 (Clean s) ∧
 let x := s.port p
 (x.st = 2)) ∧
  (∃ w0 ∈ pick wit_PortCellTime 19,
 let s := w0.1;
 let p := w0.2;
 (Clean s) ∧
 let x := s.port p
 (x.st = 5) ∧ (bitOf x.prbs 11 = false)) ∧
  (∃ w0 ∈ pick wit_PortCellTime 20,
 let s := w0.1;
 let p := w0.2;
 (Clean s) ∧
 let x := s.port p
 (x.st = 5) ∧ (bitOf x.prbs 11 = true) ∧ (fld x.prbs 0 3 < 5)) := by
  dsimp only [TileTxn, TileQuiet, Completed, HeaderFits, CollEnded, Recorded, faultKey, BufferHas, ResetNoted, Clean]
  and_intros <;> decide +kernel

/-- States and operands for the hypotheses of Routing. -/
def wit_Routing : List (State × FabPkt × Nat) :=
(let q : FabPkt := {zpk with dest := 7, src := 4, op := .write, payload := [1], cirPort := 63}
 let e := fun (v : List Nat) => v.foldl (fun a i => setBit a i true) (0 : W64)
 let b := fun (r : W64) => fb (fun f => {f with id := setFld 4 28 16 5, rt := [(7,r),(4, e [42,39])], switchQ := [(63,q)], ports := [(2,up),(5,up)]}) z
 let q2 : FabPkt := {zpk with dest := 7, src := 9, op := .write, slice := 5, payload := [1], cirPort := 63}
 let me_ := fun (n : Nat) (p : FabPkt) (pt : Nat) => fb (fun f => {f with id := setFld (BitVec.ofNat 64 n) 28 16 5, rt := [(7, e [42,39]),(8, e [42,40,2,5])], switchQ := [(pt,p)], ports := [(2,up),(5,up)]}) z
 let qc : FabPkt := {q2 with op := .circuitData, circuit := 3, cls := 3}
 [(b 0,q,63),(b (e [42,2]),q,63),(b (e [42,40,2,5]),q,63),(b (e [42,40,5]),q,63),(me_ 7 q2 2,q2,2),
   (me_ 9 {q2 with dest := 8} 2,{q2 with dest := 8},2),(me_ 6 {q2 with dest := 8, hops := 3} 2,{q2 with dest := 8, hops := 3},2),
  (sst 2 (me_ 7 {q2 with srcEngine := true, srcTile := 0x1001, stepLo := 9} 2),{q2 with srcEngine := true, srcTile := 0x1001, stepLo := 9},2),
  (fb (fun f => {f with cir := [(2060, BitVec.ofNat 64 (1 + 5*2^2 + 2*2^8))]}) (me_ 9 {qc with dest := 8} 2),{qc with dest := 8},2),
  (fb (fun f => {f with switchQ := [(63,{q with tag := 1}),(63,q)]}) (b 0),q,63),
  (ports [(2,{st := 1}),(5,{st := 1})] (b (e [42,40,2,5])),q,63),(ports [(2,{st := 1}),
    (5,{st := 1})] (me_ 9 {q2 with dest := 8, src := 6} 2),{q2 with dest := 8, src := 6},2),
  (me_ 9 {qc with dest := 8} 2,{qc with dest := 8},2),
  (fb (fun f => {f with cir := [(2060, BitVec.ofNat 64 (1 + 5*2^2 + 2*2^8))]}) (ports [(5,{st := 1})] (me_ 9 {qc with dest := 8} 2)),{qc with dest := 8},2),
  (fb (fun f => {f with cir := [(2060, BitVec.ofNat 64 (1 + 2 + 5*2^2 + 2*2^8))], rt := [(9,e [42,39]),(8, e [42,40,2,5])]}) (me_ 9 {qc with dest := 8} 2),{qc with dest := 8},2)])

/-- Every clause of Routing has a state and operands that meet all its hypotheses together. -/
theorem witness_Routing :
  (∃ w0 ∈ pick wit_Routing 9,
 let s := w0.1;
 let p := w0.2.1;
 let port := w0.2.2;
 (Clean s) ∧ (isRequest p.op = true) ∧ (s.mayRoute port p = false)) ∧
  (∃ w0 ∈ pick wit_Routing 0,
 let s := w0.1;
 let p := w0.2.1;
 let port := w0.2.2;
 (Clean s) ∧ (isRequest p.op = true) ∧ (s.mayRoute port p = true) ∧
 let e := s.route p.dest
 (p.op ≠ .circuitData) ∧ (port = 63) ∧ (p.src = s.moduleId) ∧ (bitOf e 42 = false)) ∧
  (∃ w0 ∈ pick wit_Routing 1,
 let s := w0.1;
 let p := w0.2.1;
 let port := w0.2.2;
 (Clean s) ∧ (isRequest p.op = true) ∧ (s.mayRoute port p = true) ∧
 let e := s.route p.dest
 (p.op ≠ .circuitData) ∧ (port = 63) ∧ (p.src = s.moduleId) ∧ (bitOf e 42 = true) ∧ (bitOf e 39 = true ∨ rtPorts e ≠ []) ∧
   (bitOf e 40 = false)) ∧
  (∃ w0 ∈ pick wit_Routing 2,
 let s := w0.1;
 let p := w0.2.1;
 let port := w0.2.2;
 (Clean s) ∧ (isRequest p.op = true) ∧ (s.mayRoute port p = true) ∧
 let e := s.route p.dest
 let up := (s.port (outPort e p)).st = 3
 (p.op ≠ .circuitData) ∧ (port = 63) ∧ (bitOf e 42 = true) ∧ (bitOf e 39 = false) ∧ (rtPorts e ≠ []) ∧ (bitOf e 40 = true) ∧ (up)) ∧
  (∃ w0 ∈ pick wit_Routing 10,
 let s := w0.1;
 let p := w0.2.1;
 let port := w0.2.2;
 (Clean s) ∧ (isRequest p.op = true) ∧ (s.mayRoute port p = true) ∧
 let e := s.route p.dest
 let up := (s.port (outPort e p)).st = 3
 (p.op ≠ .circuitData) ∧ (port = 63) ∧ (bitOf e 42 = true) ∧ (bitOf e 39 = false) ∧ (rtPorts e ≠ []) ∧ (bitOf e 40 = true) ∧ (¬ up) ∧
   (p.src = s.moduleId)) ∧
  (∃ w0 ∈ pick wit_Routing 4,
 let s := w0.1;
 let p := w0.2.1;
 let port := w0.2.2;
 (Clean s) ∧ (isRequest p.op = true) ∧ (s.mayRoute port p = true) ∧ (p.op ≠ .circuitData) ∧ (port ≠ 63) ∧ (p.dest = s.moduleId) ∧
   (bitOf (s.route s.moduleId) 39 = true) ∧ (p.slice = BitVec.ofNat 16 (fld s.fab.id 28 16)) ∧
   (s.sliceSt ≠ 2 ∨ p.srcEngine = false ∨ (p.stepLo = BitVec.ofNat 32 s.slice.step.toNat ∧
   p.epoch = BitVec.ofNat 16 s.slice.epoch.toNat))) ∧
  (∃ w0 ∈ pick wit_Routing 7,
 let s := w0.1;
 let p := w0.2.1;
 let port := w0.2.2;
 (Clean s) ∧ (isRequest p.op = true) ∧ (s.mayRoute port p = true) ∧ (p.op ≠ .circuitData) ∧ (port ≠ 63) ∧ (p.dest = s.moduleId) ∧
   (bitOf (s.route s.moduleId) 39 = true) ∧ (p.slice = BitVec.ofNat 16 (fld s.fab.id 28 16)) ∧ (s.sliceSt = 2) ∧
   (p.srcEngine = true) ∧ (0x1000 ≤ p.srcTile) ∧ (p.srcTile < 0x1040) ∧ (p.stepLo ≠ BitVec.ofNat 32 s.slice.step.toNat)) ∧
  (∃ w0 ∈ pick wit_Routing 5,
 let s := w0.1;
 let p := w0.2.1;
 let port := w0.2.2;
 (Clean s) ∧ (isRequest p.op = true) ∧ (s.mayRoute port p = true) ∧
 let e := s.route p.dest
 let up := (s.port (outPort e p)).st = 3
 (p.op ≠ .circuitData) ∧ (port ≠ 63) ∧ (p.dest ≠ s.moduleId) ∧ (bitOf e 42 = true) ∧ (rtPorts e ≠ []) ∧
   (bitOf e 40 = true ∨ bitOf e 41 = true) ∧ (p.hops < 3) ∧ (up)) ∧
  (∃ w0 ∈ pick wit_Routing 11,
 let s := w0.1;
 let p := w0.2.1;
 let port := w0.2.2;
 (Clean s) ∧ (isRequest p.op = true) ∧ (s.mayRoute port p = true) ∧
 let e := s.route p.dest
 let up := (s.port (outPort e p)).st = 3
 (p.op ≠ .circuitData) ∧ (port ≠ 63) ∧ (p.dest ≠ s.moduleId) ∧ (bitOf e 42 = true) ∧ (rtPorts e ≠ []) ∧
   (bitOf e 40 = true ∨ bitOf e 41 = true) ∧ (p.hops < 3) ∧ (¬ up) ∧ (p.src ≠ s.moduleId)) ∧
  (∃ w0 ∈ pick wit_Routing 6,
 let s := w0.1;
 let p := w0.2.1;
 let port := w0.2.2;
 (Clean s) ∧ (isRequest p.op = true) ∧ (s.mayRoute port p = true) ∧
 let e := s.route p.dest
 (p.op ≠ .circuitData) ∧ (port ≠ 63) ∧ (p.dest ≠ s.moduleId) ∧ (bitOf e 42 = true) ∧ (rtPorts e ≠ []) ∧
   (bitOf e 40 = true ∨ bitOf e 41 = true) ∧ (3 ≤ p.hops) ∧ (p.src ≠ s.moduleId)) ∧
  (∃ w0 ∈ pick wit_Routing 8,
 let s := w0.1;
 let p := w0.2.1;
 let port := w0.2.2;
 (Clean s) ∧ (isRequest p.op = true) ∧ (s.mayRoute port p = true) ∧
 let e := s.route p.dest
 (p.op = .circuitData) ∧ (s.routeCause port p = none) ∧ (if port = 63 then bitOf e 39 = false else p.dest ≠ s.moduleId) ∧
   (∃ v8 ∈ (s.cirRoute port p.circuit p.cirPort).toList,
 let k := v8;
 (s.cirRoute port p.circuit p.cirPort = some k) ∧ (bitOf (cirWord s.fab.cir k.1 k.2 0) 1 = false) ∧
 let o := fld (cirWord s.fab.cir k.1 k.2 0) 2 6
 ((s.port o).st = 3))) ∧
  (∃ w0 ∈ pick wit_Routing 13,
 let s := w0.1;
 let p := w0.2.1;
 let port := w0.2.2;
 (Clean s) ∧ (isRequest p.op = true) ∧ (s.mayRoute port p = true) ∧
 let e := s.route p.dest
 (p.op = .circuitData) ∧ (s.routeCause port p = none) ∧ (if port = 63 then bitOf e 39 = false else p.dest ≠ s.moduleId) ∧
   (∃ v8 ∈ (s.cirRoute port p.circuit p.cirPort).toList,
 let k := v8;
 (s.cirRoute port p.circuit p.cirPort = some k) ∧ (bitOf (cirWord s.fab.cir k.1 k.2 0) 1 = false) ∧
 let o := fld (cirWord s.fab.cir k.1 k.2 0) 2 6
 ((s.port o).st ≠ 3))) ∧
  (∃ w0 ∈ pick wit_Routing 12,
 let s := w0.1;
 let p := w0.2.1;
 let port := w0.2.2;
 (Clean s) ∧ (isRequest p.op = true) ∧ (s.mayRoute port p = true) ∧
 let e := s.route p.dest
 (p.op = .circuitData) ∧ (s.routeCause port p = none) ∧ (if port = 63 then bitOf e 39 = false else p.dest ≠ s.moduleId) ∧
   (s.cirRoute port p.circuit p.cirPort = none)) ∧
  (∃ w0 ∈ pick wit_Routing 14,
 let s := w0.1;
 let p := w0.2.1;
 let port := w0.2.2;
 (Clean s) ∧ (isRequest p.op = true) ∧ (s.mayRoute port p = true) ∧
 let e := s.route p.dest
 (p.op = .circuitData) ∧ (s.routeCause port p = none) ∧ (if port = 63 then bitOf e 39 = false else p.dest ≠ s.moduleId) ∧
   (∃ v8 ∈ (s.cirRoute port p.circuit p.cirPort).toList,
 let k := v8;
 (s.cirRoute port p.circuit p.cirPort = some k) ∧ (bitOf (cirWord s.fab.cir k.1 k.2 0) 1 = true) ∧
   (bitOf (s.route s.moduleId) 39 = true) ∧ (p.slice = BitVec.ofNat 16 (fld s.fab.id 28 16)) ∧ (p.srcEngine = false))) := by
  dsimp only [TileTxn, TileQuiet, Completed, HeaderFits, CollEnded, Recorded, faultKey, BufferHas, ResetNoted, Clean]
  and_intros <;> decide +kernel

/-- States and operands for the hypotheses of TagGrant (a part of TagsAndAnswers). -/
def wit_TagGrant : List (State × EdgeReq) :=
(let q : FabPkt := {zpk with dest := 7, src := 4, op := .write, payload := [1]}
 let q2 : FabPkt := {zpk with dest := 8, src := 4, op := .read}
 let w : EdgeReq := {pkt := q, src := .tile 1 9}
 let w2 : EdgeReq := {pkt := q2, src := .edge}
 let m1 : EdgeReq := {pkt := {zpk with dest := 4, src := 4, srcTile := 3, op := .read, cls := 1, addr := mkGa 0 4 128}, src := .tile 3 9}
 let m2 : EdgeReq := {pkt := {zpk with dest := 4, src := 4, srcTile := 3, op := .read, cls := 1, addr := mkGa 0 4 192}, src := .tile 3 10}
 let b := fun (st : W64) => fb (fun f => {f with id := 4, status := st, waiting := [w,w2], txns := [ftx q2 0 .edge, ftx q2 3 .edge], nextTag := 3}) (esc (fun e => {e with beat := 2^24 + 5}))
 let bm := fun (l : List EdgeReq) => fb (fun f => {f with waiting := l}) (b 0)
 let full := fun (s : State) => fb (fun f => {f with txns := List.replicate Config.txnTags (ftx {q2 with srcTile := 77} 5 .edge)}) s
 let f := fun (s : State) => (s, (State.firstGo s [] s.fab.waiting).getD w2)
 [f (b 0), f (b 4), f (fb (fun f => {f with nextTag := Config.txnTags - 1}) (b 0)),
   f (hg (fun h => {h with replaying := some 3}) (b 0)),
   f (fb (fun f => {f with rate := [(7,100)], spent := [(7,10000000)]}) (b 0)),
  (fb (fun f => {f with rate := [(7,100)], spent := [(7,10000000)]}) (b 0), w),
    (fb (fun f => {f with txns := [{ftx q2 0 .edge with pkt := {q2 with srcTile := 9}}]}) (b 0), w),
    (fb (fun f => {f with rt := [(7,BitVec.ofNat 64 (2^42 + 4))], rate := [(7,100)], spent := [(7,10000000)], waiting := [{pkt := {q with cls := 1}, src := .edge}]}) (b 0), {pkt := {q with cls := 1}, src := .edge}),
  f (bm [m1,m2]), (bm [m1,m2], m2), f (bm [w2,m1]), f (full (b 0)), f (full (bm [{w with stalled := true}])), f (full (bm [m1]))])

/-- Every clause of TagGrant (a part of TagsAndAnswers) has a state and operands that meet all its hypotheses together. -/
theorem witness_TagGrant :
  (∃ w0 ∈ pick wit_TagGrant 0,
 let s := w0.1;
 let w := w0.2;
 (Clean s) ∧ (s.fab.nextTag < Config.txnTags) ∧ (∀ x ∈ s.fab.txns, x.tag < Config.txnTags) ∧
   (State.firstGo s [] s.fab.waiting = some w) ∧ (s.fab.txns.length < Config.txnTags) ∧ (s.memReq w = false) ∧
   (s.hang.replaying = none ∨ w.pkt.dest = s.moduleId)) ∧
  (∃ w0 ∈ pick wit_TagGrant 3,
 let s := w0.1;
 let w := w0.2;
 (Clean s) ∧ (s.fab.nextTag < Config.txnTags) ∧ (∀ x ∈ s.fab.txns, x.tag < Config.txnTags) ∧
   (State.firstGo s [] s.fab.waiting = some w) ∧ (s.fab.txns.length < Config.txnTags) ∧ (s.memReq w = false) ∧
   (s.hang.replaying.isSome = true) ∧ (w.pkt.dest ≠ s.moduleId) ∧ (isRequest w.pkt.op = true) ∧ (w.pkt.src = s.moduleId)) ∧
  (∃ w0 ∈ pick wit_TagGrant 8,
 let s := w0.1;
 let w := w0.2;
 (Clean s) ∧ (s.fab.nextTag < Config.txnTags) ∧ (∀ x ∈ s.fab.txns, x.tag < Config.txnTags) ∧
   (State.firstGo s [] s.fab.waiting = some w) ∧ (s.fab.txns.length < Config.txnTags) ∧ (s.memReq w = true) ∧ (w.pkt.op = .read) ∧
   (gaSpace w.pkt.addr = 0)) ∧
  (∃ w0 ∈ pick wit_TagGrant 6,
 let s := w0.1;
 let w := w0.2;
 (Clean s) ∧ (s.fab.nextTag < Config.txnTags) ∧ (∀ x ∈ s.fab.txns, x.tag < Config.txnTags) ∧ (s.memReq w = false) ∧
   (∃ v5 ∈ (List.range 3).map (fun i => (s.fab.waiting.take i, s.fab.waiting.drop (i + 1))),
 let before := v5.1;
 let after := v5.2;
 (s.fab.waiting = before ++ w :: after) ∧ (bitOf s.fab.status 2 = false) ∧ (∀ q ∈ before, q.pkt.srcTile ≠ w.pkt.srcTile) ∧
   (∀ x ∈ s.fab.txns, x.pkt.srcTile ≠ w.pkt.srcTile) ∧ (s.overRate w.pkt = false))) ∧
  (∃ w0 ∈ pick wit_TagGrant 1,
 let s := w0.1;
 let w := w0.2;
 (Clean s) ∧ (s.fab.nextTag < Config.txnTags) ∧ (∀ x ∈ s.fab.txns, x.tag < Config.txnTags) ∧ (s.memReq w = false) ∧
   (∃ v5 ∈ [([] : List (FabPkt × ReqSrc))],
 (s.overRate w.pkt = true ∨ bitOf s.fab.status 2 = true))) ∧
  (∃ w0 ∈ pick wit_TagGrant 0,
 let s := w0.1;
 let w := w0.2;
 (Clean s) ∧ (s.fab.nextTag < Config.txnTags) ∧ (∀ x ∈ s.fab.txns, x.tag < Config.txnTags) ∧ (s.memReq w = false) ∧
   (∃ v5 ∈ s.fab.waiting.map (fun q => (s.fab.waiting, q)),
 let before := v5.1;
 let q := v5.2;
 (q ∈ before) ∧ (q.pkt.srcTile = w.pkt.srcTile) ∧ (q.pkt.srcEngine = w.pkt.srcEngine) ∧ (q.pkt.cls = w.pkt.cls) ∧
   (q.pkt.dest = w.pkt.dest))) ∧
  (∃ w0 ∈ pick wit_TagGrant 8,
 let s := w0.1;
 let w := w0.2;
 (Clean s) ∧ (s.fab.nextTag < Config.txnTags) ∧ (∀ x ∈ s.fab.txns, x.tag < Config.txnTags) ∧ (s.memReq w = true)) ∧
  (∃ w0 ∈ pick wit_TagGrant 1,
 let s := w0.1;
 (Clean s) ∧ (s.fab.nextTag < Config.txnTags) ∧ (∀ x ∈ s.fab.txns, x.tag < Config.txnTags) ∧
   (State.firstGo s [] s.fab.waiting = none)) := by
  dsimp only [TileTxn, TileQuiet, Completed, HeaderFits, CollEnded, Recorded, faultKey, BufferHas, ResetNoted, Clean]
  and_intros <;> decide +kernel

/-- States and operands for the hypotheses of RequestsAtDestination. -/
def wit_RequestsAtDestination : List (State × FabPkt × Instr) :=
(let mk := fun (op : FabOp) (space off : Nat) (pl : List Flit) (g : FabPkt → FabPkt) => g {zpk with dest := 4, src := 9, srcTile := 5, tag := 66, op := op, addr := mkGa space 4 off, payload := pl}
 let s := fun (p : FabPkt) => fb (fun f => {f with id := 4, delivered := [{p with tag := 1}, p]}) z
 let w := fun (p : FabPkt) (c : FabPkt → Instr) => (s p, p, c p)
 [w (mk .read 0 64 [] id) .read, w (mk .read 0 65 [] id) .read,
   w (mk .read 0 0 [] (fun p => {p with srcEngine := true, srcTile := 0x1800})) .read, w (mk .read 3 64 [] id) .read,
   w (mk .write 0 64 [1,2,3,4,5] id) .write, w (mk .write 0 0xD7FFFFFFF0 [1,2] id) .write,
  w (mk .write 1 64 [1,2] (fun p => {p with trigger := 3})) .write, w (mk .read 1 (2 * Config.lsStride + 64) [] id) .read,
    w (mk .read 2 64 [] id) .read, w (mk .write 2 64 [1] id) .write,
    w (mk .reduceAdd 2 64 [1] (fun p => {p with rfmt := 3})) .reduceAdd,w (mk .reduceAdd 2 64 [1] (fun p => {p with rfmt := 2})) .reduceAdd,w (mk .reduceAdd 2 64 [1] (fun p => {p with rfmt := 1})) .reduceAdd,
  w (mk .circuitData 0 256 [1] (fun p => {p with cls := 3, circuit := 4})) .circuitData,
    w (mk .circuitData 0 256 [1] (fun p => {p with cls := 3, srcEngine := true, srcTile := 0x1800})) .circuitData,
    w (mk .reduceAdd 0 64 [1,2] id) .reduceAdd, w (mk .reduceAdd 0 64 [1,2] (fun p => {p with rfmt := 2})) .reduceAdd,
    w (mk .atomic 2 16 [5] (fun p => {p with aw := 3, aop := 2})) .atomic,
    w (mk .atomic 0 16 [5] (fun p => {p with aw := 3, aop := 2})) .atomic,
    w (mk .atomic 2 17 [5] (fun p => {p with aw := 3, aop := 2})) .atomic])

/-- Every clause of RequestsAtDestination has a state and operands that meet all its hypotheses together. -/
theorem witness_RequestsAtDestination :
  (∃ w0 ∈ pick wit_RequestsAtDestination 1,
 let s := w0.1;
 let p := w0.2.1;
 let c := w0.2.2;
 (Clean s) ∧ (c = .read p ∧ p.op = .read ∨ c = .write p ∧ p.op = .write ∨ c = .atomic p ∧ p.op = .atomic ∨ c = .reduceAdd p ∧
   p.op = .reduceAdd ∨ c = .circuitData p ∧ p.op = .circuitData) ∧
 let cause := reqCause p.op (gaSpace p.addr) (gaOff p.addr) p.payload.length p.aw p.rfmt p.aop
 (p.srcEngine = false ∨ (p.op ≠ .circuitData ∧ p.op ≠ .read)) ∧ (∃ v5 ∈ cause.toList,
 let d := v5;
 (cause = some d) ∧ (p.src ≠ s.moduleId))) ∧
  (∃ w0 ∈ pick wit_RequestsAtDestination 0,
 let s := w0.1;
 let p := w0.2.1;
 let c := w0.2.2;
 (Clean s) ∧ (c = .read p ∧ p.op = .read ∨ c = .write p ∧ p.op = .write ∨ c = .atomic p ∧ p.op = .atomic ∨ c = .reduceAdd p ∧
   p.op = .reduceAdd ∨ c = .circuitData p ∧ p.op = .circuitData) ∧
 let cause := reqCause p.op (gaSpace p.addr) (gaOff p.addr) p.payload.length p.aw p.rfmt p.aop
 (p.srcEngine = false ∨ (p.op ≠ .circuitData ∧ p.op ≠ .read)) ∧ (cause = none) ∧ (gaSpace p.addr = 0) ∧ (p.op = .read)) ∧
  (∃ w0 ∈ pick wit_RequestsAtDestination 4,
 let s := w0.1;
 let p := w0.2.1;
 let c := w0.2.2;
 (Clean s) ∧ (c = .read p ∧ p.op = .read ∨ c = .write p ∧ p.op = .write ∨ c = .atomic p ∧ p.op = .atomic ∨ c = .reduceAdd p ∧
   p.op = .reduceAdd ∨ c = .circuitData p ∧ p.op = .circuitData) ∧
 let cause := reqCause p.op (gaSpace p.addr) (gaOff p.addr) p.payload.length p.aw p.rfmt p.aop
 (p.srcEngine = false ∨ (p.op ≠ .circuitData ∧ p.op ≠ .read)) ∧ (cause = none) ∧ (gaSpace p.addr = 0) ∧
   (p.op = .write ∨ p.op = .circuitData)) ∧
  (∃ w0 ∈ pick wit_RequestsAtDestination 15,
 let s := w0.1;
 let p := w0.2.1;
 let c := w0.2.2;
 (Clean s) ∧ (c = .read p ∧ p.op = .read ∨ c = .write p ∧ p.op = .write ∨ c = .atomic p ∧ p.op = .atomic ∨ c = .reduceAdd p ∧
   p.op = .reduceAdd ∨ c = .circuitData p ∧ p.op = .circuitData) ∧
 let cause := reqCause p.op (gaSpace p.addr) (gaOff p.addr) p.payload.length p.aw p.rfmt p.aop
 (p.srcEngine = false ∨ (p.op ≠ .circuitData ∧ p.op ≠ .read)) ∧ (cause = none) ∧ (gaSpace p.addr = 0) ∧ (p.op = .reduceAdd)) ∧
  (∃ w0 ∈ pick wit_RequestsAtDestination 18,
 let s := w0.1;
 let p := w0.2.1;
 let c := w0.2.2;
 (Clean s) ∧ (c = .read p ∧ p.op = .read ∨ c = .write p ∧ p.op = .write ∨ c = .atomic p ∧ p.op = .atomic ∨ c = .reduceAdd p ∧
   p.op = .reduceAdd ∨ c = .circuitData p ∧ p.op = .circuitData) ∧
 let cause := reqCause p.op (gaSpace p.addr) (gaOff p.addr) p.payload.length p.aw p.rfmt p.aop
 (p.srcEngine = false ∨ (p.op ≠ .circuitData ∧ p.op ≠ .read)) ∧ (cause = none) ∧ (gaSpace p.addr = 0) ∧ (p.op = .atomic)) ∧
  (∃ w0 ∈ pick wit_RequestsAtDestination 6,
 let s := w0.1;
 let p := w0.2.1;
 let c := w0.2.2;
 (Clean s) ∧ (c = .read p ∧ p.op = .read ∨ c = .write p ∧ p.op = .write ∨ c = .atomic p ∧ p.op = .atomic ∨ c = .reduceAdd p ∧
   p.op = .reduceAdd ∨ c = .circuitData p ∧ p.op = .circuitData) ∧
 let cause := reqCause p.op (gaSpace p.addr) (gaOff p.addr) p.payload.length p.aw p.rfmt p.aop
 (p.srcEngine = false ∨ (p.op ≠ .circuitData ∧ p.op ≠ .read)) ∧ (cause = none) ∧ (gaSpace p.addr = 1)) ∧
  (∃ w0 ∈ pick wit_RequestsAtDestination 8,
 let s := w0.1;
 let p := w0.2.1;
 let c := w0.2.2;
 (Clean s) ∧ (c = .read p ∧ p.op = .read ∨ c = .write p ∧ p.op = .write ∨ c = .atomic p ∧ p.op = .atomic ∨ c = .reduceAdd p ∧
   p.op = .reduceAdd ∨ c = .circuitData p ∧ p.op = .circuitData) ∧
 let cause := reqCause p.op (gaSpace p.addr) (gaOff p.addr) p.payload.length p.aw p.rfmt p.aop
 (p.srcEngine = false ∨ (p.op ≠ .circuitData ∧ p.op ≠ .read)) ∧ (cause = none) ∧ (gaSpace p.addr = 2) ∧ (p.op = .read)) ∧
  (∃ w0 ∈ pick wit_RequestsAtDestination 9,
 let s := w0.1;
 let p := w0.2.1;
 let c := w0.2.2;
 (Clean s) ∧ (c = .read p ∧ p.op = .read ∨ c = .write p ∧ p.op = .write ∨ c = .atomic p ∧ p.op = .atomic ∨ c = .reduceAdd p ∧
   p.op = .reduceAdd ∨ c = .circuitData p ∧ p.op = .circuitData) ∧
 let cause := reqCause p.op (gaSpace p.addr) (gaOff p.addr) p.payload.length p.aw p.rfmt p.aop
 (p.srcEngine = false ∨ (p.op ≠ .circuitData ∧ p.op ≠ .read)) ∧ (cause = none) ∧ (gaSpace p.addr = 2) ∧
   (p.op = .write ∨ p.op = .circuitData)) ∧
  (∃ w0 ∈ pick wit_RequestsAtDestination 12,
 let s := w0.1;
 let p := w0.2.1;
 let c := w0.2.2;
 (Clean s) ∧ (c = .read p ∧ p.op = .read ∨ c = .write p ∧ p.op = .write ∨ c = .atomic p ∧ p.op = .atomic ∨ c = .reduceAdd p ∧
   p.op = .reduceAdd ∨ c = .circuitData p ∧ p.op = .circuitData) ∧
 let cause := reqCause p.op (gaSpace p.addr) (gaOff p.addr) p.payload.length p.aw p.rfmt p.aop
 (p.srcEngine = false ∨ (p.op ≠ .circuitData ∧ p.op ≠ .read)) ∧ (cause = none) ∧ (gaSpace p.addr = 2) ∧ (p.op = .reduceAdd)) ∧
  (∃ w0 ∈ pick wit_RequestsAtDestination 17,
 let s := w0.1;
 let p := w0.2.1;
 let c := w0.2.2;
 (Clean s) ∧ (c = .read p ∧ p.op = .read ∨ c = .write p ∧ p.op = .write ∨ c = .atomic p ∧ p.op = .atomic ∨ c = .reduceAdd p ∧
   p.op = .reduceAdd ∨ c = .circuitData p ∧ p.op = .circuitData) ∧
 let cause := reqCause p.op (gaSpace p.addr) (gaOff p.addr) p.payload.length p.aw p.rfmt p.aop
 (p.srcEngine = false ∨ (p.op ≠ .circuitData ∧ p.op ≠ .read)) ∧ (cause = none) ∧ (gaSpace p.addr = 2) ∧ (p.op = .atomic)) ∧
  (∃ w0 ∈ pick wit_RequestsAtDestination 14,
 let s := w0.1;
 let p := w0.2.1;
 let c := w0.2.2;
 (Clean s) ∧ (c = .read p ∧ p.op = .read ∨ c = .write p ∧ p.op = .write ∨ c = .atomic p ∧ p.op = .atomic ∨ c = .reduceAdd p ∧
   p.op = .reduceAdd ∨ c = .circuitData p ∧ p.op = .circuitData) ∧ (p.op = .circuitData) ∧ (p.srcEngine = true) ∧
   (p.srcTile = 0x1800) ∧ (s.frozenAs 0x1800 = false)) := by
  dsimp only [TileTxn, TileQuiet, Completed, HeaderFits, CollEnded, Recorded, faultKey, BufferHas, ResetNoted, Clean]
  and_intros <;> decide +kernel

/-- States and operands for the hypotheses of AnswersAtTheEdge (a part of TagsAndAnswers). -/
def wit_AnswersAtTheEdge : List (State × FabPkt × Txn × Nat × Nat × Instr × Option DropCause) :=
(let q : FabPkt := {zpk with dest := 7, src := 4, op := .write, payload := [1]}
 let a := fun (op : FabOp) (echo : Bool) => {zpk with dest := 4, src := 7, op := op, tag := 66, echo := echo, payload := if op = .readReply then [1,2,3,4] else []}
 let s := fun (p : FabPkt) (h : Bool) (cut : Assoc Nat) => fb (fun f => {f with delivered := [p], txns := [ftx q 1 .edge, {ftx q 66 (.tile 2 9) with held := h}], rate := [(7,100),(9,5)], lastCut := cut, ccCfg := setFld f.ccCfg 16 8 10}) (esc (fun e => {e with beat := 100}))
 let w := fun (op : FabOp) (echo h : Bool) (cut : Assoc Nat) (c : FabPkt → Instr) (e : Option DropCause) => (s (a op echo) h cut,
   a op echo, {ftx q 66 (.tile 2 9) with held := h}, 2, 9, c (a op echo), e)
 [w .readReply false false [] .readReply none, w .ack false false [] .ack none,
   w .errorReply false false [] .errorReply (some (causeOf 0)), w .ack false true [] .ack none, w .ack true false [] .ack none,
   w .ack true false [(7,95)] .ack none,
   w .ack true false [(7,90)] .ack none,(fb (fun f => {f with txns := []}) (s (a .ack true) true []), a .ack true,
   {ftx q 66 (.tile 2 9) with held := true}, 2, 9, .ack (a .ack true), none),
  (let y : Txn := {ftx q 66 (.tile 2 9) with left := 2}
   (fb (fun f => {f with txns := [y], txnCfg := 0}) (s (a .ack true) true []), a .ack false, y, 2, 9, .ack (a .ack false), none))])

/-- Every clause of AnswersAtTheEdge (a part of TagsAndAnswers) has a state and operands that meet all its hypotheses together. -/
theorem witness_AnswersAtTheEdge :
  (∃ w0 ∈ pick wit_AnswersAtTheEdge 0,
 let s := w0.1;
 let p := w0.2.1;
 let x := w0.2.2.1;
 let tl := w0.2.2.2.1;
 let tag := w0.2.2.2.2.1;
 let c := w0.2.2.2.2.2.1;
 let e := w0.2.2.2.2.2.2;
 (Clean s) ∧ (c = .readReply p ∧ p.op = .readReply ∧ e = none ∨ c = .ack p ∧ p.op = .ack ∧ e = none ∨ c = .errorReply p ∧
   p.op = .errorReply ∧ e = some (causeOf p.aop)) ∧ (s.fab.txns.find? (fun t => t.tag == p.tag) = some x) ∧ (x.src = .tile tl tag) ∧
   (p.echo = false) ∧ (x.held = false)) ∧
  (∃ w0 ∈ pick wit_AnswersAtTheEdge 3,
 let s := w0.1;
 let p := w0.2.1;
 let x := w0.2.2.1;
 let tl := w0.2.2.2.1;
 let tag := w0.2.2.2.2.1;
 let c := w0.2.2.2.2.2.1;
 let e := w0.2.2.2.2.2.2;
 (Clean s) ∧ (c = .readReply p ∧ p.op = .readReply ∧ e = none ∨ c = .ack p ∧ p.op = .ack ∧ e = none ∨ c = .errorReply p ∧
   p.op = .errorReply ∧ e = some (causeOf p.aop)) ∧ (s.fab.txns.find? (fun t => t.tag == p.tag) = some x) ∧ (x.src = .tile tl tag) ∧
   (p.echo = false) ∧ (x.held = true)) ∧
  (∃ w0 ∈ pick wit_AnswersAtTheEdge 4,
 let s := w0.1;
 let p := w0.2.1;
 let x := w0.2.2.1;
 let tl := w0.2.2.2.1;
 let tag := w0.2.2.2.2.1;
 let c := w0.2.2.2.2.2.1;
 let e := w0.2.2.2.2.2.2;
 (Clean s) ∧ (c = .readReply p ∧ p.op = .readReply ∧ e = none ∨ c = .ack p ∧ p.op = .ack ∧ e = none ∨ c = .errorReply p ∧
   p.op = .errorReply ∧ e = some (causeOf p.aop)) ∧ (s.fab.txns.find? (fun t => t.tag == p.tag) = some x) ∧ (x.src = .tile tl tag) ∧
   (p.echo = true) ∧ (x.held = false) ∧ (s.gapPassed x.pkt.dest = true)) ∧
  (∃ w0 ∈ pick wit_AnswersAtTheEdge 5,
 let s := w0.1;
 let p := w0.2.1;
 let x := w0.2.2.1;
 let tl := w0.2.2.2.1;
 let tag := w0.2.2.2.2.1;
 let c := w0.2.2.2.2.2.1;
 let e := w0.2.2.2.2.2.2;
 (Clean s) ∧ (c = .readReply p ∧ p.op = .readReply ∧ e = none ∨ c = .ack p ∧ p.op = .ack ∧ e = none ∨ c = .errorReply p ∧
   p.op = .errorReply ∧ e = some (causeOf p.aop)) ∧ (s.fab.txns.find? (fun t => t.tag == p.tag) = some x) ∧ (x.src = .tile tl tag) ∧
   (p.echo = true) ∧ (x.held = false) ∧ (s.gapPassed x.pkt.dest = false)) ∧
  (∃ w0 ∈ pick wit_AnswersAtTheEdge 7,
 let s := w0.1;
 let p := w0.2.1;
 let c := w0.2.2.2.2.2.1;
 let e := w0.2.2.2.2.2.2;
 (Clean s) ∧ (c = .readReply p ∧ p.op = .readReply ∧ e = none ∨ c = .ack p ∧ p.op = .ack ∧ e = none ∨ c = .errorReply p ∧
   p.op = .errorReply ∧ e = some (causeOf p.aop)) ∧ (s.fab.txns.find? (fun t => t.tag == p.tag) = none)) ∧
  (∃ w0 ∈ pick wit_AnswersAtTheEdge 0,
 let s := w0.1;
 let p := w0.2.1;
 let x := w0.2.2.1;
 let tl := w0.2.2.2.1;
 let tag := w0.2.2.2.2.1;
 let c := w0.2.2.2.2.2.1;
 let e := w0.2.2.2.2.2.2;
 (Clean s) ∧ (c = .readReply p ∧ p.op = .readReply ∧ e = none ∨ c = .ack p ∧ p.op = .ack ∧ e = none ∨ c = .errorReply p ∧
   p.op = .errorReply ∧ e = some (causeOf p.aop)) ∧ (∃ v3 ∈ [x.tag],
 let n := v3;
 (s.fab.txns.find? (fun t => t.tag == n && !t.held) = some x) ∧ (x.src = .tile tl tag) ∧
   (x.beat.toNat + s.txnTimeout ≤ s.esc.beat.toNat))) := by
  dsimp only [TileTxn, TileQuiet, Completed, HeaderFits, CollEnded, Recorded, faultKey, BufferHas, ResetNoted, Clean]
  and_intros <;> decide +kernel

/-- States and operands for the hypotheses of DrainAndTables. -/
def wit_DrainAndTables : List (State × Nat × Nat × W64 × (Nat × FabPkt)) :=
(let b := fun (st : W64) (m : Bool) => fb (fun f => {f with status := st, markersSent := m, ports := [(2,{up with markersOut := if m then [1,3] else []}),(5,up),(7,{st := 1})], drop2 := 5, rts := [(3,4)], cirs := [(1,2)]}) (esc (fun e => {e with beat := 100000}))
 let e2 := fun (s : State) => ports [(2,up)] s
 let dm : FabPkt := {zpk with op := .drainMarker, aop := 3, src := 9}
 let sw := fun (q : FabPkt) (s : State) => fb (fun f => {f with id := 4, switchQ := [(5,qp),(2,q)]}) s
 let ww := fun (s : State) => chans [(0,{rdy with wcb := [{ addr := 64, mask := 0xF, data := 0x11223344, touched := 0 }]})] s
 [(b 5 false,2,3,0,(2,dm)),(b 5 true,2,3,0,(2,dm)),(e2 (b 5 true),2,3,0,(2,dm)),
   (fb (fun f => {f with drainBeat := some 7}) (b 5 true),2,3,7,(2,dm)),(b 0 false,2,3,0,(2,dm)),(b 2 true,2,3,0,(2,dm)),
   (fb (fun f => {f with cirs := [(2048,1),(2049,1),(2052,1),(2053,1)]}) (b 2 true),2,3,0,(2,dm)),
  (sw dm (b 5 true),2,3,0,(2,dm)),(ww (sw dm (b 5 true)),2,3,0,(2,dm)),
    (sw {dm with src := 4} (b 5 true),2,3,0,(2,{dm with src := 4})),
    (cf (fun c => {c with commit := some {q := 0, index := 1, beat := 9}, staging := some {digest := 0, identity := 0, patch := true, signed := false, epoch := 0, seed := 0, items := {types := [5]}, targets := []}}) (b 5 false),2,3,0,(2,dm)),
  (ports [(2,{up with markersOut := [3]}),(5,up)] (fb (fun f => {f with id := 4, switchQ := [(5,qp)]}) (b 5 true)),2,3,0,(2,dm)),
    (ports [(2,{up with markersOut := [3]}),(5,up)] (sw {dm with src := 4} (b 5 true)),2,3,0,(2,{dm with src := 4})),
    (fb (fun f => {f with delivered := [{qp with hops := 4, inPort := 2}]}) (sw dm (b 5 true)),2,3,0,(2,dm))])

/-- Every clause of DrainAndTables has a state and operands that meet all its hypotheses together. -/
theorem witness_DrainAndTables :
  (∃ w0 ∈ pick wit_DrainAndTables 10,
 let s := w0.1;
 (Clean s) ∧ (s.fabHeld = true)) ∧
  (∃ w0 ∈ pick wit_DrainAndTables 0,
 let s := w0.1;
 (Clean s) ∧ (bitOf s.fab.status 0 = true) ∧ (s.fab.markersSent = false) ∧
   (s.fab.txns.all (fun t => t.held || t.left != 0) = true)) ∧
  (∃ w0 ∈ pick wit_DrainAndTables 1,
 let s := w0.1;
 let p := w0.2.1;
 let vc := w0.2.2.1;
 let q := w0.2.2.2.2;
 (Clean s) ∧ (s.fab.switchQ.find? (fun q => q.1 == p && q.2.op == .drainMarker && q.2.aop == vc) = none) ∧
   ((s.port p).markersOut.contains vc = true)) ∧
  (∃ w0 ∈ pick wit_DrainAndTables 9,
 let s := w0.1;
 let p := w0.2.1;
 let vc := w0.2.2.1;
 let q := w0.2.2.2.2;
 (Clean s) ∧ (s.fab.switchQ.find? (fun q => q.1 == p && q.2.op == .drainMarker && q.2.aop == vc) = some q) ∧
   (q.2.src = s.moduleId)) ∧
  (∃ w0 ∈ pick wit_DrainAndTables 7,
 let s := w0.1;
 let p := w0.2.1;
 let vc := w0.2.2.1;
 let q := w0.2.2.2.2;
 (Clean s) ∧ (s.fab.switchQ.find? (fun q => q.1 == p && q.2.op == .drainMarker && q.2.aop == vc) = some q) ∧
 let x := s.port p
 (q.2.src ≠ s.moduleId) ∧ (x.st = 3) ∧ (s.crossing p vc = false) ∧
   ((before q s.fab.switchQ).any (fun r => r.1 == p && vcOf r.2 == vc && r.2.op != .haltMarker && r.2.op != .circuitData) = false)) ∧
  (∃ w0 ∈ pick wit_DrainAndTables 13,
 let s := w0.1;
 let p := w0.2.1;
 let vc := w0.2.2.1;
 let q := w0.2.2.2.2;
 (Clean s) ∧ (s.fab.switchQ.find? (fun q => q.1 == p && q.2.op == .drainMarker && q.2.aop == vc) = some q) ∧ (q.2.src ≠ s.moduleId) ∧
   (s.crossing p vc = true)) ∧
  (∃ w0 ∈ pick wit_DrainAndTables 2,
 let s := w0.1;
 (Clean s) ∧ (bitOf s.fab.status 0 = true) ∧ (s.fab.markersSent = true) ∧ (s.queuesEmpty = true)) ∧
  (∃ w0 ∈ pick wit_DrainAndTables 3,
 let s := w0.1;
 let beat := w0.2.2.2.1;
 (Clean s) ∧ (s.fab.drainBeat = some beat) ∧ (bitOf s.fab.status 0 = true) ∧ (beat.toNat + s.drainLimit ≤ s.esc.beat.toNat)) ∧
  (∃ w0 ∈ pick wit_DrainAndTables 0,
 let s := w0.1;
 (Clean s) ∧ (s.fabHeld = false) ∧ (bitOf s.fab.status 1 = false)) ∧
  (∃ w0 ∈ pick wit_DrainAndTables 6,
 let s := w0.1;
 (Clean s) ∧ (s.fabHeld = false) ∧ (bitOf s.fab.status 1 = true) ∧ (s.cirConflict s.fab.cirs = true)) ∧
  (∃ w0 ∈ pick wit_DrainAndTables 5,
 let s := w0.1;
 (Clean s) ∧ (s.fabHeld = false) ∧ (bitOf s.fab.status 1 = true) ∧ (s.cirConflict s.fab.cirs = false)) := by
  dsimp only [TileTxn, TileQuiet, Completed, HeaderFits, CollEnded, Recorded, faultKey, BufferHas, ResetNoted, Clean]
  and_intros <;> decide +kernel

/-- States and operands for the hypotheses of PrbsCheck. -/
def wit_PrbsCheck : List (State × Nat × Nat × Bool) :=
(let c : Checker := { hist := [true,false,true,true,false,false,true], agree := 5 }
 let s := fun (c : Checker) (e : W64) => ports [(2,{st := 5, prbs := 0x17F8, checkers := [(1,c)], prbsErr := [(1,e)]}),(3,up)] z
 [(s c 0x1FFFFFFFF,2,1,true),(s c 0x1FFFFFFFF,2,1,false),(s c 0x100000005,2,1,true),(s c 0x100000005,2,1,false),
   (s {c with hist := [true]} 0,2,1,false),(s {c with agree := 1023} 0,2,1,false),(s {c with agree := 1023} 0,2,1,true)])

/-- Every clause of PrbsCheck has a state and operands that meet all its hypotheses together. -/
theorem witness_PrbsCheck :
  (∃ w0 ∈ pick wit_PrbsCheck 4,
 let s := w0.1;
 let p := w0.2.1;
 let lane := w0.2.2.1;
 (Clean s) ∧ ((s.port p).st = 5) ∧ (bitOf (s.port p).prbs 12 = true) ∧ (lane < 8) ∧ (bitOf (s.port p).prbs (3 + lane) = true) ∧
   (fld (s.port p).prbs 0 3 < 5) ∧
 let w := (prbsTaps (fld (s.port p).prbs 0 3)).1
 let c := aget ({} : Checker) (s.port p).checkers lane
 (c.hist.length < w)) ∧
  (∃ w0 ∈ pick wit_PrbsCheck 0,
 let s := w0.1;
 let p := w0.2.1;
 let lane := w0.2.2.1;
 (Clean s) ∧ ((s.port p).st = 5) ∧ (bitOf (s.port p).prbs 12 = true) ∧ (lane < 8) ∧ (bitOf (s.port p).prbs (3 + lane) = true) ∧
   (fld (s.port p).prbs 0 3 < 5) ∧
 let w := (prbsTaps (fld (s.port p).prbs 0 3)).1
 let c := aget ({} : Checker) (s.port p).checkers lane
 let e := aget (0 : W64) (s.port p).prbsErr lane
 (c.hist.length = w) ∧ (bitOf e 32 = true)) ∧
  (∃ w0 ∈ pick wit_PrbsCheck 5,
 let s := w0.1;
 let p := w0.2.1;
 let lane := w0.2.2.1;
 (Clean s) ∧ ((s.port p).st = 5) ∧ (bitOf (s.port p).prbs 12 = true) ∧ (lane < 8) ∧ (bitOf (s.port p).prbs (3 + lane) = true) ∧
   (fld (s.port p).prbs 0 3 < 5) ∧
 let w := (prbsTaps (fld (s.port p).prbs 0 3)).1
 let c := aget ({} : Checker) (s.port p).checkers lane
 let e := aget (0 : W64) (s.port p).prbsErr lane
 (c.hist.length = w) ∧ (bitOf e 32 = false)) := by
  dsimp only [TileTxn, TileQuiet, Completed, HeaderFits, CollEnded, Recorded, faultKey, BufferHas, ResetNoted, Clean]
  and_intros <;> decide +kernel

/-- States and operands for the hypotheses of JoinAndLeave. -/
def wit_JoinAndLeave : List (State × State × List Byte × Option DropCause) :=
(let j := fun (st : Nat) => sst st (chans [(0,rdy)] (putB 0 (b8 4 ++
  b8 9) (fb (fun f => {f with id := 4}) (sl (fun x => {x with cfg := setFld (setFld x.cfg 0 14 2) 14 6 2}) (esc (fun e => {e with beat := 20}))))))
 let w := fun (s : State) => let r := s.rdMem 0 16; (s, r.2.2, r.1, r.2.1)
 [w (j 0), w (j 1), w (j 2), w (j 3), w (fb (fun f => {f with id := 5}) (j 0)), w (chans [] (j 3)),
   w (sl (fun x => {x with cfg := setFld x.cfg 20 14 9}) (j 0)), w (sl (fun x => {x with lastReport := some 20}) (j 1)),
   w (sl (fun x => {x with lastReport := some 3}) (j 1)), w (sl (fun x => {x with joinBeat := 20}) (j 1)),
   w (fb (fun f => {f with id := 5}) (sl (fun x => {x with lastReport := some 3}) (esc' (j 1) (fun e => {e with beat := 9000}))))])

/-- Every clause of JoinAndLeave has a state and operands that meet all its hypotheses together. -/
theorem witness_JoinAndLeave :
  (∃ w0 ∈ pick wit_JoinAndLeave 0,
 let s := w0.1;
 let u := w0.2.1;
 let bs := w0.2.2.1;
 let e := w0.2.2.2;
 (Clean s) ∧
 let n := if s.nMembers ≤ 8224 then s.nMembers else 0
 let tbl := (chunks 8 n bs).map (fun b => tableEntry (BitVec.ofNat 64 (ofLe b)))
 (s.sliceSt = 0 ∨ s.sliceSt = 3) ∧ (s.outOfService = false) ∧ (s.rdMem (gaOff s.slice.tableBase) (8 * n) = (bs, e, u)) ∧ (e = none) ∧
   (u.tableOk tbl = true)) ∧
  (∃ w0 ∈ pick wit_JoinAndLeave 4,
 let s := w0.1;
 let u := w0.2.1;
 let bs := w0.2.2.1;
 let e := w0.2.2.2;
 (Clean s) ∧
 let n := if s.nMembers ≤ 8224 then s.nMembers else 0
 let tbl := (chunks 8 n bs).map (fun b => tableEntry (BitVec.ofNat 64 (ofLe b)))
 (s.sliceSt = 0 ∨ s.sliceSt = 3) ∧ (s.outOfService = false) ∧ (s.rdMem (gaOff s.slice.tableBase) (8 * n) = (bs, e, u)) ∧
   (e ≠ none ∨ u.tableOk tbl = false)) ∧
  (∃ w0 ∈ pick wit_JoinAndLeave 1,
 let s := w0.1;
 (Clean s) ∧ (s.sliceSt = 1 ∨ s.sliceSt = 2 ∨ s.outOfService = true)) ∧
  (∃ w0 ∈ pick wit_JoinAndLeave 1,
 let s := w0.1;
 (Clean s) ∧ (s.sliceSt = 1 ∨ s.sliceSt = 3)) ∧
  (∃ w0 ∈ pick wit_JoinAndLeave 0,
 let s := w0.1;
 (Clean s) ∧ (s.sliceSt = 0 ∨ s.sliceSt = 2)) ∧
  (∃ w0 ∈ pick wit_JoinAndLeave 1,
 let s := w0.1;
 let u := w0.2.1;
 let bs := w0.2.2.1;
 let e := w0.2.2.2;
 (Clean s) ∧
 let n := if s.nMembers ≤ 8224 then s.nMembers else 0
 let tbl := (chunks 8 n bs).map (fun b => tableEntry (BitVec.ofNat 64 (ofLe b)))
 (s.sliceSt = 1) ∧ (s.slice.lastReport = none → s.slice.joinBeat.toNat < s.esc.beat.toNat) ∧
   (s.slice.lastReport.all (fun b => decide (b.toNat + s.joinRetry ≤ s.esc.beat.toNat)) = true) ∧
   (s.rdMem (gaOff s.slice.tableBase) (8 * n) = (bs, e, u)) ∧ (e = none) ∧ (u.tableOk tbl = true)) ∧
  (∃ w0 ∈ pick wit_JoinAndLeave 10,
 let s := w0.1;
 let u := w0.2.1;
 let bs := w0.2.2.1;
 let e := w0.2.2.2;
 (Clean s) ∧
 let n := if s.nMembers ≤ 8224 then s.nMembers else 0
 let tbl := (chunks 8 n bs).map (fun b => tableEntry (BitVec.ofNat 64 (ofLe b)))
 (s.sliceSt = 1) ∧ (s.slice.lastReport = none → s.slice.joinBeat.toNat < s.esc.beat.toNat) ∧
   (s.slice.lastReport.all (fun b => decide (b.toNat + s.joinRetry ≤ s.esc.beat.toNat)) = true) ∧
   (s.rdMem (gaOff s.slice.tableBase) (8 * n) = (bs, e, u)) ∧ (e ≠ none ∨ u.tableOk tbl = false)) := by
  dsimp only [TileTxn, TileQuiet, Completed, HeaderFits, CollEnded, Recorded, faultKey, BufferHas, ResetNoted, Clean]
  and_intros <;> decide +kernel

/-- States and operands for the hypotheses of JoinExchange. -/
def wit_JoinExchange : List (State × Nat × Nat × Nat × Nat × Nat × Report × W64 × W64) :=
(let s := sst 1 (mtt 2)
 let r := s.ownReport none
 [(s,4,0,3,2,5,r,40,6),(sl (fun x => {x with reports := [(1,(r,true,20))]}) s,4,0,3,2,5,r,40,6),
   (sl (fun x => {x with reports := [(1,(r,true,20)),(0,(r,true,20))]}) s,9,1,3,2,5,r,40,6),
   (sl (fun x => {x with joinGo := true}) s,4,0,3,2,5,r,40,6),(sl (fun x => {x with joinAt := some 9}) s,4,0,3,2,5,r,40,6)])

/-- Every clause of JoinExchange has a state and operands that meet all its hypotheses together. -/
theorem witness_JoinExchange :
  (∃ w0 ∈ pick wit_JoinExchange 0,
 let s := w0.1;
 let src := w0.2.1;
 let rank := w0.2.2.1;
 let r := w0.2.2.2.2.2.2.1;
 (Clean s) ∧ (s.rankOf src = some rank) ∧ (s.sliceSt = 1) ∧ (s.isMaster = true) ∧ (s.slice.joinAt = none) ∧
   (s.slice.joinGo = false) ∧ (s.failing (s.ownReport none) r s.esc.beat false = 0) ∧
   (∀ p ∈ s.slice.reports, p.1 ≠ rank → s.failing (s.ownReport none) p.2.1 p.2.2.2 false = 0) ∧
 let reps := s.slice.reports.filter (fun p => p.1 != rank) ++ [(rank, (r, true, s.esc.beat))]
 (reps.length ≠ s.nMembers)) ∧
  (∃ w0 ∈ pick wit_JoinExchange 1,
 let s := w0.1;
 let src := w0.2.1;
 let rank := w0.2.2.1;
 let r := w0.2.2.2.2.2.2.1;
 (Clean s) ∧ (s.rankOf src = some rank) ∧ (s.sliceSt = 1) ∧ (s.isMaster = true) ∧ (s.slice.joinAt = none) ∧
   (s.slice.joinGo = false) ∧ (s.failing (s.ownReport none) r s.esc.beat false = 0) ∧
   (∀ p ∈ s.slice.reports, p.1 ≠ rank → s.failing (s.ownReport none) p.2.1 p.2.2.2 false = 0) ∧
 let reps := s.slice.reports.filter (fun p => p.1 != rank) ++ [(rank, (r, true, s.esc.beat))]
 (reps.length = s.nMembers) ∧ (s.esc.beat.toNat + s.periodLead < s.esc.anchor.toNat)) ∧
  (∃ w0 ∈ pick wit_JoinExchange 3,
 let s := w0.1;
 (Clean s) ∧ (s.slice.joinGo = true ∨ s.slice.joinAt ≠ none)) ∧
  (∃ w0 ∈ pick wit_JoinExchange 0,
 let s := w0.1;
 (Clean s) ∧ (s.sliceSt = 1)) := by
  dsimp only [TileTxn, TileQuiet, Completed, HeaderFits, CollEnded, Recorded, faultKey, BufferHas, ResetNoted, Clean]
  and_intros <;> decide +kernel

/-- States and operands for the hypotheses of CommitExchange. -/
def wit_CommitExchange : List (State × Nat × Nat × Nat × Nat × Report × W64) :=
(let s := cf (fun c => {c with armed := [arm0]}) (sst 2 (mtt 2))
 let r := s.ownReport (some (50,0))
 [(s,4,0,22,3,{r with anchor := 20},50),(s,4,0,22,3,r,50),(s,4,0,23,3,r,50),
   (sl (fun x => {x with commitReports := [(1,r,20)]}) s,4,0,22,3,r,50),
   (sl (fun x => {x with commitReports := [(1,r,20)]}) s,4,1,22,3,{r with anchor := 21},20),
   (sl (fun x => {x with commitReports := [(1,{r with anchor := 21},20)]}) s,9,1,22,3,{r with anchor := 21},20),
   (sl (fun x => {x with commitReports := [(0,r,20)]}) s,9,1,22,3,{r with anchor := 21},50),
   (sl (fun x => {x with commitReports := [(0,r,20)]}) s,9,1,22,3,{r with apply := 20},50)])

/-- Every clause of CommitExchange has a state and operands that meet all its hypotheses together. -/
theorem witness_CommitExchange :
  (∃ w0 ∈ pick wit_CommitExchange 1,
 let s := w0.1;
 let src := w0.2.1;
 let rank := w0.2.2.1;
 let r := w0.2.2.2.2.2.1;
 let b := w0.2.2.2.2.2.2;
 (Clean s) ∧ (s.rankOf src = some rank) ∧ (s.sliceSt = 2) ∧ (s.isMaster = true) ∧ (s.slice.lateCommits.contains r.anchor = false) ∧
   (s.esc.beat.toNat < r.anchor.toNat) ∧
 let reps := s.slice.commitReports.filter (fun p => !(p.1 == rank && p.2.1.anchor == r.anchor)) ++ [(rank, r, s.esc.beat)]
 let u : State := { s with slice := { s.slice with commitReports := reps } }
 (∃ v9 ∈ (List.range 8).filterMap (fun k => (u.commitOf b k).map (fun p => (k, p))),
 let k := v9.1;
 let p := v9.2;
 (u.commitOf b k = some p))) ∧
  (∃ w0 ∈ pick wit_CommitExchange 5,
 let s := w0.1;
 let src := w0.2.1;
 let rank := w0.2.2.1;
 let r := w0.2.2.2.2.2.1;
 let b := w0.2.2.2.2.2.2;
 (Clean s) ∧ (s.rankOf src = some rank) ∧ (s.sliceSt = 2) ∧ (s.isMaster = true) ∧ (s.slice.lateCommits.contains r.anchor = false) ∧
   (s.esc.beat.toNat < r.anchor.toNat) ∧
 let reps := s.slice.commitReports.filter (fun p => !(p.1 == rank && p.2.1.anchor == r.anchor)) ++ [(rank, r, s.esc.beat)]
 let u : State := { s with slice := { s.slice with commitReports := reps } }
 ((u.commitHeld b).any (fun p => p.2.1.anchor != b) = true)) ∧
  (∃ w0 ∈ pick wit_CommitExchange 1,
 let s := w0.1;
 let src := w0.2.1;
 let rank := w0.2.2.1;
 let r := w0.2.2.2.2.2.1;
 let b := w0.2.2.2.2.2.2;
 (Clean s) ∧ (s.rankOf src = some rank) ∧ (s.sliceSt = 2) ∧ (s.isMaster = true) ∧ (s.slice.lateCommits.contains r.anchor = false) ∧
   (s.esc.beat.toNat < r.anchor.toNat) ∧
 let reps := s.slice.commitReports.filter (fun p => !(p.1 == rank && p.2.1.anchor == r.anchor)) ++ [(rank, r, s.esc.beat)]
 let u : State := { s with slice := { s.slice with commitReports := reps } }
 let full := u.ownCommits.find? (fun b => (u.commitHeld b).length == s.nMembers)
 (full = none)) ∧
  (∃ w0 ∈ pick wit_CommitExchange 3,
 let s := w0.1;
 let src := w0.2.1;
 let rank := w0.2.2.1;
 let r := w0.2.2.2.2.2.1;
 let b := w0.2.2.2.2.2.2;
 (Clean s) ∧ (s.rankOf src = some rank) ∧ (s.sliceSt = 2) ∧ (s.isMaster = true) ∧ (s.slice.lateCommits.contains r.anchor = false) ∧
   (s.esc.beat.toNat < r.anchor.toNat) ∧
 let reps := s.slice.commitReports.filter (fun p => !(p.1 == rank && p.2.1.anchor == r.anchor)) ++ [(rank, r, s.esc.beat)]
 let u : State := { s with slice := { s.slice with commitReports := reps } }
 let full := u.ownCommits.find? (fun b => (u.commitHeld b).length == s.nMembers)
 (full = some b) ∧ (u.commitOutcome b (u.commitHeld b) = none)) ∧
  (∃ w0 ∈ pick wit_CommitExchange 7,
 let s := w0.1;
 let src := w0.2.1;
 let rank := w0.2.2.1;
 let r := w0.2.2.2.2.2.1;
 let b := w0.2.2.2.2.2.2;
 (Clean s) ∧ (s.rankOf src = some rank) ∧ (s.sliceSt = 2) ∧ (s.isMaster = true) ∧ (s.slice.lateCommits.contains r.anchor = false) ∧
   (s.esc.beat.toNat < r.anchor.toNat) ∧
 let reps := s.slice.commitReports.filter (fun p => !(p.1 == rank && p.2.1.anchor == r.anchor)) ++ [(rank, r, s.esc.beat)]
 let u : State := { s with slice := { s.slice with commitReports := reps } }
 let full := u.ownCommits.find? (fun b => (u.commitHeld b).length == s.nMembers)
 (∃ v10 ∈ (u.commitOutcome b (u.commitHeld b)).toList,
 let o := v10;
 (full = some b) ∧ (u.commitOutcome b (u.commitHeld b) = some o) ∧ (o.1 ≠ stMismatch))) ∧
  (∃ w0 ∈ pick wit_CommitExchange 6,
 let s := w0.1;
 let src := w0.2.1;
 let rank := w0.2.2.1;
 let r := w0.2.2.2.2.2.1;
 let b := w0.2.2.2.2.2.2;
 (Clean s) ∧ (s.rankOf src = some rank) ∧ (s.sliceSt = 2) ∧ (s.isMaster = true) ∧ (s.slice.lateCommits.contains r.anchor = false) ∧
   (s.esc.beat.toNat < r.anchor.toNat) ∧
 let reps := s.slice.commitReports.filter (fun p => !(p.1 == rank && p.2.1.anchor == r.anchor)) ++ [(rank, r, s.esc.beat)]
 let u : State := { s with slice := { s.slice with commitReports := reps } }
 let full := u.ownCommits.find? (fun b => (u.commitHeld b).length == s.nMembers)
 (∃ v10 ∈ (u.commitOutcome b (u.commitHeld b)).toList,
 let o := v10;
 (full = some b) ∧ (u.commitOutcome b (u.commitHeld b) = some o) ∧ (o.1 = stMismatch))) ∧
  (∃ w0 ∈ pick wit_CommitExchange 0,
 let s := w0.1;
 let r := w0.2.2.2.2.2.1;
 let b := w0.2.2.2.2.2.2;
 (Clean s) ∧ (s.slice.lateCommits.contains r.anchor = true ∨ (r.anchor.toNat ≤ s.esc.beat.toNat ∧
   s.ownCommits.any (fun b => decide (s.esc.beat.toNat < b.toNat)) = false))) ∧
  (∃ w0 ∈ pick wit_CommitExchange 5,
 let s := w0.1;
 let rank := w0.2.2.1;
 let r := w0.2.2.2.2.2.1;
 let b := w0.2.2.2.2.2.2;
 (Clean s) ∧ (s.sliceSt = 2) ∧ (s.isMaster = true) ∧ (s.slice.commitReports = [(rank, r, b)]) ∧
   (r.anchor.toNat ≤ s.esc.beat.toNat + s.periodLead)) ∧
  (∃ w0 ∈ pick wit_CommitExchange 0,
 let s := w0.1;
 (Clean s) ∧ (∃ v2 ∈ s.cfg.armed,
 let a := v2;
 (s.cfg.armed = [a]) ∧ (a.goAhead = false) ∧ (a.stop = none))) := by
  dsimp only [TileTxn, TileQuiet, Completed, HeaderFits, CollEnded, Recorded, faultKey, BufferHas, ResetNoted, Clean]
  and_intros <;> decide +kernel

/-- States and operands for the hypotheses of Collectives. -/
def wit_Collectives : List (State × Nat × CollRun) :=
(let b := fun (r : CollRun) (n : Nat) => cf (fun c => {c with active := {c.active with mapLayers := [lmap], mapCtxs := [cmap]}}) (sst 2 (sl (fun x => {x with running := [(2,r)]}) (hs (fun h => {h with queues := [(1,{st := 1, cmds := [{index := 5, raw := 0}]})], flags := [(11,1),(12,7)], busMaster := true, d0 := true}) (mtt n))))
 let cc := fun (s : State) => chans [(0,rdy),(128,rdy)] (s)
 [(b {run0 with phase := 1} 2,2,{run0 with phase := 1}),
   (b {run0 with phase := 1, arrived := [0,1]} 2,2,{run0 with phase := 1, arrived := [0,1]}),
   (b {run0 with phase := 1, arrived := [0]} 1,2,{run0 with phase := 1, arrived := [0]}),(cc (b run0 1),2,run0),
   (cc (b run0 2),2,run0),
  (b {run0 with kind := 3} 2,2,{run0 with kind := 3}),(b {run0 with kind := 3, phase := 1} 2,2,{run0 with kind := 3, phase := 1}),
  (b {run0 with kind := 4, phase := 2} 2,2,{run0 with kind := 4, phase := 2})])

/-- Every clause of Collectives has a state and operands that meet all its hypotheses together. -/
theorem witness_Collectives :
  (∃ w0 ∈ pick wit_Collectives 1,
 let s := w0.1;
 let c := w0.2.1;
 let r := w0.2.2;
 (Clean s) ∧ (s.collRun c = some r) ∧ (r.ending = none) ∧ (s.frozenAs (0x1000 + c) = false) ∧
 let alone := s.slice.queued.find? (fun p => p.1 == c) = none
 (r.kind = 0) ∧ (r.phase ≠ 0) ∧ (r.left = 0) ∧ ((s.layerMap r.context r.layer).isSome = true) ∧ (s.gathered r = true) ∧ (alone)) ∧
  (∃ w0 ∈ pick wit_Collectives 0,
 let s := w0.1;
 let c := w0.2.1;
 let r := w0.2.2;
 (Clean s) ∧ (s.collRun c = some r) ∧ (r.ending = none) ∧ (s.frozenAs (0x1000 + c) = false) ∧ (r.kind = 0) ∧ (r.phase ≠ 0) ∧
   (r.left ≠ 0 ∨ s.gathered r = false)) ∧
  (∃ w0 ∈ pick wit_Collectives 3,
 let s := w0.1;
 let c := w0.2.1;
 let r := w0.2.2;
 (Clean s) ∧ (s.collRun c = some r) ∧ (r.ending = none) ∧ (s.frozenAs (0x1000 + c) = false) ∧ (∃ v5 ∈ [(lmap,shard)],
 let m := v5.1;
 let k := v5.2;
 (r.kind = 0) ∧ (r.phase = 0) ∧ (r.left = 0) ∧ (s.layerMap r.context r.layer = some m) ∧ (s.ownShard m = some k) ∧
   (64 < k.slotBytes))) ∧
  (∃ w0 ∈ pick wit_Collectives 5,
 let s := w0.1;
 let c := w0.2.1;
 let r := w0.2.2;
 (Clean s) ∧ (s.collRun c = some r) ∧ (r.ending = none) ∧ (s.frozenAs (0x1000 + c) = false) ∧ (r.kind = 3) ∧ (r.phase = 0)) ∧
  (∃ w0 ∈ pick wit_Collectives 6,
 let s := w0.1;
 let c := w0.2.1;
 let r := w0.2.2;
 (Clean s) ∧ (s.collRun c = some r) ∧ (r.ending = none) ∧ (s.frozenAs (0x1000 + c) = false) ∧
 let alone := s.slice.queued.find? (fun p => p.1 == c) = none
 (∃ v6 ∈ [5],
 (r.phase = 1) ∧
   (s.slice.running.find? (fun p => p.2.kind == 3 && p.2.context == r.context && p.2.step == r.step && p.2.phase == 1 && p.2.ending.isNone) = some (c, r)) ∧ (alone))) ∧
  (∃ w0 ∈ pick wit_Collectives 7,
 let s := w0.1;
 let c := w0.2.1;
 let r := w0.2.2;
 (Clean s) ∧ (s.collRun c = some r) ∧ (r.ending = none) ∧ (s.frozenAs (0x1000 + c) = false) ∧
 let alone := s.slice.queued.find? (fun p => p.1 == c) = none
 (∃ v6 ∈ [cmap],
 let m := v6;
 (r.kind = 4) ∧ (2 ≤ r.phase) ∧ (r.left = 0) ∧ (s.ctxMap r.context = some m) ∧ (∀ p ∈ m.rounds, s.flagMark p.2.2.2 = .good ∧
   s.flag p.2.2.2 ≠ 0) ∧ (alone))) := by
  dsimp only [TileTxn, TileQuiet, Completed, HeaderFits, CollEnded, Recorded, faultKey, BufferHas, ResetNoted, Clean]
  and_intros <;> decide +kernel

/-- States and operands for the hypotheses of Reductions. -/
def wit_Reductions : List (State × Nat × CollRun × Config.LayerMap) :=
(let b := fun (r : CollRun) (n : Nat) => cf (fun c => {c with active := {c.active with mapLayers := [lmap]}}) (sst 2 (sl (fun x => {x with running := [(2,r)]}) (hs (fun h => {h with queues := [(1,{st := 1, cmds := [{index := 5, raw := 0}]})], flags := [(3,1),(4,1),(8,1)], busMaster := true, d0 := true}) (mtt n))))
 let cc := fun (s : State) => chans [(0,rdy),(128,rdy)] (s)
 [(cc (b {run0 with kind := 1, phase := 1} 2),2,{run0 with kind := 1, phase := 1},lmap),
   (cc (b {run0 with kind := 1, phase := 3} 2),2,{run0 with kind := 1, phase := 3},lmap),
   (cc (b {run0 with kind := 1, phase := 1} 1),2,{run0 with kind := 1, phase := 1},lmap),
   (cc (b {run0 with kind := 1, phase := 3} 1),2,{run0 with kind := 1, phase := 3},lmap),
  (cc (b {run0 with kind := 1, phase := 4} 1),2,{run0 with kind := 1, phase := 4},lmap),
    ({cc (b {run0 with kind := 2, phase := 0} 1) with ctxs := [(0,{nlayer := 3, ran := true, skimDone := true})]},2,{run0 with kind := 2, phase := 0},lmap),(cc (b {run0 with kind := 2, phase := 6} 1),2,{run0 with kind := 2, phase := 6},lmap)])

/-- Every clause of Reductions has a state and operands that meet all its hypotheses together. -/
theorem witness_Reductions :
  (∃ w0 ∈ pick wit_Reductions 0,
 let s := w0.1;
 let c := w0.2.1;
 let r := w0.2.2.1;
 let m := w0.2.2.2;
 (Clean s) ∧ (s.collRun c = some r) ∧ (r.ending = none) ∧ (s.frozenAs (0x1000 + c) = false) ∧ (r.left = 0) ∧ (s.domSize ≠ 0) ∧
   (s.layerMap r.context r.layer = some m) ∧ (r.kind = 1) ∧ (r.phase = 1) ∧
   (∀ k, s.ownShard m = some k → s.flagMark k.domFlag = .good)) ∧
  (∃ w0 ∈ pick wit_Reductions 1,
 let s := w0.1;
 let c := w0.2.1;
 let r := w0.2.2.1;
 let m := w0.2.2.2;
 (Clean s) ∧ (s.collRun c = some r) ∧ (r.ending = none) ∧ (s.frozenAs (0x1000 + c) = false) ∧ (r.left = 0) ∧ (s.domSize ≠ 0) ∧
 let own := s.chanOf 1 r.context r.layer = some (c, r)
 (∃ v8 ∈ (s.ownShard m).toList,
 let k := v8;
 (s.layerMap r.context r.layer = some m) ∧ (own) ∧ (s.ownShard m = some k) ∧ (s.flagMark k.totFlag = .good) ∧ (r.phase = 3))) ∧
  (∃ w0 ∈ pick wit_Reductions 4,
 let s := w0.1;
 let c := w0.2.1;
 let r := w0.2.2.1;
 let m := w0.2.2.2;
 (Clean s) ∧ (s.collRun c = some r) ∧ (r.ending = none) ∧ (s.frozenAs (0x1000 + c) = false) ∧ (r.left = 0) ∧ (s.domSize ≠ 0) ∧
 let alone := s.slice.queued.find? (fun p => p.1 == c) = none
 let own := s.chanOf 1 r.context r.layer = some (c, r)
 let os := s.owners r.context s.ownPos
 (∃ v10 ∈ (s.ownShard m).toList,
 let k := v10;
 (s.layerMap r.context r.layer = some m) ∧ (own) ∧ (s.ownShard m = some k) ∧ (s.flagMark k.totFlag = .good) ∧ (r.phase = 4) ∧
   (os.length ≤ (s.flag k.totFlag).toNat) ∧ (alone))) ∧
  (∃ w0 ∈ pick wit_Reductions 6,
 let s := w0.1;
 let c := w0.2.1;
 let r := w0.2.2.1;
 let m := w0.2.2.2;
 (Clean s) ∧ (s.collRun c = some r) ∧ (r.ending = none) ∧ (s.frozenAs (0x1000 + c) = false) ∧ (r.left = 0) ∧ (s.domSize ≠ 0) ∧
 let alone := s.slice.queued.find? (fun p => p.1 == c) = none
 (s.layerMap r.context r.layer = some m) ∧ (r.kind = 2) ∧ (r.phase = 6) ∧ (s.flagMark m.sumFlag = .good) ∧
   (s.domSize ≤ (s.flag m.sumFlag).toNat) ∧ (alone)) ∧
  (∃ w0 ∈ pick wit_Reductions 5,
 let s := w0.1;
 let c := w0.2.1;
 let r := w0.2.2.1;
 (Clean s) ∧ (s.collRun c = some r) ∧ (r.ending = none) ∧ (s.frozenAs (0x1000 + c) = false) ∧ (r.left = 0) ∧ (s.domSize ≠ 0) ∧
 let alone := s.slice.queued.find? (fun p => p.1 == c) = none
 (r.kind = 2) ∧ (r.phase = 0) ∧ ((s.ctx r.context).skimDone = true) ∧ (alone)) := by
  dsimp only [TileTxn, TileQuiet, Completed, HeaderFits, CollEnded, Recorded, faultKey, BufferHas, ResetNoted, Clean]
  and_intros <;> decide +kernel

/-- States and operands for the hypotheses of VerdictExchange. -/
def wit_VerdictExchange : List (State × Nat × Nat × Nat × W64 × W64 × VerdictUp × VerdictDown) :=
(let s := sst 2 (mtt 2)
 let s1 := sst 2 (mtt 1)
 let v : VerdictUp := {step := 9, nonFinite := true, crcAll := 0, contexts := []}
 let d : VerdictDown := {step := 9, verdict := 30, nonFinite := false, losses := []}
 [(s,4,0,3,9,100,v,d),(sl (fun x => {x with counts := [(9,3,1,5)]}) s,4,0,3,9,100,v,d),
   (sl (fun x => {x with finalDone := true}) s,4,0,3,9,100,v,{d with verdict := 20}),(s1,4,0,3,9,100,v,d),
   (sl (fun x => {x with verdicts := [(1,{v with crcAll := 7})]}) s,4,0,3,9,100,v,d),
   (sl (fun x => {x with verdicts := [(1,v)]}) s,4,0,3,9,100,v,d),
   ({cf (fun c => {c with active := {c.active with mapLayers := [lmap], mapCtxs := [cmap]}}) (hs (fun h => {h with flags := [(8,2),(9,3)]}) (sl (fun x => {x with finalDone := true}) s)) with ctxs := [(0,{nlayer := 3, ran := true, trains := true, layers := [{},{},{}], table := [{}]})]},4,0,3,9,100,v,d),
 (let m := fun (b : W64) => { sst 2 (sl (fun x => {x with verdictSent := true, step := 9}) (esc' (mtt 2) (fun e => {e with beat := b}))) with ctxs := [(0,{nlayer := 3, ran := true, trains := true, layers := [{},{},{}], table := [{}]})]}
 (m 20,4,0,3,9,100,v,d)),
 (let m := fun (b : W64) => { sst 2 (sl (fun x => {x with verdictSent := true, step := 9}) (esc' (mtt 2) (fun e => {e with beat := b}))) with ctxs := [(0,{nlayer := 3, ran := true, trains := true, layers := [{},{},{}], table := [{}]})]}
 (m 31,4,0,3,9,100,v,d))])

/-- Every clause of VerdictExchange has a state and operands that meet all its hypotheses together. -/
theorem witness_VerdictExchange :
  (∃ w0 ∈ pick wit_VerdictExchange 0,
 let s := w0.1;
 let src := w0.2.1;
 let rank := w0.2.2.1;
 let ctx := w0.2.2.2.1;
 let step := w0.2.2.2.2.1;
 let count := w0.2.2.2.2.2.1;
 (Clean s) ∧ (s.rankOf src = some rank) ∧ (s.isMaster = true) ∧ (s.outside = true) ∧
 let held := s.slice.counts.filter (fun p => p.2.1 != ctx || (p.1 == step && p.2.2.1 != rank)) ++ [(step, ctx, rank, count)]
 let mine := held.filter (fun p => p.2.1 == ctx)
 (mine.length ≠ s.nMembers)) ∧
  (∃ w0 ∈ pick wit_VerdictExchange 1,
 let s := w0.1;
 let src := w0.2.1;
 let rank := w0.2.2.1;
 let ctx := w0.2.2.2.1;
 let step := w0.2.2.2.2.1;
 let count := w0.2.2.2.2.2.1;
 (Clean s) ∧ (s.rankOf src = some rank) ∧ (s.isMaster = true) ∧ (s.outside = true) ∧
 let held := s.slice.counts.filter (fun p => p.2.1 != ctx || (p.1 == step && p.2.2.1 != rank)) ++ [(step, ctx, rank, count)]
 let mine := held.filter (fun p => p.2.1 == ctx)
 (mine.length = s.nMembers)) ∧
  (∃ w0 ∈ pick wit_VerdictExchange 6,
 let s := w0.1;
 (Clean s) ∧ (s.sliceSt = 2) ∧ (s.slice.verdictSent = false) ∧ (s.slice.finalDone = true) ∧ (s.slice.finalWait = []) ∧
   (s.saveHolds = false) ∧ (s.trainCtxs ≠ []) ∧ (s.ranCtxs.length ≤ 7) ∧ (∀ f ∈ s.stepFlags, s.flagMark f = .good ∧
   s.domSize ≤ (s.flag f).toNat)) ∧
  (∃ w0 ∈ pick wit_VerdictExchange 0,
 let s := w0.1;
 (Clean s) ∧ (s.saveHolds = true ∨ s.trainCtxs = [])) ∧
  (∃ w0 ∈ pick wit_VerdictExchange 0,
 let s := w0.1;
 let src := w0.2.1;
 let rank := w0.2.2.1;
 let v := w0.2.2.2.2.2.2.1;
 (Clean s) ∧ (s.rankOf src = some rank) ∧ (s.sliceSt = 2) ∧ (s.isMaster = true) ∧
 let held := s.slice.verdicts.filter (fun p => p.2.step == v.step) |>.filter (fun p => p.1 != rank)
 let all := held ++ [(rank, v)]
 (all.length ≠ s.nMembers)) ∧
  (∃ w0 ∈ pick wit_VerdictExchange 3,
 let s := w0.1;
 let src := w0.2.1;
 let rank := w0.2.2.1;
 let v := w0.2.2.2.2.2.2.1;
 (Clean s) ∧ (s.rankOf src = some rank) ∧ (s.sliceSt = 2) ∧ (s.isMaster = true) ∧
 let held := s.slice.verdicts.filter (fun p => p.2.step == v.step) |>.filter (fun p => p.1 != rank)
 let all := held ++ [(rank, v)]
 let vs := (List.range s.nMembers).filterMap (fun k => (all.find? (fun p => p.1 == k)).map (·.2))
 let agree := crcDiffers vs = [] ∧ ∀ a ∈ vs, ∀ b ∈ vs, a.crcAll = b.crcAll
 (all.length = s.nMembers) ∧ (agree) ∧ (((vs.flatMap (fun v => v.contexts.map (·.context))).eraseDups).length ≤ 29)) ∧
  (∃ w0 ∈ pick wit_VerdictExchange 4,
 let s := w0.1;
 let src := w0.2.1;
 let rank := w0.2.2.1;
 let v := w0.2.2.2.2.2.2.1;
 (Clean s) ∧ (s.rankOf src = some rank) ∧ (s.sliceSt = 2) ∧ (s.isMaster = true) ∧
 let held := s.slice.verdicts.filter (fun p => p.2.step == v.step) |>.filter (fun p => p.1 != rank)
 let all := held ++ [(rank, v)]
 let vs := (List.range s.nMembers).filterMap (fun k => (all.find? (fun p => p.1 == k)).map (·.2))
 let agree := crcDiffers vs = [] ∧ ∀ a ∈ vs, ∀ b ∈ vs, a.crcAll = b.crcAll
 (all.length = s.nMembers) ∧ (¬ agree)) ∧
  (∃ w0 ∈ pick wit_VerdictExchange 0,
 let s := w0.1;
 let d := w0.2.2.2.2.2.2.2;
 (Clean s) ∧ (s.sliceSt ≠ 2 ∨ s.slice.verdictSent = false ∨ d.step ≠ s.slice.step ∨ s.trainCtxs = [])) ∧
  (∃ w0 ∈ pick wit_VerdictExchange 7,
 let s := w0.1;
 let d := w0.2.2.2.2.2.2.2;
 (Clean s) ∧
 let mineToo := s.sliceSt = 2 ∧ s.slice.verdictSent = true ∧ d.step = s.slice.step ∧ s.trainCtxs ≠ []
 (mineToo) ∧ (s.esc.beat.toNat < d.verdict.toNat)) ∧
  (∃ w0 ∈ pick wit_VerdictExchange 8,
 let s := w0.1;
 let d := w0.2.2.2.2.2.2.2;
 (Clean s) ∧
 let mineToo := s.sliceSt = 2 ∧ s.slice.verdictSent = true ∧ d.step = s.slice.step ∧ s.trainCtxs ≠ []
 (mineToo) ∧ (d.verdict.toNat ≤ s.esc.beat.toNat)) := by
  dsimp only [TileTxn, TileQuiet, Completed, HeaderFits, CollEnded, Recorded, faultKey, BufferHas, ResetNoted, Clean]
  and_intros <;> decide +kernel

/-- States and operands for the hypotheses of ControlStoreAccess. -/
def wit_ControlStoreAccess : List (State) :=
(let t := fun (n b i : Nat) (s : State) => {s with cwld := {s.cwld with target := BitVec.ofNat 64 (n + b*2^20 + i*2^21), data0 := 0x1234, data3 := 9}}
 let r := fun (st : TileSt) => r0.setTile 5 {st := st, cs0 := {words := [(3,7)], entries := [(2,0x105)]}}
 let u := fun (s : State) => cf (fun c => {c with armed := [{q := 1, index := 2, beat := 5}], staging := some stg}) s
 [{t 5 0 3 z with cwld := {(t 5 0 3 z).cwld with status := 1}}, syn (t 5 0 3 z), syn (t 5 1 3 (r .run)),
   t 5 1 3 (ld 5 (cf (fun c => {c with staging := some stg, stagedDigest := 7}) (r .run))), t 5 0 272 z, t 5 0 3 (r .run),
   t 5 1 3 (r .run), t 5 1 258 (r .run), t 5 0 258 (r .halted), t 5 0 3 (r .fault), t 5 0 258 (r .run), t 5 1 3 (u (r .run)),
   t 5 1 3 (u (r .halted))])

/-- Every clause of ControlStoreAccess has a state and operands that meet all its hypotheses together. -/
theorem witness_ControlStoreAccess :
  (∃ w0 ∈ pick wit_ControlStoreAccess 4,
 let s := w0;
 (Clean s) ∧
 let k := s.cwLatched
 let i := fld k.target 21 9
 (271 < i)) ∧
  (∃ w0 ∈ pick wit_ControlStoreAccess 3,
 let s := w0;
 (Clean s) ∧
 let k := s.cwLatched
 let n := fld k.target 0 20
 let b := fld k.target 20 1
 let i := fld k.target 21 9
 let x := s.tile n
 (i ≤ 271) ∧ (b ≠ x.bank) ∧ (s.shadowCommitted n = false) ∧ (s.loadSt = 5) ∧ (s.commitPast = false)) ∧
  (∃ w0 ∈ pick wit_ControlStoreAccess 2,
 let s := w0;
 (Clean s) ∧
 let k := s.cwLatched
 let n := fld k.target 0 20
 let b := fld k.target 20 1
 let i := fld k.target 21 9
 let x := s.tile n
 (i ≤ 271) ∧ (s.shadowUndef n = false) ∧ (b ≠ x.bank) ∧ (s.shadowCommitted n = false) ∧ (s.loadSt < 4 ∨ s.commitPast = true)) ∧
  (∃ w0 ∈ pick wit_ControlStoreAccess 11,
 let s := w0;
 (Clean s) ∧
 let k := s.cwLatched
 let n := fld k.target 0 20
 let b := fld k.target 20 1
 let i := fld k.target 21 9
 let x := s.tile n
 (i ≤ 271) ∧ (s.shadowUndef n = false) ∧ (b ≠ x.bank) ∧ (s.shadowCommitted n = true)) ∧
  (∃ w0 ∈ pick wit_ControlStoreAccess 0,
 let s := w0;
 (Clean s) ∧
 let k := s.cwLatched
 let n := fld k.target 0 20
 let b := fld k.target 20 1
 let i := fld k.target 21 9
 let x := s.tile n
 let stopped := x.st = .halted ∨ x.st = .fault
 (i ≤ 271) ∧ (s.shadowUndef n = false) ∧ (b = x.bank) ∧ (stopped)) ∧
  (∃ w0 ∈ pick wit_ControlStoreAccess 5,
 let s := w0;
 (Clean s) ∧
 let k := s.cwLatched
 let n := fld k.target 0 20
 let b := fld k.target 20 1
 let i := fld k.target 21 9
 let x := s.tile n
 let stopped := x.st = .halted ∨ x.st = .fault
 (i ≤ 271) ∧ (s.shadowUndef n = false) ∧ (b = x.bank) ∧ (¬ stopped)) := by
  dsimp only [TileTxn, TileQuiet, Completed, HeaderFits, CollEnded, Recorded, faultKey, BufferHas, ResetNoted, Clean]
  and_intros <;> decide +kernel

/-- States and operands for the hypotheses of LoadControl. -/
def wit_LoadControl : List (State) :=
(let a := fun (s : State) => cf (fun c => {c with armed := [{q := 1, index := 2, beat := 5}]}) s
 let g := fun (s : State) => cf (fun c => {c with staging := some stg, stagedDigest := 2, loadSrc := 1}) s
 [z, a z, ld 2 z, g (ld 5 z), ld 5 (cf (fun c => {c with staging := some stg}) z)])

/-- Every clause of LoadControl has a state and operands that meet all its hypotheses together. -/
theorem witness_LoadControl :
  (∃ w0 ∈ pick wit_LoadControl 1,
 let s := w0;
 (Clean s) ∧ ((1 ≤ s.loadSt ∧ s.loadSt ≤ 4) ∨ s.cfg.armed ≠ [] ∨ s.cfg.commit ≠ none)) ∧
  (∃ w0 ∈ pick wit_LoadControl 0,
 let s := w0;
 (Clean s) ∧ (s.cfg.armed = []) ∧ (s.cfg.commit = none) ∧ (s.loadSt = 0)) ∧
  (∃ w0 ∈ pick wit_LoadControl 3,
 let s := w0;
 (Clean s) ∧ (s.cfg.armed = []) ∧ (s.cfg.commit = none) ∧ (∃ v4 ∈ s.cfg.staging.toList,
 let g := v4;
 (s.loadSt = 5) ∧ (s.cfg.staging = some g))) := by
  dsimp only [TileTxn, TileQuiet, Completed, HeaderFits, CollEnded, Recorded, faultKey, BufferHas, ResetNoted, Clean]
  and_intros <;> decide +kernel

/-- States and operands for the hypotheses of LoadStates. -/
def wit_LoadStates : List (State × State × List Byte) :=
(let m := fun (bs : List Byte) (s : State) => chans [(513,rdy),
  (641,rdy)] (putB 0x1000 bs (cf (fun c => {c with loadAddr := 0x1000}) s))
 let good := img 0x4D494550 0
 let b := fun (s : State) => let r := s.imageBytes; (s, r.2, r.1)
 let v := fun (s : State) => cf (fun c => {c with verifyDigest := digestOf good}) s
 [b {z with mesh := [lpk]}, b (ld 1 z), b {ld 1 z with flash := {z.flash with images := [(0, [1,2,3])]}}, b (m good (ld 2 z)),
   b (m (img 5 0) (ld 3 z)), b (m (img 0x4D494550 1) (ld 3 z)), b (m good (ld 3 z)), b (v (m good (ld 4 z))), b (m good (ld 4 z)),
   b (cf (fun c => {c with staging := some stg}) (m good (ld 4 z)))])

/-- Every clause of LoadStates has a state and operands that meet all its hypotheses together. -/
theorem witness_LoadStates :
  (∃ w0 ∈ pick wit_LoadStates 1,
 let s := w0.1;
 (Clean s) ∧ (s.loadSt = 1)) ∧
  (∃ w0 ∈ pick wit_LoadStates 3,
 let s := w0.1;
 let u := w0.2.1;
 let bs := w0.2.2;
 (Clean s) ∧ (s.imageBytes = (bs, u)) ∧ (s.loadSt = 2)) ∧
  (∃ w0 ∈ pick wit_LoadStates 4,
 let s := w0.1;
 let u := w0.2.1;
 let bs := w0.2.2;
 (Clean s) ∧ (s.imageBytes = (bs, u)) ∧ (s.loadSt = 3) ∧ (leAt bs 0 4 ≠ 0x4D494550)) ∧
  (∃ w0 ∈ pick wit_LoadStates 4,
 let s := w0.1;
 let u := w0.2.1;
 let bs := w0.2.2;
 (Clean s) ∧ (s.imageBytes = (bs, u)) ∧ (∃ v3 ∈ [(4,0),(2,0),(5,0)],
 let r := v3.1;
 let i := v3.2;
 (s.loadSt = 3) ∧ (u.imageFail bs = some (r, i)) ∧ (r < 32) ∧ (i < 4096))) ∧
  (∃ w0 ∈ pick wit_LoadStates 5,
 let s := w0.1;
 let u := w0.2.1;
 let bs := w0.2.2;
 (Clean s) ∧ (s.imageBytes = (bs, u)) ∧ (s.loadSt = 3) ∧ (u.imageFail bs = none)) ∧
  (∃ w0 ∈ pick wit_LoadStates 8,
 let s := w0.1;
 let u := w0.2.1;
 let bs := w0.2.2;
 (Clean s) ∧ (s.imageBytes = (bs, u)) ∧ (s.loadSt = 4) ∧ (digestOf bs ≠ s.cfg.verifyDigest)) ∧
  (∃ w0 ∈ pick wit_LoadStates 7,
 let s := w0.1;
 let u := w0.2.1;
 let bs := w0.2.2;
 (Clean s) ∧ (s.imageBytes = (bs, u)) ∧ (s.loadSt = 4) ∧ (digestOf bs = s.cfg.verifyDigest)) ∧
  (∃ w0 ∈ pick wit_LoadStates 0,
 let s := w0.1;
 (Clean s) ∧
   (∃ v2 ∈ [(({ kind := 0, dest := 0, src := 1, trigger := 0, lsAddr := 4, cls := 2, op := 6, beatLo := 0, addr := BitVec.ofNat 64 (5 + 5*2^16+3*2^32+3*2^48), tag := 1 + 2^16 + 7*2^48, payload := [0x1122, 0xFFFF] } : MeshPkt),5,3,7,(0x1122 : Flit),(0xFFFF : Flit))],
 let p := v2.1;
 let x := v2.2.1;
 let y := v2.2.2.1;
 let first := v2.2.2.2.1;
 let lo := v2.2.2.2.2.1;
 let hi := v2.2.2.2.2.2;
 (p.op = 6) ∧ (x < 1024) ∧ (y < 1024) ∧ (first < 256) ∧ (p.payload = [lo, hi]) ∧
   (p.addr.toNat = x + x * 2 ^ 16 + y * 2 ^ 32 + y * 2 ^ 48) ∧ (p.tag = 1 + 2 ^ 16 + first * 2 ^ 48) ∧
   (s.mesh.find? (fun q => q.op == 6 && loadPattern q == loadPattern p) = some p))) ∧
  (∃ w0 ∈ pick wit_LoadStates 0,
 let s := w0.1;
 (Clean s) ∧ (∃ v2 ∈ [lpk, {lpk with op := 0}],
 let p := v2;
 (p.op ≠ 6 ∨ s.mesh.find? (fun q => q.op == 6 && loadPattern q == loadPattern p) ≠ some p))) := by
  dsimp only [TileTxn, TileQuiet, Completed, HeaderFits, CollEnded, Recorded, faultKey, BufferHas, ResetNoted, Clean]
  and_intros <;> decide +kernel

/-- States and operands for the hypotheses of CommitArms. -/
def wit_CommitArms : List (State × Nat × Nat × Cmd × W64) :=
(let c := fun (op : Nat) => ({index := 2, raw := mkLine [(0,op),(8,77)], st := .dispatched, arm := some 77, tag := some 9} : Cmd)
 let s := fun (op : Nat) (f : State → State) => f (hs (fun h => {h with queues := [(1,{st := 1, cmds := [c op], oldest := 2}),(3,{st := 1})], busMaster := true, d0 := true}) z)
 let b := fun (s : State) => (s,1,2,c 7, (77 : W64))
 [b (s 7 id), b (s 7 (hs (fun h => {h with busMaster := false}))),
   b (s 7 (fun t => hs (fun h => {h with busMaster := false}) (cf (fun c => {c with commit := some {q := 3, index := 1, beat := 6}}) t))), b (s 7 (cf (fun c => {c with commit := some {q := 3, index := 1, beat := 6}}))), b (sst 2 (fb (fun f => {f with id := 4}) (mtt 2) |> fun t => {t with host := (s 7 id).host})), b (cf (fun c => {c with retiming := true}) (chans [(0,rdy),(5,{st := 1}),(7,{st := 4})] z))])

/-- Every clause of CommitArms has a state and operands that meet all its hypotheses together. -/
theorem witness_CommitArms :
  (∃ w0 ∈ pick wit_CommitArms 2,
 let s := w0.1;
 let q := w0.2.1;
 let i := w0.2.2.1;
 let c := w0.2.2.2.1;
 let arm := w0.2.2.2.2;
 (Clean s) ∧ (s.frozenAs 0x1C00 = false) ∧ (s.cmd q i = some c) ∧ (cmdOp c.raw = 7) ∧ (c.st = .dispatched) ∧ (c.arm = some arm) ∧
   (c.replay = false) ∧ (s.cfg.commit ≠ none)) ∧
  (∃ w0 ∈ pick wit_CommitArms 0,
 let s := w0.1;
 let q := w0.2.1;
 let i := w0.2.2.1;
 let c := w0.2.2.2.1;
 let arm := w0.2.2.2.2;
 (Clean s) ∧ (s.frozenAs 0x1C00 = false) ∧ (s.cmd q i = some c) ∧ (cmdOp c.raw = 7) ∧ (c.st = .dispatched) ∧ (c.arm = some arm) ∧
   (c.replay = false) ∧ (s.cfg.commit = none) ∧ (s.sliceSt ≠ 2)) ∧
  (∃ w0 ∈ pick wit_CommitArms 4,
 let s := w0.1;
 let q := w0.2.1;
 let i := w0.2.2.1;
 let c := w0.2.2.2.1;
 let arm := w0.2.2.2.2;
 (Clean s) ∧ (s.frozenAs 0x1C00 = false) ∧ (s.cmd q i = some c) ∧ (cmdOp c.raw = 7) ∧ (c.st = .dispatched) ∧ (c.arm = some arm) ∧
   (c.replay = false) ∧ (s.cfg.commit = none) ∧ (s.sliceSt = 2)) ∧
  (∃ w0 ∈ pick wit_CommitArms 5,
 let s := w0.1;
 (Clean s) ∧ (s.frozenAs 0x1C00 = false) ∧ (s.cfg.retiming = true)) ∧
  (∃ w0 ∈ pick wit_CommitArms 0,
 let s := w0.1;
 (Clean s) ∧ (s.frozenAs 0x1C00 = false) ∧ (s.cfg.retiming = false)) := by
  dsimp only [TileTxn, TileQuiet, Completed, HeaderFits, CollEnded, Recorded, faultKey, BufferHas, ResetNoted, Clean]
  and_intros <;> decide +kernel

/-- States and operands for the hypotheses of QueuesAndDispatch. -/
def wit_QueuesAndDispatch : List (State × Nat × Nat × W32 × W64 × Line) :=
(let b : State → List (State × Nat × Nat × W32 × W64 × Line) := fun (s : State) => ([(0 : W32),4,40].flatMap fun t => [0,1,8,9,11,0x41].map fun v => (s,1,9,t,BitVec.ofNat 64 v,mkLine [(0,2)]))
 let ds : List Cmd := [cmd1 [(0,2),(40,1)] id, cmd1 [(0,2),(40,1),(6,1)] id, cmd1 [(0,1)] id, cmd1 [(0,5),(16,3)] id, cmd1 [(0,6),
   (16,1)] id, cmd1 [(0,2),(2,3)] id, cmd1 [(0,2),(8,50)] id, cmd1 [(0,2),(8,3)] id, cmd1 [(0,2),(8,10)] id]
 b (syn (q1 id (dma z))) ++ b (q1 (fun x => {x with st := 0}) z) ++ b (q1 (fun x => {x with st := 2}) z) ++ b (q1 id (dma z)) ++
   b (q1 (fun x => {x with cmds := [cmd1 [(0,2)] id]}) z) ++
 b (q1 (fun x => {x with doomed := [3]}) (dma z)) ++ b (q1 (fun x => {x with doomed := [5]}) (dma z)) ++
 b (q1 (fun x => {x with oldest := 3, doomed := [3]}) (dma z)) ++
 ([1,0].flatMap fun (st : Nat) => [2,3].map fun (n : Nat) => (esc' (bt 10 (q1 (fun x => {x with fetched := 3, cmds := [cmd1 [(0,2),(2,1),(8,n),(14,20)] (fun c => {c with tag := some 9})]}) z)) (fun e => {e with periodCfg := 10, started := (st == 1), start := 3, now := 2}),1,9,(0 : W32),(0 : W64),mkLine [])) ++
 (([(0,4),(32,64)] :: [(0,2),
   (2,3)] :: [(0,1)] :: [(0,0)] :: []).map fun l => (bt 10 (q1 (fun x => {x with fetched := 3, cmds := [cmd1 l (fun c => {c with tag := some 9})]}) (dma (sst 3 z))),1,9,(0 : W32),(0 : W64),mkLine [])) ++
 [(bt 10 (q1 (fun x => {x with fetched := 3, cmds := [cmd1 [(0,5),(16,3)] (fun c => {c with tag := some 9})]}) (dma (sst 3 z))),1,9,(0 : W32),(0 : W64),mkLine [])] ++
 ds.flatMap (fun c => let s : (State → State) → State := fun f => f (bt 10 (q1 (fun x => {x with fetched := 3, cmds := [c]}) z))
   [z,dma z,sst 2 z,sst 3 z].map (fun (w : State) => (s (fun t => {t with slice := w.slice, host := {t.host with busMaster := w.host.busMaster}}),1,9,(0 : W32),(0 : W64),mkLine []))))

/-- Every clause of QueuesAndDispatch has a state and operands that meet all its hypotheses together. -/
theorem witness_QueuesAndDispatch :
  (∃ w0 ∈ pick wit_QueuesAndDispatch 18,
 let s := w0.1;
 let q := w0.2.1;
 (Clean s) ∧ (q < Config.queues) ∧ (s.synced = false)) ∧
  (∃ w0 ∈ pick wit_QueuesAndDispatch 0,
 let s := w0.1;
 let q := w0.2.1;
 (Clean s) ∧ (q < Config.queues) ∧ (s.synced = true)) ∧
  (∃ w0 ∈ pick wit_QueuesAndDispatch 19,
 let s := w0.1;
 let q := w0.2.1;
 let v := w0.2.2.2.2.1;
 (Clean s) ∧
 let x := s.queue q
 (x.st = 0) ∧ (bitOf v 0 = true)) ∧
  (∃ w0 ∈ pick wit_QueuesAndDispatch 2,
 let s := w0.1;
 let q := w0.2.1;
 let v := w0.2.2.2.2.1;
 (Clean s) ∧
 let x := s.queue q
 (x.st ≠ 0) ∧ (bitOf v 0 = false) ∧ (bitOf v 6 = false) ∧ (fld v 1 5 = fld x.cfg 1 5) ∧
 let empty := x.cmds = [] ∧ ∀ r ∈ s.host.held, r.q ≠ q
 (empty)) ∧
  (∃ w0 ∈ pick wit_QueuesAndDispatch 74,
 let s := w0.1;
 let q := w0.2.1;
 let v := w0.2.2.2.2.1;
 (Clean s) ∧
 let x := s.queue q
 (x.st ≠ 0) ∧ (bitOf v 0 = false) ∧ (bitOf v 6 = false) ∧ (fld v 1 5 = fld x.cfg 1 5) ∧
 let empty := x.cmds = [] ∧ ∀ r ∈ s.host.held, r.q ≠ q
 (¬ empty)) ∧
  (∃ w0 ∈ pick wit_QueuesAndDispatch 1,
 let s := w0.1;
 let q := w0.2.1;
 let v := w0.2.2.2.2.1;
 (Clean s) ∧
 let x := s.queue q
 (x.st ≠ 0) ∧ (bitOf v 0 = true) ∧ (bitOf v 6 = false) ∧ (fld v 1 5 ≠ fld x.cfg 1 5)) ∧
  (∃ w0 ∈ pick wit_QueuesAndDispatch 0,
 let s := w0.1;
 let q := w0.2.1;
 let line := w0.2.2.2.2.2;
 (Clean s) ∧
 let x := s.queue q
 (x.st = 1) ∧ (s.dmaOk = true) ∧ (s.outOfService = false) ∧ (s.frozenAs 0x1C00 = false) ∧ (x.mayFetch = true) ∧
 let c : Cmd := { index := x.fetched, raw := line }
 ((x.cmds.filter (fun c => c.st == .fetched)).length < 16) ∧ (x.doomed.contains x.fetched = false)) ∧
  (∃ w0 ∈ pick wit_QueuesAndDispatch 90,
 let s := w0.1;
 let q := w0.2.1;
 let line := w0.2.2.2.2.2;
 (Clean s) ∧
 let x := s.queue q
 (x.st = 1) ∧ (s.dmaOk = true) ∧ (s.outOfService = false) ∧ (s.frozenAs 0x1C00 = false) ∧ (x.mayFetch = true) ∧
 let c : Cmd := { index := x.fetched, raw := line }
 ((x.cmds.filter (fun c => c.st == .fetched)).length < 16) ∧ (x.doomed.contains x.fetched = true) ∧ (s.cmd q x.fetched = none)) ∧
  (∃ w0 ∈ pick wit_QueuesAndDispatch 18,
 let s := w0.1;
 let q := w0.2.1;
 (Clean s) ∧
 let x := s.queue q
 (x.st ≠ 1 ∨ s.dmaOk = false ∨ s.outOfService = true ∨ s.frozenAs 0x1C00 = true ∨ x.mayFetch = false)) ∧
  (∃ w0 ∈ pick wit_QueuesAndDispatch 151,
 let s := w0.1;
 let q := w0.2.1;
 (Clean s) ∧
 let x := s.queue q
 (∃ v3 ∈ x.cmds,
 let c := v3;
 (x.st = 1) ∧ (s.suspect q = false) ∧ (s.frozenAs 0x1C00 = false) ∧ (x.next = some c) ∧ (s.cmd q c.index = some c) ∧
   (x.inOrder c = true) ∧ (c.replay = false) ∧ (badCommand c.raw = true))) ∧
  (∃ w0 ∈ pick wit_QueuesAndDispatch 150,
 let s := w0.1;
 let q := w0.2.1;
 (Clean s) ∧
 let x := s.queue q
 (∃ v3 ∈ x.cmds,
 let c := v3;
 (x.st = 1) ∧ (s.suspect q = false) ∧ (s.frozenAs 0x1C00 = false) ∧ (x.next = some c) ∧ (s.cmd q c.index = some c) ∧
   (x.inOrder c = true) ∧ (c.replay = false) ∧
 let op := cmdOp c.raw
 let slot := s.launchFor q c.raw
 (badCommand c.raw = false) ∧ (op = 1) ∧ (slot = none))) ∧
  (∃ w0 ∈ pick wit_QueuesAndDispatch 152,
 let s := w0.1;
 let q := w0.2.1;
 (Clean s) ∧
 let x := s.queue q
 (∃ v3 ∈ x.cmds,
 let c := v3;
 (x.st = 1) ∧ (s.suspect q = false) ∧ (s.frozenAs 0x1C00 = false) ∧ (x.next = some c) ∧ (s.cmd q c.index = some c) ∧
   (x.inOrder c = true) ∧ (c.replay = false) ∧
 let op := cmdOp c.raw
 let bound := op = 1 ∨ op = 5 ∨ op = 6
 let slot := s.launchFor q c.raw
 (badCommand c.raw = false) ∧ (bound) ∧ (op = 1 → slot ≠ none) ∧ (s.sliceSt = 3))) ∧
  (∃ w0 ∈ pick wit_QueuesAndDispatch 165,
 let s := w0.1;
 let q := w0.2.1;
 (Clean s) ∧
 let x := s.queue q
 (∃ v3 ∈ x.cmds,
 let c := v3;
 (x.st = 1) ∧ (s.suspect q = false) ∧ (s.frozenAs 0x1C00 = false) ∧ (x.next = some c) ∧ (s.cmd q c.index = some c) ∧
   (x.inOrder c = true) ∧ (c.replay = false) ∧
 let op := cmdOp c.raw
 let bound := op = 1 ∨ op = 5 ∨ op = 6
 let slot := s.launchFor q c.raw
 (badCommand c.raw = false) ∧ (bound) ∧ (op = 1 → slot ≠ none) ∧ (s.sliceSt < 2))) ∧
  (∃ w0 ∈ pick wit_QueuesAndDispatch 149,
 let s := w0.1;
 let q := w0.2.1;
 (Clean s) ∧
 let x := s.queue q
 (∃ v3 ∈ x.cmds,
 let c := v3;
 (x.st = 1) ∧ (s.suspect q = false) ∧ (s.frozenAs 0x1C00 = false) ∧ (x.next = some c) ∧ (s.cmd q c.index = some c) ∧
   (x.inOrder c = true) ∧ (c.replay = false) ∧
 let op := cmdOp c.raw
 let bound := op = 1 ∨ op = 5 ∨ op = 6
 let slot := s.launchFor q c.raw
 (badCommand c.raw = false) ∧ (op = 1 → slot ≠ none) ∧ (bound → s.sliceSt = 2) ∧ (s.armIs c.raw = .bad))) ∧
  (∃ w0 ∈ pick wit_QueuesAndDispatch 145,
 let s := w0.1;
 let q := w0.2.1;
 (Clean s) ∧
 let x := s.queue q
 (∃ v3 ∈ x.cmds,
 let c := v3;
 (x.st = 1) ∧ (s.suspect q = false) ∧ (s.frozenAs 0x1C00 = false) ∧ (x.next = some c) ∧ (s.cmd q c.index = some c) ∧
   (x.inOrder c = true) ∧ (c.replay = false) ∧
 let op := cmdOp c.raw
 let bound := op = 1 ∨ op = 5 ∨ op = 6
 let slot := s.launchFor q c.raw
 (badCommand c.raw = false) ∧ (op = 1 → slot ≠ none) ∧ (bound → s.sliceSt = 2) ∧ (s.armIs c.raw = .waits) ∧ (op ≠ 8))) ∧
  (∃ w0 ∈ pick wit_QueuesAndDispatch 148,
 let s := w0.1;
 let q := w0.2.1;
 let tag := w0.2.2.1;
 (Clean s) ∧
 let x := s.queue q
 (∃ v3 ∈ x.cmds,
 let c := v3;
 (x.st = 1) ∧ (s.suspect q = false) ∧ (s.frozenAs 0x1C00 = false) ∧ (x.next = some c) ∧ (s.cmd q c.index = some c) ∧
   (x.inOrder c = true) ∧ (c.replay = false) ∧
 let op := cmdOp c.raw
 let engine := op = 1 ∨ op = 4 ∨ op = 5 ∨ op = 6
 let bound := op = 1 ∨ op = 5 ∨ op = 6
 let slot := s.launchFor q c.raw
 (badCommand c.raw = false) ∧ (op = 1 → slot ≠ none) ∧ (bound → s.sliceSt = 2) ∧
   (∃ v18 ∈ [((11 : W64),false),((50 : W64),false),((11 : W64),true)],
 let b := v18.1;
 let late := v18.2;
 (s.armIs c.raw = .acts b late) ∧ (engine → tag < 65536 ∧ afind s.host.tags tag = none ∧ s.cfg.retiming = false) ∧
   (op = 1 → slot.map s.slotTaken = some false) ∧ (op = 4 → s.copyEngine c.raw ≠ none) ∧ (op = 6 → s.ckTaken = false)))) ∧
  (∃ w0 ∈ pick wit_QueuesAndDispatch 72,
 let s := w0.1;
 let q := w0.2.1;
 (Clean s) ∧
 let x := s.queue q
 (∃ v3 ∈ x.cmds,
 let c := v3;
 (x.st = 1) ∧ (s.suspect q = false) ∧ (s.frozenAs 0x1C00 = false) ∧ (x.next = some c) ∧ (s.cmd q c.index = some c) ∧
   (x.inOrder c = true) ∧ (c.replay = false) ∧ (badCommand c.raw = false) ∧ (cmdFld c.raw 2 1 = 0))) ∧
  (∃ w0 ∈ pick wit_QueuesAndDispatch 149,
 let s := w0.1;
 let q := w0.2.1;
 (Clean s) ∧
 let x := s.queue q
 (∃ v3 ∈ x.cmds,
 let c := v3;
 (x.st = 1) ∧ (s.suspect q = false) ∧ (s.frozenAs 0x1C00 = false) ∧ (x.next = some c) ∧ (s.cmd q c.index = some c) ∧
   (x.inOrder c = true) ∧ (c.replay = false) ∧ (badCommand c.raw = false) ∧ (2 ≤ cmdFld c.raw 2 1 ∨ (cmdFld c.raw 2 1 = 1 ∧
   s.periodP = 0)))) ∧
  (∃ w0 ∈ pick wit_QueuesAndDispatch 144,
 let s := w0.1;
 let q := w0.2.1;
 (Clean s) ∧
 let x := s.queue q
 (∃ v3 ∈ x.cmds,
 let c := v3;
 (x.st = 1) ∧ (s.suspect q = false) ∧ (s.frozenAs 0x1C00 = false) ∧ (x.next = some c) ∧ (s.cmd q c.index = some c) ∧
   (x.inOrder c = true) ∧ (c.replay = false) ∧
 let a := cmdFld c.raw 8 8
 (badCommand c.raw = false) ∧ (cmdFld c.raw 2 1 = 1) ∧ (s.periodP ≠ 0) ∧ (s.esc.started = true) ∧ (a % 2 ^ 48 = s.esc.now.toNat))) ∧
  (∃ w0 ∈ pick wit_QueuesAndDispatch 145,
 let s := w0.1;
 let q := w0.2.1;
 (Clean s) ∧
 let x := s.queue q
 (∃ v3 ∈ x.cmds,
 let c := v3;
 (x.st = 1) ∧ (s.suspect q = false) ∧ (s.frozenAs 0x1C00 = false) ∧ (x.next = some c) ∧ (s.cmd q c.index = some c) ∧
   (x.inOrder c = true) ∧ (c.replay = false) ∧
 let a := cmdFld c.raw 8 8
 (badCommand c.raw = false) ∧ (cmdFld c.raw 2 1 = 1) ∧ (s.periodP ≠ 0) ∧ (s.esc.started = true) ∧ (s.esc.now.toNat < a % 2 ^ 48) ∧
   (s.esc.announced = none))) := by
  dsimp only [TileTxn, TileQuiet, Completed, HeaderFits, CollEnded, Recorded, faultKey, BufferHas, ResetNoted, Clean]
  and_intros <;> decide +kernel

/-- States and operands for the hypotheses of FlagAndControlCommands. -/
def wit_FlagAndControlCommands : List (State × Nat × Nat × Cmd × W64 × W64) :=
(let s : List (Nat × Nat) → (Cmd → Cmd) → (State → State) → List (State × Nat × Nat × Cmd × W64 × W64) := fun l f g =>
   let c := cmd1 l (fun c => f {c with st := .dispatched, arm := some 5, tag := some 9})
   ([z,dma z].map fun w => (g (bt 10 (q1 (fun x => {x with cmds := [c]}) (hs (fun h => {h with flags := [(3,7),(8,1)]}) w))),1,2,c,(5 : W64),(4 : W64)))
 s [(0,2),(16,0x800000)] id id ++ s [(0,2),(16,24),(24,7),(32,0xFF),(40,0)] id id ++ s [(0,2),(16,24),(24,6),(32,0xFF),
   (40,2)] id id ++
 s [(0,2),(16,24),(24,9),(32,0xFF),(40,0)] id id ++ s [(0,2),(16,24),(24,9),(32,0xFF),(40,0),
   (48,6)] (fun c => {c with firstEval := some 4}) id ++
 s [(0,2),(16,24),(24,9),(32,0xFF),(40,0),
   (48,6)] (fun c => {c with firstEval := some 4, lastEval := some 10, st := .acting, value := 7}) id ++
  (let ga := mkGa 2 0x3FFF; s [(0,3),(16,(ga 0x800000).toNat),(24,5),(32,0)] id id ++ s [(0,3),(16,(ga 24).toNat),(24,5),
    (32,1)] id id ++ s [(0,3),(16,(ga 64).toNat),(24,5),(32,0)] id id ++ s [(0,3),(16,(mkGa 2 77 24).toNat),(24,5),
    (32,1)] id (fun t => fb (fun f => {f with rt := [(77, BitVec.ofNat 64 (5*2^40+63))]}) t)) ++
 s [(0,9)] id id ++ s [(0,9)] (fun c => {c with waits := [(3,9)]}) id ++
   s [(0,9)] (fun c => {c with waits := [(3,5)]}) (fun t => hs (fun h => {h with queues := aput h.queues 3 {st := 1, cmds := [d3]}}) t) ++
 s [(0,9)] (fun c => {c with lines := [(2,32)]}) (chans [(2,{rdy with wcb := [{addr := 32, mask := 1, data := 5, touched := 0}]})]) ++
 s [(0,10)] id id ++ s [(0,8),(16,5),(20,7)] id id ++ s [(0,8),(16,3),
   (20,5)] id (fun t => hs (fun h => {h with queues := aput h.queues 3 {st := 1, cmds := [d3]}}) t))

/-- Every clause of FlagAndControlCommands has a state and operands that meet all its hypotheses together. -/
theorem witness_FlagAndControlCommands :
  (∃ w0 ∈ pick wit_FlagAndControlCommands 0,
 let s := w0.1;
 let q := w0.2.1;
 let i := w0.2.2.1;
 let c := w0.2.2.2.1;
 let b := w0.2.2.2.2.1;
 (Clean s) ∧ (s.frozenAs 0x1C00 = false) ∧ (s.cmd q i = some c) ∧ (c.replay = false) ∧ (c.arm = some b) ∧
   (b.toNat ≤ s.esc.beat.toNat) ∧
 let off := cmdFld c.raw 16 8
 (cmdOp c.raw = 2) ∧ (c.st ≠ .fetched) ∧ (c.lastEval ≠ some s.esc.beat) ∧ (0x800000 ≤ off)) ∧
  (∃ w0 ∈ pick wit_FlagAndControlCommands 2,
 let s := w0.1;
 let q := w0.2.1;
 let i := w0.2.2.1;
 let c := w0.2.2.2.1;
 let b := w0.2.2.2.2.1;
 (Clean s) ∧ (s.frozenAs 0x1C00 = false) ∧ (s.cmd q i = some c) ∧ (c.replay = false) ∧ (c.arm = some b) ∧
   (b.toNat ≤ s.esc.beat.toNat) ∧
 let off := cmdFld c.raw 16 8
 let v := s.flag (off / 8)
 let m := BitVec.ofNat 64 (cmdFld c.raw 32 8)
 let l := (v &&& m).toNat
 let r := (BitVec.ofNat 64 (cmdFld c.raw 24 8) &&& m).toNat
 let cond := cmdFld c.raw 40 1
 let holds := if cond = 0 then l = r else if cond = 1 then l ≠ r else if cond = 2 then r ≤ l else l < r
 (cmdOp c.raw = 2) ∧ (c.st ≠ .fetched) ∧ (c.lastEval ≠ some s.esc.beat) ∧ (off < 0x800000) ∧ (s.flagMark (off / 8) = .good) ∧
   (holds)) ∧
  (∃ w0 ∈ pick wit_FlagAndControlCommands 8,
 let s := w0.1;
 let q := w0.2.1;
 let i := w0.2.2.1;
 let c := w0.2.2.2.1;
 let b := w0.2.2.2.2.1;
 (Clean s) ∧ (s.frozenAs 0x1C00 = false) ∧ (s.cmd q i = some c) ∧ (c.replay = false) ∧ (c.arm = some b) ∧
   (b.toNat ≤ s.esc.beat.toNat) ∧
 let off := cmdFld c.raw 16 8
 let v := s.flag (off / 8)
 let m := BitVec.ofNat 64 (cmdFld c.raw 32 8)
 let l := (v &&& m).toNat
 let r := (BitVec.ofNat 64 (cmdFld c.raw 24 8) &&& m).toNat
 let cond := cmdFld c.raw 40 1
 let holds := if cond = 0 then l = r else if cond = 1 then l ≠ r else if cond = 2 then r ≤ l else l < r
 let timeout := cmdFld c.raw 48 8
 let past := timeout ≠ 0 ∧ (c.firstEval.getD s.esc.beat).toNat + timeout ≤ s.esc.beat.toNat
 (cmdOp c.raw = 2) ∧ (c.st ≠ .fetched) ∧ (c.lastEval ≠ some s.esc.beat) ∧ (off < 0x800000) ∧ (s.flagMark (off / 8) = .good) ∧
   (¬ holds) ∧ (past)) ∧
  (∃ w0 ∈ pick wit_FlagAndControlCommands 6,
 let s := w0.1;
 let q := w0.2.1;
 let i := w0.2.2.1;
 let c := w0.2.2.2.1;
 let b := w0.2.2.2.2.1;
 (Clean s) ∧ (s.frozenAs 0x1C00 = false) ∧ (s.cmd q i = some c) ∧ (c.replay = false) ∧ (c.arm = some b) ∧
   (b.toNat ≤ s.esc.beat.toNat) ∧
 let off := cmdFld c.raw 16 8
 let v := s.flag (off / 8)
 let m := BitVec.ofNat 64 (cmdFld c.raw 32 8)
 let l := (v &&& m).toNat
 let r := (BitVec.ofNat 64 (cmdFld c.raw 24 8) &&& m).toNat
 let cond := cmdFld c.raw 40 1
 let holds := if cond = 0 then l = r else if cond = 1 then l ≠ r else if cond = 2 then r ≤ l else l < r
 let timeout := cmdFld c.raw 48 8
 let past := timeout ≠ 0 ∧ (c.firstEval.getD s.esc.beat).toNat + timeout ≤ s.esc.beat.toNat
 (cmdOp c.raw = 2) ∧ (c.st ≠ .fetched) ∧ (c.lastEval ≠ some s.esc.beat) ∧ (off < 0x800000) ∧ (s.flagMark (off / 8) = .good) ∧
   (¬ holds) ∧ (¬ past)) ∧
  (∃ w0 ∈ pick wit_FlagAndControlCommands 10,
 let s := w0.1;
 let q := w0.2.1;
 let i := w0.2.2.1;
 let c := w0.2.2.2.1;
 let b := w0.2.2.2.2.1;
 let first := w0.2.2.2.2.2;
 (Clean s) ∧ (s.frozenAs 0x1C00 = false) ∧ (s.cmd q i = some c) ∧ (c.replay = false) ∧ (c.arm = some b) ∧
   (b.toNat ≤ s.esc.beat.toNat) ∧
 let timeout := cmdFld c.raw 48 8
 (cmdOp c.raw = 2) ∧ (c.firstEval = some first) ∧ (timeout ≠ 0) ∧ (first.toNat + timeout ≤ s.esc.beat.toNat) ∧
   (c.lastEval = some s.esc.beat)) ∧
  (∃ w0 ∈ pick wit_FlagAndControlCommands 12,
 let s := w0.1;
 let q := w0.2.1;
 let i := w0.2.2.1;
 let c := w0.2.2.2.1;
 let b := w0.2.2.2.2.1;
 (Clean s) ∧ (s.frozenAs 0x1C00 = false) ∧ (s.cmd q i = some c) ∧ (c.replay = false) ∧ (c.arm = some b) ∧
   (b.toNat ≤ s.esc.beat.toNat) ∧
 let off := cmdFld c.raw 16 8
 (cmdOp c.raw = 3) ∧ (c.st ≠ .fetched) ∧ (c.sent = false) ∧
 let ga := BitVec.ofNat 64 off
 let n := gaOff ga
 (gaModule ga = s.moduleId) ∧ (0x800000 ≤ n) ∧ (cmdFld c.raw 32 1 ≠ 2)) ∧
  (∃ w0 ∈ pick wit_FlagAndControlCommands 14,
 let s := w0.1;
 let q := w0.2.1;
 let i := w0.2.2.1;
 let c := w0.2.2.2.1;
 let b := w0.2.2.2.2.1;
 (Clean s) ∧ (s.frozenAs 0x1C00 = false) ∧ (s.cmd q i = some c) ∧ (c.replay = false) ∧ (c.arm = some b) ∧
   (b.toNat ≤ s.esc.beat.toNat) ∧
 let off := cmdFld c.raw 16 8
 (cmdOp c.raw = 3) ∧ (c.st ≠ .fetched) ∧ (c.sent = false) ∧
 let ga := BitVec.ofNat 64 off
 let n := gaOff ga
 (gaModule ga = s.moduleId) ∧ (n < 0x800000) ∧ (s.flagMark (n / 8) = .good) ∧ (cmdFld c.raw 32 1 ≠ 2)) ∧
  (∃ w0 ∈ pick wit_FlagAndControlCommands 18,
 let s := w0.1;
 let q := w0.2.1;
 let i := w0.2.2.1;
 let c := w0.2.2.2.1;
 let b := w0.2.2.2.2.1;
 (Clean s) ∧ (s.frozenAs 0x1C00 = false) ∧ (s.cmd q i = some c) ∧ (c.replay = false) ∧ (c.arm = some b) ∧
   (b.toNat ≤ s.esc.beat.toNat) ∧
 let off := cmdFld c.raw 16 8
 (cmdOp c.raw = 3) ∧ (c.st ≠ .fetched) ∧ (c.sent = false) ∧
 let ga := BitVec.ofNat 64 off
 (gaModule ga ≠ s.moduleId) ∧ (cmdFld c.raw 32 1 ≠ 2) ∧ (bitOf (s.route (gaModule ga)) 42 = true) ∧
   (bitOf (s.route (gaModule ga)) 40 = true)) ∧
  (∃ w0 ∈ pick wit_FlagAndControlCommands 20,
 let s := w0.1;
 let q := w0.2.1;
 let i := w0.2.2.1;
 let c := w0.2.2.2.1;
 let b := w0.2.2.2.2.1;
 (Clean s) ∧ (s.frozenAs 0x1C00 = false) ∧ (s.cmd q i = some c) ∧ (c.replay = false) ∧ (c.arm = some b) ∧
   (b.toNat ≤ s.esc.beat.toNat) ∧
 let off := cmdFld c.raw 16 8
 let v := s.flag (off / 8)
 let m := BitVec.ofNat 64 (cmdFld c.raw 32 8)
 let l := (v &&& m).toNat
 (cmdOp c.raw = 9) ∧ (c.st ≠ .fetched) ∧
 let held := (∃ w ∈ c.waits, s.cmd w.1 w.2 ≠ none) ∨ ∃ l ∈ c.lines, ∃ w ∈ (s.chan l.1).wcb, w.addr = l.2
 (¬ held)) ∧
  (∃ w0 ∈ pick wit_FlagAndControlCommands 24,
 let s := w0.1;
 let q := w0.2.1;
 let i := w0.2.2.1;
 let c := w0.2.2.2.1;
 let b := w0.2.2.2.2.1;
 (Clean s) ∧ (s.frozenAs 0x1C00 = false) ∧ (s.cmd q i = some c) ∧ (c.replay = false) ∧ (c.arm = some b) ∧
   (b.toNat ≤ s.esc.beat.toNat) ∧
 let off := cmdFld c.raw 16 8
 let v := s.flag (off / 8)
 let m := BitVec.ofNat 64 (cmdFld c.raw 32 8)
 let l := (v &&& m).toNat
 (cmdOp c.raw = 9) ∧ (c.st ≠ .fetched) ∧
 let held := (∃ w ∈ c.waits, s.cmd w.1 w.2 ≠ none) ∨ ∃ l ∈ c.lines, ∃ w ∈ (s.chan l.1).wcb, w.addr = l.2
 (held)) ∧
  (∃ w0 ∈ pick wit_FlagAndControlCommands 29,
 let s := w0.1;
 let q := w0.2.1;
 let i := w0.2.2.1;
 let c := w0.2.2.2.1;
 let b := w0.2.2.2.2.1;
 (Clean s) ∧ (s.frozenAs 0x1C00 = false) ∧ (s.cmd q i = some c) ∧ (c.replay = false) ∧ (c.arm = some b) ∧
   (b.toNat ≤ s.esc.beat.toNat) ∧
 let m := BitVec.ofNat 64 (cmdFld c.raw 32 8)
 let r := (BitVec.ofNat 64 (cmdFld c.raw 24 8) &&& m).toNat
 (cmdOp c.raw = 10) ∧ (c.st ≠ .fetched) ∧ (s.mirrorNow = true) ∧
   (s.train.newest.all (fun r => decide (r.2.length ≤ 4096)) = true)) ∧
  (∃ w0 ∈ pick wit_FlagAndControlCommands 28,
 let s := w0.1;
 let q := w0.2.1;
 let i := w0.2.2.1;
 let c := w0.2.2.2.1;
 let b := w0.2.2.2.2.1;
 (Clean s) ∧ (s.frozenAs 0x1C00 = false) ∧ (s.cmd q i = some c) ∧ (c.replay = false) ∧ (c.arm = some b) ∧
   (b.toNat ≤ s.esc.beat.toNat) ∧ (cmdOp c.raw = 10) ∧ (s.mirrorNow = false)) ∧
  (∃ w0 ∈ pick wit_FlagAndControlCommands 30,
 let s := w0.1;
 let q := w0.2.1;
 let i := w0.2.2.1;
 let c := w0.2.2.2.1;
 let b := w0.2.2.2.2.1;
 (Clean s) ∧ (s.frozenAs 0x1C00 = false) ∧ (s.cmd q i = some c) ∧ (c.replay = false) ∧ (c.arm = some b) ∧
   (b.toNat ≤ s.esc.beat.toNat) ∧ (cmdOp c.raw = 8) ∧ (c.st = .dispatched) ∧ (cmdFld c.raw 24 1 = 0) ∧ (s.ras.haltEnded = []) ∧
 let tq := cmdFld c.raw 16 2
 let ti := cmdFld c.raw 20 4
 (s.suspect tq = false) ∧ (tq ≠ q) ∧ ((s.queue tq).st = 0) ∧ (s.cmd tq ti = none)) ∧
  (∃ w0 ∈ pick wit_FlagAndControlCommands 32,
 let s := w0.1;
 let q := w0.2.1;
 let i := w0.2.2.1;
 let c := w0.2.2.2.1;
 let b := w0.2.2.2.2.1;
 (Clean s) ∧ (s.frozenAs 0x1C00 = false) ∧ (s.cmd q i = some c) ∧ (c.replay = false) ∧ (c.arm = some b) ∧
   (b.toNat ≤ s.esc.beat.toNat) ∧ (cmdOp c.raw = 8) ∧ (c.st = .dispatched) ∧ (cmdFld c.raw 24 1 = 0) ∧ (s.ras.haltEnded = []) ∧
 let tq := cmdFld c.raw 16 2
 let ti := cmdFld c.raw 20 4
 (s.suspect tq = false) ∧ (∃ v14 ∈ (s.cmd tq ti).toList,
 let d := v14;
 (tq ≠ q) ∧ (s.cmd tq ti = some d) ∧ (cmdOp d.raw = 3) ∧ (d.replay = false) ∧ (s.launchSlot tq ti = none) ∧
   (s.finished tq ti = none))) := by
  dsimp only [TileTxn, TileQuiet, Completed, HeaderFits, CollEnded, Recorded, faultKey, BufferHas, ResetNoted, Clean]
  and_intros <;> decide +kernel

/-- States and operands for the hypotheses of LaunchesAndCopies. -/
def wit_LaunchesAndCopies : List (State × Nat × Nat × Nat × Nat × Nat × Cmd × W64 × Launch × CopyRun) :=
(let l : Launch := { q := 1, index := 2, entry := 0, step := 3, armBeat := 5, tag := 9, tiles := [0], left := [], doneBeat := some 5, sat := 3, nan := 2, flush := 9 }
 let r : CopyRun := { q := 1, index := 2, src := mkGa 1 0x3FFF (1*0x10000+64*2), dst := mkGa 1 0x3FFF (2*0x10000+64*3), bytes := 128, cls := 0 }
 let s := fun (st : CmdSt) (a : Nat) (l0 : List (Nat × Nat)) (w : State) (g : State → State) (r : CopyRun) =>
   let c := cmd1 l0 (fun c => {c with st := st, arm := some (BitVec.ofNat 64 a), tag := some 9})
   (g (bt 10 (q1 (fun x => {x with cmds := [c]}) w)),1,2,4,0,9,c,BitVec.ofNat 64 a,l,r)
 let bind := fun (s : State) => cf (fun c => {c with active := {c.active with queueBind := [(1,5)]}}) s
 let cp := fun (r : CopyRun) (s : State) => hs (fun h => {h with copies := [(0,r)]}) s
 let L := fun (f : Launch → Launch) (w : State) => s .acting 5 [(0,1)] w (fun t => {t with slots := [(4,({launch := some (f l)} : Slot))]}) r
 let L2 := fun (f : Launch → Launch) (w : State) => let x := L f w; (x.1,x.2.1,x.2.2.1,x.2.2.2.1,x.2.2.2.2.1,x.2.2.2.2.2.1,x.2.2.2.2.2.2.1,x.2.2.2.2.2.2.2.1,f l,r)
 let C := fun (f : CopyRun → CopyRun) (w : State) => s .acting 5 [(0,4)] w (cp (f r)) (f r)
 [z, dma z].flatMap fun w =>
 [L2 (fun l => {l with left := [3]}) w, L2 (fun l => {l with status := 4}) w, C (fun r => {r with ending := some 3}) w,
   C (fun r => {r with err := some (3, .noRoute)}) w,
  C (fun r => {r with src := mkGa 1 77 (1*0x10000+64*2)}) w,
  C (fun r => {r with err := some (0, .noRoute)}) w, C (fun r => {r with dst := mkGa 1 77 0, err := some (0, .noRoute)}) w,
    C (fun r => {r with src := mkGa 1 77 0, bytes := 1024, off := 512, lines := List.replicate 8 (0,.reading)}) w,
    s .dispatched 5 [(0,1)] w (fun t => sst 2 (bind t)) r,
    s .dispatched 5 [(0,1)] w (fun t => sst 2 (cf (fun c => {c with active := {c.active with patterns := [{x0 := 0, x1 := 1, y0 := 0, y1 := 0, xs := 1, ys := 1, prog := 0}]}}) (bind t))) r, s .dispatched 15 [(0,1)] w (fun t => sst 2 (bind t)) r, s .dispatched 5 [(0,1),(24,0xFFFFFFFFFFFFFFFF)] w (fun t => sst 2 (bind t)) r,
  s .dispatched 5 [(0,1)] w bind r, s .dispatched 5 [(0,1),(24,0xFFFFFFFFFFFFFFFF)] w bind r, s .dispatched 15 [(0,1)] w bind r,
  s .acting 5 [(0,1)] w (fun t => {t with slots := [(4,({launch := some l} : Slot))]}) r,
  s .acting 5 [(0,4)] w (cp {r with off := 128}) {r with off := 128},
  s .acting 5 [(0,4)] w (fun t => {cp r t with ls := [(0x10000+64*2+3,9),(0x20000+64*3,5)]}) r])

/-- Every clause of LaunchesAndCopies has a state and operands that meet all its hypotheses together. -/
theorem witness_LaunchesAndCopies :
  (∃ w0 ∈ pick wit_LaunchesAndCopies 8,
 let s := w0.1;
 let q := w0.2.1;
 let i := w0.2.2.1;
 let k := w0.2.2.2.1;
 let tag := w0.2.2.2.2.2.1;
 let c := w0.2.2.2.2.2.2.1;
 let b := w0.2.2.2.2.2.2.2.1;
 (Clean s) ∧ (s.cmd q i = some c) ∧ (cmdOp c.raw = 1) ∧ (c.st = .dispatched) ∧ (c.arm = some b) ∧ (c.tag = some tag) ∧
   (s.boundFor q b = some k) ∧ ((s.slot k).launch = none) ∧ (s.lathHeld (s.slot k).lath = false) ∧ (s.cfg.retiming = false) ∧
   (s.sliceHolds c = false) ∧ (b.toNat ≤ s.esc.beat.toNat) ∧ (s.launchSlot q i = none)) ∧
  (∃ w0 ∈ pick wit_LaunchesAndCopies 10,
 let s := w0.1;
 let q := w0.2.1;
 let i := w0.2.2.1;
 let k := w0.2.2.2.1;
 let tag := w0.2.2.2.2.2.1;
 let c := w0.2.2.2.2.2.2.1;
 let b := w0.2.2.2.2.2.2.2.1;
 (Clean s) ∧ (s.cmd q i = some c) ∧ (cmdOp c.raw = 1) ∧ (c.st = .dispatched) ∧ (c.arm = some b) ∧ (c.tag = some tag) ∧
   (s.boundFor q b = some k) ∧ ((s.slot k).launch = none) ∧ (s.lathHeld (s.slot k).lath = false) ∧ (s.cfg.retiming = false) ∧
   (s.sliceHolds c = false) ∧ (s.esc.beat.toNat < b.toNat)) ∧
  (∃ w0 ∈ pick wit_LaunchesAndCopies 1,
 let s := w0.1;
 let k := w0.2.2.2.1;
 let c := w0.2.2.2.2.2.2.1;
 let b := w0.2.2.2.2.2.2.2.1;
 let l := w0.2.2.2.2.2.2.2.2.1;
 (Clean s) ∧ ((s.slot k).launch = some l) ∧ (l.left = []) ∧ (l.doneBeat = some b) ∧ (∀ p ∈ s.mesh, p.kind ≠ 3 ∨ p.tag ≠ l.tag) ∧
   (l.status ≠ 0 ∨ s.solverEnded k = true) ∧ (s.cmd l.q l.index = some c) ∧ (c.replay = false)) ∧
  (∃ w0 ∈ pick wit_LaunchesAndCopies 0,
 let s := w0.1;
 let k := w0.2.2.2.1;
 let l := w0.2.2.2.2.2.2.2.2.1;
 (Clean s) ∧ ((s.slot k).launch = some l) ∧ (l.left ≠ [])) ∧
  (∃ w0 ∈ pick wit_LaunchesAndCopies 2,
 let s := w0.1;
 let e := w0.2.2.2.2.1;
 let c := w0.2.2.2.2.2.2.1;
 let b := w0.2.2.2.2.2.2.2.1;
 let r := w0.2.2.2.2.2.2.2.2.2;
 (Clean s) ∧ (afind s.host.copies e = some r) ∧ (s.frozenAs (0x800 + e) = false) ∧ (s.cmd r.q r.index = some c) ∧
   (c.replay = false) ∧ (c.st ≠ .fetched) ∧ (c.arm = some b) ∧ (b.toNat ≤ s.esc.beat.toNat) ∧ (s.cfg.retiming = false) ∧
   (∃ v10 ∈ r.ending.toList,
 let v := v10;
 (r.lines = []) ∧ (r.ending = some v) ∧ (r.err = none) ∧ (v ≠ 0))) ∧
  (∃ w0 ∈ pick wit_LaunchesAndCopies 6,
 let s := w0.1;
 let e := w0.2.2.2.2.1;
 let c := w0.2.2.2.2.2.2.1;
 let b := w0.2.2.2.2.2.2.2.1;
 let r := w0.2.2.2.2.2.2.2.2.2;
 (Clean s) ∧ (afind s.host.copies e = some r) ∧ (s.frozenAs (0x800 + e) = false) ∧ (s.cmd r.q r.index = some c) ∧
   (c.replay = false) ∧ (c.st ≠ .fetched) ∧ (c.arm = some b) ∧ (b.toNat ≤ s.esc.beat.toNat) ∧ (s.cfg.retiming = false) ∧
   (∃ v10 ∈ r.err.toList,
 let o := v10.1;
 let d := v10.2;
 (r.lines = []) ∧ (r.ending = none) ∧ (r.err = some (o, d)) ∧ (gaModule r.dst ≠ s.moduleId))) ∧
  (∃ w0 ∈ pick wit_LaunchesAndCopies 5,
 let s := w0.1;
 let e := w0.2.2.2.2.1;
 let c := w0.2.2.2.2.2.2.1;
 let b := w0.2.2.2.2.2.2.2.1;
 let r := w0.2.2.2.2.2.2.2.2.2;
 (Clean s) ∧ (afind s.host.copies e = some r) ∧ (s.frozenAs (0x800 + e) = false) ∧ (s.cmd r.q r.index = some c) ∧
   (c.replay = false) ∧ (c.st ≠ .fetched) ∧ (c.arm = some b) ∧ (b.toNat ≤ s.esc.beat.toNat) ∧ (s.cfg.retiming = false) ∧
   (∃ v10 ∈ r.err.toList,
 let o := v10.1;
 let d := v10.2;
 (r.lines = []) ∧ (r.ending = none) ∧ (r.err = some (o, d)) ∧ (∃ v14 ∈ [(2,3)],
 let m := v14.1;
 let d := v14.2;
 (r.dst = mkGa 1 s.moduleId (m * Config.lsStride + 64 * d)) ∧ (m < Config.tiles) ∧ (64 * d + r.bytes ≤ Config.lsBytes) ∧
   (o % 64 = 0)))) ∧
  (∃ w0 ∈ pick wit_LaunchesAndCopies 16,
 let s := w0.1;
 let e := w0.2.2.2.2.1;
 let c := w0.2.2.2.2.2.2.1;
 let b := w0.2.2.2.2.2.2.2.1;
 let r := w0.2.2.2.2.2.2.2.2.2;
 (Clean s) ∧ (afind s.host.copies e = some r) ∧ (s.frozenAs (0x800 + e) = false) ∧ (s.cmd r.q r.index = some c) ∧
   (c.replay = false) ∧ (c.st ≠ .fetched) ∧ (c.arm = some b) ∧ (b.toNat ≤ s.esc.beat.toNat) ∧ (s.cfg.retiming = false) ∧
   (r.lines = []) ∧ (r.ending = none) ∧ (r.err = none) ∧ (r.bytes ≤ r.off)) ∧
  (∃ w0 ∈ pick wit_LaunchesAndCopies 4,
 let s := w0.1;
 let e := w0.2.2.2.2.1;
 let c := w0.2.2.2.2.2.2.1;
 let b := w0.2.2.2.2.2.2.2.1;
 let r := w0.2.2.2.2.2.2.2.2.2;
 (Clean s) ∧ (afind s.host.copies e = some r) ∧ (s.frozenAs (0x800 + e) = false) ∧ (s.cmd r.q r.index = some c) ∧
   (c.replay = false) ∧ (c.st ≠ .fetched) ∧ (c.arm = some b) ∧ (b.toNat ≤ s.esc.beat.toNat) ∧ (s.cfg.retiming = false) ∧
   (r.ending = none) ∧ (r.err = none) ∧ (r.off < r.bytes) ∧ (gaModule (r.src + BitVec.ofNat 64 r.off) ≠ s.moduleId) ∧
   (r.lines.length < 8)) ∧
  (∃ w0 ∈ pick wit_LaunchesAndCopies 7,
 let s := w0.1;
 let e := w0.2.2.2.2.1;
 let c := w0.2.2.2.2.2.2.1;
 let b := w0.2.2.2.2.2.2.2.1;
 let r := w0.2.2.2.2.2.2.2.2.2;
 (Clean s) ∧ (afind s.host.copies e = some r) ∧ (s.frozenAs (0x800 + e) = false) ∧ (s.cmd r.q r.index = some c) ∧
   (c.replay = false) ∧ (c.st ≠ .fetched) ∧ (c.arm = some b) ∧ (b.toNat ≤ s.esc.beat.toNat) ∧ (s.cfg.retiming = false) ∧
   (r.ending = none) ∧ (r.err = none) ∧ (r.off < r.bytes) ∧ (gaModule (r.src + BitVec.ofNat 64 r.off) ≠ s.moduleId) ∧
   (8 ≤ r.lines.length)) ∧
  (∃ w0 ∈ pick wit_LaunchesAndCopies 17,
 let s := w0.1;
 let e := w0.2.2.2.2.1;
 let c := w0.2.2.2.2.2.2.1;
 let b := w0.2.2.2.2.2.2.2.1;
 let r := w0.2.2.2.2.2.2.2.2.2;
 (Clean s) ∧ (afind s.host.copies e = some r) ∧ (s.frozenAs (0x800 + e) = false) ∧ (s.cmd r.q r.index = some c) ∧
   (c.replay = false) ∧ (c.st ≠ .fetched) ∧ (c.arm = some b) ∧ (b.toNat ≤ s.esc.beat.toNat) ∧ (s.cfg.retiming = false) ∧
   (∃ v10 ∈ [(1,2,2,3)],
 let n := v10.1;
 let a := v10.2.1;
 let m := v10.2.2.1;
 let d := v10.2.2.2;
 (r.ending = none) ∧ (r.err = none) ∧ (r.lines = []) ∧ (r.off = 0) ∧ (64 ≤ r.bytes) ∧
   (r.src = mkGa 1 s.moduleId (n * Config.lsStride + 64 * a)) ∧ (r.dst = mkGa 1 s.moduleId (m * Config.lsStride + 64 * d)) ∧
   (n < Config.tiles) ∧ (m < Config.tiles) ∧ (a < 768) ∧ (d < 768) ∧ (∀ j < 8, s.lsMark n (8 * a + j) = .good))) := by
  dsimp only [TileTxn, TileQuiet, Completed, HeaderFits, CollEnded, Recorded, faultKey, BufferHas, ResetNoted, Clean]
  and_intros <;> decide +kernel

/-- States and operands for the hypotheses of HostLinkAndRegisters. -/
def wit_HostLinkAndRegisters : List (State × Nat × W64 × Bool × Bool × List Byte) :=
(let m := fun (s : State) => syn (dma (hs (fun h => {h with mirrorCfg := setBit h.mirrorCfg 16 true}) s))
 let b := fun (s : State) (o : Nat) (v : Nat) (d : List Byte) => ([true,false].flatMap fun x => [true,false].map fun y => (s,o,BitVec.ofNat 64 v,x,y,d))
 (let z := hs (fun h => {h with link := .l0}) z; let m := fun s => hs (fun h => {h with link := .l0}) (m s)
 b State.reset 0x50000 7 [] ++ b {z with cwld := {z.cwld with status := 1}} 0x20028 7 [] ++ b z 0x50000 7 [] ++
   b (m z) 0x50000 7 [] ++ b (syn z) 0x50040 7 [] ++ b (sst 2 z) 0x50041 7 [1,2,3,4,5,6,7,8] ++
 b (syn (hs (fun h => {h with winCfg := 2}) z)) 0x1000 7 [1,2,3,4,5,6,7,8] ++
   b (syn (hs (fun h => {h with winCfg := 2}) z)) 0x1000 7 [1,2,3,4] ++
 b (hs (fun h => {h with winCfg := BitVec.ofNat 64 ((2^28-1) * 2^16)}) z) 0x10000 7 [1,2,3,4,5,6,7,8] ++
   b (syn z) 0 0x0102 (leBytes 4 0x230038 ++ leBytes 8 0x0102) ++
   b (esc' z (fun e => {e with lateStats := 77})) 0 0x0102 (leBytes 4 0x230038)))

/-- Every clause of HostLinkAndRegisters has a state and operands that meet all its hypotheses together. -/
theorem witness_HostLinkAndRegisters :
  (∃ w0 ∈ pick wit_HostLinkAndRegisters 0,
 let s := w0.1;
 (Clean s) ∧ (s.host.link = .detectQuiet)) ∧
  (∃ w0 ∈ pick wit_HostLinkAndRegisters 20,
 let s := w0.1;
 let o := w0.2.1;
 (Clean s) ∧ (s.host.link ≠ .detectQuiet) ∧ (o % 8 ≠ 0)) ∧
  (∃ w0 ∈ pick wit_HostLinkAndRegisters 12,
 let s := w0.1;
 let o := w0.2.1;
 (Clean s) ∧ (s.host.link ≠ .detectQuiet) ∧ (o % 8 = 0) ∧ (o < 0x10000000) ∧ (o ≠ 0x20028) ∧ (s.synced = true)) ∧
  (∃ w0 ∈ pick wit_HostLinkAndRegisters 12,
 let s := w0.1;
 let v := w0.2.2.1;
 (Clean s) ∧ (s.host.link ≠ .detectQuiet) ∧ (bitOf v 0 = true ∨ bitOf v 2 = true) ∧ (fld s.cwld.status 0 3 ≠ 1) ∧
   (s.synced = true)) ∧
  (∃ w0 ∈ pick wit_HostLinkAndRegisters 4,
 let s := w0.1;
 (Clean s) ∧ (s.host.link ≠ .detectQuiet) ∧ (fld s.cwld.status 0 3 = 1)) ∧
  (∃ w0 ∈ pick wit_HostLinkAndRegisters 4,
 let s := w0.1;
 (Clean s) ∧ (s.host.link ≠ .detectQuiet) ∧ (s.synced = false)) ∧
  (∃ w0 ∈ pick wit_HostLinkAndRegisters 24,
 let s := w0.1;
 let o := w0.2.1;
 let data := w0.2.2.2.2.2;
 (Clean s) ∧ (s.host.link ≠ .detectQuiet) ∧ (fld s.host.winCfg 0 6 = 2) ∧ (fld s.host.winCfg 16 28 = 0) ∧ (data.length = 8) ∧
   (o % 8 = 0) ∧ (o < 0x800000) ∧ (s.synced = true)) ∧
  (∃ w0 ∈ pick wit_HostLinkAndRegisters 32,
 let s := w0.1;
 let o := w0.2.1;
 (Clean s) ∧ (s.host.link ≠ .detectQuiet) ∧ (fld s.host.winCfg 0 6 = 0) ∧ (2 ^ 44 ≤ fld s.host.winCfg 16 28 * 2 ^ 16 + o)) ∧
  (∃ w0 ∈ pick wit_HostLinkAndRegisters 28,
 let s := w0.1;
 let data := w0.2.2.2.2.2;
 (Clean s) ∧ (s.host.link ≠ .detectQuiet) ∧ (fld s.host.winCfg 0 6 = 2) ∧ (data.length ≠ 8)) ∧
  (∃ w0 ∈ pick wit_HostLinkAndRegisters 12,
 let s := w0.1;
 (Clean s) ∧ (bitOf s.host.mirrorCfg 16 = true) ∧ (s.mirrorNow = true) ∧ (s.synced = true) ∧
   (s.esc.beat.toNat % s.mirrorInterval = 0)) ∧
  (∃ w0 ∈ pick wit_HostLinkAndRegisters 36,
 let s := w0.1;
 let v := w0.2.2.1;
 let data := w0.2.2.2.2.2;
 (Clean s) ∧ (data.length = 12) ∧ (ofLe (data.take 4) = 0x230038) ∧ (BitVec.ofNat 64 (ofLe (data.drop 4)) = v) ∧
   (s.synced = true)) ∧
  (∃ w0 ∈ pick wit_HostLinkAndRegisters 0,
 let s := w0.1;
 let data := w0.2.2.2.2.2;
 (Clean s) ∧ (data.length ≠ 12)) ∧
  (∃ w0 ∈ pick wit_HostLinkAndRegisters 40,
 let s := w0.1;
 let data := w0.2.2.2.2.2;
 (Clean s) ∧ (data.length = 4) ∧ (ofLe (data.take 4) = 0x230038)) ∧
  (∃ w0 ∈ pick wit_HostLinkAndRegisters 0,
 let s := w0.1;
 let data := w0.2.2.2.2.2;
 (Clean s) ∧ (data.length ≠ 4)) := by
  dsimp only [TileTxn, TileQuiet, Completed, HeaderFits, CollEnded, Recorded, faultKey, BufferHas, ResetNoted, Clean]
  and_intros <;> decide +kernel

/-- States and operands for the hypotheses of FaultsAndHalts. -/
def wit_FaultsAndHalts : List (State × FaultRec × Nat × Nat × W64) :=
(let f0 := fun (u i : Nat) => setFld (setFld (setBit (0 : W64) 0 true) 9 4 u) 13 20 i
 let own : HaltDue := {beat := 11, cause := 3, src := 0, own := true}
 let m := fun (s : State) => fb (fun f => {f with id := 4}) (sl (fun x => {x with table := [(4,0,0),(9,0,1)]}) (bt 10 (rs (fun r => {r with tree := [ff], halt := 5}) s)))
 let b : State → List (State × FaultRec × Nat × Nat × W64) := fun (s : State) => [(m s, ff, 9, 300, (5 : W64)), (m s, ff, 77, 300,
   (50 : W64)), (m s, ff, 9, 300, (50 : W64))]
 b z ++ b (hg (fun h => {h with replaying := some 9, suspects := [{q := 9, first := 0}]}) z) ++ b (sst 2 z) ++
   b (sst 2 (rs (fun r => {r with halts := [own]}) z)) ++
   b (rs (fun r => {r with fault0 := f0 0 9, fault1 := 10, status := 0x7FFFFFFFFFF}) z) ++
   b (rs (fun r => {r with fault0 := f0 0 1, fault1 := 10}) z)
 ++ b (rs (fun r => {r with fault0 := f0 0 9, fault1 := 9}) z) ++ b (rs (fun r => {r with fault0 := f0 1 1, fault1 := 10}) z))

/-- Every clause of FaultsAndHalts has a state and operands that meet all its hypotheses together. -/
theorem witness_FaultsAndHalts :
  (∃ w0 ∈ pick wit_FaultsAndHalts 3,
 let s := w0.1;
 (Clean s) ∧ (∃ v2 ∈ s.hang.replaying.toList,
 let q := v2;
 (s.hang.replaying = some q))) ∧
  (∃ w0 ∈ pick wit_FaultsAndHalts 0,
 let s := w0.1;
 (Clean s) ∧ (s.hang.replaying = none) ∧
 let r := s.ras
 let first := bitOf r.fault0 0 = false
 let quiet := s.sliceSt ≠ 2 ∨ r.halts.any (fun h => h.own) = true
 (quiet) ∧ (first)) ∧
  (∃ w0 ∈ pick wit_FaultsAndHalts 12,
 let s := w0.1;
 let f := w0.2.1;
 (Clean s) ∧ (s.hang.replaying = none) ∧
 let r := s.ras
 let lower := bitOf r.fault0 0 = true ∧ r.fault1 = s.esc.beat ∧
   faultKey f.unit f.index < fld r.fault0 9 4 * 2 ^ 20 + fld r.fault0 13 20
 let quiet := s.sliceSt ≠ 2 ∨ r.halts.any (fun h => h.own) = true
 (quiet) ∧ (lower)) ∧
  (∃ w0 ∈ pick wit_FaultsAndHalts 15,
 let s := w0.1;
 let f := w0.2.1;
 (Clean s) ∧ (s.hang.replaying = none) ∧
 let r := s.ras
 let first := bitOf r.fault0 0 = false
 let lower := bitOf r.fault0 0 = true ∧ r.fault1 = s.esc.beat ∧
   faultKey f.unit f.index < fld r.fault0 9 4 * 2 ^ 20 + fld r.fault0 13 20
 let quiet := s.sliceSt ≠ 2 ∨ r.halts.any (fun h => h.own) = true
 (quiet) ∧ (¬ first) ∧ (¬ lower)) ∧
  (∃ w0 ∈ pick wit_FaultsAndHalts 6,
 let s := w0.1;
 (Clean s) ∧ (s.hang.replaying = none) ∧
 let r := s.ras
 let first := bitOf r.fault0 0 = false
 (s.sliceSt = 2) ∧ (r.halts.any (fun h => h.own) = false) ∧ (first)) ∧
  (∃ w0 ∈ pick wit_FaultsAndHalts 6,
 let s := w0.1;
 let src := w0.2.2.1;
 (Clean s) ∧ (s.hang.replaying = none) ∧ (s.sliceSt = 2) ∧ ((s.rankOf src).isSome = true)) ∧
  (∃ w0 ∈ pick wit_FaultsAndHalts 0,
 let s := w0.1;
 let src := w0.2.2.1;
 (Clean s) ∧ (s.hang.replaying = none) ∧ (s.sliceSt ≠ 2 ∨ s.rankOf src = none)) := by
  dsimp only [TileTxn, TileQuiet, Completed, HeaderFits, CollEnded, Recorded, faultKey, BufferHas, ResetNoted, Clean]
  and_intros <;> decide +kernel

/-- States and operands for the hypotheses of NanWatch. -/
def wit_NanWatch : List (State × NanNotice × W64 × List NanNotice × (NanNotice → Nat × Nat × Nat × W64)) :=
(let m := fun (s : State) => bt 12 (fb (fun f => {f with id := 4}) (sl (fun x => {x with table := [(4,0,0),(9,0,1)]}) (rs (fun r => {r with notices := [nn]}) (hs (fun h => {h with tags := [(4,(7,8,9,10))]}) s))))
 let l := [{nn with beat := 9}, nn, {nn with tile := 2}]
 let na := fun (f : NanWatch → NanWatch) (s : State) => {s with nan := f s.nan}
 let o : NanNotice → Nat × Nat × Nat × W64 := fun _ => (7,8,9,10)
 let b := fun (s : State) => [(m s, nn, (7 : W64), l, o)]
 b z ++ b (na (fun n => {n with rec0 := 1, later := 0xFFFFFFFF}) z) ++ b (na (fun n => {n with collect := some (7,l)}) z) ++
   b (sst 2 (na (fun n => {n with ctrl := 1, collect := some (7,l)}) z)))

/-- Every clause of NanWatch has a state and operands that meet all its hypotheses together. -/
theorem witness_NanWatch :
  (∃ w0 ∈ pick wit_NanWatch 1,
 let s := w0.1;
 (Clean s) ∧ (bitOf s.nan.rec0 0 = true)) ∧
  (∃ w0 ∈ pick wit_NanWatch 0,
 let s := w0.1;
 (Clean s) ∧ (bitOf s.nan.rec0 0 = false)) ∧
  (∃ w0 ∈ pick wit_NanWatch 2,
 let s := w0.1;
 let b := w0.2.2.1;
 let l := w0.2.2.2.1;
 let o := w0.2.2.2.2;
 (Clean s) ∧ (s.nan.collect = some (b, l)) ∧ (l ≠ []) ∧ (b.toNat + 2 ≤ s.esc.beat.toNat) ∧
   (∀ m ∈ l, afind s.host.tags m.tag = some (o m)) ∧ (bitOf s.nan.ctrl 0 = false)) ∧
  (∃ w0 ∈ pick wit_NanWatch 3,
 let s := w0.1;
 let b := w0.2.2.1;
 let l := w0.2.2.2.1;
 let o := w0.2.2.2.2;
 (Clean s) ∧ (s.nan.collect = some (b, l)) ∧ (l ≠ []) ∧ (b.toNat + 2 ≤ s.esc.beat.toNat) ∧
   (∀ m ∈ l, afind s.host.tags m.tag = some (o m)) ∧ (bitOf s.nan.ctrl 0 = true) ∧ (s.hang.replaying = none) ∧ (s.sliceSt = 2) ∧
   (s.ras.halts = [])) := by
  dsimp only [TileTxn, TileQuiet, Completed, HeaderFits, CollEnded, Recorded, faultKey, BufferHas, ResetNoted, Clean]
  and_intros <;> decide +kernel

/-- States and operands for the hypotheses of Checkpoints. -/
def wit_Checkpoints : List (State × State × CkRun × Cmd × (List (Nat × List Byte)) × List W64 × CkSlot × Nat) :=
(let r0 : CkRun := { q := 1, index := 2, op := 0, tier := 1, slot := 0, step := 9, target := 0, stage := 0 }
 let c := cmd1 [(0,6)] (fun c => {c with st := .acting, tag := some 9})
 let y : CkSlot := {step := 9, complete := true, parity := true, snap := [], state := [1,2,3,4,0]}
 let b := fun (r : CkRun) (f : State → State) => [z,dma z].flatMap fun w =>
   let s := f (bt 10 (q1 (fun x => {x with cmds := [c]}) (sl (fun x => {x with step := 9}) (rs (fun x => {x with run := some r, ckptCfg := 0, tier1 := [(0,y),(1,{y with step := 8})]}) w))))
   let k := oldSlot s.ras.tier1
   let cleared : State := { s with ras := { s.ras with
      ckptPrev := aset 0 s.ras.ckptPrev 1 (setFld (aget 0 s.ras.ckptPrev 1) 48 2 0)
      pieces := s.ras.pieces.filter (fun p => decide (r.step.toNat % 2 ^ 32 ≤ p.stepLo.toNat)),
        tier1 := aput s.ras.tier1 k ({} : CkSlot) } }
   let p := cleared.takeSnap
   [(s,p.2.2.2,r,c,p.1,p.2.1,(aget {} s.ras.tier1 r.slot : CkSlot),(0 : Nat)),
     (s,p.2.2.2,r,c,p.1,p.2.1,(aget {} s.ras.tier1 r.slot : CkSlot),(1 : Nat))]
 b {r0 with step := 7} id ++ b r0 id ++ b {r0 with stage := 1} id ++ b {r0 with stage := 2} id ++
   b {r0 with tier := 2, stage := 1} id ++
 b r0 (rs (fun x => {x with ckptCfg := 3})) ++ b {r0 with op := 1, stage := 1} id ++ b {r0 with op := 1, stage := 1, step := 5} id ++
   b {r0 with op := 1, stage := 1, step := 5, top := 2} id ++ b {r0 with op := 1, stage := 1, step := 5, top := 1} id ++
 b {r0 with op := 1, step := 7} id ++ b {r0 with op := 1, stage := 3} id ++
   b {r0 with op := 1, stage := 3} (cf (fun c => {c with activeDigest := 5})) ++
 b {r0 with stage := 1, tier := 2, moved := 100000} id ++
   b {r0 with stage := 0, tier := 3, moved := 0} (rs (fun x => {x with ckptCfg := 3})) ++
   b {r0 with stage := 2, out := [(1,64)]} id ++
   b {r0 with op := 1, stage := 3} (fun s => rs (fun x => {x with tier1 := [(0,{y with mapDigest := s.mapDigest, state := [9,9,9,9,0]})]}) s) ++
 b {r0 with tier := 2, stage := 1} (rs (fun x => {x with tier1 := [(0,{y with snap := [(0, List.replicate 70000 0)]})]})) ++
 b {r0 with op := 1, stage := 1} (fun s => fb (fun f => {f with id := 4}) (sl (fun x => {x with table := [(4,0,0),(9,0,1),(10,0,2),(11,0,3)]}) (rs (fun x => {x with ckptCfg := 3}) s))))

/-- Every clause of Checkpoints has a state and operands that meet all its hypotheses together. -/
theorem witness_Checkpoints :
  (∃ w0 ∈ pick wit_Checkpoints 0,
 let s := w0.1;
 let r := w0.2.2.1;
 let c := w0.2.2.2.1;
 (Clean s) ∧ (s.frozenAs 0x1800 = false) ∧ (s.ras.run = some r) ∧ (r.ending = none) ∧ (s.cmd r.q r.index = some c) ∧
   (c.replay = false) ∧ (r.op = 0) ∧ (r.tier = 1) ∧ (r.stage = 0) ∧ (r.step ≠ s.slice.step)) ∧
  (∃ w0 ∈ pick wit_Checkpoints 20,
 let s := w0.1;
 let r := w0.2.2.1;
 let c := w0.2.2.2.1;
 (Clean s) ∧ (s.frozenAs 0x1800 = false) ∧ (s.ras.run = some r) ∧ (r.ending = none) ∧ (s.cmd r.q r.index = some c) ∧
   (c.replay = false) ∧ (r.op = 0) ∧ (1 ≤ r.tier) ∧ (r.tier ≤ 3) ∧ (r.stage = 0) ∧ (r.tier = 1 → r.step = s.slice.step) ∧
   (s.layoutOk = false)) ∧
  (∃ w0 ∈ pick wit_Checkpoints 4,
 let s := w0.1;
 let u := w0.2.1;
 let r := w0.2.2.1;
 let c := w0.2.2.2.1;
 let snap := w0.2.2.2.2.1;
 let vals := w0.2.2.2.2.2.1;
 (Clean s) ∧ (s.frozenAs 0x1800 = false) ∧ (s.ras.run = some r) ∧ (r.ending = none) ∧ (s.cmd r.q r.index = some c) ∧
   (c.replay = false) ∧
 let k := oldSlot s.ras.tier1
 let cleared : State := { s with ras := { s.ras with ckptPrev := aset 0 s.ras.ckptPrev 1 (setFld (aget 0 s.ras.ckptPrev 1) 48 2 0), pieces := s.ras.pieces.filter (fun p => decide (r.step.toNat % 2 ^ 32 ≤ p.stepLo.toNat)), tier1 := aput s.ras.tier1 k {} } }
 (r.op = 0) ∧ (r.tier = 1) ∧ (r.stage = 0) ∧ (r.step = s.slice.step) ∧ (s.layoutOk = true) ∧
   (cleared.takeSnap = (snap, vals, none, u))) ∧
  (∃ w0 ∈ pick wit_Checkpoints 8,
 let s := w0.1;
 let r := w0.2.2.1;
 let c := w0.2.2.2.1;
 (Clean s) ∧ (s.frozenAs 0x1800 = false) ∧ (s.ras.run = some r) ∧ (r.ending = none) ∧ (s.cmd r.q r.index = some c) ∧
   (c.replay = false) ∧ (r.op = 0) ∧ (r.tier = 1) ∧ (r.stage = 1) ∧ (s.groupSize = 0)) ∧
  (∃ w0 ∈ pick wit_Checkpoints 12,
 let s := w0.1;
 let r := w0.2.2.1;
 let c := w0.2.2.2.1;
 let x := w0.2.2.2.2.2.2.1;
 (Clean s) ∧ (s.frozenAs 0x1800 = false) ∧ (s.ras.run = some r) ∧ (r.ending = none) ∧ (s.cmd r.q r.index = some c) ∧
   (c.replay = false) ∧ (r.op = 0) ∧ (r.tier = 1) ∧ (2 ≤ r.stage) ∧ (aget {} s.ras.tier1 r.slot = x) ∧ (r.out = []) ∧
   (s.parityWhole x.bytes.length = true)) ∧
  (∃ w0 ∈ pick wit_Checkpoints 60,
 let s := w0.1;
 let r := w0.2.2.1;
 let c := w0.2.2.2.1;
 let x := w0.2.2.2.2.2.2.1;
 (Clean s) ∧ (s.frozenAs 0x1800 = false) ∧ (s.ras.run = some r) ∧ (r.ending = none) ∧ (s.cmd r.q r.index = some c) ∧
   (c.replay = false) ∧ (r.op = 0) ∧ (r.tier = 1) ∧ (2 ≤ r.stage) ∧ (aget {} s.ras.tier1 r.slot = x) ∧
   (r.out ≠ [] ∨ s.parityWhole x.bytes.length = false)) ∧
  (∃ w0 ∈ pick wit_Checkpoints 40,
 let s := w0.1;
 let r := w0.2.2.1;
 let c := w0.2.2.2.1;
 (Clean s) ∧ (s.frozenAs 0x1800 = false) ∧ (s.ras.run = some r) ∧ (r.ending = none) ∧ (s.cmd r.q r.index = some c) ∧
   (c.replay = false) ∧ (r.op = 1) ∧ (r.tier = 1) ∧ (r.stage = 0) ∧ (r.step ≠ s.slice.step)) ∧
  (∃ w0 ∈ pick wit_Checkpoints 24,
 let s := w0.1;
 let r := w0.2.2.1;
 let c := w0.2.2.2.1;
 let j := w0.2.2.2.2.2.2.2;
 (Clean s) ∧ (s.frozenAs 0x1800 = false) ∧ (s.ras.run = some r) ∧ (r.ending = none) ∧ (s.cmd r.q r.index = some c) ∧
   (c.replay = false) ∧ (r.op = 1) ∧ (r.tier = 1) ∧ (r.stage = 1) ∧ (r.out = []) ∧
 let own := slotOf s.ras.tier1 r.step
 let lack := (s.lacking r).length + (if own = none then 1 else 0)
 (lack = 0) ∧ (own = some j)) ∧
  (∃ w0 ∈ pick wit_Checkpoints 72,
 let s := w0.1;
 let r := w0.2.2.1;
 let c := w0.2.2.2.1;
 (Clean s) ∧ (s.frozenAs 0x1800 = false) ∧ (s.ras.run = some r) ∧ (r.ending = none) ∧ (s.cmd r.q r.index = some c) ∧
   (c.replay = false) ∧ (r.op = 1) ∧ (r.tier = 1) ∧ (r.stage = 1) ∧ (r.out = []) ∧
 let own := slotOf s.ras.tier1 r.step
 let lack := (s.lacking r).length + (if own = none then 1 else 0)
 (2 ≤ lack) ∧ (lack ≤ s.peers.length)) ∧
  (∃ w0 ∈ pick wit_Checkpoints 28,
 let s := w0.1;
 let r := w0.2.2.1;
 let c := w0.2.2.2.1;
 (Clean s) ∧ (s.frozenAs 0x1800 = false) ∧ (s.ras.run = some r) ∧ (r.ending = none) ∧ (s.cmd r.q r.index = some c) ∧
   (c.replay = false) ∧ (r.op = 1) ∧ (r.tier = 1) ∧ (r.stage = 1) ∧ (r.out = []) ∧
 let own := slotOf s.ras.tier1 r.step
 let lack := (s.lacking r).length + (if own = none then 1 else 0)
 (lack = s.peers.length + 1) ∧ (r.top ≤ 1)) ∧
  (∃ w0 ∈ pick wit_Checkpoints 32,
 let s := w0.1;
 let r := w0.2.2.1;
 let c := w0.2.2.2.1;
 (Clean s) ∧ (s.frozenAs 0x1800 = false) ∧ (s.ras.run = some r) ∧ (r.ending = none) ∧ (s.cmd r.q r.index = some c) ∧
   (c.replay = false) ∧ (r.op = 1) ∧ (r.tier = 1) ∧ (r.stage = 1) ∧ (r.out = []) ∧
 let own := slotOf s.ras.tier1 r.step
 let lack := (s.lacking r).length + (if own = none then 1 else 0)
 (lack = s.peers.length + 1) ∧ (2 ≤ r.top)) ∧
  (∃ w0 ∈ pick wit_Checkpoints 48,
 let s := w0.1;
 let r := w0.2.2.1;
 let c := w0.2.2.2.1;
 let x := w0.2.2.2.2.2.2.1;
 (Clean s) ∧ (s.frozenAs 0x1800 = false) ∧ (s.ras.run = some r) ∧ (r.ending = none) ∧ (s.cmd r.q r.index = some c) ∧
   (c.replay = false) ∧ (r.op = 1) ∧ (r.tier = 1) ∧ (r.stage = 3) ∧ (r.out = []) ∧ (aget {} s.ras.tier1 r.slot = x) ∧
   (x.image ≠ s.cfg.activeDigest)) ∧
  (∃ w0 ∈ pick wit_Checkpoints 44,
 let s := w0.1;
 let r := w0.2.2.1;
 let c := w0.2.2.2.1;
 let x := w0.2.2.2.2.2.2.1;
 (Clean s) ∧ (s.frozenAs 0x1800 = false) ∧ (s.ras.run = some r) ∧ (r.ending = none) ∧ (s.cmd r.q r.index = some c) ∧
   (c.replay = false) ∧ (r.op = 1) ∧ (r.tier = 1) ∧ (r.stage = 3) ∧ (r.out = []) ∧ (aget {} s.ras.tier1 r.slot = x) ∧
   (x.image = s.cfg.activeDigest) ∧ (x.mapDigest ≠ s.mapDigest)) ∧
  (∃ w0 ∈ pick wit_Checkpoints 64,
 let s := w0.1;
 let r := w0.2.2.1;
 let c := w0.2.2.2.1;
 let x := w0.2.2.2.2.2.2.1;
 (Clean s) ∧ (s.frozenAs 0x1800 = false) ∧ (s.ras.run = some r) ∧ (r.ending = none) ∧ (s.cmd r.q r.index = some c) ∧
   (c.replay = false) ∧ (r.op = 1) ∧ (r.tier = 1) ∧ (r.stage = 3) ∧ (r.out = []) ∧ (aget {} s.ras.tier1 r.slot = x) ∧
   (x.image = s.cfg.activeDigest) ∧ (x.mapDigest = s.mapDigest)) ∧
  (∃ w0 ∈ pick wit_Checkpoints 64,
 let s := w0.1;
 let r := w0.2.2.1;
 let c := w0.2.2.2.1;
 let x := w0.2.2.2.2.2.2.1;
 (Clean s) ∧ (s.frozenAs 0x1800 = false) ∧ (s.ras.run = some r) ∧ (r.ending = none) ∧ (s.cmd r.q r.index = some c) ∧
   (c.replay = false) ∧ (r.op = 1) ∧ (r.tier = 1) ∧ (r.stage = 3) ∧ (r.out = []) ∧ (aget {} s.ras.tier1 r.slot = x) ∧
   (∃ v12 ∈ [((1 : W64),(2 : W64),(3 : W64),(4 : W64)),(9,9,9,9)],
 let step := v12.1;
 let period := v12.2.1;
 let rst := v12.2.2.1;
 let sst := v12.2.2.2;
 (x.image = s.cfg.activeDigest) ∧ (x.mapDigest = s.mapDigest) ∧ (x.snap = []) ∧ (x.state = [step, period, rst, sst, 0]) ∧
   (s.ctxs = []) ∧ (s.cfg.active.mapLayers = []) ∧ (s.cfg.active.mapCtxs = []))) := by
  dsimp only [TileTxn, TileQuiet, Completed, HeaderFits, CollEnded, Recorded, faultKey, BufferHas, ResetNoted, Clean]
  and_intros <;> decide +kernel

/-- States and operands for the hypotheses of HangHandling. -/
def wit_HangHandling : List (State × Nat × Nat × Nat × W64) :=
(let cpy : CopyRun := { q := 1, index := 2, src := 0, dst := 0, bytes := 128, cls := 0, progress := 20 }
 let qs := fun (cs : List Cmd) (s : State) => q1 (fun x => {x with cmds := cs}) s
 let s1 := fun (n : Nat) => syn (bt n (hs (fun h => {h with copies := [(0,cpy)]}) (qs [cmd1 [(0,4)] (fun c => {c with st := .acting})] z)))
 let h := fun (f : Hang → Hang) (s : State) => bt 40 (hg f s)
 let b : State → List (State × Nat × Nat × Nat × W64) := fun (s : State) => [(s,0x800,1,2,(20 : W64))]
 b (hg (fun x => {x with wdCfg := 0x4000000064}) (s1 100)) ++ b (hg (fun x => {x with wdCfg := 0x4000000064}) (s1 120)) ++
 b (h (fun x => {x with status := 1, dumping := true, todo := [{section_ := 3, src := .reg 0x50000}], entries := 2}) z) ++
 b (h (fun x => {x with status := 1, dumping := true, todo := [{section_ := 3, src := .tileReg 0x60}], entries := 2}) z) ++
   b (h (fun x => {x with status := 2, suspects := [{sus0 with cmds := [c6]}]}) (qs [] z)) ++
 b (h (fun x => {x with status := 1, dumping := true, beat := 7}) z) ++
 b (h (fun x => {x with status := 2, suspects := [sus0]}) (qs [] z)) ++
   b (h (fun x => {x with status := 3, suspects := [sus0]}) (qs [] z)) ++
 b (h (fun x => {x with status := 3, suspects := [sus0], replaying := some 1}) (qs [] z)) ++
 b (h (fun x => {x with status := 3, suspects := [sus0], replaying := some 1, replayBeat := 20}) (qs [cmd1 [(0,2),
   (8,30)] (fun c => {c with st := .acting, replay := true})] z)) ++
 b (h (fun x => {x with status := 3, suspects := [sus0], replaying := some 1, replayBeat := 20, wdCfg := 0x0A_00000064}) (qs [cmd1 [(0,2),(8,30)] (fun c => {c with st := .acting, replay := true})] z)) ++
 b (h (fun x => {x with status := 3, suspects := [{sus0 with replayed := true, verdict := 1}]}) (qs [] z)) ++
 b (h (fun x => {x with status := 8, coldSince := true}) z) ++
   b (hg (fun x => {x with wdCfg := 0x4000000064, endedAt := some 120}) (s1 120)) ++
   b (h (fun x => {x with status := 1, dumping := true, todo := [{section_ := 1, src := .unit 0x800}], entries := 2, last := [(0x800,7)]}) z) ++ b (h (fun x => {x with status := 1, dumping := true, todo := [{section_ := 1, src := .unit 0x800}], entries := 2}) (s1 100)) ++ b (h (fun x => {x with status := 2, suspects := [sus0]}) (qs [c0] z)) ++ b (h (fun x => {x with status := 3, suspects := [sus2], replaying := some 1}) (qs [c5] z)) ++ b (h (fun x => {x with status := 3, suspects := [sus2], replaying := some 1, replayBeat := 20, wdCfg := 0x0A_00000064}) (qs [cmd1 [(0,2),(8,30)] (fun c => {c with st := .acting, replay := true}), c5] z)))

/-- Every clause of HangHandling has a state and operands that meet all its hypotheses together. -/
theorem witness_HangHandling :
  (∃ w0 ∈ pick wit_HangHandling 2,
 let s := w0.1;
 let e := w0.2.1;
 (Clean s) ∧
 let h := s.hang
 let handles := fld h.status 0 2
 (handles ≠ 0 ∨ h.endedAt = some s.esc.beat ∨ s.synced = false ∨ s.unitRun e = none)) ∧
  (∃ w0 ∈ pick wit_HangHandling 0,
 let s := w0.1;
 let e := w0.2.1;
 let q := w0.2.2.1;
 let i := w0.2.2.2.1;
 let p := w0.2.2.2.2;
 (Clean s) ∧
 let h := s.hang
 let handles := fld h.status 0 2
 (handles = 0) ∧ (h.endedAt ≠ some s.esc.beat) ∧ (s.synced = true) ∧ (s.unitRun e = some (q, i, p)) ∧
   (s.esc.beat.toNat < p.toNat + max 64 (fld h.wdCfg 0 32))) ∧
  (∃ w0 ∈ pick wit_HangHandling 1,
 let s := w0.1;
 let e := w0.2.1;
 let q := w0.2.2.1;
 let i := w0.2.2.2.1;
 let p := w0.2.2.2.2;
 (Clean s) ∧
 let h := s.hang
 let handles := fld h.status 0 2
 (handles = 0) ∧ (h.endedAt ≠ some s.esc.beat) ∧ (s.synced = true) ∧ (s.unitRun e = some (q, i, p)) ∧
   (p.toNat + max 64 (fld h.wdCfg 0 32) ≤ s.esc.beat.toNat)) ∧
  (∃ w0 ∈ pick wit_HangHandling 2,
 let s := w0.1;
 (Clean s) ∧
 let h := s.hang
 (∃ v3 ∈ [(0x50000,3,([] : List DumpLoc),true),(0x60,3,[],true)],
 let o := v3.1;
 let k := v3.2.1;
 let r := v3.2.2.1;
 (h.todo = { section_ := k, src := .reg o } :: r) ∧ (h.dumping = true))) ∧
  (∃ w0 ∈ pick wit_HangHandling 3,
 let s := w0.1;
 (Clean s) ∧
 let h := s.hang
 (∃ v3 ∈ [(0x50000,3,([] : List DumpLoc),true),(0x60,3,[],true)],
 let o := v3.1;
 let k := v3.2.1;
 let r := v3.2.2.1;
 (h.todo = { section_ := k, src := .tileReg o } :: r) ∧ (h.dumping = true))) ∧
  (∃ w0 ∈ pick wit_HangHandling 14,
 let s := w0.1;
 let e := w0.2.1;
 (Clean s) ∧
 let h := s.hang
 (∃ v3 ∈ [h.todo.drop 1],
 let r := v3;
 (h.todo = { section_ := 1, src := .unit e } :: r) ∧ (h.dumping = true))) ∧
  (∃ w0 ∈ pick wit_HangHandling 5,
 let s := w0.1;
 (Clean s) ∧
 let h := s.hang
 (h.todo = []) ∧ (h.dumping = true)) ∧
  (∃ w0 ∈ pick wit_HangHandling 6,
 let s := w0.1;
 (Clean s) ∧
 let h := s.hang
 (∃ v3 ∈ h.suspects.flatMap (fun x => x.cmds.map (fun c => (x, c))),
 let x := v3.1;
 let c := v3.2;
 (h.suspects = [x]) ∧ (s.replayReady = true) ∧ (x.replayed = false) ∧ (x.cmds = [c]) ∧ (cmdOp c.raw = 2) ∧
   (s.cmd x.q c.index = none) ∧ (c.tag = none))) ∧
  (∃ w0 ∈ pick wit_HangHandling 16,
 let s := w0.1;
 (Clean s) ∧
 let h := s.hang
 (∃ v3 ∈ h.suspects.flatMap (fun x => x.cmds.map (fun c => (x, c))),
 let x := v3.1;
 let c := v3.2;
 (h.suspects = [x]) ∧ (s.replayReady = true) ∧ (x.replayed = false) ∧ (∃ v7 ∈ (s.cmd x.q c.index).toList,
 let d := v7;
 (x.cmds = [c]) ∧ (cmdOp c.raw = 2) ∧ (s.cmd x.q c.index = some d) ∧ (c.tag = none)))) ∧
  (∃ w0 ∈ pick wit_HangHandling 4,
 let s := w0.1;
 (Clean s) ∧
 let h := s.hang
 (∃ v3 ∈ h.suspects.flatMap (fun x => x.cmds.map (fun c => (x, c))),
 let x := v3.1;
 let c := v3.2;
 (h.suspects = [x]) ∧ (s.replayReady = true) ∧ (x.replayed = false) ∧ (x.cmds = [c]) ∧ (cmdOp c.raw = 5 ∨ cmdOp c.raw = 6))) ∧
  (∃ w0 ∈ pick wit_HangHandling 8,
 let s := w0.1;
 (Clean s) ∧
 let h := s.hang
 (∃ v3 ∈ h.suspects,
 let x := v3;
 (h.suspects = [x]) ∧ (h.replaying = some x.q) ∧ (s.replayLeft x.q = []))) ∧
  (∃ w0 ∈ pick wit_HangHandling 9,
 let s := w0.1;
 (Clean s) ∧
 let h := s.hang
 (∃ v3 ∈ h.suspects,
 let x := v3;
 (h.suspects = [x]) ∧ (h.replaying = some x.q) ∧ (∃ v6 ∈ s.replayLeft x.q,
 let c := v6;
 (s.replayLeft x.q = [c]) ∧ (cmdOp c.raw = 2) ∧ (c.tag = none) ∧
   (s.esc.beat.toNat < h.replayBeat.toNat + max 1 (fld h.wdCfg 32 16))))) ∧
  (∃ w0 ∈ pick wit_HangHandling 10,
 let s := w0.1;
 (Clean s) ∧
 let h := s.hang
 (∃ v3 ∈ h.suspects,
 let x := v3;
 (h.suspects = [x]) ∧ (h.replaying = some x.q) ∧ (∃ v6 ∈ s.replayLeft x.q,
 let c := v6;
 (s.replayLeft x.q = [c]) ∧ (cmdOp c.raw = 2) ∧ (c.tag = none) ∧
   (h.replayBeat.toNat + max 1 (fld h.wdCfg 32 16) ≤ s.esc.beat.toNat)))) ∧
  (∃ w0 ∈ pick wit_HangHandling 11,
 let s := w0.1;
 (Clean s) ∧
 let h := s.hang
 (∃ v3 ∈ h.suspects,
 let x := v3;
 (h.suspects = [x]) ∧ (x.replayed = true) ∧ (x.verdict = 1) ∧ (s.replayReady = true))) ∧
  (∃ w0 ∈ pick wit_HangHandling 12,
 let s := w0.1;
 (Clean s) ∧
 let h := s.hang
 (bitOf h.status 3 = true) ∧ (h.coldSince = true)) ∧
  (∃ w0 ∈ pick wit_HangHandling 0,
 let s := w0.1;
 (Clean s) ∧
 let h := s.hang
 (bitOf h.status 3 = false ∨ h.coldSince = false)) := by
  dsimp only [TileTxn, TileQuiet, Completed, HeaderFits, CollEnded, Recorded, faultKey, BufferHas, ResetNoted, Clean]
  and_intros <;> decide +kernel

/-- States and operands for the hypotheses of Resets. -/
def wit_Resets : List (State × Nat) :=
(let cpy : CopyRun := { q := 1, index := 2, src := 0, dst := 0, bytes := 128, cls := 0, progress := 20 }
 let ks : State → List (State × Nat) := fun (s : State) => [0,3,38,39,1535,1536].map fun k => (s,k)
 let qq : State → State := fun (s : State) => hs (fun h => {h with queues := [(1,{st := 1, cmds := [{index := 2, raw := 4, st := .acting, tag := some 3}]})], copies := [(3,cpy)], busMaster := true, d0 := true}) s
 ks z ++ ks ((fun (s : State) => hs (fun h => {h with d0 := true, queues := h.queues.map (fun q => (q.1,{q.2 with oldest := 2}))}) s) (qq z)) ++ ks (sst 2 z) ++ ks ((fun (s : State) => hs (fun h => {h with queues := h.queues.map (fun q => (q.1,{q.2 with cmds := q.2.cmds.map (fun c => {c with arm := some 0})}))}) s) (qq z)) ++ ks (hs (fun h => {h with busMaster := false}) (qq z)) ++ ks (qq z) ++ ks (me (fun m => {m with stks := [(3,{therm := 360})]}) z) ++ ks (ports [(3,{up with st := 1})] (chans [(3,{st := 1})] z)) ++
 ks (hg (fun h => {h with resetStatus := BitVec.ofNat 64 (3 + 8 + 3*256)}) (chans [(3,{st := 1})] z)) ++
 ks (r0.setTile 5 {st := .run, cs0 := {words := [(3,7)]}, bank := 1}) ++
 ks (putB 64 [1,2,3] (rs (fun r => {r with fault0 := 77, status := 0xFF}) (cf (fun c => {c with secure := 1, loadAddr := 5}) {z with flash := {z.flash with outOfService := true}}))))

/-- Every clause of Resets has a state and operands that meet all its hypotheses together. -/
theorem witness_Resets :
  (∃ w0 ∈ pick wit_Resets 12,
 let s := w0.1;
 (Clean s) ∧ (s.sliceSt = 2)) ∧
  (∃ w0 ∈ pick wit_Resets 36,
 let s := w0.1;
 (Clean s) ∧ (∃ v2 ∈ [3],
 let j := v2;
 (j < 12) ∧ (360 ≤ fld (s.stack j).therm 0 12) ∧ (s.sliceSt ≠ 2))) ∧
  (∃ w0 ∈ pick wit_Resets 0,
 let s := w0.1;
 let k := w0.2;
 (Clean s) ∧ (s.sliceSt ≠ 2) ∧ (k < 0x800)) ∧
  (∃ w0 ∈ pick wit_Resets 3,
 let s := w0.1;
 let k := w0.2;
 (Clean s) ∧ (s.sliceSt ≠ 2) ∧ (39 ≤ k)) ∧
  (∃ w0 ∈ pick wit_Resets 5,
 let s := w0.1;
 let k := w0.2;
 (Clean s) ∧ (s.sliceSt ≠ 2) ∧ (1536 ≤ k)) ∧
  (∃ w0 ∈ pick wit_Resets 7,
 let s := w0.1;
 let k := w0.2;
 (Clean s) ∧ (s.sliceSt ≠ 2) ∧
   (∃ v3 ∈ [(({ q := 1, index := 2, src := 0, dst := 0, bytes := 128, cls := 0, progress := 20 } : CopyRun),
   ({index := 2, raw := 4, st := .acting, tag := some 3} : Cmd))],
 let r := v3.1;
 let c := v3.2;
 (k < 16) ∧ (afind s.host.copies k = some r) ∧ (s.cmd r.q r.index = some c) ∧ (c.st = .acting) ∧ (c.replay = false) ∧
   (cmdOp c.raw = 4))) ∧
  (∃ w0 ∈ pick wit_Resets 0,
 let s := w0.1;
 let k := w0.2;
 (Clean s) ∧ (s.sliceSt ≠ 2) ∧ (k < 16) ∧ (afind s.host.copies k = none)) ∧
  (∃ w0 ∈ pick wit_Resets 0,
 let s := w0.1;
 (Clean s) ∧ (s.sliceSt ≠ 2) ∧ (s.slots = []) ∧ (s.loadSt ≠ 4)) ∧
  (∃ w0 ∈ pick wit_Resets 0,
 let s := w0.1;
 let k := w0.2;
 (Clean s) ∧ (s.sliceSt ≠ 2) ∧ (k < 39) ∧ (s.fab.txns = []) ∧ ((s.port k).st ≠ 3)) ∧
  (∃ w0 ∈ pick wit_Resets 0,
 let s := w0.1;
 let k := w0.2;
 (Clean s) ∧ (s.sliceSt ≠ 2) ∧ (k < 1536) ∧ ((s.chan k).st ≠ 2) ∧ ((s.chan k).all = [])) ∧
  (∃ w0 ∈ pick wit_Resets 0,
 let s := w0.1;
 (Clean s) ∧
 let cool := ∀ j, j < 12 → fld (s.stack j).therm 0 12 < 360
 (s.sliceSt ≠ 2) ∧ (cool) ∧ (s.mem.chans = [])) ∧
  (∃ w0 ∈ pick wit_Resets 0,
 let s := w0.1;
 (Clean s) ∧
 let cool := ∀ j, j < 12 → fld (s.stack j).therm 0 12 < 360
 (cool) ∧ (s.mem.chans = [])) ∧
  (∃ w0 ∈ pick wit_Resets 48,
 let s := w0.1;
 (Clean s) ∧ (bitOf s.hang.resetStatus 3 = true) ∧ (fld s.hang.resetStatus 0 3 ≤ 3)) ∧
  (∃ w0 ∈ pick wit_Resets 0,
 let s := w0.1;
 (Clean s) ∧ (bitOf s.hang.resetStatus 3 = false)) := by
  dsimp only [TileTxn, TileQuiet, Completed, HeaderFits, CollEnded, Recorded, faultKey, BufferHas, ResetNoted, Clean]
  and_intros <;> decide +kernel

/-- States and operands for the hypotheses of PowerAndEnvironment. -/
def wit_PowerAndEnvironment : List (State × Nat × Nat) :=
(let on := fun (f : Power → Power) (s : State) => pw (fun p => f {p with mainOn := true}) s
 let b : State → List (State × Nat × Nat) := fun s => ([0,3,100,159,160,180,181,255,256,439,440,5000,39999,40000,41999,42000,58000,58001,200000] : List Nat).flatMap fun n => ([0,899,900,2000,5000] : List Nat).map fun m => (s,n,m)
 b z ++ b (on id z) ++ b (syn (on id z)) ++ b (on (fun p => {p with samples := [9000,9000], pwrCfg := 0x5780A641D4C}) z) ++
   b {z with regions := [(3,{st := 0, lock := true})]})

/-- Every clause of PowerAndEnvironment has a state and operands that meet all its hypotheses together. -/
theorem witness_PowerAndEnvironment :
  (∃ w0 ∈ pick wit_PowerAndEnvironment 190,
 let s := w0.1;
 let n := w0.2.1;
 (Clean s) ∧
 let p := s.power
 let samples := (n :: p.samples).take 100
 let a := samples.foldl (· + ·) 0 / samples.length
 (p.pendDelta = none) ∧ (a < 65536) ∧ (s.synced = true)) ∧
  (∃ w0 ∈ pick wit_PowerAndEnvironment 63,
 let s := w0.1;
 let n := w0.2.1;
 let m := w0.2.2;
 (Clean s) ∧
 let p := s.power
 let samples := (n :: p.samples).take 100
 let a := samples.foldl (· + ·) 0 / samples.length
 (p.pendDelta = none) ∧ (a < 65536) ∧ (s.synced = false) ∧ (min 7500 (max 3000 (fld p.pwrCfg 0 16)) < a) ∧
   (1000 ≤ m - p.lastChange) ∧ (700 < fld p.pwrStatus 16 12)) ∧
  (∃ w0 ∈ pick wit_PowerAndEnvironment 0,
 let s := w0.1;
 let n := w0.2.1;
 (Clean s) ∧ (n < 440)) ∧
  (∃ w0 ∈ pick wit_PowerAndEnvironment 50,
 let s := w0.1;
 let n := w0.2.1;
 (Clean s) ∧ (440 ≤ n)) ∧
  (∃ w0 ∈ pick wit_PowerAndEnvironment 95,
 let s := w0.1;
 let n := w0.2.1;
 (Clean s) ∧
 let p := s.power
 (n < 40000) ∧ (p.mainOn = true)) ∧
  (∃ w0 ∈ pick wit_PowerAndEnvironment 0,
 let s := w0.1;
 let n := w0.2.1;
 (Clean s) ∧
 let p := s.power
 (40000 ≤ n ∨ p.mainOn = false)) ∧
  (∃ w0 ∈ pick wit_PowerAndEnvironment 180,
 let s := w0.1;
 let n := w0.2.1;
 (Clean s) ∧
 let p := s.power
 (58000 < n) ∧ (p.mainOn = true)) ∧
  (∃ w0 ∈ pick wit_PowerAndEnvironment 0,
 let s := w0.1;
 let n := w0.2.1;
 (Clean s) ∧
 let p := s.power
 (n ≤ 58000 ∨ p.mainOn = false)) ∧
  (∃ w0 ∈ pick wit_PowerAndEnvironment 190,
 let s := w0.1;
 (Clean s) ∧
 let p := s.power
 (p.mainOn = true) ∧ (s.synced = true)) ∧
  (∃ w0 ∈ pick wit_PowerAndEnvironment 0,
 let s := w0.1;
 (Clean s) ∧
 let p := s.power
 (p.mainOn = false)) ∧
  (∃ w0 ∈ pick wit_PowerAndEnvironment 2,
 let s := w0.1;
 let n := w0.2.1;
 let m := w0.2.2;
 (Clean s) ∧ (n ≤ 180) ∧ (900 ≤ m) ∧ (m < 4096)) ∧
  (∃ w0 ∈ pick wit_PowerAndEnvironment 0,
 let s := w0.1;
 let n := w0.2.1;
 let m := w0.2.2;
 (Clean s) ∧ (180 < n ∨ m < 900)) ∧
  (∃ w0 ∈ pick wit_PowerAndEnvironment 385,
 let s := w0.1;
 let n := w0.2.1;
 (Clean s) ∧ (n < 256) ∧ ((s.region n).st = 0)) ∧
  (∃ w0 ∈ pick wit_PowerAndEnvironment 0,
 let s := w0.1;
 let n := w0.2.1;
 (Clean s) ∧ (256 ≤ n ∨ (s.region n).st ≠ 0)) := by
  dsimp only [TileTxn, TileQuiet, Completed, HeaderFits, CollEnded, Recorded, faultKey, BufferHas, ResetNoted, Clean]
  and_intros <;> decide +kernel

/-- States and operands for the hypotheses of StartUpAndKeys. -/
def wit_StartUpAndKeys : List (State × Bool × Nat) :=
(let b : State → List (State × Bool × Nat) := fun s => [(s,true,1)]
 let envOk : Power → Power := fun p => {p with env := setFld (setFld (setFld p.env 0 12 100) 12 12 1000) 36 17 48000}
 b (bo 0 id) ++ b (bo 1 id) ++
   b (pw (fun p => {p with boot := setFld p.boot 0 4 1}) {z with flash := {z.flash with fwValid := []}}) ++ b (bo 2 id) ++
   b (bo 3 id) ++ b (bo 3 envOk) ++ b (bo 4 id) ++ b (bo 4 (fun p => {envOk p with pwrEnPin := true})) ++
 b (bo 5 id) ++ b (bo 5 (fun p => {p with powerGood := true})) ++ b (bo 6 id) ++ b (bo 7 id) ++ b (bo 8 id) ++ b (bo 9 id) ++
   b (bo 3 (fun p => {p with boot := setFld p.boot 4 8 9})) ++
 b (pw (fun p => {p with keyRun := some (1,[1,2,3])}) z) ++ b (pw (fun p => {p with keyRun := some (0,[])}) z) ++
   b (cf (fun c => {c with secure := 1}) z) ++ b {z with flash := {z.flash with keys := [(0,[1])]}} ++
 b (ky kg) ++ b (ky (List.replicate 64 1)))

/-- Every clause of StartUpAndKeys has a state and operands that meet all its hypotheses together. -/
theorem witness_StartUpAndKeys :
  (∃ w0 ∈ pick wit_StartUpAndKeys 13,
 let s := w0.1;
 (Clean s) ∧
 let p := s.power
 let n := fld p.boot 0 4
 let running := fld p.boot 4 8 = 0
 (¬ running ∨ 9 ≤ n)) ∧
  (∃ w0 ∈ pick wit_StartUpAndKeys 1,
 let s := w0.1;
 let code := w0.2.2;
 (Clean s) ∧
 let p := s.power
 let n := fld p.boot 0 4
 let running := fld p.boot 4 8 = 0
 (running) ∧ (n < 9) ∧ (code ∈ stageFails n)) ∧
  (∃ w0 ∈ pick wit_StartUpAndKeys 0,
 let s := w0.1;
 (Clean s) ∧
 let p := s.power
 let n := fld p.boot 0 4
 let running := fld p.boot 4 8 = 0
 (running) ∧ (n = 0)) ∧
  (∃ w0 ∈ pick wit_StartUpAndKeys 1,
 let s := w0.1;
 (Clean s) ∧
 let p := s.power
 let n := fld p.boot 0 4
 let running := fld p.boot 4 8 = 0
 (running) ∧ (n = 1) ∧ (∃ v7 ∈ s.fwChoice.toList,
 let i := v7;
 (s.fwChoice = some i) ∧ (i < 2))) ∧
  (∃ w0 ∈ pick wit_StartUpAndKeys 2,
 let s := w0.1;
 (Clean s) ∧
 let p := s.power
 let n := fld p.boot 0 4
 let running := fld p.boot 4 8 = 0
 (running) ∧ (n = 1) ∧ (s.fwChoice = none)) ∧
  (∃ w0 ∈ pick wit_StartUpAndKeys 3,
 let s := w0.1;
 (Clean s) ∧
 let p := s.power
 let n := fld p.boot 0 4
 let running := fld p.boot 4 8 = 0
 (running) ∧ (n = 2)) ∧
  (∃ w0 ∈ pick wit_StartUpAndKeys 5,
 let s := w0.1;
 (Clean s) ∧
 let p := s.power
 let n := fld p.boot 0 4
 let running := fld p.boot 4 8 = 0
 (running) ∧ (n = 3) ∧ (900 ≤ fld p.env 12 12 ∧ fld p.env 0 12 ≤ 180)) ∧
  (∃ w0 ∈ pick wit_StartUpAndKeys 4,
 let s := w0.1;
 (Clean s) ∧
 let p := s.power
 let n := fld p.boot 0 4
 let running := fld p.boot 4 8 = 0
 (running) ∧ (n = 3) ∧ (fld p.env 12 12 < 900 ∨ 180 < fld p.env 0 12)) ∧
  (∃ w0 ∈ pick wit_StartUpAndKeys 7,
 let s := w0.1;
 (Clean s) ∧
 let p := s.power
 let n := fld p.boot 0 4
 let running := fld p.boot 4 8 = 0
 (running) ∧ (n = 4) ∧ (p.pwrEnPin = true ∧ 42000 ≤ fld p.env 36 17)) ∧
  (∃ w0 ∈ pick wit_StartUpAndKeys 6,
 let s := w0.1;
 (Clean s) ∧
 let p := s.power
 let n := fld p.boot 0 4
 let running := fld p.boot 4 8 = 0
 (running) ∧ (n = 4) ∧ (p.pwrEnPin = false ∨ fld p.env 36 17 < 42000)) ∧
  (∃ w0 ∈ pick wit_StartUpAndKeys 8,
 let s := w0.1;
 (Clean s) ∧
 let p := s.power
 let n := fld p.boot 0 4
 let running := fld p.boot 4 8 = 0
 (running) ∧ (n = 5)) ∧
  (∃ w0 ∈ pick wit_StartUpAndKeys 10,
 let s := w0.1;
 (Clean s) ∧
 let p := s.power
 let n := fld p.boot 0 4
 let running := fld p.boot 4 8 = 0
 (running) ∧ (n = 6)) ∧
  (∃ w0 ∈ pick wit_StartUpAndKeys 11,
 let s := w0.1;
 (Clean s) ∧
 let p := s.power
 let n := fld p.boot 0 4
 let running := fld p.boot 4 8 = 0
 (running) ∧ (n = 7)) ∧
  (∃ w0 ∈ pick wit_StartUpAndKeys 12,
 let s := w0.1;
 (Clean s) ∧
 let p := s.power
 let n := fld p.boot 0 4
 let running := fld p.boot 4 8 = 0
 (running) ∧ (n = 8)) ∧
  (∃ w0 ∈ pick wit_StartUpAndKeys 15,
 let s := w0.1;
 (Clean s) ∧
 let p := s.power
 (p.keyRun ≠ none)) ∧
  (∃ w0 ∈ pick wit_StartUpAndKeys 17,
 let s := w0.1;
 (Clean s) ∧
 let p := s.power
 (p.keyRun = none) ∧ (bitOf s.cfg.secure 0 = true)) ∧
  (∃ w0 ∈ pick wit_StartUpAndKeys 18,
 let s := w0.1;
 (Clean s) ∧
 let p := s.power
 let slot := fld p.keyCtrl 0 2
 let held := (afind s.flash.keys slot).isSome
 (p.keyRun = none) ∧ (bitOf s.cfg.secure 0 = false) ∧ (held)) ∧
  (∃ w0 ∈ pick wit_StartUpAndKeys 19,
 let s := w0.1;
 (Clean s) ∧
 let p := s.power
 let slot := fld p.keyCtrl 0 2
 let held := (afind s.flash.keys slot).isSome
 (p.keyRun = none) ∧ (bitOf s.cfg.secure 0 = false) ∧ (¬ held) ∧
   (∃ v8 ∈ [((s.rdMem (gaOff p.keyAddr) 64).1, (s.rdMem (gaOff p.keyAddr) 64).2.2)],
 let bs := v8.1;
 let u := v8.2;
 (s.rdMem (gaOff p.keyAddr) 64 = (bs, none, u)) ∧ (s.ownMem p.keyAddr = true) ∧
   (smOnCurve (ofBe (bs.take 32)) (ofBe (bs.drop 32)) = true))) ∧
  (∃ w0 ∈ pick wit_StartUpAndKeys 20,
 let s := w0.1;
 (Clean s) ∧
 let p := s.power
 let slot := fld p.keyCtrl 0 2
 let held := (afind s.flash.keys slot).isSome
 (p.keyRun = none) ∧ (bitOf s.cfg.secure 0 = false) ∧ (¬ held) ∧
   (∃ v8 ∈ [((s.rdMem (gaOff p.keyAddr) 64).1, (s.rdMem (gaOff p.keyAddr) 64).2.2)],
 let bs := v8.1;
 let u := v8.2;
 (s.rdMem (gaOff p.keyAddr) 64 = (bs, none, u)) ∧ (s.ownMem p.keyAddr = true) ∧
   (smOnCurve (ofBe (bs.take 32)) (ofBe (bs.drop 32)) = false))) ∧
  (∃ w0 ∈ pick wit_StartUpAndKeys 15,
 let s := w0.1;
 (Clean s) ∧
 let p := s.power
 (∃ v3 ∈ p.keyRun.toList,
 let k := v3.1;
 let bs := v3.2;
 (p.keyRun = some (k, bs)))) := by
  dsimp only [TileTxn, TileQuiet, Completed, HeaderFits, CollEnded, Recorded, faultKey, BufferHas, ResetNoted, Clean]
  and_intros <;> decide +kernel

/-- States and operands for the hypotheses of AttestationAndFlash. -/
def wit_AttestationAndFlash : List (State × State × State × Option DropCause × Option DropCause) :=
(let at_ : Nat → (Power → Power) → State := fun n f => pw (fun p => f {p with attCtrl := setFld p.attCtrl 1 2 n}) z
 let fl : Nat → Nat → (Power → Power) → State := fun k st f => pw (fun p => f {p with attCtrl := setFld p.attCtrl 1 2 1, flashCtrl := setFld (setFld p.flashCtrl 0 5 k) 6 2 st}) z
 let signed := ([1,2,3] ++ leBytes 32 (Config.identitySign [1,2,3]).1.toNat ++ leBytes 32 (Config.identitySign [1,2,3]).2.toNat)
 let b : State → List (State × State × State × Option DropCause × Option DropCause) := fun s =>
   let w := fun (x : Option DropCause × State) => (s,x.2,x.2,x.1,x.1)
   let src := s.power.flashSrc
   let k := fld s.power.flashCtrl 0 5
   let g := s.flashLen k src
   [w (g.2.1,g.2.2)] ++ (if k < 16 ∧
     fld s.power.flashCtrl 6 2 = 1 then let r := g.2.2.rdMem (gaOff src) g.1; [(s,g.2.2,r.2.2,g.2.1,r.2.1)] else []) ++
   [w (s.wrMem (gaOff s.power.attAddr) signed), w (s.wrMem (gaOff s.power.attAddr) (Config.certificate 0))]
 let am : Power → Power := fun p => {p with attAddr := mkGa 0 0x3FFF 0x40}
 let all := fun (s : State) => chans (((List.range 200).map fun i => (stackMap (0x40*(i+1))).1).eraseDups.mergeSort.map fun c => (c,rdy)) s
 let ia := mkGa 0 0x3FFF 0x1000
 let run := fun (s : State) => pw (fun p => {p with flashSrc := ia, flashRun := some (3,ia)}) s
 [at_ 1 id, at_ 0 id, at_ 1 (fun p => {p with attReport := some [1,2,3]}),
   all (at_ 1 (fun p => {p with attReport := some [1,2,3], attAddr := mkGa 0 0x3FFF 0x40})),
  at_ 1 (fun p => {p with certCtrl := 3}), all (at_ 1 am), at_ 1 am, fl 3 0 id, fl 16 0 id,
    at_ 1 (fun p => {p with attReport := some [1,2,3], attAddr := mkGa 0 0x3FFF 0x40}), fl 20 0 id, fl 17 0 id,
    fl 17 0 (fun p => {p with flashSrc := mkGa 0 5 0}), fl 17 0 (fun p => {p with flashSrc := mkGa 0 0x3FFF 0}), fl 3 1 id,
  chans [(513,rdy),(641,rdy)] (putB 0x1000 im (fl 3 0 (fun p => {p with flashSrc := ia}))), chans [(513,rdy),
    (641,rdy)] (putB 0x1000 im (run (fl 3 1 id))), run (fl 3 1 id)].flatMap b)

/-- Every clause of AttestationAndFlash has a state and operands that meet all its hypotheses together. -/
theorem witness_AttestationAndFlash :
  (∃ w0 ∈ pick wit_AttestationAndFlash 0,
 let s := w0.1;
 (Clean s) ∧
 let p := s.power
 (fld p.attCtrl 1 2 = 1)) ∧
  (∃ w0 ∈ pick wit_AttestationAndFlash 3,
 let s := w0.1;
 (Clean s) ∧
 let p := s.power
 (fld p.attCtrl 1 2 ≠ 1)) ∧
  (∃ w0 ∈ pick wit_AttestationAndFlash 0,
 let s := w0.1;
 (Clean s) ∧
 let p := s.power
 (p.attReport = none)) ∧
  (∃ w0 ∈ pick wit_AttestationAndFlash 6,
 let s := w0.1;
 (Clean s) ∧
 let p := s.power
 (∃ v3 ∈ p.attReport.toList,
 let bs := v3;
 (p.attReport = some bs) ∧ (s.ownMem p.attAddr = false))) ∧
  (∃ w0 ∈ pick wit_AttestationAndFlash 0,
 let s := w0.1;
 (Clean s) ∧
 let p := s.power
 (fld p.certCtrl 0 2 = 3 ∨ s.ownMem p.attAddr = false)) ∧
  (∃ w0 ∈ pick wit_AttestationAndFlash 42,
 let s := w0.1;
 (Clean s) ∧
 let p := s.power
 (fld p.flashCtrl 6 2 = 1)) ∧
  (∃ w0 ∈ pick wit_AttestationAndFlash 0,
 let s := w0.1;
 let u := w0.2.1;
 let e := w0.2.2.2.1;
 (Clean s) ∧
 let p := s.power
 let k := fld p.flashCtrl 0 5
 (∃ v4 ∈ [(s.flashLen (fld p.flashCtrl 0 5) p.flashSrc).1],
 let n := v4;
 (fld p.flashCtrl 6 2 ≠ 1) ∧ (s.flashLen k p.flashSrc = (n, e, u)) ∧
 let no := 17 < k ∨ (16 ≤ k ∧ k - 16 = fld p.boot 12 1) ∨ e ≠ none ∨ s.ownMem p.flashSrc = false ∨ 2 ^ 31 < n
 (no))) ∧
  (∃ w0 ∈ pick wit_AttestationAndFlash 39,
 let s := w0.1;
 let u := w0.2.1;
 let e := w0.2.2.2.1;
 (Clean s) ∧
 let p := s.power
 let k := fld p.flashCtrl 0 5
 (∃ v4 ∈ [(s.flashLen (fld p.flashCtrl 0 5) p.flashSrc).1],
 let n := v4;
 (fld p.flashCtrl 6 2 ≠ 1) ∧ (s.flashLen k p.flashSrc = (n, e, u)) ∧
 let no := 17 < k ∨ (16 ≤ k ∧ k - 16 = fld p.boot 12 1) ∨ e ≠ none ∨ s.ownMem p.flashSrc = false ∨ 2 ^ 31 < n
 (¬ no) ∧ (s.ras.run = none))) ∧
  (∃ w0 ∈ pick wit_AttestationAndFlash 0,
 let s := w0.1;
 (Clean s) ∧
 let p := s.power
 (fld p.flashCtrl 6 2 ≠ 1 ∨ p.flashRun = none)) ∧
  (∃ w0 ∈ pick wit_AttestationAndFlash 50,
 let s := w0.1;
 let u := w0.2.1;
 let v := w0.2.2.1;
 let e := w0.2.2.2.1;
 let e2 := w0.2.2.2.2;
 (Clean s) ∧
 let p := s.power
 (∃ v3 ∈ p.flashRun.toList.map (fun y => (y.1, (s.flashLen y.1 y.2).1, y.2, (u.rdMem (gaOff y.2) (s.flashLen y.1 y.2).1).1)),
 let j := v3.1;
 let n := v3.2.1;
 let src := v3.2.2.1;
 let bs := v3.2.2.2;
 (fld p.flashCtrl 6 2 = 1) ∧ (p.flashRun = some (j, src)) ∧ (s.ras.run = none) ∧ (s.flashLen j src = (n, e, u)) ∧
   (u.rdMem (gaOff src) n = (bs, e2, v)))) := by
  dsimp only [TileTxn, TileQuiet, Completed, HeaderFits, CollEnded, Recorded, faultKey, BufferHas, ResetNoted, Clean]
  and_intros <;> decide +kernel

/-- States and operands for the hypotheses of BeatBoundary. -/
def wit_BeatBoundary : List (State) :=
(let s := fun (f : Esc → Esc) => syn (esc' z (fun e => f {e with beat := 40}))
 [z, sst 3 (s (fun e => {e with status := setBit e.status 4 true, holdover := 3})), sst 3 (s id),
   sst 1 (s (fun e => {e with status := setBit e.status 4 true, holdover := 3})),
   s (fun e => {e with status := setBit e.status 4 true, holdover := 63}), s id,
   s (fun e => {e with status := setBit e.status 4 true}), s (fun e => {e with slews := [(41,3),(60,2)]}),
   sst 2 (s (fun e => {e with periodCfg := setFld e.periodCfg 0 32 500, anchor := 41, first := 7}))])

/-- Every clause of BeatBoundary has a state and operands that meet all its hypotheses together. -/
theorem witness_BeatBoundary :
  (∃ w0 ∈ pick wit_BeatBoundary 0,
 let s := w0;
 (Clean s) ∧ (s.synced = false)) ∧
  (∃ w0 ∈ pick wit_BeatBoundary 1,
 let s := w0;
 (Clean s) ∧
 let e := s.esc
 let b := e.beat + 1
 let nothingDue := s.cfg.commit = none ∧ s.cfg.armed = [] ∧ e.beatChange = 0 ∧ s.ras.halts = [] ∧ s.nan.trapDue = false ∧
   fld s.hang.status 0 2 ≠ 1 ∧ s.hang.resetDue = false ∧ s.hang.oosDue = false ∧ s.power.stopAtBoundary = false ∧
   e.unsyncDue = false ∧ s.host.landed = [] ∧ s.host.winLanded = [] ∧ (∀ q ∈ s.host.queues, q.2.cmds = []) ∧ s.slice.joinAt = none ∧
   s.slice.rejoin = none ∧ s.hsRole ≠ 2 ∧ s.host.dmaDue = false ∧ s.fab.rate = [] ∧ (∀ k ∈ s.mem.stks, k.2.pend = none) ∧
   (∀ k ∈ s.slots, k.2.sumDue = false) ∧ (∀ v ∈ e.slews, v.1 = b → v.2.natAbs < 2)
 let held := bitOf e.status 4 = true ∧ (64 ≤ e.holdover + 1 ∨ s.sliceSt = 3)
 (s.synced = true) ∧ (nothingDue) ∧ (held) ∧ (s.periodP = 0 ∨ s.sliceSt ≠ 2)) ∧
  (∃ w0 ∈ pick wit_BeatBoundary 2,
 let s := w0;
 (Clean s) ∧
 let e := s.esc
 let b := e.beat + 1
 let nothingDue := s.cfg.commit = none ∧ s.cfg.armed = [] ∧ e.beatChange = 0 ∧ s.ras.halts = [] ∧ s.nan.trapDue = false ∧
   fld s.hang.status 0 2 ≠ 1 ∧ s.hang.resetDue = false ∧ s.hang.oosDue = false ∧ s.power.stopAtBoundary = false ∧
   e.unsyncDue = false ∧ s.host.landed = [] ∧ s.host.winLanded = [] ∧ (∀ q ∈ s.host.queues, q.2.cmds = []) ∧ s.slice.joinAt = none ∧
   s.slice.rejoin = none ∧ s.hsRole ≠ 2 ∧ s.host.dmaDue = false ∧ s.fab.rate = [] ∧ (∀ k ∈ s.mem.stks, k.2.pend = none) ∧
   (∀ k ∈ s.slots, k.2.sumDue = false) ∧ (∀ v ∈ e.slews, v.1 = b → v.2.natAbs < 2)
 let held := bitOf e.status 4 = true ∧ (64 ≤ e.holdover + 1 ∨ s.sliceSt = 3)
 (s.synced = true) ∧ (nothingDue) ∧ (¬ held) ∧ (s.periodP = 0 ∨ s.sliceSt ≠ 2)) ∧
  (∃ w0 ∈ pick wit_BeatBoundary 8,
 let s := w0;
 (Clean s) ∧
 let e := s.esc
 let b := e.beat + 1
 let nothingDue := s.cfg.commit = none ∧ s.cfg.armed = [] ∧ e.beatChange = 0 ∧ s.ras.halts = [] ∧ s.nan.trapDue = false ∧
   fld s.hang.status 0 2 ≠ 1 ∧ s.hang.resetDue = false ∧ s.hang.oosDue = false ∧ s.power.stopAtBoundary = false ∧
   e.unsyncDue = false ∧ s.host.landed = [] ∧ s.host.winLanded = [] ∧ (∀ q ∈ s.host.queues, q.2.cmds = []) ∧ s.slice.joinAt = none ∧
   s.slice.rejoin = none ∧ s.hsRole ≠ 2 ∧ s.host.dmaDue = false ∧ s.fab.rate = [] ∧ (∀ k ∈ s.mem.stks, k.2.pend = none) ∧
   (∀ k ∈ s.slots, k.2.sumDue = false) ∧ (∀ v ∈ e.slews, v.1 = b → v.2.natAbs < 2)
 let held := bitOf e.status 4 = true ∧ (64 ≤ e.holdover + 1 ∨ s.sliceSt = 3)
 (s.synced = true) ∧ (nothingDue) ∧ (¬ held) ∧ (s.periodP ≠ 0) ∧ (s.sliceSt = 2) ∧ (e.started = false) ∧ (e.anchor = b)) := by
  dsimp only [TileTxn, TileQuiet, Completed, HeaderFits, CollEnded, Recorded, faultKey, BufferHas, ResetNoted, Clean]
  and_intros <;> decide +kernel

/-- States and operands for the hypotheses of LateRun. -/
def wit_LateRun : List (State × Nat) :=
(let s := esc (fun e => {e with lateness := 0x0002_00000005, status := 0xFF, periodCfg := setFld e.periodCfg 40 16 3})
 [(s,0),(s,5),(esc' s (fun e => {e with lateness := 0xFFFF_00000005}),9),(esc' s (fun e => {e with lateness := 0x0001_00000005}),9),
   (esc (fun e => {e with periodCfg := 0}),0)])

/-- Every clause of LateRun has a state and operands that meet all its hypotheses together. -/
theorem witness_LateRun :
  (∃ w0 ∈ pick wit_LateRun 1,
 let late := w0.2;
 (0 < late)) ∧
  (∃ w0 ∈ pick wit_LateRun 0,
 let late := w0.2;
 (late = 0)) ∧
  (∃ w0 ∈ pick wit_LateRun 0,
 (∃ v1 ∈ [0,63],
 let i := v1;
 (i ≠ 3) ∧ (i < 64))) := by
  dsimp only [TileTxn, TileQuiet, Completed, HeaderFits, CollEnded, Recorded, faultKey, BufferHas, ResetNoted, Clean]
  and_intros <;> decide +kernel


/-- A pair from its parts. -/
theorem pair {α β : Type} (p : α × β) : p = (p.1, p.2) := rfl
/-- A triple from its parts. -/
theorem triple {α β γ : Type} (p : α × β × γ) : p = (p.1, p.2.1, p.2.2) := rfl

/-- Every clause of AttestationAndFlash on a report or a certificate that is written has a state that meets its hypotheses. -/
theorem witness_AttestationAndFlash_writes :
  (∃ (s u : State) (e : Option DropCause) (bs : List Byte), Clean s ∧ s.power.attReport = some bs ∧ s.ownMem s.power.attAddr = true ∧
    s.wrMem (gaOff s.power.attAddr)
      (bs ++ leBytes 32 (Config.identitySign bs).1.toNat ++ leBytes 32 (Config.identitySign bs).2.toNat) = (e, u)) ∧
  (∃ (s u : State) (e : Option DropCause), Clean s ∧ fld s.power.certCtrl 0 2 ≠ 3 ∧ s.ownMem s.power.attAddr = true ∧
    s.wrMem (gaOff s.power.attAddr) (Config.certificate (fld s.power.certCtrl 0 2)) = (e, u)) ∧
  ∃ (s u v : State) (e : Option DropCause) (bs : List Byte), Clean s ∧ fld s.power.flashCtrl 6 2 = 1 ∧
    s.power.flashRun = some (16, 0) ∧ s.ras.run = none ∧ s.flashLen 16 0 = (2 ^ 23, none, u) ∧
    u.rdMem (gaOff 0) (2 ^ 23) = (bs, e, v) := by
  refine ⟨⟨pw (fun p => { p with attReport := some [1, 2, 3], attAddr := mkGa 0 0x3FFF 0x40 }) z, _, _, [1, 2, 3], ?_, rfl, ?_,
      pair _⟩,
    ⟨pw (fun p => { p with attAddr := mkGa 0 0x3FFF 0x40 }) z, _, _, ?_, ?_, ?_, pair _⟩,
    ⟨pw (fun p => { p with flashRun := some (16, 0), flashCtrl := setFld (setFld 0 0 5 16) 6 2 1 }) z, _, _, _, _, ?_, ?_, ?_, ?_, rfl,
      triple _⟩⟩ <;> decide +kernel

/-- The clause of RequestsAtDestination on a peer's READ of a slot header has a state and operands that meet its hypotheses: the READ names
the place of slot 0 of tier 1, wherever that is. -/
theorem witness_RequestsAtDestination_header :
    ∃ (s : State) (p : FabPkt) (c : Instr) (bs : List Byte), Clean s ∧ c = .read p ∧ p.op = .read ∧ p.srcEngine = true ∧
      p.srcTile = 0x1800 ∧ gaSpace p.addr = 0 ∧ s.headerAt (gaOff p.addr) = some bs ∧ s.frozenAs 0x1800 = false := by
  have hb : slotAddr 1 0 < 2 ^ 44 := by
    have : Config.slotPlace 1 0 % (Config.stackBytes / 64) < Config.stackBytes / 64 := Nat.mod_lt _ (by decide)
    simp only [slotAddr, Config.stackBytes] at *; omega
  have ho : gaOff (BitVec.ofNat 64 (slotAddr 1 0)) = slotAddr 1 0 := by
    simp only [gaOff, fld, BitVec.toNat_ofNat, Nat.shiftRight_zero, Nat.pow_zero, Nat.div_one]
    omega
  have hs : gaSpace (BitVec.ofNat 64 (slotAddr 1 0)) = 0 := by
    simp only [gaSpace, fld, BitVec.toNat_ofNat, Nat.shiftRight_eq_div_pow]
    omega
  refine ⟨z, { zpk with op := .read, srcEngine := true, srcTile := 0x1800, addr := BitVec.ofNat 64 (slotAddr 1 0) }, _,
    (aget ({} : CkSlot) (z.tierSlots 1) 0).header, by decide, rfl, rfl, rfl, rfl, hs, ?_, by decide +kernel⟩
  simp [State.headerAt, ho, List.find?]

/-- The clauses of TagGrant on an edge without a free tag have states that meet their hypotheses, before TAG_STALLS counts the request and
after. -/
theorem witness_TagGrant_noTag (b : Bool) :
    ∃ (s : State) (w : EdgeReq), Clean s ∧ s.fab.nextTag < Config.txnTags ∧ (∀ x ∈ s.fab.txns, x.tag < Config.txnTags) ∧
      State.firstGo s [] s.fab.waiting = some w ∧ Config.txnTags ≤ s.fab.txns.length ∧ w.stalled = b := by
  let w : EdgeReq := { pkt := { zpk with dest := z.moduleId, op := .read, cls := 1, addr := mkGa 0 z.moduleId 128 }, src := .tile 3 9,
                       stalled := b }
  let x : Txn := { tag := 5, pkt := zpk, src := .edge, beat := 0 }
  refine ⟨fb (fun f => { f with waiting := [w], txns := List.replicate Config.txnTags x }) z, w, ⟨rfl, rfl, rfl, rfl⟩, show 0 < Config.txnTags by decide,
    fun y h => ?_, ?_, Nat.le_of_eq (List.length_replicate).symm, rfl⟩
  · rw [List.eq_of_mem_replicate h]; decide
  · cases b <;> decide +kernel

/-- The clause of Checkpoints on a transfer to the flash that is under way has a state that meets its hypotheses. -/
theorem witness_Checkpoints_transfer :
    ∃ (s : State) (r : CkRun) (c : Cmd) (x : CkSlot) (j : Nat), Clean s ∧ s.frozenAs 0x1800 = false ∧ s.ras.run = some r ∧
      r.ending = none ∧ s.cmd r.q r.index = some c ∧ c.replay = false ∧ r.op = 0 ∧ r.tier = 2 ∧ r.stage = 1 ∧
      fld s.power.flashCtrl 6 2 ≠ 1 ∧ slotOf s.ras.tier1 r.step = some j ∧ aget {} s.ras.tier1 j = x ∧ r.moved + 65536 < x.size := by
  let r : CkRun := { q := 1, index := 2, op := 0, tier := 2, slot := 0, step := 9, target := 0, stage := 1 }
  let c : Cmd := { index := 2, raw := 4, st := .acting, tag := some 3 }
  let x : CkSlot := { step := 9, complete := true, parity := true, block := List.replicate 70000 0 }
  refine ⟨q1 (fun q => { q with cmds := [c] }) (rs (fun y => { y with run := some r, tier1 := [(0, x)] }) z), r, c, x, 0,
    ⟨rfl, rfl, rfl, rfl⟩, by decide +kernel, rfl, rfl, ?_, rfl, rfl, rfl, rfl, by decide +kernel, rfl, rfl, ?_⟩
  · decide +kernel
  · have : x.size = x.bytes.length + (List.replicate 70000 (0 : Byte)).length := rfl
    rw [this, List.length_replicate]; show 0 + 65536 < _; omega

/-- The hypotheses of StepRunsTheFront. -/
theorem witness_StepRunsTheFront : (∃ (s : State) (c : Instr) (r : List Instr), s.pending = c :: r) ∧ ∃ s : State, s.pending = [] :=
  ⟨⟨{ z with pending := [.go, .discard] }, .go, [.discard], rfl⟩, z, rfl⟩

/-- The hypotheses of StepAnswersAndKeepsTheInvariant: a state with memory, and the step of a command that changes it. -/
theorem witness_StepAnswersAndKeepsTheInvariant :
    ∃ s t : State, s.pending ≠ [] ∧ Inv s ∧ step s = .next t ∧ t.pending = [] :=
  ⟨{ putB 64 [1, 2, 3] z with pending := [.perst] }, _, by decide, by decide +kernel, rfl, rfl⟩

/-- The hypotheses of StackMap, with the last address of the map and the first above it. -/
theorem witness_StackMap : (Clean z ∧ 0xD800000000 ≤ 0xD800000000) ∧ 0xD7FFFFFFFF < 0xD800000000 ∧
    (0xD7FFFFFFFE / 64 = 0xD7FFFFFFFF / 64) := by decide +kernel

/-- The hypotheses of ThrottleLevels: a slot that level 1 does not allow, and a scrub slot. -/
theorem witness_ThrottleLevels :
    (∃ (s : State) (ch : Nat), Clean s ∧ (s.chan ch).st = 2 ∧ (s.chan ch).slot % 100 ≠ 99 ∧
      slotCarries ((s.chan ch).slot % 100) (levelSlots (fld (s.stack (ch / 128)).therm 24 3)) = false) ∧
    ∃ (s : State) (ch : Nat), Clean s ∧ (s.chan ch).st = 2 ∧ (s.chan ch).slot % 100 = 99 ∧
      s.mark (lineAddr ch (s.chan ch).scrub) = .good :=
  ⟨⟨chans [(130, { rdy with slot := 33 })] z, 130, by decide +kernel⟩, chans [(130, { rdy with slot := 199 })] z, 130, by decide +kernel⟩

/-! ## Results that the manual states -/

/-- R31, R61: the tile at (700, 300) is tile 307,900 in region 74. -/
theorem test_region : regionOf (300 * 1024 + 700) = 74 := by decide

/-- R64, R67: byte 0x0100 of the local store of tile 307,900 on module 37. -/
theorem test_global_address : mkGa 1 37 (307900 * 0x10000 + 0x100) = 0x04025004B2BC0100 := by decide

/-- R297: offset 0x1_2345_6780 lies in line 49,710 of channel 968. -/
theorem test_stack_map : stackMap 0x123456780 = (968, 49710) := by decide

/-- R140: an FP32 value just below 2^-14 is written as the smallest normal of FP16 and is not flushed. -/
theorem test_narrow_to_fp16 : (cvtElem (.fp .fp32) (.fp .fp16) 0 .rne 0x387FFFFF).v = 0x0400 := by decide +kernel

/-- R157, R158: the product truncated into the sticky bit. -/
theorem test_sticky : (groupSum [.fin false 1 10, .fin false 225 (-18), .fin true 208 (-18)] 26 .fp32).v = 0x44800001 := by decide +kernel

/-- R166: a group of the INT8 replay, in its first and in its second pass. -/
theorem test_int8_group :
    (int8Acc {} true true (List.replicate 15 0x80 ++ [127]) (List.replicate 15 0x80 ++ [127])).1.bits = 261889 ∧
    (int8Acc { pre := 4 } true true (List.replicate 15 0x80 ++ [127]) (List.replicate 15 0x80 ++ [127])).1.bits = 16368 := by
  decide +kernel

/-- R182: the edge values of the integer lanes. -/
theorem test_integer_edges : ([(4, 32, 0, 0x7FFFFFFF, 1, 0, 0x80000000, 0), (5, 32, 0, 0x7FFFFFFF, 1, 0, 0x7FFFFFFF, 1), (5, 32, 0, 0x80000000, 0xFFFFFFFF, 0, 0x80000000, 1), (8, 32, 0, 0x80000000, 0, 0, 0x7FFFFFFF, 1),
     (9, 32, 0, 0x80000000, 0, 0, 0x7FFFFFFF, 1), (8, 16, 0, 0x8000, 0, 0, 0x7FFF, 1), (16, 32, 1, 0x40000000, 0, 0, 0x7FFFFFFF, 1), (16, 32, 1, 0xC0000000, 0, 0, 0x80000000, 0),
     (18, 32, 1, 5, 0, 0, 2, 0), (18, 32, 1, 0xFFFFFFFD, 0, 0, 0xFFFFFFFE, 0), (18, 32, 1, 0x7FFFFFFF, 0, 0, 0x40000000, 0), (17, 32, 1, 0xFFFFFFFD, 0, 0, 0xFFFFFFFE, 0),
     (19, 32, 31, 0x80000000, 0x80000000, 0, 0x7FFFFFFF, 1), (19, 32, 31, 0x40000000, 1, 0, 0, 0), (19, 32, 31, 0x40000000, 3, 0, 2, 0), (19, 32, 31, 0x40000000, 0xFFFFFFFF, 0, 0, 0),
     (19, 16, 15, 0x8000, 0x8000, 0, 0x7FFF, 1), (19, 16, 15, 0x7FFF, 0x7FFF, 0, 0x7FFE, 0), (20, 32, 31, 0x40000000, 0x40000000, 0x7FFFFFFF, 0x7FFFFFFF, 1), (21, 32, 0, 1, 0, 0, 0x7FFFFFFF, 1),
     (21, 32, 0, 0xFFFFFFFF, 0, 0, 0x80000000, 0), (21, 32, 0, 0, 0, 0, 0x7FFFFFFF, 1), (21, 32, 0, 3, 0, 0, 0x2AAAAAAB, 0)] : List (Nat × Nat × Nat × Nat × Nat × Nat × Nat × Nat)).all
    (fun r => let x := intLane r.1 r.2.1 r.2.2.1 r.2.2.2.1 r.2.2.2.2.1 r.2.2.2.2.2.1
              x.v == r.2.2.2.2.2.2.1 && x.c.sat == r.2.2.2.2.2.2.2) = true := by decide +kernel

/-- R252: the table example, from step 1 to step 202: a saturated block, a high one, and the last of 200 quiet steps. -/
theorem test_scale_table :
    updateEntry 0x648800C8EC true true { t := -7, run := 0 } = { t := -6, run := 0 } ∧
    updateEntry 0x648800C8EC false true { t := -6, run := 0 } = { t := -6, run := 0 } ∧
    updateEntry 0x648800C8EC false false { t := -6, run := 199 } = { t := -7, run := 0 } := by decide +kernel

/-- R249: the Ratchet's table of moves. -/
theorem test_ratchet : (ratchetMove 0x7D018000F true 15 7).1 = 14 ∧ (ratchetMove 0x7D018000F true 0 7).1 = 0 ∧
    (ratchetMove 0x7D018000F false 15 1999).1 = 16 ∧ (ratchetMove 0x7D018000F false 24 1999).1 = 24 := by decide +kernel

/-- The CRC and the digest of their standards' own test strings (log 33). -/
theorem test_standards : crc32 [0x31, 0x32, 0x33, 0x34, 0x35, 0x36, 0x37, 0x38, 0x39] = 0xCBF43926 ∧
    ofBe (sm3 [0x61, 0x62, 0x63]) = 0x66C7F0F462EEEDD9D1F2D46BDC10E4E24167C4875CF2F7A2297DA02B8F4BA8E0 := by decide +kernel

/-! ## An ill-formed command for each check of WellFormed -/

theorem wf_okTile : wellFormed (.halt 1048576) = false ∧ wellFormed (.halt 1048575) = true := by decide
theorem wf_okRegion : wellFormed (.pllUnlock 256) = false ∧ wellFormed (.pllUnlock 255) = true := by decide
theorem wf_okPort : wellFormed (.linkDown 39) = false ∧ wellFormed (.linkDown 38) = true := by decide
theorem wf_okInPort : wellFormed (.fabricPacketRoute 40 zpk) = false ∧ wellFormed (.fabricPacketRoute 63 zpk) = true := by decide
theorem wf_okChan : wellFormed (.tgGo 1536) = false ∧ wellFormed (.tgGo 1535) = true := by decide
theorem wf_okStack : wellFormed (.thermDeferExpire 12) = false ∧ wellFormed (.thermDeferExpire 11) = true := by decide
theorem wf_okQueue : wellFormed (.unblock 8192) = false ∧ wellFormed (.unblock 8191) = true := by decide
theorem wf_okSlot : wellFormed (.launchComplete 96) = false ∧ wellFormed (.launchComplete 95) = true := by decide
theorem wf_okRack : wellFormed (.ident 1 2 3 257 5) = false ∧ wellFormed (.ident 1 2 3 256 5) = true := by decide
theorem wf_okRackSlot : wellFormed (.slewAcknowledgement 32 true) = false ∧ wellFormed (.slewAcknowledgement 31 true) = true := by decide
theorem wf_okGroup : wellFormed (.factorisationStart 0 128) = false ∧ wellFormed (.factorisationStart 0 127) = true := by decide
theorem wf_okWorld : wellFormed (.adjoint 0 128 [] [] 0) = false ∧ wellFormed (.adjoint 0 127 [] [] 0) = true := by decide
theorem wf_okSet : wellFormed (.counterSetBind 0 4 0) = false ∧ wellFormed (.counterSetBind 0 3 0) = true := by decide
theorem wf_okOpTag : wellFormed (.counterSetBind 0 3 65536) = false ∧ wellFormed (.counterSetBind 0 3 65535) = true := by decide
theorem wf_okTxnTag : wellFormed (.txnTimeout 131072) = false ∧ wellFormed (.txnTimeout 131071) = true := by decide
theorem wf_okEngineNo : wellFormed (.hangDeclared 96) = false ∧ wellFormed (.hangDeclared 0x80F) = true := by decide
theorem wf_okCopyEngine : wellFormed (.copy 16) = false ∧ wellFormed (.copy 15) = true := by decide
theorem wf_okCollChannel : wellFormed (.shardGather 64) = false ∧ wellFormed (.shardGather 63) = true := by decide
theorem wf_okCmdIndex : wellFormed (.fence 0 0x100000000) = false ∧ wellFormed (.fence 0 0xFFFFFFFF) = true := by decide
theorem wf_okContext : wellFormed (.stepRecordWrite 256) = false ∧ wellFormed (.stepRecordWrite 255) = true := by decide
theorem wf_okLayer : wellFormed (.reduceScatterConvert 0 240) = false ∧ wellFormed (.reduceScatterConvert 0 239) = true := by decide
theorem wf_okFlag : wellFormed (.flagOperation .edge 0x100000 .read) = false ∧ wellFormed (.flagOperation .edge 0xFFFFF .read) = true := by
  decide
theorem wf_okLsWord : wellFormed (.lsEccWriteback 0 6144) = false ∧ wellFormed (.lsEccWriteback 0 6143) = true := by decide
theorem wf_okModule : wellFormed (.haltMarker 16384 1 0) = false ∧ wellFormed (.haltMarker 16383 1 0) = true := by decide
theorem wf_okRank : wellFormed (.commitStop 23 8224 0) = false ∧ wellFormed (.commitStop 23 8223 0) = true := by decide
theorem wf_okLane : wellFormed (.prbsPatternReceive 0 8 [true]) = false ∧ wellFormed (.prbsPatternReceive 0 7 [true]) = true := by decide
theorem wf_okVc : wellFormed (.drainMarker 0 6) = false ∧ wellFormed (.drainMarker 0 5) = true := by decide
theorem wf_okSeq : wellFormed (.nak 0 4096) = false ∧ wellFormed (.nak 0 4095) = true := by decide
theorem wf_okRail : wellFormed (.powerRail 0x100000 0) = false ∧ wellFormed (.powerRail 0xFFFFF 0) = true := by decide
theorem wf_okLine : wellFormed (.memLineRequest { src := .edge, addr := 65, op := .read, cls := 0 }) = false ∧
    wellFormed (.memLineRequest { src := .edge, addr := 0xD800000000, op := .read, cls := 0 }) = false := by decide
theorem wf_okChanLine : wellFormed (.wcbIdleEvict 0 9437184) = false ∧ wellFormed (.wcbIdleEvict 0 9437183) = true := by decide
theorem wf_okBar0 : wellFormed (.registerWrite .bar0 0x10000000 0) = false ∧ wellFormed (.registerWrite .bar0 0xFFFFFF8 0) = true := by decide
theorem wf_okWindow : okWindow 0x100000000 = false ∧ wellFormed (.windowAccess true 0x100000000 8 []) = false := by decide
theorem wf_okAccess : wellFormed (.windowAccess true 0xFFFFFFF8 9 []) = false ∧ wellFormed (.windowAccess true 0xFFFFFFF8 8 []) = true := by
  decide
theorem wf_meshPkt : wellFormed (.packetDeposit { mp with lsAddr := 4096 } false) = false ∧
    wellFormed (.packetDeposit mp false) = true := by decide
theorem wf_frac : wellFormed (.hsExchangeRequest ⟨0, 16⟩) = false ∧ wellFormed (.hsExchangeRequest ⟨0, 15⟩) = true := by decide
theorem wf_fabPkt : wellFormed (.read { zpk with cls := 4 }) = false ∧ wellFormed (.read zpk) = true := by decide
theorem wf_inPort : wellFormed (.read { zpk with inPort := 39 }) = false ∧ wellFormed (.read { zpk with inPort := 38 }) = true := by decide
theorem wf_answer : wellFormed (.answerLanding { mp with op := 3 }) = false ∧ wellFormed (.answerLanding { mp with op := 2 }) = true := by
  decide
theorem wf_lineReq : wellFormed (.memLineRequest { src := .edge, addr := 64, op := .read, cls := 4 }) = false := by decide
theorem wf_cell : wellFormed (.linkCellReceive 0 (List.replicate 79 0) []) = false ∧
    wellFormed (.linkCellReceive 0 (List.replicate 80 0) []) = true ∧ wellFormed (.linkCellReceive 0 (List.replicate 80 0) [545]) = false := by
  decide
theorem wf_nanNotice : wellFormed (.nanNotice { beat := 0, tile := 0, cw := 256, bank := 0, tag := 0 }) = false := by decide
/-- The hypothesis of CellsCarryThePacket holds of a packet whose fields all stand at the ends of their ranges, and of an empty one. -/
theorem witness_CellsCarryThePacket :
    HeaderFits { zpk with
      op := .reserved 15, cls := 3, dest := 16383, src := 16383, srcTile := 1048575, srcEngine := true, tag := 131071, trigger := 15,
      aop := 15, aw := 3, rfmt := 3, hops := 3, circuit := 255, beat := 16777215, payload := List.replicate 31 0xFFFF } ∧
    HeaderFits zpk := by
  constructor <;> (unfold HeaderFits; decide)

end Sys2Proof.Tests
end

section
/-! Frames of the host-link commands. A command's meaning is a chain of named updates, so its frame is built from one rule per update: what
the update changes joins the parts that the chain has changed so far. -/

namespace Sys2Proof.Machine

variable {s t : State} {l : List Piece}

theorem Piece.same_refl (p : Piece) (s : State) : p.same s s := by
  cases p <;> simp [Piece.same]

theorem Piece.same_trans {p : Piece} {u : State} (h : p.same s t) (h' : p.same t u) : p.same s u := by
  cases p <;> simp_all [Piece.same]

theorem Frame.refl (hc : Clean s) : Frame l s s := ⟨rfl, hc, fun p _ => p.same_refl s⟩

/-- An update that changes neither the queue of commands nor a waiting write extends a frame by the parts that it changes. -/
theorem Frame.extend {u : State} (h : Frame l s t) (hq : u.pending = t.pending)
    (hw : u.lsLog = t.lsLog ∧ u.memLog = t.memLog ∧ u.lsWipe = t.lsWipe ∧ u.memWipe = t.memWipe)
    (hu : ∀ p, p ∉ l → p.same t u) : Frame l s u := by
  obtain ⟨hp, hc, hs⟩ := h
  obtain ⟨w1, w2, w3, w4⟩ := hw
  exact ⟨hq.trans hp, by rwa [Clean, w1, w2, w3, w4], fun p hp => Piece.same_trans (hs p hp) (hu p hp)⟩

/-- A command whose meaning ends with a state in the frame does what that state differs in. -/
theorem Does.of_frame {c : Instr} {post : State → Prop} (he : exec c s = done s t) (hf : Frame l s t) (hp : post (endOf s t)) :
    Does c s l post :=
  Does.of_done he hf.2.1 hp fun p hp _ _ => hf.2.2 p hp

/-- A command whose meaning leaves the state as it is changes nothing. -/
theorem Does.of_idle {c : Instr} (hc : Clean s) (he : exec c s = done s s) : Does c s l fun _ => True :=
  Does.of_frame he (Frame.refl hc) trivial

/-! ## The rule of each update -/

/-- The parts of the host link that a frame names apart are the same in both. -/
def HostIf.SameNamed (h h' : HostIf) : Prop :=
  h'.flags = h.flags ∧ h'.flagMarks = h.flagMarks ∧ h'.queues = h.queues ∧ h'.held = h.held ∧ h'.out = h.out ∧
  h'.tags = h.tags ∧ h'.landed = h.landed

theorem Piece.same_updHost {p : Piece} {f : HostIf → HostIf} (hn : HostIf.SameNamed s.host (f s.host)) (hp : p ≠ .host) :
    p.same s (s.updHost f) := by
  obtain ⟨h1, h2, h3, h4, h5, h6, h7⟩ := hn
  cases p
  case host => exact absurd rfl hp
  case flags => exact ⟨h1, h2⟩
  case queues => exact ⟨h3, h4, h5, h6⟩
  case landed => exact h7
  all_goals simp [Piece.same]

theorem Frame.updHost {f : HostIf → HostIf} (h : Frame l s t) (hl : .host ∈ l) (hn : HostIf.SameNamed t.host (f t.host)) :
    Frame l s (t.updHost f) :=
  h.extend rfl ⟨rfl, rfl, rfl, rfl⟩ fun _ hp => Piece.same_updHost hn fun e => hp (e ▸ hl)

theorem Frame.hostBit (h : Frame l s t) (hl : .host ∈ l) (i : Nat) : Frame l s (t.hostBit i) :=
  h.updHost hl ⟨rfl, rfl, rfl, rfl, rfl, rfl, rfl⟩

theorem Frame.readOut (h : Frame l s t) (hl : .host ∈ l) (r : ReadOut) : Frame l s (t.readOut r) :=
  h.updHost hl ⟨rfl, rfl, rfl, rfl, rfl, rfl, rfl⟩

theorem Frame.returns (h : Frame l s t) (hl : .host ∈ l) (p : Path) (o : Nat) (v : W64) : Frame l s (t.returns p o v) :=
  h.updHost hl ⟨rfl, rfl, rfl, rfl, rfl, rfl, rfl⟩

theorem Frame.free (h : Frame l s t) (hl : .freeCtr ∈ l) : Frame l s t.free.2 := by
  refine h.extend rfl ⟨rfl, rfl, rfl, rfl⟩ fun p hp => ?_
  cases p
  case freeCtr => exact absurd hl hp
  all_goals simp only [Piece.same, State.free, State.tile, and_self, implies_true]

theorem Frame.updEsc (h : Frame l s t) (hl : .esc ∈ l) (f : Esc → Esc) : Frame l s (t.updEsc f) := by
  refine h.extend rfl ⟨rfl, rfl, rfl, rfl⟩ fun p hp => ?_
  cases p
  case esc => exact absurd hl hp
  all_goals simp [Piece.same]

/-- The state with the CW_LD registers replaced. -/
def State.setCwld (s : State) (c : CwLd) : State := { s with cwld := c }

theorem Frame.setCwld (h : Frame l s t) (hl : .cwld ∈ l) (c : CwLd) : Frame l s (t.setCwld c) := by
  refine h.extend rfl ⟨rfl, rfl, rfl, rfl⟩ fun p hp => ?_
  cases p
  case cwld => exact absurd hl hp
  all_goals simp only [Piece.same, State.setCwld, State.tile, and_self, implies_true]

/-- The state in which a register write has joined those that wait for the boundary. -/
def State.addLanded (s : State) (w : Landed) : State := s.updHost fun h => { h with landed := h.landed ++ [w] }

theorem Frame.addLanded (h : Frame l s t) (hl : .landed ∈ l) (w : Landed) : Frame l s (t.addLanded w) := by
  refine h.extend rfl ⟨rfl, rfl, rfl, rfl⟩ fun p hp => ?_
  cases p
  case landed => exact absurd hl hp
  all_goals simp only [Piece.same, State.addLanded, State.updHost, State.tile, and_self, implies_true]

theorem Frame.hostWrite (h : Frame l s t) (hl : .queues ∈ l) (a : W64) (bs : List Byte) : Frame l s (t.hostWrite a bs) := by
  refine h.extend rfl ⟨rfl, rfl, rfl, rfl⟩ fun p hp => ?_
  cases p
  case queues => exact absurd hl hp
  all_goals simp only [Piece.same, State.hostWrite, State.tile, and_self, implies_true]

theorem Frame.writeMirror (h : Frame l s t) (hh : .host ∈ l) (hq : .queues ∈ l) : Frame l s t.writeMirror := by
  have hseq : Frame l s { t with host := { t.host with mirrorSeq := t.host.mirrorSeq + 1 } } :=
    h.updHost (f := fun h => { h with mirrorSeq := h.mirrorSeq + 1 }) hh ⟨rfl, rfl, rfl, rfl, rfl, rfl, rfl⟩
  exact ((hseq.hostWrite hq _ _).hostWrite hq _ _).hostWrite hq _ _

end Sys2Proof.Machine
end

section
/-! The host link and the registers (chapters 14, 17): what each of their commands does, case by case, and obligation O52 from these. -/

namespace Sys2Proof.Machine

variable {s : State}

/-! ## What each command runs -/

theorem exec_perst : exec .perst s = execPerst s := rfl
theorem exec_dmaHoldChange (m d : Bool) : exec (.dmaHoldChange m d) s = execDmaHoldChange m d s := rfl
theorem exec_bar0BadAccess : exec .bar0BadAccess s = execBar0BadAccess s := rfl
theorem exec_barReadTimeout : exec .barReadTimeout s = execBarReadTimeout s := rfl
theorem exec_registerWrite (p : Path) (o : Nat) (v : W64) : exec (.registerWrite p o v) s = execRegisterWrite p o v s := rfl
theorem exec_rcFieldRead (p : Path) (o : Nat) : exec (.rcFieldRead p o) s = execRcFieldRead p o s := rfl
theorem exec_windowAccess (w : Bool) (o n : Nat) (data : List Byte) :
    exec (.windowAccess w o n data) s = execWindowAccess w o n data s := rfl
theorem exec_statusMirrorWrite : exec .statusMirrorWrite s = execStatusMirrorWrite s := rfl
theorem exec_smbusBlockWrite (data : List Byte) : exec (.smbusBlockWrite data) s = execSmbusBlockWrite data s := rfl
theorem exec_smbusBlockRead (data : List Byte) : exec (.smbusBlockRead data) s = execSmbusBlockRead data s := rfl

/-! ## The link -/

theorem hostUp_of_link (hl : s.host.link ≠ .detectQuiet) : s.hostUp = true := by simp [State.hostUp, hl]

theorem hostUp_of_quiet (hl : s.host.link = .detectQuiet) : s.hostUp = false := by simp [State.hostUp, hl]

theorem setDma_frame (hc : Clean s) (busMaster d0 : Bool) : Frame [.host] s (s.setDma busMaster d0) :=
  (Frame.refl hc).updHost (by simp) ⟨rfl, rfl, rfl, rfl, rfl, rfl, rfl⟩

/-- In Detect.Quiet no command of the host reaches the module (R553). -/
theorem host_idle_in_quiet (hc : Clean s) (hl : s.host.link = .detectQuiet) (o : Nat) (v : W64) (busMaster d0 : Bool)
    (data : List Byte) : ∀ c ∈ [Instr.perst, .dmaHoldChange busMaster d0, .bar0BadAccess, .barReadTimeout,
      .registerWrite .bar0 o v, .rcFieldRead .bar0 o, .windowAccess true o data.length data, .windowAccess false o 8 []],
      Does c s [] fun _ => True := by
  have hu := hostUp_of_quiet hl
  intro c hm
  simp only [List.mem_cons, List.not_mem_nil, or_false] at hm
  refine Does.of_idle hc ?_
  rcases hm with rfl | rfl | rfl | rfl | rfl | rfl | rfl | rfl
  · simp [exec_perst, execPerst, hu]
  · simp [exec_dmaHoldChange, execDmaHoldChange, hu]
  · simp [exec_bar0BadAccess, execBar0BadAccess, hu]
  · simp [exec_barReadTimeout, execBarReadTimeout, hu]
  · simp [exec_registerWrite, execRegisterWrite, State.pathReach, hu]
  · simp [exec_rcFieldRead, execRcFieldRead, State.pathReach, hu]
  · simp [exec_windowAccess, execWindowAccess, hu]
  · simp [exec_windowAccess, execWindowAccess, hu]

/-- Bus Master Enable and the D state change over a link that has left Detect.Quiet (R441). -/
theorem does_dmaHoldChange (hc : Clean s) (hl : s.host.link ≠ .detectQuiet) (busMaster d0 : Bool) :
    Does (.dmaHoldChange busMaster d0) s [.host] fun t => t.host = { s.host with
      busMaster := busMaster, d0 := d0, link := if d0 then .l0 else .l1
      dmaDue := s.host.dmaDue || (!(s.host.busMaster && s.host.d0) && busMaster && d0) } :=
  Does.of_frame (by simp [exec_dmaHoldChange, execDmaHoldChange, hostUp_of_link hl]) (setDma_frame hc busMaster d0) rfl

/-- PERST clears Bus Master Enable, so that no held record falls due (R13). -/
theorem does_perst (hc : Clean s) (hl : s.host.link ≠ .detectQuiet) :
    Does .perst s [.host] fun t => t.host = { s.host with busMaster := false, d0 := true, link := .l0 } := by
  refine Does.of_frame (t := s.setDma false true) (by simp [exec_perst, execPerst, hostUp_of_link hl]) (setDma_frame hc _ _) ?_
  simp [State.setDma, State.updHost]

/-! ## Failed accesses -/

theorem badRead_frame (hc : Clean s) (o : Nat) : Frame [.host] s (s.badRead o) :=
  ((Frame.refl hc).hostBit (by simp) 2).readOut (by simp) _

theorem does_bar0BadAccess (hc : Clean s) (hl : s.host.link ≠ .detectQuiet) :
    Does .bar0BadAccess s [.host, .freeCtr] fun t =>
      t.host = { s.host with status := setBit s.host.status 2 true, reads := t.host.reads } ∧
      (t.host.reads = s.host.reads ∨ ∃ r, t.host.reads = s.host.reads ++ [r] ∧ r.path = .bar0 ∧ r.unsupported = true) := by
  have hu := hostUp_of_link hl
  have hf : Frame [.host, .freeCtr] s (s.free.2.hostBit 2) := ((Frame.refl hc).free (by simp)).hostBit (by simp) 2
  by_cases hr : bitOf s.free.1 63 = true
  · exact Does.of_frame (t := s.free.2.badRead (fld s.free.1 0 28)) (by simp [exec_bar0BadAccess, execBar0BadAccess, hu, hr])
      (hf.readOut (by simp) _) ⟨rfl, .inr ⟨_, rfl, rfl, rfl⟩⟩
  · exact Does.of_frame (t := s.free.2.hostBit 2) (by simp [exec_bar0BadAccess, execBar0BadAccess, hu, hr]) hf ⟨rfl, .inl rfl⟩

theorem does_barReadTimeout (hc : Clean s) (hl : s.host.link ≠ .detectQuiet) :
    Does .barReadTimeout s [.host, .freeCtr] fun t =>
      t.host = { s.host with status := setBit s.host.status 1 true, reads := t.host.reads } ∧
      ∃ r, t.host.reads = s.host.reads ++ [r] ∧ (r.path = .bar0 ∨ r.path = .window) ∧ r.value = BitVec.allOnes 64 := by
  have he : ∃ r : ReadOut, (r.path = .bar0 ∨ r.path = .window) ∧ r.value = BitVec.allOnes 64 ∧
      exec .barReadTimeout s = done s ((s.free.2.hostBit 1).readOut r) := by
    refine ⟨_, ?_, ?_, by rw [exec_barReadTimeout, execBarReadTimeout, if_pos (hostUp_of_link hl)]⟩
    · by_cases hw : bitOf s.free.1 63 = true <;> simp [hw]
    · rfl
  obtain ⟨r, hp, hv, he⟩ := he
  exact Does.of_frame he ((((Frame.refl hc).free (by simp)).hostBit (by simp) 1).readOut (by simp) r) ⟨rfl, r, rfl, hp, hv⟩

/-- A BAR0 read that is not aligned completes as an Unsupported Request (R442). -/
theorem does_rcFieldRead_unaligned (hc : Clean s) (hl : s.host.link ≠ .detectQuiet) {o : Nat} (ho : o % 8 ≠ 0) :
    Does (.rcFieldRead .bar0 o) s [.host] fun t =>
      t.host = { s.host with status := setBit s.host.status 2 true, reads := t.host.reads } ∧
      ∃ r, t.host.reads = s.host.reads ++ [r] ∧ r.path = .bar0 ∧ r.offset = o ∧ r.unsupported = true :=
  Does.of_frame (by simp [exec_rcFieldRead, execRcFieldRead, hostUp_of_link hl, ho]) (badRead_frame hc o) ⟨rfl, _, rfl, rfl, rfl, rfl⟩

/-- A BAR0 write that is not aligned is dropped (R442). -/
theorem does_registerWrite_unaligned (hc : Clean s) (hl : s.host.link ≠ .detectQuiet) {o : Nat} (ho : o % 8 ≠ 0) (v : W64) :
    Does (.registerWrite .bar0 o v) s [.host] fun t => t.host = { s.host with status := setBit s.host.status 2 true } :=
  Does.of_frame (by simp [exec_registerWrite, execRegisterWrite, hostUp_of_link hl, ho]) ((Frame.refl hc).hostBit (by simp) 2) rfl

/-! ## Register writes: landing -/

theorem exec_registerWrite_bar0 (hl : s.host.link ≠ .detectQuiet) {o : Nat} (ho : o % 8 = 0) (hr : o < Config.bar0Bytes) (v : W64) :
    exec (.registerWrite .bar0 o v) s = done s (s.land .bar0 o v) := by
  simp [exec_registerWrite, execRegisterWrite, State.pathReach, hostUp_of_link hl, ho, hr]

/-- While beats are counted a write lands and waits for the boundary (R280). -/
theorem land_of_synced (hs : s.synced = true) (p : Path) {o : Nat} (ho : o ≠ 0x20028) (v : W64) :
    s.land p o v = s.addLanded { path := p, offset := o, value := v } := by
  simp [State.land, State.addLanded, ho, hs]

/-- While no beats are counted a write acts as it lands (R280). -/
theorem land_of_not_synced (hs : s.synced = false) (p : Path) {o : Nat} (ho : o ≠ 0x20028) (v : W64) :
    s.land p o v = s.writeReg o v := by
  simp [State.land, State.actLanded, ho, hs]

/-- What lands when GO or READ is written to CW_LD_CTRL: the write, with TARGET and DATA latched (R117). -/
def State.cwLdLanded (s : State) (p : Path) (v : W64) : Landed :=
  { path := p, offset := 0x20028, value := v, target := s.cwLatched.target
    data := [s.cwLatched.data0, s.cwLatched.data1, s.cwLatched.data2, s.cwLatched.data3] }

/-- A result enters RESULT of CW_LD_STATUS and leaves every other CW_LD register (R116). The new status stays a name of its own, so that
no comparison of states computes its bits. -/
theorem cwResult_eq (s : State) (r : Nat) :
    ∃ st : W64, fld st 0 3 = r % 2 ^ 3 ∧ s.cwResult r = s.setCwld { s.cwld with status := st } :=
  ⟨_, by rw [fld_setFld_ne _ _ _ _ _ _ (by omega) (by omega), fld_setFld _ _ _ _ (by omega)], rfl⟩

/-- While beats are counted, a write of GO or READ sets PENDING and lands with TARGET and DATA as they then stand (R117). -/
theorem land_cwLd_of_synced (hs : s.synced = true) (p : Path) {v : W64} (hv : bitOf v 0 = true ∨ bitOf v 2 = true)
    (hb : fld s.cwld.status 0 3 ≠ 1) :
    ∃ st : W64, fld st 0 3 = 1 ∧
      s.land p 0x20028 v = (s.setCwld { s.cwld with status := st }).addLanded (s.cwLdLanded p v) := by
  obtain ⟨st, hst, he⟩ := cwResult_eq s 1
  have hg : ¬ ((!(bitOf v 0 || bitOf v 2)) = true ∨ fld s.cwld.status 0 3 = 1) := by
    rcases hv with h | h <;> simp [h, hb]
  have hs' : (s.setCwld { s.cwld with status := st }).synced = true := hs
  exact ⟨st, hst, by simp only [State.land, if_true, if_neg hg, he, hs', State.addLanded, State.cwLdLanded]⟩

/-- While an access is pending a write of CW_LD_CTRL has no effect (R116). -/
theorem land_cwLd_of_pending (hb : fld s.cwld.status 0 3 = 1) (p : Path) (v : W64) : s.land p 0x20028 v = s := by
  simp [State.land, hb]

theorem does_land_of_synced {c : Instr} {p : Path} {o : Nat} {v : W64} (hc : Clean s) (hs : s.synced = true) (ho : o ≠ 0x20028)
    (he : exec c s = done s (s.land p o v)) :
    Does c s [.landed] fun t =>
      t.host = { s.host with landed := s.host.landed ++ [{ path := p, offset := o, value := v }] } :=
  Does.of_frame (he.trans (by rw [land_of_synced hs p ho])) ((Frame.refl hc).addLanded (by simp) _) rfl

theorem does_registerWrite_cwLd (hc : Clean s) (hl : s.host.link ≠ .detectQuiet) {v : W64}
    (hv : bitOf v 0 = true ∨ bitOf v 2 = true) (hb : fld s.cwld.status 0 3 ≠ 1) (hs : s.synced = true) :
    Does (.registerWrite .bar0 0x20028 v) s [.landed, .cwld] fun t =>
      t.host.landed = s.host.landed ++ [s.cwLdLanded .bar0 v] ∧
      t.cwld = { s.cwld with status := t.cwld.status } ∧ fld t.cwld.status 0 3 = 1 := by
  have he := exec_registerWrite_bar0 hl (o := 0x20028) (by decide) (by decide) v
  obtain ⟨st, hst, hland⟩ := land_cwLd_of_synced hs .bar0 hv hb
  rw [hland] at he
  exact Does.of_frame he (((Frame.refl hc).setCwld (by simp) _).addLanded (by simp) _) ⟨rfl, rfl, hst⟩

theorem does_registerWrite_cwLd_pending (hc : Clean s) (hl : s.host.link ≠ .detectQuiet) (hb : fld s.cwld.status 0 3 = 1) (v : W64) :
    Does (.registerWrite .bar0 0x20028 v) s [] fun _ => True :=
  Does.of_idle hc (by rw [exec_registerWrite_bar0 hl (by decide) (by decide), land_cwLd_of_pending hb])

theorem writeReg_cwLdData0 (v : W64) : s.writeReg 0x20008 v = s.setCwld { s.cwld with data0 := v } := rfl

/-- DATA0 of CW_LD takes its value at once while no beats are counted. -/
theorem does_registerWrite_cwLdData0 (hc : Clean s) (hl : s.host.link ≠ .detectQuiet) (hs : s.synced = false) (v : W64) :
    Does (.registerWrite .bar0 0x20008 v) s [.cwld] fun t => t.cwld = { s.cwld with data0 := v } :=
  Does.of_frame
    (by rw [exec_registerWrite_bar0 hl (by decide) (by decide), land_of_not_synced hs .bar0 (by decide), writeReg_cwLdData0])
    ((Frame.refl hc).setCwld (by simp) _) rfl

/-- ESC_PERIOD_ANCHOR is locked outside JOINING (R294). -/
theorem writeReg_anchor (v : W64) :
    s.writeReg 0x50040 v = if s.outside then s.escLocked else s.updEsc fun e => { e with anchor := v } := rfl

theorem does_registerWrite_anchor (hc : Clean s) (hl : s.host.link ≠ .detectQuiet) (hs : s.synced = false) (v : W64) :
    Does (.registerWrite .bar0 0x50040 v) s [.esc] fun t =>
      t.esc = if s.outside then { s.esc with status := setBit s.esc.status 7 true } else { s.esc with anchor := v } := by
  have he := exec_registerWrite_bar0 hl (o := 0x50040) (by decide) (by decide) v
  rw [land_of_not_synced hs .bar0 (by decide), writeReg_anchor] at he
  by_cases ho : s.outside = true
  · rw [if_pos ho] at he
    exact Does.of_frame he ((Frame.refl hc).updEsc (by simp) _) (by rw [if_pos ho]; rfl)
  · rw [if_neg ho] at he
    exact Does.of_frame he ((Frame.refl hc).updEsc (by simp) _) (by rw [if_neg ho]; rfl)

/-! ## Register reads -/

theorem exec_rcFieldRead_bar0 (hl : s.host.link ≠ .detectQuiet) {o : Nat} (ho : o % 8 = 0) (hr : o < Config.bar0Bytes) :
    exec (.rcFieldRead .bar0 o) s = done s (s.readReg .bar0 o) := by
  simp [exec_rcFieldRead, execRcFieldRead, State.pathReach, hostUp_of_link hl, ho, hr]

/-- A read over the debug ring or the sideband clears nothing (R532). -/
theorem readReg_keeps_rc {p : Path} (hp : p ≠ .bar0 ∧ p ≠ .window) {o : Nat} (hd : o ≠ 0x240048) (hn : o ≠ 0x50008) :
    s.readReg p o = s.returns p o (s.reg3 o) := by
  simp [State.readReg, hd, hn, hp]

theorem returns_reads (p : Path) (o : Nat) (v : W64) :
    (s.returns p o v).host.reads = s.host.reads ++ [{ path := p, offset := o, value := v }] := rfl

theorem does_read_keeps_rc {c : Instr} {p : Path} {o : Nat} (hc : Clean s) (hp : p ≠ .bar0 ∧ p ≠ .window) (hd : o ≠ 0x240048)
    (hn : o ≠ 0x50008) (he : exec c s = done s (s.readReg p o)) :
    Does c s [.host] fun t => t.host.reads = s.host.reads ++ [{ path := p, offset := o, value := s.reg3 o }] :=
  Does.of_frame (he.trans (by rw [readReg_keeps_rc hp hd hn])) ((Frame.refl hc).returns (by simp) _ _ _) (returns_reads _ _ _)

/-- A BAR0 read of ESC_LATE_STATS clears it. -/
theorem readReg_lateStats :
    s.readReg .bar0 0x50070 = (s.returns .bar0 0x50070 (s.reg3 0x50070)).updEsc fun e => { e with lateStats := 0 } := rfl

/-- ESC_BEAT has no RC field: a BAR0 read of it clears nothing. -/
theorem readReg_beat : s.readReg .bar0 0x50000 = s.returns .bar0 0x50000 (s.reg3 0x50000) := rfl

theorem reg3_beat : s.reg3 0x50000 = s.esc.beat := rfl

theorem does_rcFieldRead_lateStats (hc : Clean s) (hl : s.host.link ≠ .detectQuiet) :
    Does (.rcFieldRead .bar0 0x50070) s [.host, .esc] fun t =>
      t.host.reads = s.host.reads ++ [{ path := .bar0, offset := 0x50070, value := s.reg3 0x50070 }] ∧
      t.esc = { s.esc with lateStats := 0 } :=
  Does.of_frame (by rw [exec_rcFieldRead_bar0 hl (by decide) (by decide), readReg_lateStats])
    (((Frame.refl hc).returns (by simp) _ _ _).updEsc (by simp) _) ⟨rfl, rfl⟩

theorem does_rcFieldRead_beat (hc : Clean s) (hl : s.host.link ≠ .detectQuiet) :
    Does (.rcFieldRead .bar0 0x50000) s [.host] fun t =>
      t.host.reads = s.host.reads ++ [{ path := .bar0, offset := 0x50000, value := s.reg3 0x50000 }] ∧
      s.reg3 0x50000 = s.esc.beat :=
  Does.of_frame (by rw [exec_rcFieldRead_bar0 hl (by decide) (by decide), readReg_beat])
    ((Frame.refl hc).returns (by simp) _ _ _) ⟨returns_reads _ _ _, reg3_beat⟩

theorem does_rcFieldRead_ring_lateStats (hc : Clean s) :
    Does (.rcFieldRead .ring 0x50070) s [.host] fun t =>
      t.host.reads = s.host.reads ++ [{ path := .ring, offset := 0x50070, value := s.reg3 0x50070 }] :=
  does_read_keeps_rc hc (by decide) (by decide) (by decide) (by simp [exec_rcFieldRead, execRcFieldRead, State.pathReach, inRegMap])

/-! ## The window -/

/-- A write that R445 does not allow sets WIN_ERR and is dropped. -/
theorem does_windowWrite_of_not_ok (hc : Clean s) (hl : s.host.link ≠ .detectQuiet) {o : Nat} {data : List Byte}
    (hw : windowOk_ (fld s.host.winCfg 0 6) (fld s.host.winCfg 16 28 * 2 ^ 16 + o) data.length = false) :
    Does (.windowAccess true o data.length data) s [.host] fun t =>
      t.host = { s.host with status := setBit s.host.status 3 true } :=
  Does.of_frame (by simp only [exec_windowAccess, execWindowAccess, hostUp_of_link hl, hw, if_true, Bool.not_true, Bool.not_false, true_or,
    Bool.false_eq_true, if_false]) ((Frame.refl hc).hostBit (by simp) 3) rfl

theorem does_windowWrite_beyond_stacks (hc : Clean s) (hl : s.host.link ≠ .detectQuiet) {o : Nat} {data : List Byte}
    (hs : fld s.host.winCfg 0 6 = 0) (ho : 2 ^ 44 ≤ fld s.host.winCfg 16 28 * 2 ^ 16 + o) :
    Does (.windowAccess true o data.length data) s [.host] fun t =>
      t.host = { s.host with status := setBit s.host.status 3 true } := by
  refine does_windowWrite_of_not_ok hc hl ?_
  have hb : ¬ fld s.host.winCfg 16 28 * 2 ^ 16 + o + data.length ≤ Config.stackBytes := by
    simp only [Config.stackBytes]; omega
  rw [hs, windowOk_, decide_eq_false hb, Bool.and_false]

theorem does_windowWrite_flag_bad_length (hc : Clean s) (hl : s.host.link ≠ .detectQuiet) {o : Nat} {data : List Byte}
    (hs : fld s.host.winCfg 0 6 = 2) (hd : data.length ≠ 8) :
    Does (.windowAccess true o data.length data) s [.host] fun t =>
      t.host = { s.host with status := setBit s.host.status 3 true } :=
  does_windowWrite_of_not_ok hc hl (by simp [windowOk_, hs, hd])

/-- While beats are counted, a flag written through the window changes at the boundary (R445). -/
theorem does_windowWrite_flag (hc : Clean s) (hl : s.host.link ≠ .detectQuiet) {o : Nat} {data : List Byte}
    (hf : fld s.host.winCfg 0 6 = 2) (hb : fld s.host.winCfg 16 28 = 0) (hd : data.length = 8) (ho : o % 8 = 0) (hr : o < 0x800000)
    (hs : s.synced = true) :
    Does (.windowAccess true o 8 data) s [.host] fun t =>
      t.host = { s.host with winLanded := s.host.winLanded ++ [(o / 8, BitVec.ofNat 64 (ofLe data))] } := by
  have hw : windowOk_ 2 o 8 = true := by
    have : o + 8 ≤ Config.flagBytes := by simp only [Config.flagBytes]; omega
    simp [windowOk_, ho, this]
  have hbar : ¬ Config.bar2Bytes ≤ o := by simp only [Config.bar2Bytes]; omega
  refine Does.of_frame (t := s.updHost fun h => { h with winLanded := h.winLanded ++ [(o / 8, BitVec.ofNat 64 (ofLe data))] })
    ?_ ((Frame.refl hc).updHost (by simp) ⟨rfl, rfl, rfl, rfl, rfl, rfl, rfl⟩) rfl
  simp [exec_windowAccess, execWindowAccess, hostUp_of_link hl, hf, hb, hd, hw, hbar, State.windowWrite, hs]

/-! ## The status mirror -/

/-- A mirror counts SEQ up and takes three posted writes (R470). -/
theorem writeMirror_seq_out :
    s.writeMirror.host.mirrorSeq = s.host.mirrorSeq + 1 ∧ s.writeMirror.host.out.length = s.host.out.length + 3 := by
  simp [State.writeMirror, State.hostWrite]

theorem does_statusMirrorWrite (hc : Clean s) (he : bitOf s.host.mirrorCfg 16 = true) (hm : s.mirrorNow = true) (hs : s.synced = true)
    (hb : s.esc.beat.toNat % s.mirrorInterval = 0) :
    Does .statusMirrorWrite s [.host, .queues] fun t => t.host.mirrorSeq = s.host.mirrorSeq + 1 ∧
      t.host.out.length = s.host.out.length + 3 :=
  Does.of_frame (by rw [exec_statusMirrorWrite, execStatusMirrorWrite, if_pos ⟨he, hm, hs, hb⟩])
    ((Frame.refl hc).writeMirror (by simp) (by simp)) writeMirror_seq_out

/-! ## The sideband -/

theorem does_smbusBlockWrite_ckptCfg (hc : Clean s) {data : List Byte} {v : W64} (hd : data.length = 12)
    (ho : ofLe (data.take 4) = 0x230038) (hv : BitVec.ofNat 64 (ofLe (data.drop 4)) = v) (hs : s.synced = true) :
    Does (.smbusBlockWrite data) s [.landed] fun t =>
      t.host = { s.host with landed := s.host.landed ++ [{ path := .smbus, offset := 0x230038, value := v }] } :=
  does_land_of_synced hc hs (by decide) (by simp [exec_smbusBlockWrite, execSmbusBlockWrite, hd, ho, hv, smbusReach])

theorem does_smbusBlockWrite_bad_length (hc : Clean s) {data : List Byte} (hd : data.length ≠ 12) :
    Does (.smbusBlockWrite data) s [] fun _ => True :=
  Does.of_idle hc (by simp [exec_smbusBlockWrite, execSmbusBlockWrite, hd])

theorem does_smbusBlockRead_ckptCfg (hc : Clean s) {data : List Byte} (hd : data.length = 4)
    (ho : ofLe (data.take 4) = 0x230038) :
    Does (.smbusBlockRead data) s [.host] fun t =>
      t.host.reads = s.host.reads ++ [{ path := .smbus, offset := 0x230038, value := s.reg3 0x230038 }] :=
  does_read_keeps_rc hc (by decide) (by decide) (by decide) (by simp [exec_smbusBlockRead, execSmbusBlockRead, hd, ho, smbusReach])

theorem does_smbusBlockRead_bad_length (hc : Clean s) {data : List Byte} (hd : data.length ≠ 4) :
    Does (.smbusBlockRead data) s [] fun _ => True :=
  Does.of_idle hc (by simp [exec_smbusBlockRead, execSmbusBlockRead, hd])

/-- Settles O52: each clause is the lemma of its command's case. -/
theorem hostLinkAndRegisters : Obligations.HostLinkAndRegisters := by
  unfold Obligations.HostLinkAndRegisters
  intro s o v busMaster d0 data hc landed read
  refine ⟨fun hq => host_idle_in_quiet hc hq o v busMaster d0 data, fun hl => ⟨?dma, ?perst, ?badAccess, ?timeout, ?badRead, ?land,
    ?cwLd, ?cwLdPending, ?badWrite, ?data0, ?anchor, ?lateStats, ?beat, ?flag, ?beyond, ?badFlag⟩, does_statusMirrorWrite hc,
    does_rcFieldRead_ring_lateStats hc, does_smbusBlockWrite_ckptCfg hc, does_smbusBlockWrite_bad_length hc,
    does_smbusBlockRead_ckptCfg hc, does_smbusBlockRead_bad_length hc⟩
  case dma => exact does_dmaHoldChange hc hl busMaster d0
  case perst => exact does_perst hc hl
  case badAccess => exact does_bar0BadAccess hc hl
  case timeout => exact does_barReadTimeout hc hl
  case badRead => exact fun ho => does_rcFieldRead_unaligned hc hl ho
  case land => exact fun ho hr hn hs => does_land_of_synced hc hs hn (exec_registerWrite_bar0 hl ho hr v)
  case cwLd => exact does_registerWrite_cwLd hc hl
  case cwLdPending => exact fun hb => does_registerWrite_cwLd_pending hc hl hb v
  case badWrite => exact fun ho => does_registerWrite_unaligned hc hl ho v
  case data0 => exact fun hs => does_registerWrite_cwLdData0 hc hl hs v
  case anchor => exact fun hs => does_registerWrite_anchor hc hl hs v
  case lateStats => exact does_rcFieldRead_lateStats hc hl
  case beat => exact does_rcFieldRead_beat hc hl
  case flag => exact does_windowWrite_flag hc hl
  case beyond => exact does_windowWrite_beyond_stacks hc hl
  case badFlag => exact does_windowWrite_flag_bad_length hc hl

end Sys2Proof.Machine
end

section
/-! What a command leaves alone on its way: the queue and the bytes of both memories, which its end takes from the state before it, and, for
the mesh, the writes of the command in progress too. One lemma for each operation. -/

namespace Sys2Proof.Machine


variable (s : State)

/-- What the end of a command takes of the state before it: the queue, and the bytes of both memories. -/
def State.base (s : State) : List Instr × Memory × Memory := (s.pending, s.ls, s.mem.bytes)

/-- The writes that a command in progress has made so far. -/
def State.logs (s : State) : List Host.Cell × List Host.Cell × Bool × Bool := (s.lsLog, s.memLog, s.lsWipe, s.memWipe)

variable {s} in
/-- The end of a command looks at nothing else of the state before it. -/
theorem done_of_base {b : State} (h : b.base = s.base) (t : State) : done b t = done s t := by
  simp only [State.base, Prod.mk.injEq] at h
  simp only [done, endOf, h]

/-! ## Updates of one part -/

@[simp] theorem setTile_base (n : Nat) (x : Tile) : (s.setTile n x).base = s.base := rfl
@[simp] theorem updTile_base (n : Nat) (f : Tile → Tile) : (s.updTile n f).base = s.base := rfl
@[simp] theorem updSlot_base (k : Nat) (f : Slot → Slot) : (s.updSlot k f).base = s.base := rfl
@[simp] theorem updCtx_base (c : Nat) (f : Ctx → Ctx) : (s.updCtx c f).base = s.base := rfl
@[simp] theorem updChan_base (c : Nat) (f : Chan → Chan) : (s.updChan c f).base = s.base := rfl
@[simp] theorem updRas_base (f : Ras → Ras) : (s.updRas f).base = s.base := rfl
@[simp] theorem raise_base (f : FaultRec) : (s.raise f).base = s.base := rfl
@[simp] theorem fault_base (c : Cause) (u : FaultUnit) (i : Nat) (d : W64) : (s.fault c u i d).base = s.base := rfl
@[simp] theorem free_base : s.free.2.base = s.base := rfl
@[simp] theorem toSwitch_base (p : FabPkt) : (s.toSwitch p).base = s.base := rfl
@[simp] theorem consume_base (p : FabPkt) : (s.consume p).base = s.base := rfl
@[simp] theorem consumeControl_base (m k : Nat) : (s.consumeControl m k).base = s.base := rfl
@[simp] theorem answer_base (n tag : Nat) (data : List Flit) (e : Option DropCause) (lost : List Nat) :
    (s.answer n tag data e lost).base = s.base := rfl
@[simp] theorem replyFab_base (p : FabPkt) (data : List Flit) (e : Option DropCause) : (s.replyFab p data e).base = s.base :=
  toSwitch_base ..
@[simp] theorem putMem_base (a : Nat) (b : Byte) : (s.putMem a b).base = s.base := rfl

/-- The state with the fabric replaced. Its new value stays a name of its own, so that no comparison of states computes the bits of it. -/
def State.setFab (s : State) (f : Fab) : State := { s with fab := f }

@[simp] theorem setFab_base (f : Fab) : (s.setFab f).base = s.base := rfl

theorem redSat_eq (n : Nat) : s.redSat n = s.setFab { s.fab with stats0 := addFld s.fab.stats0 32 16 n } := rfl

@[simp] theorem redSat_base (n : Nat) : (s.redSat n).base = s.base := by rw [redSat_eq, setFab_base]

@[simp] theorem unfence_base (c a : Nat) : (s.unfence c a).base = s.base := rfl
@[simp] theorem verdictRegs_base (v : VerdictDown) (fl : Bool) : (s.verdictRegs v fl).base = s.base := rfl

variable {s} in
/-- A chain of updates keeps what each of them keeps. -/
theorem foldl_base {α : Type} {f : State → α → State} (hf : ∀ s a, (f s a).base = s.base) (l : List α) :
    (l.foldl f s).base = s.base := by
  induction l generalizing s with
  | nil => rfl
  | cons a l ih => rw [List.foldl_cons, ih, hf]

theorem toEdge_eq (p : FabPkt) (src : ReqSrc) : s.toEdge p src = s.setFab { s.fab with
    waiting := s.fab.waiting ++ [{ pkt := p, src := src, stalled := !s.tagFree }]
    stats0 := if s.tagFree then s.fab.stats0 else addFld s.fab.stats0 0 16 1 } := rfl

/-! ## Lane faults and NaN notices -/

@[simp] theorem latchLanes_base (n : Nat) : (s.latchLanes n).base = s.base := by
  unfold State.latchLanes
  dsimp only
  split
  · split
    · simp [State.base]
    · rfl
  · rfl

@[simp] theorem laneFault_base (n : Nat) (w : WordId) (mask causes : Nat) : (s.laneFault n w mask causes).base = s.base := by
  unfold State.laneFault
  dsimp only
  split
  · rfl
  · split
    · simp
    · split <;> simp

@[simp] theorem nanAt_base (n cw bank tag : Nat) : (s.nanAt n cw bank tag).base = s.base := by
  unfold State.nanAt; split <;> rfl

@[simp] theorem solvNan_base (k : Nat) : (s.solvNan k).base = s.base := by simp [State.solvNan]

@[simp] theorem solvCount_base (k : Nat) (c : Cnt) : (s.solvCount k c).base = s.base := by
  unfold State.solvCount; dsimp only; split <;> simp

@[simp] theorem onWorld_base (k : Nat) (l : Lath) (w : Nat) (f : SolvM Unit) : (s.onWorld k l w f).base = s.base := by
  simp only [State.onWorld]
  split
  simp only [solvCount_base, updSlot_base]
  rfl

@[simp] theorem onWorlds_base (k : Nat) (l : Lath) (ws : List Nat) (f : SolvM Unit) : (s.onWorlds k l ws f).base = s.base :=
  foldl_base (fun s w => onWorld_base s k l w f) ws

/-! ## The stacks -/

@[simp] theorem putMemBytes_base (a : Nat) (bs : List Byte) : (s.putMemBytes a bs).base = s.base := by
  induction bs generalizing s a with
  | nil => rfl
  | cons b bs ih => simp [State.putMemBytes, ih]

@[simp] theorem putLine_base (a : Nat) (v : Line) : (s.putLine a v).base = s.base := by simp [State.putLine]

@[simp] theorem mapMarks_base (a : Nat) (f : Nat → Mark → Mark) : (s.mapMarks a f).base = s.base :=
  foldl_base (f := fun s j =>
    { s with mem := { s.mem with marks := aset .good s.mem.marks (a / 8 + j) (f j (aget .good s.mem.marks (a / 8 + j))) } })
    (fun _ _ => rfl) _

@[simp] theorem setMark_base (a : Nat) (m : Mark) : (s.setMark a m).base = s.base := by simp [State.setMark]
@[simp] theorem cureLine_base (a : Nat) : (s.cureLine a).base = s.base := by simp [State.cureLine]
@[simp] theorem memBad_base (c a : Nat) : (s.memBad c a).base = s.base := by simp [State.memBad]
@[simp] theorem corrected_base (c a : Nat) : (s.corrected c a).base = s.base := by simp [State.corrected]

@[simp] theorem readLine_base (c a : Nat) (need : W64) : (s.readLine c a need).2.2.base = s.base := by
  unfold State.readLine
  split
  dsimp only
  split
  · rfl
  · split <;> simp

@[simp] theorem evictLine_base (c a : Nat) : (s.evictLine c a).base = s.base := by
  unfold State.evictLine
  split
  · rfl
  · dsimp only; split
    · simp
    · split <;> simp

@[simp] theorem partDone_base (p : FabPkt) (data : List Flit) (e : Option DropCause) : (s.partDone p data e).base = s.base := by
  unfold State.partDone
  split
  · simp
  · dsimp only; split
    · simp only [replyFab_base]; rfl
    · rfl

@[simp] theorem txnPart_base (tag : Nat) (data : Line) (e : Option DropCause) : (s.txnPart tag data e).base = s.base := by
  unfold State.txnPart
  split
  · rfl
  · dsimp only; split
    · rfl
    · split
      · rfl
      · split
        · rfl
        · split
          · simp only [laneFault_base]; rfl
          · rfl
        · rfl

@[simp] theorem reply_base (src : ReqSrc) (data : Line) (old : W64) (e : Option DropCause) : (s.reply src data old e).base = s.base := by
  unfold State.reply
  split
  · simp
  · split <;> simp
  · simp
  · simp
  · rfl

@[simp] theorem perform_base (c : Nat) (r : LineReq) : (s.perform c r).base = s.base := by
  unfold State.perform
  split
  · simp
  · split <;> simp
  · simp
  · simp
  · dsimp only; split <;> simp
  · dsimp only; split <;> simp

@[simp] theorem serve_base (c : Nat) (q : QReq) (starved : Bool) : (s.serve c q starved).base = s.base := by simp [State.serve]

@[simp] theorem arrive_base (r : LineReq) : (s.arrive r).base = s.base := by
  unfold State.arrive
  dsimp only
  split
  · simp
  · split
    · simp
    · split
      · rfl
      · rfl
      · simp
      · split
        · simp
        · split <;> simp
      · simp

@[simp] theorem turns_base (k c n : Nat) : (State.turns k s c n).base = s.base := by
  induction k generalizing s with
  | zero => rfl
  | succ k ih =>
    unfold State.turns
    split
    · rfl
    · split
      · rfl
      · simp [ih]

@[simp] theorem turnOf_base (c n : Nat) : (s.turnOf c n).base = s.base := turns_base s _ c n

@[simp] theorem serveTurn_base (c n : Nat) : (s.serveTurn c n).base = s.base := by
  unfold State.serveTurn
  split
  · rfl
  · dsimp only; split <;> simp

@[simp] theorem engineDo_base (r : LineReq) : (s.engineDo r).base = s.base := by simp [State.engineDo]

@[simp] theorem engineRead_base (a cls : Nat) (need : W64) : (s.engineRead a cls need).2.2.base = s.base := by
  unfold State.engineRead
  dsimp only
  split
  · rfl
  · split
    · rfl
    · simp

@[simp] theorem engineWrite_base (a : Nat) (m : W64) (d : Line) (cls : Nat) : (s.engineWrite a m d cls).2.base = s.base := by
  unfold State.engineWrite
  split
  · rfl
  · split <;> simp

@[simp] theorem engineBytes_base (k a n cls : Nat) : (State.engineBytes k s a n cls).2.2.base = s.base := by
  induction k generalizing s a n with
  | zero => rfl
  | succ k ih =>
    unfold State.engineBytes
    split
    · rfl
    · simp [ih]

@[simp] theorem engineStore_base (k a : Nat) (bs : List Byte) (cls : Nat) : (State.engineStore k s a bs cls).2.base = s.base := by
  induction k generalizing s a bs with
  | zero => rfl
  | succ k ih =>
    cases bs with
    | nil => rfl
    | cons b bs => simp [State.engineStore, ih]

@[simp] theorem rdMem_base (a n cls : Nat) : (s.rdMem a n cls).2.2.base = s.base := engineBytes_base s _ a n cls
@[simp] theorem wrMem_base (a : Nat) (bs : List Byte) (cls : Nat) : (s.wrMem a bs cls).2.base = s.base :=
  engineStore_base s _ a bs cls

/-! ## The verdict beat -/

@[simp] theorem useTable_base (c : Nat) (t : List TEntry) : (s.useTable c t).base = s.base := rfl
@[simp] theorem setTable_base (c : Nat) (t : List TEntry) : (s.setTable c t).base = s.base := by simp [State.setTable]

@[simp] theorem summary_base (m : Config.LayerMap) (p : Config.ShardMap × Nat) : (s.summary m p).2.base = s.base := by
  simp [State.summary]

/-- A fold that carries a list beside the state keeps what each of its steps keeps. -/
theorem foldl_snd_base {α β : Type} {f : β × State → α → β × State} (hf : ∀ a x, (f a x).2.base = a.2.base) (l : List α)
    (a : β × State) : (l.foldl f a).2.base = a.2.base := by
  induction l generalizing a with
  | nil => rfl
  | cons x l ih => rw [List.foldl_cons, ih, hf]

@[simp] theorem summaries_base (ms : List Config.LayerMap) : (s.summaries ms).2.base = s.base := by
  unfold State.summaries
  refine foldl_snd_base (fun a m => ?_) ms _
  exact foldl_snd_base (f := fun b p => (b.1 ++ (b.2.summary m p).1.toList, (b.2.summary m p).2)) (fun b p => summary_base b.2 m p)
    m.shards.zipIdx ([], a.2)

@[simp] theorem fillNorms_base (l : List Layer) : (State.fillNorms l s).2.base = s.base := by
  induction l generalizing s with
  | nil => rfl
  | cons x l ih =>
    unfold State.fillNorms
    split <;> simp [ih]

@[simp] theorem holdLayer_base (c : Nat) (m : Config.LayerMap) : (s.holdLayer c m).base = s.base := by
  unfold State.holdLayer
  split
  · rfl
  · simp

@[simp] theorem verdictCtx_base (v : VerdictDown) (c : Nat) : (s.verdictCtx v c).base = s.base := by
  simp only [State.verdictCtx, apply_ite State.base, setTable_base, fault_base, updCtx_base, ite_self]
  split
  · simp
  · rw [foldl_base fun s p => by split <;> simp]
    simp

/-! ## The mesh -/

/-- The queue, the bytes of both memories and the writes of a command in progress: all that a mesh cycle leaves alone. -/
def State.held (s : State) : (List Instr × Memory × Memory) × List Host.Cell × List Host.Cell × Bool × Bool :=
  (s.base, s.lsLog, s.memLog, s.lsWipe, s.memWipe)

@[simp] theorem setTile_held (n : Nat) (x : Tile) : (s.setTile n x).held = s.held := rfl
@[simp] theorem updTile_held (n : Nat) (f : Tile → Tile) : (s.updTile n f).held = s.held := rfl
@[simp] theorem raise_held (f : FaultRec) : (s.raise f).held = s.held := rfl
@[simp] theorem setFab_held (f : Fab) : (s.setFab f).held = s.held := rfl
@[simp] theorem answer_held (n tag : Nat) (data : List Flit) (e : Option DropCause) (lost : List Nat) :
    (s.answer n tag data e lost).held = s.held := rfl

variable {s} in
theorem foldl_held {α : Type} {f : State → α → State} (hf : ∀ s a, (f s a).held = s.held) (l : List α) :
    (l.foldl f s).held = s.held := by
  induction l generalizing s with
  | nil => rfl
  | cons a l ih => rw [List.foldl_cons, ih, hf]

@[simp] theorem latchLanes_held (n : Nat) : (s.latchLanes n).held = s.held := by
  unfold State.latchLanes
  dsimp only
  split
  · split
    · simp [State.held, State.base]
    · rfl
  · rfl

@[simp] theorem laneFault_held (n : Nat) (w : WordId) (mask causes : Nat) : (s.laneFault n w mask causes).held = s.held := by
  unfold State.laneFault
  dsimp only
  split
  · rfl
  · split
    · simp
    · split <;> simp

@[simp] theorem toEdge_held (p : FabPkt) (src : ReqSrc) : (s.toEdge p src).held = s.held := by
  rw [toEdge_eq, setFab_held]

@[simp] theorem edgeRequest_held (src : ReqSrc) (op : FabOp) (cls space off aw rfmt aop : Nat) (bs : List Byte) :
    (s.edgeRequest src op cls space off aw rfmt aop bs).held = s.held := by
  unfold State.edgeRequest
  dsimp only
  split <;> split <;> rfl

theorem startMem_eq (w : EdgeReq) : ∃ f : Fab, s.startMem w =
    (s.edgeRequest (.txn s.nextFree w.pkt.srcTile) w.pkt.op w.pkt.cls (gaSpace w.pkt.addr) (gaOff w.pkt.addr) w.pkt.aw
      w.pkt.rfmt w.pkt.aop (payloadBytes w.pkt.payload)).setFab f := ⟨_, rfl⟩

@[simp] theorem startMem_held (w : EdgeReq) : (s.startMem w).held = s.held := by
  obtain ⟨f, h⟩ := startMem_eq s w
  rw [h, setFab_held, edgeRequest_held]

@[simp] theorem memEdge_held (p : FabPkt) (src : ReqSrc) : (s.memEdge p src).held = s.held := by
  unfold State.memEdge; split <;> simp

@[simp] theorem atEdge_held (p : MeshPkt) (posted : ReqSrc) (trigger : Nat) : (s.atEdge p posted trigger).held = s.held := by
  simp only [State.atEdge]
  split
  · split <;> simp
  · exact foldl_held (fun s q => toEdge_held s q posted) _

@[simp] theorem meshExit_held (p : MeshPkt) : (s.meshExit p).held = s.held := by
  unfold State.meshExit; split <;> simp

/-- The state with the mesh's traffic replaced. -/
def State.setMesh (s : State) (requests answers : List MeshPkt) (tc : Nat) : State :=
  { s with mesh := requests, answers := answers, meshTc := tc }

@[simp] theorem setMesh_held (requests answers : List MeshPkt) (tc : Nat) : (s.setMesh requests answers tc).held = s.held := rfl

/-- A mesh cycle accepts trigger headers, moves the flits, and lets the packets at their edge out. -/
@[simp] theorem meshCycle_held : s.meshCycle.held = s.held := by
  unfold State.meshCycle
  extract_lets links won on mesh heads s1 out
  rw [foldl_held meshExit_held]
  change (s1.setMesh _ _ _).held = s.held
  rw [setMesh_held]
  exact foldl_held (fun s t => by split <;> simp) heads

end Sys2Proof.Machine
end

section
/-! Every command ends by `done` (log 7: one whose premise does not hold changes nothing), and obligation O2 from that. -/

namespace Sys2Proof.Machine

variable {s : State}

/-- The outcome is that of a command that runs to its end from `s`. -/
def Ends (s : State) (o : Host.Outcome State Fault Refusal) : Prop := ∃ t, o = done s t

theorem Ends.done {t : State} : Ends s (done s t) := ⟨t, rfl⟩
/-- The state before the command may have had other parts changed already. -/
theorem Ends.of_base {b t : State} (h : b.base = s.base) : Ends s (Machine.done b t) := ⟨t, done_of_base h t⟩
theorem Ends.ite {c : Prop} [Decidable c] {a b : Host.Outcome State Fault Refusal} (ha : Ends s a) (hb : Ends s b) :
    Ends s (if c then a else b) := by
  split
  · exact ha
  · exact hb

/-! ## Arms that end from a state other than the one before the command -/

theorem execNanNotice_ends (n : NanNotice) : Ends s (execNanNotice n s) :=
  .ite (.of_base (updRas_base s _)) (.of_base (updRas_base s _))

theorem execDeltaPacketIngest_ends (n k : Nat) (fl : List Flit) : Ends s (execDeltaPacketIngest n k fl s) := by
  unfold execDeltaPacketIngest
  extract_lets hd x w
  split
  · exact .done
  · exact .ite .done (.ite .done (.of_base (updSlot_base s _ _)))

theorem execFactorisationStart_ends (k g : Nat) : Ends s (execFactorisationStart k g s) := by
  unfold execFactorisationStart
  split
  · exact .done
  · exact .ite .done (.of_base (updSlot_base s _ _))

theorem execIterationBoundary_ends (k g : Nat) : Ends s (execIterationBoundary k g s) := by
  unfold execIterationBoundary
  split
  · exact .done
  · exact .ite .done (.of_base (by simp))

theorem execSolverIntegration_ends (k g : Nat) : Ends s (execSolverIntegration k g s) := by
  unfold execSolverIntegration
  split
  · exact .done
  · exact .ite .done (.ite (.of_base (by simp)) (.of_base (by simp)))

theorem execAdjoint_ends (k w : Nat) (q v : List W64) (n : Nat) : Ends s (execAdjoint k w q v n s) := by
  unfold execAdjoint
  split
  · exact .done
  · exact .ite .done (.ite .done (.ite .done (.of_base rfl)))

theorem execVerdictBeat_ends : Ends s (execVerdictBeat s) := by
  unfold execVerdictBeat
  split
  · exact .done
  · exact .ite .done (.of_base (by rw [verdictRegs_base, foldl_base fun s c => verdictCtx_base s _ c]))

theorem execStepRecordWrite_ends (c : Nat) : Ends s (execStepRecordWrite c s) := by
  exact .ite .done (.of_base (by simp))

theorem execRead_ends (p : FabPkt) : Ends s (execRead p s) := by
  unfold execRead
  refine .ite .done ?_
  dsimp only
  split
  · exact .ite .done .done
  · exact .done

theorem execJoinGo_ends (j step : W64) : Ends s (execJoinGo j step s) :=
  .ite (.of_base (consumeControl_base s _ _)) (.of_base (consumeControl_base s _ _))


theorem execJoinReport_ends (m : Nat) (r : Report) : Ends s (execJoinReport m r s) := by
  unfold execJoinReport
  extract_lets s0
  have h0 : s0.base = s.base := consumeControl_base s _ _
  split
  · exact .of_base h0
  · exact .ite .done (.ite (.of_base h0) (.ite (.of_base h0) (.ite (.of_base h0) (.of_base h0))))

theorem execCommitReport_ends (m : Nat) (r : Report) : Ends s (execCommitReport m r s) := by
  unfold execCommitReport
  extract_lets s0
  have h0 : s0.base = s.base := consumeControl_base s _ _
  split
  · exact .done
  · refine .ite .done ?_
    dsimp only
    split
    · exact .of_base h0
    · exact .of_base h0

theorem execCountUp_ends (m : Nat) (step : W64) (c : Nat) (n : W64) : Ends s (execCountUp m step c n s) := by
  unfold execCountUp
  extract_lets s0
  have h0 : s0.base = s.base := consumeControl_base s _ _
  split
  · exact .done
  · exact .ite .done (.ite (.of_base h0) (.of_base h0))

theorem execVerdictUp_ends (m : Nat) (v : VerdictUp) : Ends s (execVerdictUp m v s) := by
  unfold execVerdictUp
  extract_lets s0
  have h0 : s0.base = s.base := consumeControl_base s _ _
  split
  · exact .done
  · exact .ite .done (.ite (.of_base h0) (.ite (.of_base h0) (.of_base h0)))

theorem execVerdictDown_ends (v : VerdictDown) : Ends s (execVerdictDown v s) :=
  .ite (.of_base (consumeControl_base s _ _)) (.ite (.of_base (consumeControl_base s _ _)) (.of_base (consumeControl_base s _ _)))

theorem execCommitStop_ends (o r i : Nat) : Ends s (execCommitStop o r i s) := by
  unfold execCommitStop
  dsimp only
  split
  · exact .done
  · exact .done

/-! ## Every command -/

/-- Every command ends by `done`: no arm of exec stops. -/
theorem exec_ends (c : Instr) (s : State) : Ends s (exec c s) := by
  cases c
  case nanNotice => exact execNanNotice_ends ..
  case deltaPacketIngest => exact execDeltaPacketIngest_ends ..
  case factorisationStart => exact execFactorisationStart_ends ..
  case iterationBoundary => exact execIterationBoundary_ends ..
  case solverIntegration => exact execSolverIntegration_ends ..
  case adjoint => exact execAdjoint_ends ..
  case verdictBeat => exact execVerdictBeat_ends ..
  case stepRecordWrite => exact execStepRecordWrite_ends ..
  case read => exact execRead_ends ..
  case joinGo => exact execJoinGo_ends ..
  case joinReport => exact execJoinReport_ends ..
  case commitReport => exact execCommitReport_ends ..
  case countUp => exact execCountUp_ends ..
  case verdictUp => exact execVerdictUp_ends ..
  case verdictDown => exact execVerdictDown_ends ..
  case controlWord | lsScrubRead | tileStart | counterSetBind | tileCtrlHalt | clrStall | cwLdWrite | cwLdForcedWrite | cwLdRead | rearm |
    syncCheckPulse | arm | disarm | escBeatChangeWrite | escHsCfgWrite | testEnterChannel | testExitChannel | tgGo | tgStop | flagScrub |
    noSignal | ident | identOk | enable | retrain | testEnterPort | testExitPort | fabPPeerWrite | drainFabric | rtApply | resume |
    dropRearm | join | leave | joinMismatch | commitGo | go | discard | policy | enableQueue | unblock | copy | checkpointSave |
    checkpointRestore | faultArrival | haltRas | rearmRas | engine | tileArray | port | channel | warm | cold | admitModule | dumpDataRead |
    powerSample | inputWarn | powerRail | coolantWarn | install | remove | attestationGo | certificateGo | flashCopyGo | signalPresent |
    coldStart => exact .done
  case waitBeatEnd | waitCounterEnd | halt | answerLanding | triggerHeaderAccept | lsScrubForcedCycle | regionWakeComplete | beatBoundary
    | syncLoadPulse | hsExchangeRequest | hsRootReply | hsHoldoverTimeout | slewMessage | slewMessageMissing | periodDoneSend |
    periodAnnounce | refQualify | refLoss | refHoldoverEnd | memLineRequest | thermDeferExpire | thermDeferEnd | tgDone | nak | linkDown |
    fabricPacketRoute | write | atomic | reduceAdd | haltMarker | readReply | ack | errorReply | drainMarkersSend | drained | joinReportSend
    | loadPacket | stackRetimingEnd | perst | dmaHoldChange | qDoorbell | commandFetch | fetchError | statusMirrorWrite | dumpEnd |
    resetComplete | inputUndervoltage | inputOvervoltage | pwrEn | pllUnlock | smbusBlockWrite => exact .ite .done .done
  case commitStop => exact execCommitStop_ends ..
  -- The other arms are trees of conditions and matches: each is taken apart to its leaves, all of which are `done s _`.
  all_goals simp -zeta only [exec, execWaitTriggerTaken, execCountSumPacket, execDrainComplete, execPacketDeposit, execLsEccWriteback,
    execNanWatchRecord,
    execHsExchangeReply, execHsIntervalNoReply, execPeriodDone, execRegisterWrite, execRcFieldRead, execWcbWriteWaitEnd,
    execChannelLineSlot, execWcbIdleEvict, execStackScrubSlot, execStackThermalSample, execFlagOperation, execLinkCellReceive,
    execControlBlockReceive, execPortCellTime, execPortTrainingEnd, execEdgeTagGrant, execCircuitData, execDrainMarker,
    execTxnTimeout, execDrainTimeout, execCommitDecisionDeadline, execShardGather, execReduceScatter,
    execReduceScatterGroupStage, execReduceScatterConvert, execCountSum, execSeqExchange, execCountDown, execVerdictUpSend,
    execLoadFetchDone, execLoadVerifyDone, execLoadValidateDone, execLoadDistributeDone, execBar0BadAccess, execBarReadTimeout,
    execWindowAccess, execCommandDispatch, execLaunch, execLaunchComplete, execWaitFlag, execWaitFlagTimeout, execSetFlag, execCommit,
    execAbort, execFence, execStatus, execHangDeclared, execDumpEntryRead, execReplayStart, execReplayWdExpiry, execReplayEnd,
    execHangVerdicts, execDieTempSample, execCoolant, execBootStageComplete, execSmbusBlockRead, execKeyOperationDone,
    execAttestationReportDone, execFlashCopyDone, execSlewAcknowledgement, execPrbsPatternReceive, execCheckpointFlashTransferDone,
    execSkimMax]
  all_goals repeat' (first | with_reducible exact .done | with_reducible refine .ite ?_ ?_ | extract_lets | split)
  exact .of_base (updCtx_base s _ _)

/-! ## One step -/

theorem step_of_empty (h : s.pending = []) : step s = .next s.meshCycle := by simp [step, h]

theorem step_of_cons {c : Instr} {r : List Instr} (h : s.pending = c :: r) : step s = exec c { s with pending := r } := by
  simp [step, h]

theorem meshCycle_inv (h : Inv s) : Inv s.meshCycle := by
  have hk := meshCycle_held s
  simp only [State.held, State.base, Prod.mk.injEq] at hk
  obtain ⟨⟨-, hls, hbytes⟩, hl1, hl2, hl3, hl4⟩ := hk
  rwa [Inv, Clean, hls, hbytes, hl1, hl2, hl3, hl4]

theorem meshCycle_pending : s.meshCycle.pending = s.pending := congrArg (fun k => k.1.1) (meshCycle_held s)

/-- A step answers a next state; it takes the front of the queue, and keeps the invariant. -/
theorem step_answers (s : State) : ∃ t, step s = .next t ∧ t.pending = s.pending.drop 1 ∧ (Inv s → Inv t) := by
  cases hp : s.pending with
  | nil => exact ⟨_, step_of_empty hp, by rw [meshCycle_pending, hp]; rfl, meshCycle_inv⟩
  | cons c r =>
    obtain ⟨t, ht⟩ := exec_ends c { s with pending := r }
    exact ⟨_, (step_of_cons hp).trans ht, rfl, fun hi => endOf_inv { s with pending := r } t hi⟩

/-- Settles O2: every command ends by `done`, whose end keeps the invariant, and a mesh cycle leaves queue and memories alone. -/
theorem stepAnswersAndKeepsTheInvariant : Obligations.StepAnswersAndKeepsTheInvariant := by
  unfold Obligations.StepAnswersAndKeepsTheInvariant
  refine ⟨fun s => ?_, fun s t hi h => ?_⟩
  · obtain ⟨t, ht, hp, -⟩ := step_answers s
    exact ⟨t, ht, hp⟩
  · obtain ⟨u, hu, -, hinv⟩ := step_answers s
    rw [hu] at h
    cases h
    exact hinv hi

end Sys2Proof.Machine
end

section
/-! Refutations: for each of O7, O9, O10 and O51 a concrete state that meets the premises of one clause, and what the model makes of it. -/

namespace Sys2Proof.Machine

/-- What a command that does something ends with. -/
theorem Does.post_endOf {c : Instr} {s t : State} {l : List Piece} {post : State → Prop} (h : Does c s l post)
    (he : exec c s = done s t) : post (endOf s t) := by
  obtain ⟨u, hu, hp, -⟩ := h
  rw [he] at hu
  cases hu
  exact hp

/-! ## A halt starts the tile for which a launch waits -/

/-- A LAUNCH of queue `q` on tile 0, which has not halted for it. -/
def launchOnTile0 (q : Nat) : Launch :=
  { q := q, index := 0, entry := 0, step := 0, armBeat := 0, tag := q, tiles := [0], left := [0] }

/-- Tile 0 runs for the launch of slot 0, and the launch of slot 1, whose entry 0 is VALID, waits for it to halt (R58). -/
def startWaits : State := { State.reset with
  tiles := [(0, { st := .run, slot := some 0, startDue := some 1, cs0 := { entries := [(0, 0x100)] } })]
  slots := [(0, { launch := some (launchOnTile0 0) }), (1, { launch := some (launchOnTile0 1) })] }

theorem stopTile_startWaits : ((startWaits.stopTile 0).tile 0).st = .run := by decide

/-- Refutes O7: TILE_CTRL.HALT of a tile for which a start waits does not leave it in HALTED: the waiting launch starts it in the same
step (R58). -/
theorem not_haltsAndCounterSets : ¬ Obligations.HaltsAndCounterSets := by
  unfold Obligations.HaltsAndCounterSets
  intro h
  obtain ⟨-, hstop, -⟩ := h startWaits 0 0 0 (launchOnTile0 0) ⟨rfl, rfl, rfl, rfl⟩
  obtain ⟨t, ht, hst, -⟩ := hstop (by decide) (by decide)
  cases ht
  rw [endOf_tile, stopTile_startWaits] at hst
  exact absurd hst (by decide)

/-! ## A fault of a tile carries the tag of the tile's operation -/

/-- Tile 0 runs a word whose NP.CSET names set 0, which is bound to operation 5. -/
def boundTile : Tile := { st := .run, sets := [(0, { tag := 5, bound := true })] }

/-- A write packet of tile 1 that has come whole to tile 0. -/
def arrivedWrite : MeshPkt :=
  { kind := 0, dest := 0, src := 1, trigger := 0, lsAddr := 0, cls := 1, op := 0, beatLo := 0, addr := 0, tag := 0
    payload := [0], way := [] }

def badPacketArrives : State := { State.reset with tiles := [(0, boundTile)], mesh := [arrivedWrite] }

/-- Refutes O9: MESH_CRC carries the operation tag of the tile's present word (R501, R566), 5 here, where the statement has 0. -/
theorem not_packetsAndAnswers : ¬ Obligations.PacketsAndAnswers := by
  unfold Obligations.PacketsAndAnswers
  intro h
  obtain ⟨hdeposit, -⟩ := h badPacketArrives 0 ⟨rfl, rfl, rfl, rfl⟩
  obtain ⟨hwrite, -⟩ := hdeposit arrivedWrite true rfl rfl (by decide) rfl (by decide) (by decide)
  obtain ⟨⟨-, -, hras⟩, -⟩ := (hwrite (by decide) (.inl rfl)).post_endOf rfl
  exact absurd (congrArg (fun r => r.tree.map (·.tag)) hras) (by decide)

/-- The next word of tile 0's scrubber has a double-bit error. -/
def doubleErrorNext : State := { State.reset with tiles := [(0, boundTile)], lsMarks := [(0, .double 1 2)] }

/-- Refutes O10: LS_UNCORRECTABLE of the scrubber carries the operation tag of the tile's present word (R501, R566), 5 here, where the
statement has 0. -/
theorem not_localStoreErrors : ¬ Obligations.LocalStoreErrors := by
  unfold Obligations.LocalStoreErrors
  intro h
  obtain ⟨-, -, -, hdouble, -⟩ := h doubleErrorNext 0 0 0 1 2 0 ⟨rfl, rfl, rfl, rfl⟩ rfl
  obtain ⟨-, -, -, hras⟩ := (hdouble (by decide)).post_endOf rfl
  exact absurd (congrArg (fun r => r.tree.map (·.tag)) hras) (by decide)

/-! ## A copy engine acts for its own command alone once that is due -/

/-- A LAUNCH (opcode 1, R453) that its queue has dispatched, armed for beat 0; a slice that is not in RUNNING holds it (R480). -/
def heldLaunch : Cmd := { index := 0, raw := 1, st := .dispatched, arm := some 0 }

/-- A copy that has ended with status 1, of command 0 of queue 0. -/
def endedCopy : CopyRun := { q := 0, index := 0, src := 0, dst := 0, bytes := 0, cls := 0, ending := some 1 }

/-- Copy engine 0 has ended with status 1 and works for the command of queue 0, which is a LAUNCH. -/
def copyOfLaunch : State := { State.reset with
  host := { copies := [(0, endedCopy)]
            queues := [(0, { cmds := [heldLaunch] })] } }

theorem cmdOp_heldLaunch : cmdOp heldLaunch.raw = 1 := by
  have hraw : heldLaunch.raw.toNat = 1 := BitVec.toNat_one (by omega)
  rw [cmdOp, cmdFld, hraw]
  rfl

theorem cmdDue_heldLaunch : copyOfLaunch.cmdDue heldLaunch = false := by
  have hslice : copyOfLaunch.sliceSt < 2 := by decide
  have hheld : copyOfLaunch.sliceHolds heldLaunch = true := by
    rw [State.sliceHolds, cmdOp_heldLaunch, decide_eq_true hslice]
    rfl
  simp [State.cmdDue, hheld]

theorem exec_copyOfLaunch : exec (.copy 0) copyOfLaunch = done copyOfLaunch copyOfLaunch := by
  have hcopy : afind copyOfLaunch.host.copies 0 = some endedCopy := rfl
  have hcmd : copyOfLaunch.cmd endedCopy.q endedCopy.index = some heldLaunch := rfl
  have hstays : copyOfLaunch.copyLine 0 = copyOfLaunch := by simp [State.copyLine, hcopy, hcmd, cmdDue_heldLaunch]
  exact congrArg (done copyOfLaunch) hstays

/-- Refutes O51: nothing says that the command of the copy is a COPY, and the slice holds a dispatched LAUNCH (R480), so the engine does
not end. -/
theorem not_launchesAndCopies : ¬ Obligations.LaunchesAndCopies := by
  unfold Obligations.LaunchesAndCopies
  intro h
  obtain ⟨-, -, -, hcopy⟩ := h copyOfLaunch 0 0 0 0 0 heldLaunch 0 (launchOnTile0 0) endedCopy ⟨rfl, rfl, rfl, rfl⟩
  obtain ⟨hended, -⟩ := hcopy rfl rfl rfl rfl (by decide) rfl (by decide) rfl
  obtain ⟨-, hgone⟩ := (hended 1 rfl rfl rfl (by decide)).post_endOf exec_copyOfLaunch
  have hstays : afind copyOfLaunch.host.copies 0 = none := hgone
  exact absurd hstays (by decide)

end Sys2Proof.Machine
end

section
/-! The start of a tile (R58, R63, R100, R163, R199): the rules of the updates that it makes, what each case of it does, and obligation O8
from these. -/

namespace Sys2Proof.Machine

variable {s t : State} {l : List Piece}

/-! ## The rule of each update -/

theorem Frame.setTile (h : Frame l s t) (hl : .tiles ∈ l) (n : Nat) (x : Tile) : Frame l s (t.setTile n x) := by
  refine h.extend rfl ⟨rfl, rfl, rfl, rfl⟩ fun p hp => ?_
  cases p
  case tiles => exact absurd hl hp
  all_goals simp [Piece.same]

theorem Frame.updRegion (h : Frame l s t) (hl : .regions ∈ l) (r : Nat) (f : Region → Region) : Frame l s (t.updRegion r f) := by
  refine h.extend rfl ⟨rfl, rfl, rfl, rfl⟩ fun p hp => ?_
  cases p
  case regions => exact absurd hl hp
  all_goals simp [Piece.same]

theorem Frame.raise (h : Frame l s t) (hl : .ras ∈ l) (f : FaultRec) : Frame l s (t.raise f) := by
  refine h.extend rfl ⟨rfl, rfl, rfl, rfl⟩ fun p hp => ?_
  cases p
  case ras => exact absurd hl hp
  all_goals simp [Piece.same]

theorem Frame.tileFault (h : Frame l s t) (ht : .tiles ∈ l) (hr : .ras ∈ l) (n : Nat) (c : Cause) (tag : Nat) :
    Frame l s (t.tileFault n c tag) :=
  (h.setTile ht n _).raise hr _

theorem Frame.unschedWake (h : Frame l s t) (hl : .regions ∈ l) (r : Nat) : Frame l s (t.unschedWake r) := by
  rw [State.unschedWake]
  split
  · exact h.updRegion hl r _
  · exact h

/-! ## The region that wakes -/

theorem satTo_eq_min (top a b : Nat) : satTo top a b = min (a + b) top := by
  rw [satTo]
  split <;> omega

@[simp] theorem State.unschedWake_tile_at (r n : Nat) : (s.unschedWake r).tile n = s.tile n := by
  rw [State.unschedWake]
  split <;> simp

@[simp] theorem State.unschedWake_ras (r : Nat) : (s.unschedWake r).ras = s.ras := by
  rw [State.unschedWake]
  split <;> simp

/-- A region that sleeps or is off begins to wake, and counts it up to 0xFFFF (R63); any other is left as it is. -/
theorem State.region_unschedWake (r u : Nat) :
    (s.unschedWake r).region u = if u = r ∧ ((s.region r).st = 1 ∨ (s.region r).st = 2) then
      { s.region r with st := 3, fromOff := (s.region r).st == 2, wakes := min ((s.region r).wakes + 1) 0xFFFF } else s.region u := by
  rw [State.unschedWake]
  split
  next hg => simp [hg, satTo_eq_min]
  next hg => simp [hg]

/-! ## The tile that faults -/

@[simp] theorem State.tile_tileFault (n m : Nat) (c : Cause) (tag : Nat) : (s.tileFault n c tag).tile m =
    if m = n then { s.tile n with
      st := .fault, held := none, armed := none, waitEnd := none, took := none, part := none, kend := none } else s.tile m := by
  simp [State.tileFault]

@[simp] theorem State.tileFault_region_at (n r : Nat) (c : Cause) (tag : Nat) : (s.tileFault n c tag).region r = s.region r := by
  simp [State.tileFault]

theorem State.tileFault_ras (n : Nat) (c : Cause) (tag : Nat) : (s.tileFault n c tag).ras = { s.ras with
    tree := s.ras.tree ++ [{ cause := c, unit := .tile, index := n, cwAddr := (s.tile n).cw, bank := (s.tile n).bank, tag := tag }] } :=
  rfl

/-! ## The tile that starts -/

/-- Tile `n` as the launch `l` of slot `slot` starts it (R63). -/
def State.startedTile (s : State) (n slot : Nat) (l : Launch) : Tile :=
  let x := s.tile n
  { x with
    st := .run, cw := nfld (x.entry 0).toNat 0 8, held := none, trig := [], cmps := [], blkX := 0, blkY := 0, blkGroups := []
    tc := x.settle.tc, startDue := none
    launchBeat := l.armBeat, lastArmed := none, armed := none, waitEnd := none, slot := some slot, port := [], scrubPair := none
    nanValid := false, nanCw := 0, nanBank := 0, nanBeat := 0, cap := {}, srCtr := x.sr.elemBase
    startPend := (s.region (regionOf n)).st != 0 }

/-- The state in which tile `n` has started, before its entry 0 is looked at: its region wakes. -/
def State.begun (s : State) (n slot : Nat) (l : Launch) : State := (s.setTile n (s.startedTile n slot l)).unschedWake (regionOf n)

theorem entryAddr_eq_nfld (e : W16) : entryAddr e = nfld e.toNat 0 8 := by simp [entryAddr, nfld]

theorem entryValid_eq_nfld (e : W16) : entryValid e = (nfld e.toNat 8 1 == 1) := by simp [entryValid, nfld, Nat.shiftRight_eq_div_pow]

theorem begun_frame (hc : Clean s) (n slot : Nat) (l : Launch) : Frame [.tiles, .regions] s (s.begun n slot l) :=
  ((Frame.refl hc).setTile (by simp) n _).unschedWake (by simp) _

variable {n slot : Nat} {launch : Launch}

/-- A halted tile with no binding due starts; an entry 0 that is not VALID is its fault (R63, R100). -/
theorem startTile_of_halted (hl : (s.slot slot).launch = some launch) (hm : n ∈ launch.tiles)
    (hst : (s.tile n).st = .halted) (hb : (s.tile n).bindDue = []) :
    s.startTile n slot = if entryValid ((s.tile n).entry 0) then s.begun n slot launch
      else (s.begun n slot launch).tileFault n .triggerInvalid launch.tag := by
  simp [State.startTile, hl, hst, hm, hb, entryAddr_eq_nfld]
  rfl

/-- A tile that runs an earlier operation keeps the start until it halts (R58). -/
theorem startTile_of_running (hl : (s.slot slot).launch = some launch) (hm : n ∈ launch.tiles)
    (hst : (s.tile n).st ≠ .halted) (hf : (s.tile n).st ≠ .fault) :
    s.startTile n slot = s.setTile n { s.tile n with startDue := some slot } := by
  simp [State.startTile, hl, hm, hst, hf]

theorem exec_tileStart : exec (.tileStart n slot) s = done s (s.startTile n slot) := rfl

theorem tile_begun (m : Nat) : (s.begun n slot launch).tile m = if m = n then s.startedTile n slot launch else s.tile m := by
  simp [State.begun]

theorem ras_begun : (s.begun n slot launch).ras = s.ras := State.unschedWake_ras _

/-- No other tile changes, and no region but the tile's, which wakes if it slept or was off. -/
theorem region_begun (r : Nat) : (s.begun n slot launch).region r =
    if r = regionOf n ∧ ((s.region (regionOf n)).st = 1 ∨ (s.region (regionOf n)).st = 2) then
      { s.region (regionOf n) with st := 3, fromOff := (s.region (regionOf n)).st == 2
                                   wakes := min ((s.region (regionOf n)).wakes + 1) 0xFFFF }
    else s.region r := by
  simp [State.begun, State.region_unschedWake]

theorem does_tileStart_valid (hc : Clean s) (hl : (s.slot slot).launch = some launch) (hm : n ∈ launch.tiles)
    (hst : (s.tile n).st = .halted) (hb : (s.tile n).bindDue = []) (hv : nfld ((s.tile n).entry 0).toNat 8 1 = 1)
    {post : State → Prop} (hp : post (endOf s (s.begun n slot launch))) : Does (.tileStart n slot) s [.tiles, .regions] post := by
  refine Does.of_frame ?_ (begun_frame hc n slot launch) hp
  rw [exec_tileStart, startTile_of_halted hl hm hst hb, entryValid_eq_nfld, hv]
  rfl

theorem does_tileStart_invalid (hc : Clean s) (hl : (s.slot slot).launch = some launch) (hm : n ∈ launch.tiles)
    (hst : (s.tile n).st = .halted) (hb : (s.tile n).bindDue = []) (hv : nfld ((s.tile n).entry 0).toNat 8 1 = 0)
    {post : State → Prop} (hp : post (endOf s ((s.begun n slot launch).tileFault n .triggerInvalid launch.tag))) :
    Does (.tileStart n slot) s [.tiles, .regions, .ras] post := by
  have hf : Frame [.tiles, .regions, .ras] s (s.begun n slot launch) :=
    ((Frame.refl hc).setTile (by simp) n _).unschedWake (by simp) _
  refine Does.of_frame ?_ (hf.tileFault (by simp) (by simp) n .triggerInvalid launch.tag) hp
  rw [exec_tileStart, startTile_of_halted hl hm hst hb, entryValid_eq_nfld, hv]
  rfl

/-! ## The region that has woken -/

/-- A region that runs, its clock locked. -/
def Region.runs (g : Region) : Region := { g with st := 0, lock := true, fromOff := false }

/-- The tiles of a region that has woken, none of which waits for it any more. -/
def State.pendEnded (s : State) (r : Nat) : State :=
  { s with tiles := s.tiles.map fun p => if regionOf p.1 = r then (p.1, { p.2 with startPend := false }) else p }

theorem Frame.pendEnded (h : Frame l s t) (hl : .tiles ∈ l) (r : Nat) : Frame l s (t.pendEnded r) := by
  refine h.extend rfl ⟨rfl, rfl, rfl, rfl⟩ fun p hp => ?_
  cases p
  case tiles => exact absurd hl hp
  all_goals simp [Piece.same, State.pendEnded]

/-- A tile that is not listed is as the others were at reset, when no start waited. -/
theorem tile_pendEnded (hd : s.tileDef.startPend = false) (r m : Nat) :
    (s.pendEnded r).tile m = if regionOf m = r then { s.tile m with startPend := false } else s.tile m := by
  have hget : ∀ ts : Assoc Tile,
      aget s.tileDef (ts.map fun p => if regionOf p.1 = r then (p.1, { p.2 with startPend := false }) else p) m =
        if regionOf m = r then { aget s.tileDef ts m with startPend := false } else aget s.tileDef ts m := by
    intro ts
    induction ts with
    | nil =>
      have hdef : { s.tileDef with startPend := false } = s.tileDef := by rw [← hd]
      simp [hdef]
    | cons p ts ih =>
      obtain ⟨k, x⟩ := p
      by_cases hk : k = m
      · subst hk
        by_cases hr : regionOf k = r <;> simp [hr, aget]
      · by_cases hr : regionOf k = r <;> simp [hr, aget, hk, ih]
  exact hget s.tiles

theorem exec_regionWakeComplete (r : Nat) : exec (.regionWakeComplete r) s = execRegionWakeComplete r s := rfl

/-- A region that wakes reaches RUN, with its clock locked; what waited in its tiles begins. -/
theorem does_regionWakeComplete (hc : Clean s) (hd : s.tileDef.startPend = false) {r : Nat} (hr : (s.region r).st = 3) :
    Does (.regionWakeComplete r) s [.tiles, .regions] fun t =>
      (∀ u, u ≠ r → t.region u = s.region u) ∧ t.region r = { s.region r with st := 0, lock := true, fromOff := false } ∧
      ∀ m, t.tile m = if regionOf m = r then { s.tile m with startPend := false } else s.tile m := by
  refine Does.of_frame (t := (s.updRegion r Region.runs).pendEnded r)
    (by rw [exec_regionWakeComplete, execRegionWakeComplete, if_pos hr]; rfl)
    (((Frame.refl hc).updRegion (by simp) r _).pendEnded (by simp) r) ⟨fun u hu => ?_, ?_, fun m => ?_⟩
  · exact (State.region_updRegion s r u Region.runs).trans (if_neg hu)
  · exact (State.region_updRegion s r r Region.runs).trans (if_pos rfl)
  · exact tile_pendEnded (s := s.updRegion r Region.runs) hd r m

/-- Settles O8: by the cases of the start. -/
theorem tileStarts : Obligations.TileStarts := by
  unfold Obligations.TileStarts
  intro s n slot region launch hc
  refine ⟨fun hl hm hst hb => ⟨fun hv => ?valid, fun hv => ?invalid⟩, fun hl hm hst hf => ?waits,
    fun hd hr => does_regionWakeComplete hc hd hr⟩
  case valid =>
    refine does_tileStart_valid hc hl (List.contains_iff_mem.mp hm) hst hb hv ⟨(tile_begun n).trans (if_pos rfl), ?_, region_begun⟩
    exact fun m hne => (tile_begun m).trans (if_neg hne)
  case invalid =>
    have hstarted : (s.begun n slot launch).tile n = s.startedTile n slot launch := (tile_begun n).trans (if_pos rfl)
    refine does_tileStart_invalid hc hl (List.contains_iff_mem.mp hm) hst hb hv ⟨⟨fun m hne => ?_, fun r => ?_⟩, ?_, ?_⟩
    · simp [tile_begun, hne]
    · simp [region_begun]
    · rw [endOf_tile, State.tile_tileFault, if_pos rfl, hstarted]
      rfl
    · rw [endOf_ras, State.tileFault_ras, hstarted, ras_begun]
      rfl
  case waits =>
    refine Does.of_frame (by rw [exec_tileStart, startTile_of_running hl (List.contains_iff_mem.mp hm) hst hf])
      ((Frame.refl hc).setTile (by simp) n _) ⟨(State.tile_setTile s n n _).trans (if_pos rfl), fun m hne => ?_⟩
    exact (State.tile_setTile s n m _).trans (if_neg hne)

end Sys2Proof.Machine
end

section
/-! Requests at their destination (chapter 11): the rules of the updates that they make, how an accepted request is handed on and a
refused one answered, and obligation O34 from these. -/

namespace Sys2Proof.Machine

variable {s t : State} {l : List Piece} {p : FabPkt}

/-! ## The rule of each update -/

theorem Does.imp {c : Instr} {post post' : State → Prop} (h : Does c s l post) (hi : ∀ t, post t → post' t) : Does c s l post' := by
  obtain ⟨t, he, hp, hf⟩ := h
  exact ⟨t, he, hi t hp, hf⟩

theorem Frame.setFab (h : Frame l s t) (hl : .fab ∈ l) {f : Fab} (hf : f.ports = t.fab.ports) : Frame l s (t.setFab f) := by
  refine h.extend rfl ⟨rfl, rfl, rfl, rfl⟩ fun p hp => ?_
  cases p
  case fab => exact absurd hl hp
  case ports => exact hf
  all_goals simp [Piece.same, State.setFab, State.tile]

theorem Frame.consume (h : Frame l s t) (hl : .fab ∈ l) (p : FabPkt) : Frame l s (t.consume p) := h.setFab hl rfl

theorem Frame.toSwitch (h : Frame l s t) (hl : .fab ∈ l) (p : FabPkt) : Frame l s (t.toSwitch p) := h.setFab hl rfl

theorem Frame.toChannels (h : Frame l s t) (hl : .inbox ∈ l) (rs : List LineReq) : Frame l s (t.toChannels rs) := by
  refine h.extend rfl ⟨rfl, rfl, rfl, rfl⟩ fun p hp => ?_
  cases p
  case inbox => exact absurd hl hp
  all_goals simp [Piece.same]

theorem Frame.toFlags (h : Frame l s t) (hl : .host ∈ l) (fs : List (ReqSrc × Nat × FlagAct)) : Frame l s (t.toFlags fs) := by
  refine h.extend rfl ⟨rfl, rfl, rfl, rfl⟩ fun p hp => ?_
  cases p
  case host => exact absurd hl hp
  all_goals simp [Piece.same, State.toFlags, State.tile]

theorem Frame.updRas (h : Frame l s t) (hl : .ras ∈ l) (f : Ras → Ras) : Frame l s (t.updRas f) := by
  refine h.extend rfl ⟨rfl, rfl, rfl, rfl⟩ fun p hp => ?_
  cases p
  case ras => exact absurd hl hp
  all_goals simp [Piece.same]

/-- The state in which packet `m` has entered the mesh behind those that are there. -/
def State.enterMesh (s : State) (m : MeshPkt) : State := { s with mesh := s.mesh ++ [m] }

theorem Frame.enterMesh (h : Frame l s t) (hl : .mesh ∈ l) (m : MeshPkt) : Frame l s (t.enterMesh m) := by
  refine h.extend rfl ⟨rfl, rfl, rfl, rfl⟩ fun p hp => ?_
  cases p
  case mesh => exact absurd hl hp
  all_goals simp [Piece.same, State.enterMesh, State.tile]

/-- The state in which request `p` awaits `n` line or flag operations. -/
def State.await (s : State) (p : FabPkt) (n : Nat) : State := s.setFab { s.fab with inReqs := s.fab.inReqs ++ [(p, n, none)] }

theorem Frame.await (h : Frame l s t) (hl : .fab ∈ l) (p : FabPkt) (n : Nat) : Frame l s (t.await p n) := h.setFab hl rfl

/-! ## The answer -/

theorem gaModule_mkGa (m : Nat) (hm : m < 2 ^ 14) : gaModule (mkGa 0 m 0) = m := by
  simp only [gaModule, mkGa, fld, BitVec.toNat_ofNat, Nat.shiftRight_eq_div_pow]
  omega

/-- An answer that carries an error is an ERROR_REPLY with its cause, whatever was asked (R349). -/
theorem replyFab_error (p : FabPkt) (data : List Flit) (d : DropCause) : ∃ a : FabPkt, s.replyFab p data (some d) = s.toSwitch a ∧
    a.op = .errorReply ∧ a.aop = dropCode d ∧ a.tag = p.tag ∧ (p.src < 2 ^ 14 → a.dest = p.src) :=
  ⟨_, rfl, rfl, rfl, rfl, gaModule_mkGa p.src⟩

/-- A READ is answered with the data. -/
theorem replyFab_read (hop : p.op = .read) (data : List Flit) : ∃ a : FabPkt, s.replyFab p data none = s.toSwitch a ∧
    a.op = .readReply ∧ a.tag = p.tag ∧ a.payload = data := by
  simp only [State.replyFab, hop]
  exact ⟨_, rfl, rfl, rfl, rfl⟩

/-- CIRCUIT_DATA is acknowledged. -/
theorem replyFab_circuitData (hop : p.op = .circuitData) (data : List Flit) : ∃ a : FabPkt, s.replyFab p data none = s.toSwitch a ∧
    a.op = .ack ∧ a.tag = p.tag := by
  simp only [State.replyFab, hop]
  exact ⟨_, rfl, rfl, rfl⟩

/-! ## The request that is refused -/

/-- A drop enters the drop record, and touches nothing of the fabric beside it (R366). -/
theorem recordDrop_eq (port : Nat) (d : DropCause) : ∃ f : Fab, s.recordDrop port p d = s.setFab f ∧ f.delivered = s.fab.delivered ∧
    f.switchQ = s.fab.switchQ ∧ f.ports = s.fab.ports ∧ f.id = s.fab.id :=
  ⟨_, rfl, rfl, rfl, rfl, rfl⟩

/-- A request of another module that is dropped is answered with the cause (R349). -/
theorem dropPkt_of_request (hr : isRequest p.op = true) (hm : p.src ≠ s.moduleId) (port : Nat) (d : DropCause) :
    ∃ (f : Fab) (a : FabPkt), s.dropPkt port p d = (s.setFab f).toSwitch a ∧ f.delivered = s.fab.delivered ∧
      f.switchQ = s.fab.switchQ ∧ f.ports = s.fab.ports ∧
      a.op = .errorReply ∧ a.aop = dropCode d ∧ a.tag = p.tag ∧ (p.src < 2 ^ 14 → a.dest = p.src) := by
  obtain ⟨f, hf, hdel, hq, hports, hid⟩ := recordDrop_eq (s := s) (p := p) port d
  have hm' : p.src ≠ (s.setFab f).moduleId := by rwa [State.moduleId, State.setFab, hid]
  obtain ⟨a, ha, hop, haop, htag, hdest⟩ := replyFab_error (s := s.setFab f) p [] d
  refine ⟨f, a, ?_, hdel, hq, hports, hop, haop, htag, hdest⟩
  simp only [State.dropPkt, hf, hr, Bool.not_true, Bool.false_eq_true, if_false, if_neg hm', ha]

/-! ## The request that is accepted -/

/-- Why request `p` is not accepted, if it is not (R342). -/
def acceptCause (p : FabPkt) : Option DropCause :=
  reqCause p.op (gaSpace p.addr) (gaOff p.addr) p.payload.length p.aw p.rfmt p.aop

/-- The memory or flag operations of request `p` leave its destination's edge. -/
def State.handOn (s : State) (p : FabPkt) : State :=
  s.edgeRequest (.fabric p) p.op p.cls (gaSpace p.addr) (gaOff p.addr) p.aw p.rfmt p.aop (payloadBytes p.payload)

/-- Request `p` on its way through the mesh to the tile that its address names (R51). -/
def State.tileRequest (s : State) (p : FabPkt) : MeshPkt :=
  { kind := 0, dest := gaOff p.addr / Config.lsStride, src := gaOff p.addr / Config.lsStride, trigger := p.trigger
    lsAddr := gaOff p.addr % Config.lsStride / 16, cls := p.cls, op := if p.op = .read then 1 else 0
    beatLo := s.esc.beat.toNat % 4096, addr := 0, tag := 0, payload := p.payload, edge := some p
    way := hopsOf (wayIn (gaOff p.addr / Config.lsStride)) }

/-! ## The operations of a request -/

theorem payloadBytes_length (fl : List Flit) : (payloadBytes fl).length = 16 * fl.length := by
  simp [payloadBytes, flitBytes, List.length_flatMap, Nat.mul_comm]

/-- The operand of an ATOMIC, at its width. -/
def operandOf (p : FabPkt) : W64 := BitVec.ofNat 64 (ofLe ((payloadBytes p.payload).take 8) % 2 ^ (8 * 2 ^ p.aw))

/-- What an ATOMIC compares with, at its width. -/
def compareOf (p : FabPkt) : W64 := BitVec.ofNat 64 (ofLe (((payloadBytes p.payload).drop 8).take 8) % 2 ^ (8 * 2 ^ p.aw))

/-- The line operations of a request on stack memory. -/
def lineOps (p : FabPkt) : List LineReq :=
  match p.op with
  | .read => [{ src := .fabric p, addr := gaOff p.addr, op := .read, cls := p.cls }]
  | .atomic => [{ src := .fabric p, addr := gaOff p.addr / 64 * 64
                  op := .atomic p.aop p.aw (gaOff p.addr % 64) (operandOf p) (compareOf p), cls := p.cls }]
  | .reduceAdd => reduceLines (.fabric p) p.cls p.rfmt (16 * p.payload.length + 1) (gaOff p.addr) (payloadBytes p.payload)
  | _ => writeLines (.fabric p) p.cls (16 * p.payload.length + 1) (gaOff p.addr) (payloadBytes p.payload)

/-- The flag operations of a request on a flag. -/
def flagOpsOf (p : FabPkt) : List (ReqSrc × Nat × FlagAct) :=
  match p.op with
  | .read => [(.fabric p, gaOff p.addr / 8, .read)]
  | .atomic => [(.fabric p, gaOff p.addr / 8, .atomic p.aop (operandOf p) (compareOf p))]
  | .reduceAdd => flagOps (.fabric p) .reduceAdd (gaOff p.addr / 8) (payloadBytes p.payload)
  | _ => flagOps (.fabric p) .write (gaOff p.addr / 8) (payloadBytes p.payload)

theorem lineOps_read (hop : p.op = .read) :
    lineOps p = [{ src := .fabric p, addr := gaOff p.addr, op := .read, cls := p.cls }] := by simp only [lineOps, hop]

theorem lineOps_atomic (hop : p.op = .atomic) : lineOps p = [{
    src := .fabric p, addr := gaOff p.addr / 64 * 64, op := .atomic p.aop p.aw (gaOff p.addr % 64) (operandOf p) (compareOf p)
    cls := p.cls }] := by simp only [lineOps, hop]

theorem lineOps_reduceAdd (hop : p.op = .reduceAdd) : lineOps p =
    reduceLines (.fabric p) p.cls p.rfmt (16 * p.payload.length + 1) (gaOff p.addr) (payloadBytes p.payload) := by
  simp only [lineOps, hop]

theorem lineOps_write (hop : p.op = .write ∨ p.op = .circuitData) : lineOps p =
    writeLines (.fabric p) p.cls (16 * p.payload.length + 1) (gaOff p.addr) (payloadBytes p.payload) := by
  rcases hop with hop | hop <;> simp only [lineOps, hop]

theorem flagOpsOf_read (hop : p.op = .read) : flagOpsOf p = [(.fabric p, gaOff p.addr / 8, .read)] := by simp only [flagOpsOf, hop]

theorem flagOpsOf_atomic (hop : p.op = .atomic) :
    flagOpsOf p = [(.fabric p, gaOff p.addr / 8, .atomic p.aop (operandOf p) (compareOf p))] := by simp only [flagOpsOf, hop]

theorem flagOpsOf_reduceAdd (hop : p.op = .reduceAdd) :
    flagOpsOf p = flagOps (.fabric p) .reduceAdd (gaOff p.addr / 8) (payloadBytes p.payload) := by simp only [flagOpsOf, hop]

theorem flagOpsOf_write (hop : p.op = .write ∨ p.op = .circuitData) :
    flagOpsOf p = flagOps (.fabric p) .write (gaOff p.addr / 8) (payloadBytes p.payload) := by
  rcases hop with hop | hop <;> simp only [flagOpsOf, hop]

theorem handOn_of_mem (hs : gaSpace p.addr = 0) : s.handOn p = s.toChannels (lineOps p) := by
  cases hop : p.op <;>
    simp only [State.handOn, State.edgeRequest, if_pos hs, payloadBytes_length, lineOps, operandOf, compareOf, hop]

theorem handOn_of_flag (hs : gaSpace p.addr = 2) : s.handOn p = s.toFlags (flagOpsOf p) := by
  have hne : ¬ gaSpace p.addr = 0 := by omega
  cases hop : p.op <;> simp only [State.handOn, State.edgeRequest, if_neg hne, flagOpsOf, operandOf, compareOf, hop]

theorem accept_of_cause {d : DropCause} (hd : acceptCause p = some d) : s.accept p = (s.consume p).dropPkt p.inPort p d := by
  rw [acceptCause] at hd
  simp only [State.accept, hd]

theorem accept_of_tile (hn : acceptCause p = none) (hs : gaSpace p.addr = 1) :
    s.accept p = (s.consume p).enterMesh (s.tileRequest p) := by
  rw [acceptCause] at hn
  simp only [State.accept, hn, if_pos hs]
  rfl

/-- A request that does not enter the mesh awaits as many operations as its handing on adds to those that wait (R341). -/
theorem accept_of_handOn (hn : acceptCause p = none) (hs : gaSpace p.addr ≠ 1) {u : State} {n : Nat} (he : (s.consume p).handOn p = u)
    (hlen : u.mem.inbox.length + u.host.flagIn.length = s.mem.inbox.length + s.host.flagIn.length + n) : s.accept p = u.await p n := by
  have hadded : u.mem.inbox.length + u.host.flagIn.length -
      ((s.consume p).mem.inbox.length + (s.consume p).host.flagIn.length) = n := by
    have hmem : (s.consume p).mem = s.mem := rfl
    have hhost : (s.consume p).host = s.host := rfl
    rw [hmem, hhost]
    omega
  rw [acceptCause] at hn
  rw [State.handOn] at he
  simp only [State.accept, hn, if_neg hs, he, hadded]
  rfl

theorem accept_of_mem (hn : acceptCause p = none) (hs : gaSpace p.addr = 0) :
    s.accept p = ((s.consume p).toChannels (lineOps p)).await p (lineOps p).length := by
  refine accept_of_handOn hn (by omega) (handOn_of_mem hs) ?_
  simp only [State.toChannels, State.consume, List.length_append]
  omega

theorem accept_of_flag (hn : acceptCause p = none) (hs : gaSpace p.addr = 2) :
    s.accept p = ((s.consume p).toFlags (flagOpsOf p)).await p (flagOpsOf p).length := by
  refine accept_of_handOn hn (by omega) (handOn_of_flag hs) ?_
  simp only [State.toFlags, State.consume, List.length_append]
  omega

/-! ## What each of these commands runs -/

theorem exec_read : exec (.read p) s = execRead p s := rfl
theorem exec_write : exec (.write p) s = execWrite p s := rfl
theorem exec_atomic : exec (.atomic p) s = execAtomic p s := rfl
theorem exec_reduceAdd : exec (.reduceAdd p) s = execReduceAdd p s := rfl
theorem exec_circuitData : exec (.circuitData p) s = execCircuitData p s := rfl

/-- Command `c` is that of request `p`. -/
def IsRequest (c : Instr) (p : FabPkt) : Prop :=
  c = .read p ∧ p.op = .read ∨ c = .write p ∧ p.op = .write ∨ c = .atomic p ∧ p.op = .atomic ∨
  c = .reduceAdd p ∧ p.op = .reduceAdd ∨ c = .circuitData p ∧ p.op = .circuitData

theorem IsRequest.eq_read {c : Instr} (h : IsRequest c p) (hop : p.op = .read) : c = .read p := by
  rcases h with ⟨hc, -⟩ | ⟨-, h⟩ | ⟨-, h⟩ | ⟨-, h⟩ | ⟨-, h⟩
  · exact hc
  all_goals cases h.symm.trans hop

theorem IsRequest.eq_circuitData {c : Instr} (h : IsRequest c p) (hop : p.op = .circuitData) : c = .circuitData p := by
  rcases h with ⟨-, h⟩ | ⟨-, h⟩ | ⟨-, h⟩ | ⟨-, h⟩ | ⟨hc, -⟩
  case inr.inr.inr.inr => exact hc
  all_goals cases h.symm.trans hop

theorem IsRequest.isRequest {c : Instr} (h : IsRequest c p) : isRequest p.op = true := by
  rcases h with ⟨-, h⟩ | ⟨-, h⟩ | ⟨-, h⟩ | ⟨-, h⟩ | ⟨-, h⟩ <;> rw [h] <;> rfl

/-- A request that no engine sends, or of a kind that no engine's requests have a meaning of their own for, is accepted or refused. -/
theorem IsRequest.exec_eq {c : Instr} (h : IsRequest c p) (hsrc : p.srcEngine = false ∨ (p.op ≠ .circuitData ∧ p.op ≠ .read)) :
    exec c s = done s (s.accept p) := by
  rcases h with ⟨rfl, h⟩ | ⟨rfl, h⟩ | ⟨rfl, h⟩ | ⟨rfl, h⟩ | ⟨rfl, h⟩
  · have he : p.srcEngine = false := hsrc.resolve_right fun hne => hne.2 h
    simp [exec_read, execRead, h, he]
  · simp [exec_write, execWrite, h]
  · simp [exec_atomic, execAtomic, h]
  · simp [exec_reduceAdd, execReduceAdd, h]
  · have he : p.srcEngine = false := hsrc.resolve_right fun hne => hne.1 h
    simp [exec_circuitData, execCircuitData, h, he]

/-! ## What a request does -/

/-- From `s` to `t`, request `p` has been taken and awaits `n` operations. -/
def Taken (s t : State) (p : FabPkt) (n : Nat) : Prop :=
  t.fab.delivered = s.fab.delivered.erase p ∧ t.fab.switchQ = s.fab.switchQ ∧ t.fab.inReqs = s.fab.inReqs ++ [(p, n, none)]

variable {c : Instr}

/-- A request that is not accepted is answered with its cause (R342, R349). -/
theorem does_refused (hc : Clean s) (hr : isRequest p.op = true) (he : exec c s = done s (s.accept p)) {d : DropCause}
    (hd : acceptCause p = some d) (hm : p.src ≠ s.moduleId) :
    Does c s [.fab] fun t => t.fab.delivered = s.fab.delivered.erase p ∧
      ∃ a : FabPkt, t.fab.switchQ = s.fab.switchQ ++ [(63, a)] ∧ a.op = .errorReply ∧ a.aop = dropCode d ∧ a.tag = p.tag ∧
        (p.src < 2 ^ 14 → a.dest = p.src) := by
  obtain ⟨f, a, ha, hdel, hq, hports, hop, haop, htag, hdest⟩ := dropPkt_of_request (s := s.consume p) hr hm p.inPort d
  rw [accept_of_cause hd, ha] at he
  refine Does.of_frame he ((((Frame.refl hc).consume (by simp) p).setFab (by simp) hports).toSwitch (by simp) a) ⟨hdel, a, ?_, hop, haop,
    htag, hdest⟩
  exact congrArg (· ++ [(63, a)]) hq

/-- A request on a local store enters the mesh toward its tile (R51). -/
theorem does_tileRequest (hc : Clean s) (he : exec c s = done s (s.accept p)) (hn : acceptCause p = none) (hs : gaSpace p.addr = 1) :
    Does c s [.fab, .mesh] fun t => t.fab.delivered = s.fab.delivered.erase p ∧ t.fab.switchQ = s.fab.switchQ ∧
      t.mesh = s.mesh ++ [s.tileRequest p] :=
  Does.of_frame (he.trans (by rw [accept_of_tile hn hs])) (((Frame.refl hc).consume (by simp) p).enterMesh (by simp) _) ⟨rfl, rfl, rfl⟩

/-- A request on stack memory is handed on as its line operations (R343, R344). -/
theorem does_lines (hc : Clean s) (he : exec c s = done s (s.accept p)) (hn : acceptCause p = none) (hs : gaSpace p.addr = 0) :
    Does c s [.fab, .inbox] fun t => Taken s t p (lineOps p).length ∧ t.mem.inbox = s.mem.inbox ++ lineOps p :=
  Does.of_frame (he.trans (by rw [accept_of_mem hn hs]))
    ((((Frame.refl hc).consume (by simp) p).toChannels (by simp) (lineOps p)).await (by simp) p _) ⟨⟨rfl, rfl, rfl⟩, rfl⟩

/-- A request on a flag is handed on as its flag operations (R345). -/
theorem does_flags (hc : Clean s) (he : exec c s = done s (s.accept p)) (hn : acceptCause p = none) (hs : gaSpace p.addr = 2) :
    Does c s [.fab, .host] fun t => Taken s t p (flagOpsOf p).length ∧ t.host.flagIn = s.host.flagIn ++ flagOpsOf p :=
  Does.of_frame (he.trans (by rw [accept_of_flag hn hs]))
    ((((Frame.refl hc).consume (by simp) p).toFlags (by simp) (flagOpsOf p)).await (by simp) p _) ⟨⟨rfl, rfl, rfl⟩, rfl⟩

/-! ## The checkpoint engine -/

theorem updRas_updRas (f g : Ras → Ras) : (s.updRas f).updRas g = s.updRas fun r => g (f r) := rfl

/-- What reaches the checkpoint engine changes its own state alone. -/
theorem ckArrive_eq (p : FabPkt) : ∃ f : Ras → Ras, s.ckArrive p = s.updRas f := by
  rw [State.ckArrive]
  split
  case h_1 => exact ⟨id, rfl⟩
  case h_2 k _ =>
    extract_lets o bs restoring j ps ps' u
    split_ifs
    · rw [State.ckMoved, State.updCk, State.updCk, updRas_updRas]
      exact ⟨_, rfl⟩
    · exact ⟨id, rfl⟩
    · split
      case h_1 =>
        extract_lets z
        split_ifs
        · exact ⟨_, updRas_updRas _ _⟩
        · exact ⟨_, rfl⟩
      case h_2 => exact ⟨_, rfl⟩

theorem Frame.ckArrive (h : Frame l s t) (hl : .ras ∈ l) (p : FabPkt) : Frame l s (t.ckArrive p) := by
  obtain ⟨f, hf⟩ := ckArrive_eq (s := t) p
  rw [hf]
  exact h.updRas hl f

theorem ckArrive_fab (p : FabPkt) : (s.ckArrive p).fab = s.fab := by
  obtain ⟨f, hf⟩ := ckArrive_eq (s := s) p
  rw [hf, State.updRas_fab]

/-- The checkpoint engine answers the read of a slot's header with its bytes (R496). -/
theorem does_headerRead (hc : Clean s) {bs : List Byte} (hop : p.op = .read) (hse : p.srcEngine = true) (hst : p.srcTile = 0x1800)
    (hs : gaSpace p.addr = 0) (hh : s.headerAt (gaOff p.addr) = some bs) (hz : s.frozenAs 0x1800 = false) :
    Does (.read p) s [.fab] fun t => t.fab.delivered = s.fab.delivered.erase p ∧
      ∃ a : FabPkt, t.fab.switchQ = s.fab.switchQ ++ [(63, a)] ∧ a.op = .readReply ∧ a.tag = p.tag ∧ a.payload = toFlits bs := by
  obtain ⟨a, ha, haop, htag, hpay⟩ := replyFab_read (s := s.consume p) hop (toFlits bs)
  refine Does.of_frame ?_ (((Frame.refl hc).consume (by simp) p).toSwitch (by simp) a) ⟨rfl, a, rfl, haop, htag, hpay⟩
  simp [exec_read, execRead, hop, hse, hst, hs, hh, hz, ha]

/-- The circuit data of another module's checkpoint engine goes to this module's, and is acknowledged (R489). -/
theorem does_circuitData_of_checkpoint (hc : Clean s) (hop : p.op = .circuitData) (hse : p.srcEngine = true) (hst : p.srcTile = 0x1800)
    (hz : s.frozenAs 0x1800 = false) : Does (.circuitData p) s [.fab, .ras] fun t => t.fab.delivered = s.fab.delivered.erase p ∧
      ∃ a : FabPkt, t.fab.switchQ = s.fab.switchQ ++ [(63, a)] ∧ a.op = .ack ∧ a.tag = p.tag := by
  obtain ⟨a, ha, haop, htag⟩ := replyFab_circuitData (s := (s.consume p).ckArrive p) hop []
  refine Does.of_frame (t := ((s.consume p).ckArrive p).toSwitch a) ?_
    ((((Frame.refl hc).consume (by simp) p).ckArrive (by simp) p).toSwitch (by simp) a) ⟨?_, a, ?_, haop, htag⟩
  · simp [exec_circuitData, execCircuitData, hop, hse, hst, hz, ha]
  · exact congrArg Fab.delivered (ckArrive_fab p)
  · exact congrArg (·.switchQ ++ [(63, a)]) (ckArrive_fab p)

/-- Settles O34: by the cases of the request and of the space that it addresses. -/
theorem requestsAtDestination : Obligations.RequestsAtDestination := by
  unfold Obligations.RequestsAtDestination
  intro s p c hc hreq
  have hr : IsRequest c p := hreq
  refine ⟨fun hsrc => ⟨fun d hd hm => ?refused, fun hn hs => ?memory, fun hn hs => ?tile, fun hn hs => ?flag⟩,
    fun bs hop => ?header, fun hop => ?circuit⟩
  case refused => exact does_refused hc hr.isRequest (hr.exec_eq hsrc) hd hm
  case memory =>
    have hdoes := does_lines hc (hr.exec_eq hsrc) hn hs
    refine ⟨fun hop => ?_, fun hop => ?_, fun hop => ?_, fun hop => ?_⟩
    · rwa [lineOps_read hop] at hdoes
    · rw [lineOps_write hop] at hdoes
      exact hdoes.imp fun _ => And.symm
    · rw [lineOps_reduceAdd hop] at hdoes
      exact hdoes.imp fun _ => And.symm
    · rwa [lineOps_atomic hop] at hdoes
  case tile => exact does_tileRequest hc (hr.exec_eq hsrc) hn hs
  case flag =>
    have hdoes := does_flags hc (hr.exec_eq hsrc) hn hs
    refine ⟨fun hop => ?_, fun hop => ?_, fun hop => ?_, fun hop => ?_⟩
    · rwa [flagOpsOf_read hop] at hdoes
    · rw [flagOpsOf_write hop] at hdoes
      exact hdoes.imp fun _ => And.symm
    · rw [flagOpsOf_reduceAdd hop] at hdoes
      exact hdoes.imp fun _ => And.symm
    · rwa [flagOpsOf_atomic hop] at hdoes
  case header =>
    cases hr.eq_read hop
    exact fun hse hst hs hh hz => does_headerRead hc hop hse hst hs hh hz
  case circuit =>
    cases hr.eq_circuitData hop
    exact does_circuitData_of_checkpoint hc hop

end Sys2Proof.Machine
end

section
/-! The tile cycle of a tile with nothing in flight (R94, R96): what such a cycle leaves alone, and a word that names no generator, MAC
array, bank or FP64 operation. -/

namespace Sys2Proof.Machine

variable {s : State} {x : Tile} {n k w : Nat}

/-! ## A tile written twice -/

theorem adel_ains_same {α : Type} (m : Assoc α) (k : Nat) (v : α) (h : ∀ p ∈ m, p.1 ≠ k) : adel (ains m k v) k = m := by
  have hm : adel m k = m := List.filter_eq_self.mpr fun p hp => by simpa using h p hp
  induction m with
  | nil => simp [ains, adel]
  | cons p r ih =>
    obtain ⟨hp, hr⟩ := List.forall_mem_cons.mp h
    by_cases hlt : k < p.1
    · simpa [ains, hlt, adel] using hm
    · have hr' := ih hr (List.filter_eq_self.mpr fun p hp => by simpa using hr p hp)
      simpa [ains, hlt, adel, hp] using hr'

theorem adel_aset_same {α : Type} [DecidableEq α] (d : α) (m : Assoc α) (k : Nat) (v : α) : adel (aset d m k v) k = adel m k := by
  have hne : ∀ p ∈ adel m k, p.1 ≠ k := fun p hp => by simpa using (List.mem_filter.mp hp).2
  rw [aset]
  split
  · exact List.filter_eq_self.mpr fun p hp => by simpa using hne p hp
  · exact adel_ains_same _ _ _ hne

@[simp] theorem State.setTile_setTile (s : State) (n : Nat) (x y : Tile) : (s.setTile n x).setTile n y = s.setTile n y := by
  have h : aset s.tileDef (aset s.tileDef s.tiles n x) n y = aset s.tileDef s.tiles n y := by
    simp only [aset.eq_def _ _ _ y, aput, adel_aset_same]
  simp only [State.setTile, h]

theorem State.tile_setTile_same (s : State) (n : Nat) (x : Tile) : (s.setTile n x).tile n = x := by simp

@[simp] theorem State.updTile_setTile (s : State) (n : Nat) (x : Tile) (f : Tile → Tile) :
    (s.setTile n x).updTile n f = s.setTile n (f x) := by simp [State.updTile]

/-! ## A cycle with nothing in flight -/

/-- No access, write, result, conversion, drain or request of the tile is under way, and its local port and its bank pairs are free. -/
def Tile.Still (x : Tile) : Prop :=
  x.reads = [] ∧ x.writes = [] ∧ x.zeros = [] ∧ x.lsPend = [] ∧ x.pend64 = [] ∧ x.resDue = [] ∧ x.drain = none ∧ x.sendQ = [] ∧
  x.inject = 0 ∧ x.port = [] ∧ x.cvt = none ∧ x.scrubPair = none ∧ x.lost = false

theorem TileQuiet.still (h : TileQuiet x) (hs : x.scrubPair = none) : x.Still := by
  obtain ⟨h1, h2, h3, h4, h5, h6, h7, h8, h9, h10, -, h11, -, -, h12, -, -⟩ := h
  exact ⟨h1, h2, h3, h4, h5, h6, h7, h8, h9, h10, h12, hs, h11⟩

theorem Tile.Still.due (h : x.Still) : x.due = [] := by
  obtain ⟨hr, hw, -, -, -, -, hd, -⟩ := h
  simp [Tile.due, hr, hw, hd]

theorem Tile.Still.granted (h : x.Still) : x.granted [] = [] := by
  simp [Tile.granted, h.due]

theorem Tile.Still.losers (h : x.Still) (g : List Nat) : x.losers g = [] := by simp [Tile.losers, h.due]

theorem makeReads_of_still (h : x.Still) : (s.setTile n x).makeReads n k = s.setTile n x := by
  obtain ⟨hr, -, hz, -⟩ := h
  have hx : { x with reads := [], zeros := [] } = x := by rw [← hr, ← hz]
  simp [State.makeReads, hr, hz, hx]

theorem makeWrites_of_still (h : x.Still) : (s.setTile n x).makeWrites n k = s.setTile n x := by
  obtain ⟨-, hw, -⟩ := h
  simp [State.makeWrites, hw]

theorem landWrites_of_still (h : x.Still) : (s.setTile n x).landWrites n k = s.setTile n x := by
  obtain ⟨-, -, -, hl, -⟩ := h
  simp [State.landWrites, hl]

theorem landPairs_of_still (h : x.Still) : x.landPairs k = x := by
  obtain ⟨-, -, -, -, hp, -⟩ := h
  have hx : { x with pend64 := [] } = x := by rw [← hp]
  simp [Tile.landPairs, hp, hx]

theorem residues_of_still (h : x.Still) : (s.setTile n x).residues n k = s.setTile n x := by
  obtain ⟨-, -, -, -, -, hr, -⟩ := h
  simp [State.residues, hr]

theorem cvtCycle_of_still (h : x.Still) : (s.setTile n x).cvtCycle n k = s.setTile n x := by
  obtain ⟨-, -, -, -, -, -, -, -, -, -, hc, -⟩ := h
  simp [State.cvtCycle, hc]

theorem issueNext_of_still (h : x.Still) : (s.setTile n x).issueNext n = s.setTile n x := by
  obtain ⟨-, -, -, -, -, -, -, hq, -⟩ := h
  simp [State.issueNext, hq]

/-- A cycle of a tile with nothing in flight advances its cycle count and changes nothing else. -/
theorem tickWith_of_still (h : x.Still) : (s.setTile n x).tickWith n [] = s.setTile n { x with tc := x.tc + 1 } := by
  obtain ⟨-, -, -, -, -, -, hdrain, -, hinject, hport, -, hscrub, hlost⟩ := id h
  have hl : { x with lost := false } = x := by rw [← hlost]
  simp only [State.tickWith, State.updTile_setTile, State.tile_setTile_same, List.foldl_nil, List.isEmpty_nil, Bool.not_true, hl,
    makeReads_of_still h, makeWrites_of_still h, landWrites_of_still h, landPairs_of_still h, residues_of_still h,
    cvtCycle_of_still h]
  split
  next d hd => simp [hdrain] at hd
  next => simp [issueNext_of_still h, hinject, hport, hscrub]

theorem tick_of_still (h : x.Still) : (s.setTile n x).tick n = s.setTile n { x with tc := x.tc + 1 } := by
  rw [State.tick, State.tile_setTile_same, h.losers, tickWith_of_still h]

/-! ## A word that leaves generators, MAC array, banks and FP64 unit alone -/

/-- A field within a field that is 0 is 0. -/
theorem nfld_eq_zero_of_within {w lo len lo' len' : Nat} (h : nfld w lo len = 0) (hlo : lo ≤ lo') (hhi : lo' + len' ≤ lo + len) :
    nfld w lo' len' = 0 := by
  refine Nat.eq_of_testBit_eq fun i => ?_
  have hi := congrArg (Nat.testBit · (lo' - lo + i)) h
  simp only [nfld, Nat.testBit_mod_two_pow, Nat.testBit_shiftRight, Nat.zero_testBit, Bool.and_eq_false_iff,
    decide_eq_false_iff_not] at hi ⊢
  rcases hi with hi | hi
  · exact .inl (by omega)
  · exact .inr (by rwa [show lo' + i = lo + (lo' - lo + i) by omega])

/-- Word w names no generator, no DOT, no bank operation and no FP64 operation. -/
def NamesNoUnit (w : Nat) : Prop :=
  (∀ n < 4, wAgOp w n = 0 ∧ wAgStep w n = false) ∧ wFmtX w = 0 ∧ wFmtY w = 0 ∧ wBankOp w = 0 ∧ wF64Op w = 0

theorem NamesNoUnit.of_fields (hag : nfld w 16 88 = 0) (hf64 : nfld w 136 4 = 0) : NamesNoUnit w := by
  refine ⟨fun n hn => ⟨?_, ?_⟩, ?_, ?_, ?_, hf64⟩
  · exact nfld_eq_zero_of_within hag (by omega) (by omega)
  · rw [wAgStep, nfld_eq_zero_of_within hag (by omega) (by omega)]; rfl
  · exact nfld_eq_zero_of_within hag (by omega) (by omega)
  · exact nfld_eq_zero_of_within hag (by omega) (by omega)
  · exact nfld_eq_zero_of_within hag (by omega) (by omega)

theorem any_range_four_eq_false {p : Nat → Bool} (h : ∀ n < 4, p n = false) : (List.range 4).any p = false := by
  simpa using h

theorem agCount_eq_zero {p : Nat → Bool} (h : ∀ n < 4, p n = false) : agCount p = 0 := by
  simpa [agCount] using h

section
variable (hw : NamesNoUnit w)
include hw

theorem NamesNoUnit.famOf : famOf (wFmtX w) (wFmtY w) = none := by
  obtain ⟨-, hx, hy, -, -⟩ := hw
  rw [hx, hy]
  rfl

/-- A question about the generators that a word names has no answer. -/
theorem NamesNoUnit.any_agOp {p : Nat → Nat → Bool} (h : ∀ n, p n 0 = false) : (List.range 4).any (fun n => p n (wAgOp w n)) = false :=
  any_range_four_eq_false fun n hn => by rw [(hw.1 n hn).1, h]

theorem NamesNoUnit.agCount {p : Nat → Nat → Bool} (h : ∀ n, p n 0 = false) : agCount (fun n => p n (wAgOp w n)) = 0 :=
  agCount_eq_zero fun n hn => by rw [(hw.1 n hn).1, h]

theorem NamesNoUnit.agVregs : agVregs w = [] := by
  refine List.filterMap_eq_nil_iff.mpr fun n hn => ?_
  rw [(hw.1 n (List.mem_range.mp hn)).1]
  rfl

theorem NamesNoUnit.agNamed : agNamed w = [] := by
  refine List.filter_eq_nil_iff.mpr fun n hn => ?_
  have hn := List.mem_range.mp hn
  have hp : n ^^^ 1 < 4 := Nat.xor_lt_two_pow (n := 2) hn (by omega)
  obtain ⟨hop, hstep⟩ := hw.1 n hn
  simp [hop, hstep, (hw.1 _ hp).1]

theorem NamesNoUnit.offers : x.offers w = false := by
  refine hw.any_agOp (p := fun n o => ((o == 2 && wAgPort w n != 4) || o == 5 || o == 6) && dGl (x.gen n).desc
    || (o == 1 && wAgPort w n == 5)) fun n => ?_
  simp

theorem NamesNoUnit.wordPairs (lim : Option Nat) : s.wordPairs n w lim = [] := by
  refine List.filterMap_eq_nil_iff.mpr fun m hm => ?_
  simp [(hw.1 m (List.mem_range.mp hm)).1]

/-- A word that names no such unit waits for its vector registers and the vector unit alone (R96). -/
theorem NamesNoUnit.unitStall : x.unitStall w =
    ((vecReads w ++ vecWrites w).any (fun r => decide (aget 0 x.vready r > x.tc) || aget 0 x.gatherLeft r != 0)
      || (wVop w != 0 && wVop w != 26 && wVop w != 27 && decide (x.vecFree > x.tc))) := by
  obtain ⟨-, -, -, hbank, hf64⟩ := id hw
  have hx := hw.agCount (p := fun n o => o == 1 && wAgPort w n == 0) (by simp)
  have hy := hw.agCount (p := fun n o => o == 1 && wAgPort w n == 1) (by simp)
  have hread := hw.any_agOp (p := fun n o => o == 1 && wAgPort w n == 3 && decide (f64Takes w n < (x.gen n).f64.length)) (by simp)
  have hwrite := hw.agCount (p := fun n o => o == 2 && wAgPort w n == 3) (by simp)
  have hdep := hw.agCount (p := fun n o => o == 1 && wAgPort w n == 5) (by simp)
  simp [Tile.unitStall, hw.famOf, hw.agVregs, hw.agNamed, hw.offers, hbank, hf64, hx, hy, hread, hwrite, hdep]

theorem NamesNoUnit.blockOpen (hseq : wSeqOp w ≠ 7) : x.blockOpen w = false := by
  obtain ⟨-, -, -, hbank, -⟩ := id hw
  simp [Tile.blockOpen, hbank, hw.famOf, hseq]

theorem NamesNoUnit.agField {m : Nat} (hm : m < 4) (lim : Option Nat) (wid : WordId) (before : Tile) :
    s.agField n w m lim wid before = s := by
  obtain ⟨hop, hstep⟩ := hw.1 m hm
  simp [State.agField, hop, hstep]

theorem NamesNoUnit.actGens {gens : List Nat} (hg : ∀ m ∈ gens, m < 4) (before : Tile) : s.actGens n w gens before = s := by
  rw [State.actGens]
  induction gens with
  | nil => rfl
  | cons m gens ih =>
    obtain ⟨hm, hr⟩ := List.forall_mem_cons.mp hg
    rw [List.foldl_cons, hw.agField hm, ih hr]

theorem NamesNoUnit.actUnits (wid : WordId) (before : Tile) : s.actUnits n w {} wid before =
    (s.vecField n w (before.tailc w) wid).updTile n (fun x => (x.cntField w).cmpField w) := by
  obtain ⟨-, -, -, hbank, hf64⟩ := id hw
  have hdot : ∀ c bad, s.dot n w c bad = s := fun c bad => by simp [State.dot, hw.famOf]
  have hb : ∀ before, s.bankField n w wid before = s := fun before => by simp [State.bankField, hbank]
  have hf : ∀ bad, s.f64Field n w bad = s := fun bad => by simp [State.f64Field, hf64]
  simp [State.actUnits, hbank, hdot, hb, hf]

end

/-! ## The counter and comparator groups -/

/-- The CNT group changes the counters and their bindings to replies alone (R95). -/
theorem cntField_eq (x : Tile) (w : Nat) :
    x.cntField w = { x with cnts := (x.cntField w).cnts, replyOf := (x.cntField w).replyOf } := by
  rw [Tile.cntField.eq_def]
  dsimp only
  split <;> rfl

/-- A word with K_SET 0 leaves the comparators (R92). -/
theorem cmpField_of_not_set (hk : wKSet w = false) (x : Tile) : x.cmpField w = x := by simp [Tile.cmpField, hk]

theorem cntField_of_zero (hc : wCntOp w = 0) (x : Tile) : x.cntField w = x := by simp [Tile.cntField, hc]

/-! ## The word acts -/

/-- The tile after the sequencer has gone on past word w, which the tile `before` it met (R94, R95). -/
def Tile.goneOn (x before : Tile) (w : Nat) : Tile :=
  { x with cw := nextAddr x w before.cw (before.cmpTrue (wSeqSel w) (laneCount (wLw w))), waitEnd := none, st := .run, held := none }

theorem goOn_setTile (before : Tile) : (s.setTile n x).goOn n w before = s.setTile n (x.goneOn before w) := by
  simp [State.goOn, Tile.goneOn]

/-- The tile that has begun one word more. -/
def Tile.issued (x : Tile) : Tile := { x with serial := x.serial + 1 }

theorem beforeWord_of_whole (hp : x.part = none) : x.beforeWord = x := by
  have hg : (x.part.map (·.gens)).getD x.gens = x.gens := by rw [hp]; rfl
  rw [Tile.beforeWord, hg]

section
variable {y : Tile}

/-- A word that names no unit but the vector unit, which makes the tile y, acts and sets its counter (R94). -/
theorem finish_of_namesNoUnit (hw : NamesNoUnit w) (hk : wKSet w = false) (hseq : wSeqOp w ≠ 7) (hp : x.part = none) (hy : y.part = none)
    (hv : ∀ wid, (s.setTile n x.issued).vecField n w (x.tailc w) wid = s.setTile n y) :
    (s.setTile n x).finish n w {} = s.setTile n ((y.cntField w).goneOn x w) := by
  obtain ⟨-, -, -, hbank, -⟩ := id hw
  have hgens : ∀ m ∈ (List.range 4).filter (fun m => !((x.part.map (·.made)).getD []).contains m), m < 4 :=
    fun m hm => List.mem_range.mp (List.mem_filter.mp hm).1
  have hpart : { y.cntField w with part := none } = y.cntField w := by
    rw [cntField_eq, ← hy]
  rw [Tile.issued] at hv
  have hact : (s.setTile n x).actWord n w {} = s.setTile n (y.cntField w) := by
    simp only [State.actWord, State.tile_setTile_same, beforeWord_of_whole hp, State.updTile_setTile,
      show x.part.isNone = true by rw [hp]; rfl, if_true, hw.actGens hgens, hw.actUnits, hv, cmpField_of_not_set hk, hpart]
  simp only [State.finish, State.tile_setTile_same, beforeWord_of_whole hp, hact, hseq, if_false, hbank]
  simp [goOn_setTile]

/-- On a tile with nothing in flight such a word acts in one cycle, unless a register or the vector unit makes it wait (R96). -/
theorem tryAct_of_namesNoUnit (hw : NamesNoUnit w) (hk : wKSet w = false) (hseq : wSeqOp w ≠ 7) (hstill : x.Still) (hp : x.part = none)
    (hstall : x.unitStall w = false) (hy : y.Still) (hyp : y.part = none) (hye : y.kend = none)
    (hv : ∀ wid, (s.setTile n x.issued).vecField n w (x.tailc w) wid = s.setTile n y) :
    (s.setTile n x).tryAct n w {} = s.setTile n { (y.cntField w).goneOn x w with tc := y.tc + 1 } := by
  obtain ⟨-, -, -, -, -, -, -, -, -, -, -, -, hlost⟩ := id hstill
  have hgone : ((y.cntField w).goneOn x w).Still ∧ ((y.cntField w).goneOn x w).kend = none ∧
      ((y.cntField w).goneOn x w).tc = y.tc := by
    rw [cntField_eq]
    exact ⟨hy, hye, rfl⟩
  obtain ⟨hs, he, htc⟩ := hgone
  have hfinish := finish_of_namesNoUnit hw hk hseq hp hyp hv
  simp [State.tryAct, hp, hlost, hstall, hseq, hw.blockOpen hseq, hw.wordPairs, hstill.granted, hstill.losers, hfinish, he,
    tickWith_of_still hs, htc]

end

/-! ## A word that names no unit is legal -/

theorem famOf_none_fmt (hw : NamesNoUnit w) : (if wFmtX w = 0 ∧ wFmtY w = 0 then false else (famOf (wFmtX w) (wFmtY w)).isNone) = false := by
  obtain ⟨-, hx, hy, -, -⟩ := hw
  rw [if_pos ⟨hx, hy⟩]

/-- A word of SEQ, VEC and CNT fields alone is legal where its VEC group is (R93). -/
theorem cwIllegal_of_seq_vec_cnt (hmac : nfld w 13 91 = 0) (hf64 : nfld w 135 33 = 0) (hrest : nfld w 191 65 = 0) (hseq : wSeqOp w ≤ 5)
    (hcnt : wCntOp w ≤ 5) (hlw : wLw w ≤ 2) (hvop : wVop w ≠ 26 ∧ wVop w ≠ 27) (hvec : vecIllegal w = false) (inLoop : Bool) :
    cwIllegal inLoop w = false := by
  have hw : NamesNoUnit w :=
    .of_fields (nfld_eq_zero_of_within hmac (by omega) (by omega)) (nfld_eq_zero_of_within hf64 (by omega) (by omega))
  obtain ⟨hag, -, -, hbank, hf⟩ := id hw
  have hargs : ∀ n < 4, wAgArg w n = 0 := fun n hn => nfld_eq_zero_of_within hmac (by omega) (by omega)
  have hagIllegal : (List.range 4).any (agIllegal w) = false :=
    any_range_four_eq_false fun n hn => by simp [agIllegal, (hag n hn).1, hargs n hn]
  have hsrc : (List.range 3).any (fun k => wSrc w k == 7) = false := by
    have : ∀ k < 3, wSrc w k = 0 := fun k hk => nfld_eq_zero_of_within hf64 (by omega) (by omega)
    simp +contextual [this]
  have hreserved : reservedIllegal w = false := by
    have hm : nfld w 15 1 = 0 ∧ nfld w 102 2 = 0 ∧ wFmtX w = 0 ∧ wFmtY w = 0 := by
      and_intros <;> exact nfld_eq_zero_of_within hmac (by omega) (by omega)
    have hp : nfld w 135 1 = 0 ∧ nfld w 151 1 = 0 ∧ nfld w 165 3 = 0 ∧ wDst w = 0 ∧ wPktOp w = 0 := by
      and_intros <;> exact nfld_eq_zero_of_within hf64 (by omega) (by omega)
    have hr : nfld w 191 1 = 0 ∧ nfld w 203 1 = 0 ∧ nfld w 237 1 = 0 ∧ nfld w 248 8 = 0 ∧ wKB w = 0 ∧ wDrainFmt w = 0 := by
      and_intros <;> exact nfld_eq_zero_of_within hrest (by omega) (by omega)
    have hl : ¬ wLw w = 3 := by omega
    have hc : ¬ wCntOp w = 7 := by omega
    simp [reservedIllegal, hm, hp, hr, hbank, hf, hagIllegal, hsrc, hl, hc]
  have hopen : wPktOpen w = false := by rw [wPktOpen, nfld_eq_zero_of_within hf64 (by omega) (by omega)]; rfl
  have hclose : wPktClose w = false := by rw [wPktClose, nfld_eq_zero_of_within hf64 (by omega) (by omega)]; rfl
  have hx := hw.agCount (p := fun n o => o == 1 && wAgPort w n == 0) (by simp)
  have hy := hw.agCount (p := fun n o => o == 1 && wAgPort w n == 1) (by simp)
  have hread := hw.agCount (p := fun _ o => o == 5) (by simp)
  have hwrite := hw.agCount (p := fun _ o => o == 6) (by simp)
  have hloop : loopIllegal w = false := by
    have hany : ∀ m < 4, ¬ wAgOp w m = 2 ∧ ¬ wAgOp w m = 3 := fun m hm => by simp [(hag m hm).1]
    have hs6 : ¬ wSeqOp w = 6 := by omega
    have hs7 : ¬ wSeqOp w = 7 := by omega
    have hc6 : ¬ wCntOp w = 6 := by omega
    simp [loopIllegal, hopen, hf, hbank, hs6, hs7, hc6]
    exact hany
  have hs6 : ¬ wSeqOp w = 6 := by omega
  simp [cwIllegal, hreserved, famOf_none_fmt hw, hbank, hx, hy, hopen, hclose, namesPair, hf, hs6, hvec, hread, hwrite, hvop, hloop]

/-! ## A running tile fetches -/

/-- The tile that holds the word which it has fetched. -/
def Tile.fetched (x : Tile) : Tile := { x with held := some (BitVec.ofNat 256 x.cur) }

/-- A running tile that fetches a legal word, no WAIT, without a parity error tries to act on it in the same cycle (R33, R94). -/
theorem tileCycle_of_run (hr : s.tileRuns n = true) (hst : (s.tile n).st = .run) (hk : (s.tile n).kend = none)
    (hp : (s.tile n).parityBad = false) (hl : cwIllegal (s.tile n).kloop.isSome (s.tile n).cur = false)
    (hseq : wSeqOp (s.tile n).cur ≠ 6) :
    s.tileCycle n {} = (s.setTile n (s.tile n).fetched).tryAct n (s.tile n).cur {} := by
  have hw : (s.tile n).waiting = false := by simp [Tile.waiting, hst]
  simp [State.tileCycle, State.lsUpset, hr, hst, hk, hp, hl, hseq, hw, Tile.fetched]

theorem exec_controlWord : exec (.controlWord n {}) s = done s (s.tileCycle n {}) := rfl

/-! ## A word of SEQ and CNT fields alone -/

/-- The value that CNT_OP gives the counter that CNT_SEL names, the lanes being 8 (R95). -/
def Tile.cntValue (x : Tile) (w : Nat) : W32 :=
  match wCntOp w with
  | 0 => x.counter (wCntSel w)
  | 1 => x.counter (wCntSel w) + BitVec.ofInt 32 (sext 16 (wCntConst w))
  | 2 => BitVec.ofNat 32 (wCntConst w)
  | 3 => x.counter (wCntSrc w)
  | 4 => 8
  | _ => if x.counter (wCntSel w) < 8 then 0 else x.counter (wCntSel w) - 8

theorem laneCount_zero : laneCount 0 = 8 := rfl

/-- A counter less the lanes stops at 0 (R95). -/
theorem ofNat_toNat_sub_eight (c : W32) : BitVec.ofNat 32 (c.toNat - 8) = if c < 8 then 0 else c - 8 := by
  split <;> bv_omega

theorem counter_cntField (hlw : wLw w = 0) (hop : wCntOp w ≤ 5) (k : Nat) :
    (x.cntField w).counter k = if k = wCntSel w then x.cntValue w else x.counter k := by
  have hcases : wCntOp w = 0 ∨ wCntOp w = 1 ∨ wCntOp w = 2 ∨ wCntOp w = 3 ∨ wCntOp w = 4 ∨ wCntOp w = 5 := by omega
  rcases hcases with h | h | h | h | h | h
  · simp +contextual [Tile.cntField, Tile.cntValue, h]
  · simp [Tile.cntField, Tile.cntValue, Tile.setCounter, Tile.counter, h]
  · simp [Tile.cntField, Tile.cntValue, Tile.setCounter, Tile.counter, h]
  · simp [Tile.cntField, Tile.cntValue, Tile.setCounter, Tile.counter, h]
  · simp [Tile.cntField, Tile.cntValue, Tile.setCounter, Tile.counter, h, hlw, laneCount_zero]
  · simp [Tile.cntField, Tile.cntValue, Tile.setCounter, Tile.counter, h, hlw, laneCount_zero, ofNat_toNat_sub_eight]
    rfl

/-- The tile whose word has set its counter. -/
def Tile.counted (x : Tile) : Tile := x.fetched.issued.cntField x.cur

/-- The tile after a word of SEQ and CNT fields alone, which it acted on in one cycle (R94, R95). -/
def Tile.seqCntActed (x : Tile) : Tile := { x.counted.goneOn x.fetched x.cur with tc := x.tc + 1 }

section
variable (hmac : nfld w 13 155 = 0)
include hmac

theorem NamesNoUnit.of_seq_cnt : NamesNoUnit w :=
  .of_fields (nfld_eq_zero_of_within hmac (by omega) (by omega)) (nfld_eq_zero_of_within hmac (by omega) (by omega))

theorem wVop_wLw_of_seq_cnt : wVop w = 0 ∧ wLw w = 0 := by
  constructor <;> exact nfld_eq_zero_of_within hmac (by omega) (by omega)

theorem vecIllegal_of_seq_cnt : vecIllegal w = false := by
  have hv : wVsub w = 0 ∧ wShift w = 0 := by constructor <;> exact nfld_eq_zero_of_within hmac (by omega) (by omega)
  obtain ⟨hvop, hlw⟩ := wVop_wLw_of_seq_cnt hmac
  simp [vecIllegal, hvop, hlw, hv]

end

theorem controlWord_seq_cnt (hr : s.tileRuns n = true) (hst : (s.tile n).st = .run) (hq : TileQuiet (s.tile n))
    (hs : (s.tile n).scrubPair = none) (hp : (s.tile n).parityBad = false) (hmac : nfld (s.tile n).cur 13 155 = 0)
    (hrest : nfld (s.tile n).cur 191 65 = 0) (hseq : wSeqOp (s.tile n).cur ≤ 5) (hcnt : wCntOp (s.tile n).cur ≤ 5) :
    s.tileCycle n {} = s.setTile n (s.tile n).seqCntActed := by
  have hstill : (s.tile n).Still := hq.still hs
  obtain ⟨-, -, -, -, -, -, -, -, -, -, hpart, -, hkend, -⟩ := hq
  obtain ⟨hvop, hlw⟩ := wVop_wLw_of_seq_cnt hmac
  have hw := NamesNoUnit.of_seq_cnt hmac
  have hlegal := cwIllegal_of_seq_vec_cnt (nfld_eq_zero_of_within hmac (by omega) (by omega))
    (nfld_eq_zero_of_within hmac (by omega) (by omega)) hrest hseq hcnt (by omega) (by omega) (vecIllegal_of_seq_cnt hmac)
    (s.tile n).kloop.isSome
  have hkset : wKSet (s.tile n).cur = false := by rw [wKSet, nfld_eq_zero_of_within hrest (by omega) (by omega)]; rfl
  rw [tileCycle_of_run hr hst hkend hp hlegal (by omega)]
  refine tryAct_of_namesNoUnit hw hkset (by omega) (x := (s.tile n).fetched) hstill hpart ?_
    (y := (s.tile n).fetched.issued) hstill hpart hkend ?_
  · simp [hw.unitStall, vecReads, vecWrites, hvop]
  · intro wid
    simp [State.vecField, hvop]

theorem seqCntActed_eq (hst : x.st = .run) (hwait : x.waitEnd = none) : x.seqCntActed =
    { x with cw := x.seqCntActed.cw, held := none, cnts := x.seqCntActed.cnts, replyOf := x.seqCntActed.replyOf
             serial := x.serial + 1, tc := x.tc + 1 } := by
  have hx : { x with st := .run, waitEnd := none } = x := by rw [← hst, ← hwait]
  have hy : x.seqCntActed =
      let z : Tile := { x with st := .run, waitEnd := none }
      { z with cw := x.seqCntActed.cw, held := none, cnts := x.seqCntActed.cnts, replyOf := x.seqCntActed.replyOf
               serial := x.serial + 1, tc := x.tc + 1 } := by
    rw [Tile.seqCntActed, Tile.counted, cntField_eq]
    rfl
  rwa [hx] at hy

theorem counter_seqCntActed (hlw : wLw x.cur = 0) (hop : wCntOp x.cur ≤ 5) (k : Nat) :
    x.seqCntActed.counter k = if k = wCntSel x.cur then x.cntValue x.cur else x.counter k :=
  counter_cntField (x := x.fetched.issued) hlw hop k

/-- The address that follows a word of SEQ and CNT fields alone (R94, R102). -/
theorem cw_seqCntActed (hlw : wLw x.cur = 0) (hwait : x.waitEnd = none) (hseq : wSeqOp x.cur ≤ 5) : x.seqCntActed.cw =
    (match wSeqOp x.cur with
     | 0 => (x.cw + 1) % 256
     | 1 => wTarget x.cur
     | 2 => if x.seqCntActed.counter (wSeqSel x.cur) = 0 then wTarget x.cur else (x.cw + 1) % 256
     | 3 => if x.seqCntActed.counter (wSeqSel x.cur) = 0 then (x.cw + 1) % 256 else wTarget x.cur
     | 4 => if x.cmpTrue (wSeqSel x.cur) 8 then wTarget x.cur else (x.cw + 1) % 256
     | _ => if x.cmpTrue (wSeqSel x.cur) 8 then (x.cw + 1) % 256 else wTarget x.cur) := by
  have hw : x.counted.waitEnd = none := by
    rw [Tile.counted, cntField_eq]
    exact hwait
  have hcmp : x.fetched.cmpTrue (wSeqSel x.cur) (laneCount (wLw x.cur)) = x.cmpTrue (wSeqSel x.cur) 8 := by
    rw [hlw]
    rfl
  have hcw : x.seqCntActed.cw = nextAddr x.counted x.cur x.cw (x.cmpTrue (wSeqSel x.cur) 8) :=
    congrArg (nextAddr x.counted x.cur x.cw) hcmp
  rw [hcw, nextAddr, hw]
  dsimp only
  have hcases : wSeqOp x.cur = 0 ∨ wSeqOp x.cur = 1 ∨ wSeqOp x.cur = 2 ∨ wSeqOp x.cur = 3 ∨ wSeqOp x.cur = 4 ∨ wSeqOp x.cur = 5 := by
    omega
  rcases hcases with h | h | h | h | h | h <;> rw [h] <;> rfl

/-- Settles O4: the word acts in one cycle. -/
theorem sequencerAndCounters : Obligations.SequencerAndCounters := by
  unfold Obligations.SequencerAndCounters
  intro s n hc x w hr hst hwait hq hs hp hmac hrest hseq hcnt
  have hlw := (wVop_wLw_of_seq_cnt hmac).2
  have htile : (s.setTile n x.seqCntActed).tile n = x.seqCntActed := State.tile_setTile_same ..
  refine Does.of_frame (t := s.setTile n x.seqCntActed) ?_ ((Frame.refl hc).setTile (by simp) n _) ?_
  · rw [exec_controlWord, controlWord_seq_cnt hr hst hq hs hp hmac hrest hseq hcnt]
  · dsimp only
    rw [endOf_tile, htile]
    refine ⟨fun m hm => (State.tile_setTile s n m _).trans (if_neg hm), seqCntActed_eq hst hwait, fun k hk => ?_, ?_,
      cw_seqCntActed hlw hwait hseq⟩
    · rw [counter_seqCntActed hlw hcnt, if_neg hk]
    · rw [counter_seqCntActed hlw hcnt, if_pos rfl]
      rfl

end Sys2Proof.Machine
end

section
/-! Integer operations of the vector unit (R87, R176, R177): elements of a register, the lanes of an operation, and obligation O5 from
these. -/

namespace Sys2Proof.Machine

variable {s : State} {x : Tile} {n w : Nat}

/-! ## Elements of a register -/

/-- Bit i of a number of which the field of `len` bits at `lo` is replaced by v. -/
theorem testBit_replaced (u lo len v i : Nat) :
    (u % 2 ^ lo + (v % 2 ^ len) * 2 ^ lo + (u >>> (lo + len)) * 2 ^ (lo + len)).testBit i =
      if lo ≤ i ∧ i < lo + len then v.testBit (i - lo) else u.testBit i := by
  have hlow : u % 2 ^ lo < 2 ^ lo := Nat.mod_lt _ (Nat.two_pow_pos lo)
  have hmid : 2 ^ lo * (v % 2 ^ len) + u % 2 ^ lo < 2 ^ (lo + len) := by
    have hv : v % 2 ^ len + 1 ≤ 2 ^ len := Nat.mod_lt _ (Nat.two_pow_pos len)
    calc 2 ^ lo * (v % 2 ^ len) + u % 2 ^ lo < 2 ^ lo * (v % 2 ^ len + 1) := by rw [Nat.mul_add, Nat.mul_one]; omega
      _ ≤ 2 ^ lo * 2 ^ len := Nat.mul_le_mul_left _ hv
      _ = 2 ^ (lo + len) := (Nat.pow_add 2 lo len).symm
  have he : u % 2 ^ lo + (v % 2 ^ len) * 2 ^ lo + (u >>> (lo + len)) * 2 ^ (lo + len) =
      2 ^ (lo + len) * (u >>> (lo + len)) + (2 ^ lo * (v % 2 ^ len) + u % 2 ^ lo) := by
    rw [Nat.mul_comm (v % 2 ^ len), Nat.mul_comm (u >>> (lo + len))]
    omega
  rw [he, Nat.testBit_two_pow_mul_add _ hmid, Nat.testBit_two_pow_mul_add _ hlow, Nat.testBit_mod_two_pow,
    Nat.testBit_mod_two_pow, Nat.testBit_shiftRight]
  rcases Nat.lt_or_ge i lo with h1 | h1
  · simp [h1, show i < lo + len by omega, show ¬ lo ≤ i by omega]
  · rcases Nat.lt_or_ge i (lo + len) with h2 | h2
    · simp [h1, h2, show ¬ i < lo by omega, show i - lo < len by omega]
    · simp [show ¬ i < lo + len by omega, show lo + len + (i - (lo + len)) = i by omega]

/-- Element j of a register of which element i is replaced. -/
theorem regElem_setElem (v : W256) (b i j u : Nat) (hi : 8 * b * i + 8 * b ≤ 256) (hj : 8 * b * j + 8 * b ≤ 256) :
    regElem (setElem v b i u) b j = if j = i then u % 2 ^ (8 * b) else regElem v b j := by
  have hbit : ∀ k, k < 8 * b → (setElem v b i u).toNat.testBit (8 * b * j + k) =
      if 8 * b * i ≤ 8 * b * j + k ∧ 8 * b * j + k < 8 * b * i + 8 * b then u.testBit (8 * b * j + k - 8 * b * i)
      else v.toNat.testBit (8 * b * j + k) := fun k hk => by
    simp only [setElem, BitVec.toNat_ofNat, Nat.testBit_mod_two_pow, show 8 * b * j + k < 256 by omega, decide_true, Bool.true_and,
      testBit_replaced]
  refine Nat.eq_of_testBit_eq fun k => ?_
  simp only [regElem, nfld, Nat.testBit_mod_two_pow, Nat.testBit_shiftRight]
  by_cases hk : k < 8 * b
  · rw [hbit k hk]
    by_cases hij : j = i
    · subst hij
      simp [hk]
    · have hout : ¬ (8 * b * i ≤ 8 * b * j + k ∧ 8 * b * j + k < 8 * b * i + 8 * b) := by
        rcases Nat.lt_or_gt_of_ne hij with h | h
        · have := Nat.mul_le_mul_left (8 * b) (Nat.succ_le_of_lt h)
          rw [Nat.mul_succ] at this
          omega
        · have := Nat.mul_le_mul_left (8 * b) (Nat.succ_le_of_lt h)
          rw [Nat.mul_succ] at this
          omega
      simp [hij, hout]
  · by_cases hij : j = i <;> simp [hij, hk]

theorem regElem_lt (v : W256) (b i : Nat) : regElem v b i < 2 ^ (8 * b) := Nat.mod_lt _ (Nat.two_pow_pos _)

/-- Element j after the elements of a list have been written. -/
theorem regElem_foldl_setElem (b j : Nat) (f : Nat → Nat) (l : List Nat) (hl : ∀ i ∈ l, 8 * b * i + 8 * b ≤ 256)
    (hj : 8 * b * j + 8 * b ≤ 256) (v : W256) :
    regElem (l.foldl (fun o i => setElem o b i (f i)) v) b j = if j ∈ l then f j % 2 ^ (8 * b) else regElem v b j := by
  induction l generalizing v with
  | nil => simp
  | cons i l ih =>
    obtain ⟨hi, hl⟩ := List.forall_mem_cons.mp hl
    rw [List.foldl_cons, ih hl, regElem_setElem v b i j _ hi hj]
    by_cases hji : j = i <;> by_cases hjl : j ∈ l <;> simp [hji, hjl]

/-! ## The lanes of an integer operation -/

/-- A lane of the integer operations that wrap or choose (R177): ADD, SUB, MIN, MAX, AND, OR and XOR. -/
def wrapLane (op bits a b : Nat) : Nat :=
  match op with
  | 4 => (a + b) % 2 ^ bits
  | 6 => (a + 2 ^ bits - b) % 2 ^ bits
  | 10 => if sext bits a ≤ sext bits b then a else b
  | 11 => if sext bits a ≤ sext bits b then b else a
  | 12 => a &&& b
  | 13 => a ||| b
  | _ => a ^^^ b

/-- A number read as two's complement differs from it by a multiple of 2^bits. -/
theorem sext_eq_add_mul {bits a : Nat} (ha : a < 2 ^ bits) : ∃ k : Int, sext bits a = (a : Int) + ((2 ^ bits : Nat) : Int) * k := by
  rw [sext, Nat.mod_eq_of_lt ha]
  split
  · exact ⟨0, by omega⟩
  · exact ⟨-1, by omega⟩

theorem twos_sext_sub {bits a b : Nat} (ha : a < 2 ^ bits) (hb : b < 2 ^ bits) :
    twos bits (sext bits a - sext bits b) = (a + 2 ^ bits - b) % 2 ^ bits := by
  obtain ⟨j, hj⟩ := sext_eq_add_mul ha
  obtain ⟨k, hk⟩ := sext_eq_add_mul hb
  have hsub : sext bits a - sext bits b = ((a + 2 ^ bits - b : Nat) : Int) + ((2 ^ bits : Nat) : Int) * (j - k - 1) := by
    rw [hj, hk, Int.natCast_sub (by omega), Int.natCast_add]
    ring
  rw [twos, hsub, Int.add_mul_emod_self_left]
  exact Int.toNat_natCast _

theorem intLane_eq_wrapLane {op bits a b : Nat} (hop : [4, 6, 10, 11, 12, 13, 14].contains op = true) (ha : a < 2 ^ bits)
    (hb : b < 2 ^ bits) (sh d : Nat) : intLane op bits sh a b d = ⟨wrapLane op bits a b, {}⟩ := by
  simp only [List.contains_iff_mem, List.mem_cons, List.not_mem_nil, or_false] at hop
  rcases hop with rfl | rfl | rfl | rfl | rfl | rfl | rfl
  case inr.inl => rw [intLane, twos_sext_sub ha hb]; rfl
  all_goals rfl

theorem wrapLane_lt {bits a b : Nat} (op : Nat) (ha : a < 2 ^ bits) (hb : b < 2 ^ bits) : wrapLane op bits a b < 2 ^ bits := by
  rw [wrapLane.eq_def]
  split
  · exact Nat.mod_lt _ (Nat.two_pow_pos _)
  · exact Nat.mod_lt _ (Nat.two_pow_pos _)
  · split <;> assumption
  · split <;> assumption
  · exact Nat.and_lt_two_pow _ hb
  · exact Nat.or_lt_two_pow ha hb
  · exact Nat.xor_lt_two_pow ha hb

/-- The operations of `wrapLane`. -/
def isWrapOp (op : Nat) : Bool := [4, 6, 10, 11, 12, 13, 14].contains op

theorem isWrapOp_cases {op : Nat} (h : isWrapOp op = true) :
    op = 4 ∨ op = 6 ∨ op = 10 ∨ op = 11 ∨ op = 12 ∨ op = 13 ∨ op = 14 := by
  simpa [isWrapOp] using h

/-- Register VD after the active lanes of a word's operation have been written. -/
def wrapLanes (w : Nat) (rg : Nat → W256) (lim : Option Nat) : W256 :=
  let b := laneBytes (wLw w)
  ((List.range (laneCount (wLw w))).filter (laneOn lim)).foldl
    (fun o i => setElem o b i (wrapLane (wVop w) (8 * b) (regElem (rg (wVa w)) b i) (regElem (rg (wVb w)) b i))) (rg (wVd w))

/-- Lanes that count nothing leave the counts at 0. -/
theorem foldl_uncounted (g : W256 → Nat → W256) (l : List Nat) (v : W256) :
    l.foldl (fun (o : W256 × Cnt) i => (g o.1 i, cntAdd o.2 {})) (v, {}) = (l.foldl g v, {}) := by
  induction l generalizing v with
  | nil => rfl
  | cons i l ih => exact ih (g v i)

theorem vecLanes_of_wrapOp (h : isWrapOp (wVop w) = true) (rg : Nat → W256) (lim : Option Nat) :
    vecLanes w rg lim = { regs := [(wVd w, wrapLanes w rg lim)], cnt := {}, produced := false } := by
  have hop : ¬ wVop w = 2 ∧ ¬ (wVop w = 25 ∨ wVop w = 45) ∧ ¬ 32 ≤ wVop w := by
    have := isWrapOp_cases h
    omega
  obtain ⟨h2, hr, h32⟩ := hop
  have hlane : ∀ i d, intLane (wVop w) (8 * laneBytes (wLw w)) (wShift w) (regElem (rg (wVa w)) (laneBytes (wLw w)) i)
      (regElem (rg (wVb w)) (laneBytes (wLw w)) i) d = ⟨wrapLane (wVop w) (8 * laneBytes (wLw w))
        (regElem (rg (wVa w)) (laneBytes (wLw w)) i) (regElem (rg (wVb w)) (laneBytes (wLw w)) i), {}⟩ :=
    fun i d => intLane_eq_wrapLane h (regElem_lt ..) (regElem_lt ..) _ d
  simp only [vecLanes, h2, hr, h32, hlane, if_false, decide_false, Bool.false_and]
  rw [foldl_uncounted fun o i => setElem o (laneBytes (wLw w)) i (wrapLane (wVop w) (8 * laneBytes (wLw w))
        (regElem (rg (wVa w)) (laneBytes (wLw w)) i) (regElem (rg (wVb w)) (laneBytes (wLw w)) i))]
  rfl

/-- Every lane of an LW lies in the register (R106). -/
theorem lane_within {lw i : Nat} (hlw : lw ≤ 2) (hi : i < laneCount lw) : 8 * laneBytes lw * i + 8 * laneBytes lw ≤ 256 := by
  have : lw = 0 ∨ lw = 1 ∨ lw = 2 := by omega
  rcases this with rfl | rfl | rfl
  · have : i < 8 := hi
    rw [show laneBytes 0 = 4 from rfl]
    omega
  · have : i < 16 := hi
    rw [show laneBytes 1 = 2 from rfl]
    omega
  · have : i < 32 := hi
    rw [show laneBytes 2 = 1 from rfl]
    omega

/-- Lane i of VD: the operation of the lanes where it is active, as it was where it is not (R87). -/
theorem regElem_wrapLanes (hlw : wLw w ≤ 2) (rg : Nat → W256) (lim : Option Nat) {i : Nat} (hi : i < laneCount (wLw w)) :
    regElem (wrapLanes w rg lim) (laneBytes (wLw w)) i = if laneOn lim i then
      wrapLane (wVop w) (8 * laneBytes (wLw w)) (regElem (rg (wVa w)) (laneBytes (wLw w)) i) (regElem (rg (wVb w)) (laneBytes (wLw w)) i)
    else regElem (rg (wVd w)) (laneBytes (wLw w)) i := by
  rw [wrapLanes, regElem_foldl_setElem _ _ (fun i => wrapLane (wVop w) (8 * laneBytes (wLw w))
    (regElem (rg (wVa w)) (laneBytes (wLw w)) i) (regElem (rg (wVb w)) (laneBytes (wLw w)) i)) _ (fun j hj => ?_) (lane_within hlw hi)]
  · simp only [List.mem_filter, List.mem_range, hi, true_and]
    rw [Nat.mod_eq_of_lt (wrapLane_lt _ (regElem_lt ..) (regElem_lt ..))]
  · exact lane_within hlw (List.mem_range.mp (List.mem_filter.mp hj).1)

/-! ## The vector unit on such a word -/

/-- The tile whose vector unit has taken a word with such an operation. -/
def Tile.wrapped (x : Tile) (w : Nat) (lim : Option Nat) : Tile :=
  { x with vregs := aset 0 x.vregs (wVd w) (wrapLanes w x.vreg lim), vready := aset 0 x.vready (wVd w) (x.tc + 2), vecFree := x.tc + 1
           sets := aset {} x.sets (wCset w) (csetAdd (x.cset (wCset w)) {} 0) }

theorem vecField_of_wrapOp (h : isWrapOp (wVop w) = true) (lim : Option Nat) (wid : WordId) :
    (s.setTile n x).vecField n w lim wid = s.setTile n (x.wrapped w lim) := by
  have hop : wVop w ≠ 0 ∧ wVop w ≠ 26 ∧ wVop w ≠ 27 ∧ wVop w ≠ 3 ∧ wVop w ≠ 19 ∧ wVop w ≠ 20 ∧
      wVop w ≠ 42 ∧ wVop w ≠ 43 ∧ wVop w ≠ 21 := by
    have := isWrapOp_cases h
    omega
  have htime : vecTime w = (1, 2) := by simp [vecTime, hop]
  simp [State.vecField, hop, htime, vecLanes_of_wrapOp h, State.tally, State.count, Tile.setVreg, Tile.vregAt, Tile.cset, Tile.wrapped]

/-! ## A word of the VEC group alone -/

/-- A map of which every listed value satisfies p reads a value that does, if the value of an unlisted key does. -/
theorem aget_of_forall {α : Type} {p : α → Prop} {d : α} {m : Assoc α} (hd : p d) (h : ∀ r ∈ m, p r.2) (k : Nat) : p (aget d m k) := by
  induction m with
  | nil => exact hd
  | cons r m ih =>
    obtain ⟨hr, hm⟩ := List.forall_mem_cons.mp h
    rw [aget]
    split
    · exact hr
    · exact ih hm

theorem cap32_zero {a : Nat} (h : a < 2 ^ 32) : cap32 a 0 = a := by
  rw [cap32, satTo_eq_min]
  omega

/-- An operation that counts nothing leaves a set whose counts are within 32 bits. -/
theorem csetAdd_nothing {c : CSet} (hs : c.sat < 2 ^ 32) (hf : c.flush < 2 ^ 32) (hr : c.replay < 2 ^ 32) (hn : c.nan < 2 ^ 32) :
    csetAdd c {} 0 = c := by
  rw [csetAdd, cap32_zero hs, cap32_zero hf, cap32_zero hr, cap32_zero hn]

/-- The tile after a word of the VEC group alone with such an operation, which it acted on in one cycle (R94, R95). -/
def Tile.vecActed (x : Tile) : Tile :=
  { (x.fetched.issued.wrapped x.cur (x.tailc x.cur)).goneOn x.fetched x.cur with tc := x.tc + 1 }

section
variable (hlow : nfld w 0 104 = 0) (hrest : nfld w 135 121 = 0)
include hlow hrest

theorem NamesNoUnit.of_vec : NamesNoUnit w :=
  .of_fields (nfld_eq_zero_of_within hlow (by omega) (by omega)) (nfld_eq_zero_of_within hrest (by omega) (by omega))

theorem cwIllegal_of_vec (hsub : nfld w 124 9 = 0) (hlw : wLw w ≤ 2) (hop : isWrapOp (wVop w) = true) (inLoop : Bool) :
    cwIllegal inLoop w = false := by
  have hv : wVsub w = 0 ∧ wShift w = 0 := by constructor <;> exact nfld_eq_zero_of_within hsub (by omega) (by omega)
  have hseq : wSeqOp w = 0 := nfld_eq_zero_of_within hlow (by omega) (by omega)
  have hcnt : wCntOp w = 0 := nfld_eq_zero_of_within hrest (by omega) (by omega)
  have hcases := isWrapOp_cases hop
  have hvec : vecIllegal w = false := by
    rcases hcases with h | h | h | h | h | h | h <;> simp [vecIllegal, h, hv]
  exact cwIllegal_of_seq_vec_cnt (nfld_eq_zero_of_within hlow (by omega) (by omega)) (nfld_eq_zero_of_within hrest (by omega) (by omega))
    (nfld_eq_zero_of_within hrest (by omega) (by omega)) (by omega) (by omega) hlw (by omega) hvec inLoop

end

/-- A word waits for no register that is usable, and not for the vector unit when that is free (R96). -/
theorem unitStall_of_ready (hw : NamesNoUnit w) (hfree : x.vecFree ≤ x.tc) (hready : ∀ r ∈ x.vready, r.2 ≤ x.tc)
    (hleft : ∀ r ∈ x.gatherLeft, r.2 = 0) : x.unitStall w = false := by
  have hr : ∀ r, ¬ x.tc < aget 0 x.vready r := fun r =>
    Nat.not_lt.mpr (aget_of_forall (p := fun v => v ≤ x.tc) (Nat.zero_le _) hready r)
  have hl : ∀ r, aget 0 x.gatherLeft r = 0 := aget_of_forall (p := fun v => v = 0) rfl hleft
  have hf : ¬ x.tc < x.vecFree := Nat.not_lt.mpr hfree
  simp [hw.unitStall, hr, hl, hf]

theorem controlWord_vec (hr : s.tileRuns n = true) (hst : (s.tile n).st = .run) (hq : TileQuiet (s.tile n))
    (hs : (s.tile n).scrubPair = none) (hp : (s.tile n).parityBad = false) (hfree : (s.tile n).vecFree ≤ (s.tile n).tc)
    (hready : ∀ r ∈ (s.tile n).vready, r.2 ≤ (s.tile n).tc) (hleft : ∀ r ∈ (s.tile n).gatherLeft, r.2 = 0)
    (hlow : nfld (s.tile n).cur 0 104 = 0) (hsub : nfld (s.tile n).cur 124 9 = 0) (hrest : nfld (s.tile n).cur 135 121 = 0)
    (hlw : wLw (s.tile n).cur ≤ 2) (hop : isWrapOp (wVop (s.tile n).cur) = true) :
    s.tileCycle n {} = s.setTile n (s.tile n).vecActed := by
  have hstill : (s.tile n).Still := hq.still hs
  obtain ⟨-, -, -, -, -, -, -, -, -, -, hpart, -, hkend, -⟩ := hq
  have hw := NamesNoUnit.of_vec hlow hrest
  have hlegal := cwIllegal_of_vec hlow hrest hsub hlw hop (s.tile n).kloop.isSome
  have hseq : wSeqOp (s.tile n).cur = 0 := nfld_eq_zero_of_within hlow (by omega) (by omega)
  have hcnt : wCntOp (s.tile n).cur = 0 := nfld_eq_zero_of_within hrest (by omega) (by omega)
  have hkset : wKSet (s.tile n).cur = false := by rw [wKSet, nfld_eq_zero_of_within hrest (by omega) (by omega)]; rfl
  rw [tileCycle_of_run hr hst hkend hp hlegal (by omega)]
  refine (tryAct_of_namesNoUnit (x := (s.tile n).fetched) hw hkset (by omega) hstill hpart (unitStall_of_ready hw hfree hready hleft)
    (y := (s.tile n).fetched.issued.wrapped (s.tile n).cur ((s.tile n).tailc (s.tile n).cur)) hstill hpart hkend
    fun wid => vecField_of_wrapOp hop _ wid).trans ?_
  rw [cntField_of_zero hcnt]
  rfl

theorem vecActed_eq (hst : x.st = .run) (hwait : x.waitEnd = none) (hseq : wSeqOp x.cur = 0) : x.vecActed =
    { x with vregs := x.vecActed.vregs, vready := x.vecActed.vready, vecFree := x.tc + 1, sets := x.vecActed.sets
             cw := (x.cw + 1) % 256, held := none, serial := x.serial + 1, tc := x.tc + 1 } := by
  have hcw : x.vecActed.cw = (x.cw + 1) % 256 := by
    have hnext : nextAddr (x.fetched.issued.wrapped x.cur (x.tailc x.cur)) x.cur x.cw
        (x.fetched.cmpTrue (wSeqSel x.cur) (laneCount (wLw x.cur))) = (x.cw + 1) % 256 := by
      simp [nextAddr, hseq, show (x.fetched.issued.wrapped x.cur (x.tailc x.cur)).waitEnd = none from hwait]
    exact hnext
  have hx : { x with st := .run, waitEnd := none } = x := by rw [← hst, ← hwait]
  have hy : x.vecActed =
      let z : Tile := { x with st := .run, waitEnd := none }
      { z with vregs := x.vecActed.vregs, vready := x.vecActed.vready, vecFree := x.tc + 1, sets := x.vecActed.sets
               cw := x.vecActed.cw, held := none, serial := x.serial + 1, tc := x.tc + 1 } := rfl
  rwa [hx, hcw] at hy

theorem cset_vecActed (hset : wCset x.cur = 0) (hs : (x.cset 0).sat < 2 ^ 32) (hf : (x.cset 0).flush < 2 ^ 32)
    (hr : (x.cset 0).replay < 2 ^ 32) (hn : (x.cset 0).nan < 2 ^ 32) (m : Nat) : x.vecActed.cset m = x.cset m := by
  have hm : x.vecActed.cset m = aget {} (aset {} x.sets (wCset x.cur) (csetAdd (x.cset (wCset x.cur)) {} 0)) m := rfl
  rw [hm, hset, csetAdd_nothing hs hf hr hn, aget_aset]
  split
  next h => rw [h]
  next => rfl

theorem vreg_vecActed (r : Nat) :
    x.vecActed.vreg r = if r = wVd x.cur then wrapLanes x.cur x.vreg (x.tailc x.cur) else x.vreg r :=
  aget_aset 0 x.vregs _ r _

/-- TAILC leaves active the lanes below the counter that it names (R87). -/
theorem laneOn_tailc (i : Nat) : laneOn (x.tailc w) i = true ↔ wTailc w = 0 ∨ i < (x.counter (wTailc w)).toNat := by
  by_cases h : wTailc w = 0 <;> simp [Tile.tailc, laneOn, h]

/-- Settles O5: the word acts in one cycle, and its lanes are those of `wrapLane`. -/
theorem vectorIntegerLanes : Obligations.VectorIntegerLanes := by
  unfold Obligations.VectorIntegerLanes
  intro s n hc x w by_ bits hr hst hwait hq hs hp hfree hready hleft hsat hflush hreplay hnan hlow hsub hrest hlw hop
  have htile : (s.setTile n x.vecActed).tile n = x.vecActed := State.tile_setTile_same ..
  have hseq : wSeqOp w = 0 := nfld_eq_zero_of_within hlow (by omega) (by omega)
  have hcset : wCset w = 0 := nfld_eq_zero_of_within hrest (by omega) (by omega)
  refine Does.of_frame (t := s.setTile n x.vecActed) ?_ ((Frame.refl hc).setTile (by simp) n _) ?_
  · rw [exec_controlWord, controlWord_vec hr hst hq hs hp hfree hready hleft hlow hsub hrest hlw hop]
  · dsimp only
    rw [endOf_tile, htile]
    refine ⟨fun m hm => (State.tile_setTile s n m _).trans (if_neg hm), vecActed_eq hst hwait hseq, fun m => ?_, fun r hne => ?_,
      fun i hi => ?_⟩
    · exact cset_vecActed hcset hsat hflush hreplay hnan m
    · rw [vreg_vecActed, if_neg hne]
    · rw [vreg_vecActed, if_pos rfl, regElem_wrapLanes hlw x.vreg _ hi]
      simp only [laneOn_tailc]
      rfl

end Sys2Proof.Machine
end

section
/-! The ends of a wait (R102, R103, R105, R502): by a beat, by a counter and by a trigger, and obligation O6 from these. -/

namespace Sys2Proof.Machine

variable {s t : State} {x : Tile} {n w : Nat} {l : List Piece}

/-! ## The progress event -/

/-- The launch, of which tile n has made progress in the beat of s (R502). -/
def State.progressLaunch (s : State) (n : Nat) (l : Launch) : Launch := if l.left.contains n then { l with progress := s.esc.beat } else l

theorem progressed_eq (s : State) (n : Nat) : s.progressed n = match (s.tile n).slot with
    | none => s
    | some k => s.updSlot k fun z => { z with launch := z.launch.map (s.progressLaunch n) } := rfl

theorem Frame.updSlot (h : Frame l s t) (hl : .slots ∈ l) (k : Nat) (f : Slot → Slot) : Frame l s (t.updSlot k f) := by
  refine h.extend rfl ⟨rfl, rfl, rfl, rfl⟩ fun p hp => ?_
  cases p
  case slots => exact absurd hl hp
  all_goals simp [Piece.same]

theorem Frame.progressed (h : Frame l s t) (hl : .slots ∈ l) (n : Nat) : Frame l s (t.progressed n) := by
  rw [progressed_eq]
  split
  · exact h
  · exact h.updSlot hl _ _

@[simp] theorem State.progressed_tile_at (s : State) (n m : Nat) : (s.progressed n).tile m = s.tile m := by
  rw [progressed_eq]
  split <;> simp

@[simp] theorem State.progressed_esc (s : State) (n : Nat) : (s.progressed n).esc = s.esc := by
  rw [progressed_eq]
  split <;> rfl

@[simp] theorem State.progressed_ras (s : State) (n : Nat) : (s.progressed n).ras = s.ras := by
  rw [progressed_eq]
  split <;> rfl

theorem State.slot_progressed (s : State) (n j : Nat) : (s.progressed n).slot j = ProgressedSlot s (s.tile n) n j := by
  rw [progressed_eq, ProgressedSlot]
  split
  next h => simp [h]
  next k h =>
    rw [State.slot_updSlot, h]
    by_cases hj : j = k
    · subst hj
      simp only [if_true]
      rfl
    · simp [hj, Ne.symm hj]

/-- A second progress event of the beat changes nothing more. -/
theorem progressLaunch_progressLaunch (s : State) (n : Nat) (l : Launch) :
    s.progressLaunch n (s.progressLaunch n l) = s.progressLaunch n l := by
  by_cases h : l.left.contains n = true
  · have hp : s.progressLaunch n l = { l with progress := s.esc.beat } := if_pos h
    rw [hp]
    exact if_pos h
  · have hp : s.progressLaunch n l = l := if_neg h
    rw [hp, hp]

theorem progressedSlot_eq (s : State) (x : Tile) (n j : Nat) : ProgressedSlot s x n j =
    if x.slot = some j then { s.slot j with launch := (s.slot j).launch.map (s.progressLaunch n) } else s.slot j := rfl

theorem progressedSlot_progressedSlot {u : State} {j : Nat} (he : u.esc = s.esc) (hu : u.slot j = ProgressedSlot s x n j) :
    ProgressedSlot u x n j = ProgressedSlot s x n j := by
  have hl : u.progressLaunch n = s.progressLaunch n := by
    funext l
    rw [State.progressLaunch, he, State.progressLaunch]
  rw [progressedSlot_eq, hu, hl, progressedSlot_eq]
  split
  next h =>
    have hmap : s.progressLaunch n ∘ s.progressLaunch n = s.progressLaunch n := funext (progressLaunch_progressLaunch s n)
    rw [Option.map_map, hmap]
  next => rfl

/-! ## The word of a wait that has ended -/

/-- The tile whose wait has ended with a next address. -/
def Tile.waitEnded (x : Tile) (next : Nat) : Tile := { x with st := .stall, waitEnd := some next, armed := none, took := none }

/-- The tile whose WAIT word, which names nothing beside its wait, has ended with a next address. -/
def Tile.waitOver (x : Tile) (next : Nat) : Tile :=
  { x with st := .run, held := none, cw := next, waitEnd := none, armed := none, took := none, serial := x.serial + 1, tc := x.tc + 1 }

theorem endWait_eq (s : State) (n w next : Nat) (u : Upset) :
    s.endWait n w next u = ((s.progressed n).setTile n ((s.tile n).waitEnded next)).tryAct n w u := by
  simp only [State.endWait, State.updTile, State.progressed_tile_at]
  rfl

/-- A word that names nothing beside its wait acts in the cycle in which the wait ends (R102). -/
theorem tryAct_waitEnded (hmid : nfld w 16 188 = 0) (hseq : wSeqOp w = 6) (hstill : x.Still) (hp : x.part = none) (hk : x.kend = none)
    (next : Nat) : (s.setTile n (x.waitEnded next)).tryAct n w {} = s.setTile n (x.waitOver next) := by
  have hw : NamesNoUnit w :=
    .of_fields (nfld_eq_zero_of_within hmid (by omega) (by omega)) (nfld_eq_zero_of_within hmid (by omega) (by omega))
  have hvop : wVop w = 0 := nfld_eq_zero_of_within hmid (by omega) (by omega)
  have hcnt : wCntOp w = 0 := nfld_eq_zero_of_within hmid (by omega) (by omega)
  have hkset : wKSet w = false := by rw [wKSet, nfld_eq_zero_of_within hmid (by omega) (by omega)]; rfl
  have hstall : (x.waitEnded next).unitStall w = false := by simp [hw.unitStall, vecReads, vecWrites, hvop]
  have hvec : ∀ wid, (s.setTile n (x.waitEnded next).issued).vecField n w ((x.waitEnded next).tailc w) wid =
      s.setTile n (x.waitEnded next).issued := fun wid => by simp only [State.vecField, hvop, true_or, if_true]
  have hgone : { (x.waitEnded next).issued.goneOn (x.waitEnded next) w with tc := x.tc + 1 } = x.waitOver next := rfl
  rw [tryAct_of_namesNoUnit (x := x.waitEnded next) (y := (x.waitEnded next).issued) hw hkset (by omega) hstill hp hstall hstill hp hk
    hvec, cntField_of_zero hcnt, ← hgone]
  rfl

/-! ## What each cycle of a wait does -/

theorem exec_waitBeatEnd : exec (.waitBeatEnd n) s = execWaitBeatEnd n s := rfl
theorem exec_waitCounterEnd : exec (.waitCounterEnd n) s = execWaitCounterEnd n s := rfl
theorem exec_waitTriggerTaken : exec (.waitTriggerTaken n) s = execWaitTriggerTaken n s := rfl

section
variable (hr : s.tileRuns n = true)
include hr

theorem exec_waitBeatEnd_of_due {b : W64} (hst : (s.tile n).st = .waitBeat ∨ (s.tile n).st = .waitEither)
    (ha : (s.tile n).armed = some b) (hb : b.toNat ≤ s.esc.beat.toNat) :
    exec (.waitBeatEnd n) s = done s (s.endByBeat n (s.tile n).cur b {}) := by
  have hdue : s.beatDue n = true := by
    rcases hst with h | h <;> simp [State.beatDue, h, ha, State.beat, hb]
  have hcycle : s.waitCycle n {} = s.endByBeat n (s.tile n).cur b {} := by
    have hf : (s.tile n).armed.filter (fun b => decide (b.toNat ≤ s.beat.toNat)) = some b := by simp [ha, State.beat, hb]
    simp only [State.waitCycle, hst, if_true, hf]
  rw [exec_waitBeatEnd, execWaitBeatEnd, if_pos ⟨hr, hdue⟩, hcycle]

theorem exec_waitCounterEnd_of_zero (hst : (s.tile n).st = .waitCounter) (hc : (s.tile n).counter (wSeqSel (s.tile n).cur) = 0)
    (ht : (s.tile n).took = none) :
    exec (.waitCounterEnd n) s = done s (s.endWait n (s.tile n).cur (wTarget (s.tile n).cur) {}) := by
  have hcycle : s.waitCycle n {} = s.endWait n (s.tile n).cur (wTarget (s.tile n).cur) {} := by
    simp [State.waitCycle, hst, ht, hc]
  rw [exec_waitCounterEnd, execWaitCounterEnd, if_pos ⟨hr, hst, hc⟩, hcycle]

end

/-- The oldest index that the mask accepts, with its place in the queue (R105). -/
theorem acceptedTrig_append {mask i : Nat} {before after : List Nat} (hi : nfld mask (i - 1) 1 = 1)
    (hb : ∀ j ∈ before, nfld mask (j - 1) 1 = 0) : acceptedTrig mask (before ++ i :: after) = some (i, before.length) := by
  have hnone : before.zipIdx.find? (fun p => nfld mask (p.1 - 1) 1 == 1) = none :=
    List.find?_eq_none.mpr fun p hp => by simp [hb p.1 (List.fst_mem_of_mem_zipIdx hp)]
  simp [acceptedTrig, List.zipIdx_append, List.find?_append, hnone, hi]

theorem exec_waitTriggerTaken_of_accepted (hr : s.tileRuns n = true) {p : Nat × Nat}
    (hst : (s.tile n).st = .waitTrigger ∨
      ((s.tile n).st = .waitEither ∧ (s.tile n).armed.all (fun b => decide (s.esc.beat.toNat < b.toNat)) = true))
    (ht : (s.tile n).took = none) (hp : acceptedTrig (wTrigMask (s.tile n).cur) (s.tile n).trig = some p) :
    exec (.waitTriggerTaken n) s = done s (if entryValid ((s.tile n).entry p.1) then
      (s.takeTrig n (s.tile n).cur p).waitCycle n {} else s.takeTrig n (s.tile n).cur p) := by
  have hdue : s.beatDue n = false := by
    rcases hst with h | ⟨h, ha⟩
    · simp [State.beatDue, h]
    · cases hb : (s.tile n).armed with
      | none => simp [State.beatDue, hb]
      | some b =>
        have hlt : s.esc.beat.toNat < b.toNat := by simpa [hb] using ha
        simp [State.beatDue, hb, State.beat, Nat.not_le.mpr hlt]
  have hwait : (s.tile n).st = .waitTrigger ∨ (s.tile n).st = .waitEither := hst.imp_right And.left
  rw [exec_waitTriggerTaken, execWaitTriggerTaken]
  simp only [hp, hr, hwait, hdue, ht]
  simp

/-! ## The tile goes on -/

/-- From s to t, tile n has become y and its launch has made progress; no other tile has changed. -/
def GoesOn (s t : State) (n : Nat) (y : Tile) : Prop :=
  (∀ m, m ≠ n → t.tile m = s.tile m) ∧ t.tile n = y ∧ ∀ j, t.slot j = ProgressedSlot s (s.tile n) n j

/-- The last progress event of a command that has changed nothing but tile n, and whose launch may have made progress before. -/
theorem goesOn_progressed {u : State} (ht : ∀ m, m ≠ n → u.tile m = s.tile m) (hslot : (u.tile n).slot = (s.tile n).slot)
    (he : u.esc = s.esc) (hs : (∀ j, u.slot j = s.slot j) ∨ ∀ j, u.slot j = ProgressedSlot s (s.tile n) n j) (y : Tile) :
    GoesOn s ((u.progressed n).setTile n y) n y := by
  refine ⟨fun m hm => by simp [hm, ht m hm], State.tile_setTile_same .., fun j => ?_⟩
  have hsame : ProgressedSlot u (u.tile n) n j = ProgressedSlot u (s.tile n) n j := by rw [progressedSlot_eq, hslot, progressedSlot_eq]
  rw [State.setTile_slot_at, State.slot_progressed, hsame]
  rcases hs with h | h
  · have hl : u.progressLaunch n = s.progressLaunch n := by
      funext l
      rw [State.progressLaunch, he, State.progressLaunch]
    rw [progressedSlot_eq, h, hl, progressedSlot_eq]
  · exact progressedSlot_progressedSlot he (h j)

theorem GoesOn.endOf {y : Tile} (h : GoesOn s t n y) : GoesOn s (endOf s t) n y := by
  obtain ⟨hother, htile, hslot⟩ := h
  exact ⟨fun m hm => (endOf_tile ..).trans (hother m hm), (endOf_tile ..).trans htile, fun j => (endOf_slot ..).trans (hslot j)⟩

theorem endWait_of_still (hmid : nfld w 16 188 = 0) (hseq : wSeqOp w = 6) (hstill : (s.tile n).Still) (hp : (s.tile n).part = none)
    (hk : (s.tile n).kend = none) (next : Nat) :
    s.endWait n w next {} = (s.progressed n).setTile n ((s.tile n).waitOver next) := by
  rw [endWait_eq, tryAct_waitEnded hmid hseq hstill hp hk]

/-! ## A beat -/

/-- The tile whose armed beat has come. -/
def Tile.beatCame (x : Tile) (b : W64) : Tile := { x with lastArmed := some b }

theorem endByBeat_eq (ht : (s.tile n).took = none) (b : W64) (u : Upset) :
    s.endByBeat n w b u = (s.setTile n ((s.tile n).beatCame b)).endWait n w (wTarget w) u := by
  simp only [State.endByBeat, State.updTile]
  split
  next p hp => simp [ht] at hp
  next => rfl

theorem waitOver_beatCame (ht : x.took = none) (b : W64) (next : Nat) : (x.beatCame b).waitOver next =
    { x with st := .run, held := none, cw := next, waitEnd := none, armed := none, lastArmed := some b, serial := x.serial + 1
             tc := x.tc + 1 } := by
  have hx : { x with took := none } = x := by rw [← ht]
  have hy : (x.beatCame b).waitOver next =
      let z : Tile := { x with took := none }
      { z with st := .run, held := none, cw := next, waitEnd := none, armed := none, lastArmed := some b, serial := x.serial + 1
               tc := x.tc + 1 } := rfl
  rwa [hx] at hy

theorem waitOver_eq (ht : x.took = none) (next : Nat) : x.waitOver next =
    { x with st := .run, held := none, cw := next, waitEnd := none, armed := none, serial := x.serial + 1, tc := x.tc + 1 } := by
  have hx : { x with took := none } = x := by rw [← ht]
  have hy : x.waitOver next =
      let z : Tile := { x with took := none }
      { z with st := .run, held := none, cw := next, waitEnd := none, armed := none, serial := x.serial + 1, tc := x.tc + 1 } := rfl
  rwa [hx] at hy

section
variable (hc : Clean s) (hr : s.tileRuns n = true) (hmid : nfld (s.tile n).cur 16 188 = 0) (hseq : wSeqOp (s.tile n).cur = 6)
  (hq : TileQuiet (s.tile n)) (hs : (s.tile n).scrubPair = none)
include hc hr hmid hseq hq hs

theorem does_waitBeatEnd {b : W64} (hst : (s.tile n).st = .waitBeat ∨ (s.tile n).st = .waitEither)
    (ha : (s.tile n).armed = some b) (hb : b.toNat ≤ s.esc.beat.toNat) :
    Does (.waitBeatEnd n) s [.tiles, .slots] fun t => GoesOn s t n { s.tile n with
      st := .run, held := none, cw := wTarget (s.tile n).cur, waitEnd := none, armed := none, lastArmed := some b
      serial := (s.tile n).serial + 1, tc := (s.tile n).tc + 1 } := by
  have hstill := hq.still hs
  obtain ⟨-, -, -, -, -, -, -, -, -, -, hpart, -, hkend, htook, -⟩ := hq
  have htile : (s.setTile n ((s.tile n).beatCame b)).tile n = (s.tile n).beatCame b := State.tile_setTile_same ..
  have hend := endWait_of_still (s := s.setTile n ((s.tile n).beatCame b)) (n := n) hmid hseq (by rw [htile]; exact hstill)
    (by rw [htile]; exact hpart) (by rw [htile]; exact hkend) (wTarget (s.tile n).cur)
  rw [htile, waitOver_beatCame htook] at hend
  refine Does.of_frame ((exec_waitBeatEnd_of_due hr hst ha hb).trans (by rw [endByBeat_eq htook, hend]))
    ((((Frame.refl hc).setTile (by simp) n _).progressed (by simp) n).setTile (by simp) n _)
    (goesOn_progressed (fun m hm => (State.tile_setTile s n m _).trans (if_neg hm)) (by rw [htile]; rfl) rfl (.inl fun _ => rfl) _).endOf

theorem does_waitCounterEnd (hst : (s.tile n).st = .waitCounter) (hz : (s.tile n).counter (wSeqSel (s.tile n).cur) = 0) :
    Does (.waitCounterEnd n) s [.tiles, .slots] fun t => GoesOn s t n { s.tile n with
      st := .run, held := none, cw := wTarget (s.tile n).cur, waitEnd := none, armed := none
      serial := (s.tile n).serial + 1, tc := (s.tile n).tc + 1 } := by
  have hstill := hq.still hs
  obtain ⟨-, -, -, -, -, -, -, -, -, -, hpart, -, hkend, htook, -⟩ := hq
  have hend := endWait_of_still hmid hseq hstill hpart hkend (wTarget (s.tile n).cur)
  rw [waitOver_eq htook] at hend
  exact Does.of_frame ((exec_waitCounterEnd_of_zero hr hst hz htook).trans (by rw [hend]))
    (((Frame.refl hc).progressed (by simp) n).setTile (by simp) n _)
    (goesOn_progressed (fun _ _ => rfl) rfl rfl (.inl fun _ => rfl) _).endOf

end

/-! ## A trigger -/

/-- The tile whose accepted index p has left the queue. -/
def Tile.trigLeft (x : Tile) (p : Nat × Nat) : Tile := { x with trig := x.trig.eraseIdx p.2 }

/-- The tile that has taken accepted index p, and goes on at its entry in the next cycle. -/
def Tile.trigTaken (x : Tile) (p : Nat × Nat) : Tile := { x.trigLeft p with took := some p }

/-- The tile at the end of the cycle in which it has taken accepted index p. -/
def Tile.trigTicked (x : Tile) (p : Nat × Nat) : Tile := { x.trigTaken p with tc := x.tc + 1 }

section
variable (x : Tile) (p : Nat × Nat)

@[simp] theorem trigTicked_st : (x.trigTicked p).st = x.st := rfl
@[simp] theorem trigTicked_armed : (x.trigTicked p).armed = x.armed := rfl
@[simp] theorem trigTicked_took : (x.trigTicked p).took = some p := rfl
@[simp] theorem trigTicked_part : (x.trigTicked p).part = x.part := rfl
@[simp] theorem trigTicked_kend : (x.trigTicked p).kend = x.kend := rfl
@[simp] theorem trigTicked_slot : (x.trigTicked p).slot = x.slot := rfl
@[simp] theorem trigTicked_cur : (x.trigTicked p).cur = x.cur := rfl
@[simp] theorem trigTicked_entry (i : Nat) : (x.trigTicked p).entry i = x.entry i := rfl

theorem Tile.Still.trigTicked {x : Tile} (h : x.Still) (p : Nat × Nat) : (x.trigTicked p).Still := h

end

theorem takeTrig_of_valid {p : Nat × Nat} (hv : entryValid ((s.tile n).entry p.1) = true) (hstill : (s.tile n).Still) :
    s.takeTrig n w p = (s.progressed n).setTile n ((s.tile n).trigTicked p) := by
  have hentry : ((s.tile n).trigLeft p).entry p.1 = (s.tile n).entry p.1 := rfl
  have htick := tick_of_still (s := s.progressed n) (n := n) (x := (s.tile n).trigTaken p) hstill
  simp only [State.takeTrig, State.updTile, State.progressed_tile_at, State.tile_setTile_same]
  rw [show ({ s.tile n with trig := (s.tile n).trig.eraseIdx p.2 } : Tile) = (s.tile n).trigLeft p from rfl, hentry, if_pos hv,
    State.setTile_setTile]
  exact htick

theorem takeTrig_of_invalid {p : Nat × Nat} (hv : entryValid ((s.tile n).entry p.1) = false) :
    s.takeTrig n w p = ((s.progressed n).setTile n ((s.tile n).trigLeft p)).tileFault n .triggerInvalid
      ((s.tile n).cset (wCset w)).tag := by
  have hentry : ((s.tile n).trigLeft p).entry p.1 = (s.tile n).entry p.1 := rfl
  simp only [State.takeTrig, State.updTile, State.progressed_tile_at, State.tile_setTile_same]
  rw [show ({ s.tile n with trig := (s.tile n).trig.eraseIdx p.2 } : Tile) = (s.tile n).trigLeft p from rfl, hentry, hv]
  rfl

/-- A trigger taken in the cycle before ends the wait, unless an armed beat has come (R105). -/
theorem waitCycle_of_took {p : Nat × Nat} (ht : (s.tile n).took = some p)
    (hst : (s.tile n).st = .waitTrigger ∨
      ((s.tile n).st = .waitEither ∧ (s.tile n).armed.all (fun b => decide (s.esc.beat.toNat < b.toNat)) = true)) :
    s.waitCycle n {} = s.endWait n (s.tile n).cur (entryAddr ((s.tile n).entry p.1)) {} := by
  have hdue : (if (s.tile n).st = .waitBeat ∨ (s.tile n).st = .waitEither then
      (s.tile n).armed.filter (fun b => decide (b.toNat ≤ s.beat.toNat)) else none) = none := by
    rcases hst with h | ⟨h, ha⟩
    · simp [h]
    · cases hb : (s.tile n).armed with
      | none => simp
      | some b =>
        have hlt : s.esc.beat.toNat < b.toNat := by simpa [hb] using ha
        simp [State.beat, Nat.not_le.mpr hlt]
  simp only [State.waitCycle, hdue, ht]

theorem waitOver_trigTicked (ht : x.took = none) (p : Nat × Nat) (next : Nat) :
    (x.trigTicked p).waitOver next =
      { x with st := .run, held := none, cw := next, waitEnd := none, armed := none, trig := x.trig.eraseIdx p.2, serial := x.serial + 1
               tc := x.tc + 2 } := by
  have hx : { x with took := none } = x := by rw [← ht]
  have hy : (x.trigTicked p).waitOver next =
      let z : Tile := { x with took := none }
      { z with st := .run, held := none, cw := next, waitEnd := none, armed := none, trig := x.trig.eraseIdx p.2, serial := x.serial + 1
               tc := x.tc + 2 } := rfl
  rwa [hx] at hy

theorem tileFault_trigLeft (ht : x.took = none) (p : Nat × Nat) :
    ({ x.trigLeft p with st := .fault, held := none, armed := none, waitEnd := none, took := none, part := none, kend := none } : Tile) =
      { x with st := .fault, held := none, waitEnd := none, armed := none, part := none, kend := none, trig := x.trig.eraseIdx p.2 } := by
  have hx : { x with took := none } = x := by rw [← ht]
  have hy : ({ x.trigLeft p with st := .fault, held := none, armed := none, waitEnd := none, took := none, part := none
                                 kend := none } : Tile) =
      let z : Tile := { x with took := none }
      { z with st := .fault, held := none, waitEnd := none, armed := none, part := none, kend := none, trig := x.trig.eraseIdx p.2 } := rfl
  rwa [hx] at hy

section
variable (hc : Clean s) (hr : s.tileRuns n = true)
  (hst : (s.tile n).st = .waitTrigger ∨
    ((s.tile n).st = .waitEither ∧ (s.tile n).armed.all (fun b => decide (s.esc.beat.toNat < b.toNat)) = true))
include hc hr hst

theorem does_waitTriggerTaken (hmid : nfld (s.tile n).cur 16 188 = 0) (hseq : wSeqOp (s.tile n).cur = 6) (hq : TileQuiet (s.tile n))
    (hs : (s.tile n).scrubPair = none) {p : Nat × Nat} (hp : acceptedTrig (wTrigMask (s.tile n).cur) (s.tile n).trig = some p)
    (hv : entryValid ((s.tile n).entry p.1) = true) :
    Does (.waitTriggerTaken n) s [.tiles, .slots] fun t => GoesOn s t n { s.tile n with
      st := .run, held := none, cw := entryAddr ((s.tile n).entry p.1), waitEnd := none, armed := none
      trig := (s.tile n).trig.eraseIdx p.2, serial := (s.tile n).serial + 1, tc := (s.tile n).tc + 2 } := by
  have hstill := hq.still hs
  obtain ⟨-, -, -, -, -, -, -, -, -, -, hpart, -, hkend, htook, -⟩ := hq
  have htake := takeTrig_of_valid (s := s) (n := n) (w := (s.tile n).cur) hv hstill
  have htile : (s.takeTrig n (s.tile n).cur p).tile n = (s.tile n).trigTicked p := by
    rw [htake, State.tile_setTile_same]
  have hesc : (s.takeTrig n (s.tile n).cur p).esc = s.esc := by rw [htake, State.setTile_esc, State.progressed_esc]
  have hslot : ∀ j, (s.takeTrig n (s.tile n).cur p).slot j = ProgressedSlot s (s.tile n) n j := fun j => by
    rw [htake, State.setTile_slot_at, State.slot_progressed]
  have hother : ∀ m, m ≠ n → (s.takeTrig n (s.tile n).cur p).tile m = s.tile m := fun m hm => by
    rw [htake, State.tile_setTile, if_neg hm, State.progressed_tile_at]
  have hframe : Frame [.tiles, .slots] s (s.takeTrig n (s.tile n).cur p) := by
    rw [htake]
    exact ((Frame.refl hc).progressed (by simp) n).setTile (by simp) n _
  have hcycle := waitCycle_of_took (s := s.takeTrig n (s.tile n).cur p) (n := n) (p := p) (by rw [htile, trigTicked_took])
    (by rwa [htile, hesc, trigTicked_st, trigTicked_armed])
  have hend := endWait_of_still (s := s.takeTrig n (s.tile n).cur p) (n := n) hmid hseq (by rw [htile]; exact hstill.trigTicked p)
    (by rwa [htile, trigTicked_part]) (by rwa [htile, trigTicked_kend]) (entryAddr ((s.tile n).entry p.1))
  rw [htile, waitOver_trigTicked htook] at hend
  rw [htile, trigTicked_cur, trigTicked_entry, hend] at hcycle
  have hslotOf : ((s.takeTrig n (s.tile n).cur p).tile n).slot = (s.tile n).slot := by rw [htile, trigTicked_slot]
  exact Does.of_frame ((exec_waitTriggerTaken_of_accepted hr hst htook hp).trans (by rw [if_pos hv, hcycle]))
    ((hframe.progressed (by simp) n).setTile (by simp) n _) (goesOn_progressed hother hslotOf hesc (.inr hslot) _).endOf

theorem does_waitTriggerTaken_invalid (htook : (s.tile n).took = none) {p : Nat × Nat}
    (hp : acceptedTrig (wTrigMask (s.tile n).cur) (s.tile n).trig = some p) (hv : entryValid ((s.tile n).entry p.1) = false) :
    Does (.waitTriggerTaken n) s [.tiles, .slots, .ras] fun t =>
      GoesOn s t n { s.tile n with st := .fault, held := none, waitEnd := none, armed := none, part := none, kend := none
                                   trig := (s.tile n).trig.eraseIdx p.2 } ∧
      t.ras = { s.ras with tree := s.ras.tree ++ [{
        cause := .triggerInvalid, unit := .tile, index := n, cwAddr := (s.tile n).cw, bank := (s.tile n).bank
        tag := ((s.tile n).cset (wCset (s.tile n).cur)).tag }] } := by
  have htake := takeTrig_of_invalid (s := s) (n := n) (w := (s.tile n).cur) hv
  have htile : ((s.progressed n).setTile n ((s.tile n).trigLeft p)).tile n = (s.tile n).trigLeft p := State.tile_setTile_same ..
  refine Does.of_frame ((exec_waitTriggerTaken_of_accepted hr hst htook hp).trans (by rw [hv, htake]; rfl))
    ((((Frame.refl hc).progressed (by simp) n).setTile (by simp) n _).tileFault (by simp) (by simp) n _ _)
    ⟨⟨fun m hm => ?_, ?_, fun j => ?_⟩, ?_⟩
  · simp [hm]
  · rw [endOf_tile, State.tile_tileFault, if_pos rfl, htile, tileFault_trigLeft htook]
  · exact State.slot_progressed s n j
  · rw [endOf_ras, State.tileFault_ras, htile, State.setTile_ras, State.progressed_ras]
    rfl

end

/-- Settles O6: each clause is the lemma of its wait's end. -/
theorem waitsEnd : Obligations.WaitsEnd := by
  unfold Obligations.WaitsEnd
  intro s n hc hr x w plain goesOn
  refine ⟨fun b hst ha hb => ⟨exec_waitBeatEnd_of_due hr hst ha hb, fun ⟨hq, hs, hmid, _, hseq⟩ => ?beat⟩,
    fun hst hz htook => ⟨exec_waitCounterEnd_of_zero hr hst hz htook, fun ⟨hq, hs, hmid, _, hseq⟩ => ?counter⟩,
    fun i before after hst htook htrig hi hbefore => ?trigger⟩
  case beat => exact does_waitBeatEnd hc hr hmid hseq hq hs hst ha hb
  case counter => exact does_waitCounterEnd hc hr hmid hseq hq hs hst hz
  case trigger =>
    have hp : acceptedTrig (wTrigMask x.cur) x.trig = some (i, before.length) := by rw [htrig]; exact acceptedTrig_append hi hbefore
    have hleft : x.trig.eraseIdx before.length = before ++ after := by
      rw [htrig, List.eraseIdx_append_of_length_le (Nat.le_refl _), Nat.sub_self]
      rfl
    refine ⟨fun hv => ⟨?_, fun ⟨hq, hs, hmid, _, hseq⟩ => ?_⟩, fun hv => ?_⟩
    · have hvalid : entryValid (x.entry i) = true := by rw [entryValid_eq_nfld, hv]; rfl
      have hexec := exec_waitTriggerTaken_of_accepted hr hst htook hp
      rwa [if_pos hvalid] at hexec
    · have hdoes := does_waitTriggerTaken hc hr hst hmid hseq hq hs hp (by rw [entryValid_eq_nfld, hv]; rfl)
      rwa [hleft, entryAddr_eq_nfld] at hdoes
    · have hdoes := does_waitTriggerTaken_invalid hc hr hst htook hp (by rw [entryValid_eq_nfld, hv]; rfl)
      rwa [hleft] at hdoes

end Sys2Proof.Machine
end

section
/-! What a discarded staging leaves: the beat, which no access to the stacks moves, and the end of the load (R424). -/

namespace Sys2Proof.Machine

variable (s : State)

/-! ## Accesses to the stacks leave the synchronous core alone -/

@[simp] theorem setFab_esc (f : Fab) : (s.setFab f).esc = s.esc := rfl

@[simp] theorem free_esc : s.free.2.esc = s.esc := rfl

variable {s} in
/-- A chain of updates leaves the beat where each of them does. -/
theorem foldl_esc {α : Type} {f : State → α → State} (hf : ∀ s a, (f s a).esc = s.esc) (l : List α) : (l.foldl f s).esc = s.esc := by
  induction l generalizing s with
  | nil => rfl
  | cons a l ih => rw [List.foldl_cons, ih, hf]

@[simp] theorem latchLanes_esc (n : Nat) : (s.latchLanes n).esc = s.esc := by
  unfold State.latchLanes
  dsimp only
  split
  · split <;> rfl
  · rfl

@[simp] theorem laneFault_esc (n : Nat) (w : WordId) (mask causes : Nat) : (s.laneFault n w mask causes).esc = s.esc := by
  unfold State.laneFault
  dsimp only
  split
  · rfl
  · split
    · simp
    · split <;> simp

@[simp] theorem putMemBytes_esc (a : Nat) (bs : List Byte) : (s.putMemBytes a bs).esc = s.esc := by
  induction bs generalizing s a with
  | nil => rfl
  | cons b bs ih => simp [State.putMemBytes, ih]

@[simp] theorem putLine_esc (a : Nat) (v : Line) : (s.putLine a v).esc = s.esc := putMemBytes_esc ..

@[simp] theorem mapMarks_esc (a : Nat) (f : Nat → Mark → Mark) : (s.mapMarks a f).esc = s.esc := by
  refine foldl_esc (fun _ _ => ?_) _
  rfl

@[simp] theorem cureLine_esc (a : Nat) : (s.cureLine a).esc = s.esc := mapMarks_esc ..

@[simp] theorem memBad_esc (c a : Nat) : (s.memBad c a).esc = s.esc := by simp [State.memBad]

@[simp] theorem corrected_esc (c a : Nat) : (s.corrected c a).esc = s.esc := by simp [State.corrected]

@[simp] theorem unfence_esc (c a : Nat) : (s.unfence c a).esc = s.esc := rfl

@[simp] theorem redSat_esc (n : Nat) : (s.redSat n).esc = s.esc := by rw [redSat_eq, setFab_esc]

@[simp] theorem readLine_esc (c a : Nat) (need : W64) : (s.readLine c a need).2.2.esc = s.esc := by
  unfold State.readLine
  split
  dsimp only
  split
  · rfl
  · split <;> simp

@[simp] theorem evictLine_esc (c a : Nat) : (s.evictLine c a).esc = s.esc := by
  unfold State.evictLine
  split
  · rfl
  · dsimp only
    split
    · rw [State.setMark, mapMarks_esc, putLine_esc, unfence_esc, State.updChan_esc]
    · split
      · rw [putLine_esc, State.updChan_esc, unfence_esc, State.updChan_esc]
      · rw [cureLine_esc, putLine_esc, State.updChan_esc, State.updChan_esc, unfence_esc, State.updChan_esc]
      · rw [memBad_esc, State.updChan_esc, unfence_esc, State.updChan_esc]

@[simp] theorem replyFab_esc (p : FabPkt) (data : List Flit) (e : Option DropCause) : (s.replyFab p data e).esc = s.esc :=
  State.toSwitch_esc ..

@[simp] theorem partDone_esc (p : FabPkt) (data : List Flit) (e : Option DropCause) : (s.partDone p data e).esc = s.esc := by
  unfold State.partDone
  split
  · rw [replyFab_esc]
  · dsimp only
    split
    · rw [replyFab_esc]
    · rfl

@[simp] theorem txnPart_esc (tag : Nat) (data : Line) (e : Option DropCause) : (s.txnPart tag data e).esc = s.esc := by
  unfold State.txnPart
  split
  · rfl
  · dsimp only
    split
    · rfl
    · split
      · rfl
      · split
        · rfl
        · split
          · rw [laneFault_esc]
          · rfl
        · rfl

@[simp] theorem reply_esc (src : ReqSrc) (data : Line) (old : W64) (e : Option DropCause) : (s.reply src data old e).esc = s.esc := by
  unfold State.reply
  split
  · simp
  · split <;> simp
  · simp
  · simp
  · rfl

@[simp] theorem perform_esc (c : Nat) (r : LineReq) : (s.perform c r).esc = s.esc := by
  unfold State.perform
  split
  · simp
  · split <;> simp
  · simp
  · simp
  · dsimp only; split <;> simp
  · dsimp only; split <;> simp

@[simp] theorem serve_esc (c : Nat) (q : QReq) (starved : Bool) : (s.serve c q starved).esc = s.esc := by simp [State.serve]

@[simp] theorem arrive_esc (r : LineReq) : (s.arrive r).esc = s.esc := by
  unfold State.arrive
  dsimp only
  split
  · simp
  · split
    · simp
    · split
      · rfl
      · rfl
      · simp
      · split
        · simp
        · split <;> simp
      · simp

@[simp] theorem turnOf_esc (c n : Nat) : (s.turnOf c n).esc = s.esc := by
  unfold State.turnOf
  generalize 4 * (s.chan c).all.length + 8 = k
  induction k generalizing s with
  | zero => rfl
  | succ k ih =>
    unfold State.turns
    split
    · rfl
    · split
      · rfl
      · rw [ih, serve_esc]

@[simp] theorem serveTurn_esc (c n : Nat) : (s.serveTurn c n).esc = s.esc := by
  unfold State.serveTurn
  split
  · rfl
  · dsimp only
    split <;> simp

@[simp] theorem engineWrite_esc (a : Nat) (m : W64) (d : Line) (cls : Nat) : (s.engineWrite a m d cls).2.esc = s.esc := by
  unfold State.engineWrite
  split
  · rfl
  · split <;> simp [State.engineDo]

@[simp] theorem wrMem_esc (a : Nat) (bs : List Byte) (cls : Nat) : (s.wrMem a bs cls).2.esc = s.esc := by
  unfold State.wrMem
  generalize bs.length + 1 = k
  induction k generalizing s a bs with
  | zero => rfl
  | succ k ih =>
    cases bs with
    | nil => rfl
    | cons b bs => simp [State.engineStore, ih]

/-! ## A staging is discarded -/

@[simp] theorem freeBytes_esc (n : Nat) : (State.freeBytes n s).2.esc = s.esc := by
  induction n generalizing s with
  | zero => rfl
  | succ n ih => simp [State.freeBytes, ih]

@[simp] theorem shadowLost_esc (n : Nat) : (s.shadowLost n).esc = s.esc := by
  unfold State.shadowLost; split <;> rfl

@[simp] theorem loseStaging_esc (g : Staged) : (s.loseStaging g).esc = s.esc := by
  unfold State.loseStaging
  extract_lets banks routing circuits
  have hbanks : banks.esc = s.esc := by
    unfold banks
    split
    · exact foldl_esc shadowLost_esc _
    · rfl
  have hrouting : routing.esc = s.esc := by
    rw [← hbanks]
    refine foldl_esc (fun _ _ => ?_) _
    rfl
  have hcircuits : circuits.esc = s.esc := by
    rw [← hrouting]
    refine foldl_esc (fun _ _ => ?_) _
    rfl
  exact (foldl_esc (fun s r => by simp) _).trans hcircuits

/-- STATE and RESULT take their values, whether or not they stood there, and no other part of the state moves (R439). The new status stays a
name of its own, so that no comparison of states computes its bits. -/
theorem loadSet_eq (st result : Nat) : ∃ v : W64, fld v 0 3 = st % 2 ^ 3 ∧ fld v 3 5 = result % 2 ^ 5 ∧
    s.loadSet st result = s.updCfg fun c => { c with loadStatus := v } := by
  by_cases h : fld s.cfg.loadStatus 0 3 = st ∧ fld s.cfg.loadStatus 3 5 = result
  · obtain ⟨hst, hres⟩ := id h
    refine ⟨s.cfg.loadStatus, ?_, ?_, (if_pos h).trans rfl⟩
    · rw [← hst, Nat.mod_eq_of_lt (fld_lt ..)]
    · rw [← hres, Nat.mod_eq_of_lt (fld_lt ..)]
  · refine ⟨_, ?_, ?_, (if_neg h).trans rfl⟩
    · rw [fld_setFld_ne _ _ _ _ _ _ (by omega) (by omega), fld_setFld_ne _ _ _ _ _ _ (by omega) (by omega), fld_setFld _ _ _ _ (by omega)]
    · rw [fld_setFld_ne _ _ _ _ _ _ (by omega) (by omega), fld_setFld _ _ _ _ (by omega)]

/-- A discarded staging: nothing is staged, the load is back in IDLE with the RESULT, and the beat is as before (R424). -/
structure State.Discarded (s t : State) (result : Nat) : Prop where
  staging : t.cfg.staging = none
  idle : t.loadSt = 0
  result : fld t.cfg.loadStatus 3 5 = result
  esc : t.esc = s.esc

theorem dropStaging_discarded (result : Nat) (hr : result < 32) : s.Discarded (s.dropStaging result) result := by
  unfold State.dropStaging
  extract_lets lost unstaged ended
  have hlost : lost.esc = s.esc := by
    unfold lost
    split
    · exact loseStaging_esc ..
    · rfl
  obtain ⟨v, hst, hres, he⟩ := loadSet_eq unstaged 0 result
  have hended : ended = unstaged.updCfg fun c => { c with loadStatus := v } := he
  have hcfg : ended.cfg = { unstaged.cfg with loadStatus := v } := by rw [hended]; rfl
  have hesc : ended.esc = s.esc := by rw [hended]; exact hlost
  refine ⟨?_, ?_, ?_, hesc⟩
  · rw [hcfg]; rfl
  · rw [State.loadSt, hcfg]; exact hst
  · rw [hcfg]; exact hres.trans (Nat.mod_eq_of_lt hr)

end Sys2Proof.Machine
end

section
/-! The accesses to the control store through CW_LD (R112, R115 to R117, R424), and obligation O45 from what each of them does. -/

namespace Sys2Proof.Machine

variable {s t : State} {n b i : Nat} {target v : W64} {data : List W64} {l : List Piece}

/-! ## The write of a word or an entry into a bank -/

section
variable (c : CsBank) (x : Tile) (d0 d1 d2 d3 : W64)

theorem put_sr : (c.put i d0 d1 d2 d3).sr = c.sr := by
  unfold CsBank.put; split <;> rfl

theorem put_words (j : Nat) :
    aget 0 (c.put i d0 d1 d2 d3).words j = if i < 256 ∧ j = i then d3 ++ d2 ++ d1 ++ d0 else aget 0 c.words j := by
  by_cases hi : i < 256 <;> simp [CsBank.put, CsBank.write, hi]

theorem put_parity (j : Nat) : aget 0 (c.put i d0 d1 d2 d3).parity j =
    if i < 256 ∧ j = i then wordParity (d3 ++ d2 ++ d1 ++ d0).toNat else aget 0 c.parity j := by
  by_cases hi : i < 256
  · simp only [CsBank.put, CsBank.write, hi, if_true, aget_aset, true_and]
  · simp only [CsBank.put, hi, if_false, false_and]

theorem put_entries (j : Nat) : aget 0 (c.put i d0 d1 d2 d3).entries j =
    if 256 ≤ i ∧ j = i - 256 then BitVec.ofNat 16 d0.toNat else aget 0 c.entries j := by
  by_cases hi : i < 256
  · simp [CsBank.put, CsBank.write, hi, Nat.not_le.2 hi]
  · simp [CsBank.put, hi, Nat.not_lt.1 hi]

@[simp] theorem bankOf_setBank : (x.setBank b c).bankOf b = c := by
  unfold Tile.setBank Tile.bankOf
  by_cases hb : b = 0 <;> simp [hb]

@[simp] theorem setBank_bank : (x.setBank b c).bank = x.bank := by
  unfold Tile.setBank; split <;> rfl

end

/-! ## The read of a word or an entry -/

/-- A 64-bit piece of a control word. -/
theorem ofNat_nfld_word (w : W256) (k : Nat) : BitVec.ofNat 64 (nfld w.toNat (64 * k) 64) = w.extractLsb' (64 * k) 64 := by
  apply BitVec.eq_of_toNat_eq
  simp [nfld, Nat.shiftRight_eq_div_pow]

/-- The four DATA registers hold a word between them (R116). -/
theorem word_of_pieces (w : W256) : BitVec.ofNat 64 (nfld w.toNat (64 * 3) 64) ++ BitVec.ofNat 64 (nfld w.toNat (64 * 2) 64) ++
    BitVec.ofNat 64 (nfld w.toNat (64 * 1) 64) ++ BitVec.ofNat 64 (nfld w.toNat (64 * 0) 64) = w := by
  simp only [ofNat_nfld_word]
  apply BitVec.eq_of_getLsbD_eq
  intro j hj
  simp only [BitVec.getLsbD_append, BitVec.getLsbD_extractLsb']
  by_cases h1 : j < 64
  · simp [h1]
  · by_cases h2 : j - 64 < 64
    · simp [h1, h2, show 64 + (j - 64) = j by omega]
    · by_cases h3 : j - 64 - 64 < 64
      · simp [h1, h2, h3, show 128 + (j - 64 - 64) = j by omega]
      · simp [h1, h2, h3, show j - 64 - 64 - 64 < 64 by omega, show 192 + (j - 64 - 64 - 64) = j by omega]

/-- An entry stands in DATA0 and leaves no bit of it to the other DATA registers (log 110). -/
theorem entry_piece (e : W16) : BitVec.ofNat 64 (nfld e.toNat (64 * 0) 64) = e.setWidth 64 ∧
    ∀ k, 1 ≤ k → BitVec.ofNat 64 (nfld e.toNat (64 * k) 64) = 0#64 := by
  refine ⟨?_, fun k hk => ?_⟩
  · apply BitVec.eq_of_toNat_eq
    simp [nfld]
  · have he : e.toNat < 2 ^ (64 * k) := e.isLt.trans_le (Nat.pow_le_pow_right (by omega) (by omega))
    rw [nfld, Nat.shiftRight_eq_div_pow, Nat.div_eq_of_lt he, Nat.zero_mod]

/-- The DATA registers after a read of bank c: TARGET stays, and the word or the entry stands in them (R116). -/
theorem cwLoad_eq (s : State) (c : CsBank) (i : Nat) : ∃ k : CwLd, k.target = s.cwld.target ∧
    (i < 256 → k.data3 ++ k.data2 ++ k.data1 ++ k.data0 = aget 0 c.words i) ∧
    (256 ≤ i → k.data0 = (aget 0 c.entries (i - 256)).setWidth 64 ∧ k.data1 = 0 ∧ k.data2 = 0 ∧ k.data3 = 0) ∧
    s.cwLoad c i = s.setCwld k := by
  refine ⟨(s.cwLoad c i).cwld, rfl, fun hi => ?_, fun hi => ?_, rfl⟩
  · simp only [State.cwLoad, if_pos hi]
    exact word_of_pieces _
  · obtain ⟨h0, hk⟩ := entry_piece (aget 0 c.entries (i - 256))
    simp only [State.cwLoad, if_neg (Nat.not_lt.2 hi)]
    exact ⟨h0, hk 1 (by omega), hk 2 (by omega), hk 3 (by omega)⟩

/-! ## What an access does -/

/-- A shadow bank with defined contents stays as it is. -/
theorem materialise_of_defined (hu : s.shadowUndef n = false) : s.materialise n = s := by simp [State.materialise, hu]

/-- A write to a shadow bank discards nothing before DISTRIBUTE, nor while a commit applies (R424). -/
theorem shadowWritten_of_kept (h : s.loadSt < 4 ∨ s.commitPast = true) : s.shadowWritten = s := by
  have hn : ¬ (4 ≤ s.loadSt ∧ (!s.commitPast) = true) := by rcases h with h | h <;> simp [h]
  rw [State.shadowWritten, if_neg hn]

/-- The tile whose bank b holds the DATA registers in place of its word or entry i. -/
def Tile.putBank (x : Tile) (b i : Nat) (data : List W64) : Tile :=
  x.setBank b ((x.bankOf b).put i (nth 0 data 0) (nth 0 data 1) (nth 0 data 2) (nth 0 data 3))

/-- Whether a write that is forced or not may enter the active bank of a tile (R115). -/
def Tile.forceable (x : Tile) (forced : Bool) : Bool := forced && (x.st == .halted || x.st == .fault)

theorem cwLdAct_badTarget (h : 271 < fld target 21 9) (w f r : Bool) : s.cwLdAct target data w f r = s.cwResult 5 := by
  simp only [State.cwLdAct, if_pos h]

section
variable (hi : fld target 21 9 ≤ 271) (hu : s.shadowUndef (fld target 0 20) = false)
include hi hu

theorem cwLdAct_locked {f : Bool} (hb : fld target 20 1 = (s.tile (fld target 0 20)).bank)
    (hf : (s.tile (fld target 0 20)).forceable f = false) : s.cwLdAct target data true f false = s.cwResult 3 := by
  have hlock : fld target 20 1 = (s.tile (fld target 0 20)).bank ∧ (!(s.tile (fld target 0 20)).forceable f) = true := ⟨hb, by simp [hf]⟩
  simp only [Tile.forceable] at hlock
  simp only [State.cwLdAct, if_neg (Nat.not_lt.2 hi), materialise_of_defined hu, ite_self, Bool.not_true, Bool.false_eq_true, if_false,
    if_pos hlock]

theorem cwLdAct_committed {f : Bool} (hb : fld target 20 1 ≠ (s.tile (fld target 0 20)).bank)
    (hc : s.shadowCommitted (fld target 0 20) = true) : s.cwLdAct target data true f false = s.cwResult 4 := by
  simp only [State.cwLdAct, if_neg (Nat.not_lt.2 hi), materialise_of_defined hu, ite_self, Bool.not_true, Bool.false_eq_true, if_false,
    hb, false_and, ne_eq, not_false_eq_true, hc, true_and, if_true]

/-- A forced write to the active bank of a tile that stands still (R115). -/
theorem cwLdAct_forced {f : Bool} (hb : fld target 20 1 = (s.tile (fld target 0 20)).bank)
    (hf : (s.tile (fld target 0 20)).forceable f = true) : s.cwLdAct target data true f false =
      (s.updTile (fld target 0 20) fun x => x.putBank (fld target 20 1) (fld target 21 9) data).cwResult 2 := by
  simp only [Tile.forceable] at hf
  simp only [State.cwLdAct, if_neg (Nat.not_lt.2 hi), materialise_of_defined hu, ite_self, Bool.not_true, Bool.false_eq_true, if_false,
    hf, hb, and_false, ne_eq, not_true_eq_false, false_and, if_true, Tile.putBank]

/-- A write to a bank that is not the active one, where no staging is to be discarded (R112). -/
theorem cwLdAct_shadow {f : Bool} (hb : fld target 20 1 ≠ (s.tile (fld target 0 20)).bank)
    (hc : s.shadowCommitted (fld target 0 20) = false) (hk : s.loadSt < 4 ∨ s.commitPast = true) :
    s.cwLdAct target data true f false =
      (s.updTile (fld target 0 20) fun x => x.putBank (fld target 20 1) (fld target 21 9) data).cwResult 2 := by
  simp only [State.cwLdAct, if_neg (Nat.not_lt.2 hi), shadowWritten_of_kept hk, materialise_of_defined hu, ite_self, Bool.not_true,
    Bool.false_eq_true, if_false, hb, hc, false_and, and_false, Tile.putBank]

theorem cwLdAct_read : s.cwLdAct target data false false true =
    (s.cwLoad ((s.tile (fld target 0 20)).bankOf (fld target 20 1)) (fld target 21 9)).cwResult 2 := by
  simp only [State.cwLdAct, if_neg (Nat.not_lt.2 hi), materialise_of_defined hu, ite_self, Bool.not_false, if_true]

end

/-! ## A write to a shadow place discards a staging -/

/-- Where the contents of a tile's shadow bank become definite, its active bank, the load, the commit and the beat are as before. -/
structure State.SameLoad (s t : State) : Prop where
  esc : t.esc = s.esc
  cfg : t.cfg = { s.cfg with undefined := t.cfg.undefined }
  bank : ∀ m, (t.tile m).bank = (s.tile m).bank

theorem shadowDefined_sameLoad (s : State) (n : Nat) : s.SameLoad (s.shadowDefined n) := by
  unfold State.shadowDefined
  split <;> exact ⟨rfl, rfl, fun _ => rfl⟩

theorem State.SameLoad.updTile (h : s.SameLoad t) (n : Nat) {f : Tile → Tile} (hf : ∀ x, (f x).bank = x.bank) :
    s.SameLoad (t.updTile n f) := by
  refine ⟨h.esc, h.cfg, fun m => ?_⟩
  rw [State.updTile, State.tile_setTile]
  split
  next hm => rw [hf, hm, h.bank]
  next => exact h.bank m

theorem materialise_sameLoad (s : State) (n : Nat) : s.SameLoad (s.materialise n) := by
  by_cases hu : s.shadowUndef n = false
  · rw [materialise_of_defined hu]
    exact ⟨rfl, rfl, fun _ => rfl⟩
  · rw [State.materialise, if_neg (by simpa using hu)]
    extract_lets s1 k v words entries s2
    have h2 : s.SameLoad s2 := (shadowDefined_sameLoad s n).updTile n fun x => setBank_bank ..
    exact ⟨h2.esc, h2.cfg, h2.bank⟩

theorem State.SameLoad.refl (s : State) : s.SameLoad s := ⟨rfl, rfl, fun _ => rfl⟩

theorem State.SameLoad.commitPast (h : s.SameLoad t) : t.commitPast = s.commitPast := by
  rw [State.commitPast, State.commitPast, h.cfg, State.beat, State.beat, h.esc]

theorem State.SameLoad.loadSt (h : s.SameLoad t) : t.loadSt = s.loadSt := by rw [State.loadSt, State.loadSt, h.cfg]

theorem State.SameLoad.shadowCommitted (h : s.SameLoad t) (n : Nat) : t.shadowCommitted n = s.shadowCommitted n := by
  rw [State.shadowCommitted, State.shadowCommitted, h.commitPast, State.commitArmed, State.commitArmed, h.cfg]

theorem State.SameLoad.discarded {u : State} {r : Nat} (h : s.SameLoad u) (hd : u.Discarded t r) : s.Discarded t r :=
  ⟨hd.staging, hd.idle, hd.result, hd.esc.trans h.esc⟩

theorem State.Discarded.sameLoad {u : State} {r : Nat} (hd : s.Discarded t r) (h : t.SameLoad u) : s.Discarded u r :=
  ⟨by rw [h.cfg]; exact hd.staging, h.loadSt.trans hd.idle, by rw [h.cfg]; exact hd.result, h.esc.trans hd.esc⟩

theorem State.Discarded.updTile {r : Nat} (hd : s.Discarded t r) (n : Nat) (f : Tile → Tile) : s.Discarded (t.updTile n f) r :=
  ⟨hd.staging, hd.idle, hd.result, hd.esc⟩

/-- A write to a bank that is not the active one discards what is staged, with RESULT STAGE_DISCARDED (R424). -/
theorem cwLdAct_discards {f : Bool} (hi : fld target 21 9 ≤ 271) (hb : fld target 20 1 ≠ (s.tile (fld target 0 20)).bank)
    (hc : s.shadowCommitted (fld target 0 20) = false) (hl : s.loadSt = 5) (hp : s.commitPast = false) :
    ∃ t, s.Discarded t 15 ∧ s.cwLdAct target data true f false = t.cwResult 2 := by
  obtain ⟨u, hsame, hu⟩ : ∃ u, s.SameLoad u ∧
      u = if fld target 20 1 = (s.tile (fld target 0 20)).shadow then s.materialise (fld target 0 20) else s := by
    refine ⟨_, ?_, rfl⟩
    split
    · exact materialise_sameLoad ..
    · exact .refl s
  have hwritten : u.shadowWritten = u.dropStaging 15 := by
    rw [State.shadowWritten, if_pos ⟨by rw [hsame.loadSt]; omega, by rw [hsame.commitPast, hp]; rfl⟩]
  have hdrop := hsame.discarded (dropStaging_discarded u 15 (by omega))
  refine ⟨_, (hdrop.sameLoad (materialise_sameLoad _ (fld target 0 20))).updTile (fld target 0 20)
    fun x => x.putBank (fld target 20 1) (fld target 21 9) data, ?_⟩
  simp only [State.cwLdAct, if_neg (Nat.not_lt.2 hi), ← hu, hsame.bank, hsame.shadowCommitted, hwritten, Bool.not_true, Bool.false_eq_true,
    if_false, hb, hc, false_and, and_false, Tile.putBank]

/-! ## An access from the writes that have landed -/

/-- The tile, the bank and the index that the landed writes leave in TARGET (R116). -/
def State.cwTile (s : State) : Nat := fld s.cwLatched.target 0 20
def State.cwBank (s : State) : Nat := fld s.cwLatched.target 20 1
def State.cwIndex (s : State) : Nat := fld s.cwLatched.target 21 9

/-- The state in which CW_LD_STATUS is as an access that has been counted leaves it. -/
def State.withCwStatus (s : State) (st : W64) : State := s.setCwld { s.cwld with status := st }

/-- No CW_LD register but the status differs. -/
def State.CwHeld (s t : State) : Prop := t.cwld = { s.cwld with status := t.cwld.status }

/-- RESULT and BEAT_LO of an access that acts in the beat of s. -/
def State.CwAnswer (s t : State) (r : Nat) : Prop := fld t.cwld.status 0 3 = r ∧ fld t.cwld.status 32 32 = s.esc.beat.toNat % 2 ^ 32

/-- The target of TARGET has taken the DATA registers, and nothing else of the tiles has changed. -/
def State.CwWritten (s t : State) : Prop :=
  s.CwHeld t ∧ s.CwAnswer t 2 ∧ (∀ m, m ≠ s.cwTile → t.tile m = s.tile m) ∧
    let c := (s.tile s.cwTile).bankOf s.cwBank
    let d := (t.tile s.cwTile).bankOf s.cwBank
    let k := s.cwLatched
    let word := k.data3 ++ k.data2 ++ k.data1 ++ k.data0
    t.tile s.cwTile = (s.tile s.cwTile).setBank s.cwBank d ∧ d.sr = c.sr ∧
      (∀ j, aget 0 d.words j = if s.cwIndex < 256 ∧ j = s.cwIndex then word else aget 0 c.words j) ∧
      (∀ j, aget 0 d.parity j = if s.cwIndex < 256 ∧ j = s.cwIndex then wordParity word.toNat else aget 0 c.parity j) ∧
      (∀ j, aget 0 d.entries j =
        if 256 ≤ s.cwIndex ∧ j = s.cwIndex - 256 then BitVec.ofNat 16 k.data0.toNat else aget 0 c.entries j)

/-- The DATA registers have taken the target of TARGET. -/
def State.CwFetched (s t : State) : Prop :=
  let c := (s.tile s.cwTile).bankOf s.cwBank
  s.CwAnswer t 2 ∧ t.cwld.target = s.cwld.target ∧
    (s.cwIndex < 256 → t.cwld.data3 ++ t.cwld.data2 ++ t.cwld.data1 ++ t.cwld.data0 = aget 0 c.words s.cwIndex) ∧
    (256 ≤ s.cwIndex → t.cwld.data0 = (aget 0 c.entries (s.cwIndex - 256)).setWidth 64 ∧ t.cwld.data1 = 0 ∧ t.cwld.data2 = 0 ∧
      t.cwld.data3 = 0)

/-- An access of value v acts, at a boundary or, while no beats are counted, as command c: within the parts listed, and so that the
state after it has the property. -/
def State.CwActs (s : State) (c : Instr) (v : W64) (l : List Piece) (post : State → Prop) : Prop :=
  (post (s.actLanded (s.cwLdLanded .bar0 v)) ∧ Frame l s (s.actLanded (s.cwLdLanded .bar0 v))) ∧
    (fld s.cwld.status 0 3 ≠ 1 → s.synced = false → Does c s l post)

/-- The answer of an access in its registers. The new status stays a name of its own, so that no comparison of states computes its bits. -/
theorem cwResult_answers (s : State) {r : Nat} (hr : r < 8) : ∃ st : W64, fld st 0 3 = r ∧ fld st 32 32 = s.esc.beat.toNat % 2 ^ 32 ∧
    s.cwResult r = s.setCwld { s.cwld with status := st } :=
  ⟨_, by rw [fld_setFld_ne _ _ _ _ _ _ (by omega) (by omega), fld_setFld _ _ _ _ (by omega), Nat.mod_eq_of_lt (by omega)],
    fld_setFld _ _ _ _ (by omega), rfl⟩

theorem actLanded_cwLd (s u : State) (v : W64) : u.actLanded (s.cwLdLanded .bar0 v) = u.cwLdAct s.cwLatched.target
    [s.cwLatched.data0, s.cwLatched.data1, s.cwLatched.data2, s.cwLatched.data3] (bitOf v 0) (bitOf v 1) (bitOf v 2) :=
  if_pos rfl

/-- While no beats are counted the access acts as GO or READ is written (R115, R280). -/
theorem cwLdGo_of_not_synced (hv : (bitOf v 0 || bitOf v 2) = true) (hp : fld s.cwld.status 0 3 ≠ 1) (hs : s.synced = false) :
    ∃ st, s.cwLdGo v = (s.withCwStatus st).actLanded (s.cwLdLanded .bar0 v) := by
  obtain ⟨st, -, he⟩ := cwResult_eq s 1
  have hgo : ¬ ((!(bitOf v 0 || bitOf v 2)) = true ∨ fld s.cwld.status 0 3 = 1) := by simp [hv, hp]
  have hs' : (s.setCwld { s.cwld with status := st }).synced = false := hs
  exact ⟨st, by simp only [State.cwLdGo, State.land, if_true, if_neg hgo, he, hs', Bool.false_eq_true, if_false, State.withCwStatus,
    State.cwLdLanded]⟩

@[simp] theorem setCwld_tile (c : CwLd) (m : Nat) : (s.setCwld c).tile m = s.tile m := rfl

/-- What an access does from every status of CW_LD it does at a boundary, and as the command that makes it. -/
theorem cwActs_of_status {c : Instr} {post : State → Prop} (he : exec c s = done s (s.cwLdGo v)) (hv : (bitOf v 0 || bitOf v 2) = true)
    (hpost : ∀ t, post t → post (endOf s t))
    (h : ∀ st, post ((s.withCwStatus st).actLanded (s.cwLdLanded .bar0 v)) ∧
      Frame l s ((s.withCwStatus st).actLanded (s.cwLdLanded .bar0 v))) :
    s.CwActs c v l post := by
  refine ⟨h s.cwld.status, fun hp hs => ?_⟩
  obtain ⟨st, hgo⟩ := cwLdGo_of_not_synced hv hp hs
  exact Does.of_frame (he.trans (by rw [hgo])) (h st).2 (hpost _ (h st).1)

/-- An access that answers and does nothing else. -/
theorem cwActs_answer {c : Instr} {r : Nat} (hc : Clean s) (he : exec c s = done s (s.cwLdGo v)) (hv : (bitOf v 0 || bitOf v 2) = true)
    (hr : r < 8) (h : ∀ st, (s.withCwStatus st).actLanded (s.cwLdLanded .bar0 v) = (s.withCwStatus st).cwResult r) :
    s.CwActs c v [.cwld] fun t => s.CwHeld t ∧ s.CwAnswer t r := by
  refine cwActs_of_status he hv (fun _ h => h) fun st => ?_
  obtain ⟨st', hres, hbeat, hcw⟩ := cwResult_answers (s.withCwStatus st) hr
  rw [h st, hcw]
  exact ⟨⟨rfl, hres, hbeat⟩, ((Frame.refl hc).setCwld (by simp) _).setCwld (by simp) _⟩

/-- An access that writes its target. -/
theorem cwActs_written {c : Instr} (hc : Clean s) (he : exec c s = done s (s.cwLdGo v)) (hv : (bitOf v 0 || bitOf v 2) = true)
    (h : ∀ st, (s.withCwStatus st).actLanded (s.cwLdLanded .bar0 v) =
      ((s.withCwStatus st).updTile s.cwTile fun x => x.putBank s.cwBank s.cwIndex
        [s.cwLatched.data0, s.cwLatched.data1, s.cwLatched.data2, s.cwLatched.data3]).cwResult 2) :
    s.CwActs c v [.cwld, .tiles] s.CwWritten := by
  refine cwActs_of_status he hv (fun _ h => h) fun st => ?_
  rw [h st]
  generalize hx : (s.tile s.cwTile).putBank s.cwBank s.cwIndex
    [s.cwLatched.data0, s.cwLatched.data1, s.cwLatched.data2, s.cwLatched.data3] = x
  have hupd : ((s.withCwStatus st).updTile s.cwTile fun x => x.putBank s.cwBank s.cwIndex
      [s.cwLatched.data0, s.cwLatched.data1, s.cwLatched.data2, s.cwLatched.data3]) = (s.withCwStatus st).setTile s.cwTile x := by
    rw [← hx]; rfl
  obtain ⟨st', hres, hbeat, hcw⟩ := cwResult_answers ((s.withCwStatus st).setTile s.cwTile x) (r := 2) (by omega)
  rw [hupd, hcw]
  have htile : ∀ m, (((s.withCwStatus st).setTile s.cwTile x).setCwld
      { ((s.withCwStatus st).setTile s.cwTile x).cwld with status := st' }).tile m = if m = s.cwTile then x else s.tile m :=
    fun m => by rw [setCwld_tile, State.tile_setTile]; rfl
  have hbank : x.bankOf s.cwBank = ((s.tile s.cwTile).bankOf s.cwBank).put s.cwIndex s.cwLatched.data0 s.cwLatched.data1
      s.cwLatched.data2 s.cwLatched.data3 := by rw [← hx]; exact bankOf_setBank ..
  refine ⟨⟨rfl, ⟨hres, hbeat⟩, fun m hm => (htile m).trans (if_neg hm), ?_⟩,
    (((Frame.refl hc).setCwld (by simp) _).setTile (by simp) _ _).setCwld (by simp) _⟩
  simp only [htile, if_true, hbank]
  exact ⟨hx.symm, put_sr .., put_words _ _ _ _ _, put_parity _ _ _ _ _, put_entries _ _ _ _ _⟩

/-- An access that reads its target. -/
theorem cwActs_fetched {c : Instr} (hc : Clean s) (he : exec c s = done s (s.cwLdGo v)) (hv : (bitOf v 0 || bitOf v 2) = true)
    (h : ∀ st, (s.withCwStatus st).actLanded (s.cwLdLanded .bar0 v) =
      ((s.withCwStatus st).cwLoad ((s.tile s.cwTile).bankOf s.cwBank) s.cwIndex).cwResult 2) :
    s.CwActs c v [.cwld] s.CwFetched := by
  refine cwActs_of_status he hv (fun _ h => h) fun st => ?_
  rw [h st]
  obtain ⟨k, htarget, hword, hentry, hload⟩ := cwLoad_eq (s.withCwStatus st) ((s.tile s.cwTile).bankOf s.cwBank) s.cwIndex
  obtain ⟨st', hres, hbeat, hcw⟩ := cwResult_answers ((s.withCwStatus st).setCwld k) (r := 2) (by omega)
  rw [hload, hcw]
  exact ⟨⟨⟨hres, hbeat⟩, htarget, hword, hentry⟩,
    (((Frame.refl hc).setCwld (by simp) _).setCwld (by simp) _).setCwld (by simp) _⟩

/-! ## The three commands -/

/-- The commands of CW_LD, each with the value that it writes to CW_LD_CTRL. -/
def cwCommands : List (Instr × W64) := [(.cwLdWrite, 1), (.cwLdForcedWrite, 3), (.cwLdRead, 4)]

theorem exec_cwCommand {p : Instr × W64} (hp : p ∈ cwCommands) (s : State) : exec p.1 s = done s (s.cwLdGo p.2) := by
  simp only [cwCommands, List.mem_cons, List.not_mem_nil, or_false] at hp
  obtain rfl | rfl | rfl := hp <;> rfl

theorem cwCommand_goes {p : Instr × W64} (hp : p ∈ cwCommands) : (bitOf p.2 0 || bitOf p.2 2) = true := by
  revert p
  decide

section
variable {p : Instr × W64} (hp : p ∈ cwCommands) (hc : Clean s)
include hp hc

/-- While an access is pending there is no other (R116). -/
theorem does_cwCommand_of_pending (hpend : fld s.cwld.status 0 3 = 1) : Does p.1 s [] fun _ => True :=
  Does.of_idle hc ((exec_cwCommand hp s).trans (by rw [State.cwLdGo, land_cwLd_of_pending hpend]))

/-- While beats are counted the access waits for the boundary with TARGET and DATA latched, and reads PENDING (R117). -/
theorem does_cwCommand_of_synced (hpend : fld s.cwld.status 0 3 ≠ 1) (hs : s.synced = true) :
    Does p.1 s [.cwld, .landed] fun t =>
      t.host.landed = s.host.landed ++ [s.cwLdLanded .bar0 p.2] ∧ s.CwHeld t ∧ s.CwAnswer t 1 := by
  obtain ⟨st, hres, hbeat, hcw⟩ := cwResult_answers s (r := 1) (by omega)
  have hgo : ¬ ((!(bitOf p.2 0 || bitOf p.2 2)) = true ∨ fld s.cwld.status 0 3 = 1) := by simp [cwCommand_goes hp, hpend]
  have hs' : (s.setCwld { s.cwld with status := st }).synced = true := hs
  have hland : s.cwLdGo p.2 = (s.setCwld { s.cwld with status := st }).addLanded (s.cwLdLanded .bar0 p.2) := by
    simp only [State.cwLdGo, State.land, if_true, if_neg hgo, hcw, hs', State.addLanded, State.cwLdLanded]
  have he := exec_cwCommand hp s
  rw [hland] at he
  exact Does.of_frame he (((Frame.refl hc).setCwld (by simp) _).addLanded (by simp) _) ⟨rfl, rfl, hres, hbeat⟩

/-- An INDEX above 271 (R116). -/
theorem cwActs_badTarget (hi : 271 < s.cwIndex) : s.CwActs p.1 p.2 [.cwld] fun t => s.CwHeld t ∧ s.CwAnswer t 5 :=
  cwActs_answer hc (exec_cwCommand hp s) (cwCommand_goes hp) (by omega) fun st => by rw [actLanded_cwLd]; exact cwLdAct_badTarget hi ..

end

/-- A write, forced or not, that value v of CW_LD_CTRL makes as command c. -/
structure CwWrites (c : Instr) (v : W64) (forced : Bool) : Prop where
  exec : ∀ s, Machine.exec c s = done s (s.cwLdGo v)
  go : bitOf v 0 = true
  force : bitOf v 1 = forced
  read : bitOf v 2 = false

theorem cwWrites_cwLdWrite : CwWrites .cwLdWrite 1 false := ⟨fun _ => rfl, by decide, by decide, by decide⟩

theorem cwWrites_cwLdForcedWrite : CwWrites .cwLdForcedWrite 3 true := ⟨fun _ => rfl, by decide, by decide, by decide⟩

section
variable {c : Instr} {f : Bool} (hw : CwWrites c v f)
include hw

theorem CwWrites.goes : (bitOf v 0 || bitOf v 2) = true := by rw [hw.go]; rfl

theorem CwWrites.actLanded (s u : State) : u.actLanded (s.cwLdLanded .bar0 v) = u.cwLdAct s.cwLatched.target
    [s.cwLatched.data0, s.cwLatched.data1, s.cwLatched.data2, s.cwLatched.data3] true f false := by
  rw [actLanded_cwLd, hw.go, hw.force, hw.read]

variable (hc : Clean s) (hi : s.cwIndex ≤ 271) (hu : s.shadowUndef s.cwTile = false)
include hc hi hu

theorem cwActs_locked (hb : s.cwBank = (s.tile s.cwTile).bank) (hf : (s.tile s.cwTile).forceable f = false) :
    s.CwActs c v [.cwld] fun t => s.CwHeld t ∧ s.CwAnswer t 3 :=
  cwActs_answer hc (hw.exec s) hw.goes (by omega) fun st => by
    rw [hw.actLanded]; exact cwLdAct_locked (s := s.withCwStatus st) hi hu hb hf

theorem cwActs_committed (hb : s.cwBank ≠ (s.tile s.cwTile).bank) (hcm : s.shadowCommitted s.cwTile = true) :
    s.CwActs c v [.cwld] fun t => s.CwHeld t ∧ s.CwAnswer t 4 :=
  cwActs_answer hc (hw.exec s) hw.goes (by omega) fun st => by
    rw [hw.actLanded]; exact cwLdAct_committed (s := s.withCwStatus st) hi hu hb hcm

theorem cwActs_forced (hb : s.cwBank = (s.tile s.cwTile).bank) (hf : (s.tile s.cwTile).forceable f = true) :
    s.CwActs c v [.cwld, .tiles] s.CwWritten :=
  cwActs_written hc (hw.exec s) hw.goes fun st => by
    rw [hw.actLanded]; exact cwLdAct_forced (s := s.withCwStatus st) hi hu hb hf

theorem cwActs_shadow (hb : s.cwBank ≠ (s.tile s.cwTile).bank) (hcm : s.shadowCommitted s.cwTile = false)
    (hk : s.loadSt < 4 ∨ s.commitPast = true) : s.CwActs c v [.cwld, .tiles] s.CwWritten :=
  cwActs_written hc (hw.exec s) hw.goes fun st => by
    rw [hw.actLanded]; exact cwLdAct_shadow (s := s.withCwStatus st) hi hu hb hcm hk

end

theorem cwActs_read (hc : Clean s) (hi : s.cwIndex ≤ 271) (hu : s.shadowUndef s.cwTile = false) :
    s.CwActs .cwLdRead 4 [.cwld] s.CwFetched :=
  cwActs_fetched hc rfl (by decide) fun st => by
    rw [actLanded_cwLd]; exact cwLdAct_read (s := s.withCwStatus st) hi hu

/-- The write, landed, discards a staging (R424). -/
theorem actLanded_discards {c : Instr} {f : Bool} (hw : CwWrites c v f) (hi : s.cwIndex ≤ 271) (hb : s.cwBank ≠ (s.tile s.cwTile).bank)
    (hcm : s.shadowCommitted s.cwTile = false) (hl : s.loadSt = 5) (hp : s.commitPast = false) :
    s.CwAnswer (s.actLanded (s.cwLdLanded .bar0 v)) 2 ∧ s.Discarded (s.actLanded (s.cwLdLanded .bar0 v)) 15 := by
  obtain ⟨t, hd, he⟩ := cwLdAct_discards (f := f)
    (data := [s.cwLatched.data0, s.cwLatched.data1, s.cwLatched.data2, s.cwLatched.data3]) hi hb hcm hl hp
  obtain ⟨st, hres, hbeat, hcw⟩ := cwResult_answers t (r := 2) (by omega)
  rw [hw.actLanded, he, hcw]
  exact ⟨⟨hres, hbeat.trans (by rw [hd.esc])⟩, hd.staging, hd.idle, hd.result, hd.esc⟩

/-- A write that is forced may enter the active bank of a tile in HALTED or FAULT alone (R115). -/
theorem forceable_true (x : Tile) : x.forceable true = true ↔ x.st = .halted ∨ x.st = .fault := by simp [Tile.forceable]

/-- Settles O45: while an access is pending there is no other; while beats are counted it lands with TARGET and DATA latched; and from every
status of CW_LD an access does what the model's cycle of it does in each case of its target. -/
theorem controlStoreAccess : Obligations.ControlStoreAccess := by
  unfold Obligations.ControlStoreAccess
  intro s hc k n b i x c stopped word result held written pending landing acts
  have hforced : ¬ stopped → x.forceable true = false := fun h => by simpa using mt (forceable_true x).1 h
  have hw := cwWrites_cwLdWrite
  have hf := cwWrites_cwLdForcedWrite
  refine ⟨fun p hp => ⟨does_cwCommand_of_pending hp hc, does_cwCommand_of_synced hp hc⟩, fun hi => ⟨?_, ?_, ?_⟩,
    fun hi hb hcm hl hp => ?discards, fun hi hu => ⟨?shadow, ?committed, ?active, ?stands, ?runs, cwActs_read hc hi hu⟩⟩
  · exact cwActs_badTarget (p := (.cwLdWrite, 1)) (by simp [cwCommands]) hc hi
  · exact cwActs_badTarget (p := (.cwLdForcedWrite, 3)) (by simp [cwCommands]) hc hi
  · exact cwActs_badTarget (p := (.cwLdRead, 4)) (by simp [cwCommands]) hc hi
  case discards =>
    obtain ⟨hres, hd⟩ := actLanded_discards hw hi hb hcm hl hp
    exact ⟨hres, hd.staging, hd.idle, hd.result⟩
  case shadow => exact fun hb hcm hk => ⟨cwActs_shadow hw hc hi hu hb hcm hk, cwActs_shadow hf hc hi hu hb hcm hk⟩
  case committed => exact fun hb hcm => ⟨cwActs_committed hw hc hi hu hb hcm, cwActs_committed hf hc hi hu hb hcm⟩
  case active => exact fun hb => cwActs_locked hw hc hi hu hb rfl
  case stands => exact fun hb hst => cwActs_forced hf hc hi hu hb ((forceable_true x).2 hst)
  case runs => exact fun hb hst => cwActs_locked hf hc hi hu hb (hforced hst)

end Sys2Proof.Machine
end

section
/-! A fault that arrives (R478, R481), the notices and the record of the NaN watch (R146 to R148, R150), and obligation O54 from
these. -/

namespace Sys2Proof.Machine

variable {s t : State} {l : List Piece}

/-! ## A fault that arrives -/

/-- A LANE_FAULT's capture reaches RAS_FAULT2 alone (R501). -/
theorem latchLanes_eq (s : State) (n : Nat) : ∃ v : W64, s.latchLanes n = s.updRas fun r => { r with fault2 := v } := by
  unfold State.latchLanes
  dsimp only
  split
  · split
    · exact ⟨_, rfl⟩
    · exact ⟨s.ras.fault2, rfl⟩
  · exact ⟨s.ras.fault2, rfl⟩

@[simp] theorem faultRegs_halts (s : State) (f : FaultRec) (r : Ras) : (s.faultRegs f r).halts = r.halts := rfl

/-- From `s` to `t` the RAS block alone changed, and no halt that is due there. -/
def State.RasKept (s t : State) : Prop := ∃ r : Ras, r.halts = s.ras.halts ∧ t = s.updRas fun _ => r

theorem State.RasKept.trans {u : State} (h : s.RasKept t) (h' : t.RasKept u) : s.RasKept u := by
  obtain ⟨r, hr, rfl⟩ := h
  obtain ⟨r', hr', rfl⟩ := h'
  exact ⟨r', hr'.trans hr, rfl⟩

theorem rasKept_updRas {g : Ras → Ras} (hg : (g s.ras).halts = s.ras.halts) : s.RasKept (s.updRas g) := ⟨g s.ras, hg, rfl⟩

theorem latchLanes_rasKept (s : State) (n : Nat) : s.RasKept (s.latchLanes n) := by
  obtain ⟨v, hv⟩ := latchLanes_eq s n
  rw [hv]
  exact rasKept_updRas rfl

/-- To record a fault changes the RAS block alone, and no halt that is due there (R481). -/
theorem recordFault_rasKept (s : State) (f : FaultRec) : s.RasKept (s.recordFault f) := by
  have hrecord : ∀ u : State, u.RasKept ((u.updRas (s.faultRegs f)).latchLanes f.index) := fun u =>
    (rasKept_updRas (faultRegs_halts s f _)).trans (latchLanes_rasKept _ _)
  have hcount : ∀ v : Ras → W64, s.RasKept (s.updRas fun r => { r with status := v r }) := fun v => rasKept_updRas rfl
  unfold State.recordFault
  extract_lets r key held s1
  split
  · exact hrecord s
  · split
    · exact (hcount _).trans (hrecord s1)
    · exact hcount _

/-- The markers come to the switch, and no port changes (R362). -/
theorem sendMarkers_eq (s : State) (cause : Nat) (b : W64) :
    ∃ g : Fab, g.ports = s.fab.ports ∧ s.sendMarkers cause b = s.setFab g := by
  unfold State.sendMarkers
  generalize s.slice.table = members
  induction members generalizing s with
  | nil => exact ⟨s.fab, rfl, rfl⟩
  | cons m members ih =>
    rw [List.foldl_cons]
    split
    · exact ih s
    · obtain ⟨g, hg, he⟩ := ih (s.toSwitch _)
      exact ⟨g, hg, he⟩

/-- A fault of a RUNNING module for which no halt is due yet: the RAS block holds its halt at the next boundary, and nothing but that block
and the fabric beside its ports changes (R478). -/
theorem faultArrive_eq (f : FaultRec) (hreplay : s.hang.replaying = none) (hrun : s.sliceSt = 2) (hnone : s.ras.halts = []) :
    ∃ (r : Ras) (g : Fab), r.halts = [{ beat := s.esc.beat + 1, cause := causeCode f.cause, src := s.moduleId, own := true }] ∧
      g.ports = s.fab.ports ∧ s.faultArrive f = (s.updRas fun _ => r).setFab g := by
  obtain ⟨r, hr, he⟩ := recordFault_rasKept s f
  have hr0 : r.halts = [] := hr.trans hnone
  have hst : (s.updRas fun _ => r).sliceSt = 2 := hrun
  have hown : (s.updRas fun _ => r).ras.halts.any (fun h => h.own) = false := by simp [State.updRas, hr0]
  obtain ⟨g, hg, hm⟩ := sendMarkers_eq
    (s.updRas fun _ => { r with halts := [{ beat := s.esc.beat + 1, cause := causeCode f.cause, src := s.moduleId, own := true }] })
    (causeCode f.cause) (s.esc.beat + 1)
  refine ⟨{ r with halts := _ }, g, rfl, hg, ?_⟩
  simp only [State.faultArrive, hreplay, he, hst, hown, ne_eq, not_true, if_false, Bool.false_eq_true]
  rw [← hm]
  simp only [State.updRas, State.beat, State.moduleId, hr0, List.nil_append]

/-! ## The registers of the watch -/

/-- The state with the NaN watch replaced. -/
def State.setNan (s : State) (w : NanWatch) : State := { s with nan := w }

theorem Frame.setNan (h : Frame l s t) (hl : .nan ∈ l) (w : NanWatch) : Frame l s (t.setNan w) := by
  refine h.extend rfl ⟨rfl, rfl, rfl, rfl⟩ fun p hp => ?_
  cases p
  case nan => exact absurd hl hp
  all_goals simp only [Piece.same, State.setNan, State.tile, and_self, implies_true]

/-- A count stops at all ones. -/
theorem fld_addFld (w : W64) (lo len k : Nat) (h : lo + len ≤ 64) :
    fld (addFld w lo len k) lo len = min (fld w lo len + k) (2 ^ len - 1) := by
  have hpos := Nat.two_pow_pos len
  rw [addFld, fld_setFld _ _ _ _ h, satTo_eq_min, Nat.mod_eq_of_lt (by omega)]

/-- The watch after it took the record of notice `n`, whose tag is bound to operation `op`: its queue, its index, its entry and its step
(R147). -/
def NanWatch.take (w : NanWatch) (n : NanNotice) (op : Nat × Nat × Nat × W64) (due : Bool) : NanWatch :=
  { w with
    collect := none
    rec0 := BitVec.ofNat 64 (1 + op.1 % 8192 * 2 ^ 2 + n.tile % 2 ^ 20 * 2 ^ 15 + n.cw % 256 * 2 ^ 35 + n.bank % 2 * 2 ^ 43)
    rec1 := BitVec.ofNat 64 (op.2.1 % 2 ^ 32 + op.2.2.1 % 65536 * 2 ^ 32 + n.tag % 65536 * 2 ^ 48)
    beat := n.beat, step := op.2.2.2, later := 0, trapDue := due }

theorem fld_ofNat (v lo len : Nat) : fld (BitVec.ofNat 64 v) lo len = v % 2 ^ 64 / 2 ^ lo % 2 ^ len := by
  rw [fld, BitVec.toNat_ofNat, Nat.shiftRight_eq_div_pow]

/-- The fields of NUM_NAN_REC0 (R150). -/
theorem take_rec0 (w : NanWatch) (n : NanNotice) (op : Nat × Nat × Nat × W64) (due : Bool) :
    bitOf (w.take n op due).rec0 0 = true ∧ fld (w.take n op due).rec0 2 13 = op.1 % 8192 ∧
    fld (w.take n op due).rec0 15 20 = n.tile % 2 ^ 20 ∧ fld (w.take n op due).rec0 35 8 = n.cw % 256 ∧
    fld (w.take n op due).rec0 43 1 = n.bank % 2 := by
  simp only [NanWatch.take, bitOf, fld_ofNat, beq_iff_eq]
  omega

/-- The fields of NUM_NAN_REC1 (R150). -/
theorem take_rec1 (w : NanWatch) (n : NanNotice) (op : Nat × Nat × Nat × W64) (due : Bool) :
    fld (w.take n op due).rec1 0 32 = op.2.1 % 2 ^ 32 ∧ fld (w.take n op due).rec1 32 16 = op.2.2.1 % 65536 ∧
    fld (w.take n op due).rec1 48 16 = n.tag % 65536 := by
  simp only [NanWatch.take, fld_ofNat]
  omega

/-! ## The order of the notices (R147) -/

/-- Notice `m` has a lower beat than `k`, or the same beat and no higher TILE_ID. -/
def NoLater (m k : NanNotice) : Prop := m.beat.toNat < k.beat.toNat ∨ (m.beat = k.beat ∧ m.tile ≤ k.tile)

theorem NoLater.refl (m : NanNotice) : NoLater m m := .inr ⟨rfl, le_rfl⟩

theorem NoLater.trans {m k j : NanNotice} (h : NoLater m k) (h' : NoLater k j) : NoLater m j := by
  obtain h | ⟨hb, ht⟩ := h <;> obtain h' | ⟨hb', ht'⟩ := h'
  · exact .inl (h.trans h')
  · exact .inl (hb' ▸ h)
  · exact .inl (hb ▸ h')
  · exact .inr ⟨hb.trans hb', ht.trans ht'⟩

/-- Of two notices, the one that comes before; the first where neither does. -/
def earlierNotice (m y : NanNotice) : NanNotice := if nanBefore y m then y else m

theorem noLater_of_nanBefore {y m : NanNotice} (h : nanBefore y m = true) : NoLater y m := by
  simp only [nanBefore, Bool.or_eq_true, Bool.and_eq_true, decide_eq_true_eq, beq_iff_eq] at h
  exact h.imp_right fun ⟨hb, ht⟩ => ⟨hb, ht.le⟩

theorem noLater_of_not_nanBefore {y m : NanNotice} (h : nanBefore y m = false) : NoLater m y := by
  simp only [nanBefore, Bool.or_eq_false_iff, Bool.and_eq_false_iff, decide_eq_false_iff_not, beq_eq_false_iff_ne] at h
  obtain ⟨hb, ht⟩ := h
  by_cases he : m.beat = y.beat
  · exact .inr ⟨he, not_lt.1 (ht.resolve_left fun h => h he.symm)⟩
  · exact .inl (lt_of_le_of_ne (not_lt.1 hb) fun h => he (BitVec.eq_of_toNat_eq h))

theorem earlierNotice_mem (m y : NanNotice) (r : List NanNotice) : earlierNotice m y ∈ m :: y :: r := by
  unfold earlierNotice
  split
  · exact List.mem_cons_of_mem _ List.mem_cons_self
  · exact List.mem_cons_self

theorem earlierNotice_noLater (m y : NanNotice) : NoLater (earlierNotice m y) m ∧ NoLater (earlierNotice m y) y := by
  unfold earlierNotice
  split
  next h => exact ⟨noLater_of_nanBefore h, .refl y⟩
  next h => exact ⟨.refl m, noLater_of_not_nanBefore (by simpa using h)⟩

/-- The notice of a collection that the watch takes. -/
def firstNotice (x : NanNotice) (r : List NanNotice) : NanNotice := r.foldl earlierNotice x

/-- The watch takes a notice of the collection that none of it comes before. -/
theorem firstNotice_spec (x : NanNotice) (r : List NanNotice) :
    firstNotice x r ∈ x :: r ∧ ∀ k ∈ x :: r, NoLater (firstNotice x r) k := by
  induction r generalizing x with
  | nil => exact ⟨List.mem_cons_self, by simpa [firstNotice] using NoLater.refl x⟩
  | cons y r ih =>
    obtain ⟨hmem, hle⟩ := ih (earlierNotice x y)
    obtain ⟨hx, hy⟩ := earlierNotice_noLater x y
    have hfirst := hle _ List.mem_cons_self
    rw [show firstNotice x (y :: r) = firstNotice (earlierNotice x y) r from rfl]
    refine ⟨?_, fun k hk => ?_⟩
    · obtain hm | hm := List.mem_cons.1 hmem
      · exact hm.symm ▸ earlierNotice_mem x y r
      · exact List.mem_cons_of_mem _ (List.mem_cons_of_mem _ hm)
    · obtain rfl | rfl | hk := by simpa only [List.mem_cons] using hk
      · exact hfirst.trans hx
      · exact hfirst.trans hy
      · exact hle k (List.mem_cons_of_mem _ hk)

/-! ## What each command of the watch does -/

theorem exec_nanNotice (n : NanNotice) : exec (.nanNotice n) s = execNanNotice n s := rfl
theorem exec_nanWatchRecord : exec .nanWatchRecord s = execNanWatchRecord s := rfl
theorem exec_rearm : exec .rearm s = done s s.nanRearm := rfl

/-- The state in which notice `n` is no longer on the debug ring. -/
def State.takeNotice (s : State) (n : NanNotice) : State := s.updRas fun r => { r with notices := r.notices.erase n }

theorem Frame.takeNotice (h : Frame l s t) (hl : .ras ∈ l) (n : NanNotice) : Frame l s (t.takeNotice n) := h.updRas hl _

/-- While a record is held a notice counts in LATER (R147). -/
theorem does_nanNotice_of_held (hc : Clean s) (n : NanNotice) (hv : bitOf s.nan.rec0 0 = true) :
    Does (.nanNotice n) s [.nan, .ras] fun t =>
      t.ras = { s.ras with notices := s.ras.notices.erase n } ∧ t.nan = { s.nan with later := t.nan.later } ∧
      fld t.nan.later 0 32 = min (fld s.nan.later 0 32 + 1) 0xFFFFFFFF := by
  have he : exec (.nanNotice n) s = done s ((s.takeNotice n).setNan { s.nan with later := addFld s.nan.later 0 32 1 }) :=
    if_pos hv
  exact Does.of_frame he (((Frame.refl hc).takeNotice (by simp) n).setNan (by simp) _) ⟨rfl, rfl, fld_addFld _ _ _ _ (by omega)⟩

/-- While no record is held a notice joins the collection, which begins in the beat of its first (R147). -/
theorem does_nanNotice_of_free (hc : Clean s) (n : NanNotice) (hv : bitOf s.nan.rec0 0 = false) :
    Does (.nanNotice n) s [.nan, .ras] fun t =>
      t.ras = { s.ras with notices := s.ras.notices.erase n } ∧
      t.nan = { s.nan with collect := some ((s.nan.collect.map (·.1)).getD s.esc.beat, ((s.nan.collect.map (·.2)).getD []) ++ [n]) } := by
  have he : exec (.nanNotice n) s = done s ((s.takeNotice n).setNan
      { s.nan with collect := some ((s.nan.collect.map (·.1)).getD s.esc.beat, ((s.nan.collect.map (·.2)).getD []) ++ [n]) }) := by
    rw [exec_nanNotice]
    refine (if_neg (ne_true_of_eq_false hv)).trans ((done_of_base (updRas_base ..) _).trans ?_)
    cases hcol : s.nan.collect <;> simp [State.takeNotice, State.setNan, State.updRas, State.beat, hcol]
  exact Does.of_frame he (((Frame.refl hc).takeNotice (by simp) n).setNan (by simp) _) ⟨rfl, rfl⟩

/-- The fault of a record under TRAP (R148). -/
def nanTrapOf (n : NanNotice) : FaultRec :=
  { cause := .nanTrap, unit := .tile, index := n.tile, cwAddr := n.cw, bank := n.bank, tag := n.tag }

/-- A command that replaces the registers of the watch and does nothing else. -/
theorem does_of_setNan {c : Instr} {w : NanWatch} (hc : Clean s) (he : exec c s = done s (s.setNan w)) :
    Does c s [.nan] fun t => t.nan = w :=
  Does.of_frame he ((Frame.refl hc).setNan (by simp) w) rfl

/-- A record that raises a fault in a RUNNING module for which no halt is due yet. -/
theorem does_of_nan_fault {c : Instr} {w : NanWatch} {f : FaultRec} (hc : Clean s) (he : exec c s = done s ((s.setNan w).faultArrive f))
    (hreplay : s.hang.replaying = none) (hrun : s.sliceSt = 2) (hnone : s.ras.halts = []) :
    Does c s [.nan, .ras, .fab] fun t => t.nan = w ∧
      t.ras.halts = [{ beat := s.esc.beat + 1, cause := causeCode f.cause, src := s.moduleId, own := true }] := by
  obtain ⟨r, g, hhalts, hports, hf⟩ := faultArrive_eq (s := s.setNan w) f hreplay hrun hnone
  rw [hf] at he
  exact Does.of_frame he ((((Frame.refl hc).setNan (by simp) w).updRas (by simp) _).setFab (by simp) hports) ⟨rfl, hhalts⟩

section
variable {b : W64} {x : NanNotice} {r : List NanNotice} {op : Nat × Nat × Nat × W64} (hcol : s.nan.collect = some (b, x :: r))
  (hb : b.toNat + 2 ≤ s.esc.beat.toNat) (hop : afind s.host.tags (firstNotice x r).tag = some op)
include hcol hb hop

/-- Two beats after the first notice the watch takes its record; under TRAP a fault arrives then (R147, R148). -/
theorem exec_nanWatchRecord_of_due : exec .nanWatchRecord s = done s
    (if bitOf s.nan.ctrl 0 then
      (s.setNan (s.nan.take (firstNotice x r) op s.hang.replaying.isNone)).faultArrive (nanTrapOf (firstNotice x r))
    else s.setNan (s.nan.take (firstNotice x r) op false)) := by
  have hlt : ¬ s.beat.toNat < b.toNat + 2 := not_lt.2 hb
  have hfirst : r.foldl (fun m y => if nanBefore y m then y else m) x = firstNotice x r := rfl
  simp only [exec_nanWatchRecord, execNanWatchRecord, hcol, hlt, if_false, hfirst, hop]
  cases bitOf s.nan.ctrl 0 <;> rfl

theorem does_nanWatchRecord_of_propagate (hc : Clean s) (htrap : bitOf s.nan.ctrl 0 = false) :
    Does .nanWatchRecord s [.nan] fun t => t.nan = s.nan.take (firstNotice x r) op false :=
  does_of_setNan hc ((exec_nanWatchRecord_of_due hcol hb hop).trans (by rw [if_neg (ne_true_of_eq_false htrap)]))

theorem does_nanWatchRecord_of_trap (hc : Clean s) (htrap : bitOf s.nan.ctrl 0 = true) (hreplay : s.hang.replaying = none)
    (hrun : s.sliceSt = 2) (hnone : s.ras.halts = []) :
    Does .nanWatchRecord s [.nan, .ras, .fab] fun t => t.nan = s.nan.take (firstNotice x r) op true ∧
      t.ras.halts = [{ beat := s.esc.beat + 1, cause := 16, src := s.moduleId, own := true }] :=
  does_of_nan_fault (f := nanTrapOf (firstNotice x r)) hc
    ((exec_nanWatchRecord_of_due hcol hb hop).trans (by rw [if_pos htrap, hreplay, Option.isNone_none])) hreplay hrun hnone

end

/-- REARM clears the watch (R150). -/
theorem does_rearm (hc : Clean s) : Does .rearm s [.nan] fun t =>
    t.nan = { s.nan with rec0 := 0, rec1 := 0, beat := 0, step := 0, later := 0, collect := none } :=
  does_of_setNan hc exec_rearm

/-- Settles O54: by the record held or not, and by the policy; the notice that the watch takes is the first of the collection. -/
theorem nanWatch : Obligations.NanWatch := by
  unfold Obligations.NanWatch
  intro s n b l o hc
  refine ⟨does_nanNotice_of_held hc n, does_nanNotice_of_free hc n, fun hcol hl hb htags => ?_, does_rearm hc⟩
  extract_lets holds
  obtain ⟨x, r, rfl⟩ := List.exists_cons_of_ne_nil hl
  obtain ⟨hmem, hle⟩ := firstNotice_spec x r
  have hop := htags _ hmem
  have hholds : ∀ (t : State) (due : Bool), t.nan = s.nan.take (firstNotice x r) (o (firstNotice x r)) due → holds t := by
    intro t due ht
    obtain ⟨hvalid, hqueue, htile, hcw, hbank⟩ := take_rec0 s.nan (firstNotice x r) (o (firstNotice x r)) due
    obtain ⟨hindex, hentry, htag⟩ := take_rec1 s.nan (firstNotice x r) (o (firstNotice x r)) due
    rw [← ht] at hvalid hqueue htile hcw hbank hindex hentry htag
    exact ⟨firstNotice x r, hmem, hle, hvalid, hqueue, htile, hcw, hbank, hindex, hentry, htag, by simp [ht, NanWatch.take]⟩
  refine ⟨fun htrap => ?_, fun htrap hreplay hrun hnone => ?_⟩
  · exact (does_nanWatchRecord_of_propagate hcol hb hop hc htrap).imp fun t ht => hholds t false ht
  · exact (does_nanWatchRecord_of_trap hcol hb hop hc htrap hreplay hrun hnone).imp fun t ⟨ht, hhalts⟩ =>
      ⟨hholds t true ht, by rw [ht]; rfl, hhalts⟩

end Sys2Proof.Machine
end

section
/-! Transactions of the edge (R347, R348, R353, R360): the tag that one takes, what may go before another, the answers that retire them and
the timeout, and obligation O38 from these. -/

namespace Sys2Proof.Machine

variable {s t : State} {l : List Piece} {w : EdgeReq} {p : FabPkt} {x : Txn} {n tl tag : Nat} {e : Option DropCause} {c : Instr}

/-! ## The tag that a transaction takes -/

/-- A tag that the search finds is a tag of the pool that no transaction holds. -/
theorem freeTagFrom_some {ts : List Txn} {k n m : Nat} (h : freeTagFrom ts k n = some m) (hn : n < Config.txnTags) :
    m < Config.txnTags ∧ ∀ x ∈ ts, x.tag ≠ m := by
  induction k generalizing n with
  | zero => cases h
  | succ k ih =>
    rw [freeTagFrom] at h
    split at h
    next => exact ih h (Nat.mod_lt _ (by decide))
    next hfree =>
      cases h
      exact ⟨hn, by simpa using hfree⟩

/-- A search that finds no tag has met a transaction at each of the tags it looked at. -/
theorem freeTagFrom_none {ts : List Txn} {k n : Nat} (h : freeTagFrom ts k n = none) (hn : n < Config.txnTags) :
    ∀ i < k, ∃ x ∈ ts, x.tag = (n + i) % Config.txnTags := by
  induction k generalizing n with
  | zero => exact fun i hi => absurd hi (Nat.not_lt_zero i)
  | succ k ih =>
    rw [freeTagFrom] at h
    split at h
    next hheld =>
      intro i hi
      cases i with
      | zero => simpa [Nat.mod_eq_of_lt hn] using hheld
      | succ i =>
        obtain ⟨x, hx, htag⟩ := ih h (Nat.mod_lt _ (by decide)) i (by omega)
        exact ⟨x, hx, htag.trans (by rw [Nat.mod_add_mod, Nat.add_assoc, Nat.add_comm 1 i])⟩
    next => cases h

/-- The tags that a search of no more steps than the pool has tags looks at are all different. -/
theorem nodup_tags_from {k : Nat} (hk : k ≤ Config.txnTags) (n : Nat) :
    ((List.range k).map fun i => (n + i) % Config.txnTags).Nodup := by
  refine List.Nodup.map_on (fun i hi j hj h => ?_) List.nodup_range
  have hi := List.mem_range.1 hi
  have hj := List.mem_range.1 hj
  simp only [Config.txnTags] at h hk
  omega

/-- Where not every tag is held, a transaction takes one that no outstanding transaction holds (R348). -/
theorem nextFree_spec (hn : s.fab.nextTag < Config.txnTags) (hfree : s.fab.txns.length < Config.txnTags) :
    s.nextFree < Config.txnTags ∧ ∀ x ∈ s.fab.txns, x.tag ≠ s.nextFree := by
  cases h : freeTagFrom s.fab.txns (s.fab.txns.length + 1) s.fab.nextTag with
  | some m =>
    rw [State.nextFree, h]
    exact freeTagFrom_some h hn
  | none =>
    have hsub : (List.range (s.fab.txns.length + 1)).map (fun i => (s.fab.nextTag + i) % Config.txnTags) ⊆ s.fab.txns.map Txn.tag := by
      intro m hm
      obtain ⟨i, hi, rfl⟩ := List.mem_map.1 hm
      obtain ⟨x, hx, htag⟩ := freeTagFrom_none h hn i (List.mem_range.1 hi)
      exact List.mem_map.2 ⟨x, hx, htag⟩
    have hlen := ((nodup_tags_from hfree s.fab.nextTag).subperm hsub).length_le
    simp only [List.length_map, List.length_range] at hlen
    omega

/-! ## Which waiting transaction may go -/

/-- A request of this module's own memory goes unless an earlier one of its tile waits (R347). -/
theorem mayGo_memReq_iff (hm : s.memReq w = true) (before : List EdgeReq) :
    s.mayGo before w = true ↔ ∀ q ∈ before, s.memReq q = true → q.pkt.srcTile ≠ w.pkt.srcTile := by
  simp [State.mayGo, hm]

/-- Two requests of which `q` keeps `w` back: they have one requester, class and module (R347). -/
def SameStream (q w : EdgeReq) : Prop :=
  q.pkt.srcTile = w.pkt.srcTile ∧ q.pkt.srcEngine = w.pkt.srcEngine ∧ q.pkt.cls = w.pkt.cls ∧ q.pkt.dest = w.pkt.dest

/-- One of the fabric goes while injection is not stopped, behind none of its stream, behind no write to its line, and within the rate of
its module (R196, R347, R353, R360). -/
theorem mayGo_fabric_iff (hm : s.memReq w = false) (before : List EdgeReq) :
    s.mayGo before w = true ↔ bitOf s.fab.status 2 = false ∧
      (∀ q ∈ before, ¬ SameStream q w ∧ writesLineOf q.pkt w.pkt = false) ∧
      (∀ x ∈ s.fab.txns, x.held = false → writesLineOf x.pkt w.pkt = false) ∧ s.overRate w.pkt = false := by
  simp [State.mayGo, hm, SameStream, and_assoc]

/-- A request is kept back by the writes of its own requester alone. -/
theorem writesLineOf_of_ne {q p : FabPkt} (h : q.srcTile ≠ p.srcTile) : writesLineOf q p = false := by
  simp [writesLineOf, h]

/-! ## What EDGE_TAG_GRANT does -/

/-- The state in which request `w` no longer waits at the edge. -/
def State.unwait (s : State) (w : EdgeReq) : State := s.setFab { s.fab with waiting := s.fab.waiting.erase w }

/-- The packet of request `w` as it is sent, with its tag and the beat, step, epoch and slice of the present (R340). -/
def State.sentPkt (s : State) (w : EdgeReq) : FabPkt :=
  { w.pkt with tag := s.nextFree, beat := s.esc.beat.toNat % 2 ^ 24, stepLo := BitVec.ofNat 32 s.slice.step.toNat
               epoch := BitVec.ofNat 16 s.slice.epoch.toNat, slice := BitVec.ofNat 16 (fld s.fab.id 28 16) }

/-- The fabric in which request `w` holds its tag and counts toward the rate of its module. -/
def State.grantFab (s : State) (w : EdgeReq) : Fab :=
  { s.fab with
    waiting := s.fab.waiting.erase w
    spent := if s.paced (s.sentPkt w) then aset 0 s.fab.spent w.pkt.dest (aget 0 s.fab.spent w.pkt.dest + 4096 * pktCells (s.sentPkt w))
      else s.fab.spent
    txns := s.fab.txns ++ [{ tag := s.nextFree, pkt := s.sentPkt w, src := w.src, beat := s.esc.beat }]
    nextTag := (s.nextFree + 1) % Config.txnTags }

/-- The fabric in which TAG_STALLS has counted the wait of request `w`. -/
def State.stallFab (s : State) (w : EdgeReq) : Fab :=
  { s.fab with waiting := s.fab.waiting.map (fun x => if x = w then { x with stalled := true } else x)
               stats0 := addFld s.fab.stats0 0 16 1 }

theorem exec_edgeTagGrant : exec .edgeTagGrant s = execEdgeTagGrant s := rfl

theorem exec_edgeTagGrant_of_none (hgo : State.firstGo s [] s.fab.waiting = none) : exec .edgeTagGrant s = done s s := by
  simp only [exec_edgeTagGrant, execEdgeTagGrant, hgo]

section
variable (hgo : State.firstGo s [] s.fab.waiting = some w)
include hgo

theorem exec_edgeTagGrant_of_full (hfull : Config.txnTags ≤ s.fab.txns.length) :
    exec .edgeTagGrant s = done s (if w.stalled then s else s.setFab (s.stallFab w)) := by
  have hf : s.tagFree = false := decide_eq_false (Nat.not_lt.2 hfull)
  simp only [exec_edgeTagGrant, execEdgeTagGrant, hgo, hf, Bool.not_false, if_true]
  rfl

variable (hfree : s.fab.txns.length < Config.txnTags)
include hfree

theorem exec_edgeTagGrant_of_memReq (hm : s.memReq w = true) : exec .edgeTagGrant s = done s ((s.unwait w).startMem w) := by
  have hf : s.tagFree = true := decide_eq_true hfree
  simp only [exec_edgeTagGrant, execEdgeTagGrant, hgo, hf, hm, Bool.not_true, Bool.false_eq_true, if_false, if_true]
  rfl

theorem exec_edgeTagGrant_of_fabric (hm : s.memReq w = false) : exec .edgeTagGrant s = done s
    (if s.hang.replaying.isSome ∧ w.pkt.dest ≠ s.moduleId then (s.setFab (s.grantFab w)).dropPkt 63 (s.sentPkt w) .outOfSlice
      else (s.setFab (s.grantFab w)).toSwitch (s.sentPkt w)) := by
  have hf : s.tagFree = true := decide_eq_true hfree
  simp only [exec_edgeTagGrant, execEdgeTagGrant, hgo, hf, hm, Bool.not_true, Bool.false_eq_true, if_false]
  exact (apply_ite (done s) _ _ _).symm

end

/-- The fabric in which a request `w` of this module's own memory holds its tag, with `left` operations to be performed. -/
def State.memFab (s : State) (w : EdgeReq) (left : Nat) : Fab :=
  { s.fab with
    txns := s.fab.txns ++ [{ tag := s.nextFree, pkt := { w.pkt with tag := s.nextFree }, src := w.src, beat := s.esc.beat, left := left }]
    nextTag := (s.nextFree + 1) % Config.txnTags }

/-- A READ of this module's stacks takes a tag, and its one line operation leaves for the channels (R348). -/
theorem startMem_of_read (hop : w.pkt.op = .read) (hs : gaSpace w.pkt.addr = 0) : s.startMem w =
    (s.toChannels [{ src := .txn s.nextFree w.pkt.srcTile, addr := gaOff w.pkt.addr, op := .read, cls := w.pkt.cls }]).setFab
      (s.memFab w 1) := by
  have hleft : s.mem.inbox.length + 1 + s.host.flagIn.length - (s.mem.inbox.length + s.host.flagIn.length) = 1 := by omega
  simp only [State.startMem, State.edgeRequest, hop, hs, if_true, State.toChannels, List.length_append, List.length_singleton, hleft,
    State.memFab]
  rw [← hop]
  rfl

/-- A drop is recorded and counted, and nothing of the fabric beside its record changes (R367). -/
theorem recordDrop_eq_setFab (s : State) (port : Nat) (p : FabPkt) (d : DropCause) : ∃ d0 d1 d2 : W64,
    fld d2 0 32 = min 0xFFFFFFFF (fld s.fab.drop2 0 32 + 1) ∧
    s.recordDrop port p d = s.setFab { s.fab with drop0 := d0, drop1 := d1, drop2 := d2 } := by
  refine ⟨_, _, _, ?_, rfl⟩
  rw [fld_addFld _ _ _ _ (by omega), Nat.min_comm]
  split
  · rw [fld_setFld_ne _ _ _ _ _ _ (by omega) (by omega)]
    rfl
  · rfl

/-- A request of this module that is dropped is answered at its own edge with the cause (R349). -/
theorem dropPkt_of_own (hr : isRequest p.op = true) (hm : p.src = s.moduleId) (port : Nat) (d : DropCause) :
    ∃ (a : FabPkt) (f : Fab), a.op = .errorReply ∧ a.aop = dropCode d ∧ a.tag = p.tag ∧ f.delivered = s.fab.delivered ++ [a] ∧
      f.waiting = s.fab.waiting ∧ f.txns = s.fab.txns ∧ f.switchQ = s.fab.switchQ ∧ f.ports = s.fab.ports ∧
      s.dropPkt port p d = s.setFab f := by
  obtain ⟨d0, d1, d2, -, hrec⟩ := recordDrop_eq_setFab s port p d
  have hm' : p.src = (s.setFab { s.fab with drop0 := d0, drop1 := d1, drop2 := d2 }).moduleId := hm
  simp only [State.dropPkt, hrec, hr, Bool.not_true, Bool.false_eq_true, if_false, if_pos hm']
  exact ⟨{ p with op := .errorReply, payload := [], aop := dropCode d },
    { s.fab with
      drop0 := d0, drop1 := d1, drop2 := d2
      delivered := s.fab.delivered ++ [{ p with op := .errorReply, payload := [], aop := dropCode d }] },
    rfl, rfl, rfl, rfl, rfl, rfl, rfl, rfl, rfl⟩

section
variable (hc : Clean s) (hgo : State.firstGo s [] s.fab.waiting = some w)
include hc hgo

/-- Where every tag is held the request waits, and its wait counts once (R348). -/
theorem does_edgeTagGrant_stalled (hfull : Config.txnTags ≤ s.fab.txns.length) (hst : w.stalled = true) :
    Does .edgeTagGrant s [] fun _ => True :=
  Does.of_idle hc ((exec_edgeTagGrant_of_full hgo hfull).trans (by rw [if_pos hst]))

theorem does_edgeTagGrant_stalls (hfull : Config.txnTags ≤ s.fab.txns.length) (hst : w.stalled = false) :
    Does .edgeTagGrant s [.fab] fun t => t.fab = s.stallFab w :=
  Does.of_frame ((exec_edgeTagGrant_of_full hgo hfull).trans (by rw [hst]; rfl)) ((Frame.refl hc).setFab (f := s.stallFab w) (by simp) rfl)
    rfl

variable (hfree : s.fab.txns.length < Config.txnTags)
include hfree

/-- A request of the fabric comes to the switch (R340, R569). -/
theorem does_edgeTagGrant_sent (hm : s.memReq w = false) (hown : s.hang.replaying = none ∨ w.pkt.dest = s.moduleId) :
    Does .edgeTagGrant s [.fab] fun t => t.fab = { s.grantFab w with switchQ := s.fab.switchQ ++ [(63, s.sentPkt w)] } := by
  have hsent : ¬ (s.hang.replaying.isSome = true ∧ w.pkt.dest ≠ s.moduleId) := by
    rintro ⟨hreplay, hdest⟩
    exact hown.elim (fun h => by simp [h] at hreplay) hdest
  exact Does.of_frame ((exec_edgeTagGrant_of_fabric hgo hfree hm).trans (by rw [if_neg hsent]))
    (((Frame.refl hc).setFab (f := s.grantFab w) (by simp) rfl).toSwitch (by simp) _) rfl

/-- In a replay a request toward another module is answered at the edge with OUT_OF_SLICE (R518). -/
theorem does_edgeTagGrant_refused (hm : s.memReq w = false) (hreplay : s.hang.replaying.isSome = true)
    (hdest : w.pkt.dest ≠ s.moduleId) (hr : isRequest w.pkt.op = true) (hsrc : w.pkt.src = s.moduleId) :
    Does .edgeTagGrant s [.fab] fun t => t.fab.waiting = (s.grantFab w).waiting ∧ t.fab.txns = (s.grantFab w).txns ∧
      t.fab.switchQ = s.fab.switchQ ∧
      ∃ a : FabPkt, t.fab.delivered = s.fab.delivered ++ [a] ∧ a.op = .errorReply ∧ a.aop = 1 ∧ a.tag = s.nextFree := by
  obtain ⟨a, f, hop, haop, htag, hdel, hwait, htxns, hq, hports, hdrop⟩ :=
    dropPkt_of_own (s := s.setFab (s.grantFab w)) (p := s.sentPkt w) hr hsrc 63 .outOfSlice
  exact Does.of_frame ((exec_edgeTagGrant_of_fabric hgo hfree hm).trans (by rw [if_pos ⟨hreplay, hdest⟩, hdrop]))
    (((Frame.refl hc).setFab (f := s.grantFab w) (by simp) rfl).setFab (by simp) hports)
    ⟨hwait, htxns, hq, a, hdel, hop, haop, htag⟩

/-- A tile's READ of this module's stacks goes on as its line operation (R348). -/
theorem does_edgeTagGrant_read (hm : s.memReq w = true) (hop : w.pkt.op = .read) (hs : gaSpace w.pkt.addr = 0) :
    Does .edgeTagGrant s [.fab, .inbox] fun t => t.fab.waiting = s.fab.waiting.erase w ∧
      t.fab.txns = s.fab.txns ++
        [{ tag := s.nextFree, pkt := { w.pkt with tag := s.nextFree }, src := w.src, beat := s.esc.beat, left := 1 }] ∧
      t.mem.inbox = s.mem.inbox ++
        [{ src := .txn s.nextFree w.pkt.srcTile, addr := gaOff w.pkt.addr, op := .read, cls := w.pkt.cls }] := by
  have hf : Frame [.fab, .inbox] s (s.unwait w) := (Frame.refl hc).setFab (by simp) rfl
  have he := exec_edgeTagGrant_of_memReq hgo hfree hm
  rw [startMem_of_read hop hs] at he
  exact Does.of_frame he ((hf.toChannels (by simp) _).setFab (f := (s.unwait w).memFab w 1) (by simp) rfl) ⟨rfl, rfl, rfl⟩

end

/-! ## The answer of a tile's request -/

theorem Frame.answer (h : Frame l s t) (hl : .answers ∈ l) (n tag : Nat) (data : List Flit) (e : Option DropCause) :
    Frame l s (t.answer n tag data e) := by
  refine h.extend rfl ⟨rfl, rfl, rfl, rfl⟩ fun p hp => ?_
  cases p
  case answers => exact absurd hl hp
  all_goals simp [Piece.same, State.answer, State.tile]

/-- Of the fabric, an answer on its way to its tile depends on the module's own identifier alone. -/
theorem answerPkt_setFab {f : Fab} (hid : f.id = s.fab.id) (n tag : Nat) (data : List Flit) (e : Option DropCause) :
    (s.setFab f).answerPkt n tag data e = s.answerPkt n tag data e := by
  have hm : (s.setFab f).moduleId = s.moduleId := by rw [State.moduleId, State.setFab, hid, State.moduleId]
  simp only [State.answerPkt, State.wayBack, hm]
  rfl

/-- The data of the answer to a tile's request: the line of a READ_REPLY (R82). -/
def replyData (op : FabOp) (payload : List Flit) : List Flit :=
  if op = .readReply then toFlits (lineBytes (bytesLine ((payloadBytes payload).take 64))) else []

theorem toRequester_tile (op : FabOp) (payload : List Flit) :
    s.toRequester (.tile tl tag) op payload e = s.answer tl tag (replyData op payload) e := rfl

/-! ## An answer retires its transaction -/

/-- The fabric in which answer `p` has been taken and transaction `x` has retired. -/
def State.retiredFab (s : State) (p : FabPkt) (x : Txn) : Fab :=
  { s.fab with delivered := s.fab.delivered.erase p, txns := s.fab.txns.erase x }

/-- The state in which answer `p` has retired transaction `x`, and its mark, if it has one, has reached the rate of the module (R359). -/
def State.retired (s : State) (p : FabPkt) (x : Txn) : State :=
  if p.echo then (s.setFab (s.retiredFab p x)).onEcho x.pkt.dest else s.setFab (s.retiredFab p x)

theorem retire_of_find (hx : s.fab.txns.find? (fun t => t.tag == p.tag) = some x) : s.retire p e =
    if x.held then s.retired p x else (s.retired p x).toRequester x.src p.op p.payload e := by
  have hx' : (s.consume p).fab.txns.find? (fun t => t.tag == p.tag) = some x := hx
  simp only [State.retire, hx']
  rfl

theorem retire_of_find_none (hx : s.fab.txns.find? (fun t => t.tag == p.tag) = none) : s.retire p e = s.consume p := by
  have hx' : (s.consume p).fab.txns.find? (fun t => t.tag == p.tag) = none := hx
  simp only [State.retire, hx']

/-- Command `c` is that of answer `p`, which carries the error `e` where it is an ERROR_REPLY. -/
def IsAnswer (c : Instr) (p : FabPkt) (e : Option DropCause) : Prop :=
  c = .readReply p ∧ p.op = .readReply ∧ e = none ∨ c = .ack p ∧ p.op = .ack ∧ e = none ∨
    c = .errorReply p ∧ p.op = .errorReply ∧ e = some (causeOf p.aop)

theorem IsAnswer.exec_eq (h : IsAnswer c p e) : exec c s = done s (s.retire p e) := by
  rcases h with ⟨rfl, hop, rfl⟩ | ⟨rfl, hop, rfl⟩ | ⟨rfl, hop, rfl⟩
  · exact if_pos hop
  · exact if_pos hop
  · exact if_pos hop

/-! ## The rates (R360) -/

theorem rateMin_le (s : State) : s.rateMin ≤ 4096 := by
  have hlt : fld s.fab.ccCfg 36 12 < 4096 := fld_lt ..
  rw [State.rateMin]
  omega

theorem rate_le (s : State) (m : Nat) : s.rate m ≤ 4096 := Nat.sub_le ..

/-- The rate toward module `m` after a cut, no lower than RATE_MIN (R360). -/
def State.cutRate (s : State) (m : Nat) : Nat := max s.rateMin (s.rate m - s.rate m / 2 ^ s.cutShift)

theorem cutRate_le (s : State) (m : Nat) : s.cutRate m ≤ 4096 :=
  max_le (rateMin_le s) ((Nat.sub_le ..).trans (rate_le s m))

theorem cutRate_setFab {f : Fab} (hr : f.rate = s.fab.rate) (hcc : f.ccCfg = s.fab.ccCfg) (m : Nat) :
    (s.setFab f).cutRate m = s.cutRate m := by
  simp only [State.cutRate, State.rateMin, State.cutShift, State.rate, State.setFab, hr, hcc]

section
variable {m r : Nat} {v v0 v1 : W64}

theorem gapPassed_iff : s.gapPassed m = true ↔ ∀ b, afind s.fab.lastCut m = some b → b + s.cutGap ≤ s.esc.beat.toNat := by
  rw [State.gapPassed]
  cases afind s.fab.lastCut m with
  | none => exact ⟨fun _ b hb => (nomatch hb), fun _ => rfl⟩
  | some a => exact decide_eq_true_iff.trans ⟨fun hle b hb => Option.some.inj hb ▸ hle, fun hle => hle a rfl⟩

theorem gapPassed_setFab {f : Fab} (hl : f.lastCut = s.fab.lastCut) (hcc : f.ccCfg = s.fab.ccCfg) (m : Nat) :
    (s.setFab f).gapPassed m = s.gapPassed m := by
  rw [Bool.eq_iff_iff, gapPassed_iff, gapPassed_iff]
  simp only [State.cutGap, State.setFab, hl, hcc]

/-- The state that has counted an echoed mark, as `v`. -/
def State.marked (s : State) (v : W64) : State := s.setFab { s.fab with stats1 := v }

/-- The state in which the rate toward module `m` has been cut to `r`, with the count `v` of cuts, and a gap has begun. -/
def State.cut (s : State) (m r : Nat) (v : W64) : State :=
  let u := s.setRate m r
  u.setFab { u.fab with lastCut := aput u.fab.lastCut m u.beat.toNat, stats0 := v }

theorem gapPassed_marked : (s.marked v).gapPassed m = s.gapPassed m := gapPassed_setFab rfl rfl m

theorem cutRate_marked : (s.marked v).cutRate m = s.cutRate m := cutRate_setFab rfl rfl m

theorem cut_rate : (s.cut m r v).fab.rate = aset 0 s.fab.rate m (4096 - r) := rfl

theorem cut_lastCut : (s.cut m r v).fab.lastCut = aput s.fab.lastCut m s.esc.beat.toNat := rfl

theorem Frame.cut (h : Frame l s t) (hl : .fab ∈ l) (m r : Nat) (v : W64) : Frame l s (t.cut m r v) :=
  (h.setFab (f := { t.fab with rate := aset 0 t.fab.rate m (4096 - r) }) hl rfl).setFab hl rfl

/-- The state after an echoed mark of module `m`, with the counts `v0` of cuts and `v1` of marks: after the gap the mark cuts the rate
of the module and begins a gap (R360). -/
def State.echoed (s : State) (m : Nat) (v0 v1 : W64) : State :=
  if s.gapPassed m then (s.marked v1).cut m (s.cutRate m) v0 else s.marked v1

/-- The counts stay names of their own, so that no comparison of states computes their bits. -/
theorem onEcho_eq (s : State) (m : Nat) : ∃ v0 v1 : W64, s.onEcho m = s.echoed m v0 v1 := by
  have hmarked : ∃ v0 v1 : W64, s.onEcho m =
      if (s.marked v1).gapPassed m then (s.marked v1).cut m ((s.marked v1).cutRate m) v0 else s.marked v1 := by
    unfold State.onEcho
    generalize addFld s.fab.stats1 0 32 1 = v1
    exact ⟨_, v1, rfl⟩
  obtain ⟨v0, v1, he⟩ := hmarked
  exact ⟨v0, v1, he.trans (by rw [gapPassed_marked, cutRate_marked, State.echoed])⟩

/-- After the gap: the rates, the lower one toward module `m` among them, and the beat of the cut. -/
theorem echoed_of_gapPassed (hg : s.gapPassed m = true) : (s.echoed m v0 v1).fab.rate = aset 0 s.fab.rate m (4096 - s.cutRate m) ∧
    (s.echoed m v0 v1).fab.lastCut = aput s.fab.lastCut m s.esc.beat.toNat := by
  rw [State.echoed, if_pos hg, cut_rate, cut_lastCut]
  exact ⟨rfl, rfl⟩

theorem echoed_of_gap (hg : s.gapPassed m = false) : (s.echoed m v0 v1).fab.rate = s.fab.rate := by
  rw [State.echoed, if_neg (ne_true_of_eq_false hg)]
  rfl

theorem Frame.echoed (h : Frame l s t) (hl : .fab ∈ l) (m : Nat) (v0 v1 : W64) : Frame l s (t.echoed m v0 v1) := by
  have hmarked : Frame l s (t.marked v1) := h.setFab hl rfl
  rw [State.echoed]
  split
  · exact hmarked.cut hl m _ v0
  · exact hmarked

end

/-- The rates of a state in which the rate toward module `m` is `v`. -/
theorem rate_of_aset {m v : Nat} (hv : v ≤ 4096) (hr : t.fab.rate = aset 0 s.fab.rate m (4096 - v)) (k : Nat) :
    t.rate k = if k = m then v else s.rate k := by
  simp only [State.rate, hr, aget_aset]
  split <;> omega

/-! ## What an answer does -/

theorem exec_answer_of_tile (ha : IsAnswer c p e) (hx : s.fab.txns.find? (fun t => t.tag == p.tag) = some x)
    (hsrc : x.src = .tile tl tag) (hheld : x.held = false) :
    exec c s = done s ((s.retired p x).answer tl tag (replyData p.op p.payload) e) := by
  rw [ha.exec_eq, retire_of_find hx, hheld, hsrc, toRequester_tile]
  rfl

section
variable (hc : Clean s) (ha : IsAnswer c p e)
include hc ha

/-- An answer whose tag no transaction holds is discarded (R348). -/
theorem does_answer_unknown (hx : s.fab.txns.find? (fun t => t.tag == p.tag) = none) :
    Does c s [.fab] fun t => t.fab = { s.fab with delivered := s.fab.delivered.erase p } :=
  Does.of_frame (ha.exec_eq.trans (by rw [retire_of_find_none hx])) ((Frame.refl hc).consume (by simp) p) rfl

variable (hx : s.fab.txns.find? (fun t => t.tag == p.tag) = some x)
include hx

/-- The late answer of a transaction that has timed out frees its tag and answers nobody (R348). -/
theorem does_answer_late (hecho : p.echo = false) (hheld : x.held = true) :
    Does c s [.fab] fun t => t.fab = s.retiredFab p x := by
  have he : exec c s = done s (s.setFab (s.retiredFab p x)) := by
    rw [ha.exec_eq, retire_of_find hx, hheld, State.retired, hecho]
    rfl
  exact Does.of_frame he ((Frame.refl hc).setFab (f := s.retiredFab p x) (by simp) rfl) rfl

variable (hsrc : x.src = .tile tl tag) (hheld : x.held = false)
include hsrc hheld

/-- An answer without a mark retires its transaction, and the tile that waits for it is answered (R82, R341). -/
theorem does_answer (hecho : p.echo = false) : Does c s [.fab, .answers] fun t =>
    t.answers = s.answers ++ [s.answerPkt tl tag (replyData p.op p.payload) e] ∧ t.fab = s.retiredFab p x := by
  have he := exec_answer_of_tile ha hx hsrc hheld
  have hret : s.retired p x = s.setFab (s.retiredFab p x) := by rw [State.retired, hecho]; rfl
  rw [hret] at he
  refine Does.of_frame he (((Frame.refl hc).setFab (f := s.retiredFab p x) (by simp) rfl).answer (by simp) _ _ _ _) ⟨?_, rfl⟩
  exact congrArg (s.answers ++ [·]) (answerPkt_setFab (f := s.retiredFab p x) rfl tl tag _ e)

/-- An answer with a mark reaches the rate of the module too (R359, R360). -/
theorem does_answer_echo (hecho : p.echo = true) : Does c s [.fab, .answers] fun t =>
    ∃ v0 v1 : W64, t.fab = ((s.setFab (s.retiredFab p x)).echoed x.pkt.dest v0 v1).fab := by
  have he := exec_answer_of_tile ha hx hsrc hheld
  obtain ⟨v0, v1, hv⟩ := onEcho_eq (s.setFab (s.retiredFab p x)) x.pkt.dest
  rw [State.retired, if_pos hecho, hv] at he
  exact Does.of_frame he ((((Frame.refl hc).setFab (f := s.retiredFab p x) (by simp) rfl).echoed (by simp) _ _ _).answer (by simp) _ _ _ _)
    ⟨v0, v1, rfl⟩

/-- After the gap the mark cuts the rate toward its module and no other (R360). -/
theorem does_answer_cut (hecho : p.echo = true) (hg : s.gapPassed x.pkt.dest = true) : Does c s [.fab, .answers] fun t =>
    t.rate x.pkt.dest = s.cutRate x.pkt.dest ∧ (∀ m, m ≠ x.pkt.dest → t.rate m = s.rate m) ∧
      afind t.fab.lastCut x.pkt.dest = some s.esc.beat.toNat := by
  refine (does_answer_echo hc ha hx hsrc hheld hecho).imp fun t ⟨v0, v1, ht⟩ => ?_
  have hret : (s.setFab (s.retiredFab p x)).cutRate x.pkt.dest = s.cutRate x.pkt.dest := cutRate_setFab rfl rfl _
  obtain ⟨hrate, hcut⟩ := echoed_of_gapPassed (v0 := v0) (v1 := v1) ((gapPassed_setFab (f := s.retiredFab p x) rfl rfl _).trans hg)
  rw [← ht, hret] at hrate
  rw [← ht] at hcut
  have hall := rate_of_aset (s := s) (cutRate_le s _) hrate
  refine ⟨(hall _).trans (if_pos rfl), fun m hm => (hall m).trans (if_neg hm), ?_⟩
  rw [hcut, afind_aput, if_pos rfl]
  rfl

/-- Within CUT_GAP beats of a cut no rate changes (R360). -/
theorem does_answer_in_gap (hecho : p.echo = true) (hg : s.gapPassed x.pkt.dest = false) : Does c s [.fab, .answers] fun t =>
    t.fab.rate = s.fab.rate := by
  refine (does_answer_echo hc ha hx hsrc hheld hecho).imp fun t ⟨v0, v1, ht⟩ => ?_
  rw [ht, echoed_of_gap ((gapPassed_setFab (f := s.retiredFab p x) rfl rfl _).trans hg)]
  rfl

end

/-! ## A transaction that times out -/

/-- The fabric in which the tag of transaction `x` is held until its late answer, with the counts `v` (R348). -/
def State.timedOutFab (s : State) (x : Txn) (v : W64) : Fab :=
  { s.fab with txns := s.fab.txns.map (fun y => if y = x then { y with held := true } else y), stats0 := v }

/-- The fault of a transaction that times out: it names the port that its packet took, or 63 where no port took it (R367, log 112). -/
def State.timeoutFault (s : State) (x : Txn) : FaultRec :=
  { cause := .fabricTimeout, unit := .port, index := if x.left ≠ 0 then 63 else outPort (s.route x.pkt.dest) x.pkt
    detail := x.pkt.addr }

/-- A tile's transaction that is due is answered TIMEOUT, its drop recorded and its fault raised (R348, R367). -/
theorem exec_txnTimeout_of_due (hx : s.fab.txns.find? (fun t => t.tag == n && !t.held) = some x) (hsrc : x.src = .tile tl tag)
    (hdue : x.beat.toNat + s.txnTimeout ≤ s.esc.beat.toNat) : exec (.txnTimeout n) s = done s
      ((((s.setFab (s.timedOutFab x (addFld s.fab.stats0 16 16 1))).recordDrop 63 x.pkt .timeout).raise (s.timeoutFault x)).answer tl tag
        [] (some .timeout)) := by
  have he : exec (.txnTimeout n) s = execTxnTimeout n s := rfl
  have hlt : ¬ s.beat.toNat < x.beat.toNat + s.txnTimeout := not_lt.2 hdue
  simp only [he, execTxnTimeout, hx, if_neg hlt, hsrc]
  rfl

/-- The fabric of a transaction that has timed out, its drop recorded. -/
theorem recordDrop_timedOut (s : State) (x : Txn) (v : W64) : ∃ f : Fab,
    (s.setFab (s.timedOutFab x v)).recordDrop 63 x.pkt .timeout = s.setFab f ∧
    fld f.drop2 0 32 = min 0xFFFFFFFF (fld s.fab.drop2 0 32 + 1) ∧ f.stats0 = v ∧
    f.txns = s.fab.txns.map (fun y => if y = x then { y with held := true } else y) ∧ f.id = s.fab.id ∧ f.ports = s.fab.ports := by
  obtain ⟨d0, d1, d2, hd, hrec⟩ := recordDrop_eq_setFab (s.setFab (s.timedOutFab x v)) 63 x.pkt .timeout
  exact ⟨_, hrec, hd, rfl, rfl, rfl, rfl⟩

/-- A timeout answers the tile, holds the tag and counts among the drops and the timeouts (R348, R367). -/
theorem does_txnTimeout (hc : Clean s) (hx : s.fab.txns.find? (fun t => t.tag == n && !t.held) = some x) (hsrc : x.src = .tile tl tag)
    (hdue : x.beat.toNat + s.txnTimeout ≤ s.esc.beat.toNat) : Does (.txnTimeout n) s [.fab, .ras, .answers] fun t =>
      t.answers = s.answers ++ [s.answerPkt tl tag [] (some .timeout)] ∧
      fld t.fab.drop2 0 32 = min 0xFFFFFFFF (fld s.fab.drop2 0 32 + 1) ∧
      fld t.fab.stats0 16 16 = min 0xFFFF (fld s.fab.stats0 16 16 + 1) ∧
      t.fab.txns = s.fab.txns.map (fun y => if y = x then { y with held := true } else y) ∧
      t.ras = { s.ras with tree := s.ras.tree ++ [s.timeoutFault x] } := by
  have he := exec_txnTimeout_of_due hx hsrc hdue
  obtain ⟨f, hrec, hdrops, hstats, htxns, hid, hports⟩ := recordDrop_timedOut s x (addFld s.fab.stats0 16 16 1)
  rw [hrec] at he
  have htimeouts : fld f.stats0 16 16 = min 0xFFFF (fld s.fab.stats0 16 16 + 1) := by
    rw [hstats, fld_addFld _ _ _ _ (by omega), Nat.min_comm]
    rfl
  refine Does.of_frame he ((((Frame.refl hc).setFab (by simp) hports).raise (by simp) _).answer (by simp) _ _ _ _)
    ⟨?_, hdrops, htimeouts, htxns, rfl⟩
  exact congrArg (s.answers ++ [·]) (answerPkt_setFab hid tl tag _ _)

/-- Settles O38: by the cases of the first transaction that may go, of what keeps one back, of the transaction that an answer meets, and by
the timeout. -/
theorem tagsAndAnswers : Obligations.TagsAndAnswers := by
  unfold Obligations.TagsAndAnswers
  refine ⟨fun s w hc hn _ => ?grant, fun s p x tl tag c e hc ha => ?answers⟩
  case grant =>
    extract_lets granted
    refine ⟨fun hgo hfree => ?_, fun hgo hfull => ⟨does_edgeTagGrant_stalled hc hgo hfull, does_edgeTagGrant_stalls hc hgo hfull⟩,
      fun hm => ⟨fun before after _ hst hb htx hrate => ?first, fun before hstop => ?stopped,
        fun before q hq htile heng hcls hdest => ?behind⟩,
      mayGo_memReq_iff, fun hgo => Does.of_idle hc (exec_edgeTagGrant_of_none hgo)⟩
    · obtain ⟨hlt, hnew⟩ := nextFree_spec hn hfree
      refine ⟨fun hm hown => ?sent, fun hm hreplay hdest hr hsrc => ?refused, fun hm hop hs => ?read⟩
      case sent =>
        refine (does_edgeTagGrant_sent hc hgo hfree hm hown).imp fun t ht => ?_
        rw [ht]
        exact ⟨s.nextFree, hlt, ⟨hnew, congrArg Fab.waiting ht, congrArg Fab.txns ht⟩, s.sentPkt w, rfl, rfl, rfl, rfl, rfl⟩
      case refused =>
        refine (does_edgeTagGrant_refused hc hgo hfree hm hreplay hdest hr hsrc).imp fun t ⟨hwait, htxns, hq, hanswer⟩ => ?_
        exact ⟨s.nextFree, hlt, ⟨hnew, hwait, htxns⟩, hq, hanswer⟩
      case read =>
        refine (does_edgeTagGrant_read hc hgo hfree hm hop hs).imp fun t ht => ?_
        exact ⟨s.nextFree, hlt, hnew, ht⟩
    case first =>
      exact (mayGo_fabric_iff hm before).2 ⟨hst, fun q hq => ⟨fun h => hb q hq h.1, writesLineOf_of_ne (hb q hq)⟩,
        fun y hy _ => writesLineOf_of_ne (htx y hy), hrate⟩
    case stopped =>
      refine Bool.eq_false_iff.2 fun hgo => ?_
      obtain ⟨hinject, -, -, hrate⟩ := (mayGo_fabric_iff hm before).1 hgo
      simp [hinject, hrate] at hstop
    case behind =>
      refine Bool.eq_false_iff.2 fun hgo => ?_
      obtain ⟨-, hbefore, -⟩ := (mayGo_fabric_iff hm before).1 hgo
      exact (hbefore q hq).1 ⟨htile, heng, hcls, hdest⟩
  case answers =>
    refine ⟨fun hx hsrc hecho => ⟨fun hheld => ?plain, fun hheld => ?late⟩,
      fun hx hsrc hecho hheld => ⟨does_answer_cut hc ha hx hsrc hheld hecho, does_answer_in_gap hc ha hx hsrc hheld hecho⟩,
      does_answer_unknown hc ha, fun n hx hsrc hdue => ?timeout⟩
    case plain =>
      refine (does_answer hc ha hx hsrc hheld hecho).imp fun t ⟨hanswers, hfab⟩ => ⟨hanswers, ?_⟩
      rw [hfab]
      exact ⟨rfl, rfl, rfl⟩
    case late =>
      refine (does_answer_late hc ha hx hecho hheld).imp fun t hfab => ?_
      rw [hfab]
      exact ⟨rfl, rfl⟩
    case timeout =>
      refine (does_txnTimeout hc hx hsrc hdue).imp fun t ⟨hanswers, hdrops, htimeouts, htxns, hras⟩ => ?_
      exact ⟨hanswers, hdrops, htimeouts, htxns, s.timeoutFault x, hras, rfl, rfl, rfl, fun h => if_pos h,
        fun h => if_neg (not_not.2 h)⟩

end Sys2Proof.Machine
end

section
/-! Refutation of O11: a concrete state in which a delta packet stops a tile that holds a word. -/

namespace Sys2Proof.Machine

theorem exec_deltaPacketIngest_of_no_lath {s : State} {slot : Nat} (hl : s.slotLath slot = none) (tile : Nat) (payload : List Flit) :
    exec (.deltaPacketIngest tile slot payload) s = done s (s.tileFault tile .deltaStep) := by
  change execDeltaPacketIngest tile slot payload s = _
  simp [execDeltaPacketIngest, hl]

/-- A detected fault drops the word that the tile holds: it is not acted on, and the tile fetches nothing more (R566). -/
theorem held_tileFault (s : State) (n : Nat) (c : Cause) (tag : Nat) : ((s.tileFault n c tag).tile n).held = none := by
  rw [State.tile_tileFault, if_pos rfl]

/-- A word that tile 0 has fetched and cannot act on yet (R48). -/
def stalledWord : W256 := 5

/-- Tile 0 stalls with a word in hand; no slot has a lath. -/
def stalledIngest : State := { State.reset with tiles := [(0, { st := .stall, held := some stalledWord })] }

/-- Refutes O11: DELTA_STEP drops the word with which the ingest tile stalls, where the statement's first clause lets the stopped tile
keep it. -/
theorem not_solverSteps : ¬ Obligations.SolverSteps := by
  unfold Obligations.SolverSteps
  intro h
  have hlath : stalledIngest.slotLath 0 = none := rfl
  obtain ⟨hnoLath, -⟩ := h stalledIngest 0 0 0 0 [] {} [] [] 0 ⟨rfl, rfl, rfl, rfl⟩
  obtain ⟨hstops, -⟩ := hnoLath hlath
  obtain ⟨htile, -⟩ := hstops.post_endOf (exec_deltaPacketIngest_of_no_lath hlath 0 [])
  have hheld : none = some stalledWord := by
    rw [endOf_tile] at htile
    exact (held_tileFault stalledIngest 0 .deltaStep 0).symm.trans (congrArg Tile.held htile)
  exact absurd hheld (by simp)

end Sys2Proof.Machine
end

section
/-! The moves of the Ratchet and of an entry of the agreed scale table, one lemma for each branch (R249, R252), and obligation O12 from
these. -/

namespace Sys2Proof.Machine

/-! ## The Ratchet -/

section
variable {ctrl : W64} {e n : Nat}

theorem ratchetMove_lowers (n : Nat) (h : fld ctrl 8 8 < e) : ratchetMove ctrl true e n = (e - 1, 0, rfSkipped) := by
  simp [ratchetMove, ratchetCfg, h]

theorem ratchetMove_at_floor (n : Nat) (h : e ≤ fld ctrl 8 8) : ratchetMove ctrl true e n = (e, 0, rfSkipped + rfFloor) := by
  simp [ratchetMove, ratchetCfg, Nat.not_lt.2 h]

theorem ratchetMove_counts (e : Nat) (h : n + 1 < max 1 (fld ctrl 24 16)) : ratchetMove ctrl false e n = (e, n + 1, 0) := by
  simp only [ratchetMove, ratchetCfg, Bool.false_eq_true, if_false]
  exact if_pos h

theorem ratchetMove_grows (hn : max 1 (fld ctrl 24 16) ≤ n + 1) (he : e < min 126 (fld ctrl 16 8)) :
    ratchetMove ctrl false e n = (e + 1, 0, rfGrew) := by
  simp only [ratchetMove, ratchetCfg, Bool.false_eq_true, if_false]
  exact (if_neg (Nat.not_lt.2 hn)).trans (if_pos he)

theorem ratchetMove_at_top (hn : max 1 (fld ctrl 24 16) ≤ n + 1) (he : min 126 (fld ctrl 16 8) ≤ e) :
    ratchetMove ctrl false e n = (e, 0, 0) := by
  simp only [ratchetMove, ratchetCfg, Bool.false_eq_true, if_false]
  exact (if_neg (Nat.not_lt.2 hn)).trans (if_neg (Nat.not_lt.2 he))

/-- An exponent between MIN_EXP and MAX_EXP stays there: it moves down only from above the one and up only from below the other. -/
theorem ratchetMove_within (nf : Bool) (n : Nat) (hlo : fld ctrl 8 8 ≤ e) (hhi : e ≤ min 126 (fld ctrl 16 8)) :
    fld ctrl 8 8 ≤ (ratchetMove ctrl nf e n).1 ∧ (ratchetMove ctrl nf e n).1 ≤ min 126 (fld ctrl 16 8) := by
  cases nf with
  | true =>
    rcases Nat.lt_or_ge (fld ctrl 8 8) e with h | h
    · rw [ratchetMove_lowers n h]
      exact ⟨Nat.le_sub_one_of_lt h, (Nat.sub_le e 1).trans hhi⟩
    · rw [ratchetMove_at_floor n h]
      exact ⟨hlo, hhi⟩
  | false =>
    rcases Nat.lt_or_ge (n + 1) (max 1 (fld ctrl 24 16)) with hn | hn
    · rw [ratchetMove_counts e hn]
      exact ⟨hlo, hhi⟩
    · rcases Nat.lt_or_ge e (min 126 (fld ctrl 16 8)) with h | h
      · rw [ratchetMove_grows hn h]
        exact ⟨hlo.trans (Nat.le_succ e), h⟩
      · rw [ratchetMove_at_top hn h]
        exact ⟨hlo, hhi⟩

end

/-! ## An entry of the scale table -/

section
variable {ctrl : W64} {b : TEntry}

theorem updateEntry_saturated (high : Bool) (h : b.t < tMax ctrl) : updateEntry ctrl true high b = { t := b.t + 1, run := 0 } := by
  simp [updateEntry, h]

theorem updateEntry_saturated_at_top (high : Bool) (h : tMax ctrl ≤ b.t) :
    updateEntry ctrl true high b = { t := tMax ctrl, run := 0 } := by
  simp only [updateEntry, if_true, if_neg (show ¬ b.t + 1 ≤ tMax ctrl by omega)]

theorem updateEntry_high : updateEntry ctrl false true b = { b with run := 0 } := by simp [updateEntry]

/-- An idle block either ends its run of steps, and takes the next lower scale unless it has the lowest, or counts one more. -/
theorem updateEntry_idle (ctrl : W64) (b : TEntry) :
    updateEntry ctrl false false b = { t := if b.t > tMin ctrl then b.t - 1 else b.t, run := 0 } ∨
    updateEntry ctrl false false b = { b with run := (b.run + 1) % 65536 } := by
  simp only [updateEntry, Bool.false_eq_true, if_false]
  split
  · exact .inl rfl
  · exact .inr rfl

theorem updateEntry_idle_t (ctrl : W64) (b : TEntry) :
    (updateEntry ctrl false false b).t = b.t ∨ tMin ctrl < b.t ∧ (updateEntry ctrl false false b).t = b.t - 1 := by
  rcases updateEntry_idle ctrl b with h | h
  · rw [h]
    by_cases hlow : b.t > tMin ctrl
    · exact .inr ⟨hlow, if_pos hlow⟩
    · exact .inl (if_neg hlow)
  · exact .inl (by rw [h])

theorem updateEntry_run_lt (ctrl : W64) (sat high : Bool) (b : TEntry) : (updateEntry ctrl sat high b).run < 65536 := by
  cases sat with
  | true => simp [updateEntry]
  | false =>
    cases high with
    | true => simp [updateEntry_high]
    | false =>
      rcases updateEntry_idle ctrl b with h | h
      · simp [h]
      · rw [h]
        exact Nat.mod_lt _ (by decide)

/-- A block without a saturation keeps its scale or takes the next lower one that is allowed (R252). -/
theorem updateEntry_unsaturated_t (ctrl : W64) (high : Bool) (b : TEntry) :
    (updateEntry ctrl false high b).t = b.t ∨ tMin ctrl < b.t ∧ (updateEntry ctrl false high b).t = b.t - 1 := by
  cases high with
  | true => exact .inl (by rw [updateEntry_high])
  | false => exact updateEntry_idle_t ctrl b

/-- A block with a saturation starts its run anew (R252). -/
theorem updateEntry_saturated_run (ctrl : W64) (high : Bool) (b : TEntry) : (updateEntry ctrl true high b).run = 0 := rfl

/-- An entry between T_MIN and T_MAX stays there. -/
theorem updateEntry_within (sat high : Bool) (hrange : tMin ctrl ≤ tMax ctrl) (hlo : tMin ctrl ≤ b.t) (hhi : b.t ≤ tMax ctrl) :
    tMin ctrl ≤ (updateEntry ctrl sat high b).t ∧ (updateEntry ctrl sat high b).t ≤ tMax ctrl := by
  cases sat with
  | true =>
    rcases lt_or_ge b.t (tMax ctrl) with h | h
    · rw [updateEntry_saturated high h]
      exact ⟨hlo.trans (by simp), h⟩
    · rw [updateEntry_saturated_at_top high h]
      exact ⟨hrange, le_rfl⟩
  | false => rcases updateEntry_unsaturated_t ctrl high b with h | ⟨hlow, h⟩ <;> omega

end

/-- Settles O12: by the branches of the Ratchet's move and of the update of an entry. -/
theorem ratchetAndScaleTable : Obligations.RatchetAndScaleTable := by
  unfold Obligations.RatchetAndScaleTable
  refine ⟨fun ctrl nf e n => ?ratchet, fun ctrl sat high b hrange hlo hhi _ => ?entry⟩
  case ratchet =>
    refine ⟨ratchetMove_within nf n, fun hnf h => ?_, fun hnf h => ?_, fun hnf h => ?_, fun hnf hn he => ?_⟩ <;> rw [hnf]
    · rw [ratchetMove_lowers n h]
      exact ⟨rfl, rfl, rfl⟩
    · rw [ratchetMove_at_floor n h]
      exact ⟨rfl, rfl, rfl⟩
    · rw [ratchetMove_counts e h]
      exact ⟨rfl, rfl, rfl⟩
    · rw [ratchetMove_grows hn he]
      exact ⟨rfl, rfl, rfl⟩
  case entry =>
    obtain ⟨hmin, hmax⟩ := updateEntry_within sat high hrange hlo hhi
    refine ⟨hmin, hmax, updateEntry_run_lt ctrl sat high b, fun hsat => ?saturated, fun hsat hhigh => ?high, fun hsat => ?unsaturated⟩
    case saturated =>
      rw [hsat]
      exact ⟨updateEntry_saturated_run ctrl high b, fun h => congrArg TEntry.t (updateEntry_saturated high h)⟩
    case high =>
      rw [hsat, hhigh, updateEntry_high]
      exact ⟨rfl, rfl⟩
    case unsaturated =>
      rw [hsat]
      rcases updateEntry_unsaturated_t ctrl high b with h | ⟨-, h⟩ <;> omega

end Sys2Proof.Machine
end

section
/-! What an engine's own accesses to stack memory leave alone (R302): the state beside the parts that `engineParts` lists, one lemma for
each operation, and with it the contexts and the training registers. -/

namespace Sys2Proof.Machine

variable (s : State)

/-- The state without what an engine's accesses to stack memory may change: the parts of `engineParts`, and the writes to the stacks that
wait for the end of the command. -/
def State.besideStacks (s : State) : State :=
  { s with
    tiles := [], tileDef := {}, answers := [], ras := {}, memLog := []
    mem := { s.mem with chans := [], marks := [] }
    fab := { ports := s.fab.ports }
    host := { s.host with queues := [], held := [], out := [], tags := [] } }

/-! ## Updates of one part -/

@[simp] theorem setTile_besideStacks (n : Nat) (x : Tile) : (s.setTile n x).besideStacks = s.besideStacks := rfl
@[simp] theorem updChan_besideStacks (c : Nat) (f : Chan → Chan) : (s.updChan c f).besideStacks = s.besideStacks := rfl
@[simp] theorem raise_besideStacks (f : FaultRec) : (s.raise f).besideStacks = s.besideStacks := rfl
@[simp] theorem fault_besideStacks (c : Cause) (u : FaultUnit) (i : Nat) (d : W64) :
    (s.fault c u i d).besideStacks = s.besideStacks := rfl
@[simp] theorem answer_besideStacks (n tag : Nat) (data : List Flit) (e : Option DropCause) (lost : List Nat) :
    (s.answer n tag data e lost).besideStacks = s.besideStacks := rfl
@[simp] theorem toSwitch_besideStacks (p : FabPkt) : (s.toSwitch p).besideStacks = s.besideStacks := rfl
@[simp] theorem unfence_besideStacks (c a : Nat) : (s.unfence c a).besideStacks = s.besideStacks := rfl
@[simp] theorem putMem_besideStacks (a : Nat) (b : Byte) : (s.putMem a b).besideStacks = s.besideStacks := rfl

variable {s} in
theorem setFab_besideStacks {f : Fab} (h : f.ports = s.fab.ports) : (s.setFab f).besideStacks = s.besideStacks := by
  simp only [State.besideStacks, State.setFab, h]

@[simp] theorem redSat_besideStacks (n : Nat) : (s.redSat n).besideStacks = s.besideStacks := by
  rw [redSat_eq]
  exact setFab_besideStacks rfl

/-- What a function of the state reads after a chain of updates is what it read before, where each of them leaves it alone. -/
theorem foldl_unchanged {α β : Type} {f : State → α → State} {read : State → β} {s : State} (hf : ∀ s a, read (f s a) = read s)
    (l : List α) : read (l.foldl f s) = read s := by
  induction l generalizing s with
  | nil => rfl
  | cons a l ih => rw [List.foldl_cons, ih, hf]

/-- A fold that carries a list beside the state leaves alone what each of its steps does. -/
theorem foldl_snd_besideStacks {α β : Type} {f : β × State → α → β × State}
    (hf : ∀ a x, (f a x).2.besideStacks = a.2.besideStacks) (l : List α) (a : β × State) :
    (l.foldl f a).2.besideStacks = a.2.besideStacks := by
  induction l generalizing a with
  | nil => rfl
  | cons x l ih => rw [List.foldl_cons, ih, hf]

/-! ## The stored lines and their errors -/

@[simp] theorem latchLanes_besideStacks (n : Nat) : (s.latchLanes n).besideStacks = s.besideStacks := by
  unfold State.latchLanes
  dsimp only
  split
  · split
    · simp [State.besideStacks]
    · rfl
  · rfl

@[simp] theorem laneFault_besideStacks (n : Nat) (w : WordId) (mask causes : Nat) :
    (s.laneFault n w mask causes).besideStacks = s.besideStacks := by
  unfold State.laneFault
  dsimp only
  split
  · simp
  · split
    · simp
    · split <;> simp

@[simp] theorem putMemBytes_besideStacks (a : Nat) (bs : List Byte) : (s.putMemBytes a bs).besideStacks = s.besideStacks := by
  induction bs generalizing s a with
  | nil => rfl
  | cons b bs ih => rw [State.putMemBytes, ih, putMem_besideStacks]

@[simp] theorem putLine_besideStacks (a : Nat) (v : Line) : (s.putLine a v).besideStacks = s.besideStacks :=
  putMemBytes_besideStacks ..

@[simp] theorem mapMarks_besideStacks (a : Nat) (f : Nat → Mark → Mark) : (s.mapMarks a f).besideStacks = s.besideStacks :=
  foldl_unchanged (read := State.besideStacks) (f := fun s j =>
    { s with mem := { s.mem with marks := aset .good s.mem.marks (a / 8 + j) (f j (aget .good s.mem.marks (a / 8 + j))) } })
    (fun _ _ => rfl) _

@[simp] theorem setMark_besideStacks (a : Nat) (m : Mark) : (s.setMark a m).besideStacks = s.besideStacks := mapMarks_besideStacks ..
@[simp] theorem cureLine_besideStacks (a : Nat) : (s.cureLine a).besideStacks = s.besideStacks := mapMarks_besideStacks ..
@[simp] theorem memBad_besideStacks (c a : Nat) : (s.memBad c a).besideStacks = s.besideStacks := by simp [State.memBad]
@[simp] theorem corrected_besideStacks (c a : Nat) : (s.corrected c a).besideStacks = s.besideStacks := by simp [State.corrected]

@[simp] theorem readLine_besideStacks (c a : Nat) (need : W64) : (s.readLine c a need).2.2.besideStacks = s.besideStacks := by
  unfold State.readLine
  split
  dsimp only
  split
  · rfl
  · split <;> simp

@[simp] theorem evictLine_besideStacks (c a : Nat) : (s.evictLine c a).besideStacks = s.besideStacks := by
  unfold State.evictLine
  split
  · rfl
  · dsimp only
    split
    · simp
    · split <;> simp

/-! ## Answers -/

@[simp] theorem replyFab_besideStacks (p : FabPkt) (data : List Flit) (e : Option DropCause) :
    (s.replyFab p data e).besideStacks = s.besideStacks := toSwitch_besideStacks ..

@[simp] theorem partDone_besideStacks (p : FabPkt) (data : List Flit) (e : Option DropCause) :
    (s.partDone p data e).besideStacks = s.besideStacks := by
  unfold State.partDone
  split
  · rw [replyFab_besideStacks]
  · dsimp only
    split
    · rw [replyFab_besideStacks]
      rfl
    · rfl

@[simp] theorem txnPart_besideStacks (tag : Nat) (data : Line) (e : Option DropCause) :
    (s.txnPart tag data e).besideStacks = s.besideStacks := by
  unfold State.txnPart
  split
  · rfl
  · dsimp only
    split
    · rfl
    · split
      · rfl
      · split
        · rfl
        · split
          · rw [laneFault_besideStacks]
            rfl
          · rfl
        · rfl

@[simp] theorem reply_besideStacks (src : ReqSrc) (data : Line) (old : W64) (e : Option DropCause) :
    (s.reply src data old e).besideStacks = s.besideStacks := by
  unfold State.reply
  split
  · simp
  · split <;> simp
  · simp
  · simp
  · rfl

/-! ## A channel's requests -/

@[simp] theorem perform_besideStacks (c : Nat) (r : LineReq) : (s.perform c r).besideStacks = s.besideStacks := by
  unfold State.perform
  split
  · simp
  · split <;> simp
  · simp
  · simp
  · dsimp only
    split <;> simp
  · dsimp only
    split <;> simp

@[simp] theorem serve_besideStacks (c : Nat) (q : QReq) (starved : Bool) : (s.serve c q starved).besideStacks = s.besideStacks := by
  simp [State.serve]

@[simp] theorem arrive_besideStacks (r : LineReq) : (s.arrive r).besideStacks = s.besideStacks := by
  unfold State.arrive
  dsimp only
  split
  · simp
  · split
    · simp
    · split
      · rfl
      · rfl
      · simp
      · split
        · simp
        · split <;> simp
      · simp

@[simp] theorem turns_besideStacks (k c n : Nat) : (State.turns k s c n).besideStacks = s.besideStacks := by
  induction k generalizing s with
  | zero => rfl
  | succ k ih =>
    unfold State.turns
    split
    · rfl
    · split
      · rfl
      · rw [ih, serve_besideStacks]

@[simp] theorem turnOf_besideStacks (c n : Nat) : (s.turnOf c n).besideStacks = s.besideStacks := turns_besideStacks s _ c n

@[simp] theorem serveTurn_besideStacks (c n : Nat) : (s.serveTurn c n).besideStacks = s.besideStacks := by
  unfold State.serveTurn
  split
  · rfl
  · dsimp only
    split <;> simp

/-! ## An engine's accesses -/

@[simp] theorem engineRead_besideStacks (a cls : Nat) (need : W64) : (s.engineRead a cls need).2.2.besideStacks = s.besideStacks := by
  unfold State.engineRead
  dsimp only
  split
  · rfl
  · split
    · rfl
    · simp

@[simp] theorem engineWrite_besideStacks (a : Nat) (m : W64) (d : Line) (cls : Nat) :
    (s.engineWrite a m d cls).2.besideStacks = s.besideStacks := by
  unfold State.engineWrite
  split
  · rfl
  · split
    · rfl
    · simp [State.engineDo]

@[simp] theorem engineBytes_besideStacks (k a n cls : Nat) : (State.engineBytes k s a n cls).2.2.besideStacks = s.besideStacks := by
  induction k generalizing s a n with
  | zero => rfl
  | succ k ih =>
    unfold State.engineBytes
    split
    · rfl
    · simp [ih]

@[simp] theorem engineStore_besideStacks (k a : Nat) (bs : List Byte) (cls : Nat) :
    (State.engineStore k s a bs cls).2.besideStacks = s.besideStacks := by
  induction k generalizing s a bs with
  | zero => rfl
  | succ k ih =>
    cases bs with
    | nil => rfl
    | cons b bs => simp [State.engineStore, ih]

@[simp] theorem rdMem_besideStacks (a n cls : Nat) : (s.rdMem a n cls).2.2.besideStacks = s.besideStacks :=
  engineBytes_besideStacks s _ a n cls

@[simp] theorem wrMem_besideStacks (a : Nat) (bs : List Byte) (cls : Nat) : (s.wrMem a bs cls).2.besideStacks = s.besideStacks :=
  engineStore_besideStacks s _ a bs cls

/-! ## What two states that agree beside the stacks have in common -/

section
variable {s} {t : State}

theorem ctx_of_besideStacks (h : t.besideStacks = s.besideStacks) (c : Nat) : t.ctx c = s.ctx c := by
  have hc : t.besideStacks.ctx c = s.besideStacks.ctx c := by rw [h]
  exact hc

theorem train_of_besideStacks (h : t.besideStacks = s.besideStacks) : t.train = s.train := by
  have hc : t.besideStacks.train = s.besideStacks.train := by rw [h]
  exact hc

end

@[simp] theorem wrMem_ctx (a : Nat) (bs : List Byte) (cls c : Nat) : (s.wrMem a bs cls).2.ctx c = s.ctx c :=
  ctx_of_besideStacks (wrMem_besideStacks s a bs cls) c

@[simp] theorem wrMem_train (a : Nat) (bs : List Byte) (cls : Nat) : (s.wrMem a bs cls).2.train = s.train :=
  train_of_besideStacks (wrMem_besideStacks s a bs cls)

/-! ## The frame of a command that writes the stacks -/

variable {s} {t : State}

/-- A command that ends with writes to the stacks, and none to the local stores, does what its last state differs in. -/
theorem Does.of_stackWrites {c : Instr} {l : List Piece} {post : State → Prop} (he : exec c s = done s t) (hlog : t.lsLog = [])
    (hwipe : t.lsWipe = false) (hp : post (endOf s t)) (hbytes : .bytes ∈ l) (hf : ∀ p, p ∉ l → p ≠ .ls → p.same s t) :
    Does c s l post := by
  refine ⟨endOf s t, he, hp, rfl, endOf_clean s t, fun p hpl => ?_⟩
  by_cases hls : p = .ls
  · subst hls
    intro a
    rw [endOf_ls s t hlog hwipe]
  · have hsame := hf p hpl hls
    cases p
    case ls => exact absurd rfl hls
    case bytes => exact absurd hbytes hpl
    all_goals exact hsame

end Sys2Proof.Machine
end

section
/-! The verdict beat (R249, R257, R401): what the verdict makes of a context, and what the command does. -/

namespace Sys2Proof.Machine

variable {s t : State}

/-! ## What the verdict of a context leaves alone -/

/-- The state beside the stacks, without the contexts and the count of free values. -/
def State.besideCtxs (s : State) : State := { s.besideStacks with ctxs := [], freeCtr := 0 }

theorem besideCtxs_of_besideStacks (h : t.besideStacks = s.besideStacks) : t.besideCtxs = s.besideCtxs := by
  rw [State.besideCtxs, h, State.besideCtxs]

theorem slice_of_besideCtxs (h : t.besideCtxs = s.besideCtxs) : t.slice = s.slice := by
  have hs : t.besideCtxs.slice = s.besideCtxs.slice := by rw [h]
  exact hs

theorem lsLog_of_besideCtxs (h : t.besideCtxs = s.besideCtxs) : t.lsLog = s.lsLog := by
  have hs : t.besideCtxs.lsLog = s.besideCtxs.lsLog := by rw [h]
  exact hs

theorem lsWipe_of_besideCtxs (h : t.besideCtxs = s.besideCtxs) : t.lsWipe = s.lsWipe := by
  have hs : t.besideCtxs.lsWipe = s.besideCtxs.lsWipe := by rw [h]
  exact hs

@[simp] theorem updCtx_besideCtxs (s : State) (c : Nat) (f : Ctx → Ctx) : (s.updCtx c f).besideCtxs = s.besideCtxs := rfl

/-- Free norms take free values and change nothing else. -/
theorem fillNorms_eq (l : List Layer) (s : State) : ∃ n, (State.fillNorms l s).2 = { s with freeCtr := n } := by
  induction l generalizing s with
  | nil => exact ⟨s.freeCtr, rfl⟩
  | cons x l ih =>
    unfold State.fillNorms
    split
    · exact ih s
    · obtain ⟨n, hn⟩ := ih s.free.2
      exact ⟨n, hn⟩

@[simp] theorem fillNorms_besideCtxs (l : List Layer) (s : State) : (State.fillNorms l s).2.besideCtxs = s.besideCtxs := by
  obtain ⟨n, h⟩ := fillNorms_eq l s
  rw [h]
  rfl

@[simp] theorem fillNorms_ctx (l : List Layer) (s : State) (d : Nat) : (State.fillNorms l s).2.ctx d = s.ctx d := by
  obtain ⟨n, h⟩ := fillNorms_eq l s
  rw [h]
  rfl

@[simp] theorem summary_besideStacks (s : State) (m : Config.LayerMap) (p : Config.ShardMap × Nat) :
    (s.summary m p).2.besideStacks = s.besideStacks := by
  simp [State.summary]

@[simp] theorem summaries_besideStacks (s : State) (ms : List Config.LayerMap) : (s.summaries ms).2.besideStacks = s.besideStacks := by
  unfold State.summaries
  refine foldl_snd_besideStacks (fun a m => ?_) ms _
  exact foldl_snd_besideStacks (f := fun b p => (b.1 ++ (b.2.summary m p).1.toList, (b.2.summary m p).2))
    (fun b p => summary_besideStacks b.2 m p) m.shards.zipIdx ([], a.2)

@[simp] theorem summaries_ctx (s : State) (ms : List Config.LayerMap) (d : Nat) : (s.summaries ms).2.ctx d = s.ctx d :=
  ctx_of_besideStacks (summaries_besideStacks s ms) d

@[simp] theorem summaries_train (s : State) (ms : List Config.LayerMap) : (s.summaries ms).2.train = s.train :=
  train_of_besideStacks (summaries_besideStacks s ms)

@[simp] theorem holdLayer_besideStacks (s : State) (c : Nat) (m : Config.LayerMap) : (s.holdLayer c m).besideStacks = s.besideStacks := by
  unfold State.holdLayer
  split
  · rfl
  · simp

theorem holdLayers_besideStacks (s : State) (c : Nat) (l : List (Config.LayerMap × Layer × Layer)) :
    (l.foldl (fun s p => if p.2.1.frozen ∧ p.2.2.zero then s.holdLayer c p.1 else s) s).besideStacks = s.besideStacks :=
  foldl_unchanged (read := State.besideStacks) (fun s p => by split <;> simp) l

theorem holdLayers_besideCtxs (s : State) (c : Nat) (l : List (Config.LayerMap × Layer × Layer)) :
    (l.foldl (fun s p => if p.2.1.frozen ∧ p.2.2.zero then s.holdLayer c p.1 else s) s).besideCtxs = s.besideCtxs :=
  besideCtxs_of_besideStacks (holdLayers_besideStacks s c l)

theorem holdLayers_ctx (s : State) (c : Nat) (l : List (Config.LayerMap × Layer × Layer)) (d : Nat) :
    (l.foldl (fun s p => if p.2.1.frozen ∧ p.2.2.zero then s.holdLayer c p.1 else s) s).ctx d = s.ctx d :=
  ctx_of_besideStacks (holdLayers_besideStacks s c l) d

@[simp] theorem wrMem_besideCtxs (s : State) (a : Nat) (bs : List Byte) (cls : Nat) : (s.wrMem a bs cls).2.besideCtxs = s.besideCtxs :=
  besideCtxs_of_besideStacks (wrMem_besideStacks s a bs cls)

@[simp] theorem setTable_besideCtxs (s : State) (c : Nat) (b : List TEntry) : (s.setTable c b).besideCtxs = s.besideCtxs := by
  simp [State.setTable, State.useTable]

@[simp] theorem setTable_ctx (s : State) (c : Nat) (b : List TEntry) (d : Nat) :
    (s.setTable c b).ctx d = if d = c then { s.ctx c with table := b } else s.ctx d := by
  simp [State.setTable, State.useTable]

@[simp] theorem fault_besideCtxs (s : State) (c : Cause) (u : FaultUnit) (i : Nat) (d : W64) :
    (s.fault c u i d).besideCtxs = s.besideCtxs := rfl

/-! ## What the verdict makes of a context -/

/-- What a verdict makes of context `x`, which had the exponent `e`: the Ratchet has moved; a step with a non-finite value has kept the
weights and the table, and any other has made the other slot current, with the step's number plus one as its version. -/
structure Ctx.Judged (x y : Ctx) (v : VerdictDown) (ctrl : W64) (e : Nat) : Prop where
  oldTable : y.oldTable = none
  exp : y.exp = some (ratchetMove ctrl v.nonFinite e x.clean).1
  clean : y.clean = (ratchetMove ctrl v.nonFinite e x.clean).2.1
  skipped : v.nonFinite = true → y.cur = x.cur ∧ y.curVersion = x.curVersion ∧ y.table = x.table
  committed : v.nonFinite = false → y.cur = 1 - x.cur ∧ y.curVersion = v.step + 1 ∧ y.skimDone = true ∧ y.table.length = x.table.length

/-- The verdict of a context judges it, leaves the other contexts alone, and changes nothing else beside the stacks but free values: once
for a skipped step, with or without a seeded table, and once for a committed one, with or without a dead layer's fault. -/
theorem verdictCtx_spec (s : State) (v : VerdictDown) (c : Nat) :
    (s.ctx c).Judged ((s.verdictCtx v c).ctx c) v s.train.ratchetCtrl (s.ratchetExp c) ∧
    (∀ d, d ≠ c → (s.verdictCtx v c).ctx d = s.ctx d) ∧ (s.verdictCtx v c).besideCtxs = s.besideCtxs := by
  have hsums := besideCtxs_of_besideStacks (summaries_besideStacks s (s.layerMaps c (s.ctx c).nlayer))
  simp only [State.verdictCtx]
  cases hnf : v.nonFinite with
  | true =>
    simp only [if_true]
    split <;> exact ⟨by constructor <;> simp [hnf, State.ratchetExp], fun d hd => by simp [hd], by simp [hsums]⟩
  | false =>
    simp only [Bool.false_eq_true, if_false]
    split <;> exact ⟨by constructor <;> simp [hnf, State.ratchetExp, holdLayers_ctx], fun d hd => by simp [hd, holdLayers_ctx],
      by simp [hsums, holdLayers_besideCtxs]⟩

theorem verdictCtx_judged (s : State) (v : VerdictDown) (c : Nat) :
    (s.ctx c).Judged ((s.verdictCtx v c).ctx c) v s.train.ratchetCtrl (s.ratchetExp c) := by
  obtain ⟨hjudged, -, -⟩ := verdictCtx_spec s v c
  exact hjudged

theorem verdictCtx_ctx_ne (v : VerdictDown) {c d : Nat} (h : d ≠ c) : (s.verdictCtx v c).ctx d = s.ctx d := by
  obtain ⟨-, hother, -⟩ := verdictCtx_spec s v c
  exact hother d h

theorem verdictCtx_besideCtxs (s : State) (v : VerdictDown) (c : Nat) : (s.verdictCtx v c).besideCtxs = s.besideCtxs := by
  obtain ⟨-, -, hmask⟩ := verdictCtx_spec s v c
  exact hmask

/-! ## The contexts of a step -/

/-- The state after the verdict of each of the contexts `cs`. -/
def State.verdictCtxs (s : State) (v : VerdictDown) (cs : List Nat) : State := cs.foldl (fun s c => s.verdictCtx v c) s

theorem verdictCtxs_singleton (s : State) (v : VerdictDown) (c : Nat) : s.verdictCtxs v [c] = s.verdictCtx v c := rfl

theorem verdictCtxs_besideCtxs (s : State) (v : VerdictDown) (cs : List Nat) : (s.verdictCtxs v cs).besideCtxs = s.besideCtxs :=
  foldl_unchanged (read := State.besideCtxs) (fun s c => verdictCtx_besideCtxs s v c) cs

theorem verdictCtxs_ctx_of_notMem (v : VerdictDown) {cs : List Nat} {d : Nat} (h : d ∉ cs) : (s.verdictCtxs v cs).ctx d = s.ctx d := by
  induction cs generalizing s with
  | nil => rfl
  | cons c cs ih =>
    obtain ⟨hne, hrest⟩ := List.ne_and_not_mem_of_not_mem_cons h
    exact (ih hrest).trans (verdictCtx_ctx_ne v hne)

/-- A table from before the step's Skim pass is dropped for exactly the contexts that the verdict judges (R257). -/
theorem verdictCtxs_oldTable (s : State) (v : VerdictDown) (cs : List Nat) (d : Nat) :
    ((s.verdictCtxs v cs).ctx d).oldTable = if d ∈ cs then none else (s.ctx d).oldTable := by
  induction cs generalizing s with
  | nil => rfl
  | cons c cs ih =>
    refine (ih (s.verdictCtx v c)).trans ?_
    by_cases hc : d = c
    · subst hc
      simp [(verdictCtx_judged s v d).oldTable]
    · simp [verdictCtx_ctx_ne v hc, hc]

/-! ## What else a verdict and a record change -/

/-- The state with the training registers replaced. -/
def State.setTrain (s : State) (x : Train) : State := { s with train := x }
/-- The state with the slice's registers replaced. -/
def State.setSlice (s : State) (x : Slice) : State := { s with slice := x }

section
variable {p : Piece}

theorem Piece.same_setTrain (x : Train) (hp : p ≠ .train) (h : p.same s t) : p.same s (t.setTrain x) := by
  cases p
  case train => exact absurd rfl hp
  all_goals exact h

theorem Piece.same_setSlice (x : Slice) (hp : p ≠ .slice) (h : p.same s t) : p.same s (t.setSlice x) := by
  cases p
  case slice => exact absurd rfl hp
  all_goals exact h

/-- States that agree beside the stacks and the contexts differ in the parts that an engine's access, a context and a free value change. -/
theorem Piece.same_of_besideCtxs (h : t.besideCtxs = s.besideCtxs) (hp : p ∉ [Piece.ctxs, .freeCtr] ++ engineParts) : p.same s t := by
  have hsame : p.same s.besideCtxs t.besideCtxs := by rw [h]; exact p.same_refl s.besideCtxs
  cases p
  case ctxs | freeCtr | chans | bytes | memMarks | queues | answers | tiles | fab | ras => exact absurd (by simp) hp
  all_goals exact hsame

end

/-! ## The verdict beat -/

theorem exec_verdictBeat_of_none (hv : s.train.verdict = none) : exec .verdictBeat s = done s s := by
  change execVerdictBeat s = _
  simp only [execVerdictBeat, hv]

variable {v : VerdictDown}

theorem exec_verdictBeat_of_idle (hv : s.train.verdict = some v)
    (h : s.train.applied = true ∨ s.trainCtxs = [] ∨ s.sliceSt ≠ 2 ∨ s.esc.beat.toNat < v.verdict.toNat) :
    exec .verdictBeat s = done s s := by
  change execVerdictBeat s = _
  simp only [execVerdictBeat, hv, List.isEmpty_iff]
  exact if_pos h

/-- Whether a skipped step found one of the contexts at the Ratchet's floor (R264). -/
def State.floorHit (s : State) (v : VerdictDown) (cs : List Nat) : Bool :=
  v.nonFinite && cs.any (fun c => (s.ctx c).recFlags / rfFloor % 2 == 1)

/-- The verdict acts on each context that the step trains, and then on the registers of the module (R257, R264). -/
theorem exec_verdictBeat_of_due (hv : s.train.verdict = some v) (happlied : s.train.applied = false) (hctxs : s.trainCtxs ≠ [])
    (hrun : s.sliceSt = 2) (hbeat : v.verdict.toNat ≤ s.esc.beat.toNat) :
    ∃ x : Train, x.applied = true ∧ exec .verdictBeat s = done s
      (((s.verdictCtxs v s.trainCtxs).setTrain x).setSlice { s.slice with step := v.step + 1 }) := by
  have hnot : ¬ (s.train.applied = true ∨ s.trainCtxs = [] ∨ s.sliceSt ≠ 2 ∨ s.beat.toNat < v.verdict.toNat) := by
    simp [happlied, hctxs, hrun, State.beat, hbeat]
  have hslice : (s.verdictCtxs v s.trainCtxs).slice = s.slice := slice_of_besideCtxs (verdictCtxs_besideCtxs s v s.trainCtxs)
  have hbase : ((s.verdictCtxs v s.trainCtxs).verdictRegs v ((s.verdictCtxs v s.trainCtxs).floorHit v s.trainCtxs)).base = s.base := by
    rw [verdictRegs_base, State.verdictCtxs, foldl_base fun s c => verdictCtx_base s v c]
  refine ⟨{ ((s.verdictCtxs v s.trainCtxs).verdictRegs v ((s.verdictCtxs v s.trainCtxs).floorHit v s.trainCtxs)).train with
    applied := true }, rfl, ?_⟩
  rw [← done_of_base hbase, ← hslice]
  change execVerdictBeat s = _
  simp only [execVerdictBeat, hv, List.isEmpty_iff]
  exact if_neg hnot

/-- What VERDICT_BEAT does when its verdict acts. -/
theorem does_verdictBeat (hc : Clean s) (hv : s.train.verdict = some v) (happlied : s.train.applied = false) (hctxs : s.trainCtxs ≠ [])
    (hrun : s.sliceSt = 2) (hbeat : v.verdict.toNat ≤ s.esc.beat.toNat) :
    Does .verdictBeat s ([Piece.ctxs, .train, .slice, .freeCtr] ++ engineParts) fun t =>
      t.train.applied = true ∧ t.slice = { s.slice with step := v.step + 1 } ∧ ∀ d, t.ctx d = (s.verdictCtxs v s.trainCtxs).ctx d := by
  obtain ⟨x, hx, he⟩ := exec_verdictBeat_of_due hv happlied hctxs hrun hbeat
  have hmask := verdictCtxs_besideCtxs s v s.trainCtxs
  generalize s.verdictCtxs v s.trainCtxs = u at he hmask ⊢
  obtain ⟨hlog, -, hwipe, -⟩ := hc
  refine Does.of_stackWrites he ((lsLog_of_besideCtxs hmask).trans hlog) ((lsWipe_of_besideCtxs hmask).trans hwipe)
    ⟨hx, rfl, fun _ => rfl⟩ (by simp) fun p hp _ => ?_
  simp only [List.mem_append, not_or, List.mem_cons, List.not_mem_nil, or_false] at hp
  exact Piece.same_setSlice _ (by tauto) (Piece.same_setTrain _ (by tauto) (Piece.same_of_besideCtxs hmask (by simp; tauto)))

end Sys2Proof.Machine
end

section
/-! The step record (R262 to R264): the bytes of a record and what writing it does; and obligation O13 from this and the verdict beat. -/

namespace Sys2Proof.Machine

variable {s : State}

/-! ## The bytes of a record -/

theorem tab_length {α : Type} (n : Nat) (f : Nat → α) : (tab n f).length = n := by simp [tab]

theorem recordHead_length (s : State) (c : Nat) (train : Bool) (step : W64) : (s.recordHead c train step).length = 64 := by
  unfold State.recordHead
  extract_lets x e v nl t loss
  simp only [List.length_append, leBytes_length]

theorem layerEntry_length (l : Layer) (w : W32) : (layerEntry l w).length = 16 := by simp [layerEntry]

theorem layerEntries_length (ls : List Layer) : (layerEntries ls).length = 16 * ls.length := by
  simp [layerEntries, List.length_flatMap, layerEntry_length, Nat.mul_comm]

theorem rollEntries_length (fmts : List (Nat × Nat × W64)) (sums : List (Nat × Nat × Nat)) : (rollEntries fmts sums).length = 64 := by
  unfold rollEntries
  rw [List.length_flatMap, List.map_congr_left (g := fun _ => 16) fun k _ => by split <;> simp]
  rfl

/-- The step that a context's record names. -/
def State.recordStep (s : State) (c : Nat) : W64 :=
  match s.train.verdict with
  | some v => if (s.ctx c).trains then v.step else (s.ctx c).step
  | none => (s.ctx c).step

/-- What follows the header: the layer entries of a training step, or the format entries of a rollout step (R263). -/
def State.recordTail (s : State) (c : Nat) : List Byte :=
  if (s.ctx c).trains then
    List.replicate 64 0#8 ++ layerEntries (tab (s.ctx c).nlayer (fun i => nth {} (s.ctx c).layers i))
  else rollEntries (match s.ctxMap c with | some m => m.rollout | none => []) (s.ctx c).rollSums

theorem recordTail_length (s : State) (c : Nat) :
    (s.recordTail c).length = 64 + if (s.ctx c).trains then 16 * (s.ctx c).nlayer else 0 := by
  unfold State.recordTail
  split
  · rw [List.length_append, List.length_replicate, layerEntries_length, tab_length]
  · exact rollEntries_length _ _

/-- A context's step record (R263). -/
def State.stepRecord (s : State) (c : Nat) : List Byte := s.recordHead c (s.ctx c).trains (s.recordStep c) ++ s.recordTail c

/-- Its place in the ring. -/
def State.recordIndex (s : State) (c : Nat) : Nat := (s.recordStep c).toNat % max 1 (fld s.train.stepRing 0 16)

/-! ## What each case does -/

/-- The end of a step changes the training registers alone, and keeps the newest record, the ring and the Ratchet's counts (R263). -/
theorem setTrain_endStep (s : State) (x : Train) : ∃ y : Train, (s.setTrain x).endStep = s.setTrain y ∧ y.newest = x.newest ∧
    y.stepRing = x.stepRing ∧ y.ratchetStatus = x.ratchetStatus := by
  unfold State.endStep
  split
  · exact ⟨_, rfl, rfl, rfl, rfl⟩
  · exact ⟨x, rfl, rfl, rfl, rfl⟩

theorem exec_stepRecordWrite_of_idle {c : Nat} (h : (s.ctx c).ran = false ∨ s.recordDue c = false) :
    exec (.stepRecordWrite c) s = done s s := by
  change execStepRecordWrite c s = _
  simp only [execStepRecordWrite, Bool.not_eq_true']
  exact if_pos h

/-- A context's record that is due is written to the ring and kept as the newest, and the context's step ends (R262 to R264). -/
theorem exec_stepRecordWrite_of_due {c : Nat} (hran : (s.ctx c).ran = true) (hdue : s.recordDue c = true) :
    ∃ (u : State) (x : Train), exec (.stepRecordWrite c) s = done s (u.setTrain x) ∧ u.besideCtxs = s.besideCtxs ∧
      (∀ d, u.ctx d = if d = c then (s.ctx c).endStep else s.ctx d) ∧ x.newest = some (s.recordStep c, s.stepRecord c) ∧
      x.stepRing = setFld s.train.stepRing 32 16 (s.recordIndex c) ∧ x.ratchetStatus = s.train.ratchetStatus := by
  have he : exec (.stepRecordWrite c) s = execStepRecordWrite c s := rfl
  have hnot : ¬ ((!(s.ctx c).ran) = true ∨ (!s.recordDue c) = true) := by simp [hran, hdue]
  unfold execStepRecordWrite at he
  extract_lets x step head tail ix bs written ended at he
  rw [if_neg hnot] at he
  have hstep : step = s.recordStep c := rfl
  have hbytes : bs = s.stepRecord c := rfl
  have hix : ix = s.recordIndex c := rfl
  have hbase : ended.base = s.base := by simp [ended, written]
  have hmask : ended.besideCtxs = s.besideCtxs := by simp [ended, written]
  have hctx : ∀ d, ended.ctx d = if d = c then (s.ctx c).endStep else s.ctx d := by simp [ended, written]
  have htrain : ended.train = s.train := by simp [ended, written]
  clear_value step ix bs ended
  obtain ⟨y, hy, hnewest, hring, hstatus⟩ := setTrain_endStep ended { ended.train with
    stepRing := setFld ended.train.stepRing 32 16 ix, newest := some (step, bs) }
  refine ⟨ended, y, he.trans ((done_of_base hbase _).trans (congrArg (done s) hy)), hmask, hctx, ?_, ?_, ?_⟩
  · rw [hnewest, hstep, hbytes]
  · rw [hring, hix, htrain]
  · rw [hstatus, htrain]

/-- A training step without its verdict applied has no record due yet (R257). -/
theorem recordDue_of_unapplied {c : Nat} (ht : (s.ctx c).trains = true) (ha : s.train.applied = false) : s.recordDue c = false := by
  simp [State.recordDue, ht, ha]

/-- What STEP_RECORD_WRITE does for a context whose record is due. -/
theorem does_stepRecordWrite {c : Nat} (hc : Clean s) (hran : (s.ctx c).ran = true) (hdue : s.recordDue c = true) :
    Does (.stepRecordWrite c) s ([Piece.ctxs, .train, .freeCtr] ++ engineParts) fun t =>
      t.train.newest = some (s.recordStep c, s.stepRecord c) ∧
      t.train.stepRing = setFld s.train.stepRing 32 16 (s.recordIndex c) ∧
      (∀ d, t.ctx d = if d = c then (s.ctx c).endStep else s.ctx d) ∧
      t.train.ratchetStatus = s.train.ratchetStatus := by
  obtain ⟨u, x, he, hmask, hctx, hnewest, hring, hstatus⟩ := exec_stepRecordWrite_of_due hran hdue
  obtain ⟨hlog, -, hwipe, -⟩ := hc
  refine Does.of_stackWrites he ((lsLog_of_besideCtxs hmask).trans hlog) ((lsWipe_of_besideCtxs hmask).trans hwipe)
    ⟨hnewest, hring, hctx, hstatus⟩ (by simp) fun p hp _ => ?_
  simp only [List.mem_append, not_or, List.mem_cons, List.not_mem_nil, or_false] at hp
  exact Piece.same_setTrain _ (by tauto) (Piece.same_of_besideCtxs hmask (by simp; tauto))

/-- Settles O13: from what the verdict makes of each context, and from the parts of a step record. -/
theorem verdictAndStepRecord : Obligations.VerdictAndStepRecord := by
  unfold Obligations.VerdictAndStepRecord
  refine ⟨fun s v c hc => ⟨fun hv => Does.of_idle hc (exec_verdictBeat_of_none hv),
    fun hv hidle => Does.of_idle hc (exec_verdictBeat_of_idle hv hidle), fun hv happlied hctxs hrun hbeat => ?verdict⟩,
    fun s c hc => ⟨fun hidle => Does.of_idle hc (exec_stepRecordWrite_of_idle hidle), recordDue_of_unapplied, fun hran hdue => ?record⟩⟩
  case verdict =>
    refine (does_verdictBeat hc hv happlied hctxs hrun hbeat).imp fun t ⟨ht, hslice, hctx⟩ => ?_
    refine ⟨ht, by rw [hslice], by rw [hslice], fun d hd => (hctx d).trans (verdictCtxs_ctx_of_notMem v hd), fun d => ?_, fun hone => ?_⟩
    · rw [hctx d, verdictCtxs_oldTable]
    · have hjudged := verdictCtx_judged s v c
      have hc1 : t.ctx c = (s.verdictCtx v c).ctx c := by rw [hctx c, hone, verdictCtxs_singleton]
      rw [hc1]
      exact ⟨⟨hjudged.exp, hjudged.clean⟩, hjudged.skipped, hjudged.committed⟩
  case record =>
    refine (does_stepRecordWrite hc hran hdue).imp fun t ⟨hnewest, hring, hctx, hstatus⟩ => ?_
    refine ⟨⟨_, hnewest, ?_, ?_⟩, ?_, ?_, (hctx c).trans (if_pos rfl), fun d hd => (hctx d).trans (if_neg hd), hstatus⟩
    · exact List.take_left' (recordHead_length ..)
    · rw [State.stepRecord, List.length_append, recordHead_length, recordTail_length, ← Nat.add_assoc]
    · have hlt : s.recordIndex c < 2 ^ 16 := by
        have hmod : s.recordIndex c < max 1 (fld s.train.stepRing 0 16) := Nat.mod_lt _ (by omega)
        have hfld := fld_lt s.train.stepRing 0 16
        omega
      rw [hring, fld_setFld _ _ _ _ (by decide), Nat.mod_eq_of_lt hlt]
      rfl
    · rw [hring, fld_setFld_ne _ _ _ _ _ _ (by decide) (by decide)]

end Sys2Proof.Machine
end

section
/-! Time and clocks (chapter 09): the rules of the Escapement's updates, SYNC pulses and loads (R266, R267), the writes of its registers
(R267, R269, R294), and the end of a period (R287); obligations O14, O15 and O20 from these, and O3. -/

namespace Sys2Proof.Machine

variable {s t : State} {l : List Piece}

/-! ## The rule of each update -/

theorem Frame.escBit (h : Frame l s t) (hl : .esc ∈ l) (i : Nat) (b : Bool) : Frame l s (t.escBit i b) := h.updEsc hl _

theorem Frame.fault (h : Frame l s t) (hl : .ras ∈ l) (c : Cause) (u : FaultUnit) (i : Nat) (d : W64 := 0) :
    Frame l s (t.fault c u i d) := h.raise hl _

/-! ## What each command runs -/

theorem exec_syncCheckPulse (rc : Nat) : exec (.syncCheckPulse rc) s = done s (s.syncCheck rc) := rfl
theorem exec_syncLoadPulse (rc : Nat) : exec (.syncLoadPulse rc) s = execSyncLoadPulse rc s := rfl
theorem exec_arm : exec .arm s = done s s.escArm := rfl
theorem exec_disarm : exec .disarm s = done s s.escDisarm := rfl
theorem exec_escBeatChangeWrite (v : W64) : exec (.escBeatChangeWrite v) s = done s (s.escBeatChange v) := rfl
theorem exec_escHsCfgWrite (v : W64) : exec (.escHsCfgWrite v) s = done s (s.escHsCfg v) := rfl

/-! ## Pulses of SYNC -/

/-- The count of reference cycles that a pulse finds, `rc` cycles after the last boundary, load or pulse. -/
def State.rcNow (s : State) (rc : Nat) : W64 := s.esc.rcCount + BitVec.ofNat 64 rc

section
variable {rc : Nat}

theorem syncCheck_of_slip (hs : s.synced = true) (hn : fld (s.rcNow rc) 0 24 ≠ 0) :
    s.syncCheck rc = ((s.escBit 5 true).updEsc fun e => { e with unsyncDue := true }).fault .syncSlip .escapement 0 := by
  rw [State.syncCheck, if_neg (by simp [hs])]
  exact if_pos hn

theorem syncCheck_of_aligned (hs : s.synced = true) (hn : fld (s.rcNow rc) 0 24 = 0) : s.syncCheck rc = s := by
  rw [State.syncCheck, if_neg (by simp [hs])]
  exact if_neg (not_not.mpr hn)

theorem syncCheck_of_not_synced (hs : s.synced = false) : s.syncCheck rc = s.updEsc fun e => { e with rcCount := s.rcNow rc } := by
  rw [State.syncCheck, if_pos (by simp [hs])]
  rfl

theorem does_syncCheckPulse_slip (hc : Clean s) (hs : s.synced = true) (hn : fld (s.rcNow rc) 0 24 ≠ 0) :
    Does (.syncCheckPulse rc) s [.esc, .ras] fun t =>
      t.esc = { s.esc with status := setBit s.esc.status 5 true, unsyncDue := true } ∧
      t.ras = { s.ras with tree := s.ras.tree ++ [{ cause := .syncSlip, unit := .escapement, index := 0 }] } :=
  Does.of_frame (by rw [exec_syncCheckPulse, syncCheck_of_slip hs hn])
    ((((Frame.refl hc).escBit (by simp) 5 true).updEsc (by simp) _).fault (by simp) ..) ⟨rfl, rfl⟩

theorem does_syncCheckPulse_aligned (hc : Clean s) (hs : s.synced = true) (hn : fld (s.rcNow rc) 0 24 = 0) :
    Does (.syncCheckPulse rc) s [] fun _ => True :=
  Does.of_idle hc (by rw [exec_syncCheckPulse, syncCheck_of_aligned hs hn])

theorem does_syncCheckPulse_not_synced (hc : Clean s) (hs : s.synced = false) :
    Does (.syncCheckPulse rc) s [.esc] fun t => t.esc = { s.esc with rcCount := s.rcNow rc } :=
  Does.of_frame (by rw [exec_syncCheckPulse, syncCheck_of_not_synced hs]) ((Frame.refl hc).updEsc (by simp) _) rfl

theorem syncLoad_frame (hc : Clean s) : Frame [.esc] s s.syncLoad :=
  ((((Frame.refl hc).updEsc (by simp) _).escBit (by simp) 2 false).escBit (by simp) 1 true).escBit (by simp) 4 false

/-- ESC_STATUS after a load: the load is armed no longer, beats are counted, and holdover has ended. -/
theorem syncLoad_status : s.syncLoad.esc.status = setBit (setBit (setBit s.esc.status 2 false) 1 true) 4 false := rfl

theorem syncLoad_synced : s.syncLoad.synced = true := by
  rw [State.synced, syncLoad_status, bitOf_setBit_ne _ _ _ _ (by omega) (by omega), bitOf_setBit _ _ _ (by omega)]

theorem syncLoad_unarmed : bitOf s.syncLoad.esc.status 2 = false := by
  rw [syncLoad_status, bitOf_setBit_ne _ _ _ _ (by omega) (by omega), bitOf_setBit_ne _ _ _ _ (by omega) (by omega),
    bitOf_setBit _ _ _ (by omega)]

theorem does_syncLoadPulse_armed (hc : Clean s) (harm : bitOf s.esc.status 2 = true) (href : bitOf s.esc.status 0 = true) :
    Does (.syncLoadPulse rc) s [.esc] fun t =>
      t.esc.beat = s.esc.syncLoad ∧ t.esc.rcCount = 0 ∧ t.esc.next = 0 ∧ t.synced = true ∧ bitOf t.esc.status 2 = false ∧
      fld t.esc.hsSlew 0 32 = 0 ∧ t.esc.slews = [] ∧ t.esc.beatCfg = s.esc.beatCfg ∧ t.esc.hsStatus = s.esc.hsStatus :=
  Does.of_frame (by rw [exec_syncLoadPulse, execSyncLoadPulse, if_pos ⟨harm, href⟩]) (syncLoad_frame hc)
    ⟨rfl, rfl, rfl, syncLoad_synced, syncLoad_unarmed, fld_setFld _ _ _ _ (by omega), rfl, rfl, rfl⟩

end

/-- Settles O14: by the count that a check pulse finds, and by the load that is armed or not. -/
theorem syncPulses : Obligations.SyncPulses := by
  unfold Obligations.SyncPulses
  intro s rc hc n
  refine ⟨does_syncCheckPulse_slip hc, does_syncCheckPulse_aligned hc, does_syncCheckPulse_not_synced hc, does_syncLoadPulse_armed hc,
    fun h => ?_⟩
  rw [exec_syncLoadPulse, execSyncLoadPulse, if_neg h, exec_syncCheckPulse]

/-! ## Writes of ARM, DISARM and ESC_BEAT_CHANGE -/

section
variable {v : W64}

theorem does_escLocked {c : Instr} (hc : Clean s) (he : exec c s = done s s.escLocked) :
    Does c s [.esc] fun t => t.esc = { s.esc with status := setBit s.esc.status 7 true } :=
  Does.of_frame he ((Frame.refl hc).escBit (by simp) 7 true) rfl

theorem does_escBit {c : Instr} {i : Nat} {b : Bool} (hc : Clean s) (he : exec c s = done s (s.escBit i b)) :
    Does c s [.esc] fun t => t.esc = { s.esc with status := setBit s.esc.status i b } :=
  Does.of_frame he ((Frame.refl hc).escBit (by simp) i b) rfl

theorem exec_arm_of_outside (ho : s.outside = true) : exec .arm s = done s s.escLocked := by
  rw [exec_arm, State.escArm, if_pos ho]

theorem exec_arm_of_inside (ho : s.outside = false) : exec .arm s = done s (s.escBit 2 true) := by
  rw [exec_arm, State.escArm, if_neg (by simp [ho])]

theorem exec_disarm_of_outside (ho : s.outside = true) : exec .disarm s = done s s.escLocked := by
  rw [exec_disarm, State.escDisarm, if_pos ho]

theorem exec_disarm_of_inside (ho : s.outside = false) : exec .disarm s = done s (s.escBit 2 false) := by
  rw [exec_disarm, State.escDisarm, if_neg (by simp [ho])]

theorem exec_escBeatChangeWrite_of_outside (ho : s.outside = true) : exec (.escBeatChangeWrite v) s = done s s.escLocked := by
  rw [exec_escBeatChangeWrite, State.escBeatChange, if_pos ho]

theorem escBeatChange_of_taken (ho : s.outside = false) (hv : v = 0 ∨ s.esc.beat.toNat < v.toNat) :
    s.escBeatChange v = s.updEsc fun e => { e with beatChange := v } := by
  rw [State.escBeatChange, if_neg (by simp [ho])]
  exact if_pos hv

theorem escBeatChange_of_refused (ho : s.outside = false) (hv : v ≠ 0) (hb : v.toNat ≤ s.esc.beat.toNat) :
    s.escBeatChange v = (s.escBit 6 true).updEsc fun e => { e with beatChange := 0 } := by
  rw [State.escBeatChange, if_neg (by simp [ho])]
  exact if_neg (not_or.mpr ⟨hv, Nat.not_lt.mpr hb⟩)

theorem does_escBeatChangeWrite_taken (hc : Clean s) (ho : s.outside = false) (hv : v = 0 ∨ s.esc.beat.toNat < v.toNat) :
    Does (.escBeatChangeWrite v) s [.esc] fun t => t.esc = { s.esc with beatChange := v } :=
  Does.of_frame (by rw [exec_escBeatChangeWrite, escBeatChange_of_taken ho hv])
    ((Frame.refl hc).updEsc (by simp) _) rfl

theorem does_escBeatChangeWrite_refused (hc : Clean s) (ho : s.outside = false) (hv : v ≠ 0) (hb : v.toNat ≤ s.esc.beat.toNat) :
    Does (.escBeatChangeWrite v) s [.esc] fun t =>
      t.esc = { s.esc with status := setBit s.esc.status 6 true, beatChange := 0 } :=
  Does.of_frame (by rw [exec_escBeatChangeWrite, escBeatChange_of_refused ho hv hb])
    (((Frame.refl hc).escBit (by simp) 6 true).updEsc (by simp) _) rfl

/-! ## Writes of ESC_HS_CFG -/

/-- ESC_HS_STATUS.STATE with which the role of an ESC_HS_CFG begins: an agent without a port to its root is in NO_ROOT (R275). -/
def State.hsFirst (s : State) (new : W64) : Nat :=
  match fld new 0 2 with
  | 0 => 0
  | 1 => 2
  | 2 => if fld new 2 6 < 31 ∨ fld new 2 6 > 38 ∨ (s.port (fld new 2 6)).st = 4 ∨ ¬ (s.port (fld new 2 6)).enable then 5 else 1
  | _ => 6

/-- The role of an ESC_HS_CFG begins anew (R273, R294). -/
def State.hsBegin (s : State) (new : W64) : State :=
  (s.updEsc fun e => { e with
    hsCfg := new, freq := 0, owe := 0, lastSlew := 0, t1 := none, inTol := 0, noReply := 0, prevState := s.hsFirst new
    stepped := false, acquireStep := none, busy := [] }).setHs (s.hsFirst new)

/-- Whether a write changes the role, to another than NONE, or the port of ESC_HS_CFG. -/
def State.hsMoves (s : State) (new : W64) : Prop := (fld new 0 2 ≠ s.hsRole ∧ fld new 0 2 ≠ 0) ∨ fld new 2 6 ≠ s.hsPort

/-- HOLDOVER, NO_ROOT and UNREACHED, in which such a change is not locked (R294). -/
def State.hsLost (s : State) : Prop := s.hsState = 4 ∨ s.hsState = 5 ∨ s.hsState = 6

theorem escHsCfg_of_locked (ho : s.outside = true) (hm : ¬ (s.hsMoves (rw s.esc.hsCfg hsCfgMask v) ∧ s.hsLost)) :
    s.escHsCfg v = s.escLocked := by
  rw [State.escHsCfg]
  exact if_pos ⟨ho, hm⟩

theorem escHsCfg_of_open (h : s.outside = false ∨ (s.hsMoves (rw s.esc.hsCfg hsCfgMask v) ∧ s.hsLost)) :
    s.escHsCfg v = s.hsBegin (rw s.esc.hsCfg hsCfgMask v) := by
  rw [State.escHsCfg]
  refine if_neg fun hl => ?_
  obtain ⟨ho, hm⟩ := hl
  rcases h with h | h
  · simp [h] at ho
  · exact hm h

theorem hsFirst_lt (s : State) (new : W64) : s.hsFirst new < 8 := by
  rw [State.hsFirst]
  split
  case h_3 => split <;> omega
  all_goals omega

theorem hsState_hsBegin (s : State) (new : W64) : (s.hsBegin new).hsState = s.hsFirst new := by
  rw [State.hsState, State.hsBegin, State.setHs]
  exact (fld_setFld _ _ _ _ (by omega)).trans (Nat.mod_eq_of_lt (hsFirst_lt s new))

theorem hsFirst_of_none {new : W64} (h : fld new 0 2 = 0) : s.hsFirst new = 0 := by simp only [State.hsFirst, h]
theorem hsFirst_of_root {new : W64} (h : fld new 0 2 = 1) : s.hsFirst new = 2 := by simp only [State.hsFirst, h]
theorem hsFirst_of_follower {new : W64} (h : fld new 0 2 = 3) : s.hsFirst new = 6 := by simp only [State.hsFirst, h]
theorem hsFirst_of_agent {new : W64} (h : fld new 0 2 = 2) : s.hsFirst new = 1 ∨ s.hsFirst new = 5 := by
  simp only [State.hsFirst, h]
  split
  · exact .inr rfl
  · exact .inl rfl

theorem hsBegin_frame (hc : Clean s) (new : W64) : Frame [.esc] s (s.hsBegin new) :=
  ((Frame.refl hc).updEsc (by simp) _).updEsc (by simp) _

theorem does_escHsCfgWrite_open (hc : Clean s) (h : s.outside = false ∨ (s.hsMoves (rw s.esc.hsCfg hsCfgMask v) ∧ s.hsLost)) :
    Does (.escHsCfgWrite v) s [.esc] fun t => t.esc = (s.hsBegin (rw s.esc.hsCfg hsCfgMask v)).esc :=
  Does.of_frame (by rw [exec_escHsCfgWrite, escHsCfg_of_open h]) (hsBegin_frame hc _) rfl

theorem does_escHsCfgWrite_inside (hc : Clean s) (ho : s.outside = false) : Does (.escHsCfgWrite v) s [.esc] fun t =>
    t.esc.hsCfg = rw s.esc.hsCfg hsCfgMask v ∧ t.esc.freq = 0 ∧ t.esc.owe = 0 ∧ t.esc.lastSlew = 0 ∧
    (t.hsRole = 0 → t.hsState = 0) ∧ (t.hsRole = 1 → t.hsState = 2) ∧ (t.hsRole = 3 → t.hsState = 6) ∧
    (t.hsRole = 2 → t.hsState = 1 ∨ t.hsState = 5) ∧ t.esc.status = s.esc.status ∧ t.esc.beat = s.esc.beat := by
  refine (does_escHsCfgWrite_open hc (.inl ho)).imp fun t ht => ?_
  have hrole : t.hsRole = fld (rw s.esc.hsCfg hsCfgMask v) 0 2 := by rw [State.hsRole, ht]; rfl
  have hst : t.hsState = s.hsFirst (rw s.esc.hsCfg hsCfgMask v) := by rw [State.hsState, ht]; exact hsState_hsBegin ..
  rw [hrole, hst, ht]
  exact ⟨rfl, rfl, rfl, rfl, hsFirst_of_none, hsFirst_of_root, hsFirst_of_follower, hsFirst_of_agent, rfl, rfl⟩

end

/-- Settles O15: outside the locked states each write acts; in them it sets CFG_LOCKED, but for the change that R294 excepts. -/
theorem escapementWrites : Obligations.EscapementWrites := by
  unfold Obligations.EscapementWrites
  intro s v hc
  refine ⟨fun ho => ⟨does_escBit hc (exec_arm_of_inside ho), does_escBit hc (exec_disarm_of_inside ho),
    does_escBeatChangeWrite_taken hc ho, does_escBeatChangeWrite_refused hc ho, does_escHsCfgWrite_inside hc ho⟩, fun ho => ?_⟩
  refine ⟨does_escLocked hc (exec_arm_of_outside ho), does_escLocked hc (exec_disarm_of_outside ho),
    does_escLocked hc (exec_escBeatChangeWrite_of_outside ho), fun hm => ?_, fun hm hl => ?_⟩
  · exact does_escLocked hc (by rw [exec_escHsCfgWrite, escHsCfg_of_locked ho hm])
  · refine (does_escHsCfgWrite_open hc (.inr ⟨hm, hl⟩)).imp fun t ht => ?_
    rw [ht]
    exact ⟨rfl, rfl, rfl, rfl, rfl⟩

/-! ## The end of a period -/

/-- ESC_LATENESS after a period that ends with a lateness: LATE_RUN counts one more, or is 0 (R287). -/
def lateRunAfter (w : W64) (late : Nat) : W64 := if late = 0 then setFld w 32 16 0 else addFld w 32 16 1

/-- ESC_LATE_STATS after it: LATE_PERIODS counts one more for a late one. -/
def latePeriodsAfter (w : W64) (late : Nat) : W64 := if late = 0 then w else addFld w 32 16 1

theorem fld_lateRunAfter (w : W64) (late : Nat) :
    fld (lateRunAfter w late) 32 16 = if late = 0 then 0 else min (fld w 32 16 + 1) 0xFFFF := by
  rw [lateRunAfter]
  split
  · exact fld_setFld _ _ _ _ (by omega)
  · rw [addFld, fld_setFld _ _ _ _ (by omega), satTo_eq_min]
    omega

theorem fld_lateRunAfter_lateness (w : W64) (late : Nat) : fld (lateRunAfter w late) 0 32 = fld w 0 32 := by
  rw [lateRunAfter]
  split <;> exact fld_setFld_ne _ _ _ _ _ _ (by omega) (by omega)

theorem lateNow_updEsc {f : Esc → Esc} (hf : (f s.esc).periodCfg = s.esc.periodCfg) : (s.updEsc f).lateNow = s.updEsc fun e =>
    { f e with status := setBit (f e).status 3 (decide (s.lateLimit ≤ fld (f e).lateness 32 16)) } := by
  have hlimit : (s.updEsc f).lateLimit = s.lateLimit := by simp only [State.lateLimit, State.updEsc, hf]
  rw [State.lateNow, hlimit]
  rfl

/-- Only ESC_LATENESS, ESC_LATE_STATS and LATE change. -/
theorem periodEnd_eq (s : State) (late : Nat) : s.periodEnd late = s.updEsc fun e => { e with
    lateness := lateRunAfter e.lateness late, lateStats := latePeriodsAfter e.lateStats late
    status := setBit e.status 3 (decide (s.lateLimit ≤ fld (lateRunAfter e.lateness late) 32 16)) } := by
  by_cases hl : late = 0
  · rw [State.periodEnd, lateNow_updEsc (by rw [if_pos hl])]
    simp only [lateRunAfter, latePeriodsAfter, hl, if_true]
  · rw [State.periodEnd, lateNow_updEsc (by rw [if_neg hl])]
    simp only [lateRunAfter, latePeriodsAfter, hl, if_false]

/-- Settles O20: by the lateness with which the period ends. -/
theorem lateRun : Obligations.LateRun := by
  unfold Obligations.LateRun
  intro s late t run
  have he := periodEnd_eq s late
  have hrun : run t = if late = 0 then 0 else min (run s + 1) 0xFFFF := by
    show fld (s.periodEnd late).esc.lateness 32 16 = _
    rw [he]
    exact fld_lateRunAfter _ _
  refine ⟨fun h => ?_, fun h => ?_, ?_, ?_, fun i hi hlt => ?_, ?_, ?_⟩
  · rw [hrun, if_neg (by omega)]
  · rw [hrun, if_pos h]
  · show bitOf (s.periodEnd late).esc.status 3 = true ↔ s.lateLimit ≤ fld (s.periodEnd late).esc.lateness 32 16
    rw [he]
    exact (Bool.eq_iff_iff.mp (bitOf_setBit _ _ _ (by omega))).trans decide_eq_true_iff
  · show fld (s.periodEnd late).esc.lateness 0 32 = _
    rw [he]
    exact fld_lateRunAfter_lateness _ _
  · show bitOf (s.periodEnd late).esc.status i = _
    rw [he]
    exact bitOf_setBit_ne _ _ _ _ (by omega) (Ne.symm hi)
  · show (s.periodEnd late).esc = { s.esc with
      lateness := (s.periodEnd late).esc.lateness, lateStats := (s.periodEnd late).esc.lateStats, status := (s.periodEnd late).esc.status }
    rw [he]
    rfl
  · simp only [t, he, State.updEsc_ras, State.updEsc_host, State.updEsc_tiles, State.updEsc_mem, State.updEsc_fab, State.updEsc_slice,
      and_self]

/-! ## The state after reset -/

/-- Settles O3: the reset values are evaluated; queues, tiles and flags are unlisted, so each holds its default. -/
theorem resetHoldsTheInvariant : Obligations.ResetHoldsTheInvariant := by
  unfold Obligations.ResetHoldsTheInvariant
  intro z
  have hinv : Inv z := ⟨rfl, rfl, rfl, rfl, rfl, rfl⟩
  exact ⟨hinv, rfl, rfl, by decide, by decide, by decide, by decide, by decide, by decide, by decide, by decide, rfl, by decide, by decide,
    by decide, by decide, by decide, by decide, fun _ => rfl, fun _ => rfl, fun _ => rfl, rfl, by decide, by decide⟩

end Sys2Proof.Machine
end

section
/-! The Hairspring (R271 to R276): the rules of its updates, what a message to the rack does, the agent's and the root's commands, a
follower's, and obligations O16 and O17 from these. -/

namespace Sys2Proof.Machine

variable {s t : State} {l : List Piece}

/-! ## The rule of each update -/

theorem State.esc_updEsc (f : Esc → Esc) : (s.updEsc f).esc = f s.esc := rfl

theorem ras_fault (c : Cause) (u : FaultUnit) (i : Nat) (d : W64) : (s.fault c u i d).ras =
    { s.ras with tree := s.ras.tree ++ [{ cause := c, unit := u, index := i, detail := d }] } := rfl

theorem outside_of_slice (h : t.slice = s.slice) : t.outside = s.outside := by
  rw [State.outside, State.outside, State.sliceSt, State.sliceSt, h]

theorem outside_updEsc (f : Esc → Esc) : (s.updEsc f).outside = s.outside := outside_of_slice (State.updEsc_slice s f)

theorem updEsc_updEsc (f g : Esc → Esc) : (s.updEsc f).updEsc g = s.updEsc fun e => g (f e) := rfl

theorem Frame.updPort (h : Frame l s t) (hl : .ports ∈ l) (n : Nat) (f : Port → Port) : Frame l s (t.updPort n f) := by
  refine h.extend rfl ⟨rfl, rfl, rfl, rfl⟩ fun p hp => ?_
  cases p
  case ports => exact absurd hl hp
  case fab => rfl
  all_goals simp [Piece.same]

theorem Frame.hsFrame (h : Frame l s t) (hl : .ports ∈ l) (n : Nat) (frame : List W64) : Frame l s (t.hsFrame n frame) := h.updPort hl n _

theorem Frame.setHs (h : Frame l s t) (hl : .esc ∈ l) (v : Nat) : Frame l s (t.setHs v) := h.updEsc hl _

theorem Frame.applySlew (h : Frame l s t) (hl : .esc ∈ l) (target : W64) (d : Int) : Frame l s (t.applySlew target d) := h.updEsc hl _

theorem Frame.foldl {α : Type} {f : State → α → State} (hf : ∀ t a, Frame l s t → Frame l s (f t a)) (xs : List α)
    (h : Frame l s t) : Frame l s (xs.foldl f t) := by
  induction xs generalizing t with
  | nil => exact h
  | cons a xs ih => exact ih (hf t a h)

theorem Frame.clean (h : Frame l s t) : Clean t := by
  obtain ⟨-, hc, -⟩ := h
  exact hc

theorem Frame.same (h : Frame l s t) {p : Piece} (hp : p ∉ l) : p.same s t := by
  obtain ⟨-, -, hs⟩ := h
  exact hs p hp

/-! ## A message to the rack -/

/-- A port to whose control blocks a Hairspring frame has been given. -/
def Port.tell (x : Port) (frame : List W64) : Port := { x with ctl := x.ctl ++ [.hairspring frame] }

/-- From `s` to `t`, a Hairspring frame has gone out on each rack port that is UP, and on no other (R271). -/
def ToldRack (s t : State) (frame : List W64) : Prop :=
  ∀ p, t.port p = if p < 31 ∧ (s.port p).st = 3 then (s.port p).tell frame else s.port p

/-- The frame goes out on port `p` if that is UP. -/
def State.tellPort (s : State) (frame : List W64) (p : Nat) : State := if (s.port p).st = 3 then s.hsFrame p frame else s

theorem port_hsFrame (n p : Nat) (frame : List W64) : (s.hsFrame n frame).port p =
    if p = n then (s.port p).tell frame else s.port p := by
  rw [State.hsFrame, State.port_updPort]
  split
  next h => rw [h]; rfl
  next => rfl

theorem port_tellPort (n p : Nat) (frame : List W64) : (s.tellPort frame n).port p =
    if p = n ∧ (s.port p).st = 3 then (s.port p).tell frame else s.port p := by
  rw [State.tellPort]
  split
  next hup =>
    rw [port_hsFrame]
    by_cases hn : p = n <;> simp [hn, hup]
  next hdown => rw [if_neg fun ⟨hn, hup⟩ => hdown (hn ▸ hup)]

theorem foldl_tellPort_port (frame : List W64) {ns : List Nat} (hd : ns.Nodup) (p : Nat) : (ns.foldl (·.tellPort frame ·) s).port p =
    if p ∈ ns ∧ (s.port p).st = 3 then (s.port p).tell frame else s.port p := by
  induction ns generalizing s with
  | nil => simp
  | cons n ns ih =>
    obtain ⟨hn, hd⟩ := List.nodup_cons.mp hd
    rw [List.foldl_cons, ih hd, port_tellPort]
    by_cases hp : p = n
    · subst hp
      simp [hn]
    · simp [hp]

theorem tellPort_esc (n : Nat) (frame : List W64) : (s.tellPort frame n).esc = s.esc := by
  rw [State.tellPort]
  split <;> rfl

theorem Frame.tellPort (h : Frame l s t) (hl : .ports ∈ l) (n : Nat) (frame : List W64) : Frame l s (t.tellPort frame n) := by
  rw [State.tellPort]
  split
  · exact h.hsFrame hl n frame
  · exact h

/-- The frame of a slew or step of `d` rc for a beat: the state and the sum of the agent go with it (R274). -/
def State.slewFrame (s : State) (target : W64) (d : Int) : List W64 :=
  [target, BitVec.ofInt 64 d, BitVec.ofNat 64 s.hsState, BitVec.ofInt 64 s.slewSum]

theorem sendSlew_eq (s : State) (target : W64) (d : Int) : s.sendSlew target d =
    (List.range 31).foldl (·.tellPort ((s.applySlew target d).slewFrame target d) ·) (s.applySlew target d) := rfl

theorem applySlew_zero (s : State) (target : W64) : s.applySlew target 0 = s := by simp only [State.applySlew, State.updEsc, if_true]

theorem sendSlew_esc (target : W64) (d : Int) : (s.sendSlew target d).esc = (s.applySlew target d).esc := by
  rw [sendSlew_eq]
  exact foldl_esc (fun s n => tellPort_esc n _) _

theorem sendSlew_port (target : W64) (d : Int) : ToldRack s (s.sendSlew target d) ((s.applySlew target d).slewFrame target d) := by
  intro p
  rw [sendSlew_eq, foldl_tellPort_port _ List.nodup_range]
  simp only [State.applySlew_port_at, List.mem_range]

theorem Frame.tellRack (h : Frame l s t) (hl : .ports ∈ l) (frame : List W64) :
    Frame l s ((List.range 31).foldl (·.tellPort frame ·) t) :=
  h.foldl (fun _ n hf => hf.tellPort hl n frame) _

theorem Frame.sendSlew (h : Frame l s t) (he : .esc ∈ l) (hl : .ports ∈ l) (target : W64) (d : Int) : Frame l s (t.sendSlew target d) := by
  rw [sendSlew_eq]
  exact (h.applySlew he target d).tellRack hl _

/-- A message without a change leaves the sums as they are. -/
theorem Frame.sendSlew_zero (h : Frame l s t) (hl : .ports ∈ l) (target : W64) : Frame l s (t.sendSlew target 0) := by
  rw [sendSlew_eq, applySlew_zero]
  exact h.tellRack hl _

theorem tellPort_ras (n : Nat) (frame : List W64) : (s.tellPort frame n).ras = s.ras := by
  rw [State.tellPort]
  split <;> rfl

theorem sendSlew_zero_ras (target : W64) : (s.sendSlew target 0).ras = s.ras := by
  rw [sendSlew_eq, applySlew_zero]
  exact foldl_unchanged (read := State.ras) (fun s n => tellPort_ras n _) _

theorem sendSlew_zero_esc (target : W64) : (s.sendSlew target 0).esc = s.esc := by rw [sendSlew_esc, applySlew_zero]

theorem sendSlew_zero_told (target : W64) : ToldRack s (s.sendSlew target 0) (s.slewFrame target 0) := by
  have h := sendSlew_port (s := s) target 0
  rwa [applySlew_zero] at h

/-! ## What each command runs -/

section
variable {c c2 : RcAt} {t1 t2 t3 : W64} {th : Int}

theorem exec_hsExchangeRequest (c : RcAt) : exec (.hsExchangeRequest c) s = execHsExchangeRequest c s := rfl
theorem exec_hsRootReply (n : Nat) (a b) : exec (.hsRootReply n a b) s = execHsRootReply n a b s := rfl
theorem exec_hsExchangeReply (t2 t3 : W64) (c : RcAt) : exec (.hsExchangeReply t2 t3 c) s = execHsExchangeReply t2 t3 c s := rfl
theorem exec_hsIntervalNoReply : exec .hsIntervalNoReply s = execHsIntervalNoReply s := rfl
theorem exec_hsHoldoverTimeout : exec .hsHoldoverTimeout s = execHsHoldoverTimeout s := rfl
theorem exec_slewMessage (n : Nat) (b : W64) (d : Int) (r : SlewReport) : exec (.slewMessage n b d r) s = execSlewMessage n b d r s := rfl
theorem exec_slewMessageMissing : exec .slewMessageMissing s = execSlewMessageMissing s := rfl
theorem exec_slewAcknowledgement (k : Nat) (b : Bool) : exec (.slewAcknowledgement k b) s = execSlewAcknowledgement k b s := rfl
theorem exec_hsRoot (n : Nat) (b : Bool) :
    exec (.controlBlockReceive n (.hsRoot b) true) s = done s (if b then s else s.rootLost n) := rfl

/-! ## Requests and the root's replies (R272) -/

theorem does_hsExchangeRequest (hc : Clean s) (hr : s.hsRole = 2) (hst : s.hsState ≠ 5) (hin : c.rc < s.beatLength s.esc.beat) :
    Does (.hsExchangeRequest c) s [.esc, .ports] fun t => t.esc = { s.esc with t1 := some (s.hallTime s.esc.beat c) } ∧
      ∀ p, t.port p = if p = s.hsPort then (s.port p).tell [] else s.port p :=
  Does.of_frame ((exec_hsExchangeRequest c).trans (if_pos ⟨hr, hst, hin⟩))
    (((Frame.refl hc).updEsc (by simp) _).hsFrame (by simp) _ _) ⟨rfl, fun p => port_hsFrame _ p _⟩

/-- The timestamp of a frame that crossed `ago` beats before the present one. -/
theorem hallTime_sub {ago : Nat} (h : ago ≤ s.esc.beat.toNat) : s.hallTime (s.esc.beat - BitVec.ofNat 64 ago) c =
    BitVec.ofNat 64 (16 * (fld s.esc.beatCfg 0 16 * (s.esc.beat.toNat - ago) + c.rc) + c.frac % 16) := by
  have hb := s.esc.beat.isLt
  have hsub : (s.esc.beat - BitVec.ofNat 64 ago).toNat = s.esc.beat.toNat - ago := by
    rw [BitVec.toNat_sub, BitVec.toNat_ofNat]
    omega
  rw [State.hallTime, hsub]

theorem does_hsRootReply {n ago : Nat} (hc : Clean s) (hr : s.hsRole = 1) (hlo : 31 ≤ n) (hhi : n < 39) (hago : ago ≤ s.esc.beat.toNat)
    (hin : c.rc < s.beatLength s.esc.beat) : Does (.hsRootReply n (ago, c2) c) s [.ports] fun t =>
      ∀ p, t.port p = if p = n then
        (s.port p).tell [s.hallTime (s.esc.beat - BitVec.ofNat 64 ago) c2, s.hallTime s.esc.beat c] else s.port p :=
  Does.of_frame ((exec_hsRootReply n _ c).trans (if_pos ⟨hr, hlo, hhi, hago, hin⟩)) ((Frame.refl hc).hsFrame (by simp) _ _)
    fun p => port_hsFrame _ p _

/-! ## The agent's measurement (R272, R273) -/

/-- θ enters freq and owe, and ESC_HS_STATUS. -/
def State.replied (s : State) (th : Int) : State := s.updEsc fun e => { e with
  freq := e.freq + th / 8, owe := e.owe + (th / 2 + (e.freq + th / 8)), t1 := none, noReply := 0
  hsStatus := setFld e.hsStatus 0 32 (twos 32 th) }

theorem replied_esc (s : State) (th : Int) : (s.replied th).esc = { s.esc with
    freq := s.esc.freq + th / 8, owe := s.esc.owe + (th / 2 + (s.esc.freq + th / 8)), t1 := none, noReply := 0
    hsStatus := setFld s.esc.hsStatus 0 32 (twos 32 th) } := rfl

theorem replied_fab (s : State) (th : Int) : (s.replied th).fab = s.fab := State.updEsc_fab _ _
theorem replied_ras (s : State) (th : Int) : (s.replied th).ras = s.ras := State.updEsc_ras _ _

/-- A reply ends HOLDOVER (R275). -/
def State.resumed (s : State) : State :=
  if s.hsState = 4 then (s.setHs (if s.esc.stepped then 1 else s.esc.prevState)).updEsc fun e => { e with inTol := 0 } else s

/-- An exchange with offset θ, but for its message: a large θ outside ACQUIRE is a fault. -/
def State.exchanged (s : State) (th : Int) : State :=
  let u := (s.replied th).resumed
  if u.hsState ≠ 1 ∧ th.natAbs * 5 > s.faultNs * 16 then (u.hsMove th).fault .hairspring .escapement 0 else u.hsMove th

theorem exec_hsExchangeReply_of_sent (hr : s.hsRole = 2) (h1 : s.esc.t1 = some t1) (hin : c.rc < s.beatLength s.esc.beat) :
    exec (.hsExchangeReply t2 t3 c) s =
      done s ((s.exchanged (hsTheta t1 t2 t3 (s.hallTime s.esc.beat c) s.hsAsym)).sendSlew (s.esc.beat + 4) 0) := by
  have hg : ¬ (s.hsRole ≠ 2 ∨ s.beatLength s.beat ≤ c.rc) := not_or.mpr ⟨not_not.mpr hr, Nat.not_le.mpr hin⟩
  rw [exec_hsExchangeReply, execHsExchangeReply, h1]
  exact if_neg hg

/-- What a move of the agent's state leaves as the reply has set it. -/
def KeepsReply (e e' : Esc) : Prop :=
  e'.t1 = e.t1 ∧ e'.noReply = e.noReply ∧ fld e'.hsStatus 0 32 = fld e.hsStatus 0 32 ∧ e'.beat = e.beat

theorem KeepsReply.refl (e : Esc) : KeepsReply e e := ⟨rfl, rfl, rfl, rfl⟩

theorem KeepsReply.trans {e e' e'' : Esc} (h : KeepsReply e e') (h' : KeepsReply e' e'') : KeepsReply e e'' :=
  let ⟨ht1, hcount, hoffset, hbeat⟩ := h
  let ⟨ht1', hcount', hoffset', hbeat'⟩ := h'
  ⟨ht1'.trans ht1, hcount'.trans hcount, hoffset'.trans hoffset, hbeat'.trans hbeat⟩

theorem keepsReply_state (e : Esc) (v : Nat) : KeepsReply e { e with hsStatus := setFld e.hsStatus 32 3 v } :=
  ⟨rfl, rfl, fld_setFld_ne _ _ _ _ _ _ (by omega) (by omega), rfl⟩

theorem sendStep_esc (s : State) (d : Int) : (s.sendStep d).esc = { (s.applySlew (s.beat + 4) d).esc with
    hsStatus := setBit (s.applySlew (s.beat + 4) d).esc.hsStatus 35 true, stepped := true, acquireStep := none, freq := 0, owe := 0
    lastSlew := 0 } := by
  rw [State.sendStep, State.esc_updEsc, sendSlew_esc]

theorem applySlew_esc (s : State) (target : W64) (d : Int) : (s.applySlew target d).esc = { s.esc with
    hsSlew := if d = 0 then s.esc.hsSlew else addFld (setFld s.esc.hsSlew 0 32 (twos 32 (s.slewSum + d))) 32 32 1
    slews := if d = 0 then s.esc.slews else s.esc.slews ++ [(target, d)] } := rfl

theorem keepsReply_sendStep (s : State) (d : Int) : KeepsReply s.esc (s.sendStep d).esc := by
  rw [sendStep_esc, applySlew_esc]
  exact ⟨rfl, rfl, fld_setBit_ne _ _ _ _ _ (by omega) (by omega), rfl⟩

theorem keepsReply_hsStep (s : State) (th : Int) : KeepsReply s.esc (s.hsStep th).esc := by
  have h0 : KeepsReply s.esc (s.updEsc fun e => { e with inTol := 0 }).esc := ⟨rfl, rfl, rfl, rfl⟩
  rw [State.hsStep]
  split
  · rw [State.esc_updEsc]
    exact h0.trans ⟨rfl, rfl, rfl, rfl⟩
  · exact h0.trans (keepsReply_sendStep _ _)

/-- A move of the state in ACQUIRE may be a step; every other one changes the Escapement alone. -/
theorem hsMove_cases (s : State) (th : Int) : s.hsMove th = s.hsStep th ∨
    ∃ f : Esc → Esc, KeepsReply s.esc (f s.esc) ∧ s.hsMove th = s.updEsc f := by
  have hsame : ∃ f : Esc → Esc, KeepsReply s.esc (f s.esc) ∧ s = s.updEsc f := ⟨id, .refl _, rfl⟩
  have hcounted : ∀ (n : Nat) (k : Option Int), ∃ f : Esc → Esc, KeepsReply s.esc (f s.esc) ∧
      (if n ≥ 4 then (s.updEsc fun e => { e with inTol := n, acquireStep := k }).setHs 2
        else s.updEsc fun e => { e with inTol := n, acquireStep := k }) = s.updEsc f := by
    intro n k
    have hn : KeepsReply s.esc { s.esc with inTol := n, acquireStep := k } := ⟨rfl, rfl, rfl, rfl⟩
    split
    · rw [State.setHs_eq, updEsc_updEsc]
      exact ⟨_, hn.trans (keepsReply_state _ 2), rfl⟩
    · exact ⟨_, hn, rfl⟩
  rw [State.hsMove]
  split
  case h_1 =>
    split
    · exact .inl rfl
    · exact .inr (hcounted _ none)
  case h_2 =>
    split
    · exact .inr hsame
    · rw [State.setHs_eq, updEsc_updEsc]
      exact .inr ⟨_, (keepsReply_state _ 3).trans ⟨rfl, rfl, rfl, rfl⟩, rfl⟩
  case h_3 => exact .inr (hcounted _ s.esc.acquireStep)
  case h_4 => exact .inr hsame

theorem keepsReply_hsMove (s : State) (th : Int) : KeepsReply s.esc (s.hsMove th).esc := by
  rcases hsMove_cases s th with h | ⟨f, hf, h⟩
  · rw [h]
    exact keepsReply_hsStep s th
  · rw [h, State.esc_updEsc]
    exact hf

theorem keepsReply_resumed (s : State) : KeepsReply s.esc s.resumed.esc := by
  rw [State.resumed]
  split
  · rw [State.esc_updEsc, State.setHs_eq, State.esc_updEsc]
    exact (keepsReply_state s.esc _).trans ⟨rfl, rfl, rfl, rfl⟩
  · exact .refl _

theorem keepsReply_exchanged (s : State) (th : Int) : KeepsReply (s.replied th).esc (s.exchanged th).esc := by
  have h := (keepsReply_resumed (s.replied th)).trans (keepsReply_hsMove _ th)
  rw [State.exchanged]
  split
  · rw [State.fault_esc]
    exact h
  · exact h

theorem Frame.sendStep (h : Frame l s t) (he : .esc ∈ l) (hp : .ports ∈ l) (d : Int) : Frame l s (t.sendStep d) := by
  rw [State.sendStep]
  exact (h.sendSlew he hp (t.beat + 4) d).updEsc he _

theorem Frame.hsStep (h : Frame l s t) (he : .esc ∈ l) (hp : .ports ∈ l) (th : Int) : Frame l s (t.hsStep th) := by
  have h0 : Frame l s (t.updEsc fun e => { e with inTol := 0 }) := h.updEsc he _
  rw [State.hsStep]
  split
  · exact h0.updEsc he _
  · exact h0.sendStep he hp _

theorem Frame.hsMove (h : Frame l s t) (he : .esc ∈ l) (hp : .ports ∈ l) (th : Int) : Frame l s (t.hsMove th) := by
  rcases hsMove_cases t th with hm | ⟨f, -, hm⟩
  · rw [hm]
    exact h.hsStep he hp th
  · rw [hm]
    exact h.updEsc he _

theorem Frame.resumed (h : Frame l s t) (he : .esc ∈ l) : Frame l s t.resumed := by
  rw [State.resumed]
  split
  · exact (h.setHs he _).updEsc he _
  · exact h

theorem exchanged_frame (hc : Clean s) (th : Int) : Frame [.esc, .ports, .ras] s (s.exchanged th) := by
  have h : Frame [.esc, .ports, .ras] s ((s.replied th).resumed.hsMove th) :=
    (((Frame.refl hc).updEsc (by simp) _).resumed (by simp)).hsMove (by simp) (by simp) th
  rw [State.exchanged]
  split
  · exact h.fault (by simp) ..
  · exact h

theorem does_hsExchangeReply (hc : Clean s) (he : exec (.hsExchangeReply t2 t3 c) s = done s ((s.exchanged th).sendSlew (s.esc.beat + 4) 0)) :
    Does (.hsExchangeReply t2 t3 c) s [.esc, .ports, .ras] fun t =>
      t.esc.t1 = none ∧ t.esc.noReply = 0 ∧ fld t.esc.hsStatus 0 32 = twos 32 th ∧ t.esc.beat = s.esc.beat := by
  refine Does.of_frame he ((exchanged_frame hc th).sendSlew_zero (by simp) _) ?_
  have hkept := keepsReply_exchanged s th
  rw [replied_esc] at hkept
  obtain ⟨h1, h2, h3, h4⟩ := hkept
  have htwos : twos 32 th < 2 ^ 32 := by
    rw [twos]
    omega
  rw [endOf_esc, sendSlew_zero_esc]
  exact ⟨h1, h2, h3.trans ((fld_setFld _ _ _ _ (by omega)).trans (Nat.mod_eq_of_lt htwos)), h4⟩

/-! ## An exchange in LOCKED (R275) -/

theorem hsState_sendSlew_zero (target : W64) : (s.sendSlew target 0).hsState = s.hsState := by
  rw [State.hsState, State.hsState, sendSlew_zero_esc]

theorem endOf_hsState (s t : State) : (endOf s t).hsState = t.hsState := by rw [State.hsState, State.hsState, endOf_esc]

/-- What the rack hears of a message without a change, after updates that leave the ports and SLEW_SUM alone. -/
theorem toldRack_of_kept {u : State} (hp : u.fab.ports = s.fab.ports) (hsum : u.esc.hsSlew = s.esc.hsSlew) :
    ToldRack s (endOf s (u.sendSlew (s.esc.beat + 4) 0)) [s.esc.beat + 4, 0,
      BitVec.ofNat 64 (endOf s (u.sendSlew (s.esc.beat + 4) 0)).hsState, BitVec.ofInt 64 s.slewSum] := by
  have hstate : (endOf s (u.sendSlew (s.esc.beat + 4) 0)).hsState = u.hsState := by rw [endOf_hsState, hsState_sendSlew_zero]
  have hslew : u.slewSum = s.slewSum := by rw [State.slewSum, State.slewSum, hsum]
  have hport : ∀ p, u.port p = s.port p := fun p => by rw [State.port, State.port, hp]
  intro p
  have h := sendSlew_zero_told (s := u) (s.esc.beat + 4) p
  rw [hport, State.slewFrame, hslew] at h
  rw [hstate, endOf_port]
  exact h

theorem hsState_replied (s : State) (th : Int) : (s.replied th).hsState = s.hsState := by
  rw [State.hsState, State.hsState, replied_esc]
  exact fld_setFld_ne _ _ _ _ _ _ (by omega) (by omega)

theorem resumed_of_locked (h : s.hsState = 2) : s.resumed = s := by rw [State.resumed, if_neg (by omega)]

theorem hsMove_of_locked_near (h : s.hsState = 2) (hn : th.natAbs ≤ 128) : s.hsMove th = s := by
  simp only [State.hsMove, h, hn, decide_true, if_true]

theorem hsMove_of_locked_far (h : s.hsState = 2) (hn : 128 < th.natAbs) :
    s.hsMove th = (s.setHs 3).updEsc fun e => { e with inTol := 0 } := by
  simp only [State.hsMove, h, Nat.not_le.mpr hn, decide_false, Bool.false_eq_true, if_false]

theorem faultNs_ge (s : State) : 41 ≤ s.faultNs := by
  rw [State.faultNs]
  split <;> omega

theorem exchanged_of_locked_near (h : s.hsState = 2) (hn : th.natAbs ≤ 128) : s.exchanged th = s.replied th := by
  have hst : (s.replied th).hsState = 2 := (hsState_replied s th).trans h
  have hlow : ¬ (th.natAbs * 5 > s.faultNs * 16) := by
    have := faultNs_ge s
    omega
  simp only [State.exchanged, resumed_of_locked hst, hsMove_of_locked_near hst hn, hlow, and_false, if_false]

theorem exchanged_of_locked_far (h : s.hsState = 2) (hn : 128 < th.natAbs) (hf : s.faultNs * 16 < th.natAbs * 5) :
    s.exchanged th = (((s.replied th).setHs 3).updEsc fun e => { e with inTol := 0 }).fault .hairspring .escapement 0 := by
  have hst : (s.replied th).hsState = 2 := (hsState_replied s th).trans h
  have hone : (s.replied th).hsState ≠ 1 := by omega
  rw [State.exchanged, resumed_of_locked hst, hsMove_of_locked_far hst hn]
  exact if_pos ⟨hone, hf⟩

theorem does_hsExchangeReply_near (hc : Clean s)
    (he : exec (.hsExchangeReply t2 t3 c) s = done s ((s.exchanged th).sendSlew (s.esc.beat + 4) 0)) (h : s.hsState = 2)
    (hn : th.natAbs ≤ 128) : Does (.hsExchangeReply t2 t3 c) s [.esc, .ports] fun t =>
      t.esc.freq = s.esc.freq + th / 8 ∧ t.esc.owe = s.esc.owe + (th / 2 + t.esc.freq) ∧ t.hsState = 2 ∧
      t.esc.slews = s.esc.slews ∧ ToldRack s t [s.esc.beat + 4, 0, BitVec.ofNat 64 t.hsState, BitVec.ofInt 64 s.slewSum] := by
  rw [exchanged_of_locked_near h hn] at he
  refine Does.of_frame he (((Frame.refl hc).updEsc (by simp) _).sendSlew_zero (by simp) _) ?_
  rw [endOf_hsState, hsState_sendSlew_zero, hsState_replied, endOf_esc, sendSlew_zero_esc, replied_esc]
  exact ⟨rfl, rfl, h, rfl, by
    have htold := toldRack_of_kept (s := s) (u := s.replied th) (by rw [replied_fab]) (by rw [replied_esc])
    rwa [endOf_hsState, hsState_sendSlew_zero, hsState_replied] at htold⟩

theorem does_hsExchangeReply_far (hc : Clean s)
    (he : exec (.hsExchangeReply t2 t3 c) s = done s ((s.exchanged th).sendSlew (s.esc.beat + 4) 0)) (h : s.hsState = 2)
    (hn : 128 < th.natAbs) (hf : s.faultNs * 16 < th.natAbs * 5) : Does (.hsExchangeReply t2 t3 c) s [.esc, .ports, .ras] fun t =>
      t.esc.freq = s.esc.freq + th / 8 ∧ t.esc.owe = s.esc.owe + (th / 2 + t.esc.freq) ∧ t.hsState = 3 ∧
      t.ras = { s.ras with tree := s.ras.tree ++ [{ cause := .hairspring, unit := .escapement, index := 0 }] } ∧
      ToldRack s t [s.esc.beat + 4, 0, BitVec.ofNat 64 t.hsState, BitVec.ofInt 64 s.slewSum] := by
  have hfr := (exchanged_frame hc th).sendSlew_zero (by simp) (s.esc.beat + 4)
  rw [exchanged_of_locked_far h hn hf] at he hfr
  refine Does.of_frame he hfr ⟨?_, ?_, ?_, ?_, toldRack_of_kept ?_ ?_⟩
  · rw [endOf_esc, sendSlew_zero_esc, State.fault_esc, State.esc_updEsc, State.setHs_eq, State.esc_updEsc, replied_esc]
  · rw [endOf_esc, sendSlew_zero_esc, State.fault_esc, State.esc_updEsc, State.setHs_eq, State.esc_updEsc, replied_esc]
  · rw [endOf_hsState, hsState_sendSlew_zero, State.hsState, State.fault_esc, State.esc_updEsc, State.setHs_eq, State.esc_updEsc]
    exact fld_setFld _ _ _ _ (by omega)
  · rw [endOf_ras, sendSlew_zero_ras, ras_fault, State.updEsc_ras, State.setHs_eq, State.updEsc_ras, replied_ras]
  · rw [State.fault_fab, State.updEsc_fab, State.setHs_eq, State.updEsc_fab, replied_fab]
  · rw [State.fault_esc, State.esc_updEsc, State.setHs_eq, State.esc_updEsc, replied_esc]

/-! ## Intervals without a reply, the root's loss, and HOLDOVER (R273, R275) -/

/-- An interval without a reply, but for its message: owe takes freq, and the second in a row enters HOLDOVER. -/
def State.unanswered (s : State) : State :=
  let u := s.updEsc fun e => { e with owe := e.owe + e.freq, t1 := none, noReply := e.noReply + 1 }
  if s.esc.noReply + 1 ≥ 2 ∧ s.hsState ≠ 4 then (u.updEsc fun e => { e with prevState := s.hsState }).setHs 4 else u

theorem exec_hsIntervalNoReply_of_root (hr : s.hsRole = 2) (hst : s.hsState ≠ 5) :
    exec .hsIntervalNoReply s = done s (s.unanswered.sendSlew (s.esc.beat + 4) 0) := by
  rw [exec_hsIntervalNoReply, execHsIntervalNoReply, if_neg (not_not.mpr hr), if_neg hst]
  rfl

theorem exec_hsIntervalNoReply_of_noRoot (hr : s.hsRole = 2) (hst : s.hsState = 5) :
    exec .hsIntervalNoReply s = done s (s.sendSlew (s.esc.beat + 4) 0) := by
  rw [exec_hsIntervalNoReply, execHsIntervalNoReply, if_neg (not_not.mpr hr), if_pos hst]
  rfl

/-- An interval without a reply changes the Escapement alone. -/
theorem unanswered_eq (s : State) : ∃ w : W64, ∃ p : Nat, s.unanswered = (s.updEsc fun e => { e with
    owe := e.owe + e.freq, t1 := none, noReply := e.noReply + 1, prevState := p, hsStatus := w }) ∧
    fld w 32 3 = if 1 ≤ s.esc.noReply then 4 else s.hsState := by
  rw [State.unanswered]
  split
  next h =>
    refine ⟨setFld s.esc.hsStatus 32 3 4, s.hsState, ?_, ?_⟩
    · rw [State.setHs_eq, updEsc_updEsc, updEsc_updEsc]
      exact congrArg (fun x => { s with esc := x }) rfl
    rw [if_pos (by omega)]
    exact fld_setFld _ _ _ _ (by omega)
  next h =>
    refine ⟨s.esc.hsStatus, s.esc.prevState, rfl, ?_⟩
    split
    · show s.hsState = 4
      omega
    · rfl

theorem does_hsIntervalNoReply (hc : Clean s) (hr : s.hsRole = 2) (hst : s.hsState ≠ 5) :
    Does .hsIntervalNoReply s [.esc, .ports] fun t =>
      t.esc.owe = s.esc.owe + s.esc.freq ∧ t.esc.freq = s.esc.freq ∧ t.esc.noReply = s.esc.noReply + 1 ∧
      ToldRack s t [s.esc.beat + 4, 0, BitVec.ofNat 64 t.hsState, BitVec.ofInt 64 s.slewSum] ∧
      (1 ≤ s.esc.noReply → t.hsState = 4) ∧ (s.esc.noReply = 0 → t.hsState = s.hsState) := by
  have he := exec_hsIntervalNoReply_of_root hr hst
  obtain ⟨w, p, hu, hw⟩ := unanswered_eq s
  rw [hu] at he
  refine Does.of_frame he (((Frame.refl hc).updEsc (by simp) _).sendSlew_zero (by simp) _) ⟨?_, ?_, ?_, toldRack_of_kept ?_ ?_, ?_, ?_⟩
  · rw [endOf_esc, sendSlew_zero_esc, State.esc_updEsc]
  · rw [endOf_esc, sendSlew_zero_esc, State.esc_updEsc]
  · rw [endOf_esc, sendSlew_zero_esc, State.esc_updEsc]
  · rw [State.updEsc_fab]
  · rw [State.esc_updEsc]
  · intro h
    rw [endOf_hsState, hsState_sendSlew_zero, State.hsState, State.esc_updEsc, hw, if_pos h]
  · intro h
    rw [endOf_hsState, hsState_sendSlew_zero, State.hsState, State.esc_updEsc, hw, if_neg (by omega)]

theorem does_hsIntervalNoReply_noRoot (hc : Clean s) (hr : s.hsRole = 2) (hst : s.hsState = 5) :
    Does .hsIntervalNoReply s [.ports] fun t =>
      ToldRack s t [s.esc.beat + 4, 0, BitVec.ofNat 64 t.hsState, BitVec.ofInt 64 s.slewSum] :=
  Does.of_frame (exec_hsIntervalNoReply_of_noRoot hr hst) ((Frame.refl hc).sendSlew_zero (by simp) _) (toldRack_of_kept rfl rfl)

theorem does_hsRoot_lost (hc : Clean s) (hr : s.hsRole = 2) :
    Does (.controlBlockReceive s.hsPort (.hsRoot false) true) s [.esc] fun t =>
      t.hsState = 5 ∧ t.esc.t1 = none ∧ t.esc.owe = s.esc.owe ∧ t.esc.hsCfg = s.esc.hsCfg := by
  have he : exec (.controlBlockReceive s.hsPort (.hsRoot false) true) s =
      done s ((s.setHs 5).updEsc fun e => { e with t1 := none }) := by
    rw [exec_hsRoot, if_neg (by simp), State.rootLost, if_pos rfl, State.noRoot, if_pos hr]
  refine Does.of_frame he (((Frame.refl hc).setHs (by simp) 5).updEsc (by simp) _) ?_
  rw [endOf_hsState, State.hsState, endOf_esc, State.esc_updEsc, State.setHs_eq, State.esc_updEsc]
  exact ⟨fld_setFld _ _ _ _ (by omega), rfl, rfl, rfl⟩

theorem does_hsHoldoverTimeout (hc : Clean s) (hr : s.hsRole = 2) (hst : s.hsState = 4) :
    Does .hsHoldoverTimeout s [.ras] fun t =>
      t.ras = { s.ras with tree := s.ras.tree ++ [{ cause := .hairspring, unit := .escapement, index := 0 }] } :=
  Does.of_frame (by rw [exec_hsHoldoverTimeout, execHsHoldoverTimeout, if_pos ⟨hr, hst⟩]) ((Frame.refl hc).fault (by simp) ..) rfl

end

/-- Settles O16: each clause is the lemma of its command's case. -/
theorem hairspringAgent : Obligations.HairspringAgent := by
  unfold Obligations.HairspringAgent
  intro s t1 t2 t3 port ago c c2 hc time fault told
  refine ⟨does_hsExchangeRequest hc, fun hr hlo hhi hago hin => ?root, fun hr h1 hin => ?reply, does_hsIntervalNoReply hc,
    does_hsIntervalNoReply_noRoot hc, does_hsRoot_lost hc, does_hsHoldoverTimeout hc⟩
  case root =>
    have h := does_hsRootReply (c := c) (c2 := c2) hc hr hlo hhi hago hin
    rw [hallTime_sub hago] at h
    exact h
  case reply =>
    have he := exec_hsExchangeReply_of_sent (t2 := t2) (t3 := t3) hr h1 hin
    exact ⟨does_hsExchangeReply hc he, does_hsExchangeReply_near hc he, does_hsExchangeReply_far hc he⟩

/-! ## A follower (R274, R276) -/

section
variable {n st : Nat} {target : W64} {d sum : Int}

theorem sext_twos {x : Int} (hlo : -(2 ^ 31) ≤ x) (hhi : x < 2 ^ 31) : sext 32 (twos 32 x) = x := by
  simp only [sext, twos]
  norm_num
  split <;> omega

/-- A slew or step within its width enters SLEW_SUM (R274). -/
theorem slewSum_applySlew (hlo : -(2 ^ 31) ≤ s.slewSum + d) (hhi : s.slewSum + d < 2 ^ 31) :
    (s.applySlew target d).slewSum = s.slewSum + d := by
  rw [State.slewSum, applySlew_esc]
  by_cases hd : d = 0
  · rw [hd, add_zero]
    simp only [if_true]
    rfl
  · have htwos : twos 32 (s.slewSum + d) < 2 ^ 32 := by
      rw [twos]
      omega
    simp only [hd, if_false]
    rw [addFld, fld_setFld_ne _ _ _ _ _ _ (by omega) (by omega), fld_setFld _ _ _ _ (by omega), Nat.mod_eq_of_lt htwos,
      sext_twos hlo hhi]

/-- A slew message as a follower takes it, before it compares the sums. -/
def State.followed (s : State) (n : Nat) (target : W64) (d : Int) (st : Nat) : State :=
  ((((s.applySlew target d).hsFrame n [BitVec.ofNat 64 (if s.outside then 1 else 0)])).setHs (st % 8)).updEsc fun e =>
    { e with slewHeard := true, missed := 0 }

theorem exec_slewMessage_of_follower (hr : s.hsRole = 3) : exec (.slewMessage n target d ⟨st, sum⟩) s =
    done s (if (s.followed n target d st).slewSum = sum then s.followed n target d st else (s.followed n target d st).beatSlip) := by
  rw [exec_slewMessage, execSlewMessage, if_neg (not_not.mpr hr)]
  rfl

theorem followed_esc : (s.followed n target d st).esc = { (s.applySlew target d).esc with
    hsStatus := setFld s.esc.hsStatus 32 3 (st % 8), slewHeard := true, missed := 0 } := by
  rw [State.followed, State.esc_updEsc, State.setHs_eq, State.esc_updEsc, State.hsFrame_esc, applySlew_esc]

theorem followed_ras : (s.followed n target d st).ras = s.ras := by
  rw [State.followed, State.updEsc_ras, State.setHs_eq, State.updEsc_ras, State.hsFrame_ras, State.applySlew_ras]

theorem followed_outside : (s.followed n target d st).outside = s.outside := by
  rw [State.followed, outside_updEsc, State.setHs_eq, outside_updEsc, outside_of_slice (State.hsFrame_slice ..),
    outside_of_slice (State.applySlew_slice ..)]

theorem followed_port (p : Nat) : (s.followed n target d st).port p =
    if p = n then (s.port p).tell [BitVec.ofNat 64 (if s.outside then 1 else 0)] else s.port p := by
  rw [State.followed, State.updEsc_port_at, State.setHs_eq, State.updEsc_port_at, port_hsFrame, State.applySlew_port_at]

theorem followed_slewSum (hlo : -(2 ^ 31) ≤ s.slewSum + d) (hhi : s.slewSum + d < 2 ^ 31) :
    (s.followed n target d st).slewSum = s.slewSum + d := by
  have h := slewSum_applySlew (target := target) hlo hhi
  rw [State.slewSum] at h
  rw [State.slewSum, followed_esc]
  exact h

theorem Frame.followed (h : Frame l s t) (he : .esc ∈ l) (hp : .ports ∈ l) : Frame l s (t.followed n target d st) := by
  rw [State.followed]
  exact (((h.applySlew he target d).hsFrame hp n _).setHs he _).updEsc he _

theorem Frame.beatSlip (h : Frame l s t) (he : .esc ∈ l) (hr : .ras ∈ l) : Frame l s t.beatSlip := by
  rw [State.beatSlip]
  split
  · exact (h.setHs he 6).fault hr ..
  · exact h.setHs he 6

theorem beatSlip_esc (s : State) : s.beatSlip.esc = { s.esc with hsStatus := setFld s.esc.hsStatus 32 3 6 } := by
  rw [State.beatSlip]
  split
  · rw [State.fault_esc, State.setHs_eq, State.esc_updEsc]
  · rw [State.setHs_eq, State.esc_updEsc]

theorem beatSlip_ras (s : State) : s.beatSlip.ras = if s.outside then
    { s.ras with tree := s.ras.tree ++ [{ cause := .beatSlip, unit := .escapement, index := 0 }] } else s.ras := by
  have ho : (s.setHs 6).outside = s.outside := by rw [State.setHs_eq, outside_updEsc]
  rw [State.beatSlip, ho]
  split
  · rw [ras_fault, State.setHs_eq, State.updEsc_ras]
  · rw [State.setHs_eq, State.updEsc_ras]

theorem beatSlip_port_at (s : State) (p : Nat) : s.beatSlip.port p = s.port p := by
  rw [State.beatSlip]
  split
  · rw [State.fault_port_at, State.setHs_eq, State.updEsc_port_at]
  · rw [State.setHs_eq, State.updEsc_port_at]

/-- What a follower makes of a slew message: UNREACHED where the sums differ. -/
def State.compared (s : State) (n : Nat) (target : W64) (d : Int) (st : Nat) (sum : Int) : State :=
  if sum = s.slewSum + d then s.followed n target d st else (s.followed n target d st).beatSlip

/-- The state of the agent in ESC_HS_STATUS and SLEW_SUM, beside the slew itself. -/
theorem compared_esc (hst : st < 8) (hlo : -(2 ^ 31) ≤ s.slewSum + d) (hhi : s.slewSum + d < 2 ^ 31) :
    ∃ w v : W64, (s.compared n target d st sum).esc = { s.esc with
        slews := if d = 0 then s.esc.slews else s.esc.slews ++ [(target, d)]
        hsSlew := v, hsStatus := w, slewHeard := true, missed := 0 } ∧
      fld w 32 3 = (if sum = s.slewSum + d then st else 6) ∧ sext 32 (fld v 0 32) = s.slewSum + d := by
  have h := slewSum_applySlew (target := target) hlo hhi
  rw [State.slewSum, applySlew_esc] at h
  rw [State.compared]
  split
  · rw [followed_esc, applySlew_esc]
    exact ⟨_, _, rfl, (fld_setFld _ _ _ _ (by omega)).trans (by omega), h⟩
  · rw [beatSlip_esc, followed_esc, applySlew_esc]
    exact ⟨_, _, rfl, fld_setFld _ _ _ _ (by omega), h⟩

theorem compared_ras : (s.compared n target d st sum).ras = if sum = s.slewSum + d then s.ras else if s.outside then
    { s.ras with tree := s.ras.tree ++ [{ cause := .beatSlip, unit := .escapement, index := 0 }] } else s.ras := by
  rw [State.compared]
  split
  · rw [followed_ras]
  · rw [beatSlip_ras, followed_outside, followed_ras]

theorem compared_port (p : Nat) : (s.compared n target d st sum).port p =
    if p = n then (s.port p).tell [if s.outside then 1 else 0] else s.port p := by
  have hbit : BitVec.ofNat 64 (if s.outside then 1 else 0) = if s.outside then 1 else 0 := by split <;> rfl
  rw [State.compared]
  split
  · rw [followed_port, hbit]
  · rw [beatSlip_port_at, followed_port, hbit]

theorem Frame.compared (h : Frame l s t) (he : .esc ∈ l) (hp : .ports ∈ l) (hr : .ras ∈ l) : Frame l s (t.compared n target d st sum) := by
  rw [State.compared]
  split
  · exact h.followed he hp
  · exact (h.followed he hp).beatSlip he hr

theorem does_slewMessage (hc : Clean s) (hr : s.hsRole = 3) (hst : st < 8) (hlo : -(2 ^ 31) ≤ s.slewSum + d)
    (hhi : s.slewSum + d < 2 ^ 31) : Does (.slewMessage n target d ⟨st, sum⟩) s [.esc, .ports, .ras] fun t =>
      t.esc.slews = (if d = 0 then s.esc.slews else s.esc.slews ++ [(target, d)]) ∧ t.slewSum = s.slewSum + d ∧
      t.hsState = (if sum = s.slewSum + d then st else 6) ∧ t.esc.slewHeard = true ∧ t.esc.missed = 0 ∧ t.esc.beat = s.esc.beat ∧
      t.esc.hsCfg = s.esc.hsCfg ∧ (if sum = s.slewSum + d then t.ras = s.ras else t.ras = if s.outside then
        { s.ras with tree := s.ras.tree ++ [{ cause := .beatSlip, unit := .escapement, index := 0 }] } else s.ras) ∧
      ∀ p, t.port p = if p = n then { s.port p with ctl := (s.port p).ctl ++ [.hairspring [if s.outside then 1 else 0]] }
        else s.port p := by
  have he : exec (.slewMessage n target d ⟨st, sum⟩) s = done s (s.compared n target d st sum) := by
    rw [exec_slewMessage_of_follower hr, followed_slewSum hlo hhi, State.compared]
    simp only [eq_comm]
  obtain ⟨w, v, hesc, hw, hv⟩ := compared_esc (s := s) (n := n) (target := target) (sum := sum) hst hlo hhi
  refine Does.of_frame he ((Frame.refl hc).compared (by simp) (by simp) (by simp)) ?_
  rw [endOf_hsState, State.hsState, State.slewSum, endOf_esc, endOf_ras, hesc, compared_ras]
  refine ⟨rfl, hv, hw, rfl, rfl, rfl, rfl, ?_, compared_port⟩
  split <;> rfl

theorem does_slewMessageMissing (hc : Clean s) (hr : s.hsRole = 3) : Does .slewMessageMissing s [.esc, .ras] fun t =>
    t.hsState = 6 ∧ t.esc.slewHeard = false ∧ t.esc.beat = s.esc.beat ∧ t.ras = if s.outside then
      { s.ras with tree := s.ras.tree ++ [{ cause := .beatSlip, unit := .escapement, index := 0 }] } else s.ras := by
  have he : exec .slewMessageMissing s = done s (s.updEsc fun e => { e with slewHeard := false, missed := 2 }).beatSlip := by
    rw [exec_slewMessageMissing, execSlewMessageMissing, if_pos hr]
  refine Does.of_frame he (((Frame.refl hc).updEsc (by simp) _).beatSlip (by simp) (by simp)) ?_
  rw [endOf_hsState, State.hsState, endOf_esc, endOf_ras, beatSlip_esc, beatSlip_ras, outside_updEsc, State.updEsc_ras, State.esc_updEsc]
  exact ⟨fld_setFld _ _ _ _ (by omega), rfl, rfl, rfl⟩

end

/-! ## Acknowledgements (R275, R276) -/

section
variable {k : Nat} {busy : Bool} {e : Int}

/-- What a rack slot has reported is kept. -/
def State.reported (s : State) (k : Nat) (busy : Bool) : State := s.updEsc fun e => { e with busy := aset false e.busy k busy }

theorem hsState_reported : (s.reported k busy).hsState = s.hsState := by
  rw [State.hsState, State.hsState, State.reported, State.esc_updEsc]

theorem exec_slewAcknowledgement_of_none (hr : s.hsRole = 2) (ha : s.esc.acquireStep = none) :
    exec (.slewAcknowledgement k busy) s = done s (s.reported k busy) := by
  rw [exec_slewAcknowledgement, execSlewAcknowledgement, if_neg (not_not.mpr hr)]
  simp only [State.esc_updEsc, ha]
  rfl

theorem exec_slewAcknowledgement_of_some (hr : s.hsRole = 2) (ha : s.esc.acquireStep = some e) :
    exec (.slewAcknowledgement k busy) s =
      if (s.reported k busy).rackBusy ∨ s.hsState ≠ 1 then done s (s.reported k busy) else done s ((s.reported k busy).sendStep e) := by
  rw [exec_slewAcknowledgement, execSlewAcknowledgement, if_neg (not_not.mpr hr), ← hsState_reported (k := k) (busy := busy)]
  simp only [State.esc_updEsc, ha]
  rfl

theorem any_snd_aset_true (m : Assoc Bool) (k : Nat) : (aset false m k true).any (fun p => p.2) = true := by
  have h : aget false (aset false m k true) k = true := by simp
  by_contra hn
  have hall : ∀ p ∈ aset false m k true, p.2 = false := by simpa using hn
  exact absurd h (by rw [aget_of_forall (p := (· = false)) rfl hall k]; simp)

theorem rackBusy_reported (h : s.outside = true ∨ busy = true) : (s.reported k busy).rackBusy = true := by
  rcases h with ho | rfl
  · rw [State.rackBusy, State.reported, outside_updEsc, ho, Bool.true_or]
  · rw [State.rackBusy, State.reported, State.esc_updEsc, any_snd_aset_true, Bool.or_true]

theorem does_slewAcknowledgement_held (hc : Clean s) (hr : s.hsRole = 2)
    (h : s.esc.acquireStep = none ∨ s.outside = true ∨ busy = true ∨ s.hsState ≠ 1) :
    Does (.slewAcknowledgement k busy) s [.esc] fun t =>
      (∀ j, aget false t.esc.busy j = if j = k then busy else aget false s.esc.busy j) ∧ t.esc = { s.esc with busy := t.esc.busy } := by
  have he : exec (.slewAcknowledgement k busy) s = done s (s.reported k busy) := by
    cases ha : s.esc.acquireStep with
    | none => exact exec_slewAcknowledgement_of_none hr ha
    | some e =>
      rw [exec_slewAcknowledgement_of_some hr ha, if_pos]
      rcases h with h | h | h | h
      · simp [ha] at h
      · exact .inl (rackBusy_reported (.inl h))
      · exact .inl (rackBusy_reported (.inr h))
      · exact .inr h
  exact Does.of_frame he ((Frame.refl hc).updEsc (by simp) _) ⟨fun j => aget_aset _ _ _ _ _, rfl⟩

theorem does_slewAcknowledgement_free (hc : Clean s) (hr : s.hsRole = 2) (ha : s.esc.acquireStep = some e) (hne : e ≠ 0)
    (ho : s.outside = false) (hst : s.hsState = 1) (hb : s.esc.busy = [] ∨ s.esc.busy = [(k, true)]) :
    Does (.slewAcknowledgement k false) s [.esc, .ports] fun t =>
      t.esc.slews = s.esc.slews ++ [(s.esc.beat + 4, e)] ∧ t.esc.acquireStep = none ∧ t.esc.stepped = true ∧
      t.esc.freq = 0 ∧ t.esc.owe = 0 ∧ t.esc.busy = [] ∧ t.hsState = 1 := by
  have hnil : (s.reported k false).esc.busy = [] := by
    rcases hb with hb | hb <;> simp [State.reported, State.esc_updEsc, hb, aset, adel]
  have hfree : ¬ ((s.reported k false).rackBusy = true ∨ s.hsState ≠ 1) := by
    rw [State.rackBusy, hnil, State.reported, outside_updEsc, ho]
    simp [hst]
  have he := exec_slewAcknowledgement_of_some (k := k) (busy := false) hr ha
  rw [if_neg hfree] at he
  refine Does.of_frame he (((Frame.refl hc).updEsc (by simp) _).sendStep (by simp) (by simp) e) ?_
  rw [endOf_hsState, State.hsState, endOf_esc, sendStep_esc, applySlew_esc, if_neg hne, if_neg hne]
  exact ⟨rfl, rfl, rfl, rfl, rfl, hnil, (fld_setBit_ne _ _ _ _ _ (by omega) (by omega)).trans hst⟩

end

/-- Settles O17: by the sums that agree or differ, and by the step that the agent has deferred or not. -/
theorem hairspringFollower : Obligations.HairspringFollower := by
  unfold Obligations.HairspringFollower
  intro s port target d sum st slot busy hc slip
  exact ⟨does_slewMessage hc, does_slewMessageMissing hc, does_slewAcknowledgement_held hc, fun e => does_slewAcknowledgement_free hc⟩

end Sys2Proof.Machine
end

section
/-! Periods and the reference clock (R283 to R290, R315): what a CONTROL packet to one module or to every member does to the switch's
queue, what the throttle levels that take effect may change; and obligations O18 and O19 from these. -/

namespace Sys2Proof.Machine

variable {s t : State} {l : List Piece}

/-! ## The bytes of a payload -/

theorem leBytes_ofLe_append (bs : List Byte) (n : Nat) : (leBytes (bs.length + n) (ofLe bs)).take bs.length = bs := by
  induction bs with
  | nil => rfl
  | cons b bs ih =>
    have hlow : BitVec.ofNat 8 (b.toNat + 256 * ofLe bs) = b := by
      apply BitVec.eq_of_toNat_eq
      rw [BitVec.toNat_ofNat]
      omega
    have hrest : (b.toNat + 256 * ofLe bs) >>> 8 = ofLe bs := by
      rw [Nat.shiftRight_eq_div_pow]
      omega
    rw [List.length_cons, show bs.length + 1 + n = (bs.length + n) + 1 by omega, ofLe, leBytes, List.take_succ_cons, hlow, hrest, ih]

theorem ofLe_lt (bs : List Byte) : ofLe bs < 256 ^ bs.length := by
  induction bs with
  | nil => simp [ofLe]
  | cons b bs ih =>
    rw [ofLe, List.length_cons, pow_succ]
    omega

theorem flitBytes_bytesFlit {bs : List Byte} (h : bs.length ≤ 16) : (flitBytes (bytesFlit bs)).take bs.length = bs := by
  have hlt : ofLe bs < 2 ^ 128 := calc
    ofLe bs < 256 ^ bs.length := ofLe_lt bs
    _ ≤ 256 ^ 16 := Nat.pow_le_pow_right (by omega) h
    _ = 2 ^ 128 := by norm_num
  obtain ⟨n, hn⟩ := Nat.exists_eq_add_of_le h
  rw [flitBytes, bytesFlit, BitVec.toNat_ofNat, Nat.mod_eq_of_lt hlt, hn]
  exact leBytes_ofLe_append bs n

theorem flitBytes_length (f : Flit) : (flitBytes f).length = 16 := leBytes_length 16 _

theorem payloadBytes_chunks (k : Nat) {bs : List Byte} (h : bs.length < 16 * k) :
    (payloadBytes ((chunks 16 k bs).map bytesFlit)).take bs.length = bs := by
  induction k generalizing bs with
  | zero => simp at h
  | succ k ih =>
    cases bs with
    | nil => simp
    | cons b r =>
      rw [chunks, List.map_cons, payloadBytes, List.flatMap_cons, List.take_append, flitBytes_length]
      swap
      · simp
      by_cases hle : (b :: r).length ≤ 16
      · rw [List.take_of_length_le hle, flitBytes_bytesFlit hle, Nat.sub_eq_zero_of_le hle, List.take_zero, List.append_nil]
      · have hfull : ((b :: r).take 16).length = 16 := by rw [List.length_take]; omega
        have hfirst : flitBytes (bytesFlit ((b :: r).take 16)) = (b :: r).take 16 := by
          have := flitBytes_bytesFlit (bs := (b :: r).take 16) (by omega)
          rwa [hfull, List.take_of_length_le (flitBytes_length _).le] at this
        have hrest := ih (bs := (b :: r).drop 16) (by rw [List.length_drop]; omega)
        rw [List.length_drop, payloadBytes] at hrest
        rw [hfirst, hrest, List.take_of_length_le (by omega), List.take_append_drop]

/-- Bytes that a payload carries are its first (R394). -/
theorem payloadBytes_toFlits (bs : List Byte) : (payloadBytes (toFlits bs)).take bs.length = bs :=
  payloadBytes_chunks _ (by omega)

theorem payloadBytes_toFlits_take {bs : List Byte} {n : Nat} (h : n ≤ bs.length) :
    (payloadBytes (toFlits bs)).take n = bs.take n := by
  conv_rhs => rw [← payloadBytes_toFlits bs, List.take_take, Nat.min_eq_left h]

/-! ## CONTROL packets (R394) -/

/-- The packet of `sendControl`. -/
def State.controlPkt (s : State) (dest subtype : Nat) (bytes : List Byte) : FabPkt :=
  { s.mkFab .control 0 (mkGa 0 dest 0) (toFlits bytes) with aop := subtype, srcEngine := true, srcTile := 0x1000 }

theorem sendControl_eq (s : State) (dest subtype : Nat) (bytes : List Byte) :
    s.sendControl dest subtype bytes = s.toSwitch (s.controlPkt dest subtype bytes) := rfl

theorem controlPkt_dest {dest : Nat} (h : dest < 16384) (subtype : Nat) (bytes : List Byte) :
    (s.controlPkt dest subtype bytes).dest = dest := gaModule_mkGa dest h

theorem controlPkt_sendControl (d k dest subtype : Nat) (bs bytes : List Byte) :
    (s.sendControl d k bs).controlPkt dest subtype bytes = s.controlPkt dest subtype bytes := rfl

theorem Frame.sendControl (h : Frame l s t) (hl : .fab ∈ l) (dest subtype : Nat) (bytes : List Byte) :
    Frame l s (t.sendControl dest subtype bytes) := h.toSwitch hl _

theorem Frame.consumeControl (h : Frame l s t) (hl : .fab ∈ l) (src subtype : Nat) : Frame l s (t.consumeControl src subtype) :=
  h.setFab hl rfl

theorem Frame.controlAll (h : Frame l s t) (hl : .fab ∈ l) (subtype : Nat) (bytes : List Byte) :
    Frame l s (t.controlAll subtype bytes) := h.foldl (fun _ _ hf => hf.sendControl hl ..) _

theorem foldl_sendControl_switchQ (subtype : Nat) (bytes : List Byte) (ms : List (Nat × Nat × Nat)) :
    (ms.foldl (fun s m => s.sendControl m.1 subtype bytes) s).fab.switchQ =
      s.fab.switchQ ++ ms.map fun m => (63, s.controlPkt m.1 subtype bytes) := by
  induction ms generalizing s with
  | nil => exact (List.append_nil _).symm
  | cons m ms ih =>
    rw [List.foldl_cons, ih, sendControl_eq]
    exact List.append_assoc ..

theorem controlAll_switchQ (s : State) (subtype : Nat) (bytes : List Byte) : (s.controlAll subtype bytes).fab.switchQ =
    s.fab.switchQ ++ s.slice.table.map fun m => (63, s.controlPkt m.1 subtype bytes) := foldl_sendControl_switchQ ..

theorem controlAll_esc (s : State) (subtype : Nat) (bytes : List Byte) : (s.controlAll subtype bytes).esc = s.esc := by
  rw [State.controlAll]
  exact foldl_esc (fun s _ => by rw [State.sendControl_esc]) _

/-! ## The marker of a member, and the announcement (R283 to R285) -/

section
variable {src r : Nat} {k1 e : W64} {lambda late : Nat}

theorem exec_periodDoneSend : exec .periodDoneSend s = execPeriodDoneSend s := rfl
theorem exec_periodDone (src : Nat) (k : W64) : exec (.periodDone src k) s = execPeriodDone src k s := rfl
theorem exec_periodAnnounce : exec (.periodAnnounce k1 e lambda late) s = execPeriodAnnounce k1 e lambda late s := rfl

theorem masterId_lt (s : State) : s.masterId < 16384 := Nat.mod_lt _ (by norm_num)

theorem does_periodDoneSend (hc : Clean s) (hp : s.periodP ≠ 0) (hst : s.esc.started = true) (hrun : s.sliceSt = 2)
    (hsent : s.esc.doneSent = false) (hbound : s.esc.bound = []) (howed : s.recordOwed = false) :
    Does .periodDoneSend s [.esc, .fab] fun t => t.esc = { s.esc with doneSent := true } ∧
      ∃ p : FabPkt, t.fab = { s.fab with switchQ := s.fab.switchQ ++ [(63, p)] } ∧ p.op = .control ∧ p.aop = 10 ∧
        p.dest = s.masterId ∧ (payloadBytes p.payload).take 8 = leBytes 8 s.esc.now.toNat := by
  refine Does.of_frame (exec_periodDoneSend.trans (if_pos ?_))
    (((Frame.refl hc).updEsc (by simp) _).sendControl (by simp) ..) ⟨rfl, s.controlPkt s.masterId 10 (leBytes 8 s.esc.now.toNat), rfl,
      rfl, rfl, controlPkt_dest (masterId_lt s) .., ?_⟩
  · rw [hsent, hbound, howed]
    exact ⟨hp, hst, hrun, rfl, rfl, rfl⟩
  · have h := payloadBytes_toFlits (leBytes 8 s.esc.now.toNat)
    rwa [leBytes_length] at h

theorem does_periodDoneSend_waits (hc : Clean s) (h : s.esc.bound ≠ [] ∨ s.recordOwed = true) :
    Does .periodDoneSend s [] fun _ => True := by
  refine Does.of_idle hc (exec_periodDoneSend.trans (if_neg ?_))
  rintro ⟨-, -, -, -, hb, ho⟩
  rcases h with h | h
  · exact h (List.isEmpty_iff.mp hb)
  · simp [h] at ho

/-- The marker of a member, taken from those delivered and held. -/
def State.markerHeld (s : State) (src r : Nat) : State :=
  (s.consumeControl src 10).updEsc fun e => { e with markers := r :: s.esc.markers }

/-- The bytes of the announcement: k + 1, E_(k + 1), and the length and lateness of the period. -/
def State.announcement (s : State) : List Byte :=
  let e := max (s.esc.start.toNat + s.lambda) (s.esc.beat.toNat + s.periodLead)
  let p := s.periodLength (s.esc.now.toNat + 1) e
  leBytes 8 (s.esc.now.toNat + 1) ++ leBytes 8 e ++ leBytes 2 p.1 ++ leBytes 4 p.2

theorem announcement_take (s : State) : (payloadBytes (toFlits s.announcement)).take 16 = leBytes 8 (s.esc.now.toNat + 1) ++
    leBytes 8 (max (s.esc.start.toNat + s.lambda) (s.esc.beat.toNat + s.periodLead)) := by
  rw [payloadBytes_toFlits_take (by simp [State.announcement]), State.announcement, List.append_assoc]
  exact List.take_left' (by simp)

theorem exec_periodDone_of_marker (hr : s.rankOf src = some r) (hm : s.isMaster = true) (hp : s.periodP ≠ 0)
    (hst : s.esc.started = true) (hnew : s.esc.markers.contains r = false) : exec (.periodDone src s.esc.now) s =
      if s.esc.markers.length + 1 < s.nMembers then done s (s.markerHeld src r)
      else done s ((s.markerHeld src r).controlAll 11 s.announcement) := by
  have hg : s.isMaster ∧ s.periodP ≠ 0 ∧ s.esc.started ∧ s.esc.now = s.esc.now ∧ ¬ s.esc.markers.contains r = true :=
    ⟨hm, hp, hst, rfl, by rw [hnew]; exact Bool.false_ne_true⟩
  rw [exec_periodDone, execPeriodDone, hr]
  exact if_pos hg

theorem Frame.markerHeld (h : Frame l s t) (hf : .fab ∈ l) (he : .esc ∈ l) : Frame l s (t.markerHeld src r) :=
  (h.consumeControl hf src 10).updEsc he _

theorem does_periodDone_held (hc : Clean s) (hr : s.rankOf src = some r) (hm : s.isMaster = true) (hp : s.periodP ≠ 0)
    (hst : s.esc.started = true) (hnew : s.esc.markers.contains r = false) (hmore : s.esc.markers.length + 1 < s.nMembers) :
    Does (.periodDone src s.esc.now) s [.esc, .fab] fun t =>
      t.esc = { s.esc with markers := r :: s.esc.markers } ∧ t.fab.switchQ = s.fab.switchQ ∧
      t.fab.delivered = eraseFirst (fun p => p.op == .control && p.aop == 10 && p.src == src) s.fab.delivered :=
  Does.of_frame ((exec_periodDone_of_marker hr hm hp hst hnew).trans (if_pos hmore)) ((Frame.refl hc).markerHeld (by simp) (by simp))
    ⟨rfl, rfl, rfl⟩

theorem does_periodDone_last (hc : Clean s) (hr : s.rankOf src = some r) (hm : s.isMaster = true) (hp : s.periodP ≠ 0)
    (hst : s.esc.started = true) (hnew : s.esc.markers.contains r = false) (hlast : s.nMembers ≤ s.esc.markers.length + 1) :
    Does (.periodDone src s.esc.now) s [.esc, .fab] fun t => t.esc = { s.esc with markers := r :: s.esc.markers } ∧
      ∃ pk : Nat → FabPkt, t.fab.switchQ = s.fab.switchQ ++ s.slice.table.map (fun m => (63, pk m.1)) ∧
        ∀ m < 16384, (pk m).op = .control ∧ (pk m).aop = 11 ∧ (pk m).dest = m ∧
          (payloadBytes (pk m).payload).take 16 = leBytes 8 (s.esc.now.toNat + 1) ++
            leBytes 8 (max (s.esc.start.toNat + s.lambda) (s.esc.beat.toNat + s.periodLead)) := by
  refine Does.of_frame ((exec_periodDone_of_marker hr hm hp hst hnew).trans (if_neg (Nat.not_lt.mpr hlast)))
    (((Frame.refl hc).markerHeld (by simp) (by simp)).controlAll (by simp) ..) ⟨?_, fun m => s.controlPkt m 11 s.announcement, ?_,
      fun m hm => ⟨rfl, rfl, controlPkt_dest hm .., announcement_take s⟩⟩
  · rw [endOf_esc, controlAll_esc]
    rfl
  · exact controlAll_switchQ (s.markerHeld src r) 11 s.announcement

theorem does_periodAnnounce (hc : Clean s) (h : s.esc.beat.toNat < e.toNat) :
    Does (.periodAnnounce k1 e lambda late) s [.esc, .fab] fun t =>
      t.esc = { s.esc with announced := some ⟨k1, e, lambda, late⟩, next := e } ∧ t.fab.switchQ = s.fab.switchQ :=
  Does.of_frame (exec_periodAnnounce.trans (if_neg (Nat.not_le.mpr h))) (((Frame.refl hc).consumeControl (by simp) ..).updEsc (by simp) _)
    ⟨rfl, rfl⟩

theorem does_periodAnnounce_late (hc : Clean s) (h : e.toNat ≤ s.esc.beat.toNat) :
    Does (.periodAnnounce k1 e lambda late) s [.ras, .fab] fun t =>
      t.ras = { s.ras with tree := s.ras.tree ++ [{ cause := .periodAnnounce, unit := .escapement, index := 0 }] } ∧
      t.fab.switchQ = s.fab.switchQ :=
  Does.of_frame (exec_periodAnnounce.trans (if_pos h)) (((Frame.refl hc).consumeControl (by simp) ..).fault (by simp) ..) ⟨rfl, rfl⟩

end

/-- Settles O18: the member's marker, the master's count of the markers, and the announcement before and after its beat. -/
theorem periods : Obligations.Periods := by
  unfold Obligations.Periods
  intro s src r k1 e lambda late hc
  exact ⟨does_periodDoneSend hc, does_periodDoneSend_waits hc,
    fun hr hm hp hst hnew => ⟨does_periodDone_held hc hr hm hp hst hnew, does_periodDone_last hc hr hm hp hst hnew⟩,
    does_periodAnnounce hc, does_periodAnnounce_late hc⟩

/-! ## The reference (R289, R290) -/

theorem exec_refQualify : exec .refQualify s = execRefQualify s := rfl
theorem exec_refLoss : exec .refLoss s = execRefLoss s := rfl
theorem exec_refHoldoverEnd : exec .refHoldoverEnd s = execRefHoldoverEnd s := rfl

/-- The state with the power registers replaced. -/
def State.setPower (s : State) (x : Power) : State := { s with power := x }

theorem Frame.setPower (h : Frame l s t) (hl : .power ∈ l) (x : Power) : Frame l s (t.setPower x) := by
  refine h.extend rfl ⟨rfl, rfl, rfl, rfl⟩ fun p hp => ?_
  cases p
  case power => exact absurd hl hp
  all_goals simp [Piece.same, State.setPower, State.tile]

theorem does_refQualify (hc : Clean s) (h : bitOf s.esc.status 0 = false) : Does .refQualify s [.esc, .power] fun t =>
    t.esc = { s.esc with status := setBit s.esc.status 0 true, refWindows := 4 } ∧ t.power = { s.power with relocked := true } :=
  Does.of_frame (exec_refQualify.trans (if_neg (by rw [h]; exact Bool.false_ne_true)))
    ((((Frame.refl hc).escBit (by simp) 0 true).updEsc (by simp) _).setPower (by simp) _) ⟨rfl, rfl⟩

/-- A lost reference, and HOLDOVER while beats are counted. -/
def State.refLost (s : State) : State :=
  let u := (s.escBit 0 false).updEsc fun e => { e with refWindows := 0, holdover := 0 }
  if s.synced then u.escBit 4 true else u

theorem exec_refLoss_of_ok (h : bitOf s.esc.status 0 = true) :
    exec .refLoss s = done s ((s.refLost.fault .refLoss .escapement 0).setPower { s.power with relocked := false }) :=
  exec_refLoss.trans (if_pos h)

theorem refLost_esc (s : State) : s.refLost.esc = { s.esc with
    status := if s.synced then setBit (setBit s.esc.status 0 false) 4 true else setBit s.esc.status 0 false
    refWindows := 0, holdover := 0 } := by
  rw [State.refLost]
  split <;> rfl

theorem Frame.refLost (h : Frame l s t) (hl : .esc ∈ l) : Frame l s t.refLost := by
  have h0 := (h.escBit hl 0 false).updEsc hl fun e => { e with refWindows := 0, holdover := 0 }
  rw [State.refLost]
  split
  · exact h0.escBit hl 4 true
  · exact h0

theorem refLost_ras (s : State) : s.refLost.ras = s.ras := by
  rw [State.refLost]
  split <;> rfl

theorem bitOf_refLost_ok (s : State) : bitOf s.refLost.esc.status 0 = false := by
  rw [refLost_esc]
  dsimp only
  split
  · rw [bitOf_setBit_ne _ _ _ _ (by omega) (by omega)]
    exact bitOf_setBit _ _ _ (by omega)
  · exact bitOf_setBit _ _ _ (by omega)

theorem bitOf_refLost_of_synced (h : s.synced = true) : bitOf s.refLost.esc.status 4 = true ∧ bitOf s.refLost.esc.status 1 = true := by
  rw [refLost_esc]
  dsimp only
  rw [if_pos h, bitOf_setBit _ _ _ (by omega), bitOf_setBit_ne _ _ _ _ (by omega) (by omega),
    bitOf_setBit_ne _ _ _ _ (by omega) (by omega)]
  exact ⟨rfl, h⟩

theorem bitOf_refLost_of_not_synced (h : s.synced = false) : bitOf s.refLost.esc.status 4 = bitOf s.esc.status 4 := by
  rw [refLost_esc]
  dsimp only
  rw [if_neg (by rw [h]; exact Bool.false_ne_true), bitOf_setBit_ne _ _ _ _ (by omega) (by omega)]

theorem does_refLoss (hc : Clean s) (h : bitOf s.esc.status 0 = true) : Does .refLoss s [.esc, .power, .ras] fun t =>
    bitOf t.esc.status 0 = false ∧ (s.synced = true → bitOf t.esc.status 4 = true ∧ t.synced = true) ∧
    (s.synced = false → bitOf t.esc.status 4 = bitOf s.esc.status 4) ∧
    t.esc = { s.esc with status := t.esc.status, refWindows := 0, holdover := 0 } ∧ t.power = { s.power with relocked := false } ∧
    t.ras = { s.ras with tree := s.ras.tree ++ [{ cause := .refLoss, unit := .escapement, index := 0 }] } := by
  have hesc : ∀ p, (endOf s ((s.refLost.fault .refLoss .escapement 0).setPower p)).esc = s.refLost.esc := fun _ => rfl
  have hras : ∀ p, (endOf s ((s.refLost.fault .refLoss .escapement 0).setPower p)).ras = (s.refLost.fault .refLoss .escapement 0).ras :=
    fun _ => rfl
  refine Does.of_frame (exec_refLoss_of_ok h) ((((Frame.refl hc).refLost (by simp)).fault (by simp) ..).setPower (by simp) _) ?_
  rw [State.synced, hesc, hras, ras_fault, refLost_ras]
  exact ⟨bitOf_refLost_ok s, bitOf_refLost_of_synced, bitOf_refLost_of_not_synced, by rw [refLost_esc], rfl, rfl⟩

/-! ## The levels of the stacks (R315, R317) -/

/-- The state without what a level that takes effect may change: the stacks' registers, and what an eviction may. -/
def State.besideLevels (s : State) : State := { s.besideStacks with mem := { s.besideStacks.mem with stks := [] } }

theorem besideLevels_of_besideStacks (h : t.besideStacks = s.besideStacks) : t.besideLevels = s.besideLevels := by
  rw [State.besideLevels, State.besideLevels, h]

@[simp] theorem updStack_besideLevels (k : Nat) (f : Stack → Stack) : (s.updStack k f).besideLevels = s.besideLevels := rfl

theorem evictAll_besideStacks (ch : Nat) : (s.evictAll ch).besideStacks = s.besideStacks :=
  foldl_unchanged (read := State.besideStacks) (fun s (w : WcbE) => evictLine_besideStacks s ch w.addr) _

theorem closeStack_besideStacks (k : Nat) : (s.closeStack k).besideStacks = s.besideStacks := by
  refine foldl_unchanged (read := State.besideStacks) (fun s c => ?_) _
  dsimp only
  split
  · rw [foldl_unchanged (read := State.besideStacks) fun s (q : QReq) => reply_besideStacks s q.req.src 0 0 (some .memUncorrectable)]
    rw [updChan_besideStacks, evictAll_besideStacks]
  · rw [updChan_besideStacks]

theorem applyLevel_besideLevels (k : Nat) : (s.applyLevel k).besideLevels = s.besideLevels := by
  rw [State.applyLevel]
  split
  · rfl
  · dsimp only
    split
    · rw [besideLevels_of_besideStacks (closeStack_besideStacks k), updStack_besideLevels]
    · rw [updStack_besideLevels]

theorem levelsApply_besideLevels (s : State) : s.levelsApply.besideLevels = s.besideLevels :=
  foldl_unchanged (read := State.besideLevels) (fun _ (p : Nat × Stack) => applyLevel_besideLevels p.1) _

theorem applyLevel_of_none {k : Nat} (h : (s.stack k).pend = none) : s.applyLevel k = s := by rw [State.applyLevel, h]

theorem foldl_applyLevel_of_none (h : ∀ k, (s.stack k).pend = none) (ps : List (Nat × Stack)) :
    ps.foldl (fun s p => s.applyLevel p.1) s = s := by
  induction ps with
  | nil => rfl
  | cons p ps ih => rw [List.foldl_cons, applyLevel_of_none (h p.1), ih]

theorem levelsApply_of_none (h : ∀ k ∈ s.mem.stks, k.2.pend = none) : s.levelsApply = s :=
  foldl_applyLevel_of_none (fun k => aget_of_forall (p := fun x : Stack => x.pend = none) rfl h k) _

/-- States that agree beside the levels differ in the stacks' registers and in the parts that an engine's access changes. -/
theorem Piece.same_of_besideLevels {p : Piece} (h : t.besideLevels = s.besideLevels) (hp : p ∉ [Piece.stks] ++ engineParts) :
    p.same s t := by
  have hsame : p.same s.besideLevels t.besideLevels := by rw [h]; exact p.same_refl s.besideLevels
  cases p
  case stks | chans | bytes | memMarks | queues | answers | tiles | fab | ras => exact absurd (by simp) hp
  all_goals exact hsame

/-! ## The end of HOLDOVER (R290) -/

/-- SYNCED and HOLDOVER are clear. -/
def State.unsynced (s : State) : State := (s.escBit 1 false).escBit 4 false

theorem exec_refHoldoverEnd_of_due (h : bitOf s.esc.status 4 = true ∧ (64 ≤ s.esc.holdover ∨ s.sliceSt = 3)) :
    exec .refHoldoverEnd s = done s s.unsynced.levelsApply := exec_refHoldoverEnd.trans (if_pos h)

theorem unsynced_esc (s : State) : s.unsynced.esc = { s.esc with status := setBit (setBit s.esc.status 1 false) 4 false } := rfl

/-- Beats are counted no longer. -/
def Stopped (s t : State) : Prop := t.synced = false ∧ bitOf t.esc.status 4 = false ∧ t.esc = { s.esc with status := t.esc.status }

theorem stopped_of_esc (h : t.esc = s.unsynced.esc) : Stopped s t := by
  rw [Stopped, State.synced, h, unsynced_esc]
  exact ⟨(bitOf_setBit_ne _ _ _ _ (by omega) (by omega)).trans (bitOf_setBit _ _ _ (by omega)), bitOf_setBit _ _ _ (by omega), rfl⟩

theorem Frame.unsynced (h : Frame l s t) (hl : .esc ∈ l) : Frame l s t.unsynced := (h.escBit hl 1 false).escBit hl 4 false

theorem does_refHoldoverEnd (hc : Clean s) (h : bitOf s.esc.status 4 = true ∧ (64 ≤ s.esc.holdover ∨ s.sliceSt = 3)) :
    Does .refHoldoverEnd s ([Piece.esc, .stks] ++ engineParts) (Stopped s) := by
  have hmask := levelsApply_besideLevels s.unsynced
  have hesc : s.unsynced.levelsApply.besideLevels.esc = s.unsynced.besideLevels.esc := by rw [hmask]
  have hlog : s.unsynced.levelsApply.besideLevels.lsLog = s.unsynced.besideLevels.lsLog := by rw [hmask]
  have hwipe : s.unsynced.levelsApply.besideLevels.lsWipe = s.unsynced.besideLevels.lsWipe := by rw [hmask]
  have hframe : Frame [.esc] s s.unsynced := (Frame.refl hc).unsynced (by simp)
  obtain ⟨hnoLog, -, hnoWipe, -⟩ := hframe.clean
  refine Does.of_stackWrites (exec_refHoldoverEnd_of_due h) (hlog.trans hnoLog) (hwipe.trans hnoWipe)
    (stopped_of_esc ?_) (by simp) fun p hp _ => ?_
  · rw [endOf_esc]
    exact hesc
  · simp only [List.mem_append, List.mem_cons, List.not_mem_nil, or_false, not_or] at hp
    exact Piece.same_trans (hframe.same (by simp; tauto)) (Piece.same_of_besideLevels hmask (by simp; tauto))

theorem does_refHoldoverEnd_noLevels (hc : Clean s) (h : bitOf s.esc.status 4 = true ∧ (64 ≤ s.esc.holdover ∨ s.sliceSt = 3))
    (hl : ∀ k ∈ s.mem.stks, k.2.pend = none) : Does .refHoldoverEnd s [.esc] (Stopped s) := by
  have he := exec_refHoldoverEnd_of_due h
  have hpend : ∀ k ∈ s.unsynced.mem.stks, k.2.pend = none := hl
  rw [levelsApply_of_none hpend] at he
  exact Does.of_frame he ((Frame.refl hc).unsynced (by simp)) (stopped_of_esc rfl)

/-- Settles O19: the reference qualifies, is lost, and HOLDOVER ends, by the pending levels of the stacks. -/
theorem reference : Obligations.Reference := by
  unfold Obligations.Reference
  intro s hc
  refine ⟨does_refQualify hc, does_refLoss hc, fun h => ⟨does_refHoldoverEnd hc h, does_refHoldoverEnd_noLevels hc h⟩, fun h => ?_⟩
  exact Does.of_idle hc (exec_refHoldoverEnd.trans (if_neg h))

end Sys2Proof.Machine
end

section
/-! The end of a command (R441, R448, R455, R463, R465, R467): what `State.complete` does to the queues, the records and the tags, whatever
else the state holds, and the frame of its updates. -/

namespace Sys2Proof.Machine

variable {s t u : State} {l : List Piece} {q i : Nat} {c : Cmd}

/-! ## Commands of a queue -/

theorem index_of_cmd (h : s.cmd q i = some c) : c.index = i := by
  have := List.find?_some h
  simpa using this

theorem cmd_of_queue (h : t.queue q = s.queue q) (i : Nat) : t.cmd q i = s.cmd q i := by rw [State.cmd, State.cmd, h]

theorem queue_updCmd (q i : Nat) (f : Cmd → Cmd) (p : Nat) : (s.updCmd q i f).queue p =
    if p = q then { s.queue q with cmds := (s.queue q).cmds.map fun c => if c.index = i then f c else c } else s.queue p := by
  rw [State.updCmd, State.queue_updQueue]

theorem cmd_updCmd {f : Cmd → Cmd} (hf : (f c).index = c.index) (h : s.cmd q i = some c) : (s.updCmd q i f).cmd q i = some (f c) := by
  have hi := index_of_cmd h
  have hmap : ∀ cs : List Cmd, cs.find? (fun c => c.index == i) = some c →
      (cs.map fun c => if c.index = i then f c else c).find? (fun c => c.index == i) = some (f c) := by
    intro cs hcs
    induction cs with
    | nil => simp at hcs
    | cons d ds ih =>
      by_cases hd : d.index = i
      · obtain rfl : d = c := by simpa [hd] using hcs
        simp [hi, hf]
      · rw [List.find?_cons_of_neg (by simpa using hd)] at hcs
        rw [List.map_cons, if_neg hd, List.find?_cons_of_neg (by simpa using hd), ih hcs]
  rw [State.cmd, queue_updCmd, if_pos rfl]
  exact hmap _ h

/-! ## The frame of the updates -/

theorem Frame.setQueues (h : Frame l s t) (hl : .queues ∈ l) {f : HostIf → HostIf} (hflags : (f t.host).flags = t.host.flags)
    (hmarks : (f t.host).flagMarks = t.host.flagMarks) (hlanded : (f t.host).landed = t.host.landed)
    (hrest : { f t.host with flags := [], flagMarks := [], queues := [], held := [], out := [], tags := [], landed := [] } =
      { t.host with flags := [], flagMarks := [], queues := [], held := [], out := [], tags := [], landed := [] }) :
    Frame l s (t.updHost f) := by
  refine h.extend rfl ⟨rfl, rfl, rfl, rfl⟩ fun p hp => ?_
  cases p
  case queues => exact absurd hl hp
  case flags => exact ⟨hflags, hmarks⟩
  case landed => exact hlanded
  case host => exact hrest
  all_goals simp [Piece.same]

theorem Frame.updQueue (h : Frame l s t) (hl : .queues ∈ l) (q : Nat) (f : Queue → Queue) : Frame l s (t.updQueue q f) :=
  h.setQueues hl (f := fun x => { x with queues := aset {} x.queues q (f (t.queue q)) }) rfl rfl rfl rfl

theorem Frame.updCmd (h : Frame l s t) (hl : .queues ∈ l) (q i : Nat) (f : Cmd → Cmd) : Frame l s (t.updCmd q i f) := h.updQueue hl q _

theorem Frame.updHang (h : Frame l s t) (hl : .hang ∈ l) (f : Hang → Hang) : Frame l s (t.updHang f) := by
  refine h.extend rfl ⟨rfl, rfl, rfl, rfl⟩ fun p hp => ?_
  cases p
  case hang => exact absurd hl hp
  all_goals simp [Piece.same]

/-- The tag of a record or of a command is free (R455). -/
def State.freeTag (s : State) (tag : Option Nat) : State :=
  s.updHost fun h => { h with tags := match tag with | some g => adel h.tags g | none => h.tags }

theorem Frame.freeTag (h : Frame l s t) (hl : .queues ∈ l) (tag : Option Nat) : Frame l s (t.freeTag tag) :=
  h.setQueues hl rfl rfl rfl rfl

/-- A record waits for DMA (R441). -/
def State.holdRecord (s : State) (r : Record) : State := s.updHost fun h => { h with held := h.held ++ [r] }

theorem Frame.holdRecord (h : Frame l s t) (hl : .queues ∈ l) (r : Record) : Frame l s (t.holdRecord r) :=
  h.setQueues hl rfl rfl rfl rfl

theorem Frame.record (h : Frame l s t) (hl : .queues ∈ l) (r : Record) : Frame l s (t.record r) :=
  (((h.hostWrite hl _ _).hostWrite hl _ _).freeTag hl r.tag).updQueue hl r.q _

/-! ## The parts of a completion -/

theorem leaveUnit_eq (s : State) (q : Nat) (c : Cmd) : ∃ f : Hang → Hang, s.leaveUnit q c = s.updHang f := by
  rw [State.leaveUnit]
  split
  next e p _ => exact ⟨fun x => { x with last := aput x.last e (laterBeat (aget 0 x.last e) p) }, rfl⟩
  · exact ⟨id, rfl⟩

/-- The queue without command `i`. -/
def Queue.without (x : Queue) (i : Nat) : Queue := { x with cmds := x.cmds.filter fun d => d.index != i }

/-- The queue once the record of index `i` has been written (R448). -/
def Queue.passed (x : Queue) (i : Nat) : Queue :=
  let p := advanceOldest (x.recorded.length + 1) x.oldest (i :: x.recorded)
  { x with oldest := p.1, recorded := p.2 }

theorem record_eq (s : State) (r : Record) :
    s.record r = ((s.writeRecord r).freeTag r.tag).updQueue r.q fun x => x.passed r.index := rfl

/-- A command leaves its queue, and the operations bound to the period. -/
def State.leaveQueue (s : State) (q i : Nat) : State :=
  (s.updEsc fun e => { e with bound := e.bound.erase (q, i) }).updQueue q fun x => x.without i

/-- The record of a command that completes (R463, R467). -/
def Cmd.record (c : Cmd) (q i status : Nat) (body : Flit) (nc ab dv : Nat) (beat : W64) : Record :=
  { q := q, index := i, opcode := cmdOp c.raw, status := status, user := cmdFld c.raw 4 2, notConv := nc
    abandoned := ab, diverged := dv, beat := beat, body := if body = 0 then idleBody c.raw else body, tag := c.tag }

/-- A record is written now or held (R441). -/
def State.report (s : State) (r : Record) : State := if s.recordNow then s.record r else s.holdRecord r

/-- A completion outside a replay takes the command from its queue and reports its record; beside this it changes the hang registers. -/
theorem complete_eq (h : s.cmd q i = some c) (hr : c.replay = false) (status : Nat) (body : Flit) (nc ab dv : Nat) (beat : W64) :
    ∃ f : Hang → Hang, s.complete q i status body nc ab dv beat =
      ((s.updHang f).leaveQueue q i).report (c.record q i status body nc ab dv beat) := by
  obtain ⟨f, hf⟩ := leaveUnit_eq s q c
  simp only [State.complete, h, hr, hf, Bool.false_eq_true, if_false]
  split
  · exact ⟨f, rfl⟩
  · exact ⟨fun x => { f x with suspects := (f x).suspects.map fun y =>
      if y.q = q then { y with cmds := y.cmds.filter fun d => d.index != i } else y }, rfl⟩

theorem complete_of_none (h : s.cmd q i = none) (status : Nat) (body : Flit) (nc ab dv : Nat) (beat : W64) :
    s.complete q i status body nc ab dv beat = s := by simp only [State.complete, h]

theorem Frame.leaveQueue (h : Frame l s t) (hq : .queues ∈ l) (he : .esc ∈ l) (q i : Nat) : Frame l s (t.leaveQueue q i) :=
  (h.updEsc he _).updQueue hq q _

theorem Frame.report (h : Frame l s t) (hq : .queues ∈ l) (r : Record) : Frame l s (t.report r) := by
  rw [State.report]
  split
  · exact h.record hq r
  · exact h.holdRecord hq r

theorem Frame.complete (h : Frame l s t) (hq : .queues ∈ l) (hh : .hang ∈ l) (he : .esc ∈ l) (hc : t.cmd q i = some c)
    (hr : c.replay = false) (status : Nat) (body : Flit := 0) (nc : Nat := 0) (ab : Nat := 0) (dv : Nat := 0) (beat : W64 := t.beat) :
    Frame l s (t.complete q i status body nc ab dv beat) := by
  obtain ⟨f, hf⟩ := complete_eq hc hr status body nc ab dv beat
  rw [hf]
  exact ((h.updHang hh f).leaveQueue hq he q i).report hq _

/-! ## What a completion leaves -/

theorem queue_leaveQueue (p : Nat) : (s.leaveQueue q i).queue p = if p = q then (s.queue q).without i else s.queue p := by
  rw [State.leaveQueue, State.queue_updQueue, State.updEsc_queue_at, State.updEsc_queue_at]

theorem cmd_leaveQueue : (s.leaveQueue q i).cmd q i = none := by
  rw [State.cmd, queue_leaveQueue, if_pos rfl, Queue.without, List.find?_eq_none]
  intro d hd
  simpa using (List.mem_filter.mp hd).2

theorem queue_written (r : Record) (tag : Option Nat) (p : Nat) : ((s.writeRecord r).freeTag tag).queue p = s.queue p := rfl

theorem queue_record (r : Record) (p : Nat) : (s.record r).queue p = if p = r.q then (s.queue r.q).passed r.index else s.queue p := by
  rw [record_eq, State.queue_updQueue, queue_written, queue_written]

theorem queue_holdRecord (r : Record) (p : Nat) : (s.holdRecord r).queue p = s.queue p := rfl

theorem cmds_report (r : Record) (p : Nat) : ((s.report r).queue p).cmds = (s.queue p).cmds := by
  rw [State.report]
  split
  · rw [queue_record]
    split
    next h => rw [h, Queue.passed]
    next => rfl
  · rw [queue_holdRecord]

theorem queue_report_of_ne {r : Record} {p : Nat} (h : p ≠ r.q) : (s.report r).queue p = s.queue p := by
  rw [State.report]
  split
  · rw [queue_record, if_neg h]
  · rw [queue_holdRecord]

/-- OLDEST moves past the command that was the oldest. -/
theorem passed_of_oldest {x : Queue} (ho : x.oldest = i) (hrec : x.recorded = []) :
    x.passed i = { x with oldest := (i + 1) % 2 ^ 32, recorded := [] } := by
  simp [Queue.passed, ho, hrec, advanceOldest]

/-- The two writes of a record to the completion ring of a queue (R465). -/
def recordWrites (r : Record) (x : Queue) : List HostWr :=
  let a := x.cq + BitVec.ofNat 64 (32 * (r.index % x.size))
  [{ addr := a + 8, bytes := (recordBytes r x.size).drop 8 }, { addr := a, bytes := (recordBytes r x.size).take 8 }]

theorem record_out (r : Record) : (s.record r).host.out = s.host.out ++ recordWrites r (s.queue r.q) := List.append_assoc ..

theorem record_held (r : Record) : (s.record r).host.held = s.host.held := by
  rw [record_eq, State.updQueue_host_held]
  rfl

theorem leaveQueue_held : (s.leaveQueue q i).host.held = s.host.held := by
  rw [State.leaveQueue, State.updQueue_host_held, State.updEsc_host]

theorem record_tags {r : Record} {g : Nat} (h : r.tag = some g) : afind (s.record r).host.tags g = none := by
  have htags : (s.record r).host.tags = match r.tag with | some g => adel s.host.tags g | none => s.host.tags := rfl
  rw [htags, h]
  simp [afind_adel]

theorem Completed.gone {status : Nat} {body : Flit} {nc ab dv : Nat} {beat : W64} (h : Completed s t q c status body nc ab dv beat) :
    t.cmd q c.index = none := by
  obtain ⟨hgone, -⟩ := h
  exact hgone

theorem Completed.others {status : Nat} {body : Flit} {nc ab dv : Nat} {beat : W64} (h : Completed s t q c status body nc ab dv beat)
    {p : Nat} (hp : p ≠ q) : t.queue p = s.queue p := by
  obtain ⟨-, hothers, -⟩ := h
  exact hothers p hp

/-- A completion outside a replay is as `Completed` says. -/
theorem completed_complete (h : s.cmd q i = some c) (hr : c.replay = false) (status : Nat) (body : Flit) (nc ab dv : Nat) (beat : W64) :
    Completed s (s.complete q i status body nc ab dv beat) q c status body nc ab dv beat := by
  obtain ⟨f, hf⟩ := complete_eq h hr status body nc ab dv beat
  have hi := index_of_cmd h
  have hqueue : ∀ p, ((s.updHang f).leaveQueue q i).queue p = if p = q then (s.queue q).without i else s.queue p :=
    fun p => queue_leaveQueue p
  have hown : ((s.updHang f).leaveQueue q i).queue q = (s.queue q).without i := (hqueue q).trans (if_pos rfl)
  have hnowEq : ((s.updHang f).leaveQueue q i).recordNow = s.recordNow := rfl
  rw [hf, Completed, hi]
  refine ⟨?_, fun p hp => ?_, fun hnow => ?_, fun hnow => ?_⟩
  · rw [State.cmd, cmds_report]
    exact cmd_leaveQueue
  · rw [queue_report_of_ne hp, hqueue, if_neg hp]
  · rw [State.report, if_pos (hnowEq.trans hnow)]
    refine ⟨?_, ?_, fun g hg => record_tags hg, fun ho hrec => ?_⟩
    · rw [record_held, leaveQueue_held]
      rfl
    · have hout := record_out (s := (s.updHang f).leaveQueue q i) (c.record q i status body nc ab dv beat)
      rw [show (c.record q i status body nc ab dv beat).q = q from rfl, hown] at hout
      exact hout
    · have hpassed : (((s.updHang f).leaveQueue q i).record (c.record q i status body nc ab dv beat)).queue q =
          ((s.queue q).without i).passed i := (queue_record _ q).trans ((if_pos rfl).trans (congrArg (·.passed i) hown))
      rw [hpassed, passed_of_oldest (x := (s.queue q).without i) ho hrec]
      exact ⟨rfl, rfl⟩
  · rw [State.report, if_neg (by rw [hnowEq, hnow]; exact Bool.false_ne_true), queue_holdRecord, hown]
    exact ⟨rfl, rfl, rfl, rfl, rfl⟩

/-- From `s` to `u`, what a completion of queue `q` reads is as before (R441, R448). -/
structure SameRing (s u : State) (q : Nat) : Prop where
  others : ∀ p, p ≠ q → u.queue p = s.queue p
  cq : (u.queue q).cq = (s.queue q).cq
  size : (u.queue q).size = (s.queue q).size
  oldest : (u.queue q).oldest = (s.queue q).oldest
  recorded : (u.queue q).recorded = (s.queue q).recorded
  held : u.host.held = s.host.held
  out : u.host.out = s.host.out
  tags : u.host.tags = s.host.tags
  now : u.recordNow = s.recordNow

theorem SameRing.refl (s : State) (q : Nat) : SameRing s s q := ⟨fun _ _ => rfl, rfl, rfl, rfl, rfl, rfl, rfl, rfl, rfl⟩

theorem SameRing.updCmd (h : SameRing s u q) (i : Nat) (f : Cmd → Cmd) : SameRing s (u.updCmd q i f) q := by
  obtain ⟨hothers, hcq, hsize, hold, hrec, hheld, hout, htags, hnow⟩ := h
  have hown := queue_updCmd (s := u) q i f q
  rw [if_pos rfl] at hown
  refine ⟨fun p hp => ?_, ?_, ?_, ?_, ?_, hheld, hout, htags, hnow⟩
  · rw [queue_updCmd, if_neg hp, hothers p hp]
  · rw [hown, ← hcq]
  · rw [hown, ← hsize]
    rfl
  · rw [hown, ← hold]
  · rw [hown, ← hrec]

/-- A completion from a state that differs from `s` in other things is one from `s`. -/
theorem Completed.of_sameRing {d : Cmd} {status : Nat} {body : Flit} {nc ab dv : Nat} {beat : W64} (h : SameRing s u q)
    (hi : d.index = c.index) (hraw : d.raw = c.raw) (htag : d.tag = c.tag) (ht : Completed u t q d status body nc ab dv beat) :
    Completed s t q c status body nc ab dv beat := by
  obtain ⟨hothers, hcq, hsize, hold, hrec, hheld, hout, htags, hnow⟩ := h
  simp only [Completed, hi, hraw, htag, hcq, hsize, hold, hrec, hheld, hout, htags, hnow] at ht
  obtain ⟨hgone, hqueues, hrecorded⟩ := ht
  exact ⟨hgone, fun p hp => (hqueues p hp).trans (hothers p hp), hrecorded⟩

theorem completed_endOf {status : Nat} {body : Flit} {nc ab dv : Nat} {beat : W64} (h : Completed s t q c status body nc ab dv beat) :
    Completed s (endOf u t) q c status body nc ab dv beat := h

/-- A command whose meaning is that the state, with other things changed, completes a command. -/
theorem Does.of_complete {instr : Instr} {d : Cmd} {status : Nat} {body : Flit} (hq : .queues ∈ l) (hh : .hang ∈ l) (he : .esc ∈ l)
    (hrun : exec instr s = done s (u.complete q c.index status body)) (hf : Frame l s u) (hsame : SameRing s u q)
    (hbeat : u.esc.beat = s.esc.beat) (hd : u.cmd q c.index = some d) (hr : d.replay = false) (hraw : d.raw = c.raw)
    (htag : d.tag = c.tag) : Does instr s l fun t => Completed s t q c status body := by
  refine Does.of_frame hrun (hf.complete hq hh he hd hr status body) (completed_endOf ?_)
  have h := completed_complete hd hr status body 0 0 0 u.beat
  have hb : u.beat = s.esc.beat := hbeat
  rw [hb] at h ⊢
  exact h.of_sameRing hsame (index_of_cmd hd) hraw htag

/-- A command whose meaning is that it completes. -/
theorem Does.of_complete_self {instr : Instr} {status : Nat} {body : Flit} (hc : Clean s) (hq : .queues ∈ l) (hh : .hang ∈ l)
    (he : .esc ∈ l) (hcmd : s.cmd q i = some c) (hr : c.replay = false) (hrun : exec instr s = done s (s.complete q i status body)) :
    Does instr s l fun t => Completed s t q c status body := by
  obtain rfl := index_of_cmd hcmd
  exact Does.of_complete hq hh he hrun (Frame.refl hc) (SameRing.refl s q) rfl hcmd hr rfl rfl

end Sys2Proof.Machine
end

section
/-! WAIT_FLAG, SET_FLAG, FENCE, STATUS and ABORT (R282, R306, R441, R457 to R462, R467): what each runs at or after its arm beat, and
obligation O50 from this. -/

namespace Sys2Proof.Machine

variable {s t u : State} {l : List Piece} {q i : Nat} {c : Cmd} {b : W64}

/-! ## Frames -/

theorem Frame.updChan (h : Frame l s t) (hl : .chans ∈ l) (k : Nat) (f : Chan → Chan) : Frame l s (t.updChan k f) := by
  refine h.extend rfl ⟨rfl, rfl, rfl, rfl⟩ fun p hp => ?_
  cases p
  case chans => exact absurd hl hp
  case bytes => exact fun _ => rfl
  all_goals simp [Piece.same]

theorem Frame.putFlag (h : Frame l s t) (hl : .flags ∈ l) (n : Nat) (v : W64) : Frame l s (t.putFlag n v) := by
  refine h.extend rfl ⟨rfl, rfl, rfl, rfl⟩ fun p hp => ?_
  cases p
  case flags => exact absurd hl hp
  case tiles => exact fun _ => rfl
  case ls | bytes => exact fun _ => rfl
  case queues => exact ⟨rfl, rfl, rfl, rfl⟩
  case mesh => exact ⟨rfl, rfl⟩
  case memRegs => exact ⟨rfl, rfl, rfl⟩
  all_goals rfl

theorem Frame.flagProgress (h : Frame l s t) (hl : .slice ∈ l) (n : Nat) : Frame l s (t.flagProgress n) := by
  refine h.extend rfl ⟨rfl, rfl, rfl, rfl⟩ fun p hp => ?_
  cases p
  case slice => exact absurd hl hp
  case tiles => exact fun _ => rfl
  case ls | bytes => exact fun _ => rfl
  case queues => exact ⟨rfl, rfl, rfl, rfl⟩
  case mesh | flags => exact ⟨rfl, rfl⟩
  case memRegs => exact ⟨rfl, rfl, rfl⟩
  all_goals rfl

theorem Frame.toEdge (h : Frame l s t) (hl : .fab ∈ l) (p : FabPkt) (src : ReqSrc) : Frame l s (t.toEdge p src) := h.setFab hl rfl

/-! ## What each command runs -/

theorem exec_waitFlag_of_cmd (hc : s.cmd q i = some c) (hop : cmdOp c.raw = 2) : exec (.waitFlag q i) s = done s (s.runWait q c) := by
  change execWaitFlag q i s = _
  rw [execWaitFlag, hc]
  exact if_pos hop

theorem exec_setFlag_of_cmd (hc : s.cmd q i = some c) (hop : cmdOp c.raw = 3) : exec (.setFlag q i) s = done s (s.runSet q c) := by
  change execSetFlag q i s = _
  rw [execSetFlag, hc]
  exact if_pos hop

theorem exec_fence_of_cmd (hc : s.cmd q i = some c) (hop : cmdOp c.raw = 9) : exec (.fence q i) s = done s (s.runFence q c) := by
  change execFence q i s = _
  rw [execFence, hc]
  exact if_pos hop

theorem exec_status_of_cmd (hc : s.cmd q i = some c) (hop : cmdOp c.raw = 10) : exec (.status q i) s = done s (s.runStatus q c) := by
  change execStatus q i s = _
  rw [execStatus, hc]
  exact if_pos hop

theorem exec_abort_of_cmd (hc : s.cmd q i = some c) (hop : cmdOp c.raw = 8) : exec (.abort q i) s = done s (s.runAbort q c) := by
  change execAbort q i s = _
  rw [execAbort, hc]
  exact if_pos hop

/-- A command of none of the engines is due from its arm beat on. -/
theorem cmdDue_of_arm (hst : c.st ≠ .fetched) (harm : c.arm = some b) (hb : b.toNat ≤ s.esc.beat.toNat)
    (hop : cmdOp c.raw ∉ [1, 4, 5, 6]) : s.cmdDue c = true := by
  simp only [List.mem_cons, List.not_mem_nil, or_false, not_or] at hop
  obtain ⟨h1, h4, h5, h6⟩ := hop
  have hb' : b.toNat ≤ s.beat.toNat := hb
  simp [State.cmdDue, State.retimeHolds, State.sliceHolds, harm, hst, h1, h4, h5, h6, hb']

/-! ## WAIT_FLAG (R458) -/

/-- The comparison of a WAIT_FLAG by its condition code (R457). -/
theorem waitHolds_iff (raw : Line) (v : W64) : waitHolds raw v = true ↔
    (if cmdFld raw 40 1 = 0 then (v &&& BitVec.ofNat 64 (cmdFld raw 32 8)).toNat =
        (BitVec.ofNat 64 (cmdFld raw 24 8) &&& BitVec.ofNat 64 (cmdFld raw 32 8)).toNat
      else if cmdFld raw 40 1 = 1 then (v &&& BitVec.ofNat 64 (cmdFld raw 32 8)).toNat ≠
        (BitVec.ofNat 64 (cmdFld raw 24 8) &&& BitVec.ofNat 64 (cmdFld raw 32 8)).toNat
      else if cmdFld raw 40 1 = 2 then (BitVec.ofNat 64 (cmdFld raw 24 8) &&& BitVec.ofNat 64 (cmdFld raw 32 8)).toNat ≤
        (v &&& BitVec.ofNat 64 (cmdFld raw 32 8)).toNat
      else (v &&& BitVec.ofNat 64 (cmdFld raw 32 8)).toNat <
        (BitVec.ofNat 64 (cmdFld raw 24 8) &&& BitVec.ofNat 64 (cmdFld raw 32 8)).toNat) := by
  unfold waitHolds
  dsimp only
  split
  case h_1 h => simp [h]
  case h_2 h => simp [h]
  case h_3 h => simp [h]
  case h_4 h0 h1 h2 => rw [if_neg h0, if_neg h1, if_neg h2, decide_eq_true_iff]

theorem readFlag_of_good {n : Nat} (h : s.flagMark n = .good) : s.readFlag n = (some (s.flag n), s) := by rw [State.readFlag, h]

/-- What an evaluation notes of the command. -/
def Cmd.evaluated (c : Cmd) (first beat v : W64) : Cmd :=
  { c with st := .acting, firstEval := some first, lastEval := some beat, value := v }

section
variable (hdue : s.cmdDue c = true) (hlast : c.lastEval ≠ some s.esc.beat) (hfr : s.frozenAs 0x1C00 = false)
include hdue hlast hfr

theorem runWait_guard : ¬ (!s.cmdDue c ∨ c.lastEval = some s.beat ∨ s.frozenAs 0x1C00 = true) := by
  have hlast' : c.lastEval ≠ some s.beat := hlast
  simp [hdue, hlast', hfr]

theorem runWait_of_outside (hoff : 0x800000 ≤ cmdFld c.raw 16 8) : s.runWait q c = s.complete q c.index 9 := by
  rw [State.runWait]
  exact (if_neg (runWait_guard hdue hlast hfr)).trans (if_pos hoff)

theorem runWait_of_good (hoff : cmdFld c.raw 16 8 < 0x800000) (hgood : s.flagMark (cmdFld c.raw 16 8 / 8) = .good) :
    let v := s.flag (cmdFld c.raw 16 8 / 8)
    let first := c.firstEval.getD s.esc.beat
    let u := s.updCmd q c.index fun c => c.evaluated first s.esc.beat v
    s.runWait q c = if waitHolds c.raw v then u.complete q c.index 0 (BitVec.ofNat 128 v.toNat)
      else if cmdFld c.raw 48 8 ≠ 0 ∧ first.toNat + cmdFld c.raw 48 8 ≤ s.esc.beat.toNat then
        u.complete q c.index 6 (BitVec.ofNat 128 v.toNat)
      else u := by
  intro v first u
  rw [State.runWait]
  refine (if_neg (runWait_guard hdue hlast hfr)).trans ((if_neg (Nat.not_le.mpr hoff)).trans ?_)
  rw [readFlag_of_good hgood]
  rfl

end

/-- The ATOMIC by which a SET_FLAG changes another module's flag (R459). -/
def State.flagAtomic (s : State) (raw : Line) : FabPkt :=
  { s.mkFab .atomic 0 (BitVec.ofNat 64 (cmdFld raw 16 8))
      [BitVec.ofNat 128 ((BitVec.ofNat 64 (cmdFld raw 24 8)).toNat + (0 : W64).toNat * 2 ^ 64)] with
    aop := cmdFld raw 32 1, aw := 3, srcEngine := true, srcTile := 0x1C00 }

/-- Flag `n` takes the value of an atomic, which is progress of the collectives that count on it (R343, R502). -/
def State.flagTaken (s : State) (n : Nat) (v : W64) : State := (s.putFlag n v).flagProgress n

theorem atomicFlag_of_good {n : Nat} (h : s.flagMark n = .good) (aop : Nat) (operand compare : W64) :
    s.atomicFlag n aop operand compare = (some (s.flag n),
      s.flagTaken n (BitVec.ofNat 64 (atomicNew aop 64 (s.flag n).toNat operand.toNat compare.toNat))) := by
  rw [State.atomicFlag, readFlag_of_good h]
  rfl

theorem flag_flagTaken (n : Nat) (v : W64) (k : Nat) : (s.flagTaken n v).flag k = if k = n then v else s.flag k := aget_aset ..

theorem sameRing_flagTaken (n : Nat) (v : W64) : SameRing s (s.flagTaken n v) q :=
  ⟨fun _ _ => rfl, rfl, rfl, rfl, rfl, rfl, rfl, rfl, rfl⟩

section
variable (hc : Clean s) (hfr : s.frozenAs 0x1C00 = false) (hcmd : s.cmd q i = some c) (hrep : c.replay = false) (harm : c.arm = some b)
  (hb : b.toNat ≤ s.esc.beat.toNat)
include hc hfr hcmd hrep harm hb

theorem does_waitFlag_outside (hop : cmdOp c.raw = 2) (hst : c.st ≠ .fetched) (hlast : c.lastEval ≠ some s.esc.beat)
    (hoff : 0x800000 ≤ cmdFld c.raw 16 8) : Does (.waitFlag q i) s [.queues, .hang, .esc] fun t => Completed s t q c 9 0 := by
  have hdue := cmdDue_of_arm hst harm hb (by simp [hop])
  have he := exec_waitFlag_of_cmd hcmd hop
  rw [runWait_of_outside hdue hlast hfr hoff, index_of_cmd hcmd] at he
  exact Does.of_complete_self hc (by simp) (by simp) (by simp) hcmd hrep he

/-- An evaluation completes the command with the value, at once or at its timeout, or waits for the next beat. -/
theorem does_waitFlag_good (hop : cmdOp c.raw = 2) (hst : c.st ≠ .fetched) (hlast : c.lastEval ≠ some s.esc.beat)
    (hoff : cmdFld c.raw 16 8 < 0x800000) (hgood : s.flagMark (cmdFld c.raw 16 8 / 8) = .good) :
    let v := s.flag (cmdFld c.raw 16 8 / 8)
    let past := cmdFld c.raw 48 8 ≠ 0 ∧ (c.firstEval.getD s.esc.beat).toNat + cmdFld c.raw 48 8 ≤ s.esc.beat.toNat
    (waitHolds c.raw v = true → Does (.waitFlag q i) s [.queues, .hang, .esc] fun t => Completed s t q c 0 (BitVec.ofNat 128 v.toNat)) ∧
    (¬ waitHolds c.raw v = true → past →
      Does (.waitFlag q i) s [.queues, .hang, .esc] fun t => Completed s t q c 6 (BitVec.ofNat 128 v.toNat)) ∧
    (¬ waitHolds c.raw v = true → ¬ past → Does (.waitFlag q i) s [.queues] fun t => (∀ p, p ≠ q → t.queue p = s.queue p) ∧
      t.cmd q i = some { c with st := .acting, firstEval := some (c.firstEval.getD s.esc.beat), lastEval := some s.esc.beat
                                value := v }) := by
  intro v past
  obtain rfl := index_of_cmd hcmd
  have hdue := cmdDue_of_arm hst harm hb (by simp [hop])
  have he := (exec_waitFlag_of_cmd hcmd hop).trans (congrArg (done s) (runWait_of_good hdue hlast hfr hoff hgood))
  have hd := cmd_updCmd (f := fun d => d.evaluated (c.firstEval.getD s.esc.beat) s.esc.beat v) rfl hcmd
  refine ⟨fun hh => ?_, fun hh hp => ?_, fun hh hp => ?_⟩
  · rw [if_pos hh] at he
    exact Does.of_complete (by simp) (by simp) (by simp) he ((Frame.refl hc).updCmd (by simp) ..) ((SameRing.refl s q).updCmd ..) rfl
      hd hrep rfl rfl
  · rw [if_neg hh, if_pos hp] at he
    exact Does.of_complete (by simp) (by simp) (by simp) he ((Frame.refl hc).updCmd (by simp) ..) ((SameRing.refl s q).updCmd ..) rfl
      hd hrep rfl rfl
  · rw [if_neg hh, if_neg hp] at he
    exact Does.of_frame he ((Frame.refl hc).updCmd (by simp) ..) ⟨((SameRing.refl s q).updCmd ..).others, hd⟩

omit hfr harm hb in
theorem does_waitFlagTimeout {first : W64} (hop : cmdOp c.raw = 2) (hfirst : c.firstEval = some first) (ht : cmdFld c.raw 48 8 ≠ 0)
    (hpast : first.toNat + cmdFld c.raw 48 8 ≤ s.esc.beat.toNat) (hlast : c.lastEval = some s.esc.beat) :
    Does (.waitFlagTimeout q i) s [.queues, .hang, .esc] fun t => Completed s t q c 6 (BitVec.ofNat 128 c.value.toNat) := by
  have he : exec (.waitFlagTimeout q i) s = done s (s.complete q i 6 (BitVec.ofNat 128 c.value.toNat)) := by
    change execWaitFlagTimeout q i s = _
    simp only [execWaitFlagTimeout, hcmd, hfirst]
    exact (if_pos ⟨hop, ht, hpast⟩).trans (if_pos hlast)
  exact Does.of_complete_self hc (by simp) (by simp) (by simp) hcmd hrep he

/-! ## SET_FLAG (R459) -/

omit hc hcmd hrep in
theorem runSet_guard (hop : cmdOp c.raw = 3) (hst : c.st ≠ .fetched) (hsent : c.sent = false) :
    ¬ (!s.cmdDue c ∨ c.sent = true ∨ s.frozenAs 0x1C00 = true) := by
  simp [cmdDue_of_arm hst harm hb (show cmdOp c.raw ∉ [1, 4, 5, 6] by simp [hop]), hsent, hfr]

theorem does_setFlag_outside (hop : cmdOp c.raw = 3) (hst : c.st ≠ .fetched) (hsent : c.sent = false)
    (hown : gaModule (BitVec.ofNat 64 (cmdFld c.raw 16 8)) = s.moduleId) (hoff : 0x800000 ≤ gaOff (BitVec.ofNat 64 (cmdFld c.raw 16 8)))
    (hcas : cmdFld c.raw 32 1 ≠ 2) : Does (.setFlag q i) s [.queues, .hang, .esc] fun t => Completed s t q c 9 0 := by
  obtain rfl := index_of_cmd hcmd
  have hrun : s.runSet q c = s.complete q c.index 9 := by
    rw [State.runSet]
    refine (if_neg (runSet_guard hfr harm hb hop hst hsent)).trans ?_
    rw [if_neg hcas]
    exact (if_pos hown).trans (if_pos hoff)
  exact Does.of_complete_self hc (by simp) (by simp) (by simp) hcmd hrep ((exec_setFlag_of_cmd hcmd hop).trans (congrArg (done s) hrun))

theorem does_setFlag_own (hop : cmdOp c.raw = 3) (hst : c.st ≠ .fetched) (hsent : c.sent = false)
    (hown : gaModule (BitVec.ofNat 64 (cmdFld c.raw 16 8)) = s.moduleId) :
    let n := gaOff (BitVec.ofNat 64 (cmdFld c.raw 16 8))
    n < 0x800000 → s.flagMark (n / 8) = .good → cmdFld c.raw 32 1 ≠ 2 →
      Does (.setFlag q i) s [.flags, .slice, .queues, .hang, .esc] fun t =>
        Completed s t q c 0 (BitVec.ofNat 128 (s.flag (n / 8)).toNat) ∧ t.slice = { s.slice with running := t.slice.running } ∧
        ∀ k, t.flag k = if k = n / 8 then
          BitVec.ofNat 64 (atomicNew (cmdFld c.raw 32 1) 64 (s.flag (n / 8)).toNat (BitVec.ofNat 64 (cmdFld c.raw 24 8)).toNat 0)
          else s.flag k := by
  intro n hoff hgood hcas
  obtain rfl := index_of_cmd hcmd
  set v := BitVec.ofNat 64 (atomicNew (cmdFld c.raw 32 1) 64 (s.flag (n / 8)).toNat (BitVec.ofNat 64 (cmdFld c.raw 24 8)).toNat 0)
  have hrun : s.runSet q c = (s.flagTaken (n / 8) v).complete q c.index 0 (BitVec.ofNat 128 (s.flag (n / 8)).toNat) := by
    rw [State.runSet]
    refine (if_neg (runSet_guard hfr harm hb hop hst hsent)).trans ?_
    rw [if_neg hcas]
    refine (if_pos hown).trans ((if_neg (Nat.not_le.mpr hoff)).trans ?_)
    simp only [atomicFlag_of_good (s := s) (n := gaOff (BitVec.ofNat 64 (cmdFld c.raw 16 8)) / 8) hgood]
    rfl
  have hcmd' : (s.flagTaken (n / 8) v).cmd q c.index = some c := hcmd
  have hf : Frame [.flags, .slice, .queues, .hang, .esc] s (s.flagTaken (n / 8) v) :=
    ((Frame.refl hc).putFlag (by simp) _ v).flagProgress (by simp) _
  have hend : Frame [.queues, .hang, .esc] (s.flagTaken (n / 8) v) _ := (Frame.refl hf.clean).complete (by simp) (by simp) (by simp) hcmd'
    hrep 0 (BitVec.ofNat 128 (s.flag (n / 8)).toNat)
  have hflags : ((s.flagTaken (n / 8) v).complete q c.index 0 (BitVec.ofNat 128 (s.flag (n / 8)).toNat)).host.flags =
      (s.flagTaken (n / 8) v).host.flags := (hend.same (p := .flags) (by simp)).1
  have hslice : ((s.flagTaken (n / 8) v).complete q c.index 0 (BitVec.ofNat 128 (s.flag (n / 8)).toNat)).slice =
      (s.flagTaken (n / 8) v).slice := hend.same (p := .slice) (by simp)
  have hdone := completed_complete hcmd' hrep 0 (BitVec.ofNat 128 (s.flag (n / 8)).toNat) 0 0 0 s.esc.beat
  refine Does.of_frame ((exec_setFlag_of_cmd hcmd hop).trans (congrArg (done s) hrun)) (hf.complete (by simp) (by simp) (by simp) hcmd'
    hrep 0 _) ⟨hdone.of_sameRing (sameRing_flagTaken ..) rfl rfl rfl, ?_, fun k => ?_⟩
  · rw [endOf_slice, hslice]
    rfl
  · rw [← flag_flagTaken]
    exact congrArg (fun m => aget 0 m k) hflags

omit hrep in
theorem does_setFlag_away (hop : cmdOp c.raw = 3) (hst : c.st ≠ .fetched) (hsent : c.sent = false) :
    let ga := BitVec.ofNat 64 (cmdFld c.raw 16 8)
    gaModule ga ≠ s.moduleId → cmdFld c.raw 32 1 ≠ 2 → bitOf (s.route (gaModule ga)) 42 = true →
      bitOf (s.route (gaModule ga)) 40 = true → Does (.setFlag q i) s [.queues, .fab] fun t => t.cmd q i = some { c with st := .acting, sent := true } ∧
        ∃ w, t.fab.waiting = s.fab.waiting ++ [w] ∧ w.src = .engine (0x1C00 + 2 ^ 16 * (q + 8192 * i)) ∧ w.pkt.op = .atomic ∧
          w.pkt.cls = 0 ∧ w.pkt.addr = ga ∧ w.pkt.aop = cmdFld c.raw 32 1 ∧ w.pkt.aw = 3 ∧ w.pkt.srcTile = 0x1C00 := by
  intro ga haway hcas hvalid hdirect
  obtain rfl := index_of_cmd hcmd
  have hroute : ¬ ((!bitOf (s.route (gaModule ga)) 42) = true ∨ (!bitOf (s.route (gaModule ga)) 40) = true) := by
    simp [hvalid, hdirect]
  have hrun : s.runSet q c =
      (s.updCmd q c.index fun d => { d with st := .acting, sent := true }).toEdge (s.flagAtomic c.raw) (dispSrc q c.index) := by
    rw [State.runSet]
    refine (if_neg (runSet_guard hfr harm hb hop hst hsent)).trans ?_
    rw [if_neg hcas]
    exact (if_neg haway).trans (if_neg hroute)
  have hd := cmd_updCmd (f := fun d => { d with st := .acting, sent := true }) rfl hcmd
  exact Does.of_frame ((exec_setFlag_of_cmd hcmd hop).trans (congrArg (done s) hrun))
    (((Frame.refl hc).updCmd (by simp) ..).toEdge (by simp) ..) ⟨hd, _, rfl, rfl, rfl, rfl, rfl, rfl, rfl, rfl⟩

end

/-! ## FENCE (R306, R461) -/

/-- The entries of the lines are queued for eviction. -/
def State.evicting (s : State) (ls : List (Nat × Nat)) : State :=
  ls.foldl (fun s l => s.updChan l.1 fun x => if (x.entry l.2).isSome then x.queueEvict l.2 else x) s

theorem entry_isSome (x : Chan) (a : Nat) : (x.entry a).isSome = true ↔ ∃ w ∈ x.wcb, w.addr = a := by
  simp [Chan.entry, List.find?_isSome]

theorem queueEvict_wcb (x : Chan) (a : Nat) : (x.queueEvict a).wcb = x.wcb := by
  rw [Chan.queueEvict]
  split <;> rfl

theorem queueEvict_writes_subset (x : Chan) (a : Nat) : x.writes ⊆ (x.queueEvict a).writes := by
  rw [Chan.queueEvict]
  split
  · exact List.Subset.refl _
  · exact List.subset_append_left ..

theorem queueEvict_evicts (x : Chan) (a : Nat) : ∃ e ∈ (x.queueEvict a).writes, e.req.op = .evict ∧ e.req.addr = a := by
  rw [Chan.queueEvict]
  split
  next h =>
    obtain ⟨e, he, hop⟩ := List.any_eq_true.mp h
    exact ⟨e, he, by simpa using hop⟩
  next => exact ⟨_, List.mem_append_right _ (List.mem_singleton_self _), rfl, rfl⟩

/-- One step of `evicting` keeps the entries, and every request that waits. -/
theorem chan_evict (k a n : Nat) : let t := s.updChan k fun x => if (x.entry a).isSome then x.queueEvict a else x
    (t.chan n).wcb = (s.chan n).wcb ∧ (s.chan n).writes ⊆ (t.chan n).writes := by
  intro t
  have ht : t.chan n = if n = k then (if ((s.chan k).entry a).isSome then (s.chan k).queueEvict a else s.chan k) else s.chan n :=
    State.chan_updChan ..
  rw [ht]
  split
  next h =>
    subst h
    split
    · exact ⟨queueEvict_wcb .., queueEvict_writes_subset ..⟩
    · exact ⟨rfl, List.Subset.refl _⟩
  next => exact ⟨rfl, List.Subset.refl _⟩

theorem writes_evicting (ls : List (Nat × Nat)) (n : Nat) : (s.chan n).writes ⊆ ((s.evicting ls).chan n).writes := by
  induction ls generalizing s with
  | nil => exact List.Subset.refl _
  | cons l ls ih => exact List.Subset.trans (chan_evict l.1 l.2 n).2 ih

theorem evicting_evicts {ls : List (Nat × Nat)} {l : Nat × Nat} (hl : l ∈ ls) (hw : ∃ w ∈ (s.chan l.1).wcb, w.addr = l.2) :
    ∃ e ∈ ((s.evicting ls).chan l.1).writes, e.req.op = .evict ∧ e.req.addr = l.2 := by
  induction ls generalizing s with
  | nil => simp at hl
  | cons m ls ih =>
    rcases List.mem_cons.mp hl with rfl | hl
    · obtain ⟨e, he, hop⟩ := queueEvict_evicts (s.chan l.1) l.2
      have hchan : (s.updChan l.1 fun x => if (x.entry l.2).isSome then x.queueEvict l.2 else x).chan l.1 = (s.chan l.1).queueEvict l.2 := by
        rw [State.chan_updChan, if_pos rfl, if_pos ((entry_isSome ..).mpr hw)]
      exact ⟨e, writes_evicting ls l.1 (hchan ▸ he), hop⟩
    · exact ih hl (by rwa [(chan_evict m.1 m.2 l.1).1])

theorem Frame.evicting (h : Frame l s t) (hl : .chans ∈ l) (ls : List (Nat × Nat)) : Frame l s (t.evicting ls) :=
  h.foldl (fun _ _ hf => hf.updChan hl ..) ls

theorem evicting_host (ls : List (Nat × Nat)) : (s.evicting ls).host = s.host := by
  induction ls generalizing s with
  | nil => rfl
  | cons l ls ih => exact ih

/-- Whether something that a FENCE waits for is still to come. -/
def State.fenced (s : State) (c : Cmd) : Prop :=
  (∃ w ∈ c.waits, s.cmd w.1 w.2 ≠ none) ∨ ∃ l ∈ c.lines, ∃ w ∈ (s.chan l.1).wcb, w.addr = l.2

theorem fenced_iff (s : State) (c : Cmd) : (c.waits.any (fun w => (s.cmd w.1 w.2).isSome) = true ∨
    c.lines.any (fun l => (s.chan l.1).wcb.any fun w => w.addr == l.2) = true) ↔ s.fenced c := by
  simp [State.fenced, List.any_eq_true, Option.isSome_iff_ne_none]

section
variable (hc : Clean s) (hfr : s.frozenAs 0x1C00 = false) (hcmd : s.cmd q i = some c) (hrep : c.replay = false) (harm : c.arm = some b)
  (hb : b.toNat ≤ s.esc.beat.toNat) (hst : c.st ≠ .fetched)
include hc hfr hcmd hrep harm hb hst

omit hc hcmd hrep in
theorem dispatcher_guard (hop : cmdOp c.raw ∉ [1, 4, 5, 6]) : ¬ (!s.cmdDue c ∨ s.frozenAs 0x1C00 = true) := by
  simp [cmdDue_of_arm hst harm hb hop, hfr]

theorem does_fence_over (hop : cmdOp c.raw = 9) (hnot : ¬ s.fenced c) :
    Does (.fence q i) s [.queues, .hang, .esc] fun t => Completed s t q c 0 0 := by
  obtain rfl := index_of_cmd hcmd
  have hrun : s.runFence q c = s.complete q c.index 0 := by
    rw [State.runFence]
    exact (if_neg (dispatcher_guard hfr harm hb hst (by simp [hop]))).trans (if_neg (mt (fenced_iff s c).mp hnot))
  exact Does.of_complete_self hc (by simp) (by simp) (by simp) hcmd hrep ((exec_fence_of_cmd hcmd hop).trans (congrArg (done s) hrun))

omit hrep in
theorem does_fence_held (hop : cmdOp c.raw = 9) (hheld : s.fenced c) : Does (.fence q i) s [.queues, .chans] fun t =>
    t.cmd q i = some { c with st := .acting } ∧ t.host.out = s.host.out ∧ t.host.held = s.host.held ∧
    ∀ l ∈ c.lines, (∃ w ∈ (s.chan l.1).wcb, w.addr = l.2) →
      ∃ e ∈ (t.chan l.1).writes, e.req.op = .evict ∧ e.req.addr = l.2 := by
  obtain rfl := index_of_cmd hcmd
  have hrun : s.runFence q c = (s.evicting c.lines).updCmd q c.index fun d => { d with st := .acting } := by
    rw [State.runFence]
    exact (if_neg (dispatcher_guard hfr harm hb hst (by simp [hop]))).trans (if_pos ((fenced_iff s c).mpr hheld))
  have hhost := evicting_host (s := s) c.lines
  have hout : (s.evicting c.lines).host.out = s.host.out := by rw [hhost]
  have hheldRecords : (s.evicting c.lines).host.held = s.host.held := by rw [hhost]
  have hcmd' : (s.evicting c.lines).cmd q c.index = some c := by
    rw [← hcmd]
    exact cmd_of_queue (by rw [State.queue, State.queue, hhost]) _
  refine Does.of_frame ((exec_fence_of_cmd hcmd hop).trans (congrArg (done s) hrun))
    (((Frame.refl hc).evicting (by simp) _).updCmd (by simp) ..)
    ⟨cmd_updCmd (f := fun d => { d with st := .acting }) rfl hcmd', hout, hheldRecords,
      fun l hl hw => evicting_evicts hl hw⟩

end

/-! ## STATUS (R441, R462) -/

theorem leBytes_take (n m v : Nat) : (leBytes (n + m) v).take n = leBytes n v := by
  induction n generalizing v with
  | zero => rfl
  | succ n ih => rw [show n + 1 + m = (n + m) + 1 by omega, leBytes, leBytes, List.take_succ_cons, ih]

/-- A record's bytes 16 to 23 are the low 8 bytes of its body. -/
theorem recordBytes_body (r : Record) (size : Nat) : (((recordBytes r size).drop 8).drop 8).take 8 = leBytes 8 r.body.toNat := by
  rw [List.drop_drop, recordBytes, List.drop_left' (by simp), flitBytes]
  exact leBytes_take 8 8 _

/-- STEP of the newest record and its bytes, as the mirror gives them (R471). -/
def State.newestRecord (s : State) : W64 × List Byte :=
  match s.train.newest with | some (n, bs) => (n, bs) | none => (BitVec.ofNat 64 (2 ^ 64 - 1), [])

/-- The registers of a mirror behind SEQ_BEGIN, in their order (R471). -/
def State.mirrorWords (s : State) : List W64 :=
  [s.esc.beat, s.slice.step, s.esc.now, s.esc.status, s.esc.lateness, s.slice.status, s.cfg.loadStatus, s.ratchetReg, s.nan.rec0,
    s.memStatus, s.fab.status, s.portsUp, s.hostStatus, s.rasStatus, s.newestRecord.1]

/-- A mirror between SEQ_BEGIN and SEQ_END (R471). -/
def State.mirrorBody (s : State) : List Byte :=
  s.mirrorWords.flatMap (fun v => leBytes 8 v.toNat) ++ leBytes 4 s.newestRecord.2.length ++ List.replicate 124 0#8
    ++ (s.newestRecord.2 ++ List.replicate (4096 - s.newestRecord.2.length) 0#8) ++ List.replicate 0xEF8 0#8

theorem mirrorBytes_eq (s : State) (seq : W64) :
    s.mirrorBytes seq = leBytes 8 seq.toNat ++ s.mirrorBody ++ leBytes 8 seq.toNat := by
  have he : s.mirrorBytes seq = leBytes 8 seq.toNat ++ leBytes 8 s.esc.beat.toNat ++ _ ++ _ ++ _ ++ _ ++ _ ++ _ ++ _ ++ _ ++ _ ++ _ ++
    _ ++ _ ++ _ ++ leBytes 8 s.newestRecord.1.toNat ++ leBytes 4 s.newestRecord.2.length ++ List.replicate 124 0#8 ++
    (s.newestRecord.2 ++ List.replicate (4096 - s.newestRecord.2.length) 0#8) ++ List.replicate 0xEF8 0#8 ++ leBytes 8 seq.toNat := rfl
  rw [he, State.mirrorBody, State.mirrorWords]
  simp only [List.flatMap_cons, List.flatMap_nil, List.append_assoc, List.nil_append]

theorem mirrorBody_length (h : s.newestRecord.2.length ≤ 4096) : s.mirrorBody.length = 0x1FF0 := by
  have hwords : (s.mirrorWords.flatMap fun v => leBytes 8 v.toNat).length = 120 := by
    simp [State.mirrorWords]
  simp only [State.mirrorBody, List.length_append, hwords, leBytes_length, List.length_replicate]
  omega

theorem newestRecord_length (h : s.train.newest.all (fun r => decide (r.2.length ≤ 4096)) = true) :
    s.newestRecord.2.length ≤ 4096 := by
  rw [State.newestRecord]
  split
  next n bs hr => simpa [hr] using h
  next => exact Nat.zero_le _

/-- The writes of a mirror, SEQ_BEGIN first and SEQ_END last (R472). -/
theorem writeMirror_out (h : s.newestRecord.2.length ≤ 4096) : s.writeMirror.host.out = s.host.out ++
    [{ addr := s.host.mirrorAddr, bytes := leBytes 8 (s.host.mirrorSeq + 1).toNat },
      { addr := s.host.mirrorAddr + 8, bytes := s.mirrorBody },
      { addr := s.host.mirrorAddr + 0x1FF8, bytes := leBytes 8 (s.host.mirrorSeq + 1).toNat }] := by
  have hout : s.writeMirror.host.out = s.host.out ++ [_] ++ [_] ++ [_] := rfl
  have hlen := mirrorBody_length h
  have hfirst : (s.mirrorBytes (s.host.mirrorSeq + 1)).take 8 = leBytes 8 (s.host.mirrorSeq + 1).toNat := by
    rw [mirrorBytes_eq, List.append_assoc, List.take_left' (leBytes_length ..)]
  have hbody : ((s.mirrorBytes (s.host.mirrorSeq + 1)).drop 8).take 0x1FF0 = s.mirrorBody := by
    rw [mirrorBytes_eq, List.append_assoc, List.drop_left' (leBytes_length ..), List.take_left' hlen]
  have hlast : (s.mirrorBytes (s.host.mirrorSeq + 1)).drop 0x1FF8 = leBytes 8 (s.host.mirrorSeq + 1).toNat := by
    rw [mirrorBytes_eq, List.drop_left' (by rw [List.length_append, leBytes_length, hlen])]
  rw [hout, hfirst, hbody, hlast, List.append_assoc, List.append_assoc]
  rfl

theorem writeMirror_recordNow (s : State) : s.writeMirror.recordNow = s.recordNow := by
  rw [State.writeMirror]
  rfl

theorem idleBody_of_ne {raw : Line} (h : cmdOp raw ≠ 6) : idleBody raw = 0 := if_neg h

section
variable (hc : Clean s) (hfr : s.frozenAs 0x1C00 = false) (hcmd : s.cmd q i = some c) (hrep : c.replay = false) (harm : c.arm = some b)
  (hb : b.toNat ≤ s.esc.beat.toNat) (hst : c.st ≠ .fetched)
include hc hfr hcmd hrep harm hb hst

theorem does_status (hop : cmdOp c.raw = 10) (hnow : s.mirrorNow = true)
    (hrec : s.train.newest.all (fun r => decide (r.2.length ≤ 4096)) = true) :
    Does (.status q i) s [.host, .queues, .hang, .esc] fun t =>
      t.host.mirrorSeq = s.host.mirrorSeq + 1 ∧ t.cmd q i = none ∧
      ∃ w1 w2 w3 r1 r2, t.host.out = s.host.out ++ [w1, w2, w3, r1, r2] ∧
        w1 = { addr := s.host.mirrorAddr, bytes := leBytes 8 (s.host.mirrorSeq + 1).toNat } ∧
        w3 = { addr := s.host.mirrorAddr + 0x1FF8, bytes := leBytes 8 (s.host.mirrorSeq + 1).toNat } ∧
        w2.addr = s.host.mirrorAddr + 8 ∧ (r1.bytes.drop 8).take 8 = leBytes 8 (s.host.mirrorSeq + 1).toNat := by
  obtain rfl := index_of_cmd hcmd
  set seq := s.host.mirrorSeq + 1 with hseq
  have hrun : s.runStatus q c = s.writeMirror.complete q c.index 0 (BitVec.ofNat 128 seq.toNat) := by
    rw [State.runStatus]
    refine (if_neg (dispatcher_guard hfr harm hb hst (by simp [hop]))).trans ?_
    rw [hrep, hnow]
    rfl
  have hqueue : s.writeMirror.queue q = s.queue q := by
    rw [State.writeMirror]
    rfl
  have hcmd' : s.writeMirror.cmd q c.index = some c := (cmd_of_queue hqueue _).trans hcmd
  have hf : Frame [.host, .queues, .hang, .esc] s s.writeMirror := (Frame.refl hc).writeMirror (by simp) (by simp)
  have hend : Frame [.queues, .hang, .esc] s.writeMirror _ := (Frame.refl hf.clean).complete (by simp) (by simp) (by simp) hcmd'
    hrep 0 (BitVec.ofNat 128 seq.toNat)
  have hhost := hend.same (p := .host) (by simp)
  obtain ⟨hgone, -, hrecorded, -⟩ := completed_complete hcmd' hrep 0 (BitVec.ofNat 128 seq.toNat) 0 0 0 s.esc.beat
  have hready : s.writeMirror.recordNow = true := by
    have hr : s.recordNow = true := by
      rw [State.mirrorNow, Bool.and_eq_true] at hnow
      exact hnow.1
    rw [writeMirror_recordNow, hr]
  obtain ⟨-, hout, -⟩ := hrecorded hready
  rw [writeMirror_out (newestRecord_length hrec), List.append_assoc] at hout
  refine Does.of_frame ((exec_status_of_cmd hcmd hop).trans (congrArg (done s) hrun)) (hf.complete (by simp) (by simp) (by simp) hcmd'
    hrep 0 _) ⟨?_, hgone, _, { addr := s.host.mirrorAddr + 8, bytes := s.mirrorBody }, _, _, _, hout, rfl, rfl, rfl, ?_⟩
  · exact congrArg HostIf.mirrorSeq hhost
  · rw [recordBytes_body, idleBody_of_ne (by omega), ite_eq_right_iff.mpr Eq.symm, BitVec.toNat_ofNat, Nat.mod_eq_of_lt (by omega)]

omit hfr harm hb hst in
theorem does_status_waits (hop : cmdOp c.raw = 10) (hnow : s.mirrorNow = false) : Does (.status q i) s [] fun _ => True := by
  have hrun : s.runStatus q c = s := by
    rw [State.runStatus, hrep, hnow]
    exact ite_eq_left_iff.mpr fun _ => rfl
  exact Does.of_idle hc ((exec_status_of_cmd hcmd hop).trans (congrArg (done s) hrun))

end

/-! ## ABORT (R282, R467) -/

/-- An ABORT of one command is due from its arm beat on, where its target's queue is no suspect of a hang. -/
theorem runAbort_of_one (hst : c.st = .dispatched) (harm : c.arm = some b) (hb : b.toNat ≤ s.esc.beat.toNat)
    (hsus : s.suspect (cmdFld c.raw 16 2) = false) (hfr : s.frozenAs 0x1C00 = false) (hone : cmdFld c.raw 24 1 = 0) :
    let a := s.abortOne q c.index (cmdFld c.raw 16 2) (cmdFld c.raw 20 4)
    s.runAbort q c = a.2.complete q c.index
      (if (if a.1 = 1 then 1 else 0) ≠ 0 then 1 else if (if a.1 = 2 then 1 else 0) ≠ 0 then 3 else 2)
      (BitVec.ofNat 128 (if a.1 = 1 then 1 else 0)) := by
  intro a
  have hb' : b.toNat ≤ s.beat.toNat := hb
  have hdue : s.abortDue c = true := by simp [State.abortDue, hst, harm, hb', hsus]
  have hguard : ¬ (!s.abortDue c ∨ s.frozenAs 0x1C00 = true) := by simp [hdue, hfr]
  unfold State.runAbort
  rw [if_neg hguard]
  extract_lets tq ti ts
  have hts : ts = [ti] := if_pos hone
  rw [hts, List.foldl_cons, List.foldl_nil]
  simp only [Nat.zero_add]
  rfl

section
variable {tq ti : Nat} (hended : s.ras.haltEnded = []) (hne : tq ≠ q)
include hended hne

/-- Nothing is aborted in a queue that holds no commands. -/
theorem abortOne_of_disabled (hdis : (s.queue tq).st = 0) (hnone : s.cmd tq ti = none) : s.abortOne q i tq ti = (0, s) := by
  rw [State.abortOne, hended, if_neg (by simp), if_neg (by simp [hne]), hnone]
  exact if_neg (by simp [hdis])

/-- A SET_FLAG that has not completed is aborted. -/
theorem abortOne_of_setFlag {d : Cmd} (hd : s.cmd tq ti = some d) (hop : cmdOp d.raw = 3) (hslot : s.launchSlot tq ti = none)
    (hfin : s.finished tq ti = none) : s.abortOne q i tq ti = (1, s.complete tq ti 1) := by
  obtain rfl := index_of_cmd hd
  have hcancel : s.cancel tq d 1 = s.complete tq d.index 1 := by simp only [State.cancel, hop]
  rw [State.abortOne, hended, if_neg (by simp), if_neg (by simp [hne]), hd]
  simp only [hslot, hop, hfin, hcancel]
  rfl

end

theorem complete_beat (h : s.cmd q i = some c) (hr : c.replay = false) (status : Nat) (body : Flit) :
    (s.complete q i status body).esc.beat = s.esc.beat := by
  obtain ⟨f, hf⟩ := complete_eq h hr status body 0 0 0 s.beat
  rw [hf, State.report]
  split <;> rfl

theorem held_of_completed {status : Nat} {body : Flit} {nc ab dv : Nat} {beat : W64} (h : Completed s t q c status body nc ab dv beat)
    (hnow : s.recordNow = false) : t.host.held = s.host.held ++ [c.record q c.index status body nc ab dv beat] := by
  obtain ⟨-, -, -, hlater⟩ := h
  exact (hlater hnow).1

/-- The record of a command other than a CHECKPOINT has the body that it was given. -/
theorem record_of_ne (h : cmdOp c.raw ≠ 6) (q i status : Nat) (body : Flit) (nc ab dv : Nat) (beat : W64) :
    c.record q i status body nc ab dv beat = { q := q, index := i, opcode := cmdOp c.raw, status := status, user := cmdFld c.raw 4 2
                                               notConv := nc, abandoned := ab, diverged := dv, beat := beat, body := body, tag := c.tag } := by
  rw [Cmd.record, idleBody_of_ne h, ite_eq_right_iff.mpr Eq.symm]

theorem recordNow_of_same (h : Piece.host.same s t) : t.recordNow = s.recordNow := by
  simp only [Piece.same] at h
  have hmaster : t.host.busMaster = s.host.busMaster := by simpa using congrArg HostIf.busMaster h
  have hd0 : t.host.d0 = s.host.d0 := by simpa using congrArg HostIf.d0 h
  have hdue : t.host.dmaDue = s.host.dmaDue := by simpa using congrArg HostIf.dmaDue h
  rw [State.recordNow, State.recordNow, State.dmaOk, State.dmaOk, hmaster, hd0, hdue]

/-- An ABORT that has aborted its target, a SET_FLAG of another queue, completes itself with the count 1. -/
theorem does_abort_counted {d : Cmd} {tq : Nat}
    (hrun : exec (.abort q c.index) s = done s (u.complete q c.index 1 (BitVec.ofNat 128 1))) (hcmd : s.cmd q c.index = some c)
    (hrep : c.replay = false) (hop : cmdOp c.raw = 8) (hne : tq ≠ q) (hdop : cmdOp d.raw = 3) (hi : d.index = i)
    (hfirst : Completed s u tq d 1 0) (hf : Frame [.queues, .hang, .esc] s u) (hbeat : u.esc.beat = s.esc.beat) :
    Does (.abort q c.index) s [.queues, .hang, .esc] fun t => t.cmd tq i = none ∧ t.cmd q c.index = none ∧
      (s.dmaOk = false → t.host.held.drop s.host.held.length =
        [{ q := tq, index := i, opcode := 3, status := 1, user := cmdFld d.raw 4 2, notConv := 0
           abandoned := 0, diverged := 0, beat := s.esc.beat, body := 0, tag := d.tag },
         { q := q, index := c.index, opcode := 8, status := 1, user := cmdFld c.raw 4 2, notConv := 0, abandoned := 0, diverged := 0
           beat := s.esc.beat, body := 1, tag := c.tag }]) := by
  have hb : u.beat = s.esc.beat := hbeat
  have hgone : u.cmd tq i = none := hi ▸ hfirst.gone
  have hcmd' : u.cmd q c.index = some c := (cmd_of_queue (hfirst.others (Ne.symm hne)) _).trans hcmd
  have hsecond := completed_complete hcmd' hrep 1 (BitVec.ofNat 128 1) 0 0 0 u.beat
  refine Does.of_frame hrun (hf.complete (by simp) (by simp) (by simp) hcmd' hrep 1 _)
    ⟨(cmd_of_queue (hsecond.others hne) _).trans hgone, hsecond.gone, fun hdma => ?_⟩
  have hlater : s.recordNow = false := by rw [State.recordNow, hdma, Bool.false_and]
  have hlater' : u.recordNow = false := (recordNow_of_same (hf.same (by simp))).trans hlater
  have hheld := held_of_completed hsecond hlater'
  rw [held_of_completed hfirst hlater, List.append_assoc, hi, record_of_ne (by omega), record_of_ne (by omega), hdop, hop,
    hb] at hheld
  rw [endOf_host, hb, hheld]
  exact List.drop_left

section
variable (hc : Clean s) (hfr : s.frozenAs 0x1C00 = false) (hcmd : s.cmd q i = some c) (hrep : c.replay = false) (harm : c.arm = some b)
  (hb : b.toNat ≤ s.esc.beat.toNat) (hop : cmdOp c.raw = 8) (hst : c.st = .dispatched) (hone : cmdFld c.raw 24 1 = 0)
  (hended : s.ras.haltEnded = []) (hsus : s.suspect (cmdFld c.raw 16 2) = false) (hne : cmdFld c.raw 16 2 ≠ q)
include hc hfr hcmd hrep harm hb hop hst hone hended hsus hne

theorem does_abort_nothing (hdis : (s.queue (cmdFld c.raw 16 2)).st = 0) (hnone : s.cmd (cmdFld c.raw 16 2) (cmdFld c.raw 20 4) = none) :
    Does (.abort q i) s [.queues, .hang, .esc] fun t => Completed s t q c 2 0 := by
  obtain rfl := index_of_cmd hcmd
  have hrun := runAbort_of_one (q := q) hst harm hb hsus hfr hone
  rw [abortOne_of_disabled hended hne hdis hnone] at hrun
  exact Does.of_complete_self hc (by simp) (by simp) (by simp) hcmd hrep ((exec_abort_of_cmd hcmd hop).trans (congrArg (done s) hrun))

theorem does_abort_setFlag {d : Cmd} (hd : s.cmd (cmdFld c.raw 16 2) (cmdFld c.raw 20 4) = some d) (hdop : cmdOp d.raw = 3)
    (hdrep : d.replay = false) (hslot : s.launchSlot (cmdFld c.raw 16 2) (cmdFld c.raw 20 4) = none)
    (hfin : s.finished (cmdFld c.raw 16 2) (cmdFld c.raw 20 4) = none) :
    Does (.abort q i) s [.queues, .hang, .esc] fun t =>
      t.cmd (cmdFld c.raw 16 2) (cmdFld c.raw 20 4) = none ∧ t.cmd q i = none ∧
      (s.dmaOk = false → t.host.held.drop s.host.held.length =
        [{ q := cmdFld c.raw 16 2, index := cmdFld c.raw 20 4, opcode := 3, status := 1, user := cmdFld d.raw 4 2, notConv := 0
           abandoned := 0, diverged := 0, beat := s.esc.beat, body := 0, tag := d.tag },
         { q := q, index := i, opcode := 8, status := 1, user := cmdFld c.raw 4 2, notConv := 0, abandoned := 0, diverged := 0
           beat := s.esc.beat, body := 1, tag := c.tag }]) := by
  obtain rfl := index_of_cmd hcmd
  have hrun := runAbort_of_one (q := q) hst harm hb hsus hfr hone
  rw [abortOne_of_setFlag hended hne hd hdop hslot hfin] at hrun
  exact does_abort_counted ((exec_abort_of_cmd hcmd hop).trans (congrArg (done s) hrun)) hcmd hrep hop hne hdop (index_of_cmd hd)
    (completed_complete hd hdrep 1 0 0 0 0 s.esc.beat)
    ((Frame.refl hc).complete (by simp) (by simp) (by simp) hd hdrep 1 0) (complete_beat hd hdrep 1 0)

end

/-- Settles O50: each clause is the lemma of its command's case. -/
theorem flagAndControlCommands : Obligations.FlagAndControlCommands := by
  unfold Obligations.FlagAndControlCommands
  intro s q i c b first hc hfr hcmd hrep harm hb ends off v m l r cond holds timeout past
  refine ⟨fun hop hst hlast => ⟨does_waitFlag_outside hc hfr hcmd hrep harm hb hop hst hlast, fun hoff hgood => ?wait⟩,
    fun hop hfirst ht hpast hlast => does_waitFlagTimeout hc hcmd hrep hop hfirst ht hpast hlast,
    fun hop hst hsent => ⟨does_setFlag_outside hc hfr hcmd hrep harm hb hop hst hsent,
      does_setFlag_own hc hfr hcmd hrep harm hb hop hst hsent, does_setFlag_away hc hfr hcmd harm hb hop hst hsent⟩,
    fun hop hst => ⟨does_fence_over hc hfr hcmd hrep harm hb hst hop, does_fence_held hc hfr hcmd harm hb hst hop⟩,
    fun hop hst hnow hrec => does_status hc hfr hcmd hrep harm hb hst hop hnow hrec, does_status_waits hc hcmd hrep,
    fun hop hst hone hended hsus => ⟨does_abort_nothing hc hfr hcmd hrep harm hb hop hst hone hended hsus, fun d hne =>
      does_abort_setFlag hc hfr hcmd hrep harm hb hop hst hone hended hsus hne⟩⟩
  case wait =>
    have hiff : waitHolds c.raw v = true ↔ holds := waitHolds_iff c.raw v
    obtain ⟨hnow, hover, hlater⟩ := does_waitFlag_good hc hfr hcmd hrep harm hb hop hst hlast hoff hgood
    exact ⟨fun h => hnow (hiff.mpr h), fun h => hover (mt hiff.mp h), fun h => hlater (mt hiff.mp h)⟩

end Sys2Proof.Machine
end

section
/-! Doorbells, the states of a queue, the fetch of commands and their dispatch (R278, R279, R282, R288, R447 to R457, R480), and obligation
O49 from these. -/

namespace Sys2Proof.Machine

variable {s t u : State} {l : List Piece} {q i tag : Nat} {c : Cmd}

/-! ## What one queue's update leaves -/

/-- From `s` to `t` no queue but `q` has changed. -/
def OnlyQueue (s t : State) (q : Nat) : Prop := ∀ p, p ≠ q → t.queue p = s.queue p

theorem onlyQueue_updQueue (f : Queue → Queue) : OnlyQueue s (s.updQueue q f) q := fun p hp => by rw [State.queue_updQueue, if_neg hp]

theorem queue_updQueue_self (f : Queue → Queue) : (s.updQueue q f).queue q = f (s.queue q) := by rw [State.queue_updQueue, if_pos rfl]

/-- A command whose meaning is the update of one queue. -/
theorem Does.of_updQueue {instr : Instr} {f : Queue → Queue} {x : Queue} (hc : Clean s) (he : exec instr s = done s (s.updQueue q f))
    (hx : f (s.queue q) = x) : Does instr s [.queues] fun t => OnlyQueue s t q ∧ t.queue q = x :=
  Does.of_frame he ((Frame.refl hc).updQueue (by simp) q f) ⟨onlyQueue_updQueue f, (queue_updQueue_self f).trans hx⟩

/-! ## Doorbells (R448) -/

/-- The queue after TAIL has been written. -/
def Queue.rung (x : Queue) (tail : W32) : Queue :=
  if (tail.toNat + 2 ^ 32 - x.oldest) % 2 ^ 32 ≤ x.size then { x with tail := tail } else { x with overrun := true }

/-- The write of a doorbell. -/
def bellOf (q : Nat) (tail : W32) : Landed := { path := .bar0, offset := 0x400000 + 8 * q, value := tail.setWidth 64 }

theorem qTail_eq (s : State) (q : Nat) (tail : W32) : s.qTail q tail = s.updQueue q fun x => x.rung tail := by
  rw [State.qTail]
  congr 1
  funext x
  rw [Queue.rung]
  split
  next h => rw [if_neg (Nat.not_le.mpr h)]
  next h => rw [if_pos (Nat.not_lt.mp h)]

theorem writeReg_doorbell (hq : q < 8192) (tail : W32) :
    s.writeReg (0x400000 + 8 * q) (tail.setWidth 64) = s.updQueue q fun x => x.rung tail := by
  have hblock : (0x400000 + 8 * q) / 0x10000 = 0x40 := by omega
  have hindex : (0x400000 + 8 * q) % 0x10000 / 8 = q := by omega
  have htail : BitVec.ofNat 32 (tail.setWidth 64).toNat = tail := by
    apply BitVec.eq_of_toNat_eq
    rw [BitVec.toNat_ofNat, BitVec.toNat_setWidth]
    omega
  rw [State.writeReg]
  refine (if_neg (by omega)).trans ?_
  simp only [hblock, hindex, htail]
  exact qTail_eq s q tail

theorem actLanded_bell (hq : q < 8192) (tail : W32) : s.actLanded (bellOf q tail) = s.updQueue q fun x => x.rung tail := by
  rw [State.actLanded, bellOf]
  exact (if_neg (by dsimp only; omega)).trans (writeReg_doorbell hq tail)

theorem exec_qDoorbell (hq : q < 8192) (tail : W32) : exec (.qDoorbell q tail) s =
    done s (if s.synced then s.addLanded (bellOf q tail) else s.updQueue q fun x => x.rung tail) := by
  refine (if_pos hq).trans (congrArg (done s) ?_)
  cases hs : s.synced
  · rw [land_of_not_synced hs _ (by omega), writeReg_doorbell hq]
    rfl
  · rw [land_of_synced hs _ (by omega)]
    rfl

theorem does_qDoorbell (hc : Clean s) (hq : q < 8192) (tail : W32) :
    (s.synced = false → Does (.qDoorbell q tail) s [.queues] fun t => OnlyQueue s t q ∧ t.queue q = (s.queue q).rung tail) ∧
    (s.synced = true → Does (.qDoorbell q tail) s [.landed] fun t => t.host.landed = s.host.landed ++ [bellOf q tail]) := by
  have he := exec_qDoorbell (s := s) hq tail
  refine ⟨fun hs => ?_, fun hs => ?_⟩
  · rw [if_neg (by rw [hs]; exact Bool.false_ne_true)] at he
    exact Does.of_updQueue hc he rfl
  · rw [if_pos hs] at he
    exact Does.of_frame he ((Frame.refl hc).addLanded (by simp) _) rfl

/-! ## The states of a queue (R450, R451) -/

theorem does_unblock (hc : Clean s) : Does (.unblock q) s [.queues] fun t => OnlyQueue s t q ∧
    t.queue q = if (s.queue q).st = 2 then { s.queue q with st := 1 } else s.queue q :=
  Does.of_updQueue hc (f := fun x => if x.st = 2 then { x with st := 1 } else x) rfl rfl

theorem exec_enableQueue (v : W64) : exec (.enableQueue q v) s = done s (s.qCfg q v) := rfl

/-- A queue after its reset, from index 0. -/
def Queue.enabled (x : Queue) (cfg : W64) : Queue :=
  { x with st := 1, cfg := cfg, tail := 0, oldest := 0, fetched := 0, cmds := [], recorded := [], doomed := [] }

theorem qCfg_enable {v : W64} (hst : (s.queue q).st = 0) (hv : bitOf v 0 = true) : ∃ cfg : W64,
    s.qCfg q v = s.updQueue q (fun _ => (s.queue q).enabled cfg) ∧ bitOf cfg 0 = true ∧ fld cfg 1 5 = fld v 1 5 := by
  have hsize : ∀ w : W64, fld (setBit w 0 true) 1 5 = fld w 1 5 := fun w => fld_setBit_ne _ _ _ _ _ (by omega) (by omega)
  rw [State.qCfg]
  by_cases hs : fld v 1 5 = fld (s.queue q).cfg 1 5
  · refine ⟨setBit (s.queue q).cfg 0 true, ?_, bitOf_setBit _ _ _ (by omega), (hsize _).trans hs.symm⟩
    simp [hs, hst, hv, Queue.enabled]
  · refine ⟨setBit (setFld (s.queue q).cfg 1 5 (fld v 1 5)) 0 true, ?_, bitOf_setBit _ _ _ (by omega), ?_⟩
    · simp [hs, hst, hv, Queue.enabled]
    · rw [hsize, fld_setFld _ _ _ _ (by omega)]
      exact Nat.mod_eq_of_lt (Nat.mod_lt _ (by norm_num))

theorem does_enable (hc : Clean s) {v : W64} (hst : (s.queue q).st = 0) (hv : bitOf v 0 = true) :
    Does (.enableQueue q v) s [.queues] fun t => OnlyQueue s t q ∧ t.queue q = (s.queue q).enabled (t.queue q).cfg ∧
      bitOf (t.queue q).cfg 0 = true ∧ fld (t.queue q).cfg 1 5 = fld v 1 5 := by
  obtain ⟨cfg, hrun, hbit, hsize⟩ := qCfg_enable hst hv
  refine (Does.of_updQueue hc ((exec_enableQueue v).trans (congrArg (done s) hrun)) rfl).imp fun t ⟨honly, hq⟩ => ?_
  rw [hq]
  exact ⟨honly, rfl, hbit, hsize⟩

/-- Whether nothing of a queue is in flight: no command, and no record that is held (R450). -/
def State.drained (s : State) (q : Nat) : Prop := (s.queue q).cmds = [] ∧ ∀ r ∈ s.host.held, r.q ≠ q

theorem drained_iff (s : State) (q : Nat) :
    ((s.queue q).cmds.isEmpty = true ∧ (!s.host.held.any fun r => r.q == q) = true) ↔ s.drained q := by
  simp [State.drained, List.isEmpty_iff]

section
variable {v : W64} (hst : (s.queue q).st ≠ 0) (hun : bitOf v 6 = false)
include hst hun

theorem qCfg_disable (hv : bitOf v 0 = false) (hs : fld v 1 5 = fld (s.queue q).cfg 1 5) :
    (s.drained q → s.qCfg q v = s.updQueue q fun _ => { s.queue q with st := 0, cfg := setBit (s.queue q).cfg 0 false }) ∧
    (¬ s.drained q → s.qCfg q v = s.updQueue q fun _ => { s.queue q with busy := true }) := by
  rw [← drained_iff]
  refine ⟨fun h => ?_, fun h => ?_⟩ <;> simp only [State.qCfg, hs, hun, hv, bne_self_eq_false, Bool.false_eq_true, false_and, if_false,
    if_neg hst]
  · rw [if_pos h]
  · rw [if_neg h]

theorem qCfg_resize (hv : bitOf v 0 = true) (hs : fld v 1 5 ≠ fld (s.queue q).cfg 1 5) :
    s.qCfg q v = s.updQueue q fun _ => { s.queue q with busy := true } := by
  simp [State.qCfg, hs, hun, hv, hst]

end

/-! ## The fetch of a command (R447 to R449) -/

/-- Whether a command of the queue may be fetched now. -/
def State.fetches (s : State) (q : Nat) : Prop :=
  (s.queue q).st = 1 ∧ s.dmaOk = true ∧ s.outOfService = false ∧ s.frozenAs 0x1C00 = false ∧ (s.queue q).mayFetch = true

/-- The queue with the command of its next slot. -/
def Queue.took (x : Queue) (line : Line) : Queue := { x with
  fetched := (x.fetched + 1) % 2 ^ 32, cmds := x.cmds ++ [{ index := x.fetched, raw := line }]
  doomed := x.doomed.filter fun k => k != x.fetched }

/-- The command of the next slot has joined the queue. -/
def State.fetched (s : State) (q : Nat) (line : Line) : State :=
  (s.updQueue q fun x => x.took line).updHost fun h => { h with fetches := h.fetches ++ [(s.queue q).slotAddr (s.queue q).fetched] }

theorem exec_commandFetch (line : Line) (h : s.fetches q) (hroom : ((s.queue q).cmds.filter fun c => c.st == .fetched).length < 16) :
    exec (.commandFetch q line) s = done s (if (s.queue q).doomed.contains (s.queue q).fetched then
      (s.fetched q line).complete q (s.queue q).fetched 1 else s.fetched q line) := by
  obtain ⟨hst, hdma, hserve, hfr, hmay⟩ := h
  exact if_pos ⟨hst, hdma, by simp [hserve], by simp [hfr], hmay, hroom⟩

theorem exec_commandFetch_of_not (line : Line) (h : ¬ s.fetches q) : exec (.commandFetch q line) s = done s s := by
  refine if_neg fun ⟨hst, hdma, hserve, hfr, hmay, _⟩ => h ⟨hst, hdma, ?_, ?_, hmay⟩
  · simpa using hserve
  · simpa using hfr

theorem exec_fetchError (h : s.fetches q) : exec (.fetchError q) s = done s ((s.updQueue q fun x => { x with st := 3 }).updHost fun h =>
    { h with status := setBit h.status 4 true, fetches := h.fetches ++ [(s.queue q).slotAddr (s.queue q).fetched] }) := by
  obtain ⟨hst, hdma, hserve, hfr, hmay⟩ := h
  exact if_pos ⟨hst, hdma, by simp [hserve], by simp [hfr], hmay⟩

theorem exec_fetchError_of_not (h : ¬ s.fetches q) : exec (.fetchError q) s = done s s := by
  refine if_neg fun ⟨hst, hdma, hserve, hfr, hmay⟩ => h ⟨hst, hdma, ?_, ?_, hmay⟩
  · simpa using hserve
  · simpa using hfr

theorem Frame.fetched (h : Frame l s t) (hq : .queues ∈ l) (hh : .host ∈ l) (line : Line) : Frame l s (t.fetched q line) :=
  (h.updQueue hq q _).updHost hh ⟨rfl, rfl, rfl, rfl, rfl, rfl, rfl⟩

theorem queue_updHost {f : HostIf → HostIf} (h : (f s.host).queues = s.host.queues) (p : Nat) : (s.updHost f).queue p = s.queue p := by
  rw [State.queue, State.queue, State.updHost, h]

theorem queue_fetched (line : Line) (p : Nat) : (s.fetched q line).queue p = if p = q then (s.queue q).took line else s.queue p := by
  rw [State.fetched, queue_updHost rfl, State.queue_updQueue]

theorem queue_fetched_self (line : Line) : (s.fetched q line).queue q = (s.queue q).took line := by rw [queue_fetched, if_pos rfl]

theorem fetched_fetches (line : Line) : (s.fetched q line).host.fetches =
    s.host.fetches ++ [(s.queue q).sq + BitVec.ofNat 64 (64 * ((s.queue q).fetched % (s.queue q).size))] := rfl

theorem does_commandFetch (hc : Clean s) (line : Line) (h : s.fetches q)
    (hroom : ((s.queue q).cmds.filter fun c => c.st == .fetched).length < 16)
    (hdoom : (s.queue q).doomed.contains (s.queue q).fetched = false) : Does (.commandFetch q line) s [.queues, .host] fun t =>
      OnlyQueue s t q ∧
      t.host.fetches = s.host.fetches ++ [(s.queue q).sq + BitVec.ofNat 64 (64 * ((s.queue q).fetched % (s.queue q).size))] ∧
      t.queue q = { s.queue q with
        fetched := ((s.queue q).fetched + 1) % 2 ^ 32, cmds := (s.queue q).cmds ++ [{ index := (s.queue q).fetched, raw := line }]
        doomed := (t.queue q).doomed } ∧
      ∀ k, k ∈ (t.queue q).doomed ↔ k ∈ (s.queue q).doomed := by
  have he := exec_commandFetch line h hroom
  rw [if_neg (by rw [hdoom]; exact Bool.false_ne_true)] at he
  have hown : (endOf s (s.fetched q line)).queue q = (s.queue q).took line := queue_fetched_self line
  refine Does.of_frame he ((Frame.refl hc).fetched (by simp) (by simp) line)
    ⟨fun p hp => (queue_fetched line p).trans (if_neg hp), fetched_fetches line, ?_, fun k => ?_⟩
  · rw [hown]
    rfl
  · rw [hown, Queue.took, List.mem_filter]
    refine ⟨And.left, fun hk => ⟨hk, bne_iff_ne.mpr ?_⟩⟩
    rintro rfl
    simp [hk] at hdoom

theorem cmd_fetched (line : Line) (hnone : s.cmd q (s.queue q).fetched = none) :
    (s.fetched q line).cmd q (s.queue q).fetched = some { index := (s.queue q).fetched, raw := line } := by
  rw [State.cmd] at hnone
  rw [State.cmd, queue_fetched_self, Queue.took, List.find?_append, hnone]
  simp

theorem sameRing_fetched (line : Line) : SameRing s (s.fetched q line) q := by
  refine ⟨fun p hp => (queue_fetched line p).trans (if_neg hp), ?_, ?_, ?_, ?_, rfl, rfl, rfl, rfl⟩ <;> rw [queue_fetched_self] <;> rfl

theorem queueFetched_complete (h : s.cmd q i = some c) (hr : c.replay = false) (status : Nat) (body : Flit) :
    ((s.complete q i status body).queue q).fetched = (s.queue q).fetched := by
  obtain ⟨f, hf⟩ := complete_eq h hr status body 0 0 0 s.beat
  have hown : ((s.updHang f).leaveQueue q i).queue q = (s.queue q).without i := (queue_leaveQueue q).trans (if_pos rfl)
  rw [hf, State.report]
  split
  · rw [queue_record, show (c.record q i status body 0 0 0 s.beat).q = q from rfl, if_pos rfl, hown]
    rfl
  · rw [queue_holdRecord, hown]
    rfl

theorem does_commandFetch_doomed (hc : Clean s) (line : Line) (h : s.fetches q)
    (hroom : ((s.queue q).cmds.filter fun c => c.st == .fetched).length < 16)
    (hdoom : (s.queue q).doomed.contains (s.queue q).fetched = true) (hnone : s.cmd q (s.queue q).fetched = none) :
    Does (.commandFetch q line) s [.host, .queues, .hang, .esc] fun t =>
      Completed s t q { index := (s.queue q).fetched, raw := line } 1 0 ∧
      t.host.fetches = s.host.fetches ++ [(s.queue q).sq + BitVec.ofNat 64 (64 * ((s.queue q).fetched % (s.queue q).size))] ∧
      (t.queue q).fetched = ((s.queue q).fetched + 1) % 2 ^ 32 := by
  have he := exec_commandFetch line h hroom
  rw [if_pos hdoom] at he
  have hcmd := cmd_fetched line hnone
  have hf : Frame [.host, .queues, .hang, .esc] s (s.fetched q line) := (Frame.refl hc).fetched (by simp) (by simp) line
  have hend : Frame [.queues, .hang, .esc] (s.fetched q line) ((s.fetched q line).complete q (s.queue q).fetched 1) :=
    (Frame.refl hf.clean).complete (by simp) (by simp) (by simp) hcmd rfl 1
  have hhost := hend.same (p := .host) (by simp)
  simp only [Piece.same] at hhost
  have hdone := (completed_complete hcmd rfl 1 0 0 0 0 s.esc.beat).of_sameRing (sameRing_fetched line) rfl rfl rfl
  refine Does.of_frame he (hf.complete (by simp) (by simp) (by simp) hcmd rfl 1) ⟨hdone, ?_, ?_⟩
  · rw [endOf_host, ← fetched_fetches line]
    simpa using congrArg HostIf.fetches hhost
  · exact (queueFetched_complete hcmd rfl 1 0).trans (congrArg Queue.fetched (queue_fetched_self line))

theorem does_fetchError (hc : Clean s) (h : s.fetches q) : Does (.fetchError q) s [.queues, .host] fun t => OnlyQueue s t q ∧
    t.queue q = { s.queue q with st := 3 } ∧
    t.host.fetches = s.host.fetches ++ [(s.queue q).sq + BitVec.ofNat 64 (64 * ((s.queue q).fetched % (s.queue q).size))] ∧
    bitOf t.host.status 4 = true := by
  refine Does.of_frame (exec_fetchError h)
    (((Frame.refl hc).updQueue (by simp) q _).updHost (by simp) ⟨rfl, rfl, rfl, rfl, rfl, rfl, rfl⟩)
    ⟨fun p hp => ?_, ?_, rfl, bitOf_setBit _ _ _ (by omega)⟩
  · rw [endOf_queue, queue_updHost rfl]
    exact onlyQueue_updQueue _ p hp
  · rw [endOf_queue, queue_updHost rfl, queue_updQueue_self]

/-! ## Dispatch (R279, R455, R456, R461) -/

/-- A command that has dispatched: its arm beat is fixed and its tag noted; a FENCE notes what it waits for. -/
def Cmd.dispatched (c : Cmd) (arm : Option W64) (late : Bool) (tag : Option Nat) (beat : W64) (waits lines : List (Nat × Nat)) : Cmd :=
  { c with st := .dispatched, arm := arm, tag := tag, late := late, progress := beat, waits := waits, lines := lines }

/-- A late command is counted. -/
def State.countLate (s : State) (late : Bool) : State :=
  if late then s.updEsc fun e => { e with lateStats := addFld e.lateStats 48 16 1 } else s

/-- A command's tag is recorded for it (R455). -/
def State.takeTag (s : State) (q : Nat) (c : Cmd) (tag : Option Nat) : State :=
  match tag with
  | some g => s.updHost fun h => { h with tags := aput h.tags g (q, c.index, cmdFld c.raw 16 2, BitVec.ofNat 64 (cmdFld c.raw 24 8)) }
  | none => s

/-- The run of a COPY on its engine, before its first line. -/
def Cmd.copyRun (c : Cmd) (q : Nat) (beat : W64) : CopyRun :=
  { q := q, index := c.index, src := BitVec.ofNat 64 (cmdFld c.raw 16 8), dst := BitVec.ofNat 64 (cmdFld c.raw 24 8)
    bytes := cmdFld c.raw 32 8, cls := cmdFld c.raw 41 1, progress := beat }

/-- The commands that a FENCE waits for: the earlier ones of its queue, or every one that has dispatched (R461). -/
def State.fenceWaits (s : State) (q : Nat) (c : Cmd) : List (Nat × Nat) :=
  if cmdOp c.raw = 9 then
    (if cmdFld c.raw 16 1 = 0 then ((s.queue q).cmds.takeWhile fun d => d.index != c.index).map fun d => (q, d.index)
      else s.host.queues.flatMap fun p => (p.2.cmds.filter fun d => d.st != .fetched).map fun d => (p.1, d.index))
  else []

/-- The entries whose eviction a FENCE waits for (R461). -/
def State.fenceLines (s : State) (c : Cmd) : List (Nat × Nat) :=
  if cmdOp c.raw = 9 then s.mem.chans.flatMap fun p => p.2.wcb.map fun w => (p.1, w.addr) else []

/-- The state of a dispatch before a COPY takes its engine. -/
def State.noted (s : State) (q : Nat) (c : Cmd) (arm : Option W64) (late : Bool) (tag : Option Nat) : State :=
  ((s.updCmd q c.index fun _ => c.dispatched arm late tag s.esc.beat (s.fenceWaits q c) (s.fenceLines c)).countLate late).takeTag q c tag

/-- A dispatch notes the command, and a COPY takes its engine. -/
theorem dispatch_eq (s : State) (q : Nat) (c : Cmd) (arm : Option W64) (late : Bool) (tag : Option Nat) :
    ∃ (w : State) (x : Assoc CopyRun), w = s.noted q c arm late tag ∧
      s.dispatch q c arm late tag = w.updHost (fun h => { h with copies := x }) ∧ (cmdOp c.raw ≠ 4 → x = w.host.copies) ∧
      ∀ e, cmdOp c.raw = 4 → w.copyEngine c.raw = some e → x = aput w.host.copies e (c.copyRun q w.beat) := by
  unfold State.dispatch
  extract_lets f x dispatched earlier c' s1 s2 s3
  have htag : s3 = s.noted q c arm late tag := by cases tag <;> rfl
  clear_value s3
  split
  next e hop he =>
    refine ⟨s3, _, htag, rfl, fun h => absurd hop h, fun e' _ he' => ?_⟩
    obtain rfl : e = e' := Option.some.inj (he.symm.trans he')
    rfl
  next hno => exact ⟨s3, s3.host.copies, htag, rfl, fun _ => rfl, fun e h he => absurd he (hno e h)⟩

theorem countLate_host (late : Bool) : (s.countLate late).host = s.host := by
  rw [State.countLate]
  split
  · rw [State.updEsc_host]
  · rfl

theorem countLate_esc (late : Bool) : (s.countLate late).esc =
    if late then { s.esc with lateStats := addFld s.esc.lateStats 48 16 1 } else s.esc := by
  rw [State.countLate]
  split
  · rw [State.esc_updEsc]
  · rfl

theorem Frame.countLate (h : Frame l s t) (hl : .esc ∈ l) (late : Bool) : Frame l s (t.countLate late) := by
  rw [State.countLate]
  split
  · exact h.updEsc hl _
  · exact h

theorem takeTag_esc (tag : Option Nat) : (s.takeTag q c tag).esc = s.esc := by
  cases tag <;> rfl

theorem takeTag_queue (tag : Option Nat) (p : Nat) : (s.takeTag q c tag).queue p = s.queue p := by
  cases tag with
  | none => rfl
  | some g => exact queue_updHost rfl p

theorem takeTag_copies (tag : Option Nat) : (s.takeTag q c tag).host.copies = s.host.copies := by
  cases tag <;> rfl

theorem takeTag_tags (tag : Option Nat) (g : Nat) : afind (s.takeTag q c tag).host.tags g = if some g = tag then
    some (q, c.index, cmdFld c.raw 16 2, BitVec.ofNat 64 (cmdFld c.raw 24 8)) else afind s.host.tags g := by
  cases tag with
  | none => exact (if_neg (by simp)).symm
  | some k =>
    simp only [Option.some.injEq]
    exact afind_aput ..

theorem Frame.takeTag (h : Frame l s t) (hl : .queues ∈ l) (tag : Option Nat) : Frame l s (t.takeTag q c tag) := by
  cases tag with
  | none => exact h
  | some g => exact h.setQueues hl rfl rfl rfl rfl

theorem copyEngine_of_copies (h : t.host.copies = s.host.copies) (raw : Line) : t.copyEngine raw = s.copyEngine raw := by
  rw [State.copyEngine, State.copyEngine, h]

/-- What a dispatch leaves. -/
structure Dispatched (s t : State) (q : Nat) (c : Cmd) (b : W64) (late : Bool) (tag : Option Nat) : Prop where
  only : OnlyQueue s t q
  cmd : ∃ waits lines, t.cmd q c.index = some (c.dispatched (some b) late tag s.esc.beat waits lines) ∧
    (cmdOp c.raw ≠ 9 → waits = [] ∧ lines = [])
  esc : t.esc = if late then { s.esc with lateStats := addFld s.esc.lateStats 48 16 1 } else s.esc
  tags : ∀ g, afind t.host.tags g = if some g = tag then some (q, c.index, cmdFld c.raw 16 2, BitVec.ofNat 64 (cmdFld c.raw 24 8))
    else afind s.host.tags g
  copies : cmdOp c.raw ≠ 4 → t.host.copies = s.host.copies
  engine : ∀ e, cmdOp c.raw = 4 → s.copyEngine c.raw = some e → ∃ beat, afind t.host.copies e = some (c.copyRun q beat)

theorem dispatched_dispatch (hcmd : s.cmd q c.index = some c) (b : W64) (late : Bool) (tag : Option Nat) :
    Dispatched s (s.dispatch q c (some b) late tag) q c b late tag := by
  obtain ⟨w, x, hw, hdis, hkept, htaken⟩ := dispatch_eq s q c (some b) late tag
  have hqueue : ∀ p, w.queue p = _ := fun p => by
    rw [hw, State.noted, takeTag_queue, State.queue, countLate_host, ← State.queue, queue_updCmd]
  have hcmd' : w.cmd q c.index = some (c.dispatched (some b) late tag s.esc.beat (s.fenceWaits q c) (s.fenceLines c)) := by
    rw [← cmd_updCmd (c := c) (f := fun _ => c.dispatched (some b) late tag s.esc.beat (s.fenceWaits q c) (s.fenceLines c)) rfl hcmd]
    exact cmd_of_queue (by rw [hqueue, queue_updCmd]) _
  have hcopies : w.host.copies = s.host.copies := by
    rw [hw, State.noted, takeTag_copies, countLate_host]
    rfl
  have hown : ∀ p, (w.updHost fun h => { h with copies := x }).queue p = w.queue p := queue_updHost rfl
  rw [hdis]
  refine ⟨fun p hp => ?_, ⟨s.fenceWaits q c, s.fenceLines c, ?_, fun h => ⟨if_neg h, if_neg h⟩⟩, ?_, fun g => ?_, fun h => ?_,
    fun e h he => ?_⟩
  · rw [hown, hqueue, if_neg hp]
  · rw [cmd_of_queue (hown q), hcmd']
  · rw [State.updHost_esc, hw, State.noted, takeTag_esc, countLate_esc]
    rfl
  · change afind w.host.tags g = _
    rw [hw, State.noted, takeTag_tags, countLate_host]
    rfl
  · change x = s.host.copies
    rw [hkept h, hcopies]
  · change ∃ beat, afind x e = some (c.copyRun q beat)
    rw [htaken e h ((copyEngine_of_copies hcopies _).trans he)]
    exact ⟨w.beat, (afind_aput ..).trans (if_pos rfl)⟩

theorem Frame.dispatch (h : Frame l s t) (hq : .queues ∈ l) (he : .esc ∈ l) (hh : .host ∈ l) (arm : Option W64) (late : Bool)
    (tag : Option Nat) : Frame l s (t.dispatch q c arm late tag) := by
  obtain ⟨w, x, hw, hdis, -⟩ := dispatch_eq t q c arm late tag
  rw [hdis, hw, State.noted]
  exact (((h.updCmd hq ..).countLate he late).takeTag hq tag).updHost hh ⟨rfl, rfl, rfl, rfl, rfl, rfl, rfl⟩

/-! ## The next command of a queue (R452 to R456, R480) -/

/-- Whether a command runs on an engine, and takes a tag: LAUNCH, COPY, COLLECTIVE and CHECKPOINT (R455). -/
def onEngine (raw : Line) : Prop := cmdOp raw = 1 ∨ cmdOp raw = 4 ∨ cmdOp raw = 5 ∨ cmdOp raw = 6

/-- Whether a command is bound to the slice: LAUNCH, COLLECTIVE and CHECKPOINT (R372, R480). -/
def boundToSlice (raw : Line) : Prop := cmdOp raw = 1 ∨ cmdOp raw = 5 ∨ cmdOp raw = 6

theorem onEngine_iff (raw : Line) :
    (cmdOp raw == 1 || cmdOp raw == 4 || cmdOp raw == 5 || cmdOp raw == 6) = true ↔ onEngine raw := by
  simp [onEngine, or_assoc]

theorem boundToSlice_iff (raw : Line) : (cmdOp raw == 1 || cmdOp raw == 5 || cmdOp raw == 6) = true ↔ boundToSlice raw := by
  simp [boundToSlice, or_assoc]

/-- The tag that a command takes (R455). -/
def tagOf (tag : Nat) (raw : Line) : Option Nat :=
  if cmdOp raw == 1 || cmdOp raw == 4 || cmdOp raw == 5 || cmdOp raw == 6 then some tag else none

theorem tagOf_eq_ite (tag : Nat) (raw : Line) :
    tagOf tag raw = if cmdOp raw = 1 ∨ cmdOp raw = 4 ∨ cmdOp raw = 5 ∨ cmdOp raw = 6 then some tag else none := by
  simp [tagOf, or_assoc]

theorem tagOf_eq (tag g : Nat) (raw : Line) : some g = tagOf tag raw ↔ g = tag ∧ onEngine raw := by
  rw [tagOf]
  split
  next h => simp [(onEngine_iff raw).mp h]
  next h => simp [mt (onEngine_iff raw).mpr h]

/-- What a command needs beside its arm beat: a free tag, and its slot, copy engine or the CHECKPOINT's unit (R453 to R455). -/
structure State.Ready (s : State) (q tag : Nat) (raw : Line) : Prop where
  tag : onEngine raw → tag < 65536 ∧ afind s.host.tags tag = none ∧ s.cfg.retiming = false
  slot : cmdOp raw = 1 → (s.launchFor q raw).map s.slotTaken = some false
  copy : cmdOp raw = 4 → s.copyEngine raw ≠ none
  checkpoint : cmdOp raw = 6 → s.ckTaken = false

section
variable {b : W64} {late : Bool} (hst : (s.queue q).st = 1) (hsus : s.suspect q = false) (hfr : s.frozenAs 0x1C00 = false)
  (hnext : (s.queue q).next = some c) (hord : (s.queue q).inOrder c = true)
include hst hsus hfr hnext hord

/-- The cases of the next command, in the order in which the dispatcher tells them apart. -/
theorem exec_commandDispatch_of_next :
    (badCommand c.raw = true → exec (.commandDispatch q tag) s = done s (s.complete q c.index 7)) ∧
    (badCommand c.raw = false →
      (cmdOp c.raw = 1 → s.launchFor q c.raw = none → exec (.commandDispatch q tag) s = done s (s.complete q c.index 10)) ∧
      ((cmdOp c.raw = 1 → s.launchFor q c.raw ≠ none) →
        (boundToSlice c.raw →
          (s.sliceSt = 3 → exec (.commandDispatch q tag) s = done s (s.complete q c.index 4)) ∧
          (s.sliceSt < 2 → exec (.commandDispatch q tag) s = done s s)) ∧
        ((boundToSlice c.raw → s.sliceSt = 2) →
          (s.armIs c.raw = .bad → exec (.commandDispatch q tag) s = done s (s.complete q c.index 8)) ∧
          (s.armIs c.raw = .waits → cmdOp c.raw ≠ 8 → exec (.commandDispatch q tag) s = done s s) ∧
          (s.armIs c.raw = .acts b late → s.Ready q tag c.raw → exec (.commandDispatch q tag) s =
            done s (s.dispatch q c (some b) late (tagOf tag c.raw)))))) := by
  have hguard : ¬ ((s.queue q).st ≠ 1 ∨ s.suspect q = true ∨ (!(s.queue q).inOrder c) = true ∨ s.frozenAs 0x1C00 = true) := by
    simp [hst, hsus, hfr, hord]
  have hrun : exec (.commandDispatch q tag) s = execCommandDispatch q tag s := rfl
  rw [hrun]
  unfold execCommandDispatch
  simp only [hnext]
  rw [if_neg hguard]
  refine ⟨fun h => if_pos h, fun hgood => ?_⟩
  rw [if_neg (by rw [hgood]; exact Bool.false_ne_true)]
  refine ⟨fun h1 hslot => if_pos ⟨h1, by rw [hslot]; rfl⟩, fun hslot => ?_⟩
  rw [if_neg fun ⟨h1, hnone⟩ => hslot h1 (Option.isNone_iff_eq_none.mp hnone)]
  refine ⟨fun hb => ⟨fun h3 => if_pos ⟨(boundToSlice_iff _).mpr hb, h3⟩, fun h2 => ?_⟩, fun hrunning => ?_⟩
  · exact (if_neg fun h => by omega).trans (if_pos ⟨(boundToSlice_iff _).mpr hb, by omega⟩)
  rw [if_neg fun h => absurd (hrunning ((boundToSlice_iff _).mp h.1)) (by omega),
    if_neg fun h => absurd (hrunning ((boundToSlice_iff _).mp h.1)) h.2]
  refine ⟨fun hbad => ?_, fun hwaits h8 => ?_, fun hacts hready => ?_⟩
  · simp only [hbad, ite_self]
  · simp only [hwaits, if_neg h8, ite_self]
  · obtain ⟨htag, hslot, hcopy, hck⟩ := hready
    rw [if_neg ?_, hacts]
    · rfl
    · rintro (h | h | h)
      · rw [Bool.not_eq_true', Bool.or_eq_false_iff, Bool.not_eq_false'] at h
        obtain ⟨hengine, htaken⟩ := h
        obtain ⟨hlt, hfree, -⟩ := htag ((onEngine_iff _).mp hengine)
        simp [hfree, hlt, Config.opTags] at htaken
      · rw [Bool.not_eq_true'] at h
        split at h
        next h1 =>
          obtain ⟨k, hk, hfree⟩ := Option.map_eq_some_iff.mp (hslot h1)
          simp [hk, hfree] at h
        next h4 => exact hcopy h4 (by simpa using h)
        next h6 => simp [hck h6] at h
        next => exact absurd h.symm Bool.false_ne_true
      · obtain ⟨hengine, hretiming⟩ := h
        obtain ⟨-, -, hnot⟩ := htag ((onEngine_iff _).mp hengine)
        exact absurd (hnot.symm.trans hretiming) Bool.false_ne_true

theorem does_commandDispatch_acts (hc : Clean s) (hcmd : s.cmd q c.index = some c) (hgood : badCommand c.raw = false)
    (hslot : cmdOp c.raw = 1 → s.launchFor q c.raw ≠ none) (hrunning : boundToSlice c.raw → s.sliceSt = 2)
    (hacts : s.armIs c.raw = .acts b late) (hready : s.Ready q tag c.raw) :
    Does (.commandDispatch q tag) s [.queues, .esc, .host] fun t => Dispatched s t q c b late (tagOf tag c.raw) := by
  obtain ⟨-, hcases⟩ := exec_commandDispatch_of_next (tag := tag) (b := b) (late := late) hst hsus hfr hnext hord
  obtain ⟨-, hcases⟩ := hcases hgood
  obtain ⟨-, -, hrun⟩ := (hcases hslot).2 hrunning
  have hd := dispatched_dispatch hcmd b late (tagOf tag c.raw)
  exact Does.of_frame (hrun hacts hready) ((Frame.refl hc).dispatch (by simp) (by simp) (by simp) ..)
    ⟨hd.only, hd.cmd, hd.esc, hd.tags, hd.copies, hd.engine⟩

end

/-- A dispatch in the terms of the command, its beat and its tag. -/
theorem Dispatched.spelled {b : W64} {late : Bool} (h : Dispatched s t q c b late (tagOf tag c.raw)) :
    (∃ d, t.cmd q c.index = some d ∧
      d = { c with st := .dispatched, arm := some b, late := late, progress := s.esc.beat, waits := d.waits, lines := d.lines
                   tag := if cmdOp c.raw = 1 ∨ cmdOp c.raw = 4 ∨ cmdOp c.raw = 5 ∨ cmdOp c.raw = 6 then some tag else none } ∧
      (cmdOp c.raw ≠ 9 → d.waits = [] ∧ d.lines = [])) ∧
    (onEngine c.raw → afind t.host.tags tag = some (q, c.index, cmdFld c.raw 16 2, BitVec.ofNat 64 (cmdFld c.raw 24 8))) ∧
    (∀ g, g ≠ tag ∨ ¬ onEngine c.raw → afind t.host.tags g = afind s.host.tags g) ∧
    (∀ e, cmdOp c.raw = 4 → s.copyEngine c.raw = some e → ∃ r, afind t.host.copies e = some r ∧ r.q = q ∧ r.index = c.index ∧
      r.off = 0 ∧ r.src.toNat = cmdFld c.raw 16 8 ∧ r.dst.toNat = cmdFld c.raw 24 8 ∧ r.bytes = cmdFld c.raw 32 8) := by
  have hword : ∀ n, (BitVec.ofNat 64 (cmdFld c.raw n 8)).toNat = cmdFld c.raw n 8 := fun n => by
    rw [BitVec.toNat_ofNat]
    exact Nat.mod_eq_of_lt (Nat.mod_lt _ (by norm_num))
  obtain ⟨waits, lines, hcmd, hfence⟩ := h.cmd
  refine ⟨⟨_, hcmd, ?_, hfence⟩, fun hengine => ?_, fun g hg => ?_, fun e h4 he => ?_⟩
  · rw [← tagOf_eq_ite]
    rfl
  · exact (h.tags tag).trans (if_pos ((tagOf_eq ..).mpr ⟨rfl, hengine⟩))
  · exact (h.tags g).trans (if_neg fun hsome => hg.elim (· ((tagOf_eq ..).mp hsome).1) (· ((tagOf_eq ..).mp hsome).2))
  · obtain ⟨beat, hr⟩ := h.engine e h4 he
    exact ⟨_, hr, rfl, rfl, rfl, hword 16, hword 24, rfl⟩

/-! ## Arm beats (R278, R279, R288) -/

theorem armIs_of_beat {raw : Line} (h : cmdFld raw 2 1 = 0) : s.armIs raw =
    if cmdFld raw 8 8 = 0 then .acts (s.esc.beat + 1) false
    else if cmdFld raw 8 8 ≤ s.esc.beat.toNat then .acts (s.esc.beat + 1) true else .acts (BitVec.ofNat 64 (cmdFld raw 8 8)) false := by
  rw [State.armIs, h]
  rfl

theorem armIs_of_reserved {raw : Line} (h : 2 ≤ cmdFld raw 2 1) : s.armIs raw = .bad := by
  rw [State.armIs]
  split
  · omega
  · omega
  · rfl

theorem periodBeat_of_present (hstarted : s.esc.started = true) (o : Nat) :
    s.periodBeat s.esc.now.toNat o = some (s.esc.start.toNat + o) := by
  simp [State.periodBeat, hstarted]

theorem periodBeat_of_later {k : Nat} (hstarted : s.esc.started = true) (hk : s.esc.now.toNat < k) (ha : s.esc.announced = none) (o : Nat) :
    s.periodBeat k o = none := by
  simp [State.periodBeat, hstarted, ha, Nat.not_lt.mpr hk.le, Nat.ne_of_gt hk]

section
variable {raw : Line} (h : cmdFld raw 2 1 = 1)
include h

theorem armIs_of_noPeriod (hp : s.periodP = 0) : s.armIs raw = .bad := by
  rw [State.armIs, h]
  exact if_pos hp

variable (hp : s.periodP ≠ 0) (hstarted : s.esc.started = true)
include hp hstarted

theorem armIs_of_presentPeriod (hk : cmdFld raw 8 8 % 2 ^ 48 = s.esc.now.toNat) : s.armIs raw =
    if s.esc.start.toNat + cmdFld raw 8 8 / 2 ^ 48 ≤ s.esc.beat.toNat then .acts (s.esc.beat + 1) true
    else .acts (BitVec.ofNat 64 (s.esc.start.toNat + cmdFld raw 8 8 / 2 ^ 48)) false := by
  rw [State.armIs, h]
  dsimp only
  rw [if_neg hp, hk, periodBeat_of_present hstarted]
  rfl

theorem armIs_of_laterPeriod (hk : s.esc.now.toNat < cmdFld raw 8 8 % 2 ^ 48) (ha : s.esc.announced = none) : s.armIs raw = .waits := by
  rw [State.armIs, h]
  dsimp only
  rw [if_neg hp, periodBeat_of_later hstarted hk ha]
  rfl

end

/-- Settles O49: doorbells, the states of a queue, fetches, and the cases of the next command. -/
theorem queuesAndDispatch : Obligations.QueuesAndDispatch := by
  unfold Obligations.QueuesAndDispatch
  intro s q tag tail v line hc x only ends rung bell
  refine ⟨fun hq => ⟨?bell, ?bellFrame, does_qDoorbell hc hq tail⟩, does_unblock hc, does_enable hc, fun hst hv hun hs => ?disable,
    fun hst hv hun hs => ?resize, fun hst hdma hserve hfr hmay => ?fetch, fun h => ?noFetch,
    fun c hst hsus hfr hnext hcmd hord hrep => ?dispatch⟩
  case bell =>
    have hact : s.actLanded bell = s.updQueue q fun x => x.rung tail := actLanded_bell hq tail
    rw [hact]
    exact ⟨onlyQueue_updQueue _, queue_updQueue_self _⟩
  case bellFrame =>
    have hact : s.actLanded bell = s.updQueue q fun x => x.rung tail := actLanded_bell hq tail
    rw [hact]
    exact (Frame.refl hc).updQueue (by simp) q _
  case disable =>
    obtain ⟨hempty, hbusy⟩ := qCfg_disable hst hun hv hs
    exact ⟨fun h => Does.of_updQueue hc (congrArg (done s) (hempty h)) rfl, fun h => Does.of_updQueue hc (congrArg (done s) (hbusy h)) rfl⟩
  case resize => exact Does.of_updQueue hc (congrArg (done s) (qCfg_resize hst hun hv hs)) rfl
  case fetch =>
    have h : s.fetches q := ⟨hst, hdma, hserve, hfr, hmay⟩
    exact ⟨fun hroom => ⟨does_commandFetch hc line h hroom, does_commandFetch_doomed hc line h hroom⟩, does_fetchError hc h⟩
  case noFetch =>
    have hnot : ¬ s.fetches q := fun ⟨hst, hdma, hserve, hfr, hmay⟩ => by simp [x, hst, hdma, hserve, hfr, hmay] at h
    exact ⟨Does.of_idle hc (exec_commandFetch_of_not line hnot), Does.of_idle hc (exec_fetchError_of_not hnot)⟩
  case dispatch =>
    obtain ⟨hbad, hcases⟩ := exec_commandDispatch_of_next (tag := tag) (b := 0) (late := false) hst hsus hfr hnext hord
    have hends : ∀ status, exec (.commandDispatch q tag) s = done s (s.complete q c.index status) →
        Does (.commandDispatch q tag) s [.queues, .hang, .esc] fun t => Completed s t q c status 0 := fun _ he =>
      Does.of_complete_self hc (by simp) (by simp) (by simp) hcmd hrep he
    refine ⟨fun h => hends 7 (hbad h), fun hgood => ?_⟩
    obtain ⟨hnotBound, hcases⟩ := hcases hgood
    refine ⟨fun h1 hnone => hends 10 (hnotBound h1 hnone), fun hb hslot h3 => hends 4 (((hcases hslot).1 hb).1 h3),
      fun hb hslot h2 => Does.of_idle hc (((hcases hslot).1 hb).2 h2), fun hslot hrunning => ?_, armIs_of_beat,
      fun h => h.elim armIs_of_reserved fun h => armIs_of_noPeriod h.1 h.2, fun h hp hstarted =>
        ⟨armIs_of_presentPeriod h hp hstarted, armIs_of_laterPeriod h hp hstarted⟩⟩
    obtain ⟨hbadArm, hwaits, -⟩ := (hcases hslot).2 hrunning
    refine ⟨fun h => hends 8 (hbadArm h), fun h h8 => Does.of_idle hc (hwaits h h8), fun b late hacts htag hfree hcopy hck => ?_⟩
    have hready : s.Ready q tag c.raw := ⟨htag, hfree, hcopy, hck⟩
    refine (does_commandDispatch_acts hst hsus hfr hnext hord hc hcmd hgood hslot hrunning hacts hready).imp fun t ht => ?_
    obtain ⟨hd, hown, hother, hengine⟩ := ht.spelled
    exact ⟨ht.only, hd, ht.esc, hown, hother, ht.copies, hengine⟩

end Sys2Proof.Machine
end

section
/-! The stacks (chapter 10): the rules of their updates, the masks of a line, what a line's errors and bytes are after a write, and what
each operation leaves of a channel's queues and buffer. -/

namespace Sys2Proof.Machine

variable {s t : State} {l : List Piece}

/-! ## What each command runs -/

theorem exec_memLineRequest (r : LineReq) : exec (.memLineRequest r) s = execMemLineRequest r s := rfl
theorem exec_wcbWriteWaitEnd (ch : Nat) : exec (.wcbWriteWaitEnd ch) s = execWcbWriteWaitEnd ch s := rfl
theorem exec_wcbIdleEvict (ch line : Nat) : exec (.wcbIdleEvict ch line) s = execWcbIdleEvict ch line s := rfl
theorem exec_channelLineSlot (ch : Nat) (e : Ecc) : exec (.channelLineSlot ch e) s = execChannelLineSlot ch e s := rfl
theorem exec_stackScrubSlot (ch : Nat) (e : Ecc) : exec (.stackScrubSlot ch e) s = execStackScrubSlot ch e s := rfl
theorem exec_stackThermalSample (k temp : Nat) : exec (.stackThermalSample k temp) s = execStackThermalSample k temp s := rfl
theorem exec_thermDeferExpire (k : Nat) : exec (.thermDeferExpire k) s = execThermDeferExpire k s := rfl
theorem exec_thermDeferEnd : exec .thermDeferEnd s = execThermDeferEnd s := rfl
theorem exec_testEnterChannel (ch : Nat) : exec (.testEnterChannel ch) s = done s (s.testEnterCh ch) := rfl
theorem exec_testExitChannel (ch : Nat) : exec (.testExitChannel ch) s = done s (s.testExitCh ch) := rfl
theorem exec_tgGo (ch : Nat) : exec (.tgGo ch) s = done s (s.tgStart ch) := rfl
theorem exec_tgStop (ch : Nat) : exec (.tgStop ch) s = done s (s.tgHalt ch) := rfl
theorem exec_tgDone (ch : Nat) : exec (.tgDone ch) s = execTgDone ch s := rfl

/-! ## The rule of each update -/

theorem Frame.mono {k : List Piece} (h : Frame l s t) (hk : l ⊆ k) : Frame k s t := by
  obtain ⟨hq, hc, hs⟩ := h
  exact ⟨hq, hc, fun p hp => hs p fun hl => hp (hk hl)⟩

theorem Frame.trans {u : State} (h : Frame l s t) (h' : Frame l t u) : Frame l s u := by
  obtain ⟨hq, hc, hs⟩ := h'
  obtain ⟨hq', -, hs'⟩ := h
  exact ⟨hq.trans hq', hc, fun p hp => Piece.same_trans (hs' p hp) (hs p hp)⟩

theorem Frame.updStack (h : Frame l s t) (hl : .stks ∈ l) (k : Nat) (f : Stack → Stack) : Frame l s (t.updStack k f) := by
  refine h.extend rfl ⟨rfl, rfl, rfl, rfl⟩ fun p hp => ?_
  cases p
  case stks => exact absurd hl hp
  case bytes => exact fun _ => rfl
  all_goals simp [Piece.same]

/-- The state with the line requests on their way replaced. -/
def State.setInbox (s : State) (rs : List LineReq) : State := { s with mem := { s.mem with inbox := rs } }

theorem Frame.setInbox (h : Frame l s t) (hl : .inbox ∈ l) (rs : List LineReq) : Frame l s (t.setInbox rs) := by
  refine h.extend rfl ⟨rfl, rfl, rfl, rfl⟩ fun p hp => ?_
  cases p
  case inbox => exact absurd hl hp
  all_goals simp [Piece.same, State.setInbox, State.tile]

/-- The state with the module-wide status of the stacks replaced. -/
def State.setMemStatus (s : State) (v : W64) : State := { s with mem := { s.mem with status := v } }

theorem Frame.setMemStatus (h : Frame l s t) (hl : .memRegs ∈ l) (v : W64) : Frame l s (t.setMemStatus v) := by
  refine h.extend rfl ⟨rfl, rfl, rfl, rfl⟩ fun p hp => ?_
  cases p
  case memRegs => exact absurd hl hp
  all_goals simp [Piece.same, State.setMemStatus, State.tile]

/-- The state with the errors of the stored words replaced. -/
def State.setMarks (s : State) (m : Assoc Mark) : State := { s with mem := { s.mem with marks := m } }

theorem Frame.setMarks (h : Frame l s t) (hl : .memMarks ∈ l) (m : Assoc Mark) : Frame l s (t.setMarks m) := by
  refine h.extend rfl ⟨rfl, rfl, rfl, rfl⟩ fun p hp => ?_
  cases p
  case memMarks => exact absurd hl hp
  all_goals simp [Piece.same, State.setMarks, State.tile]

theorem Frame.unfence (h : Frame l s t) (hl : .queues ∈ l) (ch a : Nat) : Frame l s (t.unfence ch a) := by
  refine h.extend rfl ⟨rfl, rfl, rfl, rfl⟩ fun p hp => ?_
  cases p
  case queues => exact absurd hl hp
  all_goals simp [Piece.same, State.unfence, State.tile]

/-- The state with the writes to the stacks that wait for the end of the command replaced. -/
def State.setMemLog (s : State) (w : List Host.Cell) : State := { s with memLog := w }

theorem updChan_setMemLog (s : State) (w : List Host.Cell) (ch : Nat) (f : Chan → Chan) :
    (s.setMemLog w).updChan ch f = (s.updChan ch f).setMemLog w := rfl

/-- A command that ends with writes to the stacks changes, beside their bytes, what the state without those writes differs in. -/
theorem Does.of_memLog {c : Instr} {post : State → Prop} {w : List Host.Cell} (he : exec c s = done s (t.setMemLog w)) (hf : Frame l s t)
    (hl : .bytes ∈ l) (hp : post (endOf s (t.setMemLog w))) : Does c s l post := by
  obtain ⟨hlog, -, hwipe, -⟩ := hf.clean
  refine Does.of_stackWrites he hlog hwipe hp hl fun p hpl _ => ?_
  have hsame := hf.same hpl
  cases p <;> exact hsame

/-! ## Masks of a line (R305, R307) -/

theorem bitOf_eq_getLsbD (w : W64) (i : Nat) : bitOf w i = w.getLsbD i := by
  rw [bitOf, fld, BitVec.getLsbD, Nat.testBit, Nat.pow_one, Nat.one_and_eq_mod_two, Nat.shiftRight_eq_div_pow]
  rcases Nat.mod_two_eq_zero_or_one (w.toNat / 2 ^ i) with h | h <;> simp [h]

theorem testBit_ofLe (bs : List Byte) (i : Nat) : (ofLe bs).testBit i = (nth 0 bs (i / 8)).toNat.testBit (i % 8) := by
  induction bs generalizing i with
  | nil => simp [ofLe, nth]
  | cons b bs ih =>
    have hb : b.toNat < 2 ^ 8 := b.isLt
    rw [ofLe, Nat.add_comm, show (256 : Nat) = 2 ^ 8 from rfl, Nat.testBit_two_pow_mul_add _ hb]
    split
    next h => rw [Nat.div_eq_of_lt h, Nat.mod_eq_of_lt h]; rfl
    next h =>
      obtain ⟨j, rfl⟩ := Nat.exists_eq_add_of_le (Nat.le_of_not_lt h)
      rw [Nat.add_sub_cancel_left, ih, Nat.add_mod_left, Nat.add_div_left _ (by decide)]
      rfl

theorem getLsbD_byteMask (m : W64) {i : Nat} (hi : i < 512) : (byteMask m).getLsbD i = m.getLsbD (i / 8) := by
  have hbyte : nth 0 (tab 64 fun i => if bitOf m i then 0xFF#8 else 0#8) (i / 8) = if bitOf m (i / 8) then 0xFF#8 else 0#8 := by
    simp [nth, tab, show i / 8 < 64 by omega]
  have hones : ∀ k < 8, (0xFF#8).toNat.testBit k = true := by decide
  rw [byteMask, bytesLine, BitVec.getLsbD_ofNat, testBit_ofLe, hbyte, ← bitOf_eq_getLsbD, decide_eq_true hi, Bool.true_and]
  cases bitOf m (i / 8)
  · simp
  · exact hones _ (Nat.mod_lt i (by decide))

theorem byteMask_or (m n : W64) : byteMask (m ||| n) = byteMask m ||| byteMask n := by
  refine BitVec.eq_of_getLsbD_eq fun i hi => ?_
  rw [BitVec.getLsbD_or, getLsbD_byteMask _ hi, getLsbD_byteMask _ hi, getLsbD_byteMask _ hi, BitVec.getLsbD_or]

theorem byteMask_fullMask : byteMask fullMask = BitVec.allOnes 512 := by
  have hfull : fullMask = BitVec.allOnes 64 := rfl
  refine BitVec.eq_of_getLsbD_eq fun i hi => ?_
  rw [getLsbD_byteMask _ hi, hfull, BitVec.getLsbD_allOnes, BitVec.getLsbD_allOnes]
  simp only [hi, show i / 8 < 64 by omega]

theorem mergeLine_full (v d : Line) : mergeLine v d fullMask = d := by
  rw [mergeLine, byteMask_fullMask, BitVec.not_allOnes, BitVec.and_zero, BitVec.and_allOnes, BitVec.zero_or]

/-- Bytes outside the mask do not matter. -/
theorem mergeLine_masked (v d : Line) (m : W64) : mergeLine v (d &&& byteMask m) m = mergeLine v d m := by
  rw [mergeLine, mergeLine, BitVec.and_assoc, BitVec.and_self]

/-- A line with one write laid over it and then another, and with both laid over it as one entry, is the same. -/
theorem mergeLine_mergeLine (v w d : Line) (m n : W64) :
    mergeLine v (mergeLine w d n) (m ||| n) = mergeLine (mergeLine v w m) d n := by
  simp only [mergeLine, byteMask_or]
  refine BitVec.eq_of_getLsbD_eq fun i hi => ?_
  simp only [BitVec.getLsbD_or, BitVec.getLsbD_and, BitVec.getLsbD_not, hi, decide_true, Bool.true_and]
  cases (byteMask m).getLsbD i <;> cases (byteMask n).getLsbD i <;> simp

/-! ## Bytes and errors of a line (R309, R310, R312) -/

theorem memByte_putMemBytes (s : State) (a : Nat) (bs : List Byte) (x : Nat) :
    (s.putMemBytes a bs).memByte x = if a ≤ x ∧ x < a + bs.length then nth 0 bs (x - a) else s.memByte x := by
  induction bs generalizing s a with
  | nil => rw [if_neg (by simp)]; rfl
  | cons b bs ih =>
    rw [State.putMemBytes, ih, State.memByte_putMem, List.length_cons]
    by_cases hx : a = x
    · subst hx
      rw [if_neg (by omega), if_pos rfl, if_pos (by omega), Nat.sub_self]
      rfl
    · rw [if_neg hx]
      refine ite_congr (propext ⟨by omega, by omega⟩) (fun h => ?_) fun _ => rfl
      rw [show x - a = x - (a + 1) + 1 by omega]
      rfl

theorem putMemBytes_eq (s : State) (a : Nat) (bs : List Byte) : ∃ w, s.putMemBytes a bs = s.setMemLog w := by
  induction bs generalizing s a with
  | nil => exact ⟨s.memLog, rfl⟩
  | cons b bs ih => exact ih (s.putMem a b) (a + 1)

/-- The error of the 64-bit word w of the stacks. -/
def State.wordMark (s : State) (w : Nat) : Mark := aget .good s.mem.marks w

theorem mapMarks_eq (s : State) (a : Nat) (f : Nat → Mark → Mark) : ∃ m, s.mapMarks a f = s.setMarks m ∧ ∀ w, aget .good m w =
    if a / 8 ≤ w ∧ w < a / 8 + 8 then f (w - a / 8) (s.wordMark w) else s.wordMark w := by
  rw [State.mapMarks]
  generalize a / 8 = b
  generalize 8 = n
  induction n with
  | zero => exact ⟨s.mem.marks, rfl, fun w => by rw [if_neg (by omega)]; rfl⟩
  | succ n ih =>
    obtain ⟨m, hm, hget⟩ := ih
    rw [List.range_succ, List.foldl_append, hm]
    refine ⟨_, rfl, fun w => ?_⟩
    rw [State.setMarks, aget_aset]
    by_cases hw : w = b + n
    · subst hw
      rw [if_pos rfl, if_pos (by omega), hget, if_neg (by omega), Nat.add_sub_cancel_left]
    · rw [if_neg hw, hget]
      exact ite_congr (propext ⟨by omega, by omega⟩) (fun _ => rfl) fun _ => rfl

/-- The worse of two errors of a line's words. -/
def Mark.worse : Mark → Mark → Mark
  | .poison, _ => .poison
  | _, .poison => .poison
  | .double b c, _ => .double b c
  | _, .double b c => .double b c
  | .single b, _ => .single b
  | _, y => y

theorem mark_eq_foldl (s : State) (a : Nat) : s.mark a = (s.marks a).foldl Mark.worse .good := rfl

theorem Mark.worse_eq_good {x y : Mark} : x.worse y = .good ↔ x = .good ∧ y = .good := by
  cases x <;> cases y <;> simp [Mark.worse]

theorem foldl_worse_eq_good (ms : List Mark) (x : Mark) : ms.foldl Mark.worse x = .good ↔ x = .good ∧ ∀ m ∈ ms, m = .good := by
  induction ms generalizing x with
  | nil => simp
  | cons m ms ih => rw [List.foldl_cons, ih, Mark.worse_eq_good, List.forall_mem_cons, and_assoc]

theorem mark_eq_good_iff {a : Nat} : s.mark a = .good ↔ ∀ j < 8, s.wordMark (a / 8 + j) = .good := by
  rw [mark_eq_foldl, foldl_worse_eq_good]
  simp [State.marks, tab, State.wordMark]

/-- A line's error is that of its eight words. -/
theorem mark_congr {a : Nat} (h : ∀ j < 8, t.wordMark (a / 8 + j) = s.wordMark (a / 8 + j)) : t.mark a = s.mark a := by
  have hm : t.marks a = s.marks a := List.map_congr_left fun j hj => h j (List.mem_range.mp hj)
  rw [mark_eq_foldl, mark_eq_foldl, hm]

theorem mark_of_marks (h : t.mem.marks = s.mem.marks) (a : Nat) : t.mark a = s.mark a :=
  mark_congr fun j _ => by rw [State.wordMark, State.wordMark, h]

theorem mark_of_frame (h : Frame l s t) (hl : .memMarks ∉ l) (a : Nat) : t.mark a = s.mark a := mark_of_marks (h.same hl) a

theorem mark_eq_poison {a : Nat} (h : ∀ j < 8, s.wordMark (a / 8 + j) = .poison) : s.mark a = .poison := by
  have hm : s.marks a = tab 8 fun _ => .poison := List.map_congr_left fun j hj => h j (List.mem_range.mp hj)
  rw [mark_eq_foldl, hm]
  rfl

/-! ## The buffer (R305, R307) -/

/-- A line's stored value with the line's buffer entry laid over it. -/
def Chan.laid (x : Chan) (a : Nat) (v : Line) : Line :=
  match x.entry a with
  | some w => mergeLine v w.data w.mask
  | none => v

theorem mergeLine_none (v : Line) : mergeLine v 0 0 = v := by
  have hzero : byteMask 0 = 0 := by
    refine BitVec.eq_of_getLsbD_eq fun i hi => ?_
    rw [getLsbD_byteMask _ hi]
    exact BitVec.getLsbD_zero.trans BitVec.getLsbD_zero.symm
  change (v &&& ~~~(byteMask 0)) ||| (0#512 &&& byteMask 0) = v
  rw [hzero]
  change (v &&& ~~~0#512) ||| (0#512 &&& 0#512) = v
  rw [BitVec.not_zero, BitVec.and_allOnes, BitVec.and_zero, BitVec.or_zero]

theorem readLine_of_good {a : Nat} (hg : s.mark a = .good) (ch : Nat) :
    s.readLine ch a = ((s.chan ch).laid a (s.storedLine a), false, s) := by
  unfold State.readLine Chan.laid
  cases (s.chan ch).entry a <;> simp only [hg, mergeLine_none, ite_self]

theorem entry_enter_of_some {x : Chan} {a : Nat} {w : WcbE} (h : x.entry a = some w) (m : W64) (d : Line) : (x.enter a m d).entry a =
    some { w with mask := w.mask ||| m, data := mergeLine w.data d m, touched := x.slot } := by
  have hw : w.addr = a := by simpa using List.find?_some h
  rw [Chan.enter, h]
  simp only [Chan.entry, List.find?_map] at h ⊢
  rw [show ((fun e : WcbE => e.addr == a) ∘ fun w : WcbE => if w.addr = a then { w with
      mask := w.mask ||| m, data := mergeLine w.data d m, touched := x.slot } else w) = fun e => e.addr == a from
    funext fun e => by dsimp only [Function.comp]; split <;> rfl, h, Option.map_some, if_pos hw]

theorem entry_enter_of_none {x : Chan} {a : Nat} (h : x.entry a = none) (m : W64) (d : Line) : (x.enter a m d).entry a =
    some { addr := a, mask := m, data := d &&& byteMask m, touched := x.slot } := by
  rw [Chan.enter, h]
  simp only [Chan.entry] at h
  simp [Chan.entry, Chan.pressed, List.find?_append, h]

/-- A write that has entered the buffer is laid over what the line held. -/
theorem laid_enter (x : Chan) (a : Nat) (m : W64) (d v : Line) : (x.enter a m d).laid a v = mergeLine (x.laid a v) d m := by
  cases h : x.entry a with
  | some w => simp only [Chan.laid, h, entry_enter_of_some h, mergeLine_mergeLine]
  | none => simp only [Chan.laid, h, entry_enter_of_none h, mergeLine_masked]

theorem laid_of_wcb {x y : Chan} (h : y.wcb = x.wcb) (a : Nat) (v : Line) : y.laid a v = x.laid a v := by
  rw [Chan.laid, Chan.laid, Chan.entry, Chan.entry, h]

/-! ## Room for those that wait (R301, R305) -/

/-- What a function of the channel reads once every request has room, where giving room to one leaves it alone. -/
theorem room_unchanged {β : Type} {read : Chan → β} (h : ∀ x q, read (Chan.place x q) = read x) (x : Chan) : read x.room = read x := by
  rw [Chan.room]
  generalize x.all = qs
  induction qs generalizing x with
  | nil => rfl
  | cons q qs ih => rw [List.foldl_cons, ih, h]

/-- Giving an eviction to the oldest entry adds to the writes and their count alone. -/
theorem evictOldest_eq (x : Chan) (since : Nat) : ∃ qs n, x.evictOldest since = { x with writes := qs, seq := n } := by
  rw [Chan.evictOldest]
  split
  · exact ⟨_, _, rfl⟩
  · exact ⟨x.writes, x.seq, rfl⟩

/-- Giving a request room changes the queues, the count of requests and the counts of the channel alone, and no write's place in the wait. -/
theorem place_eq (x : Chan) (q : QReq) : ∃ urgent normal writes waiting stats seq,
    x.place q = { x with urgent := urgent, normal := normal, writes := writes, waiting := waiting, stats := stats, seq := seq } ∧
      waiting.map (·.seq) = x.waiting.map (·.seq) := by
  unfold Chan.place
  split
  · exact ⟨x.urgent, x.normal, x.writes, x.waiting, x.stats, x.seq, rfl, rfl⟩
  · extract_lets f stall
    obtain ⟨qs, n, h⟩ := evictOldest_eq { x with
      urgent := f x.urgent, normal := f x.normal, writes := f x.writes, waiting := f x.waiting, stats := addFld x.stats 32 16 stall } q.at_
    refine ⟨f x.urgent, f x.normal, qs, f x.waiting, addFld x.stats 32 16 stall, n, h, ?_⟩
    simp only [f, List.map_map]
    exact List.map_congr_left fun p _ => by dsimp only [Function.comp]; split <;> rfl

theorem place_wcb (x : Chan) (q : QReq) : (x.place q).wcb = x.wcb := by
  obtain ⟨_, _, _, _, _, _, h, -⟩ := place_eq x q
  rw [h]

theorem place_slot (x : Chan) (q : QReq) : (x.place q).slot = x.slot := by
  obtain ⟨_, _, _, _, _, _, h, -⟩ := place_eq x q
  rw [h]

theorem place_waiting (x : Chan) (q : QReq) : (x.place q).waiting.map (·.seq) = x.waiting.map (·.seq) := by
  obtain ⟨_, _, _, _, _, _, h, hw⟩ := place_eq x q
  rw [h]
  exact hw

@[simp] theorem room_wcb (x : Chan) : x.room.wcb = x.wcb := room_unchanged (read := (·.wcb)) place_wcb x

@[simp] theorem room_slot (x : Chan) : x.room.slot = x.slot := room_unchanged (read := (·.slot)) place_slot x

theorem room_waiting (x : Chan) : x.room.waiting.map (·.seq) = x.waiting.map (·.seq) :=
  room_unchanged (read := fun y => y.waiting.map (·.seq)) place_waiting x

/-! ## The answer to a memory transaction (R341, R348) -/

theorem fab_of_frame (h : Frame l s t) (hf : .fab ∉ l) (hp : .ports ∉ l) : t.fab = s.fab := by
  have hfab : { t.fab with ports := [] } = { s.fab with ports := [] } := h.same hf
  have hports : t.fab.ports = s.fab.ports := h.same hp
  calc t.fab = { ({ t.fab with ports := [] } : Fab) with ports := t.fab.ports } := rfl
    _ = { ({ s.fab with ports := [] } : Fab) with ports := s.fab.ports } := by rw [hfab, hports]

/-- The state in which transaction `tg` has retired, and request `tag` of tile `tl` has its answer. -/
def State.txnAnswered (s : State) (tg tl tag : Nat) (data : Line) (e : Option DropCause) : State :=
  (s.setFab { s.fab with txns := s.fab.txns.filter fun x => x.tag != tg }).answer tl tag
    (if e.isSome then [] else toFlits (lineBytes data)) e

variable {tg tl tag : Nat}

/-- From `s` on, the answer is that of `s`, where the state before it differs in nothing that the answer is made of. -/
theorem txnAnswered_spec {u : State} (h : Frame l s u) (hl : ∀ p ∈ [Piece.answers, .fab, .ports, .tiles, .esc], p ∉ l) (data : Line)
    (e : Option DropCause) : TxnAnswered s (u.txnAnswered tg tl tag data e) tg tl tag data e := by
  have hfab : u.fab = s.fab := fab_of_frame h (hl _ (by simp)) (hl _ (by simp))
  have hans : u.answers = s.answers := h.same (hl .answers (by simp))
  have hesc : u.esc = s.esc := h.same (hl .esc (by simp))
  have hpkt : ∀ fl, u.answerPkt tl tag fl e = s.answerPkt tl tag fl e := fun fl => by
    have htile : u.tile tl = s.tile tl := h.same (hl .tiles (by simp)) tl
    have hid : u.moduleId = s.moduleId := by rw [State.moduleId, State.moduleId, hfab]
    simp only [State.answerPkt, State.wayBack, State.beat]
    rw [htile, hid, hesc]
  have hout : (u.txnAnswered tg tl tag data e).answers =
      u.answers ++ [u.answerPkt tl tag (if e.isSome then [] else toFlits (lineBytes data)) e] :=
    congrArg (fun p => u.answers ++ [p]) (answerPkt_setFab rfl ..)
  refine ⟨?_, ?_⟩
  · rw [hout, hans, hpkt]
  · change { u.fab with txns := u.fab.txns.filter fun x => x.tag != tg } = _
    rw [hfab]

theorem tileTxn_of_frame {u : State} (h : Frame l s u) (hf : .fab ∉ l) (hp : .ports ∉ l) (htx : TileTxn s tg tl tag) :
    TileTxn u tg tl tag := by
  rw [TileTxn, fab_of_frame h hf hp]
  exact htx

theorem Frame.txnAnswered (h : Frame l s t) (hf : .fab ∈ l) (ha : .answers ∈ l) (data : Line) (e : Option DropCause) :
    Frame l s (t.txnAnswered tg tl tag data e) :=
  (h.setFab (f := { t.fab with txns := t.fab.txns.filter fun x => x.tag != tg }) hf rfl).answer ha ..

/-- The last operation of a tile's transaction retires it and answers the tile. -/
theorem reply_txn (h : TileTxn s tg tl tag) (data : Line) (old : W64) (e : Option DropCause) :
    s.reply (.txn tg tl) data old e = s.txnAnswered tg tl tag data e := by
  change s.txnPart tg data e = _
  unfold TileTxn at h
  unfold State.txnPart
  cases hx : s.fab.txns.find? (fun u => u.tag == tg) with
  | none => simp [hx] at h
  | some x =>
    simp only [hx, Option.any_some, Bool.and_eq_true, beq_iff_eq, Bool.not_eq_true'] at h
    obtain ⟨⟨⟨hsrc, hleft⟩, hheld⟩, herr⟩ := h
    simp only [hsrc, hleft, hheld, herr, show ¬ 2 ≤ 1 by decide, if_false, Bool.false_eq_true]
    rfl

theorem TxnAnswered.congr {u : State} {data : Line} {e : Option DropCause} (h : TxnAnswered s t tg tl tag data e) (ha : u.answers = t.answers)
    (hf : u.fab = t.fab) : TxnAnswered s u tg tl tag data e := by
  rw [TxnAnswered, ha, hf]
  exact h

/-- From `s` to `v` by way of `u`: a tile's transaction has been answered, and then channel `ch` has changed by `g`. -/
structure State.AnsweredThen (s u v : State) (tg tl tag : Nat) (data : Line) (e : Option DropCause) (ch : Nat) (g : Chan → Chan) : Prop where
  spec : TxnAnswered s v tg tl tag data e
  chan : ∀ c, v.chan c = if c = ch then g (u.chan ch) else u.chan c
  inbox : v.mem.inbox = u.mem.inbox

theorem reply_updChan {u : State} (hu : Frame l s u) (hl : ∀ p ∈ [Piece.answers, .fab, .ports, .tiles, .esc], p ∉ l)
    (htx : TileTxn s tg tl tag) (data : Line) (old : W64) (e : Option DropCause) (ch : Nat) (g : Chan → Chan) :
    ∃ v, (u.reply (.txn tg tl) data old e).updChan ch g = v ∧ Frame (l ++ [.chans, .answers, .fab]) s v ∧
      s.AnsweredThen u v tg tl tag data e ch g := by
  refine ⟨_, rfl, ?_, ?_⟩
  all_goals rw [reply_txn (tileTxn_of_frame hu (hl _ (by simp)) (hl _ (by simp)) htx)]
  · exact ((hu.mono (by simp)).txnAnswered (by simp) (by simp) data e).updChan (by simp) ch g
  · exact ⟨(txnAnswered_spec hu hl data e).congr rfl rfl, fun _ => State.chan_updChan .., rfl⟩

end Sys2Proof.Machine
end

section
/-! The map of stack memory and the requests for its lines (R297 to R299, R302, R305, R307, R318): where a byte lies, what an arriving
request does and what ends a write's wait; and obligations O26, O22 and O23 from these. -/

namespace Sys2Proof.Machine

variable {s t : State} {l : List Piece}

/-! ## The map (R297) -/

theorem stackMap_fst (o : Nat) : (stackMap o).1 = o / 256 % 1536 % 12 * 128 + o / 256 % 1536 / 12 := rfl

theorem stackMap_snd (o : Nat) : (stackMap o).2 = (o / 256 / 1536 * 256 + o % 256) / 64 := rfl

/-- Units of 256 bytes go to the twelve stacks in turn. -/
theorem stack_of_offset (o : Nat) : (stackMap o).1 / 128 = o / 256 % 12 := by
  have hmod : o / 256 % 1536 % 12 = o / 256 % 12 := Nat.mod_mod_of_dvd _ (by decide)
  rw [stackMap_fst, hmod]
  omega

theorem channel_lt (o : Nat) : (stackMap o).1 < Config.channels := by
  rw [stackMap_fst, Config.channels]
  omega

theorem line_lt {o : Nat} (ho : o < 0xD800000000) : (stackMap o).2 < Config.linesPerChannel := by
  rw [stackMap_snd, Config.linesPerChannel]
  omega

/-- The place of a line gives its offset back: no two lines share a place. -/
theorem lineAddr_stackMap (o : Nat) : lineAddr (stackMap o).1 (stackMap o).2 = o / 64 * 64 := by
  rw [stackMap_fst, stackMap_snd]
  simp only [lineAddr]
  omega

theorem lineAddr_mod (ch line : Nat) : lineAddr ch line % 64 = 0 := by
  simp only [lineAddr]
  omega

/-- The bytes of a line lie at one place. -/
theorem stackMap_of_line {o p : Nat} (h : p / 64 = o / 64) : stackMap p = stackMap o := by
  refine Prod.ext ?_ ?_
  · rw [stackMap_fst, stackMap_fst, show p / 256 = o / 256 by omega]
  · rw [stackMap_snd, stackMap_snd]
    omega

/-! ## A request arrives -/

section
variable {r : LineReq}

theorem exec_memLineRequest_of_held (hm : s.mayArrive r = false) : exec (.memLineRequest r) s = done s s := by
  simp [exec_memLineRequest, execMemLineRequest, hm]

theorem exec_memLineRequest_of_mayArrive (hm : s.mayArrive r = true) : exec (.memLineRequest r) s =
    done s ((s.setInbox (s.mem.inbox.erase r)).arrive { r with addr := r.addr / 64 * 64 }) := if_pos hm

/-- A request is for a line. -/
theorem exec_memLineRequest_of_line (hm : s.mayArrive r = true) (ha : r.addr % 64 = 0) : exec (.memLineRequest r) s =
    done s ((s.setInbox (s.mem.inbox.erase r)).arrive r) := by
  rw [exec_memLineRequest_of_mayArrive hm, show r.addr / 64 * 64 = r.addr by omega]

theorem arrive_of_beyond (h : Config.stackBytes ≤ r.addr) : s.arrive r = s.reply r.src 0 0 (some .range) := if_pos h

theorem arrive_of_not_ready (h : r.addr < Config.stackBytes) (hst : (s.chan (stackMap r.addr).1).st ≠ 2) :
    s.arrive r = s.reply r.src 0 0 (some .memUncorrectable) := by
  simp [State.arrive, Nat.not_le_of_lt h, hst]

section
variable (h : r.addr < Config.stackBytes) (hst : (s.chan (stackMap r.addr).1).st = 2)
include h hst

theorem arrive_read (hop : r.op = .read) : s.arrive r =
    s.updChan (stackMap r.addr).1 fun x => x.enqueue (if r.cls = 0 then 0 else if r.cls = 2 then 2 else 1) r := by
  simp [State.arrive, Nat.not_le_of_lt h, hst, hop]

theorem arrive_atomic {aop aw off : Nat} {u v : W64} (hop : r.op = .atomic aop aw off u v) :
    s.arrive r = s.updChan (stackMap r.addr).1 fun x => (x.enqueue 1 r).room := by
  simp [State.arrive, Nat.not_le_of_lt h, hst, hop]

theorem arrive_reduce {rf off : Nat} {es : List Byte} (hop : r.op = .reduce rf off es) :
    s.arrive r = s.updChan (stackMap r.addr).1 fun x => (x.enqueue 1 r).room := by
  simp [State.arrive, Nat.not_le_of_lt h, hst, hop]

variable {m : W64} {d : Line} (hop : r.op = .write m d)
include hop

/-- A write behind an older request for its line queues (R302). -/
theorem arrive_write_older (hold : (s.chan (stackMap r.addr).1).older r.addr (s.chan (stackMap r.addr).1).seq = true) :
    s.arrive r = s.updChan (stackMap r.addr).1 fun x => x.enqueue 2 r := by
  simp [State.arrive, Nat.not_le_of_lt h, hst, hop, hold]

variable (hold : (s.chan (stackMap r.addr).1).older r.addr (s.chan (stackMap r.addr).1).seq = false)
include hold

/-- A write that finds no entry waits (R305). -/
theorem arrive_write_lacks (hlacks : (s.chan (stackMap r.addr).1).lacks
      { req := r, at_ := (s.chan (stackMap r.addr).1).slot, seq := (s.chan (stackMap r.addr).1).seq } = true) :
    s.arrive r = s.updChan (stackMap r.addr).1 fun x =>
      Chan.room { x with waiting := x.waiting ++ [{ req := r, at_ := (s.chan (stackMap r.addr).1).slot
                                                    seq := (s.chan (stackMap r.addr).1).seq }], seq := x.seq + 1 } := by
  simp [State.arrive, Nat.not_le_of_lt h, hst, hop, hold, hlacks]

/-- A write that finds an entry enters the buffer and is answered (R305). -/
theorem arrive_write_enters (hlacks : (s.chan (stackMap r.addr).1).lacks
      { req := r, at_ := (s.chan (stackMap r.addr).1).slot, seq := (s.chan (stackMap r.addr).1).seq } = false) :
    s.arrive r = ((s.updChan (stackMap r.addr).1 fun x => x.enter r.addr m d).reply r.src 0 0 none).updChan (stackMap r.addr).1 Chan.room := by
  simp [State.arrive, State.perform, Nat.not_le_of_lt h, hst, hop, hold, hlacks]

end
end

/-! ## What a request does -/

/-- A command that changes one channel. -/
theorem Does.of_updChan {c : Instr} {ch : Nat} {f : Chan → Chan} (hc : Clean s) (he : exec c s = done s (s.updChan ch f)) :
    Does c s [.chans] fun t => ∀ c, t.chan c = if c = ch then f (s.chan c) else s.chan c := by
  refine Does.of_frame he ((Frame.refl hc).updChan (by simp) ..) fun c => ?_
  rw [endOf_chan, State.chan_updChan]
  split
  next h => rw [h]
  next => rfl

section
variable {r : LineReq} {rs : List LineReq} {c : Instr}

/-- A request that arrives changes its channel, and is on its way no more. -/
theorem does_arrived {ch : Nat} {f : Chan → Chan} (hc : Clean s) (he : exec c s = done s ((s.setInbox rs).updChan ch f)) :
    Does c s [.chans, .inbox] fun t => t.mem.inbox = rs ∧ ∀ c, t.chan c = if c = ch then f (s.chan ch) else s.chan c :=
  Does.of_frame he (((Frame.refl hc).setInbox (by simp) rs).updChan (by simp) ..) ⟨rfl, fun _ => State.chan_updChan ..⟩

variable {tg tl tag : Nat}

/-- A request that is refused is answered with its cause. -/
theorem does_refusedLine (htx : TileTxn s tg tl tag) {e : DropCause} (hc : Clean s)
    (he : exec c s = done s ((s.setInbox rs).reply (.txn tg tl) 0 0 (some e))) :
    Does c s [.inbox, .answers, .fab] fun t => t.mem.inbox = rs ∧ TxnAnswered s t tg tl tag 0 (some e) := by
  have hbox : Frame [.inbox] s (s.setInbox rs) := (Frame.refl hc).setInbox (by simp) rs
  rw [reply_txn (tileTxn_of_frame hbox (by simp) (by simp) htx)] at he
  exact Does.of_frame he ((hbox.mono (by simp)).txnAnswered (by simp) (by simp) 0 (some e))
    ⟨rfl, (txnAnswered_spec hbox (by simp) 0 (some e)).congr rfl rfl⟩

theorem memByte_of_clean (hc : Clean s) (a : Nat) : s.memByte a = Memory.get s.mem.bytes a := by
  obtain ⟨-, hlog, -, hwipe⟩ := hc
  rw [State.memByte, hlog, hwipe]
  rfl

/-- A command without writes to the stacks leaves the stored lines. -/
theorem storedLine_endOf (hs : Clean s) (ht : Clean t) (a : Nat) : (endOf s t).storedLine a = s.storedLine a := by
  obtain ⟨-, hlog, -, hwipe⟩ := ht
  have hbyte : ∀ x, (endOf s t).memByte x = s.memByte x := fun x => by
    rw [memByte_of_clean (endOf_clean s t), memByte_of_clean hs, endOf_bytes s t hlog hwipe]
  simp only [State.storedLine, hbyte]

/-- A write that enters the buffer in a state that differs in channels and requests on their way alone: it is answered, and the line then
reads with the write's bytes laid over what it held (R305, R307). -/
theorem does_writeEnters {u : State} {ch a : Nat} {m : W64} {d : Line} (hu : Frame [.chans, .inbox] s u) (huw : u.chan = s.chan)
    (htx : TileTxn s tg tl tag) (hg : s.mark a = .good) (hc : Clean s)
    (he : exec c s = done s (((u.updChan ch fun x => x.enter a m d).reply (.txn tg tl) 0 0 none).updChan ch Chan.room)) :
    Does c s [.chans, .inbox, .answers, .fab] fun t => (t.mem.inbox = u.mem.inbox ∧ TxnAnswered s t tg tl tag 0 none) ∧
      (t.readLine ch a).1 = mergeLine (s.readLine ch a).1 d m ∧ ∀ c, c ≠ ch → t.chan c = s.chan c := by
  obtain ⟨v, hv, hframe, hans⟩ := reply_updChan (hu.updChan (by simp) ch fun x => x.enter a m d) (by simp) htx 0 0 none ch Chan.room
  rw [hv] at he
  have hentered : (u.updChan ch fun x => x.enter a m d).chan ch = (s.chan ch).enter a m d := by
    rw [State.chan_updChan, if_pos rfl, huw]
  refine Does.of_frame he (hframe.mono (by simp)) ⟨⟨hans.inbox, hans.spec.congr rfl rfl⟩, ?_, fun c hne => ?_⟩
  · have hgood : (endOf s v).mark a = .good := (mark_of_marks rfl a).trans ((mark_of_frame hframe (by simp) a).trans hg)
    have hwcb : (v.chan ch).wcb = ((s.chan ch).enter a m d).wcb := by rw [hans.chan, if_pos rfl, room_wcb, hentered]
    rw [readLine_of_good hgood, readLine_of_good hg, storedLine_endOf hc hframe.clean, endOf_chan, laid_of_wcb hwcb, laid_enter]
  · rw [endOf_chan, hans.chan, if_neg hne, State.chan_updChan, if_neg hne, huw]

end

/-- Settles O26: the map by arithmetic, and the answer to a tile's request beyond the stacks. -/
theorem stackMapKeepsLinesApart : Obligations.StackMap := by
  unfold Obligations.StackMap
  refine ⟨fun s tl tag a op cls hc ha hm => ?_, fun o ho => ?_⟩
  · have hbeyond : Config.stackBytes ≤ a / 64 * 64 := by rw [Config.stackBytes]; omega
    refine Does.of_frame ((exec_memLineRequest_of_mayArrive hm).trans (congrArg (done s) (arrive_of_beyond hbeyond)))
      (((Frame.refl hc).setInbox (by simp) _).answer (by simp) ..) rfl
  · extract_lets u c loc
    have hu : u = o / 256 := Nat.shiftRight_eq_div_pow o 8
    have hloc : loc = o / 256 / 1536 * 256 + o % 256 := by unfold loc; rw [hu]
    refine ⟨by unfold c; rw [stackMap_fst, hu], by rw [stackMap_snd, hloc, Nat.shiftRight_eq_div_pow], channel_lt o, line_lt ho, ?_, ?_, ?_,
      fun p => stackMap_of_line⟩
    · rw [lineAddr_stackMap, hloc]
      omega
    · rw [stack_of_offset, stack_of_offset]
      omega
    · rw [stack_of_offset, stack_of_offset]
      omega

/-- Settles O22: what each case of an arriving request does. -/
theorem lineRequests : Obligations.LineRequests := by
  unfold Obligations.LineRequests
  intro s tg tl tag a cls m d op hc ha htx r ch x q became answered
  let u := s.setInbox (s.mem.inbox.erase r)
  have he : s.mayArrive r = true → exec (.memLineRequest r) s = done s (u.arrive r) := fun hm => exec_memLineRequest_of_line hm ha
  have hqueued : ∀ f : Chan → Chan, s.mayArrive r = true → u.arrive r = u.updChan ch f →
      Does (.memLineRequest r) s [.chans, .inbox] fun t => became t (f x) := fun f hm h =>
    does_arrived hc ((he hm).trans (congrArg (done s) h))
  have hrefused : ∀ e : DropCause, s.mayArrive r = true → u.arrive r = u.reply (.txn tg tl) 0 0 (some e) →
      Does (.memLineRequest r) s [.inbox, .answers, .fab] fun t => answered t (some e) := fun e hm h =>
    does_refusedLine htx hc ((he hm).trans (congrArg (done s) h))
  refine ⟨fun hm => Does.of_idle hc (exec_memLineRequest_of_held hm), fun hm hlt hst => ?_,
    fun hm hlt hst => hrefused _ hm (arrive_of_not_ready (s := u) (r := r) hlt hst),
    fun hm hge => hrefused _ hm (arrive_of_beyond (s := u) (r := r) hge)⟩
  refine ⟨fun hop => ?_, fun aop aw off v w hop => ?_, fun rf off es hop => ?_, fun hop hold hlacks hg => ?_, fun hop hold => ?_,
    fun hop hold hlacks => ?_⟩
  · exact hqueued _ hm (arrive_read (s := u) (r := r) hlt hst hop)
  · exact hqueued _ hm (arrive_atomic (s := u) (r := r) hlt hst hop)
  · exact hqueued _ hm (arrive_reduce (s := u) (r := r) hlt hst hop)
  · exact does_writeEnters ((Frame.refl hc).setInbox (by simp) _) rfl htx hg hc
      ((he hm).trans (congrArg (done s) (arrive_write_enters (s := u) (r := r) hlt hst hop hold hlacks)))
  · exact hqueued _ hm (arrive_write_older (s := u) (r := r) hlt hst hop hold)
  · exact hqueued _ hm (arrive_write_lacks (s := u) (r := r) hlt hst hop hold hlacks)

/-! ## The end of a write's wait, and the eviction of an idle entry (R305, R306) -/

/-- The channel that has granted a request, for starvation or in its turn (R301). -/
def Chan.granted (x : Chan) (q : QReq) (starved : Bool) : Chan :=
  { x.drop q with stats := if starved then addFld x.stats 0 16 1 else x.stats }

theorem serve_eq (ch : Nat) (q : QReq) (starved : Bool) :
    s.serve ch q starved = ((s.updChan ch fun x => x.granted q starved).perform ch q.req).updChan ch Chan.room := rfl

theorem enter_waiting (x : Chan) (a : Nat) (m : W64) (d : Line) : (x.enter a m d).waiting = x.waiting := by
  rw [Chan.enter]
  split <;> rfl

section
variable {ch : Nat} {q : QReq} {rest : List QReq}

theorem exec_wcbWriteWaitEnd_of_waits (h : (s.chan ch).waiting = [] ∨
    ((s.chan ch).waiting = q :: rest ∧ ((s.chan ch).lacks q = true ∨ (s.chan ch).older q.req.addr q.seq = true))) :
    exec (.wcbWriteWaitEnd ch) s = done s s := by
  rw [exec_wcbWriteWaitEnd, execWcbWriteWaitEnd]
  rcases h with h | ⟨h, hw⟩
  · rw [h]
  · rw [h]
    exact if_pos hw

theorem exec_wcbWriteWaitEnd_of_free (h : (s.chan ch).waiting = q :: rest) (hlacks : (s.chan ch).lacks q = false)
    (hold : (s.chan ch).older q.req.addr q.seq = false) : exec (.wcbWriteWaitEnd ch) s = done s (s.serve ch q false) := by
  rw [exec_wcbWriteWaitEnd, execWcbWriteWaitEnd, h]
  exact if_neg (by simp [hlacks, hold])

theorem does_writeWaitEnd {tg tl tag : Nat} {m : W64} {d : Line} (h : (s.chan ch).waiting = q :: rest) (hop : q.req.op = .write m d)
    (hsrc : q.req.src = .txn tg tl) (htx : TileTxn s tg tl tag) (hlacks : (s.chan ch).lacks q = false)
    (hold : (s.chan ch).older q.req.addr q.seq = false) (hc : Clean s) :
    Does (.wcbWriteWaitEnd ch) s [.chans, .answers, .fab] fun t => TxnAnswered s t tg tl tag 0 none ∧
      (t.chan ch).waiting.map (·.seq) = rest.map (·.seq) ∧ t.chan ch = (((s.chan ch).drop q).enter q.req.addr m d).room ∧
      ∀ c, c ≠ ch → t.chan c = s.chan c := by
  let u := (s.updChan ch fun x => x.granted q false).updChan ch fun x => x.enter q.req.addr m d
  have hu : Frame [.chans] s u := ((Frame.refl hc).updChan (by simp) ..).updChan (by simp) ..
  obtain ⟨v, hv, hframe, hans⟩ := reply_updChan hu (by simp) htx 0 0 none ch Chan.room
  have he : exec (.wcbWriteWaitEnd ch) s = done s v := by
    rw [exec_wcbWriteWaitEnd_of_free h hlacks hold, serve_eq, State.perform, hop, hsrc]
    exact congrArg (done s) hv
  have hchan : v.chan ch = (((s.chan ch).drop q).enter q.req.addr m d).room := by
    rw [hans.chan, if_pos rfl, State.chan_updChan, if_pos rfl, State.chan_updChan, if_pos rfl]
    rfl
  refine Does.of_frame he (hframe.mono (by simp)) ⟨hans.spec.congr rfl rfl, ?_, hchan, fun c hne => ?_⟩
  · rw [endOf_chan, hchan, room_waiting, enter_waiting, Chan.drop, h, List.erase_cons_head]
  · rw [endOf_chan, hans.chan, if_neg hne, State.chan_updChan, if_neg hne, State.chan_updChan, if_neg hne]

theorem queueEvict_eq (x : Chan) (a : Nat) : x.queueEvict a = { x with writes := (x.queueEvict a).writes, seq := (x.queueEvict a).seq } := by
  rw [Chan.queueEvict]
  split <;> rfl

theorem exec_wcbIdleEvict_of_idle {line : Nat} {w : WcbE} (hw : (s.chan ch).entry (lineAddr ch line) = some w)
    (hidle : fld s.mem.cfg 16 16 ≠ 0) (hlong : w.touched + 2 * fld s.mem.cfg 16 16 ≤ (s.chan ch).slot) :
    exec (.wcbIdleEvict ch line) s = done s (s.updChan ch fun x => x.queueEvict (lineAddr ch line)) := by
  rw [exec_wcbIdleEvict]
  simp only [execWcbIdleEvict, hw]
  exact if_pos ⟨hidle, hlong⟩

end

/-- Settles O23: the oldest waiting write is served when it can be, and an idle entry's eviction is queued. -/
theorem writeCombining : Obligations.WriteCombining := by
  unfold Obligations.WriteCombining
  intro s ch line tg tl tag q rest m d w hc x
  refine ⟨fun h hop hsrc htx hlacks hold => does_writeWaitEnd h hop hsrc htx hlacks hold hc,
    fun h => Does.of_idle hc (exec_wcbWriteWaitEnd_of_waits h), fun hw hidle hlong => ?_⟩
  refine (Does.of_updChan hc (exec_wcbIdleEvict_of_idle hw hidle hlong)).imp fun t ht => ?_
  have hch : t.chan ch = x.queueEvict (lineAddr ch line) := (ht ch).trans (if_pos rfl)
  rw [hch]
  exact ⟨queueEvict_evicts .., queueEvict_eq .., fun c hne => (ht c).trans (if_neg hne)⟩

end Sys2Proof.Machine
end

section
/-! A channel's line slots and its test (R300, R301, R306, R307, R314, R319 to R321): the throttle levels, what a slot serves, how an entry is
evicted and how a channel enters and leaves TEST; and obligations O27, O24 and O25 from these. -/

namespace Sys2Proof.Machine

variable {s t : State} {l : List Piece} {ch : Nat}

/-! ## Throttle levels (R314) -/

theorem tempLevel_eq_zero {n : Nat} : tempLevel n = 0 ↔ n < 380 := by
  unfold tempLevel
  split_ifs <;> simp <;> omega

theorem tempLevel_eq_one {n : Nat} : tempLevel n = 1 ↔ 380 ≤ n ∧ n < 392 := by
  unfold tempLevel
  split_ifs <;> simp <;> omega

theorem tempLevel_eq_two {n : Nat} : tempLevel n = 2 ↔ 392 ≤ n ∧ n < 408 := by
  unfold tempLevel
  split_ifs <;> simp <;> omega

theorem tempLevel_eq_three {n : Nat} : tempLevel n = 3 ↔ 408 ≤ n ∧ n < 420 := by
  unfold tempLevel
  split_ifs <;> simp <;> omega

theorem tempLevel_eq_four {n : Nat} : tempLevel n = 4 ↔ 420 ≤ n := by
  unfold tempLevel
  split_ifs <;> simp <;> omega

/-- A level allows its number of traffic slots in a frame, and none of the refresh slots and the scrub slot carries traffic (R300). -/
theorem slotCarries_levelSlots (k : Nat) :
    (List.range 100).countP (fun i => slotCarries i (levelSlots k)) = levelSlots k ∧
      ∀ i ∈ [0, 33, 66, 99], slotCarries i (levelSlots k) = false := by
  match k with
  | 0 => decide
  | 1 => decide
  | 2 => decide
  | 3 => decide
  | _ + 4 =>
    change (List.range 100).countP (fun i => slotCarries i 0) = 0 ∧ ∀ i ∈ [0, 33, 66, 99], slotCarries i 0 = false
    decide

/-! ## What a slot serves (R300) -/

/-- The slot of a channel passes. -/
def State.passSlot (s : State) (ch : Nat) : State := s.updChan ch fun x => { x with slot := x.slot + 1 }

section
variable (h99 : (s.chan ch).slot % 100 ≠ 99) (hst : (s.chan ch).st = 2)
include h99 hst

theorem exec_channelLineSlot_of_none
    (h : slotCarries ((s.chan ch).slot % 100) (levelSlots (fld (s.stack (ch / 128)).therm 24 3)) = false ∨ s.pick ch = none) :
    exec (.channelLineSlot ch .ok) s = done s (s.passSlot ch) := by
  rw [exec_channelLineSlot]
  simp only [execChannelLineSlot, if_neg h99, hst, show ¬ (2 = 3) by decide, if_false, true_and]
  rcases h with h | h
  · rw [h, if_neg (by decide)]
    rfl
  · rw [h]
    exact ite_self _

theorem exec_channelLineSlot_of_pick {q : QReq} {starved : Bool}
    (hcarries : slotCarries ((s.chan ch).slot % 100) (levelSlots (fld (s.stack (ch / 128)).therm 24 3)) = true)
    (hpick : s.pick ch = some (q, starved)) : exec (.channelLineSlot ch .ok) s = done s ((s.serve ch q starved).passSlot ch) := by
  rw [exec_channelLineSlot]
  simp only [execChannelLineSlot, if_neg h99, hst, show ¬ (2 = 3) by decide, if_false, true_and, hcarries, if_true, hpick]
  rfl

end

/-! ## A read is served (R307) -/

theorem perform_read {r : LineReq} (hop : r.op = .read) : s.perform ch r = (s.readLine ch r.addr).2.2.reply r.src (s.readLine ch r.addr).1 0
    (if (s.readLine ch r.addr).2.1 then some .memUncorrectable else none) := by
  rw [State.perform, hop]

theorem does_readServed {c : Instr} {q : QReq} {starved : Bool} {tg tl tag : Nat} (hc : Clean s)
    (he : exec c s = done s ((s.serve ch q starved).passSlot ch)) (hg : s.mark q.req.addr = .good) (hop : q.req.op = .read)
    (hsrc : q.req.src = .txn tg tl) (htx : TileTxn s tg tl tag) : Does c s [.chans, .answers, .fab] fun t =>
      TxnAnswered s t tg tl tag (s.readLine ch q.req.addr).1 none ∧
      t.chan ch = { ((s.chan ch).granted q starved).room with slot := (s.chan ch).slot + 1 } ∧ (t.chan ch).wcb = (s.chan ch).wcb ∧
      ∀ c, c ≠ ch → t.chan c = s.chan c := by
  let u := s.updChan ch fun x => x.granted q starved
  have hu : Frame [.chans] s u := (Frame.refl hc).updChan (by simp) ..
  have hgranted : u.chan ch = (s.chan ch).granted q starved := by rw [State.chan_updChan, if_pos rfl]
  have hline : u.readLine ch q.req.addr = ((s.readLine ch q.req.addr).1, false, u) := by
    have hwcb : (u.chan ch).wcb = (s.chan ch).wcb := by rw [hgranted]; rfl
    rw [readLine_of_good ((mark_of_frame hu (by simp) _).trans hg), readLine_of_good hg, laid_of_wcb hwcb]
    rfl
  obtain ⟨v, hv, hframe, hans⟩ := reply_updChan hu (by simp) htx (s.readLine ch q.req.addr).1 0 none ch Chan.room
  have hserve : s.serve ch q starved = v := by
    rw [serve_eq, perform_read hop, hline, hsrc]
    exact hv
  rw [hserve] at he
  have hchan : (v.passSlot ch).chan ch = { ((s.chan ch).granted q starved).room with slot := (s.chan ch).slot + 1 } := by
    rw [State.passSlot, State.chan_updChan, if_pos rfl, hans.chan, if_pos rfl, hgranted, room_slot]
    rfl
  refine Does.of_frame he ((hframe.mono (by simp)).updChan (by simp) ..) ⟨hans.spec.congr rfl rfl, hchan, ?_, fun c hne => ?_⟩
  · rw [endOf_chan, hchan]
    exact room_wcb _
  · rw [endOf_chan, State.passSlot, State.chan_updChan, if_neg hne, hans.chan, if_neg hne, State.chan_updChan, if_neg hne]

/-! ## An entry is evicted (R306) -/

section
variable {a : Nat} {w : WcbE}

/-- From `s` to the state `u` with its waiting writes `log`, the entry of line `a` has left its channel's buffer, and its bytes have been
written over the line, which held no error. -/
structure State.LineEvicted (s : State) (ch a : Nat) (u : State) (log : List Host.Cell) : Prop where
  frame : Frame [.chans, .memMarks, .queues] s u
  entry : (u.chan ch).entry a = none
  others : ∀ c, c ≠ ch → u.chan c = s.chan c
  marks : ∀ k, u.wordMark k = s.wordMark k
  bytes : ∀ x, (u.setMemLog log).memByte x =
    if a ≤ x ∧ x < a + 64 then nth 0 (lineBytes ((s.chan ch).laid a (s.storedLine a))) (x - a) else s.memByte x

theorem entry_eq_none_of_filter {x : Chan} {es : List WcbE} (h : x.wcb = es.filter fun e => e.addr != a) : x.entry a = none := by
  simp [Chan.entry, h]

theorem lineBytes_length (v : Line) : (lineBytes v).length = 64 := leBytes_length ..

theorem unfence_chan (s : State) (ch a c : Nat) : (s.unfence ch a).chan c = s.chan c := rfl

/-- The entry of line `a` has left its channel's buffer, and no FENCE waits for it any longer. -/
def State.unbuffered (s : State) (ch a : Nat) : State :=
  (s.updChan ch fun x => Chan.pressed { x with wcb := x.wcb.filter fun e => e.addr != a }).unfence ch a

/-- A read-modify-write of channel `ch` counts. -/
def State.merged (s : State) (ch : Nat) : State := s.updChan ch fun x => { x with stats := addFld x.stats 16 16 1 }

theorem evictLine_of_none (hw : (s.chan ch).entry a = none) : s.evictLine ch a = s := by rw [State.evictLine, hw]

theorem evictLine_of_full (hw : (s.chan ch).entry a = some w) (hfull : w.mask = fullMask) :
    s.evictLine ch a = ((s.unbuffered ch a).putLine a w.data).setMark a .good := by
  rw [State.evictLine, hw]
  exact if_pos hfull

theorem evictLine_of_part (hw : (s.chan ch).entry a = some w) (hpart : w.mask ≠ fullMask) :
    s.evictLine ch a = match ((s.unbuffered ch a).merged ch).mark a with
      | .good => ((s.unbuffered ch a).merged ch).putLine a (mergeLine (((s.unbuffered ch a).merged ch).storedLine a) w.data w.mask)
      | .single _ => ((((s.unbuffered ch a).merged ch).updChan ch fun x =>
          { x with ecc := addFld x.ecc 0 16 (((s.unbuffered ch a).merged ch).singles a) }).putLine a
            (mergeLine (((s.unbuffered ch a).merged ch).storedLine a) w.data w.mask)).cureLine a
      | _ => ((s.unbuffered ch a).merged ch).memBad ch a := by
  rw [State.evictLine, hw]
  exact if_neg hpart

theorem Frame.unbuffered (h : Frame l s t) (hc : .chans ∈ l) (hq : .queues ∈ l) (ch a : Nat) : Frame l s (t.unbuffered ch a) :=
  (h.updChan hc ..).unfence hq ..

theorem unbuffered_chan (s : State) (ch a c : Nat) : (s.unbuffered ch a).chan c = if c = ch then
    Chan.pressed { s.chan ch with wcb := (s.chan ch).wcb.filter fun e => e.addr != a } else s.chan c :=
  (unfence_chan ..).trans (State.chan_updChan ..)

theorem merged_chan (s : State) (ch c : Nat) : (s.merged ch).chan c = if c = ch then
    { s.chan ch with stats := addFld (s.chan ch).stats 16 16 1 } else s.chan c := State.chan_updChan ..

theorem memByte_of_frame (hc : Clean s) (h : Frame l s t) (hl : .bytes ∉ l) (x : Nat) : t.memByte x = s.memByte x := by
  rw [memByte_of_clean h.clean, memByte_of_clean hc]
  exact h.same hl x

theorem storedLine_of_frame (hc : Clean s) (h : Frame l s t) (hl : .bytes ∉ l) (a : Nat) : t.storedLine a = s.storedLine a := by
  simp only [State.storedLine, memByte_of_frame hc h hl]

/-- What stands in the stacks and waits to be written there, after a change of other parts. -/
theorem memByte_setMemLog (hc : Clean s) (h : Frame l s t) (hl : .bytes ∉ l) (log : List Host.Cell) (x : Nat) :
    (t.setMemLog log).memByte x = (s.setMemLog log).memByte x := by
  obtain ⟨-, -, -, hwipe⟩ := hc
  obtain ⟨-, -, -, htwipe⟩ := h.clean
  simp only [State.memByte, State.setMemLog, hwipe, htwipe, show Memory.get t.mem.bytes x = Memory.get s.mem.bytes x from h.same hl x]

theorem wordMark_of_frame (h : Frame l s t) (hl : .memMarks ∉ l) (k : Nat) : t.wordMark k = s.wordMark k := by
  rw [State.wordMark, State.wordMark, show t.mem.marks = s.mem.marks from h.same hl]

theorem evictLine_of_good (hc : Clean s) (hw : (s.chan ch).entry a = some w) (hg : s.mark a = .good) :
    ∃ u log, s.evictLine ch a = u.setMemLog log ∧ s.LineEvicted ch a u log := by
  have hlaid : (s.chan ch).laid a (s.storedLine a) = mergeLine (s.storedLine a) w.data w.mask := by rw [Chan.laid, hw]
  have hv : Frame [.chans, .queues] s (s.unbuffered ch a) := (Frame.refl hc).unbuffered (by simp) (by simp) ch a
  have hm : Frame [.chans, .queues] s ((s.unbuffered ch a).merged ch) := hv.updChan (by simp) ..
  by_cases hfull : w.mask = fullMask
  · obtain ⟨log, hlog⟩ := putMemBytes_eq (s.unbuffered ch a) a (lineBytes w.data)
    obtain ⟨m, hmarks, hget⟩ := mapMarks_eq ((s.unbuffered ch a).setMemLog log) a fun _ _ => .good
    have he : s.evictLine ch a = ((s.unbuffered ch a).setMarks m).setMemLog log := by
      rw [evictLine_of_full hw hfull, State.putLine, hlog, State.setMark, hmarks]
      rfl
    refine ⟨_, log, he, (hv.mono (by simp)).setMarks (by simp) m, ?_, fun c hne => ?_, fun k => ?_, fun x => ?_⟩
    · exact entry_eq_none_of_filter (congrArg Chan.wcb ((unbuffered_chan s ch a ch).trans (if_pos rfl)))
    · exact (unbuffered_chan s ch a c).trans (if_neg hne)
    · refine (hget k).trans ?_
      rw [show ((s.unbuffered ch a).setMemLog log).wordMark k = s.wordMark k from wordMark_of_frame hv (by simp) k]
      refine ite_eq_right_iff.mpr fun ⟨hlo, hhi⟩ => ?_
      obtain ⟨j, rfl⟩ := Nat.exists_eq_add_of_le hlo
      exact (mark_eq_good_iff.mp hg j (by omega)).symm
    · change ((s.unbuffered ch a).setMemLog log).memByte x = _
      rw [← hlog, memByte_putMemBytes, lineBytes_length, hlaid, hfull, mergeLine_full, memByte_of_frame hc hv (by simp)]
  · have hgood : ((s.unbuffered ch a).merged ch).mark a = .good := (mark_of_frame hm (by simp) a).trans hg
    obtain ⟨log, hlog⟩ := putMemBytes_eq ((s.unbuffered ch a).merged ch) a (lineBytes (mergeLine (s.storedLine a) w.data w.mask))
    have he : s.evictLine ch a = ((s.unbuffered ch a).merged ch).setMemLog log := by
      rw [evictLine_of_part hw hfull, hgood, storedLine_of_frame hc hm (by simp)]
      exact hlog
    refine ⟨_, log, he, hm.mono (by simp), entry_eq_none_of_filter (es := (s.chan ch).wcb) ?_, fun c hne => ?_,
      wordMark_of_frame hm (by simp), fun x => ?_⟩
    · rw [merged_chan, if_pos rfl, unbuffered_chan, if_pos rfl]
      rfl
    · rw [merged_chan, if_neg hne, unbuffered_chan, if_neg hne]
    · rw [← hlog, memByte_putMemBytes, lineBytes_length, hlaid, memByte_of_frame hc hm (by simp)]

theorem perform_evict {r : LineReq} (hop : r.op = .evict) : s.perform ch r = s.evictLine ch r.addr := by rw [State.perform, hop]

/-- After a request has been served, those that wait get room, and the slot passes. -/
theorem roomThenPass (hc : Clean s) (ch : Nat) : ∃ e, (s.updChan ch Chan.room).passSlot ch = e ∧ Frame [.chans] s e ∧
    ∀ c, e.chan c = if c = ch then { (s.chan ch).room with slot := (s.chan ch).room.slot + 1 } else s.chan c := by
  refine ⟨_, rfl, ((Frame.refl hc).updChan (by simp) ..).updChan (by simp) .., fun c => ?_⟩
  rw [State.passSlot, State.chan_updChan, State.chan_updChan, if_pos rfl, State.chan_updChan]
  split <;> rfl

theorem does_evictionServed {c : Instr} {q : QReq} {starved : Bool} (hc : Clean s)
    (he : exec c s = done s ((s.serve ch q starved).passSlot ch)) (hg : s.mark q.req.addr = .good) (hop : q.req.op = .evict)
    (hw : (s.chan ch).entry q.req.addr = some w) : Does c s [.chans, .memMarks, .bytes, .queues] fun t =>
      (∀ k < 64, Memory.get t.mem.bytes (q.req.addr + k) = ((lineBytes (s.readLine ch q.req.addr).1)[k]?).getD 0) ∧
      (∀ x, x < q.req.addr ∨ q.req.addr + 64 ≤ x → Memory.get t.mem.bytes x = Memory.get s.mem.bytes x) ∧
      (t.chan ch).entry q.req.addr = none ∧ (∀ a, t.mark a = s.mark a) ∧ ∀ c, c ≠ ch → t.chan c = s.chan c := by
  let v := s.updChan ch fun x => x.granted q starved
  have hv : Frame [.chans] s v := (Frame.refl hc).updChan (by simp) ..
  have hvchan : v.chan ch = (s.chan ch).granted q starved := by rw [State.chan_updChan, if_pos rfl]
  have hvw : (v.chan ch).entry q.req.addr = some w := by rw [hvchan]; exact hw
  obtain ⟨u, log, hu, hev⟩ := evictLine_of_good hv.clean hvw ((mark_of_frame hv (by simp) _).trans hg)
  obtain ⟨e, hpass, hpassed, hchan⟩ := roomThenPass hev.frame.clean ch
  have hend : (s.serve ch q starved).passSlot ch = e.setMemLog log := by
    rw [serve_eq, perform_evict hop, hu, State.passSlot, updChan_setMemLog, updChan_setMemLog, ← hpass]
    rfl
  have hbase : ((s.serve ch q starved).passSlot ch).mem.bytes = s.mem.bytes := congrArg (fun b => b.2.2) (serve_base s ch q starved)
  rw [hend] at he hbase
  have hframe : Frame [.chans, .memMarks, .queues] s e := ((hv.mono (by simp)).trans hev.frame).trans (hpassed.mono (by simp))
  have hbytes : ∀ x, Memory.get (endOf s (e.setMemLog log)).mem.bytes x = if q.req.addr ≤ x ∧ x < q.req.addr + 64 then
      nth 0 (lineBytes (s.readLine ch q.req.addr).1) (x - q.req.addr) else Memory.get s.mem.bytes x := fun x => by
    have hlaid : (s.readLine ch q.req.addr).1 = (v.chan ch).laid q.req.addr (v.storedLine q.req.addr) := by
      rw [readLine_of_good hg, hvchan, storedLine_of_frame hc hv (by simp)]
      rfl
    rw [endOf_get_bytes s _ hbase, memByte_setMemLog hev.frame.clean hpassed (by simp), hev.bytes, hlaid, memByte_of_frame hc hv (by simp),
      memByte_of_clean hc]
  refine Does.of_memLog he (hframe.mono (by simp)) (by simp) ⟨fun k hk => ?_, fun x hx => ?_, ?_, fun a => ?_, fun c hne => ?_⟩
  · rw [hbytes, if_pos (by omega), Nat.add_sub_cancel_left]
    rfl
  · rw [hbytes, if_neg (by omega)]
  · have hwcb : ((endOf s (e.setMemLog log)).chan ch).wcb = (u.chan ch).wcb := by
      rw [show (endOf s (e.setMemLog log)).chan ch = e.chan ch from rfl, hchan, if_pos rfl]
      exact room_wcb _
    rw [Chan.entry, hwcb]
    exact hev.entry
  · have hword : ∀ k, e.wordMark k = s.wordMark k := fun k =>
      (wordMark_of_frame hpassed (by simp) k).trans ((hev.marks k).trans (wordMark_of_frame hv (by simp) k))
    exact mark_congr fun j _ => hword (a / 8 + j)
  · rw [show (endOf s (e.setMemLog log)).chan c = e.chan c from rfl, hchan, if_neg hne, hev.others c hne, State.chan_updChan, if_neg hne]

end

/-! ## The scrub slot (R309, R311, R312) -/

section
variable (h99 : (s.chan ch).slot % 100 = 99) (hst : (s.chan ch).st = 2 ∨ (s.chan ch).st = 3)

/-- The scrubber's line of a channel. -/
def State.scrubLine (s : State) (ch : Nat) : Nat := lineAddr ch (s.chan ch).scrub

/-- The scrubber has gone on to its next line; a pass over the whole channel counts. -/
def Chan.scrubbed (x : Chan) : Chan :=
  { x with
    scrub := (x.scrub + 1) % Config.linesPerChannel
    stats := if (x.scrub + 1) % Config.linesPerChannel = 0 then addFld x.stats 48 16 1 else x.stats }

/-- The state in which the scrubber of a channel has gone on. -/
def State.scrubOn (s : State) (ch : Nat) : State := s.updChan ch Chan.scrubbed

theorem exec_stackScrubSlot_of_other (h : (s.chan ch).slot % 100 ≠ 99) : exec (.stackScrubSlot ch .ok) s = done s s := if_pos h

include h99

theorem exec_stackScrubSlot_of_closed (h2 : (s.chan ch).st ≠ 2) (h3 : (s.chan ch).st ≠ 3) :
    exec (.stackScrubSlot ch .ok) s = done s (s.passSlot ch) := by
  rw [exec_stackScrubSlot, execStackScrubSlot]
  exact (if_neg (not_not.2 h99)).trans (if_pos ⟨h2, h3⟩)

include hst

/-- What the scrubber makes of its line is as the line's error is. -/
theorem exec_stackScrubSlot_of_open : exec (.stackScrubSlot ch .ok) s = match s.mark (s.scrubLine ch) with
    | .single _ => done s (((s.scrubOn ch).corrected ch (s.scrubLine ch)).passSlot ch)
    | .good => done s ((s.scrubOn ch).passSlot ch)
    | _ => done s ((((s.scrubOn ch).setMark (s.scrubLine ch) .poison).updChan ch fun y =>
        { y with ecc := setFld (setBit y.ecc 17 true) 32 24 (s.chan ch).scrub }).passSlot ch) := by
  have hopen : ¬ ((s.chan ch).st ≠ 2 ∧ (s.chan ch).st ≠ 3) := fun ⟨h2, h3⟩ => hst.elim h2 h3
  rw [exec_stackScrubSlot, execStackScrubSlot]
  exact (if_neg (not_not.2 h99)).trans (if_neg hopen)

theorem does_scrub_good (hl : .chans ∈ l) (hc : Clean s) (hg : s.mark (s.scrubLine ch) = .good) :
    Does (.stackScrubSlot ch .ok) s l fun t => (t.chan ch).scrub = ((s.chan ch).scrub + 1) % Config.linesPerChannel ∧
      (t.chan ch).slot = (s.chan ch).slot + 1 ∧ (∀ c, c ≠ ch → t.chan c = s.chan c) ∧ (t.chan ch).ecc = (s.chan ch).ecc := by
  have he := exec_stackScrubSlot_of_open h99 hst
  rw [hg] at he
  have hchan : ((s.scrubOn ch).passSlot ch).chan ch = { (s.chan ch).scrubbed with slot := (s.chan ch).slot + 1 } := by
    simp only [State.scrubOn, State.passSlot, State.chan_updChan, if_true]
    rfl
  refine Does.of_frame he (((Frame.refl hc).updChan hl ..).updChan hl ..) ?_
  rw [endOf_chan, hchan]
  refine ⟨rfl, rfl, fun c hne => ?_, rfl⟩
  simp only [endOf_chan, State.scrubOn, State.passSlot, State.chan_updChan, if_neg hne]

/-- A line with single-bit errors is corrected, and its write-back queued (R309). -/
theorem does_scrub_single {b : Nat} (hc : Clean s) (hg : s.mark (s.scrubLine ch) = .single b) :
    Does (.stackScrubSlot ch .ok) s [.chans] fun t => ((t.chan ch).scrub = ((s.chan ch).scrub + 1) % Config.linesPerChannel ∧
      (t.chan ch).slot = (s.chan ch).slot + 1 ∧ ∀ c, c ≠ ch → t.chan c = s.chan c) ∧
      fld (t.chan ch).ecc 0 16 = min 0xFFFF (fld (s.chan ch).ecc 0 16 + s.singles (s.scrubLine ch)) ∧
      ∃ q ∈ (t.chan ch).writes, q.req.op = .writeBack ∧ q.req.addr = s.scrubLine ch := by
  have he := exec_stackScrubSlot_of_open h99 hst
  rw [hg] at he
  have hchan : (((s.scrubOn ch).corrected ch (s.scrubLine ch)).passSlot ch).chan ch =
      { Chan.enqueue { (s.chan ch).scrubbed with ecc := addFld (s.chan ch).ecc 0 16 (s.singles (s.scrubLine ch)) } 2
          { src := .edge, addr := s.scrubLine ch, op := .writeBack, cls := 2 } with slot := (s.chan ch).slot + 1 } := by
    simp only [State.scrubOn, State.passSlot, State.corrected, State.chan_updChan, if_true]
    rfl
  refine Does.of_frame he ((((Frame.refl hc).updChan (by simp) ..).updChan (by simp) ..).updChan (by simp) ..) ?_
  rw [endOf_chan, hchan]
  refine ⟨⟨rfl, rfl, fun c hne => ?_⟩, ?_, _, List.mem_append_right _ (List.mem_singleton_self _), rfl, rfl⟩
  · simp only [endOf_chan, State.scrubOn, State.passSlot, State.corrected, State.chan_updChan, if_neg hne]
  · exact (fld_addFld _ 0 16 _ (by decide)).trans (Nat.min_comm ..)

/-- A line with two errors in a word is poisoned, and one that is poisoned stays so (R311, R312). -/
theorem does_scrub_poison {b c : Nat} (hc : Clean s) (hg : s.mark (s.scrubLine ch) = .double b c ∨ s.mark (s.scrubLine ch) = .poison) :
    Does (.stackScrubSlot ch .ok) s [.chans, .memMarks] fun t =>
      ((t.chan ch).scrub = ((s.chan ch).scrub + 1) % Config.linesPerChannel ∧
        (t.chan ch).slot = (s.chan ch).slot + 1 ∧ ∀ c, c ≠ ch → t.chan c = s.chan c) ∧
      t.mark (s.scrubLine ch) = .poison ∧ (∀ x, x % 64 = 0 → x ≠ s.scrubLine ch → t.mark x = s.mark x) ∧
      bitOf (t.chan ch).ecc 17 = true ∧ fld (t.chan ch).ecc 32 24 = (s.chan ch).scrub % 2 ^ 24 := by
  obtain ⟨m, hm, hmarks⟩ := mapMarks_eq (s.scrubOn ch) (s.scrubLine ch) fun _ _ => .poison
  let g : Chan → Chan := fun y => { y with ecc := setFld (setBit y.ecc 17 true) 32 24 (s.chan ch).scrub }
  have he : exec (.stackScrubSlot ch .ok) s = done s ((((s.scrubOn ch).setMarks m).updChan ch g).passSlot ch) := by
    have he := exec_stackScrubSlot_of_open h99 hst
    rw [State.setMark, hm] at he
    rcases hg with hg | hg
    · rw [hg] at he
      exact he
    · rw [hg] at he
      exact he
  have hchan : ((((s.scrubOn ch).setMarks m).updChan ch g).passSlot ch).chan ch =
      { g (s.chan ch).scrubbed with slot := (s.chan ch).slot + 1 } := by
    have hon : ((s.scrubOn ch).setMarks m).chan ch = (s.chan ch).scrubbed := (State.chan_updChan ..).trans (if_pos rfl)
    simp only [State.passSlot, State.chan_updChan, if_true, hon]
    rfl
  have hword : ∀ k, (endOf s ((((s.scrubOn ch).setMarks m).updChan ch g).passSlot ch)).wordMark k =
      if s.scrubLine ch / 8 ≤ k ∧ k < s.scrubLine ch / 8 + 8 then .poison else s.wordMark k := hmarks
  refine Does.of_frame he (((((Frame.refl hc).updChan (by simp) ..).setMarks (by simp) m).updChan (by simp) ..).updChan (by simp) ..) ?_
  have haligned : s.scrubLine ch % 64 = 0 := lineAddr_mod ..
  rw [endOf_chan, hchan]
  refine ⟨⟨rfl, rfl, fun c hne => ?_⟩, mark_eq_poison fun j hj => ?_, fun x hx hne => mark_congr fun j hj => ?_, ?_, ?_⟩
  · rw [endOf_chan, State.passSlot, State.chan_updChan, if_neg hne, State.chan_updChan, if_neg hne]
    exact (State.chan_updChan ..).trans (if_neg hne)
  · rw [hword, if_pos (by omega)]
  · rw [hword, if_neg (by omega)]
  · exact (bitOf_setFld_ne _ 32 24 _ 17 (by decide) (by decide)).trans (bitOf_setBit _ 17 true (by decide))
  · exact fld_setFld _ 32 24 _ (by decide)

end

/-- Settles O27: the levels by their thresholds, and the slots that pass. -/
theorem throttleLevels : Obligations.ThrottleLevels := by
  unfold Obligations.ThrottleLevels
  refine ⟨⟨rfl, rfl, rfl, rfl, rfl⟩, fun _ => tempLevel_eq_zero, fun _ => tempLevel_eq_one, fun _ => tempLevel_eq_two,
    fun _ => tempLevel_eq_three, fun _ => tempLevel_eq_four, slotCarries_levelSlots, fun s ch hc hst => ?_⟩
  exact ⟨fun h99 hcarries => Does.of_updChan hc (exec_channelLineSlot_of_none h99 hst (.inl hcarries)), fun h99 hg =>
    (does_scrub_good (l := [.chans, .memMarks]) h99 (.inl hst) (by simp) hc hg).imp fun t ⟨hscrub, _, hothers, _⟩ => ⟨hscrub, hothers⟩⟩

/-- Settles O24: the slot that passes, the read and the eviction that a slot serves. -/
theorem lineSlots : Obligations.LineSlots := by
  unfold Obligations.LineSlots
  intro s ch tg tl tag q starved w hc h99 hst x n i y
  refine ⟨fun h => Does.of_updChan hc (exec_channelLineSlot_of_none h99 hst h), fun hcarries hpick hg => ?_⟩
  have he := exec_channelLineSlot_of_pick h99 hst hcarries hpick
  exact ⟨does_readServed hc he hg, does_evictionServed hc he hg⟩

/-! ## Channel test (R319 to R321) -/

section
variable (s)

@[simp] theorem putLine_chan (a : Nat) (v : Line) (c : Nat) : (s.putLine a v).chan c = s.chan c := by
  obtain ⟨log, h⟩ := putMemBytes_eq s a (lineBytes v)
  rw [State.putLine, h]
  rfl

@[simp] theorem mapMarks_chan (a : Nat) (f : Nat → Mark → Mark) (c : Nat) : (s.mapMarks a f).chan c = s.chan c := by
  obtain ⟨m, h, -⟩ := mapMarks_eq s a f
  rw [h]
  rfl

@[simp] theorem cureLine_chan (a c : Nat) : (s.cureLine a).chan c = s.chan c := mapMarks_chan ..

/-- From `s` to `t` the entry of line `a` has left the buffer of its channel `ch`, and no other channel has changed. -/
def State.EntryGone (s t : State) (ch a : Nat) : Prop :=
  (t.chan ch).wcb = (s.chan ch).wcb.filter (fun e => e.addr != a) ∧ ∀ c, c ≠ ch → t.chan c = s.chan c

variable {s} in
theorem State.EntryGone.updChan {a : Nat} (h : s.EntryGone t ch a) {f : Chan → Chan} (hf : ∀ x, (f x).wcb = x.wcb) :
    s.EntryGone (t.updChan ch f) ch a := by
  obtain ⟨hwcb, hothers⟩ := h
  refine ⟨?_, fun c hne => ?_⟩
  · rw [State.chan_updChan, if_pos rfl, hf, hwcb]
  · rw [State.chan_updChan, if_neg hne, hothers c hne]

variable {s} in
theorem State.EntryGone.congr {u : State} {a : Nat} (h : s.EntryGone t ch a) (hu : ∀ c, u.chan c = t.chan c) : s.EntryGone u ch a := by
  simpa only [State.EntryGone, hu] using h

/-- An eviction takes the line's entry from its channel's buffer, and touches no other channel. -/
theorem evictLine_entryGone (ch a : Nat) : s.EntryGone (s.evictLine ch a) ch a := by
  cases hw : (s.chan ch).entry a with
  | none =>
    rw [evictLine_of_none hw]
    exact ⟨(List.filter_eq_self.mpr fun e he => by simpa using List.find?_eq_none.mp hw e he).symm, fun _ _ => rfl⟩
  | some w =>
    have hleft : s.EntryGone (s.unbuffered ch a) ch a := by
      refine ⟨?_, fun c hne => ?_⟩
      · rw [unbuffered_chan, if_pos rfl]
        rfl
      · rw [unbuffered_chan, if_neg hne]
    have hmerged : s.EntryGone ((s.unbuffered ch a).merged ch) ch a := hleft.updChan fun _ => rfl
    by_cases hfull : w.mask = fullMask
    · rw [evictLine_of_full hw hfull, State.setMark]
      exact hleft.congr fun c => by rw [mapMarks_chan, putLine_chan]
    · rw [evictLine_of_part hw hfull]
      split
      · exact hmerged.congr fun c => putLine_chan ..
      · refine (hmerged.updChan (f := fun x => { x with ecc := addFld x.ecc 0 16 (((s.unbuffered ch a).merged ch).singles a) })
          fun _ => rfl).congr fun c => ?_
        rw [cureLine_chan, putLine_chan]
      · exact (hmerged.updChan (f := fun x => { x with ecc := setFld (setBit x.ecc 16 true) 32 24 (stackMap a).2 }) fun _ => rfl).congr
          fun c => State.fault_chan_at ..

/-- Every entry of a list has left the channel's buffer. -/
theorem foldl_evictLine_chan (ch : Nat) (ws : List WcbE) :
    ((ws.foldl (fun s w => s.evictLine ch w.addr) s).chan ch).wcb = (s.chan ch).wcb.filter (fun e => ws.all fun w => e.addr != w.addr) ∧
      ∀ c, c ≠ ch → (ws.foldl (fun s w => s.evictLine ch w.addr) s).chan c = s.chan c := by
  induction ws generalizing s with
  | nil => exact ⟨(List.filter_eq_self.mpr fun _ _ => rfl).symm, fun _ _ => rfl⟩
  | cons w ws ih =>
    obtain ⟨hwcb, hothers⟩ := evictLine_entryGone s ch w.addr
    obtain ⟨hih, hihothers⟩ := ih (s.evictLine ch w.addr)
    refine ⟨?_, fun c hne => (hihothers c hne).trans (hothers c hne)⟩
    rw [List.foldl_cons, hih, hwcb, List.filter_filter]
    exact List.filter_congr fun e _ => by rw [List.all_cons, Bool.and_comm]

theorem evictAll_chan (ch : Nat) : ((s.evictAll ch).chan ch).wcb = [] ∧ ∀ c, c ≠ ch → (s.evictAll ch).chan c = s.chan c := by
  obtain ⟨hwcb, hothers⟩ := foldl_evictLine_chan s ch (s.chan ch).wcb
  refine ⟨hwcb.trans (List.filter_eq_nil_iff.mpr fun e he => ?_), hothers⟩
  simpa using ⟨e, he, rfl⟩

@[simp] theorem latchLanes_chan (n c : Nat) : (s.latchLanes n).chan c = s.chan c := by
  obtain ⟨v, h⟩ := latchLanes_eq s n
  rw [h]
  rfl

@[simp] theorem laneFault_chan (n : Nat) (w : WordId) (mask causes c : Nat) : (s.laneFault n w mask causes).chan c = s.chan c := by
  unfold State.laneFault
  dsimp only
  split
  · simp
  · split
    · simp
    · split <;> simp

theorem replyFab_chan (p : FabPkt) (data : List Flit) (e : Option DropCause) (c : Nat) : (s.replyFab p data e).chan c = s.chan c :=
  State.toSwitch_chan_at ..

theorem partDone_chan (p : FabPkt) (data : List Flit) (e : Option DropCause) (c : Nat) : (s.partDone p data e).chan c = s.chan c := by
  unfold State.partDone
  split
  · rw [replyFab_chan]
  · dsimp only
    split
    · rw [replyFab_chan]
      rfl
    · rfl

theorem txnPart_chan (tag : Nat) (data : Line) (e : Option DropCause) (c : Nat) : (s.txnPart tag data e).chan c = s.chan c := by
  unfold State.txnPart
  split
  · rfl
  · dsimp only
    split
    · rfl
    · split
      · rfl
      · split
        · rfl
        · split
          · rw [laneFault_chan]
            rfl
          · rfl
        · rfl

/-- An answer touches no channel. -/
theorem reply_chan (src : ReqSrc) (data : Line) (old : W64) (e : Option DropCause) (c : Nat) : (s.reply src data old e).chan c = s.chan c := by
  unfold State.reply
  split
  · rfl
  · split
    · rw [laneFault_chan]
    · rfl
  · exact txnPart_chan ..
  · exact partDone_chan ..
  · rfl

end

/-! ## What a channel's test registers do (R319 to R321, R323) -/

theorem memRegs_setMemStatus (v : W64) : (endOf s (s.setMemStatus v)).mem.status = v ∧ (endOf s (s.setMemStatus v)).mem.cfg = s.mem.cfg ∧
    (endOf s (s.setMemStatus v)).mem.thermCfg = s.mem.thermCfg := ⟨rfl, rfl, rfl⟩

theorem testEnterCh_of_outside (ho : s.outside = true) (ch : Nat) :
    s.testEnterCh ch = s.setMemStatus (setBit s.mem.status 25 true) := if_pos ho

/-- The channel that has entered TEST with its queues empty. -/
def Chan.tested (x : Chan) : Chan := { x with st := 3, urgent := [], normal := [], writes := [], waiting := [] }

/-- A channel enters TEST: its entries are evicted, and every request that waits is answered. -/
theorem testEnterCh_of_ready (ho : s.outside = false) (hst : (s.chan ch).st = 2) :
    s.testEnterCh ch = (((s.evictAll ch).chan ch).all.filter fun q => !ownOp q.req.op).foldl
      (fun s q => s.reply q.req.src 0 0 (some .memUncorrectable)) ((s.evictAll ch).updChan ch Chan.tested) := by
  rw [State.testEnterCh, ho]
  exact if_pos hst

theorem testEnterCh_besideStacks (ho : s.outside = false) (hst : (s.chan ch).st = 2) : (s.testEnterCh ch).besideStacks = s.besideStacks := by
  rw [testEnterCh_of_ready ho hst, foldl_unchanged (read := State.besideStacks) fun s (q : QReq) => reply_besideStacks s ..,
    updChan_besideStacks, evictAll_besideStacks]

theorem testEnterCh_chan (ho : s.outside = false) (hst : (s.chan ch).st = 2) (c : Nat) :
    (s.testEnterCh ch).chan c = if c = ch then ((s.evictAll ch).chan ch).tested else s.chan c := by
  obtain ⟨-, hothers⟩ := evictAll_chan s ch
  rw [testEnterCh_of_ready ho hst, foldl_unchanged (read := fun s => s.chan c) fun s (q : QReq) => reply_chan s .., State.chan_updChan]
  exact ite_congr rfl (fun _ => rfl) fun hne => hothers c hne

/-- States that agree beside the stacks differ in the parts that an engine's access changes. -/
theorem Piece.same_of_besideStacks {p : Piece} (h : t.besideStacks = s.besideStacks) (hp : p ∉ engineParts) : p.same s t := by
  have hsame : p.same s.besideStacks t.besideStacks := by rw [h]; exact p.same_refl s.besideStacks
  cases p
  case chans | bytes | memMarks | queues | answers | tiles | fab | ras => exact absurd (by simp) hp
  all_goals exact hsame

theorem lsLog_of_besideStacks (h : t.besideStacks = s.besideStacks) : t.lsLog = s.lsLog := by
  have hc : t.besideStacks.lsLog = s.besideStacks.lsLog := by rw [h]
  exact hc

theorem lsWipe_of_besideStacks (h : t.besideStacks = s.besideStacks) : t.lsWipe = s.lsWipe := by
  have hc : t.besideStacks.lsWipe = s.besideStacks.lsWipe := by rw [h]
  exact hc

theorem does_testEnter (hc : Clean s) (ho : s.outside = false) (hst : (s.chan ch).st = 2) :
    Does (.testEnterChannel ch) s [.chans, .bytes, .memMarks, .queues, .ras, .answers, .tiles, .fab] fun t =>
      (t.chan ch).st = 3 ∧ (t.chan ch).urgent = [] ∧ (t.chan ch).normal = [] ∧ (t.chan ch).writes = [] ∧
      (t.chan ch).waiting = [] ∧ (t.chan ch).wcb = [] ∧ ∀ c, c ≠ ch → t.chan c = s.chan c := by
  have hbeside := testEnterCh_besideStacks ho hst
  have hchan := testEnterCh_chan ho hst
  obtain ⟨hwcb, -⟩ := evictAll_chan s ch
  obtain ⟨hlog, -, hwipe, -⟩ := hc
  refine Does.of_stackWrites (exec_testEnterChannel ch) ((lsLog_of_besideStacks hbeside).trans hlog)
    ((lsWipe_of_besideStacks hbeside).trans hwipe) ?_ (by simp) fun p hp _ => Piece.same_of_besideStacks hbeside (by simp at hp ⊢; tauto)
  rw [endOf_chan, hchan, if_pos rfl]
  exact ⟨rfl, rfl, rfl, rfl, rfl, hwcb, fun c hne => (hchan c).trans (if_neg hne)⟩

theorem testExitCh_of_test (hst : (s.chan ch).st = 3) : s.testExitCh ch = s.updChan ch fun x => { x with st := 2 } := if_pos hst

/-- The channel whose generator has started. -/
def Chan.tgStarted (x : Chan) : Chan := { x with tgStatus := 1, tgFirst := 0, tgPos := 0, tgGen := x.tgSeed }

theorem tgStart_of_test (hst : (s.chan ch).st = 3) (hmode : fld (s.chan ch).tgCtrl 1 3 < 6) (hop : fld (s.chan ch).tgCtrl 4 2 ≠ 3) :
    s.tgStart ch = s.updChan ch Chan.tgStarted := by
  have hnot : ¬ ((s.chan ch).st ≠ 3 ∨ 6 ≤ fld (s.chan ch).tgCtrl 1 3 ∨ fld (s.chan ch).tgCtrl 4 2 = 3) := by
    rintro (h | h | h)
    · exact h hst
    · omega
    · exact hop h
  exact if_neg hnot

/-- The generator's state has become `v`, and nothing else of the stacks has changed. -/
theorem does_tgState {c : Instr} {f : Chan → Chan} {v : Nat} (hc : Clean s) (he : exec c s = done s (s.updChan ch f))
    (hf : f (s.chan ch) = { s.chan ch with tgStatus := setFld (s.chan ch).tgStatus 0 2 v }) (hv : v < 4) :
    Does c s [.chans] fun t => fld (t.chan ch).tgStatus 0 2 = v ∧ t.chan ch = { s.chan ch with tgStatus := (t.chan ch).tgStatus } ∧
      ∀ c, c ≠ ch → t.chan c = s.chan c := by
  refine (Does.of_updChan hc he).imp fun t ht => ?_
  have hch : t.chan ch = { s.chan ch with tgStatus := setFld (s.chan ch).tgStatus 0 2 v } := by rw [ht, if_pos rfl, hf]
  refine ⟨?_, ?_, fun c hne => (ht c).trans (if_neg hne)⟩
  · rw [hch, fld_setFld _ _ _ _ (by decide)]
    exact Nat.mod_eq_of_lt hv
  · rw [hch]

/-- The channel whose generator has stopped, if it ran. -/
def Chan.tgStopped (x : Chan) : Chan := if fld x.tgStatus 0 2 = 1 then { x with tgStatus := setFld x.tgStatus 0 2 3 } else x

theorem tgStopped_of_running {x : Chan} (h : fld x.tgStatus 0 2 = 1) : x.tgStopped = { x with tgStatus := setFld x.tgStatus 0 2 3 } :=
  if_pos h

theorem exec_tgStop_eq (ch : Nat) : exec (.tgStop ch) s = done s (s.updChan ch Chan.tgStopped) := exec_tgStop ch

theorem exec_tgDone_of_finished (hrun : fld (s.chan ch).tgStatus 0 2 = 1) (hfin : (s.chan ch).tgFinished = true) :
    exec (.tgDone ch) s = done s (s.updChan ch fun x => { x with tgStatus := setFld x.tgStatus 0 2 2 }) :=
  (exec_tgDone ch).trans (if_pos ⟨hrun, hfin⟩)

/-- Settles O25: how a channel enters and leaves TEST, and how the generator starts and ends. -/
theorem channelTest : Obligations.ChannelTest := by
  unfold Obligations.ChannelTest
  intro s ch hc
  refine ⟨does_testEnter hc, fun ho => ?_, fun hst => ⟨?_, fun hmode hop => ?_⟩, fun hrun => ⟨?_, fun hfin => ?_⟩⟩
  · refine Does.of_frame ((exec_testEnterChannel ch).trans (congrArg (done s) (testEnterCh_of_outside ho ch)))
      ((Frame.refl hc).setMemStatus (by simp) _) (memRegs_setMemStatus _)
  · exact Does.of_updChan hc ((exec_testExitChannel ch).trans (congrArg (done s) (testExitCh_of_test hst)))
  · refine (Does.of_updChan hc ((exec_tgGo ch).trans (congrArg (done s) (tgStart_of_test hst hmode hop)))).imp fun t ht c => ?_
    rw [ht]
    by_cases h : c = ch
    · rw [if_pos h, if_pos h, h, Chan.tgStarted]
    · rw [if_neg h, if_neg h]
  · exact does_tgState (v := 3) hc (exec_tgStop_eq ch) (tgStopped_of_running hrun) (by decide)
  · exact does_tgState (v := 2) hc (exec_tgDone_of_finished hrun hfin) rfl (by decide)

end Sys2Proof.Machine
end

section
/-! Scrubbing and throttling (R309, R311 to R317): what a thermal sample makes of a stack, how a level becomes due and a deferral ends; and
obligation O28 from this and the scrub slot. -/

namespace Sys2Proof.Machine

variable {s t : State} {l : List Piece} {k n : Nat}

/-! ## A sample (R313) -/

/-- PRED of a sample: the last sample's slope carried on for four more. -/
def Stack.predict (x : Stack) (temp : Nat) : Nat :=
  if x.sampled then (clampInt 0 0xFFF ((temp : Int) + 4 * ((temp : Int) - fld x.therm 0 12))).toNat else temp

theorem predict_lt (x : Stack) {temp : Nat} (h : temp < 4096) : x.predict temp < 4096 := by
  rw [Stack.predict, clampInt]
  split_ifs <;> omega

/-- The stack with the registers of a sample. -/
def Stack.took (x : Stack) (temp : Nat) : Stack :=
  { x with
    sampled := true
    therm := setFld (setFld (setFld x.therm 0 12 temp) 12 12 (x.predict temp)) 32 12 (max temp (fld x.therm 32 12)) }

theorem took_temp (x : Stack) {temp : Nat} (h : temp < 4096) : fld (x.took temp).therm 0 12 = temp := by
  rw [Stack.took, fld_setFld_ne _ _ _ _ _ _ (by decide) (by decide), fld_setFld_ne _ _ _ _ _ _ (by decide) (by decide),
    fld_setFld _ _ _ _ (by decide)]
  exact Nat.mod_eq_of_lt h

theorem took_pred (x : Stack) {temp : Nat} (h : temp < 4096) : fld (x.took temp).therm 12 12 = x.predict temp := by
  rw [Stack.took, fld_setFld_ne _ _ _ _ _ _ (by decide) (by decide), fld_setFld _ _ _ _ (by decide)]
  exact Nat.mod_eq_of_lt (predict_lt x h)

theorem took_level (x : Stack) (temp : Nat) : fld (x.took temp).therm 24 3 = fld x.therm 24 3 := by
  rw [Stack.took, fld_setFld_ne _ _ _ _ _ _ (by decide) (by decide), fld_setFld_ne _ _ _ _ _ _ (by decide) (by decide),
    fld_setFld_ne _ _ _ _ _ _ (by decide) (by decide)]

theorem took_sampled (x : Stack) (temp : Nat) : (x.took temp).sampled = true := by rw [Stack.took]

theorem took_deferLevel (x : Stack) (temp : Nat) : (x.took temp).deferLevel = x.deferLevel := by rw [Stack.took]

theorem took_pend (x : Stack) (temp : Nat) : (x.took temp).pend = x.pend := by rw [Stack.took]

/-- The level that a stack has or is to have at the next boundary. -/
def Stack.current (x : Stack) : Nat := x.pend.getD (fld x.therm 24 3)

/-- The state in which stack `k` has the registers of a sample. -/
def State.sampled (s : State) (k temp : Nat) : State := s.updStack k fun x => x.took temp

/-- PRED, written out. -/
theorem predict_eq (x : Stack) (temp : Nat) :
    (if x.sampled then (clampInt 0 0xFFF ((temp : Int) + 4 * ((temp : Int) - fld x.therm 0 12))).toNat else temp) = x.predict temp := rfl

/-- The registers of a sample, written out. -/
theorem sampled_eq (s : State) (k temp : Nat) : (s.updStack k fun x => { x with
    sampled := true
    therm := setFld (setFld (setFld x.therm 0 12 temp) 12 12 ((s.stack k).predict temp)) 32 12 (max temp (fld x.therm 32 12)) }) =
      s.sampled k temp := by
  rw [State.sampled, State.updStack, State.updStack, Stack.took]

theorem stack_sampled (s : State) (k temp j : Nat) : (s.sampled k temp).stack j = if j = k then (s.stack k).took temp else s.stack j :=
  State.stack_updStack ..

theorem Frame.sampled (h : Frame l s t) (hl : .stks ∈ l) (k temp : Nat) : Frame l s (t.sampled k temp) := h.updStack hl ..

/-! ## A level becomes due (R315) -/

theorem synced_updStack (s : State) (k : Nat) (f : Stack → Stack) : (s.updStack k f).synced = s.synced := by
  rw [State.synced, State.synced, State.updStack_esc]

theorem dueLevel_of_synced (hs : s.synced = true) (k n : Nat) : s.dueLevel k n = s.updStack k fun x => { x with pend := some n } :=
  if_pos hs

/-- The stack with a level that takes effect. -/
def Stack.atLevel (x : Stack) (n : Nat) : Stack :=
  { x with
    pend := none
    therm := setFld x.therm 24 3 n
    stats := if fld x.therm 24 3 = n then x.stats else addFld x.stats 0 16 1 }

theorem fld_atLevel (x : Stack) (hn : n < 4) : fld (x.atLevel n).therm 24 3 = n := by
  rw [Stack.atLevel, fld_setFld _ _ _ _ (by decide)]
  exact Nat.mod_eq_of_lt (by omega)

theorem fld_atLevel_below (x : Stack) {lo len : Nat} (h : lo + len ≤ 24) : fld (x.atLevel n).therm lo len = fld x.therm lo len := by
  rw [Stack.atLevel, fld_setFld_ne _ _ _ _ _ _ (by decide) (.inl h)]

theorem dueLevel_of_not_synced (hs : s.synced = false) (k : Nat) (hn : n < 4) :
    s.dueLevel k n = (s.updStack k fun x => { x with pend := some n }).updStack k fun x => x.atLevel n := by
  have hpend : ((s.updStack k fun x => { x with pend := some n }).stack k).pend = some n := by rw [State.stack_updStack, if_pos rfl]
  have hsync : (s.updStack k fun x => { x with pend := some n }).synced = false := (synced_updStack ..).trans hs
  rw [State.dueLevel]
  simp only [hsync, Bool.false_eq_true, if_false, State.applyLevel, hpend, if_neg (show ¬ n = 4 by omega)]
  rfl

theorem Frame.dueLevel (h : Frame l s t) (hl : .stks ∈ l) (k : Nat) (hn : n < 4 ∨ t.synced = true) : Frame l s (t.dueLevel k n) := by
  cases hs : t.synced with
  | true =>
    rw [dueLevel_of_synced hs]
    exact h.updStack hl ..
  | false =>
    rw [dueLevel_of_not_synced hs k (by simpa [hs] using hn)]
    exact (h.updStack hl ..).updStack hl ..

/-- Stack `k` has a level below protection due: pending for the next boundary, or in effect while beats are not counted. -/
def Stack.due (x : Stack) (synced : Bool) (n : Nat) : Stack := if synced then { x with pend := some n } else { x with pend := some n }.atLevel n

theorem due_true (x : Stack) (n : Nat) : x.due true n = { x with pend := some n } := rfl

theorem due_false (x : Stack) (n : Nat) : x.due false n = { x with pend := some n }.atLevel n := rfl

theorem fld_due_below (x : Stack) (synced : Bool) (n : Nat) {lo len : Nat} (h : lo + len ≤ 24) :
    fld (x.due synced n).therm lo len = fld x.therm lo len := by
  cases synced with
  | true => rw [due_true]
  | false => rw [due_false, fld_atLevel_below _ h]

theorem due_sampled (x : Stack) (synced : Bool) (n : Nat) : (x.due synced n).sampled = x.sampled := by
  cases synced with
  | true => rw [due_true]
  | false => rw [due_false, Stack.atLevel]

theorem due_deferLevel (x : Stack) (synced : Bool) (n : Nat) : (x.due synced n).deferLevel = x.deferLevel := by
  cases synced with
  | true => rw [due_true]
  | false => rw [due_false, Stack.atLevel]

theorem stack_dueLevel (s : State) (k j : Nat) (hn : n < 4) : (s.dueLevel k n).stack j =
    if j = k then (s.stack k).due s.synced n else s.stack j := by
  cases hs : s.synced with
  | true =>
    rw [dueLevel_of_synced hs, State.stack_updStack]
    rfl
  | false =>
    rw [dueLevel_of_not_synced hs k hn, State.stack_updStack, State.stack_updStack, if_pos rfl, State.stack_updStack]
    split <;> rfl

/-! ## What a sample calls for (R314 to R317) -/

/-- A sample below the entry of a level has not reached that level. -/
theorem tempLevel_lt_of_lt_levelTemp {temp : Nat} (hn : n < 4) (h : temp < levelTemp n) : tempLevel temp < n := by
  unfold levelTemp at h
  unfold tempLevel
  split at h
  all_goals split_ifs <;> omega

theorem fault_ras (s : State) (c : Cause) (u : FaultUnit) (i : Nat) (d : W64) :
    (s.fault c u i d).ras = { s.ras with tree := s.ras.tree ++ [{ cause := c, unit := u, index := i, detail := d }] } := rfl

theorem exec_stackThermalSample_of_not_counting {temp : Nat} (h : (s.stack k).counting = false) : exec (.stackThermalSample k temp) s = done s s :=
  if_pos (.inr (by rw [h]; rfl))

section
variable {temp : Nat} (hk : k < 12) (htemp : temp < 4096) (hcount : (s.stack k).counting = true)

include hk htemp hcount

/-- What a sample calls for below protection, with no deferral and with one. -/
theorem exec_stackThermalSample_below (hcur : (s.stack k).current < 4) (hlevel : tempLevel temp < 4) :
    let down := decide (0 < (s.stack k).current) && decide (temp + s.hyst < levelTemp (s.stack k).current) &&
      decide ((s.stack k).predict temp + s.hyst < levelTemp (s.stack k).current)
    ((s.stack k).deferLevel = none → exec (.stackThermalSample k temp) s =
      if (s.stack k).current < tempLevel temp then
        if s.critical = true ∧ fld s.mem.thermCfg 0 16 ≠ 0 then
          done s ((s.sampled k temp).updStack k fun x =>
            { x with deferLevel := some (tempLevel temp), therm := setBit x.therm 27 true, stats := addFld x.stats 16 16 1 })
        else done s ((s.sampled k temp).dueLevel k (tempLevel temp))
      else if down then done s ((s.sampled k temp).dueLevel k ((s.stack k).current - 1)) else done s (s.sampled k temp)) ∧
    ∀ d, (s.stack k).deferLevel = some d → tempLevel temp ≤ d → exec (.stackThermalSample k temp) s =
      if down then done s ((s.sampled k temp).dueLevel k ((s.stack k).current - 1)) else done s (s.sampled k temp) := by
  have hlive : ¬ (12 ≤ k ∨ (!(s.stack k).counting) = true) := by simp [hcount]; omega
  have h4 : ¬ (s.stack k).current = 4 := by omega
  have hl4 : ¬ tempLevel temp = 4 := by omega
  rw [Stack.current] at h4 ⊢
  refine ⟨fun hd => ?_, fun d hd hle => ?_⟩
  · rw [exec_stackThermalSample, execStackThermalSample, if_neg hlive]
    simp only [Nat.mod_eq_of_lt htemp, if_neg h4, if_neg hl4, hd, predict_eq, sampled_eq]
  · have hnot : ¬ d < tempLevel temp := by omega
    rw [exec_stackThermalSample, execStackThermalSample, if_neg hlive]
    simp only [Nat.mod_eq_of_lt htemp, if_neg h4, if_neg hl4, hd, if_neg hnot, predict_eq, sampled_eq]

/-- A sample that reaches protection: the level is due, the protection sets and the fault is raised (R317). -/
theorem exec_stackThermalSample_protect (hcur : (s.stack k).current < 4) (hlevel : tempLevel temp = 4) (hd : (s.stack k).deferLevel = none) :
    exec (.stackThermalSample k temp) s =
      done s ((((s.sampled k temp).updStack k fun x => { x with protect := true }).dueLevel k 4).fault .stackOvertemp .channel (k * 128)) := by
  have hlive : ¬ (12 ≤ k ∨ (!(s.stack k).counting) = true) := by simp [hcount]; omega
  have h4 : ¬ (s.stack k).current = 4 := by omega
  rw [Stack.current] at h4
  rw [exec_stackThermalSample, execStackThermalSample, if_neg hlive]
  simp only [Nat.mod_eq_of_lt htemp, if_neg h4, hlevel, if_true, hd, Option.isSome_none, Bool.false_eq_true, if_false, predict_eq, sampled_eq]

end

/-- From `s` to `t`, level `n` has been called for: it waits for the boundary, or is in effect while beats are not counted (R315). -/
def LevelTaken (s t : State) (k n : Nat) : Prop :=
  if s.synced then (t.stack k).pend = some n ∧ fld (t.stack k).therm 24 3 = fld (s.stack k).therm 24 3
  else (t.stack k).pend = none ∧ fld (t.stack k).therm 24 3 = n

/-- From `s` to `t`, stack `k` has the registers of a sample, and no other stack has changed. -/
structure SampleTaken (s t : State) (k temp : Nat) : Prop where
  tempField : fld (t.stack k).therm 0 12 = temp
  predField : fld (t.stack k).therm 12 12 = (s.stack k).predict temp
  sampled : (t.stack k).sampled = true
  deferLevel : (t.stack k).deferLevel = (s.stack k).deferLevel
  others : ∀ j, j ≠ k → t.stack j = s.stack j

/-- A sample that calls for a level below protection. -/
theorem does_sample {c : Instr} {temp : Nat} (hc : Clean s) (htemp : temp < 4096) (hn : n < 4)
    (he : exec c s = done s ((s.sampled k temp).dueLevel k n)) :
    Does c s [.stks] fun t => LevelTaken s t k n ∧ SampleTaken s t k temp := by
  have hsync : (s.sampled k temp).synced = s.synced := synced_updStack ..
  have hstack : ∀ j, ((s.sampled k temp).dueLevel k n).stack j =
      if j = k then ((s.stack k).took temp).due s.synced n else s.stack j := fun j => by
    rw [stack_dueLevel _ _ _ hn, stack_sampled, if_pos rfl, hsync]
    split
    · rfl
    next hne => rw [stack_sampled, if_neg hne]
  refine Does.of_frame he (((Frame.refl hc).sampled (by simp) k temp).dueLevel (by simp) k (.inl hn)) ⟨?_, ?_⟩
  · rw [LevelTaken, endOf_stack, hstack, if_pos rfl]
    cases s.synced with
    | true => rw [if_pos rfl, due_true, took_level]; exact ⟨rfl, rfl⟩
    | false => rw [if_neg (by decide), due_false]; exact ⟨rfl, fld_atLevel _ hn⟩
  · refine ⟨?_, ?_, ?_, ?_, fun j hne => (hstack j).trans (if_neg hne)⟩
    all_goals rw [endOf_stack, hstack, if_pos rfl]
    · rw [fld_due_below _ _ _ (by decide), took_temp _ htemp]
    · rw [fld_due_below _ _ _ (by decide), took_pred _ htemp]
    · rw [due_sampled, took_sampled]
    · rw [due_deferLevel, took_deferLevel]

section
variable {temp : Nat} (hk : k < 12) (htemp : temp < 4096) (hcount : (s.stack k).counting = true) (hc : Clean s)
include hk htemp hcount hc

/-- A sample that reaches a higher level, with nothing that defers it. -/
theorem does_sample_rise (hd : (s.stack k).deferLevel = none) (hrise : (s.stack k).current < tempLevel temp) (hlevel : tempLevel temp < 4)
    (hfree : s.critical = false ∨ fld s.mem.thermCfg 0 16 = 0) :
    Does (.stackThermalSample k temp) s [.stks] fun t => LevelTaken s t k (tempLevel temp) ∧ SampleTaken s t k temp := by
  have hnot : ¬ (s.critical = true ∧ fld s.mem.thermCfg 0 16 ≠ 0) := by
    rintro ⟨hcrit, hcfg⟩
    rcases hfree with h | h
    · rw [h] at hcrit
      cases hcrit
    · exact hcfg h
  obtain ⟨hnone, -⟩ := exec_stackThermalSample_below hk htemp hcount (by omega) hlevel
  refine does_sample hc htemp hlevel ((hnone hd).trans ?_)
  rw [if_pos hrise, if_neg hnot]

/-- A sample that reaches a higher level while a CRITICAL collective runs (R316). -/
theorem does_sample_defer (hd : (s.stack k).deferLevel = none) (hrise : (s.stack k).current < tempLevel temp) (hlevel : tempLevel temp < 4)
    (hcrit : s.critical = true) (hcfg : fld s.mem.thermCfg 0 16 ≠ 0) : Does (.stackThermalSample k temp) s [.stks] fun t =>
      (t.stack k).deferLevel = some (tempLevel temp) ∧ bitOf (t.stack k).therm 27 = true ∧ (t.stack k).pend = (s.stack k).pend ∧
      ∀ j, j ≠ k → t.stack j = s.stack j := by
  obtain ⟨hnone, -⟩ := exec_stackThermalSample_below hk htemp hcount (by omega) hlevel
  have he := hnone hd
  rw [if_pos hrise, if_pos ⟨hcrit, hcfg⟩] at he
  refine Does.of_frame he (((Frame.refl hc).sampled (by simp) k temp).updStack (by simp) ..) ⟨?_, ?_, ?_, fun j hne => ?_⟩
  all_goals rw [endOf_stack, State.stack_updStack]
  · rw [if_pos rfl]
  · rw [if_pos rfl]
    exact bitOf_setBit _ 27 true (by decide)
  · rw [if_pos rfl, stack_sampled, if_pos rfl, took_pend]
  · rw [if_neg hne, stack_sampled, if_neg hne]

/-- A sample that lies HYST below the entry of its level (R314). -/
theorem does_sample_fall (hpos : 0 < (s.stack k).current) (hcur : (s.stack k).current < 4)
    (hlow : temp + s.hyst < levelTemp (s.stack k).current) (hpred : (s.stack k).predict temp + s.hyst < levelTemp (s.stack k).current)
    (hdefer : ∀ d, (s.stack k).deferLevel = some d → tempLevel temp ≤ d) :
    Does (.stackThermalSample k temp) s [.stks] fun t => LevelTaken s t k ((s.stack k).current - 1) ∧ SampleTaken s t k temp := by
  have hbelow := tempLevel_lt_of_lt_levelTemp hcur (show temp < levelTemp (s.stack k).current by omega)
  obtain ⟨hnone, hsome⟩ := exec_stackThermalSample_below hk htemp hcount hcur (by omega)
  refine does_sample hc htemp (by omega) ?_
  cases hd : (s.stack k).deferLevel with
  | none =>
    rw [hnone hd, if_neg (by omega)]
    simp [hpos, hlow, hpred]
  | some d =>
    rw [hsome d hd (hdefer d hd)]
    simp [hpos, hlow, hpred]

/-- A sample that reaches protection (R317). -/
theorem does_sample_protect (hs : s.synced = true) (hd : (s.stack k).deferLevel = none) (hcur : (s.stack k).current < 4)
    (hlevel : tempLevel temp = 4) : Does (.stackThermalSample k temp) s [.stks, .ras] fun t =>
      (t.stack k).pend = some 4 ∧ (t.stack k).protect = true ∧ (∀ j, j ≠ k → t.stack j = s.stack j) ∧
      t.ras = { s.ras with tree := s.ras.tree ++ [{ cause := .stackOvertemp, unit := .channel, index := k * 128 }] } := by
  have he := exec_stackThermalSample_protect hk htemp hcount hcur hlevel hd
  have hsync : ((s.sampled k temp).updStack k fun x => { x with protect := true }).synced = true := by
    rw [synced_updStack, State.sampled, synced_updStack, hs]
  rw [dueLevel_of_synced hsync] at he
  refine Does.of_frame he (((((Frame.refl hc).sampled (by simp) k temp).updStack (by simp) ..).updStack (by simp) ..).fault (by simp) ..) ?_
  refine ⟨?_, ?_, fun j hne => ?_, ?_⟩
  · rw [endOf_stack, State.fault_stack_at, State.stack_updStack, if_pos rfl]
  · rw [endOf_stack, State.fault_stack_at, State.stack_updStack, State.stack_updStack, if_pos rfl, if_pos rfl]
  · rw [endOf_stack, State.fault_stack_at, State.stack_updStack, if_neg hne, State.stack_updStack, if_neg hne, stack_sampled, if_neg hne]
  · rw [endOf_ras, fault_ras, State.updStack_ras, State.updStack_ras, State.sampled, State.updStack_ras]

end

/-! ## The end of a deferral (R316) -/

/-- The stack whose deferred level, if it has one, waits for the next boundary. -/
def Stack.undeferred (x : Stack) : Stack :=
  match x.deferLevel with
  | some d => { x with deferLevel := none, therm := setBit x.therm 27 false, pend := some d }
  | none => x

theorem undeferred_of_some {x : Stack} {d : Nat} (h : x.deferLevel = some d) :
    x.undeferred = { x with deferLevel := none, therm := setBit x.therm 27 false, pend := some d } := by rw [Stack.undeferred, h]

theorem undeferred_of_none {x : Stack} (h : x.deferLevel = none) : x.undeferred = x := by rw [Stack.undeferred, h]

theorem endDefer_of_none (h : (s.stack k).deferLevel = none) : s.endDefer k = s := by rw [State.endDefer, h]

theorem endDefer_of_some (hs : s.synced = true) {d : Nat} (h : (s.stack k).deferLevel = some d) : s.endDefer k =
    (s.updStack k fun x => { x with deferLevel := none, therm := setBit x.therm 27 false }).updStack k fun x => { x with pend := some d } := by
  rw [State.endDefer, h]
  exact dueLevel_of_synced ((synced_updStack ..).trans hs) k d

theorem Frame.endDefer (h : Frame l s t) (hl : .stks ∈ l) (hs : t.synced = true) (k : Nat) : Frame l s (t.endDefer k) := by
  cases hd : (t.stack k).deferLevel with
  | none => rwa [endDefer_of_none hd]
  | some d =>
    rw [endDefer_of_some hs hd]
    exact (h.updStack hl ..).updStack hl ..

theorem stack_endDefer (hs : s.synced = true) (k j : Nat) : (s.endDefer k).stack j = if j = k then (s.stack k).undeferred else s.stack j := by
  cases hd : (s.stack k).deferLevel with
  | none =>
    rw [endDefer_of_none hd, undeferred_of_none hd]
    split
    next h => rw [h]
    · rfl
  | some d =>
    rw [endDefer_of_some hs hd, undeferred_of_some hd]
    simp only [State.stack_updStack, if_true]
    split <;> rfl

/-- The deferrals of the stacks below `n` have ended. -/
theorem foldl_endDefer (hc : Clean s) (hs : s.synced = true) (n : Nat) : Frame [.stks] s ((List.range n).foldl State.endDefer s) ∧
    ∀ j, ((List.range n).foldl State.endDefer s).stack j = if j < n then (s.stack j).undeferred else s.stack j := by
  induction n with
  | zero => exact ⟨Frame.refl hc, fun _ => rfl⟩
  | succ n ih =>
    obtain ⟨hframe, hstack⟩ := ih
    rw [List.range_succ, List.foldl_append]
    have hesc : ((List.range n).foldl State.endDefer s).esc = s.esc := hframe.same (p := .esc) (by simp)
    have hsync : ((List.range n).foldl State.endDefer s).synced = true := by rwa [State.synced, hesc]
    refine ⟨hframe.endDefer (by simp) hsync n, fun j => (stack_endDefer hsync n j).trans ?_⟩
    rw [hstack, hstack, if_neg (Nat.lt_irrefl n)]
    by_cases hj : j = n
    · subst hj
      rw [if_pos rfl, if_pos (Nat.lt_succ_self j)]
    · rw [if_neg hj]
      exact ite_congr (propext ⟨by omega, by omega⟩) (fun _ => rfl) fun _ => rfl

theorem does_thermDeferExpire (hc : Clean s) (hs : s.synced = true) {d : Nat} (hd : (s.stack k).deferLevel = some d) :
    Does (.thermDeferExpire k) s [.stks] fun t => (t.stack k).pend = some d ∧ (t.stack k).deferLevel = none ∧
      bitOf (t.stack k).therm 27 = false ∧ ∀ j, j ≠ k → t.stack j = s.stack j := by
  let u := s.updStack k fun x => { x with stats := addFld x.stats 48 16 1 }
  have hus : u.synced = true := (synced_updStack ..).trans hs
  have he : exec (.thermDeferExpire k) s = done s (u.endDefer k) :=
    (exec_thermDeferExpire k).trans (if_pos (by rw [hd]; rfl))
  have hu : u.stack k = { s.stack k with stats := addFld (s.stack k).stats 48 16 1 } := by rw [State.stack_updStack, if_pos rfl]
  have hdu : (u.stack k).deferLevel = some d := by rw [hu]; exact hd
  have hstack : (u.endDefer k).stack k = _ := (stack_endDefer hus k k).trans ((if_pos rfl).trans (undeferred_of_some hdu))
  refine Does.of_frame he (((Frame.refl hc).updStack (by simp) ..).endDefer (by simp) hus k) ?_
  rw [endOf_stack, hstack]
  refine ⟨rfl, rfl, bitOf_setBit _ 27 false (by decide), fun j hne => ?_⟩
  rw [endOf_stack, stack_endDefer hus, if_neg hne, State.stack_updStack, if_neg hne]

theorem does_thermDeferEnd (hc : Clean s) (hs : s.synced = true) (hcrit : s.critical = false) :
    Does .thermDeferEnd s [.stks] fun t => ∀ j < 12, (t.stack j).deferLevel = none ∧
      (t.stack j).pend = match (s.stack j).deferLevel with | some d => some d | none => (s.stack j).pend := by
  obtain ⟨hframe, hstack⟩ := foldl_endDefer hc hs 12
  have he : exec .thermDeferEnd s = done s ((List.range 12).foldl State.endDefer s) :=
    exec_thermDeferEnd.trans (if_neg (by simp [hcrit]))
  refine Does.of_frame he hframe fun j hj => ?_
  rw [endOf_stack, hstack, if_pos hj]
  cases hd : (s.stack j).deferLevel with
  | none => rw [undeferred_of_none hd]; exact ⟨hd, rfl⟩
  | some d => rw [undeferred_of_some hd]; exact ⟨rfl, rfl⟩

/-- Settles O28: the scrub slot by the line's error, a sample by the level that it calls for, and the two ends of a deferral. -/
theorem scrubAndThrottling : Obligations.ScrubAndThrottling := by
  unfold Obligations.ScrubAndThrottling
  refine ⟨fun s ch b c hc => ?_, fun s k temp hc hk => ?_⟩
  · refine ⟨fun h => Does.of_idle hc (exec_stackScrubSlot_of_other h),
      fun h99 h2 h3 => Does.of_updChan hc (exec_stackScrubSlot_of_closed h99 h2 h3), fun h99 hst => ⟨fun hg => ?_,
        does_scrub_single h99 hst hc, does_scrub_poison h99 hst hc⟩⟩
    exact (does_scrub_good h99 hst (by simp) hc hg).imp fun t ⟨hscrub, hslot, hothers, hecc⟩ => ⟨⟨hscrub, hslot, hothers⟩, hecc⟩
  · refine ⟨fun h => Does.of_idle hc (exec_stackThermalSample_of_not_counting h), fun htemp hcount => ⟨?_, ?_, ?_, ?_⟩,
      fun hs => ⟨fun d => does_thermDeferExpire hc hs, does_thermDeferEnd hc hs⟩⟩
    · intro hd hrise hlevel hfree
      exact (does_sample_rise hk htemp hcount hc hd hrise hlevel hfree).imp fun t ⟨htaken, hsample⟩ =>
        ⟨htaken, hsample.tempField, hsample.predField, hsample.sampled, hsample.others⟩
    · exact does_sample_defer hk htemp hcount hc
    · exact fun hs => does_sample_protect hk htemp hcount hc hs
    · intro hpos hcur hlow hpred hdefer
      exact (does_sample_fall hk htemp hcount hc hpos hcur hlow hpred hdefer).imp fun t ⟨htaken, hsample⟩ =>
        ⟨htaken, hsample.deferLevel, hsample.others⟩

end Sys2Proof.Machine
end

section
/-! Refutations: for each of O30, O37 and O53 a concrete packet or state that meets the premises of one clause, and what the model makes of
it. -/

namespace Sys2Proof.Machine

/-! ## The port on which a packet came is no part of its header -/

/-- A READ of this module's own memory that came on port 0. -/
def cameOnPort0 : FabPkt :=
  { op := .read, cls := 0, cmark := false, echo := false, dest := 0, src := 0, srcTile := 0, srcEngine := false, tag := 0, trigger := 0
    aop := 0, aw := 0, rfmt := 0, hops := 0, circuit := 0, inPort := 0, beat := 0, addr := 0, stepLo := 0, epoch := 0, slice := 0
    payload := [] }

/-- A packet that is read back from its cells is one of this module's own until it is routed (R340, R367). -/
theorem pktOf_inPort (h : Nat) (rest : List Byte) : (pktOf h rest).inPort = 63 := rfl

/-- Refutes O30: the port on which a packet came (R367) is no part of the header, as the port that a COPY names is none, but HeaderFits
holds only the latter to 63; `cameOnPort0` comes back as a packet of port 63. -/
theorem not_cellsCarryThePacket : ¬ Obligations.CellsCarryThePacket := by
  unfold Obligations.CellsCarryThePacket
  rintro ⟨hpacket, -⟩
  obtain ⟨-, hback⟩ := hpacket cameOnPort0 (by unfold HeaderFits; decide)
  have hport : 63 = cameOnPort0.inPort := (pktOf_inPort _ _).symm.trans (congrArg FabPkt.inPort hback)
  exact absurd hport (by decide)

/-! ## A lane that is listed twice -/

/-- Port 0, DOWN, whose list of error counts names lane 0 twice. -/
def laneListedTwice : State := { State.reset with fab := { ports := [(0, { prbsErr := [(0, 1), (0, 2)] })] } }

theorem prbsErr_portTest_laneListedTwice : aget 0 ((laneListedTwice.portTest 0).port 0).prbsErr 0 = 2 := by decide

/-- Refutes O37: the statement is about every state, also one whose error counts name a lane twice; a read of the lane finds its first
count, 1 here, and TEST_ENTER, which goes through the list, leaves its last, 2 (R335). -/
theorem not_portsAndLinks : ¬ Obligations.PortsAndLinks := by
  unfold Obligations.PortsAndLinks
  rintro ⟨hports, -⟩
  obtain ⟨-, -, -, -, hdown, -⟩ := hports laneListedTwice 0 0 0 0 0 0 ⟨rfl, rfl, rfl, rfl⟩ (by decide) (by decide) (by decide) (by decide)
  obtain ⟨-, htest⟩ := hdown (.inl rfl)
  obtain ⟨-, herr⟩ := htest.post_endOf rfl
  have hlane := herr 0
  rw [endOf_port, prbsErr_portTest_laneListedTwice] at hlane
  exact absurd hlane (by decide)

/-! ## A recorded LANE_FAULT follows the capture of its tile -/

/-- A LANE_FAULT of tile 0 that was raised for its lane 0. -/
def lane0Fault : FaultRec := { cause := .laneFault, unit := .tile, index := 0, laneMask := 1 }

/-- Tile 0 has meanwhile captured lane 1 of the same word too. -/
def twoLanesCaptured : State := { State.reset with
  tiles := [(0, { cap := { word := some { serial := 0, cw := 0, bank := 0, beat := 0, tag := 0 }, mask := 3 } })] }

theorem fault2_faultArrive_twoLanesCaptured :
    fld ((twoLanesCaptured.updRas fun r => { r with tree := r.tree.erase lane0Fault }).faultArrive lane0Fault).ras.fault2 16 32 = 3 := by
  decide

/-- Refutes O53: RAS_FAULT2 of a LANE_FAULT shows what its tile has captured of the word by the time the fault is recorded (R199, R501),
lanes 0 and 1 here, where the statement has the mask with which the fault was raised. -/
theorem not_faultsAndHalts : ¬ Obligations.FaultsAndHalts := by
  unfold Obligations.FaultsAndHalts
  intro h
  obtain ⟨-, hfault⟩ := h twoLanesCaptured lane0Fault 0 0 0 ⟨rfl, rfl, rfl, rfl⟩
  obtain ⟨hfirst, -⟩ := hfault rfl
  obtain ⟨-, hrecorded, -⟩ := (hfirst (.inl (by decide)) (by decide)).post_endOf rfl
  obtain ⟨-, -, -, -, -, -, -, -, hmask, -⟩ := hrecorded
  rw [endOf_ras, fault2_faultArrive_twoLanesCaptured] at hmask
  exact absurd hmask (by decide)

end Sys2Proof.Machine
end

section
/-! Commands that change one port of the fabric: their frame and what they leave of the other ports; the PRBS checker of a lane in TEST
(R335, R368), and obligation O36 from these. -/

namespace Sys2Proof.Machine

variable {s t : State} {l : List Piece} {p : Nat}

/-! ## One port -/

/-- From `s` to `t` port `p` has become `y`, and no other port has changed. -/
def PortIs (s t : State) (p : Nat) (y : Port) : Prop := t.port p = y ∧ ∀ k, k ≠ p → t.port k = s.port k

theorem portIs_updPort (s : State) (p : Nat) (f : Port → Port) : PortIs s (s.updPort p f) p (f (s.port p)) :=
  ⟨by rw [State.port_updPort, if_pos rfl], fun k hk => by rw [State.port_updPort, if_neg hk]⟩

/-- Only what becomes of the port itself counts. -/
theorem updPort_congr {f g : Port → Port} (h : f (s.port p) = g (s.port p)) : s.updPort p f = s.updPort p g := by
  rw [State.updPort, State.updPort, h]

/-- A command that changes one port does what that port shows. -/
theorem Does.of_updPort {c : Instr} {f : Port → Port} {post : State → Prop} (hc : Clean s) (hl : .ports ∈ l)
    (he : exec c s = done s (s.updPort p f)) (hp : ∀ t, PortIs s t p (f (s.port p)) → post t) : Does c s l post :=
  Does.of_frame he ((Frame.refl hc).updPort hl p f) (hp _ (portIs_updPort s p f))

/-! ## One bit at a checker (R335) -/

section
variable {w k n : Nat} {c : Checker} {b : Bool}

/-- The bit that the polynomial gives next. -/
def Checker.want (c : Checker) (w k : Nat) : Bool := (nth false c.hist (w - 1)) != (nth false c.hist (k - 1))

theorem prbsBit_fills (locked : Bool) (n : Nat) (h : c.hist.length < w) :
    prbsBit w k c locked n b = ({ c with hist := b :: c.hist }, locked, n) := if_pos h

theorem prbsBit_locked (n : Nat) (h : c.hist.length = w) : prbsBit w k c true n b =
    ({ c with hist := (c.want w k :: c.hist).take w }, true, n + if c.want w k = b then 0 else 1) := by
  rw [prbsBit, if_neg (by omega)]
  change ({ c with hist := (c.want w k :: c.hist).take w }, true, if c.want w k = b then n else n + 1) = _
  split <;> rfl

theorem prbsBit_unlocked (n : Nat) (h : c.hist.length = w) : let a := if c.want w k = b then c.agree + 1 else 0
    prbsBit w k c false n b =
      ({ hist := (b :: c.hist).take w, agree := a }, decide (1024 ≤ a), if 1024 ≤ a then 0 else n) := if_neg (Nat.not_lt.mpr h.ge)

end

/-! ## The pattern at a lane (R335, R368) -/

/-- What the checker of a lane makes of one bit. -/
def Port.bitTaken (x : Port) (lane : Nat) (b : Bool) : Checker × Bool × Nat :=
  prbsBit (prbsTaps (fld x.prbs 0 3)).1 (prbsTaps (fld x.prbs 0 3)).2 (aget {} x.checkers lane) (bitOf (aget 0 x.prbsErr lane) 32)
    (fld (aget 0 x.prbsErr lane) 0 32) b

/-- A lane of the port after a checker, whether it is locked and its count of errors have been written. -/
def Port.checked (x : Port) (lane : Nat) (r : Checker × Bool × Nat) : Port :=
  { x with checkers := aset {} x.checkers lane r.1
           prbsErr := aset 0 x.prbsErr lane (setBit (setFld (aget 0 x.prbsErr lane) 0 32 (min r.2.2 (2 ^ 32 - 1))) 32 r.2.1) }

section
variable (x : Port) (lane : Nat) (r : Checker × Bool × Nat)

theorem checker_checked : aget {} (x.checked lane r).checkers lane = r.1 := by rw [Port.checked, aget_aset, if_pos rfl]

theorem errors_checked : fld (aget 0 (x.checked lane r).prbsErr lane) 0 32 = min 0xFFFFFFFF r.2.2 := by
  rw [Port.checked, aget_aset, if_pos rfl, fld_setBit_ne _ _ _ _ _ (by omega) (by omega), fld_setFld _ _ _ _ (by omega),
    Nat.mod_eq_of_lt (lt_of_le_of_lt (Nat.min_le_right _ _) (by norm_num)), Nat.min_comm]
  rfl

theorem locked_checked : bitOf (aget 0 (x.checked lane r).prbsErr lane) 32 = r.2.1 := by
  rw [Port.checked, aget_aset, if_pos rfl, bitOf_setBit _ _ _ (by omega)]

end

/-- A checker in TEST takes the bit. -/
theorem exec_prbsPatternReceive_of_test {lane : Nat} (b : Bool) (hst : (s.port p).st = 5) (hcheck : bitOf (s.port p).prbs 12 = true)
    (hl : lane < 8) (hon : bitOf (s.port p).prbs (3 + lane) = true) (hpoly : fld (s.port p).prbs 0 3 < 5) :
    exec (.prbsPatternReceive p lane [b]) s = done s (s.updPort p fun x => x.checked lane ((s.port p).bitTaken lane b)) := by
  change execPrbsPatternReceive p lane [b] s = _
  simp only [execPrbsPatternReceive, List.foldl_cons, List.foldl_nil]
  rw [if_pos ⟨hst, hcheck, hl, hon, hpoly⟩]
  exact congrArg (done s) (updPort_congr rfl)

theorem does_prbsPatternReceive {lane : Nat} {b : Bool} (hc : Clean s) (hst : (s.port p).st = 5) (hcheck : bitOf (s.port p).prbs 12 = true)
    (hl : lane < 8) (hon : bitOf (s.port p).prbs (3 + lane) = true) (hpoly : fld (s.port p).prbs 0 3 < 5) :
    Does (.prbsPatternReceive p lane [b]) s [.ports] fun t =>
      PortIs s t p ((s.port p).checked lane ((s.port p).bitTaken lane b)) :=
  Does.of_updPort hc (by simp) (exec_prbsPatternReceive_of_test b hst hcheck hl hon hpoly) fun _ h => h

/-- Settles O36: by the state of the lane's checker. -/
theorem prbsCheck : Obligations.PrbsCheck := by
  unfold Obligations.PrbsCheck
  intro s p lane b hc hst hcheck hl hon hpoly w k c e want others lane' err'
  have hdoes := does_prbsPatternReceive (b := b) hc hst hcheck hl hon hpoly
  have hcount : fld e 0 32 < 2 ^ 32 := fld_lt e 0 32
  refine ⟨fun hfill => ?_, fun hfull hlock => ?_, fun hfull hlock => ?_⟩
  · have htaken : (s.port p).bitTaken lane b = ({ c with hist := b :: c.hist }, bitOf e 32, fld e 0 32) := prbsBit_fills _ _ hfill
    refine hdoes.imp fun t ⟨hport, hothers⟩ => ⟨hothers, ?_, ?_⟩
    · simp only [lane', hport, checker_checked, htaken]
    · simp only [err', hport, errors_checked, htaken]
      omega
  · have htaken : (s.port p).bitTaken lane b =
        ({ c with hist := (want :: c.hist).take w }, true, fld e 0 32 + if want = b then 0 else 1) := by
      rw [Port.bitTaken, hlock]
      exact prbsBit_locked _ hfull
    refine hdoes.imp fun t ⟨hport, hothers⟩ => ⟨hothers, ?_, ?_, ?_⟩
    · simp only [lane', hport, checker_checked, htaken]
    · simp only [err', hport, errors_checked, htaken]
    · simp only [err', hport, locked_checked, htaken]
  · have htaken : (s.port p).bitTaken lane b = ({ hist := (b :: c.hist).take w, agree := if want = b then c.agree + 1 else 0 },
        decide (1024 ≤ if want = b then c.agree + 1 else 0), if 1024 ≤ (if want = b then c.agree + 1 else 0) then 0 else fld e 0 32) := by
      rw [Port.bitTaken, hlock]
      exact prbsBit_unlocked _ hfull
    refine hdoes.imp fun t ⟨hport, hothers⟩ => ⟨hothers, ?_, ?_, ?_⟩
    · simp only [lane', hport, checker_checked, htaken]
    · simp only [err', hport, errors_checked, htaken]
      split_ifs <;> omega
    · simp only [err', hport, locked_checked, htaken]

end Sys2Proof.Machine
end

section
/-! The link layer of an UP port (R324 to R329): what a received cell, a NAK and a control block make of the port, and obligation O31 from
these. -/

namespace Sys2Proof.Machine

variable {s t : State} {l : List Piece} {p : Nat}

/-! ## Updates of one port, one after the other, and of the fabric beside the ports -/

theorem aset_aset {α : Type} [DecidableEq α] (d : α) (m : Assoc α) (k : Nat) (u v : α) : aset d (aset d m k u) k v = aset d m k v := by
  change (if v = d then adel (aset d m k u) k else ains (adel (aset d m k u) k) k v) = _
  rw [adel_aset_same]
  rfl

theorem updPort_updPort (s : State) (p : Nat) (f g : Port → Port) : (s.updPort p f).updPort p g = s.updPort p fun x => g (f x) := by
  have hport : (s.updPort p f).port p = f (s.port p) := (portIs_updPort s p f).1
  rw [State.updPort, hport]
  simp only [State.updPort, aset_aset]

theorem port_setFab {g : Fab} (hg : g.ports = s.fab.ports) (k : Nat) : (s.setFab g).port k = s.port k := by
  rw [State.port, State.port, State.setFab, hg]

theorem PortIs.setFab {y : Port} {g : Fab} (h : PortIs s t p y) (hg : g.ports = t.fab.ports) : PortIs s (t.setFab g) p y :=
  ⟨(port_setFab hg p).trans h.1, fun k hk => (port_setFab hg k).trans (h.2 k hk)⟩

theorem PortIs.fault {y : Port} (h : PortIs s t p y) (c : Cause) (u : FaultUnit) (i : Nat) : PortIs s (t.fault c u i) p y := h

theorem PortIs.updPort {y : Port} (h : PortIs s t p y) (f : Port → Port) : PortIs s (t.updPort p f) p (f y) := by
  obtain ⟨hy, hk⟩ := portIs_updPort t p f
  exact ⟨hy.trans (congrArg f h.1), fun k hne => (hk k hne).trans (h.2 k hne)⟩

theorem PortIs.of_updPort {f : Port → Port} {y : Port} (h : PortIs (s.updPort p f) t p y) : PortIs s t p y :=
  ⟨h.1, fun k hk => (h.2 k hk).trans ((portIs_updPort s p f).2 k hk)⟩

theorem PortIs.refl (s : State) (p : Nat) : PortIs s s p (s.port p) := ⟨rfl, fun _ _ => rfl⟩

theorem PortIs.endOf {y : Port} (h : PortIs s t p y) : PortIs s (endOf s t) p y := h

/-- A packet that is dropped changes the fabric beside its ports alone (R349, R367). -/
theorem dropPkt_eq (s : State) (port : Nat) (q : FabPkt) (d : DropCause) :
    ∃ g : Fab, g.ports = s.fab.ports ∧ s.dropPkt port q d = s.setFab g := by
  obtain ⟨d0, d1, d2, -, hrec⟩ := recordDrop_eq_setFab s port q d
  unfold State.dropPkt
  rw [hrec]
  dsimp only
  split
  · exact ⟨{ s.fab with drop0 := d0, drop1 := d1, drop2 := d2 }, rfl, rfl⟩
  · split
    all_goals refine ⟨_, ?_, rfl⟩; rfl

theorem foldl_dropPkt_eq (s : State) (d : DropCause) (ps : List FabPkt) :
    ∃ g : Fab, g.ports = s.fab.ports ∧ ps.foldl (fun s q => s.dropPkt q.inPort q d) s = s.setFab g := by
  induction ps generalizing s with
  | nil => exact ⟨s.fab, rfl, rfl⟩
  | cons q ps ih =>
    obtain ⟨g, hg, he⟩ := dropPkt_eq s q.inPort q d
    obtain ⟨g', hg', he'⟩ := ih (s.setFab g)
    exact ⟨g', hg'.trans hg, by rw [List.foldl_cons, he, he']; rfl⟩

/-! ## A port that leaves UP (R334) -/

/-- A port that leaves UP starts its link afresh; packets are dropped, a fault may be raised, and nothing else changes. -/
theorem linkDrop_spec (hf : .fab ∈ l) (hp : .ports ∈ l) (hr : .ras ∈ l) (h : Frame l s t) :
    Frame l s (t.linkDrop p) ∧ PortIs t (t.linkDrop p) p (t.port p).freshLink := by
  unfold State.linkDrop
  dsimp only
  obtain ⟨g, hg, he⟩ := foldl_dropPkt_eq (t.updPort p Port.freshLink) .linkDown
    ((((t.port p).retry ++ (t.port p).flight ++ (t.port p).cirFlight.flatMap fun e => e.2).filter fun c => c.last).map (fun c => c.pkt) ++
      (t.port p).halts ++ (t.port p).queue.map (fun i => i.pkt) ++ (t.port p).cirQueue)
  have hframe := ((h.updPort hp p Port.freshLink).setFab hf hg)
  have hport := (portIs_updPort t p Port.freshLink).setFab hg
  rw [he]
  split
  · exact ⟨hframe.fault hr .., hport.fault ..⟩
  · exact ⟨hframe, hport⟩

/-- A port that goes from UP to another state (R334). -/
theorem portTo_spec_of_up (hf : .fab ∈ l) (hp : .ports ∈ l) (hr : .ras ∈ l) (h : Frame l s t) (hst : (t.port p).st = 3) (st reason : Nat) :
    Frame l s (t.portTo p st reason) ∧
      PortIs t (t.portTo p st reason) p { (t.port p).freshLink with st := st, reason := reason } := by
  obtain ⟨hframe, hport⟩ := linkDrop_spec (p := p) hf hp hr h
  rw [State.portTo, if_pos hst]
  exact ⟨hframe.updPort hp p _, hport.updPort _⟩

/-! ## Codewords and cells -/

/-- The port with FAB_P_LINK replaced. Its new value stays a name of its own, so that no comparison of ports computes the bits of it. -/
def Port.setLink (x : Port) (v : W64) : Port := { x with link := v }

theorem setLink_st (x : Port) (v : W64) : (x.setLink v).st = x.st := rfl

theorem setLink_rxSeq (x : Port) (v : W64) : (x.setLink v).rxSeq = x.rxSeq := rfl

theorem setLink_down (x : Port) (v : W64) : { (x.setLink v).freshLink with st := 0, reason := 4 } =
    { x.freshLink with st := 0, reason := 4, link := v } := rfl

/-- The outcomes of codewords are counted in FAB_P_FEC alone (R368). -/
theorem fecCount_eq (x : Port) (errs : List Nat) : ∃ v : W64, x.fecCount errs = { x with fec := v } := by
  unfold Port.fecCount
  induction errs generalizing x with
  | nil => exact ⟨x.fec, rfl⟩
  | cons e errs ih => exact ih { x with fec := _ }

theorem fecCount_link (x : Port) (errs : List Nat) : (x.fecCount errs).link = x.link := by
  obtain ⟨_, h⟩ := fecCount_eq x errs
  rw [h]

theorem fecCount_rxSeq (x : Port) (errs : List Nat) : (x.fecCount errs).rxSeq = x.rxSeq := by
  obtain ⟨_, h⟩ := fecCount_eq x errs
  rw [h]

/-- A codeword that cannot be corrected, or a CRC that does not check (R324, R328). -/
theorem bad_iff (bytes : List Byte) (errs : List Nat) : (errs.any (fun e => decide (fecLimit < e)) || !cellCrcOk bytes) = true ↔
    ¬ ((∀ e ∈ errs, e ≤ 15) ∧ cellCrcOk bytes = true) := by
  simp only [Bool.or_eq_true, List.any_eq_true, decide_eq_true_eq, Bool.not_eq_true', not_and_or, not_forall, Bool.not_eq_true,
    exists_prop, not_le]
  rfl

theorem cellKnown_iff (c : Cell) : cellKnown c = true ↔ c.type < 4 ∧ (c.type = 1 → c.vc < 6) := by
  simp [cellKnown, imp_iff_not_or]

/-- The port after the codewords and the report of a cell. -/
def Port.heard (x : Port) (c : Cell) (errs : List Nat) : Port := (x.fecCount errs).report c

section
variable (x : Port) (c : Cell) (errs : List Nat)

/-- What a cell reports are acknowledgements and credits; the rest of the port is as before. -/
theorem heard_eq : ∃ (v : W64) (retry resend : List Tx) (credits : Assoc Nat),
    x.heard c errs = { x with fec := v, retry := retry, resend := resend, credits := credits } := by
  obtain ⟨v, hv⟩ := fecCount_eq x errs
  exact ⟨v, _, _, _, by rw [Port.heard, hv]; rfl⟩

@[simp] theorem heard_st : (x.heard c errs).st = x.st := by obtain ⟨_, _, _, _, h⟩ := heard_eq x c errs; rw [h]
@[simp] theorem heard_rxSeq : (x.heard c errs).rxSeq = x.rxSeq := by obtain ⟨_, _, _, _, h⟩ := heard_eq x c errs; rw [h]
@[simp] theorem heard_rx : (x.heard c errs).rx = x.rx := by obtain ⟨_, _, _, _, h⟩ := heard_eq x c errs; rw [h]
@[simp] theorem heard_link : (x.heard c errs).link = x.link := by obtain ⟨_, _, _, _, h⟩ := heard_eq x c errs; rw [h]
@[simp] theorem heard_nakRun : (x.heard c errs).nakRun = x.nakRun := by obtain ⟨_, _, _, _, h⟩ := heard_eq x c errs; rw [h]

end

/-! ## A cell is received (R328) -/

section
variable {bytes : List Byte} {errs : List Nat} (hst : (s.port p).st = 3)
include hst

theorem exec_linkCellReceive_of_bad (hbad : ¬ ((∀ e ∈ errs, e ≤ 15) ∧ cellCrcOk bytes = true)) :
    exec (.linkCellReceive p bytes errs) s = done s (s.updPort p fun x =>
      ((x.fecCount errs).setLink (addFld x.link 32 16 1)).nakOnce) := by
  change execLinkCellReceive p bytes errs s = _
  rw [execLinkCellReceive, if_neg (not_not.mpr hst)]
  dsimp only
  rw [if_pos ((bad_iff bytes errs).mpr hbad), updPort_updPort]
  refine congrArg (done s) (updPort_congr ?_)
  rw [fecCount_link]
  rfl

variable (hfine : (∀ e ∈ errs, e ≤ 15) ∧ cellCrcOk bytes = true)
include hfine

theorem exec_linkCellReceive_of_fine : let c := cellOf bytes
    let s2 := s.updPort p fun x => x.heard c errs
    let s3 := if c.nak then s2.gotNak p c.ack else s2
    exec (.linkCellReceive p bytes errs) s =
      if (s3.port p).st ≠ 3 ∨ (cellKnown c ∧ c.type = 0) then done s s3
      else if !cellKnown c ∨ c.seq ≠ (s3.port p).rxSeq then done s (s3.updPort p Port.nakOnce)
      else done s (s3.acceptCell p c) := by
  intro c s2 s3
  change execLinkCellReceive p bytes errs s = _
  rw [execLinkCellReceive, if_neg (not_not.mpr hst)]
  dsimp only
  rw [if_neg fun h => (bad_iff bytes errs).mp h hfine, updPort_updPort]
  rfl

/-- An IDLE cell only reports. -/
theorem exec_linkCellReceive_of_idle (hknown : cellKnown (cellOf bytes) = true) (htype : (cellOf bytes).type = 0) :
    exec (.linkCellReceive p bytes errs) s = done s (if (cellOf bytes).nak
      then (s.updPort p fun x => x.heard (cellOf bytes) errs).gotNak p (cellOf bytes).ack
      else s.updPort p fun x => x.heard (cellOf bytes) errs) :=
  (exec_linkCellReceive_of_fine hst hfine).trans (if_pos (.inr ⟨hknown, htype⟩))

variable (hnak : (cellOf bytes).nak = false)
include hnak

/-- A cell out of sequence, or one of a reserved TYPE or VC, is discarded with one NAK. -/
theorem exec_linkCellReceive_of_discarded (h : cellKnown (cellOf bytes) = false ∨
    ((cellOf bytes).seq ≠ (s.port p).rxSeq ∧ (cellOf bytes).type ≠ 0)) :
    exec (.linkCellReceive p bytes errs) s = done s (s.updPort p fun x => (x.heard (cellOf bytes) errs).nakOnce) := by
  have hport := (portIs_updPort s p fun x => x.heard (cellOf bytes) errs).1
  refine (exec_linkCellReceive_of_fine hst hfine).trans ?_
  simp only [hnak, Bool.false_eq_true, if_false, hport, heard_st, heard_rxSeq, hst]
  rw [if_neg, if_pos, updPort_updPort]
  · rcases h with hunknown | ⟨hseq, -⟩
    · exact .inl (by rw [hunknown]; rfl)
    · exact .inr hseq
  · rintro (hup | ⟨hknown, hidle⟩)
    · exact hup rfl
    · rcases h with hunknown | ⟨-, htype⟩
      · exact absurd (hknown.symm.trans hunknown) (by decide)
      · exact htype hidle

/-- A cell in sequence is taken. -/
theorem exec_linkCellReceive_of_taken (hknown : cellKnown (cellOf bytes) = true) (hseq : (cellOf bytes).seq = (s.port p).rxSeq)
    (htype : (cellOf bytes).type ≠ 0) : exec (.linkCellReceive p bytes errs) s =
      done s ((s.updPort p fun x => x.heard (cellOf bytes) errs).acceptCell p (cellOf bytes)) := by
  have hport := (portIs_updPort s p fun x => x.heard (cellOf bytes) errs).1
  refine (exec_linkCellReceive_of_fine hst hfine).trans ?_
  simp only [hnak, Bool.false_eq_true, if_false, hport, heard_st, heard_rxSeq, hst, hknown, hseq, htype]
  simp

end

/-! ## A cell in sequence (R325, R326) -/

/-- The port that has taken a cell in sequence. -/
def Port.took (x : Port) : Port := { x with rxSeq := (x.rxSeq + 1) % 4096, nakSent := none }

/-- The buffer that a cell's body joins: that of its VC, or of its circuit. -/
def cellKey (c : Cell) : Nat := if c.type = 2 then 6 + c.circuit else c.vc

/-- The packet that the bodies of its cells hold. -/
def joined (bodies : List Line) : FabPkt :=
  pktOf (ofLe ((bodies.flatMap lineBytes).take 32)) ((bodies.flatMap lineBytes).drop 32)

/-- The state in which a packet that came on port `p` is at the switch. -/
def State.atSwitch (s : State) (p : Nat) (q : FabPkt) : State := s.setFab { s.fab with switchQ := s.fab.switchQ ++ [(p, q)] }

theorem cellsDone_eq (s : State) (p : Nat) (bodies : List Line) : s.cellsDone p bodies = s.atSwitch p (joined bodies) := rfl

section
variable {c : Cell}

theorem acceptCell_of_halt (htype : c.type = 3) : s.acceptCell p c = (s.updPort p Port.took).atSwitch p (joined [c.body]) := by
  rw [State.acceptCell]
  dsimp only
  rw [if_pos htype, cellsDone_eq]
  rfl

variable (htype : c.type ≠ 3)
include htype

theorem acceptCell_of_part (hpart : (aget [] (s.port p).rx (cellKey c) ++ [c.body]).length <
    cellsNeeded ((aget [] (s.port p).rx (cellKey c) ++ [c.body]).headD 0)) : s.acceptCell p c =
      s.updPort p fun x => { x.took with rx := aset [] x.rx (cellKey c) (aget [] (s.port p).rx (cellKey c) ++ [c.body]) } := by
  have hport := (portIs_updPort s p fun x => { x with rxSeq := (x.rxSeq + 1) % 4096, nakSent := none }).1
  rw [State.acceptCell]
  dsimp only
  rw [if_neg htype, hport]
  exact (if_neg (Nat.not_le.mpr hpart)).trans (updPort_updPort ..)

theorem acceptCell_of_whole (hwhole : cellsNeeded ((aget [] (s.port p).rx (cellKey c) ++ [c.body]).headD 0) ≤
    (aget [] (s.port p).rx (cellKey c) ++ [c.body]).length) : s.acceptCell p c =
      (s.updPort p fun x => { x.took with rx := aset [] x.rx (cellKey c) [] }).atSwitch p
        (joined (aget [] (s.port p).rx (cellKey c) ++ [c.body])) := by
  have hport := (portIs_updPort s p fun x => { x with rxSeq := (x.rxSeq + 1) % 4096, nakSent := none }).1
  rw [State.acceptCell]
  dsimp only
  rw [if_neg htype, hport]
  refine (if_pos hwhole).trans ?_
  rw [updPort_updPort, cellsDone_eq]
  rfl

end

/-- A command that changes one port and brings a packet from it to the switch. -/
theorem Does.of_updPort_atSwitch {i : Instr} {f : Port → Port} {q : FabPkt} (hc : Clean s)
    (he : exec i s = done s ((s.updPort p f).atSwitch p q)) : Does i s [.ports, .fab] fun t =>
      PortIs s t p (f (s.port p)) ∧ t.fab.switchQ = s.fab.switchQ ++ [(p, q)] :=
  Does.of_frame he (((Frame.refl hc).updPort (by simp) p f).setFab (by simp) rfl) ⟨(portIs_updPort s p f).setFab rfl, rfl⟩

/-! ## NAKs (R328, R329) -/

/-- A NAK for the expected number goes out once. -/
theorem nakOnce_eq {x : Port} {n : Nat} (h : x.rxSeq = n) : x.nakOnce =
    if x.nakSent = some n then x else { x with nakSent := some n, sendNak := true, link := addFld x.link 0 16 1 } := by
  rw [← h]
  rfl

/-- NAKs in a row for number `n`, with one more. -/
def Port.naksFor (x : Port) (n : Nat) : Nat := if x.nakRun ≠ 0 ∧ x.nakSeq = n then x.nakRun + 1 else 1

/-- A NAK is counted in FAB_P_LINK. -/
def Port.nakCounted (x : Port) : Port := x.setLink (addFld x.link 16 16 1)

/-- The port that sends again from cell `n` on. -/
def Port.resends (x : Port) (n : Nat) : Port :=
  { x with nakSeq := n, nakRun := x.naksFor n, link := addFld x.link 16 16 1, resend := ackTx x.retry n }

theorem gotNak_eq (s : State) (p n : Nat) : s.gotNak p n = if s.retryLimit ≤ (s.port p).naksFor n
    then (s.updPort p Port.nakCounted).portTo p 0 4 else s.updPort p fun x => x.resends n := by
  rw [State.gotNak]
  exact if_congr Iff.rfl rfl (updPort_congr rfl)

theorem gotNak_of_first {n : Nat} (hrun : (s.port p).nakRun = 0) (hlimit : 1 < s.retryLimit) :
    s.gotNak p n = s.updPort p fun x => x.resends n := by
  have hfirst : (s.port p).naksFor n = 1 := if_neg fun h => h.1 hrun
  rw [gotNak_eq, if_neg (by omega)]

theorem resends_of_first {x : Port} {n : Nat} (hrun : x.nakRun = 0) :
    x.resends n = { x with nakSeq := n, nakRun := 1, link := addFld x.link 16 16 1, resend := ackTx x.retry n } := by
  have hfirst : x.naksFor n = 1 := if_neg fun h => h.1 hrun
  rw [Port.resends, hfirst]

/-- RETRY_LIMIT NAKs in a row for one number take the port DOWN. -/
theorem does_nak_limit (hc : Clean s) {n : Nat} (hst : (s.port p).st = 3) (hrun : (s.port p).nakRun ≠ 0) (hseq : (s.port p).nakSeq = n)
    (hlimit : s.retryLimit ≤ (s.port p).nakRun + 1) : Does (.nak p n) s [.ports, .fab, .ras] fun t =>
      PortIs s t p { (s.port p).freshLink with st := 0, reason := 4, link := addFld (s.port p).link 16 16 1 } := by
  have hport := (portIs_updPort s p Port.nakCounted).1
  have hnaks : (s.port p).naksFor n = (s.port p).nakRun + 1 := if_pos ⟨hrun, hseq⟩
  have hup : ((s.updPort p Port.nakCounted).port p).st = 3 := by rw [hport, Port.nakCounted, setLink_st, hst]
  have he : exec (.nak p n) s = done s ((s.updPort p Port.nakCounted).portTo p 0 4) := by
    refine (if_neg (not_not.mpr hst)).trans ?_
    rw [gotNak_eq, if_pos (hlimit.trans hnaks.ge)]
  obtain ⟨hframe, hdown⟩ := portTo_spec_of_up (l := [.ports, .fab, .ras]) (by simp) (by simp) (by simp)
    ((Frame.refl hc).updPort (by simp) p Port.nakCounted) hup 0 4
  rw [hport, Port.nakCounted, setLink_down] at hdown
  exact Does.of_frame he hframe hdown.of_updPort.endOf

/-- Settles O31: by the cell's check, its type and its place in the sequence; by the NAKs before; and by the control block. -/
theorem linkRetry : Obligations.LinkRetry := by
  unfold Obligations.LinkRetry
  intro s p n bytes errs b hc hst x c fine known y is naked taken key bodies bs
  have hknown : cellKnown c = true ↔ known := cellKnown_iff c
  have hunknown : cellKnown c = false ↔ ¬ known := by rw [← hknown, Bool.not_eq_true]
  have htaken : (x.heard c errs).took = taken := by
    simp only [Port.took, heard_rxSeq]
    rfl
  have hnaked : ∀ z : Port, z.rxSeq = x.rxSeq → z.nakOnce = naked z := fun z hz => nakOnce_eq hz
  have hrx : aget [] ((s.updPort p fun x => x.heard c errs).port p).rx (cellKey c) ++ [c.body] = bodies := by
    rw [(portIs_updPort s p fun x => x.heard c errs).1, heard_rx]
    rfl
  refine ⟨fun hfine hnak hk htype => ?_, fun hfine hnak hk hseq => ⟨fun htype hpart => ?_, fun htype hwhole => ?_, fun htype => ?_⟩,
    fun hfine hnak hout => ?_, fun hbad => ?_, fun hfine hnak htype hk hrun hlimit => ?_, fun hrun hlimit => ?_,
    fun hrun hseq hlimit => does_nak_limit hc hst hrun hseq hlimit, ?_, fun k m => ?_⟩
  · refine Does.of_updPort hc (by simp) (f := fun x => x.heard c errs) ?_ fun _ h => h
    exact (exec_linkCellReceive_of_idle hst hfine (hknown.mpr hk) htype).trans (by rw [hnak]; rfl)
  · have he := exec_linkCellReceive_of_taken hst hfine hnak (hknown.mpr hk) hseq (by change c.type ≠ 0; omega)
    rw [acceptCell_of_part (by change c.type ≠ 3; omega) (by rw [hrx]; exact hpart), hrx, updPort_updPort] at he
    refine Does.of_updPort hc (by simp) he fun t ht => ?_
    simp only [heard_rx] at ht
    rw [← htaken]
    exact ht
  · have he := exec_linkCellReceive_of_taken hst hfine hnak (hknown.mpr hk) hseq (by change c.type ≠ 0; omega)
    rw [acceptCell_of_whole (by change c.type ≠ 3; omega) (by rw [hrx]; exact hwhole), hrx, updPort_updPort] at he
    refine (Does.of_updPort_atSwitch hc he).imp fun t ⟨hport, hq⟩ => ⟨?_, hq⟩
    simp only [heard_rx] at hport
    rw [← htaken]
    exact hport
  · have he := exec_linkCellReceive_of_taken hst hfine hnak (hknown.mpr hk) hseq (by change c.type ≠ 0; omega)
    rw [acceptCell_of_halt htype, updPort_updPort] at he
    refine (Does.of_updPort_atSwitch hc he).imp fun t ⟨hport, hq⟩ => ⟨?_, ?_⟩
    · rw [← htaken]
      exact hport
    · rw [hq, joined, List.flatMap_singleton]
  · refine Does.of_updPort hc (by simp) (exec_linkCellReceive_of_discarded hst hfine hnak (hout.imp_left hunknown.mpr)) fun t ht => ?_
    rw [hnaked _ (heard_rxSeq x c errs)] at ht
    exact ht
  · refine Does.of_updPort hc (by simp) (exec_linkCellReceive_of_bad hst hbad) fun t ht => ?_
    rw [hnaked _ ((setLink_rxSeq ..).trans (fecCount_rxSeq x errs))] at ht
    exact ht
  · have he := exec_linkCellReceive_of_idle hst hfine (hknown.mpr hk) htype
    have hrun2 : ((s.updPort p fun x => x.heard c errs).port p).nakRun = 0 := by
      rw [(portIs_updPort s p fun x => x.heard c errs).1, heard_nakRun]
      exact hrun
    rw [hnak, if_pos rfl, gotNak_of_first hrun2 hlimit, updPort_updPort] at he
    refine Does.of_updPort hc (by simp) he fun t ht => ?_
    rw [resends_of_first ((heard_nakRun x c errs).trans hrun), heard_link] at ht
    exact ht
  · refine Does.of_updPort (p := p) hc (by simp) (f := fun x => x.resends n) ?_ fun t ht => ?_
    · exact (if_neg (not_not.mpr hst)).trans (congrArg (done s) (gotNak_of_first hrun hlimit))
    · rw [resends_of_first hrun] at ht
      exact ht
  · exact Does.of_updPort hc (by simp) (f := fun x => { x with link := addFld x.link 32 16 1 }) rfl fun _ h => h
  · refine Does.of_updPort hc (by simp) (f := fun x => { x with cirUsed := aset 0 x.cirUsed k (aget 0 x.cirUsed k - m) }) rfl fun t ht => ?_
    have hport := ht.1
    refine ⟨?_, fun j => ?_⟩
    · rw [hport]
      exact ht
    · rw [hport, aget_aset]
      split_ifs with hj
      · rw [hj]
      · rfl

end Sys2Proof.Machine
end

section
/-! Routing (R330, R347, R349, R351, R352, R355, R357, R380, R569): what a drop, a delivery and a packet that goes on make of the fabric, and
obligation O33 from these. -/

namespace Sys2Proof.Machine

variable {s t u : State} {l : List Piece} {q : FabPkt} {port : Nat}

/-! ## Updates of the fabric with its ports -/

theorem Frame.setPorts (h : Frame l s t) (hf : .fab ∈ l) (hp : .ports ∈ l) (f : Fab) : Frame l s (t.setFab f) := by
  refine h.extend rfl ⟨rfl, rfl, rfl, rfl⟩ fun p hp' => ?_
  cases p
  case fab => exact absurd hf hp'
  case ports => exact absurd hp hp'
  all_goals simp [Piece.same, State.setFab, State.tile]

theorem Frame.setSlice (h : Frame l s t) (hl : .slice ∈ l) (x : Slice) : Frame l s (t.setSlice x) :=
  h.extend rfl ⟨rfl, rfl, rfl, rfl⟩ fun p hp => Piece.same_setSlice x (fun e => hp (e ▸ hl)) (p.same_refl t)

/-- A command that changes the fabric, and of its ports none that the frame does not name. -/
theorem Does.of_setFab {i : Instr} {f : Fab} {post : State → Prop} (hc : Clean s) (hl : .fab ∈ l)
    (hp : .ports ∈ l ∨ f.ports = s.fab.ports) (he : exec i s = done s (s.setFab f)) (hpost : ∀ t, t.fab = f → post t) :
    Does i s l post := by
  refine Does.of_frame he ?_ (hpost _ rfl)
  rcases hp with hp | hp
  · exact (Frame.refl hc).setPorts hl hp f
  · exact (Frame.refl hc).setFab hl hp

theorem setFab_setFab (s : State) (f g : Fab) : (s.setFab f).setFab g = s.setFab g := rfl

theorem port_of_fab {f : Fab} (h : t.fab = f) (k : Nat) : t.port k = aget {} f.ports k := by rw [State.port, h]

/-! ## A request that is dropped (R349, R367) -/

/-- From `s` to `t` one more drop has been counted. -/
def DropCounted (s t : State) : Prop := fld t.fab.drop2 0 32 = min 0xFFFFFFFF (fld s.fab.drop2 0 32 + 1)

/-- The ERROR_REPLY with which this module's edge answers a request of its own that is dropped. -/
def droppedOwn (q : FabPkt) (d : DropCause) : FabPkt := { q with op := .errorReply, payload := [], aop := dropCode d }

/-- A request that is dropped is counted and answered: at this module's edge where it is its own, over the fabric else. -/
theorem dropPkt_request (hr : isRequest q.op = true) (s : State) (n : Nat) (d : DropCause) : ∃ f : Fab, s.dropPkt n q d = s.setFab f ∧
    f.ports = s.fab.ports ∧ fld f.drop2 0 32 = min 0xFFFFFFFF (fld s.fab.drop2 0 32 + 1) ∧
    (q.src = s.moduleId → f.switchQ = s.fab.switchQ ∧ f.delivered = s.fab.delivered ++ [droppedOwn q d]) ∧
    (q.src ≠ s.moduleId → f.delivered = s.fab.delivered ∧
      ∃ a : FabPkt, f.switchQ = s.fab.switchQ ++ [(63, a)] ∧ a.op = .errorReply ∧ a.aop = dropCode d ∧ a.tag = q.tag) := by
  obtain ⟨d0, d1, d2, hd2, hrec⟩ := recordDrop_eq_setFab s n q d
  rw [State.dropPkt]
  dsimp only
  rw [hrec, if_neg (by simp [hr])]
  by_cases hm : q.src = s.moduleId
  · rw [if_pos (by exact hm)]
    exact ⟨{ s.fab with drop0 := d0, drop1 := d1, drop2 := d2, delivered := s.fab.delivered ++ [droppedOwn q d] }, rfl, rfl, hd2,
      fun _ => ⟨rfl, rfl⟩, fun h => absurd hm h⟩
  · rw [if_neg (by exact hm)]
    obtain ⟨a, ha, hop, haop, htag, -⟩ := replyFab_error (s := s.setFab { s.fab with drop0 := d0, drop1 := d1, drop2 := d2 }) q [] d
    exact ⟨{ s.fab with drop0 := d0, drop1 := d1, drop2 := d2, switchQ := s.fab.switchQ ++ [(63, a)] }, ha, rfl, hd2, fun h => absurd h hm,
      fun _ => ⟨rfl, a, rfl, hop, haop, htag⟩⟩

/-! ## A packet leaves the switch's queue (R330) -/

/-- The cells of a packet free their VC's buffer. -/
def Port.frees (x : Port) (q : FabPkt) : Port :=
  { x with freed := aset 0 x.freed (vcOf q) (aget 0 x.freed (vcOf q) + pktCells q) }

/-- The ports after a packet that came on one of them has left the buffer of its VC there; port 63 is this module's own traffic. -/
def State.portFreed (s : State) (port : Nat) (q : FabPkt) (k : Nat) : Port :=
  if k = port then (if port = 63 then s.port port else (s.port port).frees q) else s.port k

theorem portFreed_st (s : State) (port : Nat) (q : FabPkt) (k : Nat) : (s.portFreed port q k).st = (s.port k).st := by
  rw [State.portFreed]
  split_ifs with hk
  · rw [hk]
  · rw [hk]; rfl
  · rfl

theorem portFreed_queue (s : State) (port : Nat) (q : FabPkt) (k : Nat) : (s.portFreed port q k).queue = (s.port k).queue := by
  rw [State.portFreed]
  split_ifs with hk
  · rw [hk]
  · rw [hk]; rfl
  · rfl

/-- The switch's queue without a packet. -/
def State.unqueued (s : State) (port : Nat) (q : FabPkt) : Fab := { s.fab with switchQ := s.fab.switchQ.erase (port, q) }

/-- The state in which a packet has left the switch's queue, and the buffer of its VC where it held any of it. -/
def State.offSwitch (s : State) (port : Nat) (q : FabPkt) : State :=
  if port = 63 ∨ q.op = .circuitData then s.setFab (s.unqueued port q)
  else (s.setFab (s.unqueued port q)).updPort port fun x => x.frees q

theorem offSwitch_own (s : State) (q : FabPkt) : s.offSwitch 63 q = s.setFab (s.unqueued 63 q) := if_pos (.inl rfl)

theorem offSwitch_circuit (hop : q.op = .circuitData) : s.offSwitch port q = s.setFab (s.unqueued port q) := if_pos (.inr hop)

/-- Packets beside those of circuits free the buffer of their VC. -/
theorem offSwitch_spec (hop : q.op ≠ .circuitData) (s : State) (port : Nat) : ∃ ps : Assoc Port,
    s.offSwitch port q = s.setFab { s.unqueued port q with ports := ps } ∧ (port = 63 → ps = s.fab.ports) ∧
    ∀ k, aget {} ps k = s.portFreed port q k := by
  rw [State.offSwitch]
  by_cases hport : port = 63
  · refine ⟨s.fab.ports, if_pos (.inl hport), fun _ => rfl, fun k => ?_⟩
    rw [State.portFreed, if_pos hport]
    split_ifs with hk
    · rw [hk]; rfl
    · rfl
  · refine ⟨aset {} s.fab.ports port ((s.port port).frees q), if_neg (not_or.mpr ⟨hport, hop⟩), fun h => absurd h hport, fun k => ?_⟩
    rw [State.portFreed, if_neg hport, aget_aset]
    rfl

theorem exec_fabricPacketRoute (hr : isRequest q.op = true) : exec (.fabricPacketRoute port q) s =
    done s (if s.mayRoute port q then (s.offSwitch port q).routePkt port q else s) := by
  have hdrain : q.op ≠ .drainMarker := fun h => by rw [h] at hr; cases hr
  have hhalt : q.op ≠ .haltMarker := fun h => by rw [h] at hr; cases hr
  change execFabricPacketRoute port q s = _
  rw [execFabricPacketRoute]
  by_cases hmay : s.mayRoute port q = true
  · simp only [hdrain, hhalt, hmay, Bool.not_true, Bool.false_eq_true, or_false, if_false, if_true]
    rfl
  · simp only [hmay, Bool.not_false, or_true, if_true, Bool.false_eq_true, if_false]

/-! ## The cause of a drop (R351) -/

section
variable (hr : isRequest q.op = true)
include hr

theorem routeCause_own : s.routeCause 63 q = if !bitOf (s.route q.dest) 42 ∨ (!bitOf (s.route q.dest) 39 ∧ (rtPorts (s.route q.dest)).isEmpty)
    then some .noRoute else if !bitOf (s.route q.dest) 40 then some .outOfSlice else none := by
  unfold State.routeCause
  dsimp only
  split
  next c h => rw [h] at hr; cases hr
  next => rfl

theorem routeCause_transit (hport : port ≠ 63) : s.routeCause port q = if q.dest = s.moduleId then none
    else if !bitOf (s.route q.dest) 42 ∨ (rtPorts (s.route q.dest)).isEmpty then some .noRoute
    else if !bitOf (s.route q.dest) 40 ∧ !bitOf (s.route q.dest) 41 then some .outOfSlice
    else if 3 ≤ q.hops then some .hopLimit else none := by
  unfold State.routeCause
  dsimp only
  split
  next c h => rw [h] at hr; cases hr
  next => exact if_neg hport

end

/-! ## What becomes of a packet (R351, R352, R355) -/

/-- The packet as it goes on from `port`: its way so far is noted, and the circuit entry that a COPY named counts no more. -/
def camePkt (q : FabPkt) (port : Nat) : FabPkt := { q with cirPort := 63, inPort := port }

/-- Whether a packet is for this module. -/
def State.isHere (s : State) (port : Nat) (q : FabPkt) : Bool := if port = 63 then bitOf (s.route q.dest) 39 else q.dest == s.moduleId

/-- A circuit's cells that do not go on leave their buffer (R357). -/
def State.giveBack (s : State) (port : Nat) (q : FabPkt) : State :=
  if q.op = .circuitData then s.cirFreed (camePkt q port) (pktCells q) else s

theorem giveBack_of_other (hop : q.op ≠ .circuitData) (s : State) (port : Nat) : s.giveBack port q = s := if_neg hop

theorem routePkt_eq (s : State) (port : Nat) (q : FabPkt) : s.routePkt port q = match s.routeCause port q with
    | some c => (s.dropPkt port (camePkt q port) c).giveBack port q
    | none => if s.isHere port q then (s.deliver port (camePkt q port)).giveBack port q
      else if q.op = .circuitData then match s.cirRoute port q.circuit q.cirPort with
        | none => (s.dropPkt port (camePkt q port) .noRoute).giveBack port q
        | some k => if bitOf (cirWord s.fab.cir k.1 k.2 0) 1 then (s.deliver port (camePkt q port)).giveBack port q
          else if (s.port (fld (cirWord s.fab.cir k.1 k.2 0) 2 6)).st ≠ 3
          then (s.sendOn (fld (cirWord s.fab.cir k.1 k.2 0) 2 6) (camePkt q port)).giveBack port q
          else s.sendOn (fld (cirWord s.fab.cir k.1 k.2 0) 2 6) (camePkt q port)
      else s.sendOn (outPort (s.route q.dest) q) (camePkt q port) := by
  rfl

theorem routePkt_of_cause {d : DropCause} (h : s.routeCause port q = some d) :
    s.routePkt port q = (s.dropPkt port (camePkt q port) d).giveBack port q := by
  rw [routePkt_eq, h]

theorem routePkt_of_here (h : s.routeCause port q = none) (hhere : s.isHere port q = true) :
    s.routePkt port q = (s.deliver port (camePkt q port)).giveBack port q := by
  rw [routePkt_eq, h]
  exact if_pos hhere

theorem routePkt_of_onward (h : s.routeCause port q = none) (hhere : s.isHere port q = false) (hop : q.op ≠ .circuitData) :
    s.routePkt port q = s.sendOn (outPort (s.route q.dest) q) (camePkt q port) := by
  rw [routePkt_eq, h]
  dsimp only
  rw [hhere, if_neg (by decide), if_neg hop]

theorem sendOn_of_down {o : Nat} (h : (s.port o).st ≠ 3) (q : FabPkt) : s.sendOn o q = s.dropPkt q.inPort q .linkDown := if_pos h

/-- A packet that goes on waits in its output port's queue, on the VC of its next link (R330, R352). -/
theorem sendOn_of_up {o : Nat} (h : (s.port o).st = 3) (hr : isRequest q.op = true) (hop : q.op ≠ .circuitData) : s.sendOn o q =
    s.updPort o fun x => { x with queue := x.queue ++ [{ pkt := { q with hops := q.hops + 1 }, vc := q.hops, age := 0 }] } := by
  have hhalt : q.op ≠ .haltMarker := fun h => by rw [h] at hr; cases hr
  have hvc : vcOf { q with hops := q.hops + 1 } = q.hops := by
    cases hq : q.op <;> simp_all [vcOf, isRequest, isAnswer]
  rw [State.sendOn, if_neg (not_not.mpr h)]
  refine updPort_congr ?_
  dsimp only
  rw [if_neg hhalt, if_neg hop, hvc]

theorem sendOn_of_circuit {o : Nat} (h : (s.port o).st = 3) (hop : q.op = .circuitData) : s.sendOn o q =
    s.updPort o fun x => { x with cirQueue := x.cirQueue ++ [{ q with hops := q.hops + 1 }] } := by
  rw [State.sendOn, if_neg (not_not.mpr h)]
  refine updPort_congr ?_
  dsimp only
  rw [if_neg (by rw [hop]; decide), if_pos hop]

/-! ## A packet that is delivered (R351, R380) -/

section
variable (hr : isRequest q.op = true) (h39 : bitOf (s.route s.moduleId) 39 = true) (hslice : q.slice = BitVec.ofNat 16 (fld s.fab.id 28 16))
include hr h39 hslice

theorem deliver_of_member : s.deliver port q = if (s.headerCheck q).2
    then (s.headerCheck q).1.setFab { (s.headerCheck q).1.fab with delivered := (s.headerCheck q).1.fab.delivered ++ [q] }
    else (s.headerCheck q).1 := by
  have hanswer : isAnswer q.op = false := by cases hq : q.op <;> simp_all [isRequest, isAnswer]
  have hcontrol : ¬ (q.op = .control ∧ 12 ≤ q.aop) := fun h => by rw [h.1] at hr; cases hr
  unfold State.deliver
  dsimp only
  rw [hanswer, if_neg (by decide), if_neg (by simp [h39, hslice]), if_neg hcontrol]
  rfl

theorem deliver_of_accepted (hhdr : s.sliceSt ≠ 2 ∨ q.srcEngine = false ∨
    (q.stepLo = BitVec.ofNat 32 s.slice.step.toNat ∧ q.epoch = BitVec.ofNat 16 s.slice.epoch.toNat)) :
    s.deliver port q = s.setFab { s.fab with delivered := s.fab.delivered ++ [q] } := by
  have hcheck : s.headerCheck q = (s, true) := by
    unfold State.headerCheck
    dsimp only
    split
    next h =>
      obtain ⟨hrun, hengine, -⟩ := h
      rcases hhdr with hidle | htile | ⟨hstep, hepoch⟩
      · exact absurd hrun hidle
      · exact absurd (hengine.symm.trans htile) (by decide)
      · rw [if_neg (not_not.mpr hstep), if_neg (not_not.mpr hepoch)]
    next => rfl
  rw [deliver_of_member hr h39 hslice, hcheck]
  rfl

/-- A collective's packet of another step is not applied: it raises its faults (R380). -/
theorem deliver_of_stepMismatch (hrun : s.sliceSt = 2) (hengine : q.srcEngine = true) (hlo : 0x1000 ≤ q.srcTile) (hhi : q.srcTile < 0x1040)
    (hstep : q.stepLo ≠ BitVec.ofNat 32 s.slice.step.toNat) :
    ∃ x : Slice, s.deliver port q = (s.setSlice x).fault .stepMismatch .collective (q.srcTile - 0x1000) := by
  obtain ⟨x, hx⟩ : ∃ x : Slice, (s.headerCheck q) = ((s.setSlice x).fault .stepMismatch .collective (q.srcTile - 0x1000), false) := by
    unfold State.headerCheck
    dsimp only
    rw [if_pos ⟨hrun, hengine, hlo, hhi, hr⟩, if_pos hstep]
    unfold State.collFault
    split
    · exact ⟨s.slice, rfl⟩
    · exact ⟨_, rfl⟩
  exact ⟨x, by rw [deliver_of_member hr h39 hslice, hx]; rfl⟩

end

/-- A packet takes one of its entry's ports (R352). -/
theorem outPort_mem {e : W64} (h : rtPorts e ≠ []) (q : FabPkt) : outPort e q ∈ rtPorts e := by
  have hlen : 0 < (rtPorts e).length := List.length_pos_of_ne_nil h
  have hlt : (q.src + q.srcTile) % max 1 (rtPorts e).length < (rtPorts e).length := by
    rw [Nat.max_eq_right hlen]
    exact Nat.mod_lt _ hlen
  rw [outPort, nth, List.getElem?_eq_getElem hlt]
  exact List.getElem_mem hlt

/-! ## What FABRIC_PACKET_ROUTE does -/

/-- A command that ends with a drop of a request. -/
theorem Does.of_dropPkt {i : Instr} {A : Fab} {n : Nat} {d : DropCause} (hc : Clean s) (he : exec i s = done s ((s.setFab A).dropPkt n q d))
    (hr : isRequest q.op = true) (hl : .fab ∈ l) (hp : .ports ∈ l ∨ A.ports = s.fab.ports) (hid : A.id = s.fab.id)
    (hd2 : A.drop2 = s.fab.drop2) (hdel : A.delivered = s.fab.delivered) : Does i s l fun t => DropCounted s t ∧ t.fab.ports = A.ports ∧
      (q.src = s.moduleId → t.fab.switchQ = A.switchQ ∧ t.fab.delivered = s.fab.delivered ++ [droppedOwn q d]) ∧
      (q.src ≠ s.moduleId → ∃ a : FabPkt, t.fab.switchQ = A.switchQ ++ [(63, a)] ∧ a.op = .errorReply ∧ a.aop = dropCode d ∧
        a.tag = q.tag) := by
  obtain ⟨f, hf, hports, hcount, hown, hforeign⟩ := dropPkt_request hr (s.setFab A) n d
  have hm : (s.setFab A).moduleId = s.moduleId := by rw [State.moduleId, State.moduleId, State.setFab, hid]
  rw [hm] at hown hforeign
  refine Does.of_setFab hc hl (hp.imp_right hports.trans) (he.trans (congrArg (done s) hf)) fun t ht => ?_
  rw [DropCounted, ht, ← hd2, ← hdel]
  exact ⟨hcount, hports, hown, fun h => (hforeign h).2⟩

/-- From `s` to `t` the port on which a circuit's packet came gives its credit back, and no port changes beside it (R357). -/
def Credited (s t : State) (port : Nat) (q : FabPkt) : Prop :=
  ∀ k, t.port k = if k = port ∧ port ≠ 63
    then { s.port k with ctl := (s.port k).ctl ++ [.circuitCredit q.circuit (pktCells q)] } else s.port k

theorem giveBack_spec (hop : q.op = .circuitData) (hp : .ports ∈ l) (h : Frame l s t) (hports : t.fab.ports = s.fab.ports) :
    Frame l s (t.giveBack port q) ∧ Credited s (t.giveBack port q) port q ∧ ∃ ps, (t.giveBack port q).fab = { t.fab with ports := ps } := by
  have hsame : ∀ k, t.port k = s.port k := fun k => by rw [State.port, State.port, hports]
  rw [State.giveBack, if_pos hop, State.cirFreed]
  by_cases hport : port = 63
  · rw [if_pos (by exact hport)]
    exact ⟨h, fun k => by rw [if_neg fun hk => hk.2 hport, hsame], t.fab.ports, rfl⟩
  · rw [if_neg (by exact hport)]
    refine ⟨h.updPort hp _ _, fun k => ?_, _, rfl⟩
    obtain ⟨hself, hothers⟩ := portIs_updPort t port fun x => { x with ctl := x.ctl ++ [.circuitCredit q.circuit (pktCells q)] }
    by_cases hk : k = port
    · subst hk
      rw [if_pos ⟨rfl, hport⟩, ← hsame]
      exact hself
    · rw [if_neg fun h => hk h.1, ← hsame]
      exact hothers k hk

theorem Does.of_dropPkt_giveBack {i : Instr} {n : Nat} {d : DropCause} (hc : Clean s) (hr : isRequest q.op = true) (hop : q.op = .circuitData)
    (he : exec i s = done s (((s.setFab (s.unqueued port q)).dropPkt n (camePkt q port) d).giveBack port q)) :
    Does i s [.fab, .ports] fun t => DropCounted s t ∧ Credited s t port q := by
  obtain ⟨f, hf, hports, hcount, -⟩ := dropPkt_request (q := camePkt q port) hr (s.setFab (s.unqueued port q)) n d
  rw [hf, setFab_setFab] at he
  obtain ⟨hframe, hcredit, ps, hfab⟩ := giveBack_spec (l := [.fab, .ports]) (port := port) hop (by simp)
    ((Frame.refl hc).setPorts (by simp) (by simp) f) hports
  refine Does.of_frame he hframe ⟨?_, hcredit⟩
  rw [DropCounted, endOf_fab, hfab]
  exact hcount

section
variable (hc : Clean s) (hr : isRequest q.op = true) (hmay : s.mayRoute port q = true)
include hc hr hmay

/-! ### This module's own packets -/

theorem does_route_own_dropped (hport : port = 63) (hop : q.op ≠ .circuitData) {d : DropCause} (hcause : s.routeCause 63 q = some d)
    (hsrc : q.src = s.moduleId) : Does (.fabricPacketRoute 63 q) s [.fab] fun t => t.fab.switchQ = s.fab.switchQ.erase (63, q) ∧
      DropCounted s t ∧ t.fab.delivered = s.fab.delivered ++ [droppedOwn (camePkt q 63) d] := by
  subst hport
  have hcause' : (s.setFab (s.unqueued 63 q)).routeCause 63 q = some d := hcause
  have he : exec (.fabricPacketRoute 63 q) s = done s ((s.setFab (s.unqueued 63 q)).dropPkt 63 (camePkt q 63) d) := by
    rw [exec_fabricPacketRoute hr, if_pos hmay, offSwitch_own, routePkt_of_cause hcause', giveBack_of_other hop]
  refine (Does.of_dropPkt hc he hr (by simp) (.inr rfl) rfl rfl rfl).imp fun t ⟨hcount, _, hown, _⟩ => ?_
  obtain ⟨hq, hdel⟩ := hown hsrc
  exact ⟨hq, hcount, hdel⟩

theorem does_route_own_down (hport : port = 63) (hop : q.op ≠ .circuitData) (hcause : s.routeCause 63 q = none)
    (hhere : s.isHere 63 q = false) (hdown : (s.port (outPort (s.route q.dest) q)).st ≠ 3) (hsrc : q.src = s.moduleId) :
    Does (.fabricPacketRoute 63 q) s [.fab] fun t => t.fab.switchQ = s.fab.switchQ.erase (63, q) ∧
      DropCounted s t ∧ t.fab.delivered = s.fab.delivered ++ [droppedOwn (camePkt q 63) .linkDown] := by
  subst hport
  have hcause' : (s.setFab (s.unqueued 63 q)).routeCause 63 q = none := hcause
  have hhere' : (s.setFab (s.unqueued 63 q)).isHere 63 q = false := hhere
  have he : exec (.fabricPacketRoute 63 q) s = done s ((s.setFab (s.unqueued 63 q)).dropPkt 63 (camePkt q 63) .linkDown) := by
    rw [exec_fabricPacketRoute hr, if_pos hmay, offSwitch_own, routePkt_of_onward hcause' hhere' hop]
    exact congrArg (done s) (sendOn_of_down (s := s.setFab (s.unqueued 63 q)) hdown _)
  refine (Does.of_dropPkt hc he hr (by simp) (.inr rfl) rfl rfl rfl).imp fun t ⟨hcount, _, hown, _⟩ => ?_
  obtain ⟨hq, hdel⟩ := hown hsrc
  exact ⟨hq, hcount, hdel⟩

/-! ### Packets that go on, are dropped in transit, or are delivered (R350 to R352, R380) -/

section
variable (hop : q.op ≠ .circuitData)
include hop

theorem does_route_onward (hcause : s.routeCause port q = none) (hhere : s.isHere port q = false)
    (hup : (s.port (outPort (s.route q.dest) q)).st = 3) : Does (.fabricPacketRoute port q) s [.fab, .ports] fun t =>
      t.fab.switchQ = s.fab.switchQ.erase (port, q) ∧ t.fab.delivered = s.fab.delivered ∧
      t.port (outPort (s.route q.dest) q) = { s.portFreed port q (outPort (s.route q.dest) q) with
        queue := (s.port (outPort (s.route q.dest) q)).queue ++
          [{ pkt := { camePkt q port with hops := q.hops + 1 }, vc := q.hops, age := 0 }] } ∧
      ∀ k, k ≠ outPort (s.route q.dest) q → t.port k = s.portFreed port q k := by
  obtain ⟨ps, hoff, -, hps⟩ := offSwitch_spec hop s port
  have hcause' : (s.setFab { s.unqueued port q with ports := ps }).routeCause port q = none := hcause
  have hhere' : (s.setFab { s.unqueued port q with ports := ps }).isHere port q = false := hhere
  have hup' : ((s.setFab { s.unqueued port q with ports := ps }).port (outPort (s.route q.dest) q)).st = 3 :=
    (congrArg Port.st (hps _)).trans ((portFreed_st s port q _).trans hup)
  have he : exec (.fabricPacketRoute port q) s = done s ((s.setFab { s.unqueued port q with ports := ps }).updPort
      (outPort (s.route q.dest) q) fun x => { x with
        queue := x.queue ++ [{ pkt := { camePkt q port with hops := q.hops + 1 }, vc := q.hops, age := 0 }] }) := by
    rw [exec_fabricPacketRoute hr, if_pos hmay, hoff, routePkt_of_onward hcause' hhere' hop]
    exact congrArg (done s) (sendOn_of_up (q := camePkt q port) hup' hr hop)
  obtain ⟨hself, hothers⟩ := portIs_updPort (s.setFab { s.unqueued port q with ports := ps }) (outPort (s.route q.dest) q) fun x => { x with
    queue := x.queue ++ [{ pkt := { camePkt q port with hops := q.hops + 1 }, vc := q.hops, age := 0 }] }
  refine Does.of_frame he (((Frame.refl hc).setPorts (by simp) (by simp) _).updPort (by simp) _ _) ⟨rfl, rfl, hself.trans ?_, fun k hk =>
    (hothers k hk).trans (hps k)⟩
  rw [show ∀ k, (s.setFab { s.unqueued port q with ports := ps }).port k = s.portFreed port q k from hps, portFreed_queue]

theorem does_route_dropped {d : DropCause} (hcause : s.routeCause port q = some d) (hsrc : q.src ≠ s.moduleId) :
    Does (.fabricPacketRoute port q) s [.fab, .ports] fun t => DropCounted s t ∧ (∃ a : FabPkt,
      t.fab.switchQ = s.fab.switchQ.erase (port, q) ++ [(63, a)] ∧ a.op = .errorReply ∧ a.aop = dropCode d ∧ a.tag = q.tag) ∧
      ∀ k, t.port k = s.portFreed port q k := by
  obtain ⟨ps, hoff, -, hps⟩ := offSwitch_spec hop s port
  have hcause' : (s.setFab { s.unqueued port q with ports := ps }).routeCause port q = some d := hcause
  have he : exec (.fabricPacketRoute port q) s =
      done s ((s.setFab { s.unqueued port q with ports := ps }).dropPkt port (camePkt q port) d) := by
    rw [exec_fabricPacketRoute hr, if_pos hmay, hoff, routePkt_of_cause hcause', giveBack_of_other hop]
  refine (Does.of_dropPkt hc he hr (by simp) (.inl (by simp)) rfl rfl rfl).imp fun t ⟨hcount, hports, _, hforeign⟩ => ?_
  exact ⟨hcount, hforeign hsrc, fun k => by rw [State.port, hports]; exact hps k⟩

theorem does_route_down (hcause : s.routeCause port q = none) (hhere : s.isHere port q = false)
    (hdown : (s.port (outPort (s.route q.dest) q)).st ≠ 3) (hsrc : q.src ≠ s.moduleId) :
    Does (.fabricPacketRoute port q) s [.fab, .ports] fun t => DropCounted s t ∧ (∃ a : FabPkt,
      t.fab.switchQ = s.fab.switchQ.erase (port, q) ++ [(63, a)] ∧ a.op = .errorReply ∧ a.aop = dropCode .linkDown ∧ a.tag = q.tag) ∧
      ∀ k, t.port k = s.portFreed port q k := by
  obtain ⟨ps, hoff, -, hps⟩ := offSwitch_spec hop s port
  have hcause' : (s.setFab { s.unqueued port q with ports := ps }).routeCause port q = none := hcause
  have hhere' : (s.setFab { s.unqueued port q with ports := ps }).isHere port q = false := hhere
  have hdown' : ((s.setFab { s.unqueued port q with ports := ps }).port (outPort (s.route q.dest) q)).st ≠ 3 := fun h =>
    hdown ((portFreed_st s port q _).symm.trans ((congrArg Port.st (hps _)).symm.trans h))
  have he : exec (.fabricPacketRoute port q) s =
      done s ((s.setFab { s.unqueued port q with ports := ps }).dropPkt port (camePkt q port) .linkDown) := by
    rw [exec_fabricPacketRoute hr, if_pos hmay, hoff, routePkt_of_onward hcause' hhere' hop]
    exact congrArg (done s) (sendOn_of_down hdown' _)
  refine (Does.of_dropPkt hc he hr (by simp) (.inl (by simp)) rfl rfl rfl).imp fun t ⟨hcount, hports, _, hforeign⟩ => ?_
  exact ⟨hcount, hforeign hsrc, fun k => by rw [State.port, hports]; exact hps k⟩

section
variable (hcause : s.routeCause port q = none) (hhere : s.isHere port q = true) (h39 : bitOf (s.route s.moduleId) 39 = true)
  (hslice : q.slice = BitVec.ofNat 16 (fld s.fab.id 28 16))
include hcause hhere h39 hslice

theorem does_route_delivered (hhdr : s.sliceSt ≠ 2 ∨ q.srcEngine = false ∨
    (q.stepLo = BitVec.ofNat 32 s.slice.step.toNat ∧ q.epoch = BitVec.ofNat 16 s.slice.epoch.toNat)) :
    Does (.fabricPacketRoute port q) s [.fab, .ports] fun t => t.fab.switchQ = s.fab.switchQ.erase (port, q) ∧
      t.fab.delivered = s.fab.delivered ++ [camePkt q port] ∧ ∀ k, t.port k = s.portFreed port q k := by
  obtain ⟨ps, hoff, -, hps⟩ := offSwitch_spec hop s port
  have hcause' : (s.setFab { s.unqueued port q with ports := ps }).routeCause port q = none := hcause
  have hhere' : (s.setFab { s.unqueued port q with ports := ps }).isHere port q = true := hhere
  have hdeliver := deliver_of_accepted (s := s.setFab { s.unqueued port q with ports := ps }) (q := camePkt q port) (port := port)
    hr h39 hslice hhdr
  have he : exec (.fabricPacketRoute port q) s = done s (s.setFab { s.unqueued port q with
      ports := ps, delivered := s.fab.delivered ++ [camePkt q port] }) := by
    rw [exec_fabricPacketRoute hr, if_pos hmay, hoff, routePkt_of_here hcause' hhere', giveBack_of_other hop, hdeliver]
    rfl
  exact Does.of_setFab hc (by simp) (.inl (by simp)) he fun t ht => ⟨by rw [ht]; rfl, by rw [ht], fun k => (port_of_fab ht k).trans (hps k)⟩

theorem does_route_mismatch (hrun : s.sliceSt = 2) (hengine : q.srcEngine = true) (hlo : 0x1000 ≤ q.srcTile) (hhi : q.srcTile < 0x1040)
    (hstep : q.stepLo ≠ BitVec.ofNat 32 s.slice.step.toNat) :
    Does (.fabricPacketRoute port q) s [.fab, .ports, .slice, .ras] fun t => t.fab.switchQ = s.fab.switchQ.erase (port, q) ∧
      t.fab.delivered = s.fab.delivered ∧ ∀ k, t.port k = s.portFreed port q k := by
  obtain ⟨ps, hoff, -, hps⟩ := offSwitch_spec hop s port
  have hcause' : (s.setFab { s.unqueued port q with ports := ps }).routeCause port q = none := hcause
  have hhere' : (s.setFab { s.unqueued port q with ports := ps }).isHere port q = true := hhere
  obtain ⟨x, hdeliver⟩ := deliver_of_stepMismatch (s := s.setFab { s.unqueued port q with ports := ps }) (q := camePkt q port) (port := port)
    hr h39 hslice hrun hengine hlo hhi hstep
  have he : exec (.fabricPacketRoute port q) s = done s (((s.setFab { s.unqueued port q with ports := ps }).setSlice x).fault
      .stepMismatch .collective (q.srcTile - 0x1000)) := by
    rw [exec_fabricPacketRoute hr, if_pos hmay, hoff, routePkt_of_here hcause' hhere', giveBack_of_other hop, hdeliver]
    rfl
  exact Does.of_frame he ((((Frame.refl hc).setPorts (by simp) (by simp) _).setSlice (by simp) x).fault (by simp) ..) ⟨rfl, rfl, hps⟩

end

end

/-! ### Circuit data (R355, R357) -/

section
variable (hop : q.op = .circuitData) (hcause : s.routeCause port q = none) (hhere : s.isHere port q = false)
include hop hcause hhere

omit hc in
theorem exec_fabricPacketRoute_of_circuit : exec (.fabricPacketRoute port q) s =
    done s (match s.cirRoute port q.circuit q.cirPort with
      | none => ((s.setFab (s.unqueued port q)).dropPkt port (camePkt q port) .noRoute).giveBack port q
      | some k => if bitOf (cirWord s.fab.cir k.1 k.2 0) 1 then ((s.setFab (s.unqueued port q)).deliver port (camePkt q port)).giveBack port q
        else if (s.port (fld (cirWord s.fab.cir k.1 k.2 0) 2 6)).st ≠ 3
        then ((s.setFab (s.unqueued port q)).dropPkt port (camePkt q port) .linkDown).giveBack port q
        else (s.setFab (s.unqueued port q)).sendOn (fld (cirWord s.fab.cir k.1 k.2 0) 2 6) (camePkt q port)) := by
  have hcause' : (s.setFab (s.unqueued port q)).routeCause port q = none := hcause
  have hhere' : (s.setFab (s.unqueued port q)).isHere port q = false := hhere
  rw [exec_fabricPacketRoute hr, if_pos hmay, offSwitch_circuit hop, routePkt_eq, hcause']
  dsimp only
  rw [hhere', if_neg (by decide), if_pos hop]
  have hroute : (s.setFab (s.unqueued port q)).cirRoute port q.circuit q.cirPort = s.cirRoute port q.circuit q.cirPort := rfl
  rw [hroute]
  have hdown (o : Nat) (h : (s.port o).st ≠ 3) : (s.setFab (s.unqueued port q)).sendOn o (camePkt q port) =
      (s.setFab (s.unqueued port q)).dropPkt port (camePkt q port) .linkDown :=
    sendOn_of_down (s := s.setFab (s.unqueued port q)) h _
  cases s.cirRoute port q.circuit q.cirPort with
  | none => rfl
  | some k =>
    change done s (if bitOf (cirWord s.fab.cir k.1 k.2 0) 1 then _
      else if (s.port (fld (cirWord s.fab.cir k.1 k.2 0) 2 6)).st ≠ 3
      then ((s.setFab (s.unqueued port q)).sendOn (fld (cirWord s.fab.cir k.1 k.2 0) 2 6) (camePkt q port)).giveBack port q else _) = _
    dsimp only
    split_ifs with hend hst
    · rfl
    · rw [hdown _ hst]
    · rfl

theorem does_route_circuit_noRoute (hroute : s.cirRoute port q.circuit q.cirPort = none) :
    Does (.fabricPacketRoute port q) s [.fab, .ports] fun t => DropCounted s t ∧ Credited s t port q :=
  Does.of_dropPkt_giveBack (n := port) (d := .noRoute) hc hr hop (by rw [exec_fabricPacketRoute_of_circuit hr hmay hop hcause hhere, hroute])

section
variable {k : Nat × Nat} (hroute : s.cirRoute port q.circuit q.cirPort = some k)
include hroute

theorem does_route_circuit_end (hend : bitOf (cirWord s.fab.cir k.1 k.2 0) 1 = true) (h39 : bitOf (s.route s.moduleId) 39 = true)
    (hslice : q.slice = BitVec.ofNat 16 (fld s.fab.id 28 16)) (hengine : q.srcEngine = false) :
    Does (.fabricPacketRoute port q) s [.fab, .ports] fun t => t.fab.switchQ = s.fab.switchQ.erase (port, q) ∧
      t.fab.delivered = s.fab.delivered ++ [camePkt q port] ∧ Credited s t port q := by
  have hdeliver := deliver_of_accepted (s := s.setFab (s.unqueued port q)) (q := camePkt q port) (port := port) hr h39 hslice
    (.inr (.inl hengine))
  obtain ⟨hframe, hcredit, ps, hfab⟩ := giveBack_spec (l := [.fab, .ports]) (port := port) hop (by simp) ((Frame.refl hc).setPorts (by simp)
    (by simp) { s.unqueued port q with delivered := s.fab.delivered ++ [camePkt q port] }) rfl
  have he : exec (.fabricPacketRoute port q) s = done s ((s.setFab { s.unqueued port q with
      delivered := s.fab.delivered ++ [camePkt q port] }).giveBack port q) := by
    rw [exec_fabricPacketRoute_of_circuit hr hmay hop hcause hhere, hroute]
    dsimp only
    rw [if_pos hend, hdeliver]
    rfl
  refine Does.of_frame he hframe ⟨?_, ?_, hcredit⟩ <;>
    rw [endOf_fab, hfab] <;> rfl

section
variable (hmid : bitOf (cirWord s.fab.cir k.1 k.2 0) 1 = false)
include hmid

theorem does_route_circuit_down (hdown : (s.port (fld (cirWord s.fab.cir k.1 k.2 0) 2 6)).st ≠ 3) :
    Does (.fabricPacketRoute port q) s [.fab, .ports] fun t => DropCounted s t ∧ Credited s t port q := by
  refine Does.of_dropPkt_giveBack (n := port) (d := .linkDown) hc hr hop ?_
  rw [exec_fabricPacketRoute_of_circuit hr hmay hop hcause hhere, hroute]
  dsimp only
  rw [if_neg (by rw [hmid]; decide), if_pos hdown]

theorem does_route_circuit_onward (hup : (s.port (fld (cirWord s.fab.cir k.1 k.2 0) 2 6)).st = 3) :
    Does (.fabricPacketRoute port q) s [.fab, .ports] fun t => t.fab.switchQ = s.fab.switchQ.erase (port, q) ∧
      t.fab.delivered = s.fab.delivered ∧ ∀ j, t.port j = if j = fld (cirWord s.fab.cir k.1 k.2 0) 2 6
        then { s.port (fld (cirWord s.fab.cir k.1 k.2 0) 2 6) with
          cirQueue := (s.port (fld (cirWord s.fab.cir k.1 k.2 0) 2 6)).cirQueue ++ [{ camePkt q port with hops := q.hops + 1 }] }
        else s.port j := by
  have he := exec_fabricPacketRoute_of_circuit hr hmay hop hcause hhere
  rw [hroute] at he
  dsimp only at he
  rw [if_neg (by rw [hmid]; decide), if_neg (not_not.mpr hup)] at he
  generalize fld (cirWord s.fab.cir k.1 k.2 0) 2 6 = o at *
  rw [sendOn_of_circuit (s := s.setFab (s.unqueued port q)) (q := camePkt q port) hup hop] at he
  obtain ⟨hself, hothers⟩ := portIs_updPort (s.setFab (s.unqueued port q)) o fun x => { x with
    cirQueue := x.cirQueue ++ [{ camePkt q port with hops := q.hops + 1 }] }
  refine Does.of_frame he (((Frame.refl hc).setPorts (by simp) (by simp) _).updPort (by simp) _ _) ⟨rfl, rfl, fun j => ?_⟩
  split_ifs with hj
  · rw [hj]; exact hself
  · exact hothers j hj

end

end

end

end

/-! ## Obligation O33 -/

/-- Settles O33: the cause of a drop, or else the place to which the packet goes, is read off its entry, and each outcome has its lemma. -/
theorem routing : Obligations.Routing := by
  unfold Obligations.Routing
  intro s q port hc hr
  refine ⟨fun hmay => Does.of_idle hc (by rw [exec_fabricPacketRoute hr, hmay]; rfl), fun hmay => ⟨fun hop hport => ?_,
    fun hop hport => ?_, fun hop hcause hhere => ?_⟩⟩
  · subst hport
    have hcauses := routeCause_own (s := s) hr
    refine ⟨fun hsrc h42 => does_route_own_dropped hc hr hmay rfl hop (d := .noRoute) ?_ hsrc,
      fun hsrc h42 hport h40 => does_route_own_dropped hc hr hmay rfl hop (d := .outOfSlice) ?_ hsrc, fun h42 h39 hports h40 => ?_⟩
    · simp [hcauses, h42]
    · rcases hport with h | h <;> simp [hcauses, h42, h40, h]
    · have hcause : s.routeCause 63 q = none := by simp [hcauses, h42, h40, hports]
      exact ⟨fun hup => (does_route_onward hc hr hmay hop hcause h39 hup).imp fun t ⟨hq, hdel, hself, hothers⟩ =>
        ⟨hq, hdel, outPort_mem hports q, hself, hothers⟩, fun hdown hsrc => does_route_own_down hc hr hmay rfl hop hcause h39 hdown hsrc⟩
  · have hcauses := routeCause_transit (s := s) (q := q) hr hport
    have hself (hdest : q.dest = s.moduleId) : s.isHere port q = true := by simp [State.isHere, hport, hdest]
    have hother (hdest : q.dest ≠ s.moduleId) : s.isHere port q = false := by simp [State.isHere, hport, hdest]
    refine ⟨fun hdest h39 hslice => ?_, fun hdest h42 hports hmember => ?_⟩
    · have hcause : s.routeCause port q = none := by rw [hcauses, if_pos hdest]
      exact ⟨fun hhdr => does_route_delivered hc hr hmay hop hcause (hself hdest) h39 hslice hhdr,
        fun hrun hengine hlo hhi hstep => does_route_mismatch hc hr hmay hop hcause (hself hdest) h39 hslice hrun hengine hlo hhi hstep⟩
    · have hlimit : s.routeCause port q = if 3 ≤ q.hops then some .hopLimit else none := by
        rcases hmember with h | h <;> simp [hcauses, hdest, h42, hports, h]
      refine ⟨fun hhops hup => ?_, fun hhops hdown hsrc => ?_, fun hhops hsrc => ?_⟩
      · refine (does_route_onward hc hr hmay hop (hlimit.trans (if_neg (by omega))) (hother hdest) hup).imp fun t ⟨hq, hdel, ho, hothers⟩ => ?_
        exact ⟨hq, hdel, outPort_mem hports q, ho, hothers⟩
      · exact does_route_down hc hr hmay hop (hlimit.trans (if_neg (by omega))) (hother hdest) hdown hsrc
      · exact does_route_dropped hc hr hmay hop (hlimit.trans (if_pos hhops)) hsrc
  · have hhere' : s.isHere port q = false := by
      rw [State.isHere]
      split_ifs at hhere ⊢
      · exact hhere
      · exact beq_false_of_ne hhere
    refine ⟨fun k hroute hmid => ⟨?_, ?_⟩, ?_, ?_⟩
    · exact fun hup => does_route_circuit_onward hc hr hmay hop hcause hhere' hroute hmid hup
    · exact fun hdown => does_route_circuit_down hc hr hmay hop hcause hhere' hroute hmid hdown
    · exact fun hroute => does_route_circuit_noRoute hc hr hmay hop hcause hhere' hroute
    · exact fun k hroute hend h39 hslice hengine =>
        does_route_circuit_end hc hr hmay hop hcause hhere' hroute hend h39 hslice hengine

end Sys2Proof.Machine
end

section
/-! Draining and the routing tables (R353, R354, R366, R428): the markers that go out and come back, the packets that the drain then waits
for, the buffers that are evicted before a peer's marker returns, and obligation O35 from these. -/

namespace Sys2Proof.Machine

variable {s t u : State} {l : List Piece}

/-! ## The packets that a drain waits for (R353) -/

theorem mem_queuedPkts_of_switchQ {i : Nat × FabPkt} (h : i ∈ s.fab.switchQ) (hop : i.2.op ≠ .drainMarker) : i.2 ∈ s.queuedPkts := by
  have hmem : i.2 ∈ s.fab.switchQ.map fun q => q.2 := List.mem_map_of_mem h
  exact List.mem_filter.mpr ⟨by simp only [List.mem_append]; tauto, bne_iff_ne.mpr hop⟩

theorem markersBack_eq (s : State) : ∃ a, s.markersBack = s.setFab { s.fab with awaited := a } := by
  rw [State.markersBack]
  split_ifs
  · exact ⟨_, rfl⟩
  · exact ⟨s.fab.awaited, rfl⟩

/-- Once the last marker is back, what is at the switch is awaited. -/
theorem awaited_markersBack (hsent : s.fab.markersSent = true) (hback : s.fab.ports.all (fun x => x.2.markersOut.isEmpty) = true) :
    ∀ i ∈ s.fab.switchQ, i.2.op ≠ .drainMarker → asCame i.2 ∈ s.markersBack.fab.awaited := fun i hi hop => by
  rw [State.markersBack, if_pos ⟨hsent, hback⟩]
  exact List.mem_map_of_mem (mem_queuedPkts_of_switchQ hi hop)

/-- In `t`, after a command at `s`: once the markers have gone out and come back, the packets at the switch are awaited. -/
def DrainAwaits (s t : State) : Prop :=
  s.fab.markersSent = true → t.fab.ports.all (fun x => x.2.markersOut.isEmpty) = true →
    ∀ i ∈ t.fab.switchQ, i.2.op ≠ .drainMarker → asCame i.2 ∈ t.fab.awaited

/-- A command that ends with the return of a marker: the packets that the drain waits for are noted where it was the last one. -/
theorem Does.of_markersBack {i : Instr} {post : State → Prop} (he : exec i s = done s u.markersBack) (hf : Frame l s u) (hl : .fab ∈ l)
    (hsent : u.fab.markersSent = s.fab.markersSent) (hpost : ∀ t, t.fab.ports = u.fab.ports → t.fab.switchQ = u.fab.switchQ → post t) :
    Does i s l fun t => post t ∧ DrainAwaits s t := by
  obtain ⟨a, ha⟩ := markersBack_eq u
  have hports : u.markersBack.fab.ports = u.fab.ports := by rw [ha]; rfl
  have hq : u.markersBack.fab.switchQ = u.fab.switchQ := by rw [ha]; rfl
  refine Does.of_frame he (ha ▸ hf.setFab hl rfl) ⟨hpost _ hports hq, fun hs hback => ?_⟩
  rw [endOf_fab, hports] at hback
  rw [endOf_fab, hq]
  exact awaited_markersBack (hsent.trans hs) hback

/-! ## The markers go out (R353) -/

/-- The drain marker of a VC. -/
def markerItem (q : FabPkt) (v : Nat) : PortItem := { pkt := { q with aop := v, hops := 1 }, vc := v, age := 0 }

/-- A port on which a marker has been sent on every VC; a marker is made of packet `q`. -/
def Port.marked (x : Port) (q : FabPkt) : Port :=
  { x with markersOut := List.range 6, queue := x.queue ++ (List.range 6).map (markerItem q) }

/-- A port of this module sends its markers while it is UP. -/
def State.markPort (s : State) (k : Nat) : State := if (s.port k).st = 3 then s.updPort k (·.marked (s.mkFab .drainMarker 0 0 [])) else s

theorem exec_drainMarkersSend (hon : bitOf s.fab.status 0 = true) (hsent : s.fab.markersSent = false)
    (htxns : s.fab.txns.all (fun t => t.held || t.left != 0) = true) : exec .drainMarkersSend s =
    done s (State.markersBack (((List.range Config.ports).foldl State.markPort s).setFab
      { ((List.range Config.ports).foldl State.markPort s).fab with markersSent := true })) := by
  change execDrainMarkersSend s = _
  rw [execDrainMarkersSend, if_pos ⟨hon, by rw [hsent]; rfl, htxns⟩]
  dsimp only
  have hstep : (fun (s : State) q => if (s.port q).st = 3 then s.updPort q (fun x => { x with
      markersOut := List.range 6, queue := x.queue ++ (List.range 6).map (fun v =>
        { pkt := { s.mkFab .drainMarker 0 0 [] with aop := v, hops := 1 }, vc := v, age := 0 }) }) else s) = State.markPort := rfl
  rw [hstep]
  rfl

theorem markPort_fab (s : State) (k : Nat) : (s.markPort k).fab = { s.fab with ports := (s.markPort k).fab.ports } := by
  rw [State.markPort]
  split_ifs <;> rfl

theorem port_markPort (s : State) (k p : Nat) :
    (s.markPort k).port p = if p = k ∧ (s.port p).st = 3 then (s.port p).marked (s.mkFab .drainMarker 0 0 []) else s.port p := by
  rw [State.markPort]
  by_cases hst : (s.port k).st = 3
  · rw [if_pos hst]
    obtain ⟨hself, hothers⟩ := portIs_updPort s k (·.marked (s.mkFab .drainMarker 0 0 []))
    by_cases hp : p = k
    · rw [if_pos ⟨hp, hp ▸ hst⟩, hp]
      exact hself
    · rw [if_neg fun h => hp h.1]
      exact hothers p hp
  · rw [if_neg hst, if_neg]
    rintro ⟨rfl, h⟩
    exact hst h

theorem mkFab_markPort (s : State) (k : Nat) : (s.markPort k).mkFab .drainMarker 0 0 [] = s.mkFab .drainMarker 0 0 [] := by
  rw [State.markPort]
  split_ifs <;> rfl

theorem foldl_markPort {ns : List Nat} (hd : ns.Nodup) (s : State) :
    (ns.foldl State.markPort s).fab = { s.fab with ports := (ns.foldl State.markPort s).fab.ports } ∧
    ∀ p, (ns.foldl State.markPort s).port p =
      if p ∈ ns ∧ (s.port p).st = 3 then (s.port p).marked (s.mkFab .drainMarker 0 0 []) else s.port p := by
  induction ns generalizing s with
  | nil => exact ⟨rfl, fun p => by simp⟩
  | cons n ns ih =>
    obtain ⟨hn, hd⟩ := List.nodup_cons.mp hd
    obtain ⟨hfab, hport⟩ := ih hd (s.markPort n)
    refine ⟨?_, fun p => ?_⟩
    · rw [List.foldl_cons, hfab, markPort_fab]
    · rw [List.foldl_cons, hport, mkFab_markPort, port_markPort]
      by_cases hp : p = n
      · subst hp
        simp [hn]
      · simp [hp]

theorem does_drainMarkersSend (hc : Clean s) (hon : bitOf s.fab.status 0 = true) (hsent : s.fab.markersSent = false)
    (htxns : s.fab.txns.all (fun t => t.held || t.left != 0) = true) : Does .drainMarkersSend s [.fab, .ports] fun t =>
      t.fab.markersSent = true ∧ t.fab.switchQ = s.fab.switchQ ∧
      ∀ k, t.port k = if k < Config.ports ∧ (s.port k).st = 3 then (s.port k).marked (s.mkFab .drainMarker 0 0 []) else s.port k := by
  obtain ⟨hfab, hport⟩ := foldl_markPort (List.nodup_range (n := Config.ports)) s
  have hframe : Frame [.fab, .ports] s ((List.range Config.ports).foldl State.markPort s) := by
    refine Frame.foldl (fun t k ht => ?_) _ (Frame.refl hc)
    rw [State.markPort]
    split_ifs
    · exact ht.updPort (by simp) _ _
    · exact ht
  have he := exec_drainMarkersSend hon hsent htxns
  simp only [List.mem_range] at hport
  generalize (List.range Config.ports).foldl State.markPort s = u at *
  obtain ⟨a, ha⟩ := markersBack_eq (u.setFab { u.fab with markersSent := true })
  rw [ha] at he
  have hq : u.fab.switchQ = s.fab.switchQ := by rw [hfab]
  exact Does.of_frame he (hframe.setPorts (by simp) (by simp) _) ⟨rfl, hq, hport⟩

/-! ## A peer's marker returns (R353) -/

section
variable (c a : Nat)

theorem putMemBytes_fab (bs : List Byte) (s : State) (a : Nat) : (s.putMemBytes a bs).fab = s.fab := by
  induction bs generalizing s a with
  | nil => rfl
  | cons b bs ih => rw [State.putMemBytes, ih, State.putMem_fab]

theorem putLine_fab (s : State) (v : Line) : (s.putLine a v).fab = s.fab := putMemBytes_fab ..

theorem mapMarks_fab (s : State) (f : Nat → Mark → Mark) : (s.mapMarks a f).fab = s.fab :=
  foldl_unchanged (read := State.fab) (f := fun s j =>
    { s with mem := { s.mem with marks := aset .good s.mem.marks (a / 8 + j) (f j (aget .good s.mem.marks (a / 8 + j))) } })
    (fun _ _ => rfl) _

theorem unbuffered_fab (s : State) : (s.unbuffered c a).fab = s.fab := rfl

theorem merged_fab (s : State) : (s.merged c).fab = s.fab := State.updChan_fab ..

/-- An eviction leaves the fabric as it is. -/
theorem evictLine_fab (s : State) : (s.evictLine c a).fab = s.fab := by
  cases hw : (s.chan c).entry a with
  | none => rw [evictLine_of_none hw]
  | some w =>
    by_cases hfull : w.mask = fullMask
    · rw [evictLine_of_full hw hfull, State.setMark_fab, putLine_fab, unbuffered_fab]
    · rw [evictLine_of_part hw hfull]
      split
      · rw [putLine_fab, merged_fab, unbuffered_fab]
      · rw [State.cureLine, mapMarks_fab, putLine_fab, State.updChan_fab, merged_fab, unbuffered_fab]
      · rw [State.memBad, State.fault_fab, State.updChan_fab, merged_fab, unbuffered_fab]

theorem evictAll_fab (s : State) : (s.evictAll c).fab = s.fab :=
  foldl_unchanged (read := State.fab) (fun s (w : WcbE) => evictLine_fab c w.addr s) _

end

/-- The state after the buffers of the listed channels have been evicted. -/
def State.evictListed (s : State) (m : Assoc Chan) : State := m.foldl (fun s c => s.evictAll c.1) s

theorem evictListed_fab (s : State) (m : Assoc Chan) : (s.evictListed m).fab = s.fab :=
  foldl_unchanged (read := State.fab) (fun s (c : Nat × Chan) => evictAll_fab c.1 s) _

theorem evictListed_wcb {m : Assoc Chan} {c : Nat} (s : State) (h : (s.chan c).wcb = [] ∨ c ∈ m.map (·.1)) :
    ((s.evictListed m).chan c).wcb = [] := by
  induction m generalizing s with
  | nil => exact h.resolve_right (by simp)
  | cons x m ih =>
    obtain ⟨hself, hothers⟩ := evictAll_chan s x.1
    refine ih (s.evictAll x.1) ?_
    by_cases hx : c = x.1
    · exact .inl (hx ▸ hself)
    · rw [hothers c hx]
      exact h.imp_right fun h => by simpa [hx] using h

theorem aget_of_not_listed {α : Type} {d : α} {m : Assoc α} {k : Nat} (h : k ∉ m.map (·.1)) : aget d m k = d := by
  induction m with
  | nil => rfl
  | cons x m ih =>
    rw [List.map_cons, List.mem_cons, not_or] at h
    obtain ⟨hx, hm⟩ := h
    rw [aget, if_neg (Ne.symm hx), ih hm]

/-- A channel that is not listed has an empty buffer. -/
theorem evictListed_chans_wcb (s : State) (c : Nat) : ((s.evictListed s.mem.chans).chan c).wcb = [] := by
  refine evictListed_wcb s ?_
  by_cases h : c ∈ s.mem.chans.map (·.1)
  · exact .inr h
  · refine .inl ?_
    rw [State.chan, aget_of_not_listed h]

theorem PortIs.of_ports {p : Nat} {y : Port} (h : PortIs s u p y) (hp : t.fab.ports = u.fab.ports) : PortIs s t p y := by
  obtain ⟨hy, hothers⟩ := h
  have hsame : ∀ k, t.port k = u.port k := fun k => by rw [State.port, State.port, hp]
  exact ⟨(hsame p).trans hy, fun k hk => (hsame k).trans (hothers k hk)⟩

section
variable {p vc : Nat} {q : Nat × FabPkt}

/-- A port with the buffer of a VC one cell freer. -/
def Port.freesOne (x : Port) (vc : Nat) : Port := { x with freed := aset 0 x.freed vc (aget 0 x.freed vc + 1) }

/-- The state after a marker has left the switch's queue. -/
def State.markerTaken (s : State) (p vc : Nat) (q : Nat × FabPkt) : State :=
  (s.setFab { s.fab with switchQ := s.fab.switchQ.erase q }).updPort p (·.freesOne vc)

theorem markerTaken_portIs (s : State) (p vc : Nat) (q : Nat × FabPkt) : PortIs s (s.markerTaken p vc q) p ((s.port p).freesOne vc) :=
  portIs_updPort _ p _

theorem markerTaken_frame (hc : Clean s) (p vc : Nat) (q : Nat × FabPkt) : Frame [.fab, .ports] s (s.markerTaken p vc q) :=
  ((Frame.refl hc).setFab (f := { s.fab with switchQ := s.fab.switchQ.erase q }) (by simp) rfl).updPort (by simp) p _

/-- The packets at the switch that came on a port and VC, of those that a marker may not overtake. -/
def State.ahead (s : State) (p vc : Nat) (q : Nat × FabPkt) : Bool := (before q s.fab.switchQ).any fun r =>
  r.1 == p && vcOf r.2 == vc && r.2.op != .haltMarker && r.2.op != .circuitData

/-- Whether a marker at the switch is that of a port and VC. -/
def isMarkerAt (p vc : Nat) (q : Nat × FabPkt) : Bool := q.1 == p && q.2.op == .drainMarker && q.2.aop == vc

theorem exec_drainMarker_returned (hhere : s.fab.switchQ.find? (isMarkerAt p vc) = none) (hout : (s.port p).markersOut.contains vc = true) :
    exec (.drainMarker p vc) s = done s (s.updPort p fun x => { x with markersOut := x.markersOut.erase vc }).markersBack := by
  have hhere' : s.fab.switchQ.find? (fun q => q.1 == p && q.2.op == .drainMarker && q.2.aop == vc) = none := hhere
  change execDrainMarker p vc s = _
  unfold execDrainMarker
  dsimp only
  rw [hhere']
  exact if_pos hout

theorem exec_drainMarker_here (hhere : s.fab.switchQ.find? (isMarkerAt p vc) = some q) : exec (.drainMarker p vc) s =
    if q.2.src = s.moduleId
    then done s ((s.markerTaken p vc q).updPort p fun x => { x with markersOut := x.markersOut.erase vc }).markersBack
    else if s.ahead p vc q = true ∨ s.crossing p vc = true ∨ (s.port p).st ≠ 3 then done s s
    else done s (((s.markerTaken p vc q).evictListed s.mem.chans).updPort p fun x => { x with
      queue := x.queue ++ [{ pkt := q.2, vc := vc, age := 0 }] }) := by
  have hhere' : s.fab.switchQ.find? (fun q => q.1 == p && q.2.op == .drainMarker && q.2.aop == vc) = some q := hhere
  change execDrainMarker p vc s = _
  unfold execDrainMarker
  dsimp only
  rw [hhere']
  dsimp only
  simp only [beq_iff_eq]
  rfl

/-- The last marker that comes back by itself. -/
theorem does_drainMarker_returned (hc : Clean s) (hhere : s.fab.switchQ.find? (isMarkerAt p vc) = none)
    (hout : (s.port p).markersOut.contains vc = true) : Does (.drainMarker p vc) s [.ports, .fab] fun t =>
      (PortIs s t p { s.port p with markersOut := (s.port p).markersOut.erase vc } ∧ t.fab.switchQ = s.fab.switchQ) ∧
      DrainAwaits s t :=
  Does.of_markersBack (exec_drainMarker_returned hhere hout) ((Frame.refl hc).updPort (by simp) p _) (by simp) rfl
    fun _ hports hq => ⟨(portIs_updPort s p _).of_ports hports, hq⟩

section
variable (hhere : s.fab.switchQ.find? (isMarkerAt p vc) = some q)
include hhere

theorem does_drainMarker_own (hc : Clean s) (hsrc : q.2.src = s.moduleId) : Does (.drainMarker p vc) s [.fab, .ports] fun t =>
      (PortIs s t p { (s.port p).freesOne vc with markersOut := (s.port p).markersOut.erase vc } ∧
        t.fab.switchQ = s.fab.switchQ.erase q) ∧
      DrainAwaits s t := by
  have he := exec_drainMarker_here hhere
  rw [if_pos hsrc] at he
  refine Does.of_markersBack he ((markerTaken_frame hc p vc q).updPort (by simp) p _) (by simp) rfl fun _ hports hq => ⟨?_, hq⟩
  exact ((markerTaken_portIs s p vc q).updPort _).of_ports hports

section
variable (hsrc : q.2.src ≠ s.moduleId)
include hsrc

theorem exec_drainMarker_waits (hwait : s.crossing p vc = true) : exec (.drainMarker p vc) s = done s s := by
  rw [exec_drainMarker_here hhere, if_neg hsrc, if_pos (.inr (.inl hwait))]

/-- A peer's marker goes back on its port once nothing is ahead of it, and no write is left in a buffer. -/
theorem exec_drainMarker_sendsBack (hst : (s.port p).st = 3) (hcross : s.crossing p vc = false) (hahead : s.ahead p vc q = false) :
    ∃ t, exec (.drainMarker p vc) s = .next t ∧ t.fab.switchQ = s.fab.switchQ.erase q ∧ (∀ c, (t.chan c).wcb = []) ∧
      PortIs s t p { (s.port p).freesOne vc with queue := (s.port p).queue ++ [{ pkt := q.2, vc := vc, age := 0 }] } := by
  have he := exec_drainMarker_here hhere
  rw [if_neg hsrc, if_neg (by simp [hahead, hcross, hst])] at he
  have hfab := evictListed_fab (s.markerTaken p vc q) s.mem.chans
  refine ⟨_, he, ?_, fun c => ?_, ?_⟩
  · rw [endOf_fab, State.updPort_fab_switchQ, hfab]
    rfl
  · rw [endOf_chan, State.updPort_chan_at]
    exact evictListed_chans_wcb (s.markerTaken p vc q) c
  · exact (((markerTaken_portIs s p vc q).of_ports (congrArg Fab.ports hfab)).updPort _).endOf

end

end

end

/-! ## The tables and the end of a drain (R353, R354) -/

/-- A command that changes the fabric beside its ports. -/
theorem Does.fab_eq {i : Instr} {f : Fab} (hc : Clean s) (he : exec i s = done s (s.setFab f)) (hp : f.ports = s.fab.ports) :
    Does i s [.fab] fun t => t.fab = f := Does.of_setFab hc (by simp) (.inr hp) he fun _ h => h

section
variable (hfree : s.fabHeld = false)
include hfree

theorem drainStart_of_free : s.drainStart = s.setFab { s.fab with
    status := setBit (setBit (setBit s.fab.status 2 true) 0 true) 1 false, drainBeat := some s.esc.beat, markersSent := false
    awaited := [] } := by
  rw [State.drainStart, if_neg (by simp [hfree])]
  simp only [State.fabBit]
  rfl

theorem resumeAct_of_free : s.resumeAct = s.resumeFab := if_neg (by simp [hfree])

theorem rtApply_of_notDrained (h : bitOf s.fab.status 1 = false) :
    s.rtApply = s.setFab { s.fab with status := setBit s.fab.status 3 true } := by
  rw [State.rtApply, if_neg (by simp [hfree]), if_pos (by simp [h])]
  rfl

theorem rtApply_of_conflict (h : bitOf s.fab.status 1 = true) (hconf : s.cirConflict s.fab.cirs = true) :
    s.rtApply = s.setFab { s.fab with status := setBit s.fab.status 5 true } := by
  rw [State.rtApply, if_neg (by simp [hfree]), if_neg (by simp [h]), if_pos hconf]
  rfl

theorem rtApply_of_drained (h : bitOf s.fab.status 1 = true) (hconf : s.cirConflict s.fab.cirs = false) : s.rtApply = s.copyTables := by
  rw [State.rtApply, if_neg (by simp [hfree]), if_neg (by simp [h]), if_neg (by simp [hconf])]

end

/-- Injection resumes: the bits of the drain are clear. -/
theorem resumeFab_eq (s : State) : ∃ w, bitOf w 0 = false ∧ bitOf w 1 = false ∧ bitOf w 2 = false ∧
    s.resumeFab = s.setFab { s.fab with status := w, drainBeat := none, markersSent := false } := by
  refine ⟨setBit (setBit (setBit s.fab.status 2 false) 1 false) 0 false, bitOf_setBit _ _ _ (by omega), ?_, ?_, ?_⟩
  · rw [bitOf_setBit_ne _ _ _ _ (by omega) (by omega), bitOf_setBit _ _ _ (by omega)]
  · rw [bitOf_setBit_ne _ _ _ _ (by omega) (by omega), bitOf_setBit_ne _ _ _ _ (by omega) (by omega), bitOf_setBit _ _ _ (by omega)]
  · rw [State.resumeFab]
    simp only [State.fabBit]
    rfl

theorem exec_drained (hon : bitOf s.fab.status 0 = true) (hsent : s.fab.markersSent = true) (hempty : s.queuesEmpty = true) :
    exec .drained s = done s (s.setFab { s.fab with status := setBit (setBit s.fab.status 1 true) 0 false, drainBeat := none }) := by
  change execDrained s = _
  rw [execDrained, if_pos ⟨hon, hsent, hempty⟩]
  simp only [State.fabBit]
  rfl

theorem exec_drainTimeout {beat : W64} (hbeat : s.fab.drainBeat = some beat) (hon : bitOf s.fab.status 0 = true)
    (hlate : beat.toNat + s.drainLimit ≤ s.esc.beat.toNat) : exec .drainTimeout s =
      done s (s.setFab { s.fab with status := setBit (setBit s.fab.status 4 true) 0 false, drainBeat := none }) := by
  change execDrainTimeout s = _
  rw [execDrainTimeout, hbeat]
  dsimp only
  rw [if_pos ⟨hon, hlate⟩]
  simp only [State.fabBit]
  rfl

/-! ## Obligation O35 -/

/-- Settles O35: each step of a drain has its lemma; the tables and the drain's end write fields of the fabric alone. -/
theorem drainAndTables : Obligations.DrainAndTables := by
  unfold Obligations.DrainAndTables
  intro s p vc beat q hc
  refine ⟨fun hheld => ⟨?_, ?_, ?_⟩, fun hfree => ?_, fun hon hsent htxns => ?_, fun hhere hout => ?_, fun hhere => ⟨fun hsrc => ?_,
    fun hsrc hst hcross hahead => ?_, fun hsrc hwait => ?_⟩, fun hon hsent hempty => ?_, fun hbeat hon hlate => ?_, fun hfree hnot => ?_,
    fun hfree hdrained hconf => ?_, fun hfree hdrained hconf => ?_, fun hfree => ?_, ?_⟩
  · exact Does.of_idle hc (congrArg (done s) (if_pos hheld))
  · exact Does.of_idle hc (congrArg (done s) (if_pos hheld))
  · exact Does.of_idle hc (congrArg (done s) (if_pos hheld))
  · exact Does.fab_eq hc (congrArg (done s) (drainStart_of_free hfree)) rfl
  · refine (does_drainMarkersSend hc hon hsent htxns).imp fun t ⟨hs, hq, hport⟩ => ⟨hs, hq, fun k hk hst => ?_, fun k hst => ?_⟩
    · rw [hport, if_pos ⟨hk, hst⟩]
      refine ⟨rfl, by simp [Port.marked], fun v hv => ⟨markerItem (s.mkFab .drainMarker 0 0 []) v, ?_, rfl, rfl, rfl⟩⟩
      exact List.mem_append_right _ (List.mem_map_of_mem (List.mem_range.mpr hv))
    · rw [hport, if_neg fun h => hst h.2]
  · exact (does_drainMarker_returned hc hhere hout).imp fun t ⟨⟨⟨hp, hothers⟩, hq⟩, hwaits⟩ => ⟨hp, hothers, hq, hwaits⟩
  · exact (does_drainMarker_own hhere hc hsrc).imp fun t ⟨⟨⟨hp, hothers⟩, hq⟩, hwaits⟩ => ⟨hq, hp, hothers, hwaits⟩
  · obtain ⟨t, he, hq, hwcb, hp, hothers⟩ := exec_drainMarker_sendsBack hhere hsrc hst hcross hahead
    exact ⟨t, he, hq, hwcb, hp, hothers⟩
  · exact Does.of_idle hc (exec_drainMarker_waits hhere hsrc hwait)
  · exact Does.fab_eq hc (exec_drained hon hsent hempty) rfl
  · exact Does.fab_eq hc (exec_drainTimeout hbeat hon hlate) rfl
  · exact Does.fab_eq hc (congrArg (done s) (rtApply_of_notDrained hfree hnot)) rfl
  · exact Does.fab_eq hc (congrArg (done s) (rtApply_of_conflict hfree hdrained hconf)) rfl
  · obtain ⟨w, -, h1, h2, hw⟩ := resumeFab_eq (s.setFab { s.fab with rt := s.fab.rts, cir := s.fab.cirs })
    have hcopy := ((rtApply_of_drained hfree hdrained hconf).trans hw).trans (setFab_setFab ..)
    refine (Does.fab_eq (i := .rtApply) hc (congrArg (done s) hcopy) rfl).imp fun t ht => ?_
    rw [ht]
    exact ⟨rfl, rfl, rfl, h1, h2⟩
  · obtain ⟨w, h0, h1, h2, hw⟩ := resumeFab_eq s
    refine (Does.fab_eq (i := .resume) hc (congrArg (done s) ((resumeAct_of_free hfree).trans hw)) rfl).imp fun t ht => ?_
    rw [ht]
    exact ⟨h0, h1, h2, rfl, rfl⟩
  · exact Does.fab_eq (f := { s.fab with drop0 := 0, drop1 := 0, drop2 := 0 }) hc rfl rfl

end Sys2Proof.Machine
end

section
/-! One cell time of a port (R324, R325, R328, R330, R331, R333, R335, R356, R357, R359): what goes out, what the rates give back, and
obligation O32 from these. -/

namespace Sys2Proof.Machine

variable {s t u : State} {l : List Piece} {p : Nat}

/-! ## Counting nothing -/

theorem setFld_fld (w : W64) (lo len : Nat) (h : lo + len ≤ 64) : setFld w lo len (fld w lo len) = w := by
  refine BitVec.eq_of_toNat_eq (Nat.eq_of_testBit_eq fun i => ?_)
  rw [testBit_setFld _ _ _ _ _ h]
  split_ifs with hi
  · rw [testBit_fld, decide_eq_true (by omega), Bool.true_and, Nat.add_sub_cancel' hi.1]
  · rfl

theorem addFld_zero (w : W64) (lo len : Nat) (h : lo + len ≤ 64) : addFld w lo len 0 = w := by
  have hlt := fld_lt w lo len
  rw [addFld, satTo_eq_min, Nat.add_zero, Nat.min_eq_left (by omega), setFld_fld w lo len h]

/-! ## What the rates give back (R360) -/

/-- Values taken off the entries of a list, by key. -/
theorem aget_foldl_paced (c : Nat → Prop) [DecidablePred c] (r : Nat → Nat) {es : Assoc Nat} (hes : (es.map (·.1)).Pairwise (· < ·))
    (m : Assoc Nat) (k : Nat) : aget 0 (es.foldl (fun m e => if c e.1 then aset 0 m e.1 (e.2 - r e.1) else m) m) k =
      if c k ∧ k ∈ es.map (·.1) then aget 0 es k - r k else aget 0 m k := by
  induction es generalizing m with
  | nil => simp
  | cons e es ih =>
    rw [List.map_cons, List.pairwise_cons] at hes
    obtain ⟨he, hes⟩ := hes
    rw [List.foldl_cons, ih hes]
    by_cases hk : k = e.1
    · subst hk
      have hnot : e.1 ∉ es.map (·.1) := fun h => lt_irrefl _ (he _ h)
      rw [if_neg fun h => hnot h.2]
      by_cases hck : c e.1
      · rw [if_pos hck, aget_aset, if_pos rfl, if_pos ⟨hck, by simp⟩, aget, if_pos rfl]
      · rw [if_neg hck, if_neg fun h => hck h.1]
    · have hkeep : aget 0 (if c e.1 then aset 0 m e.1 (e.2 - r e.1) else m) k = aget 0 m k := by
        split_ifs
        · rw [aget_aset, if_neg hk]
        · rfl
      rw [hkeep, aget, if_neg (Ne.symm hk)]
      exact if_congr (by rw [List.map_cons, List.mem_cons, or_iff_right hk]) rfl rfl

/-- The fabric's own registers after a port's cell time in which `marks` requests have been marked: each module to which the port leads has
its share of a cell back. -/
def Paced (s t : State) (p marks : Nat) : Prop :=
  t.fab = { s.fab with ports := t.fab.ports, spent := t.fab.spent, stats1 := addFld s.fab.stats1 32 32 marks } ∧
    ((s.fab.spent.map (·.1)).Pairwise (· < ·) → ∀ m, aget 0 t.fab.spent m =
      if (rtPorts (s.route m)).head? = some p then aget 0 s.fab.spent m - s.rate m else aget 0 s.fab.spent m)

theorem paced_paceCell {marks : Nat} (h : u.fab = { s.fab with ports := u.fab.ports, stats1 := addFld s.fab.stats1 32 32 marks }) :
    Paced s (u.paceCell p) p marks := by
  refine ⟨?_, fun hkeys m => ?_⟩
  · rw [State.paceCell, h]
  · have hspent : u.fab.spent = s.fab.spent := by rw [h]
    have hroute : ∀ m, u.route m = s.route m := fun m => by rw [State.route, State.route, h]
    have hrate : ∀ m, u.rate m = s.rate m := fun m => by rw [State.rate, State.rate, h]
    unfold State.paceCell
    dsimp only
    rw [hspent]
    simp only [hroute, hrate]
    rw [aget_foldl_paced (fun m => (rtPorts (s.route m)).head? = some p) s.rate hkeys]
    by_cases hm : m ∈ s.fab.spent.map (·.1)
    · simp only [hm, and_true]
    · have hzero : aget 0 s.fab.spent m = 0 := aget_of_not_listed hm
      simp [hm, hzero]

/-! ## A cell goes out (R325, R328) -/

/-- A cell with the receiver's report. -/
def Port.reported (x : Port) (c : Cell) : Cell :=
  { c with ack := x.rxSeq, nak := x.sendNak, credits := tab 6 fun v => min 255 (aget 0 x.freed v) }

/-- The port `y` after port `x` has sent a cell with its report. -/
def Port.out (x y : Port) (c : Cell) : Port := { y with sendNak := false, freed := (x.put c).freed, sent := x.sent ++ [x.reported c] }

theorem put_eq_out (x : Port) (c : Cell) : x.put c = x.out x c := by
  rw [Port.out, Port.put, Port.reported]

/-- The port after a cell time: its packets have aged. -/
def Port.tick (x : Port) : Port := { x with cellTime := x.cellTime + 1, queue := x.queue.map fun i => { i with age := i.age + 1 } }

theorem aget_foldl_reported (vs : List Nat) (hvs : vs.Nodup) (m : Assoc Nat) (v : Nat) :
    aget 0 (vs.foldl (fun m v => aset 0 m v (aget 0 m v - 255)) m) v = if v ∈ vs then aget 0 m v - 255 else aget 0 m v := by
  induction vs generalizing m with
  | nil => rfl
  | cons w vs ih =>
    obtain ⟨hw, hvs⟩ := List.nodup_cons.mp hvs
    rw [List.foldl_cons, ih hvs, aget_aset]
    by_cases hv : v = w
    · subst hv
      simp [hw]
    · simp [hv]

theorem freed_put (x : Port) (c : Cell) (v : Nat) :
    aget 0 (x.put c).freed v = if v < 6 then aget 0 x.freed v - 255 else aget 0 x.freed v := by
  rw [Port.put, aget_foldl_reported _ List.nodup_range]
  simp only [List.mem_range]

/-- A cell that takes its number is kept for a resend. -/
def Port.kept (x y : Port) (d : Tx) : Port := { y with txSeq := (x.txSeq + 1) % 4096, retry := x.retry ++ [d] }

/-- A cell with the port's next number. -/
def Port.numbered (x : Port) (d : Tx) : Tx := { d with cell := { d.cell with seq := x.txSeq } }

/-- From `s` to `t` port `p` has sent a cell in its cell time; beside what the cell's report and the time change it is as `y`. -/
def CellSent (s t : State) (p : Nat) (y : Port) (c : Cell) (marks : Nat) : Prop := Paced s t p marks ∧
  t.port p = { y with
    sendNak := false, freed := (t.port p).freed, sent := (s.port p).sent ++ [(s.port p).reported c]
    cellTime := (s.port p).cellTime + 1, queue := y.queue.map fun i => { i with age := i.age + 1 } } ∧
  ∀ v, aget 0 (t.port p).freed v = if v < 6 then aget 0 (s.port p).freed v - 255 else aget 0 (s.port p).freed v

theorem exec_portCellTime_of_up (hst : (s.port p).st = 3) :
    exec (.portCellTime p) s = done s (((s.sendCell p).updPort p Port.tick).paceCell p) := by
  change execPortCellTime p s = _
  rw [execPortCellTime, hst]
  rfl

theorem does_portCellTime_of_up {y : Port} {c : Cell} {marks : Nat} (hst : (s.port p).st = 3) (hu : s.sendCell p = u)
    (hf : Frame [.ports, .fab] s u)
    (hfab : u.fab = { s.fab with ports := u.fab.ports, stats1 := addFld s.fab.stats1 32 32 marks })
    (hport : u.port p = (s.port p).out y c) (hy : y.cellTime = (s.port p).cellTime) :
    Does (.portCellTime p) s [.ports, .fab] fun t => (∀ k, k ≠ p → t.port k = u.port k) ∧ CellSent s t p y c marks := by
  obtain ⟨hself, hothers⟩ := portIs_updPort u p Port.tick
  have he := exec_portCellTime_of_up hst
  rw [hu] at he
  have hout : (endOf s ((u.updPort p Port.tick).paceCell p)).port p = ((s.port p).out y c).tick := hself.trans (congrArg Port.tick hport)
  refine Does.of_frame he ((hf.updPort (by simp) p _).setFab (by simp) rfl) ⟨hothers, ?_, ?_, fun v => ?_⟩
  · exact paced_paceCell (u := u.updPort p Port.tick) (congrArg (fun f : Fab => { f with ports := (u.updPort p Port.tick).fab.ports }) hfab)
  · rw [hout, Port.tick, Port.out, hy]
  · rw [hout]
    simp only [Port.tick, Port.out, freed_put]

/-- A cell that goes out where nothing else changes: no other port does either. -/
theorem does_portCellTime_of_updPort {f : Port → Port} {y : Port} {c : Cell} {marks : Nat} {w : W64} (hc : Clean s)
    (hst : (s.port p).st = 3) (hw : w = addFld s.fab.stats1 32 32 marks)
    (hu : s.sendCell p = (s.setFab { s.fab with stats1 := w }).updPort p f)
    (hport : f (s.port p) = (s.port p).out y c) (hy : y.cellTime = (s.port p).cellTime) :
    Does (.portCellTime p) s [.ports, .fab] fun t => (∀ k, k ≠ p → t.port k = s.port k) ∧ CellSent s t p y c marks := by
  obtain ⟨hself, hothers⟩ := portIs_updPort (s.setFab { s.fab with stats1 := w }) p f
  have hframe : Frame [.ports, .fab] s ((s.setFab { s.fab with stats1 := w }).updPort p f) :=
    ((Frame.refl hc).setFab (f := { s.fab with stats1 := w }) (by simp) rfl).updPort (by simp) p f
  exact (does_portCellTime_of_up hst hu hframe (by rw [← hw]; rfl) (hself.trans hport) hy).imp
    fun t ⟨hrest, hsent⟩ => ⟨fun k hk => (hrest k hk).trans (hothers k hk), hsent⟩

theorem eq_addFld_zero (w : W64) : w = addFld w 32 32 0 := (addFld_zero w 32 32 (by omega)).symm

/-- The port `y` sends as `x` does: with the same numbers and reports, to the same peer and at the same time. -/
def Port.SendsAs (x y : Port) : Prop := y.rxSeq = x.rxSeq ∧ y.sendNak = x.sendNak ∧ y.freed = x.freed ∧ y.sent = x.sent ∧
  y.txSeq = x.txSeq ∧ y.retry = x.retry ∧ y.cellTime = x.cellTime

theorem emit_eq_out {x y : Port} (h : x.SendsAs y) (d : Tx) : y.emit d = x.out (x.kept y (x.numbered d)) (x.numbered d).cell := by
  obtain ⟨h1, h2, h3, h4, h5, h6, -⟩ := h
  simp only [Port.emit, Port.out, Port.put, Port.kept, Port.numbered, Port.reported, h1, h2, h3, h4, h5, h6]

/-! ## The cells of a packet (R326) -/

theorem pktBodies_ne_nil (q : FabPkt) : pktBodies q ≠ [] := by
  have hcells : pktCells q ≠ 0 := by
    rw [pktCells]
    omega
  obtain ⟨n, hn⟩ := Nat.exists_eq_succ_of_ne_zero hcells
  have hbytes : leBytes 32 (hdrBits q) ++ payloadBytes q.payload ≠ [] := fun h => by
    have hlen := congrArg List.length h
    rw [List.length_append, leBytes_length, List.length_nil] at hlen
    omega
  obtain ⟨b, bs, hb⟩ := List.exists_cons_of_ne_nil hbytes
  rw [pktBodies, hn, hb]
  exact fun h => by cases h

theorem exists_mkCells (type vc circuit : Nat) (q : FabPkt) : ∃ d r, mkCells type vc circuit q = d :: r := by
  refine List.exists_cons_of_ne_nil fun h => pktBodies_ne_nil q ?_
  simpa only [mkCells, List.map_eq_nil_iff, List.zipIdx_eq_nil_iff] using h

theorem pkt_of_mem_mkCells {type vc circuit : Nat} {q : FabPkt} {d : Tx} (h : d ∈ mkCells type vc circuit q) : d.pkt = q := by
  obtain ⟨b, -, rfl⟩ := List.mem_map.mp h
  rfl

/-! ## The first ready item (R331, R356, R357) -/

theorem sendCell_of_resend {d : Tx} {r : List Tx} (hr : (s.port p).resend = d :: r) :
    s.sendCell p = s.updPort p fun x => { x.put d.cell with resend := r } := by
  unfold State.sendCell
  dsimp only
  rw [hr]

section
variable (hr : (s.port p).resend = [])
include hr

theorem sendCell_of_full (hfull : 3072 ≤ (s.port p).retry.length) : s.sendCell p = s.updPort p fun x => x.put idleCell := by
  unfold State.sendCell
  dsimp only
  rw [hr]
  exact if_pos hfull

section
variable (hroom : (s.port p).retry.length < 3072)
include hroom

theorem sendCell_of_halt {h : FabPkt} {hs : List FabPkt} (hh : (s.port p).halts = h :: hs) :
    s.sendCell p = s.updPort p fun x => Port.emit { x with halts := hs }
      { cell := { idleCell with type := 3, body := (pktBodies h).headD 0 }, pkt := h, last := true } := by
  unfold State.sendCell
  dsimp only
  rw [hr]
  dsimp only
  rw [if_neg (by omega), hh]

section
variable (hh : (s.port p).halts = [])
include hh

theorem sendCell_of_circuit (hcir : s.circuitCell p = some t) : s.sendCell p = t := by
  unfold State.sendCell
  dsimp only
  rw [hr]
  dsimp only
  rw [if_neg (by omega), hh, hcir]

section
variable (hcir : s.circuitCell p = none)
include hcir

theorem sendCell_of_flight {d : Tx} {r : List Tx} (hf : (s.port p).flight = d :: r) : s.sendCell p =
    if aget 0 (s.port p).credits d.cell.vc < 256
    then s.updPort p fun x => Port.emit { x with flight := r, credits := aset 0 x.credits d.cell.vc (aget 0 x.credits d.cell.vc + 1) } d
    else s.updPort p fun x => x.put idleCell := by
  unfold State.sendCell
  dsimp only
  rw [hr]
  dsimp only
  rw [if_neg (by omega), hh, hcir, hf]

section
variable (hf : (s.port p).flight = [])
include hf

theorem sendCell_of_nothing (hnext : (s.port p).nextItem = none) : s.sendCell p = s.updPort p fun x => x.put idleCell := by
  unfold State.sendCell
  dsimp only
  rw [hr]
  dsimp only
  rw [if_neg (by omega), hh, hcir, hf]
  dsimp only
  rw [hnext]

theorem sendCell_of_item {i : PortItem} (hnext : (s.port p).nextItem = some i) : s.sendCell p = s.startPacket p i := by
  unfold State.sendCell
  dsimp only
  rw [hr]
  dsimp only
  rw [if_neg (by omega), hh, hcir, hf]
  dsimp only
  rw [hnext]

end

end

end

end

end

section
variable {c : Nat} {d : Tx} {r : List Tx}

/-- A port from which the first cell `d` of circuit `c` has been taken; `r` are the cells that follow. -/
def Port.cirTaken (x : Port) (c : Nat) (r : List Tx) : Port :=
  { x with cirFlight := aset [] x.cirFlight c r, cirUsed := aset 0 x.cirUsed c (aget 0 x.cirUsed c + 1) }

theorem circuitCell_of_owner {cs : List Nat} (hown : s.slotOwners p ((s.port p).cellTime % 128) = c :: cs)
    (hsend : s.sendCircuit p c = some t) : s.circuitCell p = some t := by
  rw [State.circuitCell, hown, List.filterMap_cons, hsend]
  rfl

theorem sendCircuit_of_flight (hused : aget 0 (s.port p).cirUsed c < 64) (hf : aget [] (s.port p).cirFlight c = d :: r) :
    s.sendCircuit p c = some ((s.updPort p fun x => (x.cirTaken c r).emit d).cirFreed d.pkt 1) := by
  unfold State.sendCircuit
  dsimp only
  rw [if_neg (by omega), hf]
  rfl

theorem sendCircuit_of_start {q : FabPkt} (hused : aget 0 (s.port p).cirUsed c < 64) (hf : aget [] (s.port p).cirFlight c = [])
    (hq : (s.port p).cirQueue.find? (fun q => q.circuit == c && (q.inPort != 63 || s.cirOpen p c)) = some q)
    (hcells : mkCells 2 0 c q = d :: r) : s.sendCircuit p c =
      some ((s.updPort p fun x => (Port.cirTaken { x with cirQueue := x.cirQueue.erase q } c r).emit d).cirFreed d.pkt 1) := by
  unfold State.sendCircuit
  dsimp only
  rw [if_neg (by omega), hf]
  dsimp only
  rw [hq, Option.map_some, hcells]
  dsimp only
  rw [updPort_updPort]
  rfl

end

/-- Whether a request of class normal or background is marked as it leaves a congested port (R359). -/
def State.startMark (s : State) (p : Nat) (i : PortItem) : Bool :=
  isRequest i.pkt.op && (i.pkt.cls == 1 || i.pkt.cls == 2) && decide (s.markCells ≤ (s.port p).queued)

theorem startMark_iff {i : PortItem} : s.startMark p i = true ↔
    isRequest i.pkt.op = true ∧ (i.pkt.cls = 1 ∨ i.pkt.cls = 2) ∧ s.markCells ≤ (s.port p).queued := by
  simp [State.startMark, and_assoc]

/-- A packet as it starts. -/
def State.startsAs (s : State) (p : Nat) (i : PortItem) : FabPkt := if s.startMark p i = true then { i.pkt with cmark := true } else i.pkt

theorem startPacket_of_cells {i : PortItem} {d : Tx} {r : List Tx} (hcells : mkCells 1 i.vc 0 (s.startsAs p i) = d :: r) : ∃ w,
    w = addFld s.fab.stats1 32 32 (if s.startMark p i = true then 1 else 0) ∧ s.startPacket p i =
      (s.setFab { s.fab with stats1 := w }).updPort p fun x => Port.emit { x with
        queue := x.queue.erase i, flight := r, credits := aset 0 x.credits i.vc (aget 0 x.credits i.vc + 1) } d := by
  have hstart : s.startPacket p i = match mkCells 1 i.vc 0 (s.startsAs p i) with
      | [] => if s.startMark p i = true then s.setFab { s.fab with stats1 := addFld s.fab.stats1 32 32 1 } else s
      | d :: r => (if s.startMark p i = true then s.setFab { s.fab with stats1 := addFld s.fab.stats1 32 32 1 } else s).updPort p fun x =>
        Port.emit { x with queue := x.queue.erase i, flight := r, credits := aset 0 x.credits i.vc (aget 0 x.credits i.vc + 1) } d := rfl
  rw [hstart, hcells]
  dsimp only
  split_ifs
  · exact ⟨_, rfl, rfl⟩
  · exact ⟨s.fab.stats1, eq_addFld_zero _, rfl⟩

/-! ## What an UP port sends (R331) -/

section
variable (hc : Clean s) (hst : (s.port p).st = 3)
include hc hst

theorem does_portCellTime_idle (hu : s.sendCell p = s.updPort p fun x => x.put idleCell) : Does (.portCellTime p) s [.ports, .fab] fun t =>
    (∀ k, k ≠ p → t.port k = s.port k) ∧ CellSent s t p (s.port p) idleCell 0 :=
  does_portCellTime_of_updPort hc hst (eq_addFld_zero _) hu (put_eq_out _ _) rfl

theorem does_portCellTime_emit {f : Port → Port} {d : Tx} {marks : Nat} {w : W64}
    (hw : w = addFld s.fab.stats1 32 32 marks) (hu : s.sendCell p = (s.setFab { s.fab with stats1 := w }).updPort p fun x => (f x).emit d)
    (hf : (s.port p).SendsAs (f (s.port p))) : Does (.portCellTime p) s [.ports, .fab] fun t => (∀ k, k ≠ p → t.port k = s.port k) ∧
      CellSent s t p ((s.port p).kept (f (s.port p)) ((s.port p).numbered d)) ((s.port p).numbered d).cell marks := by
  have htime := hf
  obtain ⟨-, -, -, -, -, -, htime⟩ := htime
  exact does_portCellTime_of_updPort hc hst hw hu (emit_eq_out hf d) htime

/-- A circuit's cell goes out, and the port on which it came gives its credit back. -/
theorem does_portCellTime_circuit {f : Port → Port} {d : Tx}
    (hu : s.sendCell p = (s.updPort p fun x => (f x).emit d).cirFreed d.pkt 1) (hf : (s.port p).SendsAs (f (s.port p)))
    (hin : d.pkt.inPort ≠ p) : Does (.portCellTime p) s [.ports, .fab] fun t =>
      (∀ k, k ≠ p → t.port k = if k = d.pkt.inPort ∧ d.pkt.inPort ≠ 63
        then { s.port k with ctl := (s.port k).ctl ++ [.circuitCredit d.pkt.circuit 1] } else s.port k) ∧
      CellSent s t p ((s.port p).kept (f (s.port p)) ((s.port p).numbered d)) ((s.port p).numbered d).cell 0 := by
  have htime := hf
  obtain ⟨-, -, -, -, -, -, htime⟩ := htime
  obtain ⟨hself, hothers⟩ := portIs_updPort s p fun x => (f x).emit d
  have hframe : Frame [.ports, .fab] s (s.updPort p fun x => (f x).emit d) := (Frame.refl hc).updPort (by simp) p _
  have hfab : (s.updPort p fun x => (f x).emit d).fab =
      { s.fab with ports := (s.updPort p fun x => (f x).emit d).fab.ports, stats1 := addFld s.fab.stats1 32 32 0 } := by
    rw [addFld_zero _ _ _ (by omega)]
    rfl
  generalize (s.updPort p fun x => (f x).emit d) = v at *
  rw [State.cirFreed] at hu
  by_cases h63 : d.pkt.inPort = 63
  · rw [if_pos h63] at hu
    refine (does_portCellTime_of_up hst hu hframe hfab (hself.trans (emit_eq_out hf d)) htime).imp fun t ⟨hrest, hsent⟩ =>
      ⟨fun k hk => ?_, hsent⟩
    rw [hrest k hk, hothers k hk, if_neg fun h => h.2 h63]
  · rw [if_neg h63] at hu
    obtain ⟨hback, hkept⟩ := portIs_updPort v d.pkt.inPort fun x => { x with ctl := x.ctl ++ [.circuitCredit d.pkt.circuit 1] }
    refine (does_portCellTime_of_up hst hu (hframe.updPort (by simp) _ _) ?_ ((hkept p (Ne.symm hin)).trans
      (hself.trans (emit_eq_out hf d))) htime).imp fun t ⟨hrest, hsent⟩ => ⟨fun k hk => ?_, hsent⟩
    · exact congrArg (fun g : Fab => { g with
        ports := (v.updPort d.pkt.inPort fun x => { x with ctl := x.ctl ++ [CtlBlock.circuitCredit d.pkt.circuit 1] }).fab.ports }) hfab
    · rw [hrest k hk]
      by_cases hk' : k = d.pkt.inPort
      · subst hk'
        rw [if_pos ⟨rfl, h63⟩, hback, hothers _ hk]
      · rw [if_neg fun h => hk' h.1, hkept k hk', hothers k hk]

end

/-! ## Ports that are not UP (R324, R332, R333) -/

theorem exec_portCellTime_of_down (hst : (s.port p).st = 0) : exec (.portCellTime p) s = done s
    (if (s.port p).enable = true ∧ (s.port p).signal = true then s.updPort p fun x => { x.freshLink with st := 1, reason := 0 } else s) := by
  change execPortCellTime p s = _
  rw [execPortCellTime, hst]
  dsimp only
  rw [State.tryTrain]
  simp only [hst, true_and, State.portTo]
  rfl

theorem exec_portCellTime_of_silent (hst : (s.port p).st = 1 ∨ (s.port p).st = 4) : exec (.portCellTime p) s = done s s := by
  change execPortCellTime p s = _
  rw [execPortCellTime]
  rcases hst with h | h
  · rw [h]; rfl
  · rw [h]; rfl

theorem exec_portCellTime_of_ident (hst : (s.port p).st = 2) : exec (.portCellTime p) s =
    done s ((s.identRepeat p).updPort p Port.tick) := by
  change execPortCellTime p s = _
  rw [execPortCellTime, hst]
  rfl

theorem exec_portCellTime_of_test (hst : (s.port p).st = 5) : exec (.portCellTime p) s = done s ((s.prbsSend p).updPort p Port.tick) := by
  change execPortCellTime p s = _
  rw [execPortCellTime, hst]
  rfl

/-- What a port in IDENT repeats. -/
def State.idents (s : State) (p : Nat) : List CtlBlock :=
  .ident s.moduleId p (fld s.fab.id 14 9) (fld s.fab.id 23 5) :: (if (s.port p).matched then [.identOk] else [])

theorem identRepeat_spec (hc : Clean s) (p : Nat) : Frame [.ports] s (s.identRepeat p) ∧ PortIs s (s.identRepeat p) p
    (if (s.port p).cellTime % 1024 = 0 then { s.port p with ctl := (s.port p).ctl ++ s.idents p } else s.port p) := by
  rw [State.identRepeat]
  by_cases h : (s.port p).cellTime % 1024 = 0
  · rw [if_neg (not_not.mpr h), if_pos h]
    exact ⟨(Frame.refl hc).updPort (by simp) p _, portIs_updPort s p _⟩
  · rw [if_pos h, if_neg h]
    exact ⟨Frame.refl hc, PortIs.refl s p⟩

/-- The end of a cell time of a port whose fabric has not changed beside it. -/
theorem does_portCellTime_tick {y : Port} (he : exec (.portCellTime p) s = done s (u.updPort p Port.tick)) (hl : .ports ∈ l)
    (hf : Frame l s u) (hu : PortIs s u p y) : Does (.portCellTime p) s l fun t => PortIs s t p y.tick :=
  Does.of_frame he (hf.updPort hl p _) (hu.updPort Port.tick).endOf

/-! ## The pattern of a port in TEST (R324, R335) -/

/-- A lane's generator runs one cell time from register `r`. -/
def Port.laneSent (x : Port) (l : Nat) (out : Nat × Nat) : Port :=
  { x with gens := aset 0 x.gens l out.2, genOut := aset 0 x.genOut l out.1 }

/-- The bits of a cell time on lane `l` and the register after them, of a generator with taps `w` and `k`. -/
def Port.laneOut (x : Port) (w k l : Nat) (v : W64) : Nat × Nat := prbsBits w k 85
  (if aget 0 x.gens l % 2 ^ w = 0 then max 1 (v.toNat % 2 ^ w) else aget 0 x.gens l % 2 ^ w)

/-- One lane of a port in TEST sends. -/
def State.laneSends (p w k : Nat) (s : State) (l : Nat) : State :=
  s.free.2.updPort p fun x => x.laneSent l ((s.port p).laneOut w k l s.free.1)

/-- The generators of lanes `ls` have run one cell time from `x` to `y`. -/
def Port.LanesSent (x y : Port) (w k : Nat) (ls : List Nat) : Prop := y = { x with gens := y.gens, genOut := y.genOut } ∧
  ∀ l, (l ∈ ls → aget 0 x.gens l % 2 ^ w ≠ 0 → aget 0 y.genOut l = (prbsBits w k 85 (aget 0 x.gens l % 2 ^ w)).1 ∧
      aget 0 y.gens l = (prbsBits w k 85 (aget 0 x.gens l % 2 ^ w)).2) ∧
    (l ∉ ls → aget 0 y.genOut l = aget 0 x.genOut l ∧ aget 0 y.gens l = aget 0 x.gens l)

theorem lanesSent_nil (x : Port) (w k : Nat) : x.LanesSent x w k [] :=
  ⟨rfl, fun _ => ⟨fun h => (List.not_mem_nil h).elim, fun _ => ⟨rfl, rfl⟩⟩⟩

theorem lanesSent_cons {x y : Port} {w k l : Nat} {ls : List Nat} {v : W64} (hl : l ∉ ls)
    (h : (x.laneSent l (x.laneOut w k l v)).LanesSent y w k ls) : x.LanesSent y w k (l :: ls) := by
  obtain ⟨hy, hlanes⟩ := h
  refine ⟨hy, fun j => ?_⟩
  obtain ⟨hsent, hkept⟩ := hlanes j
  simp only [Port.laneSent, aget_aset] at hsent hkept
  by_cases hj : j = l
  · subst hj
    obtain ⟨hout, hreg⟩ := hkept hl
    refine ⟨fun _ hr => ?_, fun h => absurd (List.mem_cons_self) h⟩
    rw [hout, hreg, if_pos rfl, if_pos rfl, Port.laneOut, if_neg hr]
    exact ⟨rfl, rfl⟩
  · simp only [if_neg hj] at hsent hkept
    simp only [List.mem_cons, hj, false_or]
    exact ⟨hsent, hkept⟩

theorem foldl_laneSends {w k : Nat} {ls : List Nat} (hls : ls.Nodup) (hf : Frame [.ports, .freeCtr] s t) :
    Frame [.ports, .freeCtr] s (ls.foldl (State.laneSends p w k) t) ∧
    (t.port p).LanesSent ((ls.foldl (State.laneSends p w k) t).port p) w k ls ∧
    ∀ j, j ≠ p → (ls.foldl (State.laneSends p w k) t).port j = t.port j := by
  induction ls generalizing t with
  | nil => exact ⟨hf, lanesSent_nil _ w k, fun _ _ => rfl⟩
  | cons l ls ih =>
    obtain ⟨hl, hls⟩ := List.nodup_cons.mp hls
    obtain ⟨hself, hothers⟩ := portIs_updPort t.free.2 p fun x => x.laneSent l ((t.port p).laneOut w k l t.free.1)
    obtain ⟨hframe, hlanes, hrest⟩ := ih (t := t.laneSends p w k l) hls ((hf.free (by simp)).updPort (by simp) p _)
    rw [State.laneSends, hself] at hlanes
    exact ⟨hframe, lanesSent_cons hl hlanes, fun j hj => (hrest j hj).trans (hothers j hj)⟩

theorem prbsSend_of_enabled (hon : bitOf (s.port p).prbs 11 = true) (hpoly : fld (s.port p).prbs 0 3 < 5) : s.prbsSend p =
    ((List.range 8).filter fun l => bitOf (s.port p).prbs (3 + l)).foldl
      (State.laneSends p (prbsTaps (fld (s.port p).prbs 0 3)).1 (prbsTaps (fld (s.port p).prbs 0 3)).2) s := by
  unfold State.prbsSend
  dsimp only
  rw [if_neg (by simp [hon]; omega)]
  rfl

theorem prbsSend_of_disabled (hoff : bitOf (s.port p).prbs 11 = false) : s.prbsSend p = s := if_pos (.inl (by simp [hoff]))

/-! ## Obligation O32 -/

/-- Settles O32: the first ready item of R331 by cases, each of which sends its cell by one lemma; the other states of a port have theirs. -/
theorem portCellTime : Obligations.PortCellTime := by
  unfold Obligations.PortCellTime
  intro s p hc
  refine ⟨fun hst => ⟨fun d r hr => ?_, fun hr hfull => ?_, fun hr hroom => ⟨fun h hs hh => ?_, fun hh => ⟨fun c cs d r hown hused =>
    ⟨fun hf hin => ?_, fun q hf hq hin hcells => ?_⟩, fun hcir => ⟨fun d r hf hcredit => ?_, fun d r hf hnone => ?_, fun hf hnext => ?_,
    fun i hf hnext => ?_⟩⟩⟩⟩, fun hst => ?_, fun hst => ?_, fun hst => ?_, fun hst hoff => ?_, fun hst hon hpoly => ?_⟩
  · exact does_portCellTime_of_updPort (y := { s.port p with resend := r }) (c := d.cell) hc hst (eq_addFld_zero _) (sendCell_of_resend hr)
      rfl rfl
  · exact does_portCellTime_idle hc hst (sendCell_of_full hr hfull)
  · exact does_portCellTime_emit hc hst (eq_addFld_zero _) (sendCell_of_halt hr hroom hh) ⟨rfl, rfl, rfl, rfl, rfl, rfl, rfl⟩
  · exact does_portCellTime_circuit hc hst (sendCell_of_circuit hr hroom hh (circuitCell_of_owner hown (sendCircuit_of_flight hused hf)))
      ⟨rfl, rfl, rfl, rfl, rfl, rfl, rfl⟩ hin
  · have hpkt : d.pkt = q := pkt_of_mem_mkCells (hcells ▸ List.mem_cons_self)
    exact does_portCellTime_circuit hc hst (sendCell_of_circuit hr hroom hh (circuitCell_of_owner hown
      (sendCircuit_of_start hused hf hq hcells))) ⟨rfl, rfl, rfl, rfl, rfl, rfl, rfl⟩ (hpkt ▸ hin)
  · exact does_portCellTime_emit hc hst (eq_addFld_zero _) ((sendCell_of_flight hr hroom hh hcir hf).trans (if_pos hcredit))
      ⟨rfl, rfl, rfl, rfl, rfl, rfl, rfl⟩
  · exact does_portCellTime_idle hc hst ((sendCell_of_flight hr hroom hh hcir hf).trans (if_neg (by omega)))
  · exact does_portCellTime_idle hc hst (sendCell_of_nothing hr hroom hh hcir hf hnext)
  · intro mark pkt
    obtain ⟨d, r, hcells⟩ := exists_mkCells 1 i.vc 0 (s.startsAs p i)
    obtain ⟨w, hw, hu⟩ := startPacket_of_cells hcells
    have hpkt : pkt = s.startsAs p i := if_congr startMark_iff.symm rfl rfl
    have hmark : (if mark then 1 else 0) = if s.startMark p i = true then 1 else 0 := if_congr startMark_iff.symm rfl rfl
    refine (does_portCellTime_emit hc hst hw ((sendCell_of_item hr hroom hh hcir hf hnext).trans hu)
      ⟨rfl, rfl, rfl, rfl, rfl, rfl, rfl⟩).imp fun t hsent => ⟨d, r, hpkt ▸ hcells, ?_⟩
    rw [hmark]
    exact hsent
  · have he := exec_portCellTime_of_down hst
    split_ifs at he with hgo
    · refine (Does.of_updPort hc (by simp) he fun t h => h).imp fun t ⟨hp, hothers⟩ => ⟨hothers, ?_⟩
      rw [hp, if_pos hgo]
    · refine (Does.of_frame (post := fun t => PortIs s t p (s.port p)) he (Frame.refl hc) (PortIs.refl s p)).imp
        fun t ⟨hp, hothers⟩ => ⟨hothers, ?_⟩
      rw [hp, if_neg hgo]
  · exact Does.of_idle hc (exec_portCellTime_of_silent hst)
  · obtain ⟨hframe, hport⟩ := identRepeat_spec hc p
    refine (does_portCellTime_tick (exec_portCellTime_of_ident hst) (by simp) hframe hport).imp fun t ⟨hp, hothers⟩ => ⟨hothers, ?_⟩
    rw [hp]
    dsimp only
    by_cases htime : (s.port p).cellTime % 1024 = 0
    · rw [if_pos htime, if_pos htime]
      rfl
    · rw [if_neg htime, if_neg htime]
      rfl
  · have he := exec_portCellTime_of_test hst
    rw [prbsSend_of_disabled hoff] at he
    exact (does_portCellTime_tick he (by simp) (Frame.refl hc) (PortIs.refl s p)).imp fun t ⟨hp, hothers⟩ => ⟨hothers, hp⟩
  · have he := exec_portCellTime_of_test hst
    rw [prbsSend_of_enabled hon hpoly] at he
    obtain ⟨hframe, hlanes, hothers⟩ := foldl_laneSends (p := p) (w := (prbsTaps (fld (s.port p).prbs 0 3)).1)
      (k := (prbsTaps (fld (s.port p).prbs 0 3)).2) ((List.nodup_range (n := 8)).filter fun l => bitOf (s.port p).prbs (3 + l))
      (Frame.refl hc)
    refine (does_portCellTime_tick he (by simp) hframe ⟨rfl, hothers⟩).imp fun t ⟨hp, hrest⟩ => ⟨hrest, ?_⟩
    clear he hframe hothers hrest
    generalize State.port (List.foldl _ _ _) p = y at hlanes hp
    obtain ⟨hy, hlanes⟩ := hlanes
    rw [hp]
    refine ⟨?_, fun l => ?_⟩
    · rw [hy]
      rfl
    · obtain ⟨hsent, hkept⟩ := hlanes l
      simp only [List.mem_filter, List.mem_range] at hsent hkept
      refine ⟨fun hl hon hr => hsent ⟨hl, hon⟩ hr, fun hl => hkept ?_⟩
      rintro ⟨h8, hbit⟩
      rcases hl with hl | hl
      · omega
      · rw [hl] at hbit
        cases hbit

end Sys2Proof.Machine
end

section
/-! The flag area (R195, R343, R344, R468, R469): what each operation on a flag leaves, its answer, the scrubber, and obligation
O29 from these. -/

namespace Sys2Proof.Machine

variable {s t u : State} {l : List Piece} {tg tl tag n : Nat} {src : ReqSrc} {act : FlagAct}

/-! ## The numbers of a flag -/

theorem ofLe_append (as bs : List Byte) : ofLe (as ++ bs) = ofLe as + 256 ^ as.length * ofLe bs := by
  induction as with
  | nil => simp [ofLe]
  | cons a as ih =>
    rw [List.cons_append, ofLe, ofLe, ih, List.length_cons, pow_succ]
    ring

theorem ofLe_flagBytes (v : W64) (bs : List Byte) : ofLe (leBytes 8 v.toNat ++ bs) = v.toNat + ofLe bs * 2 ^ 64 := by
  have hv : v.toNat < 2 ^ 64 := v.isLt
  rw [ofLe_append, ofLe_leBytes, leBytes_length, Nat.mod_eq_of_lt (by omega)]
  ring

theorem sext_toNat (v : W64) : sext 64 v.toNat = v.toInt := by
  have hv : v.toNat < 2 ^ 64 := v.isLt
  rw [sext, Nat.mod_eq_of_lt hv, BitVec.toInt]
  split_ifs <;> omega

theorem toInt_twos {y : Int} (hlo : -(2 ^ 63) ≤ y) (hhi : y ≤ 2 ^ 63 - 1) : (BitVec.ofNat 64 (twos 64 y)).toInt = y := by
  rw [BitVec.toInt, BitVec.toNat_ofNat, twos]
  norm_num
  split_ifs <;> omega

theorem clampInt_mem {lo hi : Int} (h : lo ≤ hi) (x : Int) : lo ≤ clampInt lo hi x ∧ clampInt lo hi x ≤ hi := by
  rw [clampInt]
  split_ifs <;> omega

/-! ## Operations on their way -/

/-- The state in which a flag operation is no longer on its way. -/
def State.flagGone (s : State) (src : ReqSrc) (n : Nat) (act : FlagAct) : State :=
  s.updHost fun h => { h with flagIn := h.flagIn.erase (src, n, act) }

theorem flagGone_frame (hc : Clean s) : Frame [.host] s (s.flagGone src n act) :=
  (Frame.refl hc).updHost (by simp) ⟨rfl, rfl, rfl, rfl, rfl, rfl, rfl⟩

theorem exec_flagOperation_of_held (h : s.mayFlag (src, n, act) = false) : exec (.flagOperation src n act) s = done s s := by
  change execFlagOperation src n act s = _
  rw [execFlagOperation, if_pos (by simp [h])]

section
variable (hmay : s.mayFlag (src, n, act) = true)
include hmay

theorem exec_flagOperation_of_below (hn : n < flagCount) :
    exec (.flagOperation src n act) s = done s ((s.flagGone src n act).flagOp src n act) := by
  change execFlagOperation src n act s = _
  rw [execFlagOperation, if_neg (by simp [hmay])]
  exact if_pos hn

theorem exec_flagOperation_of_past (hn : flagCount ≤ n) :
    exec (.flagOperation src n act) s = done s ((s.flagGone src n act).reply src 0 0 (some .range)) := by
  change execFlagOperation src n act s = _
  rw [execFlagOperation, if_neg (by simp [hmay])]
  exact if_neg (Nat.not_lt.mpr hn)

end

/-! ## An operation of a tile's transaction is answered (R341, R348) -/

/-- A command that ends with the answer to a tile's transaction, after updates `l` that leave alone what the answer is made of. -/
theorem Does.of_txnReply {i : Instr} {data : Line} {old : W64} {e : Option DropCause} {k : List Piece} (htx : TileTxn s tg tl tag)
    (he : exec i s = done s (u.reply (.txn tg tl) data old e)) (hu : Frame l s u)
    (hl : ∀ p ∈ [Piece.answers, .fab, .ports, .tiles, .esc], p ∉ l) (hk : l ++ [.answers, .fab] ⊆ k) :
    Does i s k fun t => t.host = u.host ∧ TxnAnswered s t tg tl tag data e := by
  rw [reply_txn (tileTxn_of_frame hu (hl _ (by simp)) (hl _ (by simp)) htx)] at he
  refine Does.of_frame he ((hu.mono fun p hp => hk (List.mem_append_left _ hp)).txnAnswered (hk (by simp)) (hk (by simp)) data e) ⟨rfl, ?_⟩
  exact (txnAnswered_spec hu hl data e).congr rfl rfl

theorem answers_txnAnswered_setFab {f : Fab} (hid : f.id = u.fab.id) (data : Line) (e : Option DropCause) :
    ((u.setFab f).txnAnswered tg tl tag data e).answers = (u.txnAnswered tg tl tag data e).answers :=
  congrArg (fun p => u.answers ++ [p]) ((answerPkt_setFab (s := u.setFab f) rfl ..).trans
    ((answerPkt_setFab hid ..).trans (answerPkt_setFab (s := u) rfl ..).symm))

theorem flag_of_host (h : t.host = u.host) (k : Nat) : t.flag k = u.flag k := by rw [State.flag, State.flag, h]

theorem flagMark_of_host (h : t.host = u.host) (k : Nat) : t.flagMark k = u.flagMark k := by rw [State.flagMark, State.flagMark, h]

theorem flagIn_of_host (h : t.host = u.host) : t.host.flagIn = u.host.flagIn := by rw [h]

/-! ## What each operation does to its flag (R343, R344, R468, R469) -/

theorem readFlags_of_good (k n : Nat) (h : ∀ i < k, s.flagMark (n + i) = .good) : State.readFlags k s n =
    (ofLe ((List.range k).flatMap fun i => leBytes 8 (s.flag (n + i)).toNat), false, s) := by
  induction k generalizing n with
  | zero => rfl
  | succ k ih =>
    have hrest : ∀ i < k, s.flagMark (n + 1 + i) = .good := fun i hi => by
      rw [Nat.add_assoc, Nat.add_comm 1]
      exact h (i + 1) (by omega)
    have hfirst : s.readFlag n = (some (s.flag n), s) := readFlag_of_good (h 0 (by omega))
    rw [State.readFlags, hfirst]
    dsimp only
    rw [ih (n + 1) hrest, List.range_succ_eq_map, List.flatMap_cons, List.flatMap_map, ofLe_flagBytes]
    simp only [Nat.add_assoc, Nat.add_comm 1, Nat.add_zero]

theorem flag_putFlag (n : Nat) (v : W64) (k : Nat) : (s.putFlag n v).flag k = if k = n then v else s.flag k := aget_aset ..

theorem flagMark_putFlag (n : Nat) (v : W64) (k : Nat) : (s.putFlag n v).flagMark k = if k = n then .good else s.flagMark k :=
  aget_aset Mark.good s.host.flagMarks n k .good

/-- A flag after a REDUCE_ADD: the sum, held in the range of a flag. -/
def flagSum (old v : W64) : W64 := BitVec.ofNat 64 (twos 64 (clampInt (intMin 64) (intMax 64) (sext 64 old.toNat + sext 64 v.toNat)))

theorem toInt_flagSum (old v : W64) : (flagSum old v).toInt = clampInt (-(2 ^ 63)) (2 ^ 63 - 1) (old.toInt + v.toInt) := by
  have hmin : intMin 64 = -(2 ^ 63) := by decide
  have hmax : intMax 64 = 2 ^ 63 - 1 := by decide
  obtain ⟨hlo, hhi⟩ := clampInt_mem (lo := -(2 ^ 63)) (hi := 2 ^ 63 - 1) (by decide) (old.toInt + v.toInt)
  rw [flagSum, hmin, hmax, sext_toNat, sext_toNat, toInt_twos hlo hhi]

theorem flagOp_read (h : ∀ i < 8, s.flagMark (n / 8 * 8 + i) = .good) : s.flagOp src n .read =
    s.reply src (bytesLine ((List.range 8).flatMap fun i => leBytes 8 (s.flag (n / 8 * 8 + i)).toNat)) 0 none := by
  rw [State.flagOp, readFlags_of_good 8 _ h]
  rfl

theorem flagOp_atomic (h : s.flagMark n = .good) (aop : Nat) (operand compare : W64) : s.flagOp src n (.atomic aop operand compare) =
    (s.flagTaken n (BitVec.ofNat 64 (atomicNew aop 64 (s.flag n).toNat operand.toNat compare.toNat))).reply src 0 (s.flag n) none := by
  rw [State.flagOp, atomicFlag_of_good h]

theorem flagOp_reduceAdd (h : s.flagMark n = .good) (v : W64) : s.flagOp src n (.reduceAdd v) =
    ((s.putFlag n (flagSum (s.flag n) v)).redSat
      (if (flagSum (s.flag n) v).toInt = (s.flag n).toInt + v.toInt then 0 else 1)).reply src 0 0 none := by
  have hsat : (sext 64 (s.flag n).toNat + sext 64 v.toNat =
      clampInt (intMin 64) (intMax 64) (sext 64 (s.flag n).toNat + sext 64 v.toNat)) ↔
      (flagSum (s.flag n) v).toInt = (s.flag n).toInt + v.toInt := by
    rw [toInt_flagSum, sext_toNat, sext_toNat]
    exact eq_comm
  unfold State.flagOp
  dsimp only
  rw [readFlag_of_good h]
  dsimp only
  rw [if_congr hsat rfl rfl]
  rfl

/-- The tile's answer to a REDUCE_ADD, with what it counts. -/
theorem does_reduceAdd {v : W64} {w : W64} {m : Nat} (hc : Clean s) (htx : TileTxn s tg tl tag)
    (hmay : s.mayFlag (.txn tg tl, n, .reduceAdd v) = true) (hn : n < flagCount) (hgood : s.flagMark n = .good)
    (hm : m = if (flagSum (s.flag n) v).toInt = (s.flag n).toInt + v.toInt then 0 else 1) (hw : w = addFld s.fab.stats0 32 16 m) :
    Does (.flagOperation (.txn tg tl) n (.reduceAdd v)) s [.flags, .host, .answers, .fab] fun t =>
      t.host = ((s.flagGone (.txn tg tl) n (.reduceAdd v)).putFlag n (flagSum (s.flag n) v)).host ∧
      t.answers = s.answers ++ [s.answerPkt tl tag (toFlits (lineBytes 0)) none] ∧
      t.fab = { s.fab with txns := s.fab.txns.filter (fun x => x.tag != tg), stats0 := w } := by
  have he := exec_flagOperation_of_below hmay hn
  have hop : (s.flagGone (.txn tg tl) n (.reduceAdd v)).flagOp (.txn tg tl) n (.reduceAdd v) =
      (((s.flagGone (.txn tg tl) n (.reduceAdd v)).putFlag n (flagSum (s.flag n) v)).redSat
        (if (flagSum (s.flag n) v).toInt = (s.flag n).toInt + v.toInt then 0 else 1)).reply (.txn tg tl) 0 0 none :=
    flagOp_reduceAdd (s := s.flagGone (.txn tg tl) n (.reduceAdd v)) hgood v
  have hu : Frame [.flags, .host] s ((s.flagGone (.txn tg tl) n (.reduceAdd v)).putFlag n (flagSum (s.flag n) v)) :=
    ((flagGone_frame hc).mono (by simp)).putFlag (by simp) n _
  have hfab := fab_of_frame hu (by simp) (by simp)
  rw [hop, ← hm, redSat_eq, hfab, ← hw] at he
  generalize (s.flagGone (.txn tg tl) n (.reduceAdd v)).putFlag n (flagSum (s.flag n) v) = u at *
  have htx' : TileTxn (u.setFab { s.fab with stats0 := w }) tg tl tag := htx
  rw [reply_txn htx'] at he
  refine Does.of_frame he (((hu.mono (by simp)).setFab (by simp) (by rw [hfab])).txnAnswered (by simp) (by simp) 0 none) ⟨rfl, ?_, rfl⟩
  obtain ⟨hanswers, -⟩ := txnAnswered_spec (tg := tg) (tl := tl) (tag := tag) hu (by simp) 0 none
  exact (answers_txnAnswered_setFab (by rw [hfab]) 0 none).trans hanswers

/-! ## The scrubber (R468) -/

/-- What the scrubber leaves of a flag's error. -/
def Mark.scrubbed : Mark → Mark
  | .single _ => .good
  | .double _ _ => .poison
  | m => m

theorem exec_flagScrub (s : State) : exec (.flagScrub .ok) s = done s ((s.setFlagMark s.host.flagScrub
    (Mark.scrubbed (s.flagMark s.host.flagScrub))).updHost fun h => { h with flagScrub := (s.host.flagScrub + 1) % flagCount }) := rfl

theorem Frame.setFlagMark (h : Frame l s t) (hl : .flags ∈ l) (n : Nat) (m : Mark) : Frame l s (t.setFlagMark n m) := by
  refine h.extend rfl ⟨rfl, rfl, rfl, rfl⟩ fun p hp => ?_
  cases p
  case flags => exact absurd hl hp
  all_goals simp [Piece.same]

theorem does_flagScrub (hc : Clean s) : Does (.flagScrub .ok) s [.flags, .host] fun t =>
    t.host.flagScrub = (s.host.flagScrub + 1) % flagCount ∧ t.host.flags = s.host.flags ∧
    ∀ k, t.flagMark k = if k = s.host.flagScrub then Mark.scrubbed (s.flagMark s.host.flagScrub) else s.flagMark k := by
  refine Does.of_frame (exec_flagScrub s) ?_ ⟨rfl, rfl, fun k => aget_aset Mark.good s.host.flagMarks _ k _⟩
  exact ((Frame.refl hc).setFlagMark (by simp) _ _).updHost (by simp) ⟨rfl, rfl, rfl, rfl, rfl, rfl, rfl⟩

/-! ## Obligation O29 -/

/-- Settles O29: each operation changes its flag as its lemma says, and its answer is that of one lemma over the operation. -/
theorem flagArea : Obligations.FlagArea := by
  unfold Obligations.FlagArea
  refine ⟨fun s tg tl tag n aop act v operand compare hc htx => ?_, fun s b c hc => ?_⟩
  · refine ⟨fun hheld => Does.of_idle hc (exec_flagOperation_of_held hheld), fun hn hmay hgood => ?_, fun hn hgood => ⟨fun hmay => ?_,
      fun hmay => ?_, fun hmay => ?_⟩, fun hn hmay => ?_⟩
    · have he := exec_flagOperation_of_below hmay hn
      rw [flagOp_read (s := s.flagGone (.txn tg tl) n .read) hgood] at he
      exact (Does.of_txnReply (old := 0) htx he (flagGone_frame hc) (by simp) (by simp)).imp
        fun t ⟨hhost, hans⟩ => ⟨flagIn_of_host hhost, hans⟩
    · have hu : Frame [.flags, .host] s ((s.flagGone (.txn tg tl) n (.write v)).putFlag n v) :=
        ((flagGone_frame hc).mono (by simp)).putFlag (by simp) n v
      refine (Does.of_txnReply (old := 0) htx (exec_flagOperation_of_below hmay hn) hu (by simp) (by simp)).imp
        fun t ⟨hhost, hans⟩ => ⟨fun k => ?_, fun k => ?_, flagIn_of_host hhost, hans⟩
      · exact (flag_of_host hhost k).trans (flag_putFlag n v k)
      · refine (flagMark_of_host hhost k).trans ((flagMark_putFlag n v k).trans ?_)
        split_ifs with hk
        · rw [hk, hgood]
        · rfl
    · have he := exec_flagOperation_of_below hmay hn
      rw [flagOp_atomic (s := s.flagGone (.txn tg tl) n (.atomic aop operand compare)) hgood] at he
      have hu : Frame [.flags, .host, .slice] s ((s.flagGone (.txn tg tl) n (.atomic aop operand compare)).flagTaken n
          (BitVec.ofNat 64 (atomicNew aop 64 (s.flag n).toNat operand.toNat compare.toNat))) :=
        (((flagGone_frame hc).mono (by simp)).putFlag (by simp) n _).flagProgress (by simp) n
      exact (Does.of_txnReply htx he hu (by simp) (by simp)).imp fun t ⟨hhost, hans⟩ =>
        ⟨fun k => (flag_of_host hhost k).trans (flag_flagTaken n _ k), flagIn_of_host hhost, hans⟩
    · refine (does_reduceAdd hc htx hmay hn hgood rfl rfl).imp fun t ⟨hhost, hans, hfab⟩ => ?_
      have hflag : ∀ k, t.flag k = if k = n then flagSum (s.flag n) v else s.flag k := fun k =>
        (flag_of_host hhost k).trans (flag_putFlag n _ k)
      have hself : t.flag n = flagSum (s.flag n) v := (hflag n).trans (if_pos rfl)
      refine ⟨fun k hk => (hflag k).trans (if_neg hk), ?_, flagIn_of_host hhost, hans, ?_⟩
      · rw [hself, toInt_flagSum]
      · rw [hfab, hself]
        split_ifs
        · rw [addFld_zero _ _ _ (by omega)]
        · rfl
    · exact (Does.of_txnReply (old := 0) htx (exec_flagOperation_of_past hmay hn) (flagGone_frame hc) (by simp) (by simp)).imp
        fun t ⟨hhost, hans⟩ => ⟨flagIn_of_host hhost, hans⟩
  · refine (does_flagScrub hc).imp fun t ⟨hnext, hflags, hmark⟩ => ⟨hnext, hflags, fun k hk => ?_, fun h => ?_, fun h => ?_, fun h => ?_⟩
    · rw [hmark, if_neg hk]
    · rw [hmark, if_pos rfl, h]; rfl
    · rw [hmark, if_pos rfl, h]; rfl
    · rw [hmark, if_pos rfl, h]; rfl

end Sys2Proof.Machine
end
